-- ==== Sys2Proof/Word.lean ====
section
/-!
DEFINITION. The word types of the SCA-7140: a register or element is 64 bits (R46), a mask register 128 bits (R59),
a byte 8 bits (R1).
-/

namespace Sys2Proof

/-- A 64-bit register, quadword or vector element. -/
abbrev Word := BitVec 64
/-- A byte of memory. -/
abbrev Byte := BitVec 8
/-- A mask register: bit e for element e (R59). -/
abbrev MaskReg := BitVec 128

end Sys2Proof
end

