-- ==== Sys2Proof/Syntax.lean ====
section
/-!
DEFINITION. The instructions and device steps of the SCA-7140: one constructor of `Instr` for each row of
spec/opcode_table.json. The operand types are the specifier classes of Table 7-7 and the modifier fields of Tables
7-4 to 7-6a; the arguments of a device step name the work it is about.
-/

namespace Sys2Proof

/-- Class G (R47, Table 7-7): `g0` to `g31`, or `_` (none). -/
abbrev GOp := Option (Fin 32)
/-- Class VD: `v0`-`v47` (0 to 47), `o0`-`o7` (48 to 55), or `_` (none). -/
abbrev VdOp := Option (Fin 56)
/-- Class VR: a main, operand-file or last-result register, by its specifier 0 to 59. -/
abbrev VrOp := Fin 60
/-- Class VS: a vector register, a scalar register replicated to every element (R51), or `_`. -/
inductive VsOp where
  | vec (r : Fin 60)
  | g (r : Fin 32)
  | zero
deriving DecidableEq, Repr
/-- Class M: `m0`-`m15`, or `_` (none). -/
abbrev MOp := Option (Fin 16)
/-- Class VB: `v40`-`v47`, by the number above 40 (R62). -/
abbrev VbOp := Fin 8

/-- Conditions of `B` and `SETCC` (Table 7-6). -/
inductive Cond where
  | eq | ne | lt | ge | ltu | geu
deriving DecidableEq, Repr
/-- Conditions of `BM` (Table 7-6). -/
inductive MCond where
  | any | noneSet | all | nall
deriving DecidableEq, Repr
/-- Conditions of `VCMP`, `FCMP` and, the first six, `VWAITC` (Table 7-6). -/
inductive FCond where
  | eq | ne | lt | le | gt | ge | ult | ule | ugt | uge
deriving DecidableEq, Repr
/-- Rounding modes of Table 7-4. -/
inductive Rm where
  | dyn | rne | rtz | rdn | rup | rna
deriving DecidableEq, Repr
/-- Kinds of `FCVT` (opcode 0x05 of Table 7-7). -/
inductive FcvtKind where
  | ff | toI | toN | fromI | fromN
deriving DecidableEq, Repr
/-- Operations of `AMO`, `VAMO`, `VSTA` (Table 7-7). -/
inductive AmoOp where
  | add | and | or | xor | min | max | minu | maxu | swap | fadd | fmin | fmax
deriving DecidableEq, Repr
/-- SCOPE of Table 7-5. -/
inductive Scope where
  | hart | core | cluster | device | system
deriving DecidableEq, Repr
/-- ORD of Table 7-5. -/
inductive MOrd where
  | none | acq | rel | ar
deriving DecidableEq, Repr
/-- SZ of Table 7-5: 4, 8 and 16 bytes; `rsv` is the code 11. -/
inductive Sz where
  | w | q | p | rsv
deriving DecidableEq, Repr
/-- T of Table 7-5: unordered, `.TJ`, `.TT`. -/
inductive Tick where
  | no | tj | tt
deriving DecidableEq, Repr
/-- Direction of `FENCE` (Table 7-7). -/
inductive FenceDir where
  | sv | vs | vv | all
deriving DecidableEq, Repr
/-- Kind of `TLBINV` (Table 7-7). -/
inductive InvKind where
  | page | vf | every
deriving DecidableEq, Repr
/-- Element-type tags of Table 3-3. -/
inductive Tag where
  | none | n64 | i64 | n32x2 | i32x2 | n16x4 | i16x4 | n8x8 | i8x8
  | f64 | f32x2 | f16x4 | bf16x4 | e4m3x8 | e5m2x8 | cf32 | ci32 | ci16x2 | cf16x2 | cbf16x2
deriving DecidableEq, Repr

/-- The control fields of a format R arithmetic instruction (Tables 7-1, 7-4). -/
structure VMod where
  k : Fin 16
  ke : Bool
  kz : Bool
  ca : Bool
  cb : Bool
  cc : Bool
  p : Bool
  rm : Rm
  sat : Bool
deriving DecidableEq, Repr
/-- The control fields of a format R memory instruction (Tables 7-1, 7-5). -/
structure MemX where
  k : Fin 16
  ke : Bool
  kz : Bool
  ca : Bool
  cb : Bool
  cc : Bool
  tk : Fin 8
  sz : Sz
  sx : Bool
  ord : MOrd
  scope : Scope
  t : Tick
deriving DecidableEq, Repr
/-- The fields of `LD` and `ST` (Table 7-6a); `size` is log2 of the bytes. -/
structure LdSt where
  ord : MOrd
  sp : Bool
  sx : Bool
  size : Fin 4
  t : Tick
  scope : Scope
  off : BitVec 31
deriving DecidableEq, Repr

/-- A hart: its gang (a number no other gang ever has) and its rank (R11). -/
structure HartId where
  gang : Nat
  rank : Fin 4
deriving DecidableEq, Repr

/-- Bytes of a compare-and-swap that arrives over a link (Table 18-1, R149). -/
inductive CasWidth where
  | w4 | w8 | w16
deriving DecidableEq, Repr
def CasWidth.bytes : CasWidth → Nat
  | .w4 => 4 | .w8 => 8 | .w16 => 16
/-- An access that arrives over the host or twin link (R370, R378), at a byte offset or physical address, or the host's
read of a BAR0 register of a function (R372). -/
inductive ExtAcc where
  | read (a : Nat) (n : Nat)
  | write (a : Nat) (bytes : List (BitVec 8))
  | atomic (op : AmoOp) (a : Nat) (wide : Bool) (x : BitVec 64)
  | cas (a : Nat) (n : CasWidth) (expected new : BitVec 128)
  | register (vf : Fin 64) (off : BitVec 25)
deriving DecidableEq, Repr

/-- One section of an arriving U-plane frame, as the parser of R381 reads it. -/
structure FhSection where
  startPrb : BitVec 10
  numPrb : BitVec 8
  /-- the compression used: `some w` is block floating point of width w, `none` is 16-bit values -/
  bfp : Option Nat
  /-- the width and method that an udCompHdr in the packet states, if it carries one -/
  hdr : Option (Option Nat)
  /-- another compression method, or a section extension (UNSUP of R381) -/
  unsupported : Bool
  data : List (BitVec 8)
deriving DecidableEq, Repr

/-- An arriving Ethernet frame (R381). The layouts of eCPRI and O-RAN packets are outside the spec, so a frame carries
both its bytes and what the parser reads from them. -/
structure Frame where
  ethertype : BitVec 16
  /-- eCPRI revision 1, message type 0, O-RAN U-plane, uplink, payloadVersion 1 -/
  uplane : Bool
  eaxc : BitVec 16
  frameId : BitVec 8
  subframe : BitVec 4
  slot : BitVec 6
  symbol : BitVec 6
  sections : List FhSection
  /-- the frame ends inside this section -/
  cutAt : Option Nat
  /-- bytes follow the last section -/
  trailing : Bool
  raw : List (BitVec 8)
deriving DecidableEq, Repr

/-- Where an error is found (R400, R403). -/
inductive UnitError where
  /-- an LPDDR-6 line that a demand read cannot correct (R109) -/
  | dramLine (line : Nat)
  /-- the data of a line in the L2: of device memory, or of the host's (R109) -/
  | l2Data (host : Bool) (line : Nat)
  /-- the snoop-filter entry of a line of device memory -/
  | snoopEntry (line : Nat)
  /-- a 4-byte word of a gang's scratchpad, in both bits (R113) -/
  | scratchpad (gang word : Nat)
  | regOrTile (h : HartId)
  | pairDiffers (gang : Nat)
  | commitBuffer (p : Fin 3) (job : Nat)
  | cask (query : Nat)
  | deadlineTable (p : Fin 3) (job : Nat)
  | taskTable (p : Fin 3) (ch : Fin 256)
  /-- 8 bytes at a physical address in the instruction cache of a core: refetched -/
  | instrCache (core pa : Nat)
  /-- 8 bytes at a physical address in the scalar data cache that serves a hart: refetched -/
  | dataCache (h : HartId) (pa : Nat)
  | corrected (src : BitVec 8) (unit : BitVec 16) (addr : BitVec 64) (p : Option (Fin 3))
  | l2Tags (way : Fin 16)
deriving DecidableEq, Repr

/-- How an SPDM request arrives (R409): DOE of a physical function, or MCTP through the Dorcy endpoint. -/
inductive SpdmPort where
  | doe (p : Fin 3)
  | mctp
deriving DecidableEq, Repr

/-- Every row of spec/opcode_table.json: the instructions of Table 7-7, and the steps of the device's other agents. -/
inductive Instr where
  /-- ADD (R174). Scalar ALU add of two g registers, modulo 2^64. -/
  | add (d : GOp) (a : GOp) (b : GOp)
  /-- SUB (R174). Scalar ALU subtract. -/
  | sub (d : GOp) (a : GOp) (b : GOp)
  /-- MUL (R174). Low 64 bits of the product. -/
  | mul (d : GOp) (a : GOp) (b : GOp)
  /-- MULHI (R174). High 64 bits of the signed or unsigned product. -/
  | mulhi (u : Bool) (d : GOp) (a : GOp) (b : GOp)
  /-- DIV (R175). Truncating division that never traps, with fixed results for a zero divisor and for overflow. -/
  | div (u : Bool) (d : GOp) (a : GOp) (b : GOp)
  /-- REM (R175). Remainder that never traps. -/
  | rem (u : Bool) (d : GOp) (a : GOp) (b : GOp)
  /-- AND (R174). Bitwise AND. -/
  | and (d : GOp) (a : GOp) (b : GOp)
  /-- OR (R174). Bitwise OR. -/
  | or (d : GOp) (a : GOp) (b : GOp)
  /-- XOR (R174). Bitwise XOR. -/
  | xor (d : GOp) (a : GOp) (b : GOp)
  /-- ANDN (R174). a AND NOT b. -/
  | andn (d : GOp) (a : GOp) (b : GOp)
  /-- SHL (R174). Shift left by b[5:0]. -/
  | shl (d : GOp) (a : GOp) (b : GOp)
  /-- SHR (R174). Logical shift right. -/
  | shr (d : GOp) (a : GOp) (b : GOp)
  /-- SAR (R174). Arithmetic shift right. -/
  | sar (d : GOp) (a : GOp) (b : GOp)
  /-- MIN (R174). Signed or unsigned minimum. -/
  | min (u : Bool) (d : GOp) (a : GOp) (b : GOp)
  /-- MAX (R174). Signed or unsigned maximum. -/
  | max (u : Bool) (d : GOp) (a : GOp) (b : GOp)
  /-- CLZ (R174). Count leading zero bits. -/
  | clz (d : GOp) (a : GOp)
  /-- POPC (R174). Count one bits. -/
  | popc (d : GOp) (a : GOp)
  /-- SEL (R174). Select a or b by g[C] nonzero. -/
  | sel (d : GOp) (a : GOp) (b : GOp) (c : GOp)
  /-- SETCC (R174). Write 1 or 0 according to a condition on a and b. -/
  | setcc (cc : Cond) (d : GOp) (a : GOp) (b : GOp)
  /-- ALUI_ADD (R176). ALUI add of a sign-extended 36-bit immediate. -/
  | aluiAdd (d : GOp) (a : GOp) (imm : BitVec 36)
  /-- ALUI_AND (R176). ALUI AND with an immediate. -/
  | aluiAnd (d : GOp) (a : GOp) (imm : BitVec 36)
  /-- ALUI_OR (R176). ALUI OR with an immediate. -/
  | aluiOr (d : GOp) (a : GOp) (imm : BitVec 36)
  /-- ALUI_XOR (R176). ALUI XOR with an immediate. -/
  | aluiXor (d : GOp) (a : GOp) (imm : BitVec 36)
  /-- ALUI_SHL (R176). ALUI shift left by an immediate from 0 to 63. -/
  | aluiShl (d : GOp) (a : GOp) (imm : BitVec 36)
  /-- ALUI_SHR (R176). ALUI logical shift right by an immediate. -/
  | aluiShr (d : GOp) (a : GOp) (imm : BitVec 36)
  /-- ALUI_SAR (R176). ALUI arithmetic shift right by an immediate. -/
  | aluiSar (d : GOp) (a : GOp) (imm : BitVec 36)
  /-- ALUI_MIN (R176). ALUI signed minimum with an immediate. -/
  | aluiMin (d : GOp) (a : GOp) (imm : BitVec 36)
  /-- ALUI_MAX (R176). ALUI signed maximum with an immediate. -/
  | aluiMax (d : GOp) (a : GOp) (imm : BitVec 36)
  /-- LI (R177). Load a sign-extended 36-bit immediate. -/
  | li (d : GOp) (imm : BitVec 36)
  /-- LIH (R177). Write bits [63:36] of a register from an immediate and keep the low bits. -/
  | lih (d : GOp) (imm : BitVec 28)
  /-- FADD (R178). Scalar floating-point add. -/
  | fadd (f64 : Bool) (rm : Rm) (d : GOp) (a : GOp) (b : GOp)
  /-- FSUB (R178). Scalar floating-point subtract. -/
  | fsub (f64 : Bool) (rm : Rm) (d : GOp) (a : GOp) (b : GOp)
  /-- FMUL (R178). Scalar floating-point multiply. -/
  | fmul (f64 : Bool) (rm : Rm) (d : GOp) (a : GOp) (b : GOp)
  /-- FMA (R178). Scalar fused multiply-add with one rounding. -/
  | fma (f64 : Bool) (rm : Rm) (d : GOp) (a : GOp) (b : GOp) (c : GOp)
  /-- FCVT (R178). Scalar conversion by kind. -/
  | fcvt (kind : FcvtKind) (f64 : Bool) (rm : Rm) (d : GOp) (a : GOp)
  /-- FCMP (R178). Scalar floating-point compare that writes 1 or 0. -/
  | fcmp (cc : FCond) (f64 : Bool) (d : GOp) (a : GOp) (b : GOp)
  /-- LD (R179). Scalar load from generic or scratchpad space. -/
  | ld (q : LdSt) (d : GOp) (a : GOp)
  /-- ST (R179). Scalar store, optionally ticket-ordered. -/
  | st (q : LdSt) (d : GOp) (a : GOp)
  /-- AMO (R181). Scalar indivisible read-modify-write at the home. -/
  | amo (op : AmoOp) (x : MemX) (d : GOp) (a : GOp) (b : GOp)
  /-- CAS (R182). Scalar compare and swap of 4, 8 or 16 bytes. -/
  | cas (x : MemX) (d : GOp) (a : GOp) (b : GOp) (c : GOp)
  /-- B (R184). Conditional branch on two scalar registers. -/
  | br (cc : Cond) (a : GOp) (b : GOp) (off : BitVec 39)
  /-- JAL (R184). Jump and link. -/
  | jal (a : GOp) (off : BitVec 39)
  /-- JALR (R184). Jump through a register and link. -/
  | jalr (d : GOp) (a : GOp) (imm : BitVec 36)
  /-- LOOP (R184). Decrement a counter and branch while it is nonzero. -/
  | loop (a : GOp) (off : BitVec 39)
  /-- BM (R185). Branch on a mask condition over bits below vl. -/
  | bm (cc : MCond) (a : MOp) (off : BitVec 39)
  /-- NOP (R186). Do nothing but advance PC. -/
  | nop
  /-- CSRR (R187). Read a CSR. -/
  | csrr (d : GOp) (num : BitVec 12)
  /-- CSRW (R187). Write a CSR. -/
  | csrw (a : GOp) (num : BitVec 12)
  /-- CSRSET (R187). Set CSR bits and return the old value. -/
  | csrset (d : GOp) (a : GOp) (num : BitVec 12)
  /-- CSRCLR (R187). Clear CSR bits and return the old value. -/
  | csrclr (d : GOp) (a : GOp) (num : BitVec 12)
  /-- SVC (R189). Retire and enter the supervisor thread, or at S call Hearth firmware. -/
  | svc (n : BitVec 16)
  /-- TRAPI (R190). Raise BREAK with a code. -/
  | trapi (n : BitVec 16)
  /-- ERET (R191). End the handler and resume the user hart at (sepc, sei). -/
  | eret
  /-- FENCE (R245). Order two sets of accesses of the hart at a scope. -/
  | fence (dir : FenceDir) (sc : Scope)
  /-- WFE (R192). Block until the event register is set or a timeout passes. -/
  | wfe (a : GOp)
  /-- SPLOCK (R194). Try once to take a scratchpad lock word. -/
  | splock (d : GOp) (a : GOp)
  /-- SPUNLOCK (R195). Release a scratchpad lock held by the caller. -/
  | spunlock (a : GOp)
  /-- TLBINV (R197). Supervisor invalidation of translations, waiting for pins and engine work. -/
  | tlbinv (kind : InvKind) (a : GOp) (b : GOp)
  /-- CKPT (R196). Mark and compare a lockstep recovery point. -/
  | ckpt
  /-- VSAVE (R198). Supervisor save of a user vector register and its tag to a save block. -/
  | vsave (tk : Fin 8) (a : GOp) (vm : Fin 48)
  /-- VREST (R198). Supervisor restore of a user vector register from a save block. -/
  | vrest (tk : Fin 8) (vm : Fin 48) (a : GOp)
  /-- HMSG (R293). Post a payload on a channel of the partition. -/
  | hmsg (a : GOp) (b : GOp)
  /-- JSPAWN (R291). Issue a launch record as a child job. -/
  | jspawn (d : GOp) (vm : Fin 48)
  /-- JEND (R292). End the hart and seal its ticket. -/
  | jend
  /-- CHBLOCK (R293). Set the blocked bit of a channel. -/
  | chblock (a : GOp)
  /-- CHUNBLOCK (R293). Clear the blocked bit and launch pending messages. -/
  | chunblock (a : GOp)
  /-- ABUMP (R294). Allocate aligned bytes from an arena by one atomic on its header. -/
  | abump (d : GOp) (a : GOp) (n : Fin 4) (al : BitVec 5)
  /-- VSETL (R203). Set vl to the smaller of the operand and 128. -/
  | vsetl (d : GOp) (a : GOp)
  /-- VTAG (R204). Set a register's tag and zero its elements. -/
  | vtag (d : VdOp) (t : Tag)
  /-- VRETAG (R204). Set a register's tag and keep its bits. -/
  | vretag (d : VdOp) (t : Tag)
  /-- VGETTAG (R205). Read a register's tag into a scalar. -/
  | vgettag (d : GOp) (a : VrOp)
  /-- VMOV (R206). Copy elements below vl unchanged. -/
  | vmov (d : VdOp) (a : VsOp)
  /-- VADD (R207). Element-wise add. -/
  | vadd (q : VMod) (d : VdOp) (a : VsOp) (b : VsOp)
  /-- VSUB (R207). Element-wise subtract. -/
  | vsub (q : VMod) (d : VdOp) (a : VsOp) (b : VsOp)
  /-- VMUL (R207). Element-wise multiply. -/
  | vmul (q : VMod) (d : VdOp) (a : VsOp) (b : VsOp)
  /-- VMULH (R207). Element-wise high half of an integer product. -/
  | vmulh (q : VMod) (d : VdOp) (a : VsOp) (b : VsOp)
  /-- VFMA (R207). Element-wise a×b+c with one rounding. -/
  | vfma (q : VMod) (d : VdOp) (a : VsOp) (b : VsOp) (c : VsOp)
  /-- VFMS (R207). Element-wise a×b−c with one rounding. -/
  | vfms (q : VMod) (d : VdOp) (a : VsOp) (b : VsOp) (c : VsOp)
  /-- VFNMA (R207). Element-wise c−a×b with one rounding. -/
  | vfnma (q : VMod) (d : VdOp) (a : VsOp) (b : VsOp) (c : VsOp)
  /-- VMIN (R207). Element-wise minimum. -/
  | vmin (q : VMod) (d : VdOp) (a : VsOp) (b : VsOp)
  /-- VMAX (R207). Element-wise maximum. -/
  | vmax (q : VMod) (d : VdOp) (a : VsOp) (b : VsOp)
  /-- VABS (R207). Element-wise absolute value. -/
  | vabs (q : VMod) (d : VdOp) (a : VsOp)
  /-- VNEG (R207). Element-wise negation. -/
  | vneg (q : VMod) (d : VdOp) (a : VsOp)
  /-- VAND (R207). Element-wise bitwise AND. -/
  | vand (q : VMod) (d : VdOp) (a : VsOp) (b : VsOp)
  /-- VOR (R207). Element-wise bitwise OR. -/
  | vor (q : VMod) (d : VdOp) (a : VsOp) (b : VsOp)
  /-- VXOR (R207). Element-wise bitwise XOR. -/
  | vxor (q : VMod) (d : VdOp) (a : VsOp) (b : VsOp)
  /-- VSHL (R207). Element-wise shift left. -/
  | vshl (q : VMod) (d : VdOp) (a : VsOp) (b : VsOp)
  /-- VSHR (R207). Element-wise logical shift right. -/
  | vshr (q : VMod) (d : VdOp) (a : VsOp) (b : VsOp)
  /-- VSAR (R207). Element-wise arithmetic shift right. -/
  | vsar (q : VMod) (d : VdOp) (a : VsOp) (b : VsOp)
  /-- VCLZ (R207). Element-wise count of leading zeros. -/
  | vclz (q : VMod) (d : VdOp) (a : VsOp)
  /-- VPOPC (R207). Element-wise count of one bits. -/
  | vpopc (q : VMod) (d : VdOp) (a : VsOp)
  /-- VSEL (R207). Element-wise select by a mask. -/
  | vsel (q : VMod) (d : VdOp) (a : VsOp) (b : VsOp) (c : MOp)
  /-- VADDC (R208). 64-bit add with carry in and carry out through a mask. -/
  | vaddc (q : VMod) (d : VdOp) (a : VsOp) (b : VsOp) (c : MOp)
  /-- VSUBB (R208). 64-bit subtract with borrow through a mask. -/
  | vsubb (q : VMod) (d : VdOp) (a : VsOp) (b : VsOp) (c : MOp)
  /-- VCMP (R209). Element-wise compare into a mask. -/
  | vcmp (q : VMod) (cc : FCond) (d : MOp) (a : VsOp) (b : VsOp)
  /-- VCVT (R210). Convert elements to a target tag, by part. -/
  | vcvt (q : VMod) (t : Tag) (part : Fin 8) (d : VdOp) (a : VsOp)
  /-- VRCP (R97). Approximate reciprocal by the fixed algorithm. -/
  | vrcp (q : VMod) (d : VdOp) (a : VsOp)
  /-- VRSQRT (R98). Approximate reciprocal square root. -/
  | vrsqrt (q : VMod) (d : VdOp) (a : VsOp)
  /-- VSQRT (R212). Correctly rounded square root. -/
  | vsqrt (q : VMod) (d : VdOp) (a : VsOp)
  /-- VDIV (R212). Correctly rounded division. -/
  | vdiv (q : VMod) (d : VdOp) (a : VsOp) (b : VsOp)
  /-- VEXP2 (R99). Approximate base-2 exponential. -/
  | vexp2 (q : VMod) (d : VdOp) (a : VsOp)
  /-- VLOG2 (R100). Approximate base-2 logarithm. -/
  | vlog2 (q : VMod) (d : VdOp) (a : VsOp)
  /-- VCMUL (R213). Complex multiply. -/
  | vcmul (q : VMod) (d : VdOp) (a : VsOp) (b : VsOp)
  /-- VCMAC (R213). Complex multiply-accumulate. -/
  | vcmac (q : VMod) (d : VdOp) (a : VsOp) (b : VsOp) (c : VsOp)
  /-- VCONJ (R213). Complex conjugate. -/
  | vconj (q : VMod) (d : VdOp) (a : VsOp)
  /-- VCABS2 (R213). Squared complex magnitude. -/
  | vcabs2 (q : VMod) (d : VdOp) (a : VsOp)
  /-- VCROT (R213). Multiply by i^k exactly. -/
  | vcrot (q : VMod) (k : Fin 4) (d : VdOp) (a : VsOp)
  /-- VBFLY (R214). Radix-2 butterfly stage of span h. -/
  | vbfly (q : VMod) (h : Fin 7) (d : VdOp) (a : VsOp) (b : VsOp)
  /-- VGJSTEP (R215). One Gauss-Jordan pivot step on small complex matrices. -/
  | vgjstep (q : VMod) (n : Fin 3) (p : Fin 8) (d : VdOp) (a : VrOp)
  /-- VBFPEXP (R216). Expand O-RAN block floating point PRBs to ci16x2. -/
  | vbfpexp (q : VMod) (w : Fin 16) (d : VdOp) (a : VrOp)
  /-- VBFPCMP (R217). Compress ci16x2 PRBs to block floating point. -/
  | vbfpcmp (q : VMod) (w : Fin 16) (d : VdOp) (a : VrOp)
  /-- VSLIDEUP (R218). Slide elements up. -/
  | vslideup (q : VMod) (d : VdOp) (a : VrOp) (b : GOp)
  /-- VSLIDEDN (R218). Slide elements down. -/
  | vslidedn (q : VMod) (d : VdOp) (a : VrOp) (b : GOp)
  /-- VPERM (R218). Permute elements by an index vector. -/
  | vperm (q : VMod) (d : VdOp) (a : VrOp) (b : VrOp)
  /-- VBCAST (R218). Broadcast one element. -/
  | vbcast (q : VMod) (d : VdOp) (a : VrOp) (b : GOp)
  /-- VCOMPRESS (R219). Pack the elements selected by a mask. -/
  | vcompress (q : VMod) (d : VdOp) (a : VrOp) (c : MOp)
  /-- VEXPAND (R219). Scatter consecutive elements to mask positions. -/
  | vexpand (q : VMod) (d : VdOp) (a : VrOp) (c : MOp)
  /-- VIOTA (R219). Write the count of set mask bits below each element. -/
  | viota (q : VMod) (d : VdOp) (c : MOp)
  /-- VZIP (R218). Interleave two registers. -/
  | vzip (q : VMod) (d : VdOp) (a : VrOp) (b : VrOp)
  /-- VUNZIP (R218). De-interleave two registers. -/
  | vunzip (q : VMod) (d : VdOp) (a : VrOp) (b : VrOp)
  /-- VREDSUM (R220). Tree sum reduction into element 0. -/
  | vredsum (q : VMod) (d : VdOp) (a : VrOp)
  /-- VREDMAX (R220). Tree maximum reduction. -/
  | vredmax (q : VMod) (d : VdOp) (a : VrOp)
  /-- VREDMIN (R220). Tree minimum reduction. -/
  | vredmin (q : VMod) (d : VdOp) (a : VrOp)
  /-- VSCAN (R221). Running sum in ascending element order. -/
  | vscan (q : VMod) (d : VdOp) (a : VrOp)
  /-- MAND (R222). Mask AND. -/
  | mand (d : MOp) (a : MOp) (b : MOp)
  /-- MOR (R222). Mask OR. -/
  | mor (d : MOp) (a : MOp) (b : MOp)
  /-- MXOR (R222). Mask XOR. -/
  | mxor (d : MOp) (a : MOp) (b : MOp)
  /-- MANDN (R222). Mask a AND NOT b. -/
  | mandn (d : MOp) (a : MOp) (b : MOp)
  /-- MSHL (R222). Shift mask bits by a signed amount. -/
  | mshl (d : MOp) (a : MOp) (b : GOp)
  /-- MPOPC (R222). Count set mask bits below vl. -/
  | mpopc (d : GOp) (a : MOp)
  /-- MFIRST (R222). Index of the lowest set mask bit below vl. -/
  | mfirst (d : GOp) (a : MOp)
  /-- MSET (R222). Write one 64-bit half of a mask. -/
  | mset (h : Bool) (d : MOp) (a : GOp)
  /-- MGET (R222). Read one 64-bit half of a mask. -/
  | mget (h : Bool) (d : GOp) (a : MOp)
  /-- VPROBE (R226). Translate and pin a range into a token. -/
  | vprobe (wr : Bool) (tk : Fin 8) (a : GOp) (b : GOp)
  /-- VRELEASE (R228). Invalidate a token and release its pins. -/
  | vrelease (tk : Fin 8)
  /-- VLD (R231). Strided vector load through a token. -/
  | vld (x : MemX) (d : VdOp) (a : GOp) (b : GOp)
  /-- VST (R231). Strided vector store, optionally ticket-ordered. -/
  | vst (x : MemX) (d : VrOp) (a : GOp) (b : GOp)
  /-- VLDX (R231). Gather through a token. -/
  | vldx (x : MemX) (d : VdOp) (a : GOp) (b : VrOp)
  /-- VSTX (R231). Scatter, optionally ticket-ordered. -/
  | vstx (x : MemX) (d : VrOp) (a : GOp) (b : VrOp)
  /-- VLDS (R231). Strided scratchpad load. -/
  | vlds (x : MemX) (d : VdOp) (a : GOp) (b : GOp)
  /-- VSTS (R231). Strided scratchpad store. -/
  | vsts (x : MemX) (d : VrOp) (a : GOp) (b : GOp)
  /-- VLDSX (R231). Scratchpad gather. -/
  | vldsx (x : MemX) (d : VdOp) (a : GOp) (b : VrOp)
  /-- VSTSX (R231). Scratchpad scatter. -/
  | vstsx (x : MemX) (d : VrOp) (a : GOp) (b : VrOp)
  /-- VLDS2 (R231). Strided scratchpad load of 16-byte pairs into two registers. -/
  | vlds2 (x : MemX) (d : VdOp) (a : GOp) (b : GOp) (c : VdOp)
  /-- VSTS2 (R231). Strided scratchpad store of 16-byte pairs. -/
  | vsts2 (x : MemX) (d : VrOp) (a : GOp) (b : GOp) (c : VrOp)
  /-- SBIND (R236). Bind a register to a stream record. -/
  | sbind (d : VbOp) (a : Fin 48)
  /-- SUNBIND (R241). Unbind a stream register. -/
  | sunbind (d : VbOp)
  /-- SSTAT (R241). Read a stream's state without popping. -/
  | sstat (d : GOp) (a : VbOp)
  /-- VAMO (R242). Vector atomic read-modify-write per element, optionally ticket-ordered. -/
  | vamo (op : AmoOp) (x : MemX) (d : VdOp) (a : GOp) (b : VrOp) (c : VsOp)
  /-- VSTA (R243). Posted vector atomic without return. -/
  | vsta (op : AmoOp) (x : MemX) (a : GOp) (b : VrOp) (c : VrOp)
  /-- VWAITC (R244). Wait until watched memory elements meet a condition or a timeout passes. -/
  | vwaitc (cc : FCond) (x : MemX) (d : MOp) (a : GOp) (b : GOp) (c : VsOp)
  /-- TSEAL (R246). Seal the hart's ticket. -/
  | tseal
  /-- TWAIT (R247). Block until a lower key is committed. -/
  | twait (t : Tick) (a : GOp) (b : GOp)
  /-- MACQ (R251). Try to acquire and zero a free accumulator tile. -/
  | macq (d : GOp) (n : Fin 4)
  /-- MREL (R252). Return a tile to the core pool. -/
  | mrel (n : Fin 4)
  /-- MZERO (R253). Zero a tile. -/
  | mzero (n : Fin 4)
  /-- MOPA (R255). Outer-product accumulate by K-groups into tiles. -/
  | mopa (q : VMod) (cj : Bool) (n : Fin 4) (a : VrOp) (b : VrOp)
  /-- MRD (R257). Read a four-row or four-column block of a tile into a register. -/
  | mrd (col : Bool) (d : VdOp) (n : Fin 4) (a : GOp)
  /-- MWR (R257). Write a register into a block of a tile. -/
  | mwr (q : VMod) (col : Bool) (n : Fin 4) (a : VrOp) (b : GOp)
  /-- MST (R258). Store a whole tile to memory. -/
  | mst (x : MemX) (sp : Bool) (n : Fin 4) (a : GOp) (b : GOp)
  /-- MLDT (R258). Load a whole tile from memory. -/
  | mldt (x : MemX) (sp : Bool) (n : Fin 4) (a : GOp) (b : GOp)
  /-- MSCALE (R259). Scale tile entries by row and column factors. -/
  | mscale (q : VMod) (n : Fin 4) (a : VsOp) (b : VsOp)
  /-- PGOPEN (R262). Open a sweep context for one attention layer. -/
  | pgopen (d : GOp) (a : Fin 48)
  /-- PGSUB (R264). Subscribe a page list and queries to a sweep. -/
  | pgsub (q : VMod) (d : GOp) (a : VrOp) (b : Fin 48) (c : GOp)
  /-- PGCLOSE (R271). Close a sweep to further subscriptions. -/
  | pgclose (a : GOp)
  /-- PGMERGE (R268). Hand a partial for a list position to the Cask. -/
  | pgmerge (q : VMod) (a : VrOp) (b : GOp) (c : GOp)
  /-- PGSTAT (R272). Read a sweep counter. -/
  | pgstat (d : GOp) (a : GOp) (which : Fin 9)
  /-- BINIT (R276). Initialise a barrier's arrival and byte quotas. -/
  | binit (n : Fin 32) (a : GOp) (b : GOp)
  /-- BARRIVE (R276). Count one arrival at a barrier. -/
  | barrive (n : Fin 32)
  /-- BEXPECT (R276). Add expected bytes to the current phase. -/
  | bexpect (n : Fin 32) (a : GOp)
  /-- BWAIT (R277). Block until the next phase and consume it. -/
  | bwait (n : Fin 32)
  /-- BTEST (R277). Test a barrier without blocking, consuming a completed phase. -/
  | btest (d : GOp) (n : Fin 32)
  /-- TCOPY (R278). Issue a copy record to the cluster's copy engine. -/
  | tcopy (a : Fin 48)
  /-- RINGCFG (R282). Configure an idle ring. -/
  | ringcfg (r : Fin 8) (a : GOp)
  /-- RCOMMIT (R283). Commit a producer stage of a ring. -/
  | rcommit (r : Fin 8) (a : GOp)
  /-- RWAIT (R283). Block until a ring stage is filled. -/
  | rwait (r : Fin 8)
  /-- RRELEASE (R283). Release the consumed stage of a ring. -/
  | rrelease (r : Fin 8)
  /-- RSTAT (R284). Read a ring counter or configuration. -/
  | rstat (d : GOp) (r : Fin 8) (which : Fin 4)
  /-- CSUBMIT (R285). Issue a coding command record to an LDPC or polar engine. -/
  | csubmit (cls : Fin 3) (a : Fin 48)
  /-- FHTX (R289). Issue a transmit record to a fronthaul port egress. -/
  | fhtx (a : Fin 48)
  /-- COPY_BYTES_LAND (R280). Bytes of a copy are written and counted to their barrier or ring stage. -/
  | copyBytesLand (copy : Nat) (n : Nat)
  /-- COPY_COMPLETE (R280). A finished copy posts its channel payload. -/
  | copyComplete (copy : Nat)
  /-- CODING_COMMAND_START (R285). A coding engine starts an accepted command. -/
  | codingCommandStart (cmd : Nat)
  /-- CODING_COMMAND_COMPLETE (R288). A coding command writes output and status and reports to its target. -/
  | codingCommandComplete (cmd : Nat)
  /-- FRONTHAUL_SEND (R290). The egress sends or drops a transmit record in its window. -/
  | fronthaulSend (tx : Nat)
  /-- FRAME_RECEIVE (R381). A port parses an arriving frame and places, queues or drops its sections. -/
  | frameReceive (port : Fin 8) (fr : Frame)
  /-- HOST_QUEUE_TRANSMIT (R380). A TXT write releases host-queue frames for sending. -/
  | hostQueueTransmit (port : Fin 8)
  /-- SWEEP_START (R267). A sweep starts fetching as SPOL gives, at a delay expiry, first subscription or close. -/
  | sweepStart (ctx : Fin 4)
  /-- PAGE_FETCH (R267). The sweep engine fetches the next page of the main or tail pass. -/
  | pageFetch (ctx : Fin 4)
  /-- PAGE_DELIVERY (R265). A fetched page is written and committed to one subscriber's ring stage. -/
  | pageDelivery (ctx : Fin 4) (page : Nat) (sb : Nat)
  /-- CASK_OVERFLOW (R269). After 2,048 stall cycles a partial goes to an overflow segment. -/
  | caskOverflow (h : HartId)
  /-- SWEEP_END (R271). A closed sweep whose passes and subscriptions are done releases pins, posts CH and frees its context. -/
  | sweepEnd (ctx : Fin 4)
  /-- LAUNCH_TAIL_WRITE (R333). A host write of LTAIL posts launch records. -/
  | launchTailWrite (p : Fin 3) (vf : Fin 64) (tail : BitVec 32)
  /-- LAUNCH_WINDOW_TAKE (R333). Hearth takes a record from a launch window when R329 permits. -/
  | launchWindowTake (p : Fin 3) (vf : Fin 64)
  /-- CHANNEL_MESSAGE_TAKE (R336). A pending or new channel message launches a job from the template. -/
  | channelMessageTake (p : Fin 3) (ch : Fin 256)
  /-- TASK_TABLE_WRITE (R334). Writing a task-table entry makes Hearth read and check its template. -/
  | taskTableWrite (p : Fin 3) (ch : Fin 256) (q0 : BitVec 64) (q1 : BitVec 64) (q2 : BitVec 64) (q3 : BitVec 64)
  /-- GANG_PLACE (R339). At a placement opportunity Hearth places gangs in ready order. -/
  | gangPlace (p : Fin 3)
  /-- HART_FRAME_SAVE (R349). Once accesses are performed the save engine writes hart frames and releases pins. -/
  | hartFrameSave (h : HartId)
  /-- GANG_FRAME_SAVE (R350). Once no engine touches the gang, scratchpad, barriers and rings are saved and resources freed. -/
  | gangFrameSave (gang : Nat)
  /-- LIGHT_PREEMPTION (R342). An urgent class-0 hart lightly pre-empts best-effort gangs on its core. -/
  | lightPreemption (core : Fin 64)
  /-- LIGHT_PREEMPTION_RESUME (R348). Lightly pre-empted gangs resume in place. -/
  | lightPreemptionResume (core : Fin 64)
  /-- SCRATCHPAD_CLEAR (R339). Released scratchpad finishes background clearing and becomes free. -/
  | scratchpadClear (core : Fin 64)
  /-- GANG_RELEASE (R26). An ended gang's slots, barriers, rings and scratchpad are released once no engine work touches them. -/
  | gangRelease (gang : Nat)
  /-- COMPARISON_TICK (R330). At each 64 ns tick deadlines are compared with dtime. -/
  | comparisonTick
  /-- ABANDON_COMPLETE (R344). When accesses are performed Hearth writes the record and posts the abandon channel. -/
  | abandonComplete (p : Fin 3) (job : Nat)
  /-- JOB_END (R30). Hearth decides a job has ended, writes its completion record and posts its channel. -/
  | jobEnd (p : Fin 3) (job : Nat)
  /-- COMMIT_RIGHT_PASS (R38). The commit right passes to the next key and its buffered entries are performed. -/
  | commitRightPass (p : Fin 3) (job : Nat) (tree : Bool)
  /-- COMMIT_SPILL (R40). After 4,096 stall cycles a hart's entries move to a spill segment. -/
  | commitSpill (h : HartId)
  /-- BLOCKED_HART_RESUME (R33). A blocked or stalled hart resumes after the releasing event. -/
  | blockedHartResume (h : HartId)
  /-- WAIT_WATCHDOG (R125). A wait or stall of 2^24 cycles raises WATCHDOG. -/
  | waitWatchdog (h : HartId)
  /-- WFE_TIMEOUT (R192). WFE returns when its dtime timeout passes. -/
  | wfeTimeout (h : HartId)
  /-- VWAITC_TIMEOUT (R244). VWAITC ends at its timeout with the mask written. -/
  | vwaitcTimeout (h : HartId)
  /-- LOCK_HOLD_WATCHDOG (R323). A lock held past the hold limit raises WATCHDOG. -/
  | lockHoldWatchdog (h : HartId)
  /-- HANDLER_WATCHDOG (R315). A handler running 2^26 cycles without ERET kills the user hart. -/
  | handlerWatchdog (h : HartId)
  /-- ADDRESS_BREAKPOINT (R321). Fetch at BPA raises BREAK before executing. -/
  | addressBreakpoint (h : HartId)
  /-- SINGLE_STEP (R321). After one instruction past ERET the hart raises BREAK. -/
  | singleStep (h : HartId)
  /-- PIN_GRACE_EXPIRY (R363). A pin still held 100,000 ns into an invalidation revokes its token. -/
  | pinGraceExpiry (inv : Nat)
  /-- KILL (R324). Hearth service that kills the user hart with a cause. -/
  | kill (h : HartId)
  /-- HOSTQ (R377). Hearth service that posts a message to the host fault queue and waits for a reply. -/
  | hostq (h : HartId)
  /-- HOSTQ_TIMEOUT (R377). A HOSTQ call times out and returns status 4. -/
  | hostqTimeout (h : HartId)
  /-- LOG (R324). Hearth service that appends bytes to the VF log. -/
  | log (h : HartId)
  /-- ABANDON (R324). Hearth service that abandons the job as at a missed deadline. -/
  | abandon (h : HartId)
  /-- INFO (R324). Hearth service that returns SVER and cap1. -/
  | info (h : HartId)
  /-- FAULT_QUEUE_REPLY (R377). A host write of FQRS answers a HOSTQ call. -/
  | faultQueueReply (p : Fin 3) (vf : Fin 64) (seq : BitVec 32)
  /-- INVALIDATE_PAGE (R375). IGO with IKIND page starts a host invalidation of one page. -/
  | invalidatePage (p : Fin 3) (vf : Fin 64) (va : BitVec 56)
  /-- INVALIDATE_FUNCTION (R375). IGO with IKIND function starts an invalidation of the whole function. -/
  | invalidateFunction (p : Fin 3) (vf : Fin 64)
  /-- INVALIDATION_COMPLETE (R375). IBUSY clears when the invalidation's conditions hold. -/
  | invalidationComplete (p : Fin 3) (vf : Fin 64)
  /-- JOB_KILL_REQUEST (R376). A host write of KILL ends a job KILLED. -/
  | jobKillRequest (p : Fin 3) (vf : Fin 64) (job : BitVec 40)
  /-- FUNCTION_CONFIG_WRITE (R373). A write of ROOT or SVEC, ignored while a job of the function is in flight. -/
  | functionConfigWrite (p : Fin 3) (vf : Fin 64) (off : BitVec 16) (v : BitVec 64)
  /-- ARENA_GRANT (R374). A write of ABASEn with AGn grants an arena. -/
  | arenaGrant (p : Fin 3) (vf : Fin 64) (n : Fin 4) (v : BitVec 64)
  /-- PLACEMENT_ENTRY_WRITE (R382). A placement entry write takes effect for later sections. -/
  | placementEntryWrite (p : Fin 3) (port : Fin 8) (i : Fin 1024) (q0 : BitVec 64) (q1 : BitVec 64) (q2 : BitVec 64) (q3 : BitVec 64)
  /-- FLOW_ENTRY_WRITE (R382). A flow entry write, which resets its sequence number. -/
  | flowEntryWrite (p : Fin 3) (port : Fin 8) (i : Fin 512) (q0 : BitVec 64) (q1 : BitVec 64) (q2 : BitVec 64) (q3 : BitVec 64)
  /-- PORT_CONFIG_WRITE (R379). A write of PCFG sets a port's rate and MTU. -/
  | portConfigWrite (p : Fin 3) (port : Fin 8) (off : BitVec 16) (v : BitVec 64)
  /-- TSET (R386). Set dtime when no job is in flight, else set TERR. -/
  | tset (p : Fin 3) (v : BitVec 64)
  /-- TOFF (R386). Add a signed offset to the slew remainder. -/
  | toff (p : Fin 3) (v : BitVec 64)
  /-- HOLDOVER_TIMEOUT (R387). 16 s without servo writes moves STATE from locked to holdover. -/
  | holdoverTimeout
  /-- HOST_MEMORY_ACCESS (R370). A host access to device memory is performed at the home slice. -/
  | hostMemoryAccess (p : Fin 3) (acc : ExtAcc)
  /-- HOST_ERROR_COMPLETION (R371). An error or timed-out host completion poisons a read or fails a write. -/
  | hostErrorCompletion (wr : Bool) (pa : Nat)
  /-- TWIN_ACCESS (R378). An incoming twin access is performed or refused under TWGRANT. -/
  | twinAccess (acc : ExtAcc)
  /-- HOST_LINK_TRAIN (R369). The host link trains, retrains or fails and cap3 reports it. -/
  | hostLinkTrain (gen : BitVec 4) (width : BitVec 5) (cxl : BitVec 4) (hostc : Bool)
  /-- TWIN_LINK_TRAIN (R378). The twin link trains, retrains or fails. -/
  | twinLinkTrain (gen : BitVec 4) (width : BitVec 4)
  /-- PORT_LINK_CHANGE (R379). A fronthaul port link goes up or down. -/
  | portLinkChange (port : Fin 8) (up : Bool)
  /-- L2_FILL (R108). A line fill arrives and serves waiting requesters in order. -/
  | l2Fill (line : Nat) (way : Fin 16)
  /-- PARTITION_GO (R391). GO checks the entry, verifies firmware and moves the partition to RUN. -/
  | partitionGo (p : Fin 3)
  /-- PARTITION_RST (R397). RST moves a partition to RESET through its reset steps. -/
  | partitionRst (p : Fin 3)
  /-- FIRMWARE_SWITCH (R399). FWGO verifies a new Hearth image and starts a switch. -/
  | firmwareSwitch (p : Fin 3)
  /-- FIRMWARE_SWITCH_COMPLETE (R328). Taken calls finish or return RETRY and the new firmware serves waiting calls. -/
  | firmwareSwitchComplete (p : Fin 3)
  /-- FLR_PHYSICAL_FUNCTION (R398). Function-level reset of a physical function acts as RST then GO. -/
  | flrPhysicalFunction (p : Fin 3)
  /-- FLR_VIRTUAL_FUNCTION (R398). Function-level reset of a virtual function ends its jobs and resets its block. -/
  | flrVirtualFunction (p : Fin 3) (vf : Fin 64)
  /-- PATROL_SCRUB (R401). Patrol scrub reads and rewrites lines of granted groups. -/
  | patrolScrub (line : Nat) (bad : Option Bool)
  /-- CHANNEL_FAIL (R402). A channel is marked failed and its group returns poison. -/
  | channelFail (ch : Fin 32)
  /-- REGISTER_ERROR (R403). An uncorrected register, tile or table entry error kills, fails or abandons as given. -/
  | registerError (e : UnitError)
  /-- UNIT_RETIRE (R406). A RETIRE write records units to retire at the next reset. -/
  | unitRetire (units : BitVec 40)
  /-- CORE_FENCE (R406). A FENCE write removes a core from placement at once. -/
  | coreFence (cores : BitVec 64)
  /-- PLIM_WRITE (R411). Set the package power limit, clamped to range. -/
  | plimWrite (v : BitVec 64)
  /-- POWER_LIMIT_THROTTLE (R411). Averaged power or temperature lowers the clock, at most to the floor, setting PLIMX. -/
  | powerLimitThrottle (watts : BitVec 10) (temp : BitVec 16)
  /-- THERMAL_TRIP (R411). At 110 °C the device asserts thermal trip, stops partitions and holds reset. -/
  | thermalTrip
  /-- POWER_ON_RESET (R410). Power-good and PERST# deassertion start boot and bring-up. -/
  | powerOnReset
  /-- HOUSEKEEPING_READ (R412). Vendor-defined MCTP read of a housekeeping register. -/
  | housekeepingRead (off : BitVec 16)
  /-- HOUSEKEEPING_WRITE (R412). Vendor-defined MCTP write of a housekeeping register, applied in arrival order. -/
  | housekeepingWrite (off : BitVec 16) (v : BitVec 64)
  /-- KEY_SLOT_REVOKE (R408). Dorcy command that irreversibly revokes a key slot. -/
  | keySlotRevoke (ks : Fin 4)
  /-- MINIMUM_SVN_RAISE (R408). Dorcy command that irreversibly raises a minimum SVN. -/
  | minimumSvnRaise (hearth : Bool) (svn : BitVec 8)
  /-- GET_VERSION (R409). SPDM request for supported versions. -/
  | getVersion (via : SpdmPort)
  /-- GET_CAPABILITIES (R409). SPDM request for capabilities. -/
  | getCapabilities (via : SpdmPort)
  /-- NEGOTIATE_ALGORITHMS (R409). SPDM algorithm negotiation. -/
  | negotiateAlgorithms (via : SpdmPort) (ver : BitVec 8) (asym : BitVec 32) (hash : BitVec 32)
  /-- GET_DIGESTS (R409). SPDM request for certificate digests. -/
  | getDigests (via : SpdmPort)
  /-- GET_CERTIFICATE (R409). SPDM request for the identity or alias certificate. -/
  | getCertificate (via : SpdmPort) (slot : BitVec 4) (off : BitVec 16) (len : BitVec 16)
  /-- CHALLENGE (R409). SPDM challenge signed by the device. -/
  | challenge (via : SpdmPort) (slot : BitVec 4) (nonce : BitVec 256)
  /-- GET_MEASUREMENTS (R409). SPDM request for the SHA-512 measurements. -/
  | getMeasurements (via : SpdmPort) (index : BitVec 8) (sign : Bool) (nonce : BitVec 256)
  /-- REGISTER_WRITE (R6). A write to a register with no behaviour of its own. -/
  | registerWrite (p : Fin 3) (vf : Fin 64) (off : BitVec 25) (v : BitVec 64)
  /-- SYNCE_LOCK_CHANGE (R387). The device clock gains or loses frequency lock to the recovered SyncE clock of port SPORT, which sets or clears SYNCEL in cap3. -/
  | synceLockChange (up : Bool)
  /-- DEVICE_RESET (R410). PERST# assertion or loss of power-good resets the whole device: partitions go to OFF and pending retirements take effect. -/
  | deviceReset
  /-- TWIN_REFUSED_WRITE (R378). The twin refuses a posted write outside TWGRANT, and the requesting job ends FAILED with fault cause POISON. -/
  | twinRefusedWrite (p : Fin 3) (job : Nat)
  /-- LATE_POISON (R234). An accepted VSTA or VAMO element is performed at its home after retirement, meets a poisoned word and makes the job end FAILED with cause POISON. -/
  | latePoison (p : Fin 3) (job : Nat) (idx : Nat)
  /-- RECOVERY_IMAGE_DELIVERY (R407). A boot firmware image arrives through the Dorcy endpoint while the device waits in recovery, and it is verified and started. -/
  | recoveryImageDelivery (img : List (BitVec 8))
  /-- CONFIGURATION_REQUEST (R410). A PCI Express configuration request arrives from the host and receives Configuration Request Retry Status until bring-up step 5 ends. -/
  | configurationRequest
  /-- CXL_CACHE_SNOOP (R147). The host snoops a HOSTC line held by the device's home slice over CXL.cache, and the slice gives up or shares its ownership. -/
  | cxlCacheSnoop (pa : Nat) (inval : Bool)
deriving DecidableEq, Repr

end Sys2Proof
end

