-- ==== Sys2Proof/Config.lean ====
section
/-!
DEFINITION. What the spec leaves open or takes from documents outside it, as constants without a body: nothing can be
proved of their values (log entries 2, 9, 11).
-/

namespace Sys2Proof.Config

/-- A value the spec leaves open, by the number of its use (log entry 2). -/
opaque freeWord : Nat → BitVec 64
/-- Data that an IO device answers with (R105, R133), by the number of the read. -/
opaque ioData : Nat → BitVec 64
/-- The twin's TWGRANT at a cycle: the channel groups of the twin that it lets this device reach (R378). -/
opaque twinGrant : Nat → BitVec 8
/-- SHA-512 of a byte string, as a number (R407). -/
opaque sha512 : List (BitVec 8) → Nat
/-- The fused key hash of a slot (R408). -/
opaque keyHash : Fin 4 → Nat
/-- RSASSA-PSS verification: modulus and exponent, signature, digest (R407). -/
opaque pssValid : List (BitVec 8) → List (BitVec 8) → Nat → Bool
/-- Digest of the boot ROM, and of the fuses and retirement record (R409). -/
opaque romDigest : Nat
/-- Bytes of an SPDM response, by request code and its parameters and the measurements (R409; DSP0274 is outside the
spec). -/
opaque spdmBytes : Nat → List Nat → List (BitVec 8)
/-- The rows of the base graph (TS 38.212 Tables 5.3.2-2, 5.3.2-3): for each row, its columns and V values, for base
graph 2 or not and the lifting size (R286). -/
opaque baseGraph : Bool → Nat → List (List (Nat × Nat))
/-- The codeword d of TS 38.212 §5.3.2: base graph 2 or not, lifting size, input bits (R286). -/
opaque ldpcEncode : Bool → Nat → List Bool → List Bool
/-- The kind of an input bit of a polar code, 0 frozen, 1 parity check, 2 information (TS 38.212 §5.3.1.2), for K, E, n,
NPC, NPCWM and its index (R287). -/
opaque polarKind : Nat → Nat → Nat → Nat → Bool → Nat → Nat
/-- The earlier bits whose parity a parity-check bit takes (TS 38.212 §5.3.1.2), by K, E, n, NPC, NPCWM and its index. -/
opaque polarParity : Nat → Nat → Nat → Nat → Bool → Nat → List Nat
/-- The n that TS 38.212 §5.3.1 derives for K and E, for the CRC length (R285). -/
opaque polarN : Nat → Nat → Nat → Nat
/-- Whether TS 38.212 §5.3.1 allows K for E (Table 12-10). -/
opaque polarAllows : Nat → Nat → Bool
/-- Rate recovery of §5.4.1 with IBIL undone, for K, E, n, IBIL and a position of y: the received values that add to it,
none of them where it is punctured, or `none` where it is shortened. -/
opaque polarSource : Nat → Nat → Nat → Bool → Nat → Option (List Nat)
/-- The input bit interleaver of §5.3.1.1 for K bits: where the bit at a position comes from. -/
opaque polarInterleave : Nat → Nat → Nat
/-- The E bits of §5.3.1 and §5.4.1, for the list K, E, n, CRC code, IIL, IBIL, NPC, NPCWM and the payload bits. -/
opaque polarEncode : List Nat → List Bool → List Bool
/-- Whether a polar record encodes: the spec names both directions and no field that chooses (R285), so it is a function
of the record. -/
opaque polarEncodes : List Nat → Bool
/-- Bytes of a sent packet beside its payload, by its layouts in IEEE 802.1Q, eCPRI 2.0 and O-RAN: C-plane or not, VLAN
tag, udCompHdr (R290). -/
opaque packetOverhead : Bool → Bool → Bool → Nat
/-- Start of a symbol whose fields lie outside the ranges of R389, for which the spec states none. -/
opaque symbolStart : List Nat → Int
/-- Quadword k of an error-log entry (R404), whose 32 bytes the spec does not lay out: source, unit, address, partition
plus 1, time and severity. -/
opaque errLogWord : List Nat → Nat → BitVec 64
end Sys2Proof.Config
end

