-- ==== Sys2Proof/WellFormed.lean ====
section
/-!
DEFINITION. Well-formed instructions: the field values that raise ILLEGAL from the instruction word alone
(R159 to R165, and the operand rules of the entries), as a Bool on the syntax.
-/

namespace Sys2Proof

/-- KE = 0 requires K = 0 and KZ = 0 (R159). -/
def VMod.maskOk (q : VMod) : Bool := q.ke || (q.k == 0 && !q.kz)
/-- The limits of R159 and R160 on the control fields: which of K and KE, KZ, CA, CB, CC, P, RM and SAT may be nonzero. -/
def VMod.ok (q : VMod) (ke kz ca cb cc p rm sat : Bool) : Bool :=
  q.maskOk && (ke || !q.ke) && (kz || !q.kz) && (ca || !q.ca) && (cb || !q.cb) && (cc || !q.cc)
    && (p || !q.p) && (rm || q.rm == .dyn) && (sat || !q.sat)
/-- KE = 0 requires K = 0 and KZ = 0 (R159). -/
def MemX.maskOk (x : MemX) : Bool := x.ke || (x.k == 0 && !x.kz)
/-- The limits of R159 and R161 on a memory instruction's control fields. -/
def MemX.ok (x : MemX) (ke kz cb cc tick : Bool) : Bool :=
  x.maskOk && (ke || !x.ke) && (kz || !x.kz) && !x.ca && (cb || !x.cb) && (cc || !x.cc)
    && (tick || x.t == .no) && (x.ord != .none || x.scope == .hart) && (!x.sx || x.sz == .w)
/-- The limits of R161 and R162 on `LD`. -/
def LdSt.okLd (q : LdSt) : Bool :=
  q.t == .no && !(q.sx && q.size == 3) && (q.ord != .none || q.scope == .hart)
/-- The limits of R161 and R162 on `ST`: SX is 0, and a scratchpad store takes no T (R180). -/
def LdSt.okSt (q : LdSt) : Bool :=
  !q.sx && (!q.sp || q.t == .no) && (q.ord != .none || q.scope == .hart)
/-- A `CAS.P` register is even-numbered, or `_` (opcode 0x09 of Table 7-7). -/
def evenG (r : GOp) : Bool := match r with | some n => n.val % 2 == 0 | none => true
/-- The condition codes that an integer compare takes (R163, `VWAITC`). -/
def FCond.isInt (c : FCond) : Bool :=
  match c with | .eq | .ne | .lt | .le | .gt | .ge => true | _ => false
/-- Part and SAT values of `VCVT` that some source tag makes legal for a target (R165, R201, R211). -/
def Tag.cvtOk (t : Tag) (part : Fin 8) (sat : Bool) : Bool :=
  match t with
  | .none => false
  | .n64 | .i64 | .n8x8 | .i8x8 | .e4m3x8 | .e5m2x8 => true
  | .n32x2 | .i32x2 | .n16x4 | .i16x4 => decide (part.val < 4)
  | .f64 => !sat
  | .f32x2 | .f16x4 | .bf16x4 => !sat && decide (part.val < 4)
  | .ci32 | .ci16x2 => decide (part.val < 2)
  | .cf32 | .cf16x2 | .cbf16x2 => !sat && decide (part.val < 2)
/-- An instruction whose fields Table 7-7 and Tables 7-4 to 7-6a assign (R164, R165). A device step is not a word. -/
def Instr.wf : Instr → Bool
  | .add _ _ _ => true
  | .sub _ _ _ => true
  | .mul _ _ _ => true
  | .mulhi _ _ _ _ => true
  | .div _ _ _ _ => true
  | .rem _ _ _ _ => true
  | .and _ _ _ => true
  | .or _ _ _ => true
  | .xor _ _ _ => true
  | .andn _ _ _ => true
  | .shl _ _ _ => true
  | .shr _ _ _ => true
  | .sar _ _ _ => true
  | .min _ _ _ _ => true
  | .max _ _ _ _ => true
  | .clz _ _ => true
  | .popc _ _ => true
  | .sel _ _ _ _ => true
  | .setcc _ _ _ _ => true
  | .aluiAdd _ _ _ => true
  | .aluiAnd _ _ _ => true
  | .aluiOr _ _ _ => true
  | .aluiXor _ _ _ => true
  | .aluiShl d a imm => decide (imm.toNat < 64)
  | .aluiShr d a imm => decide (imm.toNat < 64)
  | .aluiSar d a imm => decide (imm.toNat < 64)
  | .aluiMin _ _ _ => true
  | .aluiMax _ _ _ => true
  | .li _ _ => true
  | .lih _ _ => true
  | .fadd _ _ _ _ _ => true
  | .fsub _ _ _ _ _ => true
  | .fmul _ _ _ _ _ => true
  | .fma _ _ _ _ _ _ => true
  | .fcvt _ _ _ _ _ => true
  | .fcmp _ _ _ _ _ => true
  | .ld q d a => q.okLd
  | .st q d a => q.okSt
  | .amo op x d a b => x.ok false false false false true && (x.sz == .w || x.sz == .q) && (x.tk == 0)
  | .cas x d a b c => x.ok false false false false true && (x.sz != .rsv) && (x.tk == 0) && (x.sz != .p || (evenG d && evenG b && evenG c))
  | .br _ _ _ _ => true
  | .jal _ _ => true
  | .jalr _ _ _ => true
  | .loop _ _ => true
  | .bm _ _ _ => true
  | .nop => true
  | .csrr _ _ => true
  | .csrw _ _ => true
  | .csrset _ _ _ => true
  | .csrclr _ _ _ => true
  | .svc _ => true
  | .trapi _ => true
  | .eret => true
  | .fence dir sc => (sc != .hart)
  | .wfe _ => true
  | .splock _ _ => true
  | .spunlock _ => true
  | .tlbinv _ _ _ => true
  | .ckpt => true
  | .vsave _ _ _ => true
  | .vrest _ _ _ => true
  | .hmsg _ _ => true
  | .jspawn _ _ => true
  | .jend => true
  | .chblock _ => true
  | .chunblock _ => true
  | .abump d a n al => decide (al.toNat ≤ 16)
  | .vsetl _ _ => true
  | .vtag _ _ => true
  | .vretag _ _ => true
  | .vgettag _ _ => true
  | .vmov _ _ => true
  | .vadd q d a b => q.ok true true true true false true true true
  | .vsub q d a b => q.ok true true true true false true true true
  | .vmul q d a b => q.ok true true true true false true true true
  | .vmulh q d a b => q.ok true true true true false true true false
  | .vfma q d a b c => q.ok true true true true true true true true
  | .vfms q d a b c => q.ok true true true true true true true true
  | .vfnma q d a b c => q.ok true true true true true true true true
  | .vmin q d a b => q.ok true true true true false true true false
  | .vmax q d a b => q.ok true true true true false true true false
  | .vabs q d a => q.ok true true true false false true true true
  | .vneg q d a => q.ok true true true false false true true true
  | .vand q d a b => q.ok true true true true false true true false
  | .vor q d a b => q.ok true true true true false true true false
  | .vxor q d a b => q.ok true true true true false true true false
  | .vshl q d a b => q.ok true true true true false true true false
  | .vshr q d a b => q.ok true true true true false true true false
  | .vsar q d a b => q.ok true true true true false true true false
  | .vclz q d a => q.ok true true true false false true true false
  | .vpopc q d a => q.ok true true true false false true true false
  | .vsel q d a b c => q.ok true true true true false true true false
  | .vaddc q d a b c => q.ok true true true true false true true false
  | .vsubb q d a b c => q.ok true true true true false true true false
  | .vcmp q cc d a b => q.ok true true true true false true false false
  | .vcvt q t part d a => q.ok true true true false false true true true && t.cvtOk part q.sat
  | .vrcp q d a => q.ok true true true false false true true false
  | .vrsqrt q d a => q.ok true true true false false true true false
  | .vsqrt q d a => q.ok true true true false false true true false
  | .vdiv q d a b => q.ok true true true true false true true false
  | .vexp2 q d a => q.ok true true true false false true true false
  | .vlog2 q d a => q.ok true true true false false true true false
  | .vcmul q d a b => q.ok true true true true false true true true
  | .vcmac q d a b c => q.ok true true true true true true true true
  | .vconj q d a => q.ok true true true false false true true true
  | .vcabs2 q d a => q.ok true true true false false true true true
  | .vcrot q k d a => q.ok true true true false false true true true
  | .vbfly q h d a b => q.ok true true true true false true true true
  | .vgjstep q n p d a => q.ok true true true false false true true false && decide (p.val < 2 ^ (n.val + 1))
  | .vbfpexp q w d a => q.ok true true true false false true true false
  | .vbfpcmp q w d a => q.ok false false true false false true true false
  | .vslideup q d a b => q.ok true true true false false false true false
  | .vslidedn q d a b => q.ok true true true false false false true false
  | .vperm q d a b => q.ok true true true true false false true false
  | .vbcast q d a b => q.ok true true true false false false true false
  | .vcompress q d a c => q.ok false false true false false false true false
  | .vexpand q d a c => q.ok false false true false false false true false
  | .viota q d c => q.ok false false false false false false true false
  | .vzip q d a b => q.ok true true true true false false true false
  | .vunzip q d a b => q.ok true true true true false false true false
  | .vredsum q d a => q.ok true false true false false false true true
  | .vredmax q d a => q.ok true false true false false false true false
  | .vredmin q d a => q.ok true false true false false false true false
  | .vscan q d a => q.ok true true true false false false true true
  | .mand _ _ _ => true
  | .mor _ _ _ => true
  | .mxor _ _ _ => true
  | .mandn _ _ _ => true
  | .mshl _ _ _ => true
  | .mpopc _ _ => true
  | .mfirst _ _ => true
  | .mset _ _ _ => true
  | .mget _ _ _ => true
  | .vprobe _ _ _ _ => true
  | .vrelease _ => true
  | .vld x d a b => x.ok true true false false false && (x.sz == .w || x.sz == .q) && true
  | .vst x d a b => x.ok true false false false true && (x.sz == .w || x.sz == .q) && true && !x.sx
  | .vldx x d a b => x.ok true true true false false && (x.sz == .w || x.sz == .q) && true
  | .vstx x d a b => x.ok true false true false true && (x.sz == .w || x.sz == .q) && true && !x.sx
  | .vlds x d a b => x.ok true true false false false && (x.sz == .w || x.sz == .q) && (x.tk == 0)
  | .vsts x d a b => x.ok true false false false false && (x.sz == .w || x.sz == .q) && (x.tk == 0) && !x.sx
  | .vldsx x d a b => x.ok true true true false false && (x.sz == .w || x.sz == .q) && (x.tk == 0)
  | .vstsx x d a b => x.ok true false true false false && (x.sz == .w || x.sz == .q) && (x.tk == 0) && !x.sx
  | .vlds2 x d a b c => x.ok true true false false false && (x.sz == .p) && (x.tk == 0) && (d != c || d == none)
  | .vsts2 x d a b c => x.ok true false false true false && (x.sz == .p) && (x.tk == 0) && !x.sx
  | .sbind _ _ => true
  | .sunbind _ => true
  | .sstat _ _ => true
  | .vamo op x d a b c => x.ok true true true true true && (x.sz == .w || x.sz == .q) && true
  | .vsta op x a b c => x.ok true false true true true && (x.sz == .w || x.sz == .q) && true && (x.ord == .none || x.ord == .rel) && op != .swap
  | .vwaitc cc x d a b c => x.ok true false false true false && (x.sz == .w || x.sz == .q) && true && cc.isInt
  | .tseal => true
  | .twait t a b => (t == .tt || (t == .tj && b == none))
  | .macq _ _ => true
  | .mrel _ => true
  | .mzero _ => true
  | .mopa q cj n a b => q.ok true false true true false false false false
  | .mrd _ _ _ _ => true
  | .mwr q col n a b => q.ok false false true false false false false false
  | .mst x sp n a b => x.ok false false false false false && (x.sz == .w) && (!sp || x.tk == 0) && (x.ord == .none || x.ord == .rel) && !x.sx
  | .mldt x sp n a b => x.ok false false false false false && (x.sz == .w) && (!sp || x.tk == 0) && (x.ord == .none || x.ord == .acq) && !x.sx
  | .mscale q n a b => q.ok false false true true false false false false
  | .pgopen _ _ => true
  | .pgsub q d a b c => q.ok false false true false false false false false
  | .pgclose _ => true
  | .pgmerge q a b c => q.ok false false true false false false false false
  | .pgstat _ _ _ => true
  | .binit _ _ _ => true
  | .barrive _ => true
  | .bexpect _ _ => true
  | .bwait _ => true
  | .btest _ _ => true
  | .tcopy _ => true
  | .ringcfg _ _ => true
  | .rcommit _ _ => true
  | .rwait _ => true
  | .rrelease _ => true
  | .rstat _ _ _ => true
  | .csubmit _ _ => true
  | .fhtx _ => true
  | .copyBytesLand _ _ => true
  | .copyComplete _ => true
  | .codingCommandStart _ => true
  | .codingCommandComplete _ => true
  | .fronthaulSend _ => true
  | .frameReceive _ _ => true
  | .hostQueueTransmit _ => true
  | .sweepStart _ => true
  | .pageFetch _ => true
  | .pageDelivery _ _ _ => true
  | .caskOverflow _ => true
  | .sweepEnd _ => true
  | .launchTailWrite _ _ _ => true
  | .launchWindowTake _ _ => true
  | .channelMessageTake _ _ => true
  | .taskTableWrite _ _ _ _ _ _ => true
  | .gangPlace _ => true
  | .hartFrameSave _ => true
  | .gangFrameSave _ => true
  | .lightPreemption _ => true
  | .lightPreemptionResume _ => true
  | .scratchpadClear _ => true
  | .gangRelease _ => true
  | .comparisonTick => true
  | .abandonComplete _ _ => true
  | .jobEnd _ _ => true
  | .commitRightPass _ _ _ => true
  | .commitSpill _ => true
  | .blockedHartResume _ => true
  | .waitWatchdog _ => true
  | .wfeTimeout _ => true
  | .vwaitcTimeout _ => true
  | .lockHoldWatchdog _ => true
  | .handlerWatchdog _ => true
  | .addressBreakpoint _ => true
  | .singleStep _ => true
  | .pinGraceExpiry _ => true
  | .kill _ => true
  | .hostq _ => true
  | .hostqTimeout _ => true
  | .log _ => true
  | .abandon _ => true
  | .info _ => true
  | .faultQueueReply _ _ _ => true
  | .invalidatePage _ _ _ => true
  | .invalidateFunction _ _ => true
  | .invalidationComplete _ _ => true
  | .jobKillRequest _ _ _ => true
  | .functionConfigWrite _ _ _ _ => true
  | .arenaGrant _ _ _ _ => true
  | .placementEntryWrite _ _ _ _ _ _ _ => true
  | .flowEntryWrite _ _ _ _ _ _ _ => true
  | .portConfigWrite _ _ _ _ => true
  | .tset _ _ => true
  | .toff _ _ => true
  | .holdoverTimeout => true
  | .hostMemoryAccess _ _ => true
  | .hostErrorCompletion _ _ => true
  | .twinAccess _ => true
  | .hostLinkTrain _ _ _ _ => true
  | .twinLinkTrain _ _ => true
  | .portLinkChange _ _ => true
  | .l2Fill _ _ => true
  | .partitionGo _ => true
  | .partitionRst _ => true
  | .firmwareSwitch _ => true
  | .firmwareSwitchComplete _ => true
  | .flrPhysicalFunction _ => true
  | .flrVirtualFunction _ _ => true
  | .patrolScrub _ _ => true
  | .channelFail _ => true
  | .registerError _ => true
  | .unitRetire _ => true
  | .coreFence _ => true
  | .plimWrite _ => true
  | .powerLimitThrottle _ _ => true
  | .thermalTrip => true
  | .powerOnReset => true
  | .housekeepingRead _ => true
  | .housekeepingWrite _ _ => true
  | .keySlotRevoke _ => true
  | .minimumSvnRaise _ _ => true
  | .getVersion _ => true
  | .getCapabilities _ => true
  | .negotiateAlgorithms _ _ _ _ => true
  | .getDigests _ => true
  | .getCertificate _ _ _ _ => true
  | .challenge _ _ _ => true
  | .getMeasurements _ _ _ _ => true
  | .registerWrite _ _ _ _ => true
  | .synceLockChange _ => true
  | .deviceReset => true
  | .twinRefusedWrite _ _ => true
  | .latePoison _ _ _ => true
  | .recoveryImageDelivery _ => true
  | .configurationRequest => true
  | .cxlCacheSnoop _ _ => true

end Sys2Proof
end

