-- ==== Sys2Proof/Decode.lean ====
section
/-!
DEFINITION. The decoder and the encoder: the formats of Tables 7-1 to 7-3, the specifier classes of Table 7-7, and the
use each opcode makes of the fields (R153 to R166). A word decodes when its fields are assigned, its reserved fields
are zero, and the limits of R159 to R163 hold; every other word is no instruction (R165).
-/

namespace Sys2Proof

/-- A Bool as a one-bit number. -/
def bn (b : Bool) : Nat := if b then 1 else 0
/-- A one-bit field; a wider value is not assigned. -/
def boolF (n : Nat) : Option Bool := match n with | 0 => some false | 1 => some true | _ => none
/-- A number below m, as a field value. -/
def finF (m n : Nat) : Option (Fin m) := if h : n < m then some ⟨n, h⟩ else none
def fin3 (n : Nat) : Option (Fin 3) := finF 3 n
def fin4 (n : Nat) : Option (Fin 4) := finF 4 n
def fin7 (n : Nat) : Option (Fin 7) := finF 7 n
def fin8 (n : Nat) : Option (Fin 8) := finF 8 n
def fin9 (n : Nat) : Option (Fin 9) := finF 9 n
def fin16 (n : Nat) : Option (Fin 16) := finF 16 n
def fin32 (n : Nat) : Option (Fin 32) := finF 32 n

/-- Specifier of class G (Table 3-2). -/
def encG : GOp → Nat | some r => 64 + r.val | none => 127
def decG (n : Nat) : Option GOp :=
  if n = 127 then some none else if 64 ≤ n then (finF 32 (n - 64)).map some else none
/-- Specifier of class VD (Table 3-2). -/
def encVd : VdOp → Nat | some r => r.val | none => 127
def decVd (n : Nat) : Option VdOp := if n = 127 then some none else (finF 56 n).map some
/-- Specifier of class VR (Table 3-2). -/
def encVr (r : VrOp) : Nat := r.val
def decVr (n : Nat) : Option VrOp := finF 60 n
/-- Specifier of class VS (Table 3-2). -/
def encVs : VsOp → Nat | .vec r => r.val | .g r => 64 + r.val | .zero => 127
def decVs (n : Nat) : Option VsOp :=
  if n = 127 then some .zero else if 64 ≤ n then (finF 32 (n - 64)).map .g else (finF 60 n).map .vec
/-- Specifier of class M (Table 3-2). -/
def encM : MOp → Nat | some r => 96 + r.val | none => 127
def decM (n : Nat) : Option MOp :=
  if n = 127 then some none else if 96 ≤ n then (finF 16 (n - 96)).map some else none
/-- Specifier of class VM (Table 7-7). -/
def encVm (r : Fin 48) : Nat := r.val
def decVm (n : Nat) : Option (Fin 48) := finF 48 n
/-- Specifier of class VB: v40 to v47 (Table 7-7). -/
def encVb (r : VbOp) : Nat := 40 + r.val
def decVb (n : Nat) : Option VbOp := if 40 ≤ n then fin8 (n - 40) else none

/-- The code of a tag (Table 3-3). -/
def Tag.code : Tag → Nat
  | .none => 0 | .n64 => 1 | .i64 => 2 | .n32x2 => 3 | .i32x2 => 4 | .n16x4 => 5 | .i16x4 => 6 | .n8x8 => 7
  | .i8x8 => 8 | .f64 => 9 | .f32x2 => 10 | .f16x4 => 11 | .bf16x4 => 12 | .e4m3x8 => 13 | .e5m2x8 => 14
  | .cf32 => 15 | .ci32 => 16 | .ci16x2 => 17 | .cf16x2 => 18 | .cbf16x2 => 19

def Tag.ofCode (n : Nat) : Option Tag :=
  match n with
  | 0 => some .none
  | 1 => some .n64
  | 2 => some .i64
  | 3 => some .n32x2
  | 4 => some .i32x2
  | 5 => some .n16x4
  | 6 => some .i16x4
  | 7 => some .n8x8
  | 8 => some .i8x8
  | 9 => some .f64
  | 10 => some .f32x2
  | 11 => some .f16x4
  | 12 => some .bf16x4
  | 13 => some .e4m3x8
  | 14 => some .e5m2x8
  | 15 => some .cf32
  | 16 => some .ci32
  | 17 => some .ci16x2
  | 18 => some .cf16x2
  | 19 => some .cbf16x2
  | _ => none

/-- The code of a `B` or `SETCC` condition (Table 7-6). -/
def Cond.code : Cond → Nat
  | .eq => 0
  | .ne => 1
  | .lt => 2
  | .ge => 3
  | .ltu => 4
  | .geu => 5
def Cond.ofCode (n : Nat) : Option Cond :=
  match n with
  | 0 => some .eq
  | 1 => some .ne
  | 2 => some .lt
  | 3 => some .ge
  | 4 => some .ltu
  | 5 => some .geu
  | _ => none

/-- The code of a `BM` condition (Table 7-6). -/
def MCond.code : MCond → Nat
  | .any => 0
  | .noneSet => 1
  | .all => 2
  | .nall => 3
def MCond.ofCode (n : Nat) : Option MCond :=
  match n with
  | 0 => some .any
  | 1 => some .noneSet
  | 2 => some .all
  | 3 => some .nall
  | _ => none

/-- The code of a `VCMP`, `FCMP` or `VWAITC` condition (Table 7-6). -/
def FCond.code : FCond → Nat
  | .eq => 0
  | .ne => 1
  | .lt => 2
  | .le => 3
  | .gt => 4
  | .ge => 5
  | .ult => 10
  | .ule => 11
  | .ugt => 12
  | .uge => 13
def FCond.ofCode (n : Nat) : Option FCond :=
  match n with
  | 0 => some .eq
  | 1 => some .ne
  | 2 => some .lt
  | 3 => some .le
  | 4 => some .gt
  | 5 => some .ge
  | 10 => some .ult
  | 11 => some .ule
  | 12 => some .ugt
  | 13 => some .uge
  | _ => none

/-- The code of a rounding mode (Table 7-4). -/
def Rm.code : Rm → Nat
  | .dyn => 0
  | .rne => 1
  | .rtz => 2
  | .rdn => 3
  | .rup => 4
  | .rna => 5
def Rm.ofCode (n : Nat) : Option Rm :=
  match n with
  | 0 => some .dyn
  | 1 => some .rne
  | 2 => some .rtz
  | 3 => some .rdn
  | 4 => some .rup
  | 5 => some .rna
  | _ => none

/-- The code of an `FCVT` kind (Table 7-7). -/
def FcvtKind.code : FcvtKind → Nat
  | .ff => 0
  | .toI => 1
  | .toN => 2
  | .fromI => 3
  | .fromN => 4
def FcvtKind.ofCode (n : Nat) : Option FcvtKind :=
  match n with
  | 0 => some .ff
  | 1 => some .toI
  | 2 => some .toN
  | 3 => some .fromI
  | 4 => some .fromN
  | _ => none

/-- The code of an atomic operation (Table 7-7). -/
def AmoOp.code : AmoOp → Nat
  | .add => 0
  | .and => 1
  | .or => 2
  | .xor => 3
  | .min => 4
  | .max => 5
  | .minu => 6
  | .maxu => 7
  | .swap => 8
  | .fadd => 9
  | .fmin => 10
  | .fmax => 11
def AmoOp.ofCode (n : Nat) : Option AmoOp :=
  match n with
  | 0 => some .add
  | 1 => some .and
  | 2 => some .or
  | 3 => some .xor
  | 4 => some .min
  | 5 => some .max
  | 6 => some .minu
  | 7 => some .maxu
  | 8 => some .swap
  | 9 => some .fadd
  | 10 => some .fmin
  | 11 => some .fmax
  | _ => none

/-- The code of a scope (Table 7-5). -/
def Scope.code : Scope → Nat
  | .hart => 0
  | .core => 1
  | .cluster => 2
  | .device => 3
  | .system => 4
def Scope.ofCode (n : Nat) : Option Scope :=
  match n with
  | 0 => some .hart
  | 1 => some .core
  | 2 => some .cluster
  | 3 => some .device
  | 4 => some .system
  | _ => none

/-- The code of an ordering (Table 7-5). -/
def MOrd.code : MOrd → Nat
  | .none => 0
  | .acq => 1
  | .rel => 2
  | .ar => 3
def MOrd.ofCode (n : Nat) : Option MOrd :=
  match n with
  | 0 => some .none
  | 1 => some .acq
  | 2 => some .rel
  | 3 => some .ar
  | _ => none

/-- The code of an access size (Table 7-5). -/
def Sz.code : Sz → Nat
  | .w => 0
  | .q => 1
  | .p => 2
  | .rsv => 3
def Sz.ofCode (n : Nat) : Option Sz :=
  match n with
  | 0 => some .w
  | 1 => some .q
  | 2 => some .p
  | 3 => some .rsv
  | _ => none

/-- The code of a ticket modifier (Table 7-5). -/
def Tick.code : Tick → Nat
  | .no => 0
  | .tj => 1
  | .tt => 2
def Tick.ofCode (n : Nat) : Option Tick :=
  match n with
  | 0 => some .no
  | 1 => some .tj
  | 2 => some .tt
  | _ => none

/-- The code of a fence direction (Table 7-7). -/
def FenceDir.code : FenceDir → Nat
  | .sv => 0
  | .vs => 1
  | .vv => 2
  | .all => 3
def FenceDir.ofCode (n : Nat) : Option FenceDir :=
  match n with
  | 0 => some .sv
  | 1 => some .vs
  | 2 => some .vv
  | 3 => some .all
  | _ => none

/-- The code of a `TLBINV` kind (Table 7-7). -/
def InvKind.code : InvKind → Nat
  | .page => 0
  | .vf => 1
  | .every => 2
def InvKind.ofCode (n : Nat) : Option InvKind :=
  match n with
  | 0 => some .page
  | 1 => some .vf
  | 2 => some .every
  | _ => none

/-- The fields of a format R word below the major opcode (Table 7-1). -/
structure RF where
  fn : Nat
  d : Nat
  a : Nat
  b : Nat
  c : Nat
  k : Nat
  ke : Nat
  kz : Nat
  ca : Nat
  cb : Nat
  cc : Nat
  p : Nat
  x : Nat
deriving DecidableEq, Repr
/-- The fields of a format I word below the major opcode (Table 7-2). -/
structure IF where
  fn : Nat
  d : Nat
  a : Nat
  imm : Nat
deriving DecidableEq, Repr
/-- The fields of a format J word below the major opcode (Table 7-3). -/
structure JF where
  cnd : Nat
  a : Nat
  b : Nat
  off : Nat
deriving DecidableEq, Repr

/-- Bits of a word: n bits from bit l up. -/
def fieldN (w l n : Nat) : Nat := w / 2 ^ l % 2 ^ n

/-- The fields of a word read under format R (Table 7-1). -/
def RF.ofWord (w : Nat) : RF :=
  { fn := fieldN w 50 7, d := fieldN w 43 7, a := fieldN w 36 7, b := fieldN w 29 7, c := fieldN w 22 7,
    k := fieldN w 18 4, ke := fieldN w 17 1, kz := fieldN w 16 1, ca := fieldN w 15 1, cb := fieldN w 14 1,
    cc := fieldN w 13 1, p := fieldN w 12 1, x := fieldN w 0 12 }
/-- The fields of a word read under format I (Table 7-2). -/
def IF.ofWord (w : Nat) : IF :=
  { fn := fieldN w 50 7, d := fieldN w 43 7, a := fieldN w 36 7, imm := fieldN w 0 36 }
/-- The fields of a word read under format J (Table 7-3). -/
def JF.ofWord (w : Nat) : JF :=
  { cnd := fieldN w 53 4, a := fieldN w 46 7, b := fieldN w 39 7, off := fieldN w 0 39 }
/-- The same fields with another FN. -/
def RF.setFn (f : RF) (n : Nat) : RF := { f with fn := n }

/-- A format R word; `x` counts K, KE, KZ, CA, CB, CC, P and X as one field of 22 bits. -/
def rword (op fn d a b c x : Nat) : Nat :=
  op * 2 ^ 57 + fn * 2 ^ 50 + d * 2 ^ 43 + a * 2 ^ 36 + b * 2 ^ 29 + c * 2 ^ 22 + x
/-- A format I word. -/
def iword (op fn d a imm : Nat) : Nat := op * 2 ^ 57 + fn * 2 ^ 50 + d * 2 ^ 43 + a * 2 ^ 36 + imm
/-- A format J word. -/
def jword (op cnd a b off : Nat) : Nat := op * 2 ^ 57 + cnd * 2 ^ 53 + a * 2 ^ 46 + b * 2 ^ 39 + off

/-- P, CC, CB, CA, KZ, KE and K from bit 12 up (Table 7-1). -/
def VMod.ctl (q : VMod) : Nat :=
  bn q.p + 2 * bn q.cc + 4 * bn q.cb + 8 * bn q.ca + 16 * bn q.kz + 32 * bn q.ke + 64 * q.k.val
/-- RM and SAT of the arithmetic X field (Table 7-4). -/
def VMod.xbits (q : VMod) : Nat := 512 * q.rm.code + 256 * bn q.sat
def VMod.ofR (f : RF) : Option VMod := do
  let k ← fin16 f.k; let ke ← boolF f.ke; let kz ← boolF f.kz
  let ca ← boolF f.ca; let cb ← boolF f.cb; let cc ← boolF f.cc; let p ← boolF f.p
  let rm ← Rm.ofCode (f.x / 512); let sat ← boolF (f.x / 256 % 2)
  some { k := k, ke := ke, kz := kz, ca := ca, cb := cb, cc := cc, p := p, rm := rm, sat := sat }
/-- CC, CB, CA, KZ, KE and K from bit 12 up; P is 0 (Table 7-1). -/
def MemX.ctl (x : MemX) : Nat :=
  2 * bn x.cc + 4 * bn x.cb + 8 * bn x.ca + 16 * bn x.kz + 32 * bn x.ke + 64 * x.k.val
/-- The memory X field (Table 7-5). -/
def MemX.xbits (x : MemX) : Nat :=
  512 * x.tk.val + 128 * x.sz.code + 64 * bn x.sx + 16 * x.ord.code + 2 * x.scope.code
def MemX.ofR (f : RF) : Option MemX := do
  let k ← fin16 f.k; let ke ← boolF f.ke; let kz ← boolF f.kz
  let ca ← boolF f.ca; let cb ← boolF f.cb; let cc ← boolF f.cc
  let tk ← fin8 (f.x / 512); let sz ← Sz.ofCode (f.x / 128 % 4); let sx ← boolF (f.x / 64 % 2)
  let ord ← MOrd.ofCode (f.x / 16 % 4); let scope ← Scope.ofCode (f.x / 2 % 8); let t ← Tick.ofCode (f.fn / 32)
  some { k := k, ke := ke, kz := kz, ca := ca, cb := cb, cc := cc, tk := tk, sz := sz, sx := sx, ord := ord,
         scope := scope, t := t }
/-- FN of `LD` and `ST` (Table 7-6a). -/
def LdSt.fn (q : LdSt) : Nat := 16 * q.ord.code + 8 * bn q.sp + 4 * bn q.sx + q.size.val
/-- IMM36 of `LD` and `ST` (Table 7-6a). -/
def LdSt.imm (q : LdSt) : Nat := q.t.code * 2 ^ 34 + q.scope.code * 2 ^ 31 + q.off.toNat
def LdSt.ofFields (fn imm : Nat) : Option LdSt := do
  let ord ← MOrd.ofCode (fn / 16); let sp ← boolF (fn / 8 % 2); let sx ← boolF (fn / 4 % 2)
  let size ← fin4 (fn % 4); let t ← Tick.ofCode (imm / 2 ^ 34); let scope ← Scope.ofCode (imm / 2 ^ 31 % 8)
  some { ord := ord, sp := sp, sx := sx, size := size, t := t, scope := scope, off := BitVec.ofNat 31 (imm % 2 ^ 31) }

/-- Major opcode 0x01 of Table 7-7 (R164). -/
def decodeOp01 (f : RF) : Option Instr :=
  match f.fn with
  | 0 => do let d ← decG f.d; let a ← decG f.a; let b ← decG f.b; some (.add d a b)
  | 1 => do let d ← decG f.d; let a ← decG f.a; let b ← decG f.b; some (.sub d a b)
  | 2 => do let d ← decG f.d; let a ← decG f.a; let b ← decG f.b; some (.mul d a b)
  | 3 => do let u ← boolF (f.x % 2); let d ← decG f.d; let a ← decG f.a; let b ← decG f.b; some (.mulhi u d a b)
  | 4 => do let u ← boolF (f.x % 2); let d ← decG f.d; let a ← decG f.a; let b ← decG f.b; some (.div u d a b)
  | 5 => do let u ← boolF (f.x % 2); let d ← decG f.d; let a ← decG f.a; let b ← decG f.b; some (.rem u d a b)
  | 6 => do let d ← decG f.d; let a ← decG f.a; let b ← decG f.b; some (.and d a b)
  | 7 => do let d ← decG f.d; let a ← decG f.a; let b ← decG f.b; some (.or d a b)
  | 8 => do let d ← decG f.d; let a ← decG f.a; let b ← decG f.b; some (.xor d a b)
  | 9 => do let d ← decG f.d; let a ← decG f.a; let b ← decG f.b; some (.andn d a b)
  | 10 => do let d ← decG f.d; let a ← decG f.a; let b ← decG f.b; some (.shl d a b)
  | 11 => do let d ← decG f.d; let a ← decG f.a; let b ← decG f.b; some (.shr d a b)
  | 12 => do let d ← decG f.d; let a ← decG f.a; let b ← decG f.b; some (.sar d a b)
  | 13 => do let u ← boolF (f.x % 2); let d ← decG f.d; let a ← decG f.a; let b ← decG f.b; some (.min u d a b)
  | 14 => do let u ← boolF (f.x % 2); let d ← decG f.d; let a ← decG f.a; let b ← decG f.b; some (.max u d a b)
  | 15 => do let d ← decG f.d; let a ← decG f.a; some (.clz d a)
  | 16 => do let d ← decG f.d; let a ← decG f.a; some (.popc d a)
  | 17 => do let d ← decG f.d; let a ← decG f.a; let b ← decG f.b; let c ← decG f.c; some (.sel d a b c)
  | 18 => do let cc ← Cond.ofCode (f.x / 2); let d ← decG f.d; let a ← decG f.a; let b ← decG f.b; some (.setcc cc d a b)
  | _ => none

/-- Major opcode 0x02 of Table 7-7 (R164). -/
def decodeOp02 (f : IF) : Option Instr :=
  match f.fn with
  | 0 => do let d ← decG f.d; let a ← decG f.a; let imm ← some (BitVec.ofNat 36 f.imm); some (.aluiAdd d a imm)
  | 6 => do let d ← decG f.d; let a ← decG f.a; let imm ← some (BitVec.ofNat 36 f.imm); some (.aluiAnd d a imm)
  | 7 => do let d ← decG f.d; let a ← decG f.a; let imm ← some (BitVec.ofNat 36 f.imm); some (.aluiOr d a imm)
  | 8 => do let d ← decG f.d; let a ← decG f.a; let imm ← some (BitVec.ofNat 36 f.imm); some (.aluiXor d a imm)
  | 10 => do let d ← decG f.d; let a ← decG f.a; let imm ← some (BitVec.ofNat 36 f.imm); some (.aluiShl d a imm)
  | 11 => do let d ← decG f.d; let a ← decG f.a; let imm ← some (BitVec.ofNat 36 f.imm); some (.aluiShr d a imm)
  | 12 => do let d ← decG f.d; let a ← decG f.a; let imm ← some (BitVec.ofNat 36 f.imm); some (.aluiSar d a imm)
  | 13 => do let d ← decG f.d; let a ← decG f.a; let imm ← some (BitVec.ofNat 36 f.imm); some (.aluiMin d a imm)
  | 14 => do let d ← decG f.d; let a ← decG f.a; let imm ← some (BitVec.ofNat 36 f.imm); some (.aluiMax d a imm)
  | _ => none

/-- Major opcode 0x03 of Table 7-7 (R164). -/
def decodeOp03 (f : IF) : Option Instr :=
  match f.fn with
  | 0 => do let d ← decG f.d; let imm ← some (BitVec.ofNat 36 f.imm); some (.li d imm)
  | _ => none

/-- Major opcode 0x04 of Table 7-7 (R164). -/
def decodeOp04 (f : IF) : Option Instr :=
  match f.fn with
  | 0 => do let d ← decG f.d; let imm ← some (BitVec.ofNat 28 f.imm); some (.lih d imm)
  | _ => none

/-- Major opcode 0x05 of Table 7-7 (R164). -/
def decodeOp05 (f : RF) : Option Instr :=
  match f.fn with
  | 0 => do let f64 ← boolF (f.x % 2); let rm ← Rm.ofCode (f.x / 2 % 8); let d ← decG f.d; let a ← decG f.a; let b ← decG f.b; some (.fadd f64 rm d a b)
  | 1 => do let f64 ← boolF (f.x % 2); let rm ← Rm.ofCode (f.x / 2 % 8); let d ← decG f.d; let a ← decG f.a; let b ← decG f.b; some (.fsub f64 rm d a b)
  | 2 => do let f64 ← boolF (f.x % 2); let rm ← Rm.ofCode (f.x / 2 % 8); let d ← decG f.d; let a ← decG f.a; let b ← decG f.b; some (.fmul f64 rm d a b)
  | 3 => do let f64 ← boolF (f.x % 2); let rm ← Rm.ofCode (f.x / 2 % 8); let d ← decG f.d; let a ← decG f.a; let b ← decG f.b; let c ← decG f.c; some (.fma f64 rm d a b c)
  | 4 => do let kind ← FcvtKind.ofCode (f.x / 16); let f64 ← boolF (f.x % 2); let rm ← Rm.ofCode (f.x / 2 % 8); let d ← decG f.d; let a ← decG f.a; some (.fcvt kind f64 rm d a)
  | 5 => do let cc ← FCond.ofCode (f.x / 16); let f64 ← boolF (f.x % 2); let d ← decG f.d; let a ← decG f.a; let b ← decG f.b; some (.fcmp cc f64 d a b)
  | _ => none

/-- Major opcode 0x06 of Table 7-7 (R164). -/
def decodeOp06 (f : IF) : Option Instr :=
  do let q ← LdSt.ofFields f.fn f.imm; let d ← decG f.d; let a ← decG f.a; some (.ld q d a)

/-- Major opcode 0x07 of Table 7-7 (R164). -/
def decodeOp07 (f : IF) : Option Instr :=
  do let q ← LdSt.ofFields f.fn f.imm; let d ← decG f.d; let a ← decG f.a; some (.st q d a)

/-- Major opcode 0x08 of Table 7-7 (R164). -/
def decodeOp08 (f : RF) : Option Instr :=
  do let op ← AmoOp.ofCode (f.fn % 32); let x ← MemX.ofR f; let d ← decG f.d; let a ← decG f.a; let b ← decG f.b; some (.amo op x d a b)

/-- Major opcode 0x09 of Table 7-7 (R164). -/
def decodeOp09 (f : RF) : Option Instr :=
  do let x ← MemX.ofR f; let d ← decG f.d; let a ← decG f.a; let b ← decG f.b; let c ← decG f.c; some (.cas x d a b c)

/-- Major opcode 0x10 of Table 7-7 (R164). -/
def decodeOp10 (f : JF) : Option Instr :=
  do let cc ← Cond.ofCode f.cnd; let a ← decG f.a; let b ← decG f.b; let off ← some (BitVec.ofNat 39 f.off); some (.br cc a b off)

/-- Major opcode 0x11 of Table 7-7 (R164). -/
def decodeOp11 (f : JF) : Option Instr :=
  do let a ← decG f.a; let off ← some (BitVec.ofNat 39 f.off); some (.jal a off)

/-- Major opcode 0x12 of Table 7-7 (R164). -/
def decodeOp12 (f : IF) : Option Instr :=
  match f.fn with
  | 0 => do let d ← decG f.d; let a ← decG f.a; let imm ← some (BitVec.ofNat 36 f.imm); some (.jalr d a imm)
  | _ => none

/-- Major opcode 0x13 of Table 7-7 (R164). -/
def decodeOp13 (f : JF) : Option Instr :=
  do let a ← decG f.a; let off ← some (BitVec.ofNat 39 f.off); some (.loop a off)

/-- Major opcode 0x14 of Table 7-7 (R164). -/
def decodeOp14 (f : JF) : Option Instr :=
  do let cc ← MCond.ofCode f.cnd; let a ← decM f.a; let off ← some (BitVec.ofNat 39 f.off); some (.bm cc a off)

/-- Major opcode 0x15 of Table 7-7 (R164). -/
def decodeOp15 (f : RF) : Option Instr :=
  match f.fn with
  | 0 => some .nop
  | _ => none

/-- Major opcode 0x18 of Table 7-7 (R164). -/
def decodeOp18 (f : IF) : Option Instr :=
  match f.fn with
  | 0 => do let d ← decG f.d; let num ← some (BitVec.ofNat 12 f.imm); some (.csrr d num)
  | 1 => do let a ← decG f.a; let num ← some (BitVec.ofNat 12 f.imm); some (.csrw a num)
  | 2 => do let d ← decG f.d; let a ← decG f.a; let num ← some (BitVec.ofNat 12 f.imm); some (.csrset d a num)
  | 3 => do let d ← decG f.d; let a ← decG f.a; let num ← some (BitVec.ofNat 12 f.imm); some (.csrclr d a num)
  | _ => none

/-- Major opcode 0x19 of Table 7-7 (R164). -/
def decodeOp19 (f : IF) : Option Instr :=
  match f.fn with
  | 0 => do let n ← some (BitVec.ofNat 16 f.imm); some (.svc n)
  | _ => none

/-- Major opcode 0x1A of Table 7-7 (R164). -/
def decodeOp1A (f : IF) : Option Instr :=
  match f.fn with
  | 0 => do let n ← some (BitVec.ofNat 16 f.imm); some (.trapi n)
  | _ => none

/-- Major opcode 0x1B of Table 7-7 (R164). -/
def decodeOp1B (f : RF) : Option Instr :=
  match f.fn with
  | 0 => some .eret
  | _ => none

/-- Major opcode 0x1C of Table 7-7 (R164). -/
def decodeOp1C (f : RF) : Option Instr :=
  do let dir ← FenceDir.ofCode f.fn; let sc ← Scope.ofCode (f.x / 2); some (.fence dir sc)

/-- Major opcode 0x1D of Table 7-7 (R164). -/
def decodeOp1D (f : RF) : Option Instr :=
  match f.fn with
  | 0 => do let a ← decG f.a; some (.wfe a)
  | _ => none

/-- Major opcode 0x1E of Table 7-7 (R164). -/
def decodeOp1E (f : RF) : Option Instr :=
  match f.fn with
  | 0 => do let d ← decG f.d; let a ← decG f.a; some (.splock d a)
  | 1 => do let a ← decG f.a; some (.spunlock a)
  | _ => none

/-- Major opcode 0x1F of Table 7-7 (R164). -/
def decodeOp1F (f : RF) : Option Instr :=
  match f.fn with
  | 0 => do let kind ← InvKind.ofCode f.x; let a ← decG f.a; let b ← decG f.b; some (.tlbinv kind a b)
  | _ => none

/-- Major opcode 0x20 of Table 7-7 (R164). -/
def decodeOp20 (f : RF) : Option Instr :=
  match f.fn with
  | 0 => some .ckpt
  | _ => none

/-- Major opcode 0x21 of Table 7-7 (R164). -/
def decodeOp21 (f : RF) : Option Instr :=
  match f.fn with
  | 0 => do let tk ← fin8 (f.x / 512); let a ← decG f.a; let vm ← decVm f.b; some (.vsave tk a vm)
  | _ => none

/-- Major opcode 0x22 of Table 7-7 (R164). -/
def decodeOp22 (f : RF) : Option Instr :=
  match f.fn with
  | 0 => do let tk ← fin8 (f.x / 512); let vm ← decVm f.d; let a ← decG f.a; some (.vrest tk vm a)
  | _ => none

/-- Major opcode 0x23 of Table 7-7 (R164). -/
def decodeOp23 (f : RF) : Option Instr :=
  match f.fn with
  | 0 => do let a ← decG f.a; let b ← decG f.b; some (.hmsg a b)
  | _ => none

/-- Major opcode 0x24 of Table 7-7 (R164). -/
def decodeOp24 (f : RF) : Option Instr :=
  match f.fn with
  | 0 => do let d ← decG f.d; let vm ← decVm f.a; some (.jspawn d vm)
  | _ => none

/-- Major opcode 0x25 of Table 7-7 (R164). -/
def decodeOp25 (f : RF) : Option Instr :=
  match f.fn with
  | 0 => some .jend
  | _ => none

/-- Major opcode 0x26 of Table 7-7 (R164). -/
def decodeOp26 (f : RF) : Option Instr :=
  match f.fn with
  | 0 => do let a ← decG f.a; some (.chblock a)
  | 1 => do let a ← decG f.a; some (.chunblock a)
  | _ => none

/-- Major opcode 0x27 of Table 7-7 (R164). -/
def decodeOp27 (f : RF) : Option Instr :=
  match f.fn with
  | 0 => do let d ← decG f.d; let a ← decG f.a; let n ← fin4 (f.x % 4); let al ← some (BitVec.ofNat 5 (f.x / 4)); some (.abump d a n al)
  | _ => none

/-- Major opcode 0x30 of Table 7-7 (R164). -/
def decodeOp30 (f : RF) : Option Instr :=
  match f.fn with
  | 0 => do let d ← decG f.d; let a ← decG f.a; some (.vsetl d a)
  | 1 => do let d ← decVd f.d; let t ← Tag.ofCode f.x; some (.vtag d t)
  | 2 => do let d ← decVd f.d; let t ← Tag.ofCode f.x; some (.vretag d t)
  | 3 => do let d ← decG f.d; let a ← decVr f.a; some (.vgettag d a)
  | 4 => do let d ← decVd f.d; let a ← decVs f.a; some (.vmov d a)
  | _ => none

/-- Major opcode 0x31 of Table 7-7 (R164). -/
def decodeOp31 (f : RF) : Option Instr :=
  match f.fn with
  | 0 => do let q ← VMod.ofR f; let d ← decVd f.d; let a ← decVs f.a; let b ← decVs f.b; some (.vadd q d a b)
  | 1 => do let q ← VMod.ofR f; let d ← decVd f.d; let a ← decVs f.a; let b ← decVs f.b; some (.vsub q d a b)
  | 2 => do let q ← VMod.ofR f; let d ← decVd f.d; let a ← decVs f.a; let b ← decVs f.b; some (.vmul q d a b)
  | 3 => do let q ← VMod.ofR f; let d ← decVd f.d; let a ← decVs f.a; let b ← decVs f.b; some (.vmulh q d a b)
  | 4 => do let q ← VMod.ofR f; let d ← decVd f.d; let a ← decVs f.a; let b ← decVs f.b; let c ← decVs f.c; some (.vfma q d a b c)
  | 5 => do let q ← VMod.ofR f; let d ← decVd f.d; let a ← decVs f.a; let b ← decVs f.b; let c ← decVs f.c; some (.vfms q d a b c)
  | 6 => do let q ← VMod.ofR f; let d ← decVd f.d; let a ← decVs f.a; let b ← decVs f.b; let c ← decVs f.c; some (.vfnma q d a b c)
  | 7 => do let q ← VMod.ofR f; let d ← decVd f.d; let a ← decVs f.a; let b ← decVs f.b; some (.vmin q d a b)
  | 8 => do let q ← VMod.ofR f; let d ← decVd f.d; let a ← decVs f.a; let b ← decVs f.b; some (.vmax q d a b)
  | 9 => do let q ← VMod.ofR f; let d ← decVd f.d; let a ← decVs f.a; some (.vabs q d a)
  | 10 => do let q ← VMod.ofR f; let d ← decVd f.d; let a ← decVs f.a; some (.vneg q d a)
  | 11 => do let q ← VMod.ofR f; let d ← decVd f.d; let a ← decVs f.a; let b ← decVs f.b; some (.vand q d a b)
  | 12 => do let q ← VMod.ofR f; let d ← decVd f.d; let a ← decVs f.a; let b ← decVs f.b; some (.vor q d a b)
  | 13 => do let q ← VMod.ofR f; let d ← decVd f.d; let a ← decVs f.a; let b ← decVs f.b; some (.vxor q d a b)
  | 14 => do let q ← VMod.ofR f; let d ← decVd f.d; let a ← decVs f.a; let b ← decVs f.b; some (.vshl q d a b)
  | 15 => do let q ← VMod.ofR f; let d ← decVd f.d; let a ← decVs f.a; let b ← decVs f.b; some (.vshr q d a b)
  | 16 => do let q ← VMod.ofR f; let d ← decVd f.d; let a ← decVs f.a; let b ← decVs f.b; some (.vsar q d a b)
  | 17 => do let q ← VMod.ofR f; let d ← decVd f.d; let a ← decVs f.a; some (.vclz q d a)
  | 18 => do let q ← VMod.ofR f; let d ← decVd f.d; let a ← decVs f.a; some (.vpopc q d a)
  | 19 => do let q ← VMod.ofR f; let d ← decVd f.d; let a ← decVs f.a; let b ← decVs f.b; let c ← decM f.c; some (.vsel q d a b c)
  | 20 => do let q ← VMod.ofR f; let d ← decVd f.d; let a ← decVs f.a; let b ← decVs f.b; let c ← decM f.c; some (.vaddc q d a b c)
  | 21 => do let q ← VMod.ofR f; let d ← decVd f.d; let a ← decVs f.a; let b ← decVs f.b; let c ← decM f.c; some (.vsubb q d a b c)
  | _ => none

/-- Major opcode 0x32 of Table 7-7 (R164). -/
def decodeOp32 (f : RF) : Option Instr :=
  match f.fn with
  | 0 => do let q ← VMod.ofR f; let cc ← FCond.ofCode f.x; let d ← decM f.d; let a ← decVs f.a; let b ← decVs f.b; some (.vcmp q cc d a b)
  | _ => none

/-- Major opcode 0x33 of Table 7-7 (R164). -/
def decodeOp33 (f : RF) : Option Instr :=
  do let q ← VMod.ofR f; let t ← Tag.ofCode f.fn; let part ← fin8 (f.x % 256); let d ← decVd f.d; let a ← decVs f.a; some (.vcvt q t part d a)

/-- Major opcode 0x34 of Table 7-7 (R164). -/
def decodeOp34 (f : RF) : Option Instr :=
  match f.fn with
  | 0 => do let q ← VMod.ofR f; let d ← decVd f.d; let a ← decVs f.a; some (.vrcp q d a)
  | 1 => do let q ← VMod.ofR f; let d ← decVd f.d; let a ← decVs f.a; some (.vrsqrt q d a)
  | 2 => do let q ← VMod.ofR f; let d ← decVd f.d; let a ← decVs f.a; some (.vsqrt q d a)
  | 3 => do let q ← VMod.ofR f; let d ← decVd f.d; let a ← decVs f.a; let b ← decVs f.b; some (.vdiv q d a b)
  | 4 => do let q ← VMod.ofR f; let d ← decVd f.d; let a ← decVs f.a; some (.vexp2 q d a)
  | 5 => do let q ← VMod.ofR f; let d ← decVd f.d; let a ← decVs f.a; some (.vlog2 q d a)
  | _ => none

/-- Major opcode 0x35 of Table 7-7 (R164). -/
def decodeOp35 (f : RF) : Option Instr :=
  match f.fn with
  | 0 => do let q ← VMod.ofR f; let d ← decVd f.d; let a ← decVs f.a; let b ← decVs f.b; some (.vcmul q d a b)
  | 1 => do let q ← VMod.ofR f; let d ← decVd f.d; let a ← decVs f.a; let b ← decVs f.b; let c ← decVs f.c; some (.vcmac q d a b c)
  | 2 => do let q ← VMod.ofR f; let d ← decVd f.d; let a ← decVs f.a; some (.vconj q d a)
  | 3 => do let q ← VMod.ofR f; let d ← decVd f.d; let a ← decVs f.a; some (.vcabs2 q d a)
  | 4 => do let q ← VMod.ofR f; let k ← fin4 (f.x % 256); let d ← decVd f.d; let a ← decVs f.a; some (.vcrot q k d a)
  | _ => none

/-- Major opcode 0x36 of Table 7-7 (R164). -/
def decodeOp36 (f : RF) : Option Instr :=
  match f.fn with
  | 0 => do let q ← VMod.ofR f; let h ← fin7 (f.x % 256); let d ← decVd f.d; let a ← decVs f.a; let b ← decVs f.b; some (.vbfly q h d a b)
  | 1 => do let q ← VMod.ofR f; let n ← fin3 (f.x % 4); let p ← fin8 (f.x % 256 / 4); let d ← decVd f.d; let a ← decVr f.a; some (.vgjstep q n p d a)
  | 2 => do let q ← VMod.ofR f; let w ← fin16 (f.x % 256); let d ← decVd f.d; let a ← decVr f.a; some (.vbfpexp q w d a)
  | 3 => do let q ← VMod.ofR f; let w ← fin16 (f.x % 256); let d ← decVd f.d; let a ← decVr f.a; some (.vbfpcmp q w d a)
  | _ => none

/-- Major opcode 0x37 of Table 7-7 (R164). -/
def decodeOp37 (f : RF) : Option Instr :=
  match f.fn with
  | 0 => do let q ← VMod.ofR f; let d ← decVd f.d; let a ← decVr f.a; let b ← decG f.b; some (.vslideup q d a b)
  | 1 => do let q ← VMod.ofR f; let d ← decVd f.d; let a ← decVr f.a; let b ← decG f.b; some (.vslidedn q d a b)
  | 2 => do let q ← VMod.ofR f; let d ← decVd f.d; let a ← decVr f.a; let b ← decVr f.b; some (.vperm q d a b)
  | 3 => do let q ← VMod.ofR f; let d ← decVd f.d; let a ← decVr f.a; let b ← decG f.b; some (.vbcast q d a b)
  | 4 => do let q ← VMod.ofR f; let d ← decVd f.d; let a ← decVr f.a; let c ← decM f.c; some (.vcompress q d a c)
  | 5 => do let q ← VMod.ofR f; let d ← decVd f.d; let a ← decVr f.a; let c ← decM f.c; some (.vexpand q d a c)
  | 6 => do let q ← VMod.ofR f; let d ← decVd f.d; let c ← decM f.c; some (.viota q d c)
  | 7 => do let q ← VMod.ofR f; let d ← decVd f.d; let a ← decVr f.a; let b ← decVr f.b; some (.vzip q d a b)
  | 8 => do let q ← VMod.ofR f; let d ← decVd f.d; let a ← decVr f.a; let b ← decVr f.b; some (.vunzip q d a b)
  | _ => none

/-- Major opcode 0x38 of Table 7-7 (R164). -/
def decodeOp38 (f : RF) : Option Instr :=
  match f.fn with
  | 0 => do let q ← VMod.ofR f; let d ← decVd f.d; let a ← decVr f.a; some (.vredsum q d a)
  | 1 => do let q ← VMod.ofR f; let d ← decVd f.d; let a ← decVr f.a; some (.vredmax q d a)
  | 2 => do let q ← VMod.ofR f; let d ← decVd f.d; let a ← decVr f.a; some (.vredmin q d a)
  | 3 => do let q ← VMod.ofR f; let d ← decVd f.d; let a ← decVr f.a; some (.vscan q d a)
  | _ => none

/-- Major opcode 0x39 of Table 7-7 (R164). -/
def decodeOp39 (f : RF) : Option Instr :=
  match f.fn with
  | 0 => do let d ← decM f.d; let a ← decM f.a; let b ← decM f.b; some (.mand d a b)
  | 1 => do let d ← decM f.d; let a ← decM f.a; let b ← decM f.b; some (.mor d a b)
  | 2 => do let d ← decM f.d; let a ← decM f.a; let b ← decM f.b; some (.mxor d a b)
  | 3 => do let d ← decM f.d; let a ← decM f.a; let b ← decM f.b; some (.mandn d a b)
  | 4 => do let d ← decM f.d; let a ← decM f.a; let b ← decG f.b; some (.mshl d a b)
  | 5 => do let d ← decG f.d; let a ← decM f.a; some (.mpopc d a)
  | 6 => do let d ← decG f.d; let a ← decM f.a; some (.mfirst d a)
  | 7 => do let h ← boolF f.x; let d ← decM f.d; let a ← decG f.a; some (.mset h d a)
  | 8 => do let h ← boolF f.x; let d ← decG f.d; let a ← decM f.a; some (.mget h d a)
  | _ => none

/-- Major opcode 0x40 of Table 7-7 (R164). -/
def decodeOp40 (f : RF) : Option Instr :=
  match f.fn with
  | 0 => do let wr ← boolF (f.x / 256 % 2); let tk ← fin8 (f.x / 512); let a ← decG f.a; let b ← decG f.b; some (.vprobe wr tk a b)
  | _ => none

/-- Major opcode 0x41 of Table 7-7 (R164). -/
def decodeOp41 (f : RF) : Option Instr :=
  match f.fn with
  | 0 => do let tk ← fin8 (f.x / 512); some (.vrelease tk)
  | _ => none

/-- Major opcode 0x42 of Table 7-7 (R164). -/
def decodeOp42 (f : RF) : Option Instr :=
  do let x ← MemX.ofR f; let d ← decVd f.d; let a ← decG f.a; let b ← decG f.b; some (.vld x d a b)

/-- Major opcode 0x43 of Table 7-7 (R164). -/
def decodeOp43 (f : RF) : Option Instr :=
  do let x ← MemX.ofR f; let d ← decVr f.d; let a ← decG f.a; let b ← decG f.b; some (.vst x d a b)

/-- Major opcode 0x44 of Table 7-7 (R164). -/
def decodeOp44 (f : RF) : Option Instr :=
  do let x ← MemX.ofR f; let d ← decVd f.d; let a ← decG f.a; let b ← decVr f.b; some (.vldx x d a b)

/-- Major opcode 0x45 of Table 7-7 (R164). -/
def decodeOp45 (f : RF) : Option Instr :=
  do let x ← MemX.ofR f; let d ← decVr f.d; let a ← decG f.a; let b ← decVr f.b; some (.vstx x d a b)

/-- Major opcode 0x46 of Table 7-7 (R164). -/
def decodeOp46 (f : RF) : Option Instr :=
  do let x ← MemX.ofR f; let d ← decVd f.d; let a ← decG f.a; let b ← decG f.b; some (.vlds x d a b)

/-- Major opcode 0x47 of Table 7-7 (R164). -/
def decodeOp47 (f : RF) : Option Instr :=
  do let x ← MemX.ofR f; let d ← decVr f.d; let a ← decG f.a; let b ← decG f.b; some (.vsts x d a b)

/-- Major opcode 0x48 of Table 7-7 (R164). -/
def decodeOp48 (f : RF) : Option Instr :=
  do let x ← MemX.ofR f; let d ← decVd f.d; let a ← decG f.a; let b ← decVr f.b; some (.vldsx x d a b)

/-- Major opcode 0x49 of Table 7-7 (R164). -/
def decodeOp49 (f : RF) : Option Instr :=
  do let x ← MemX.ofR f; let d ← decVr f.d; let a ← decG f.a; let b ← decVr f.b; some (.vstsx x d a b)

/-- Major opcode 0x4A of Table 7-7 (R164). -/
def decodeOp4A (f : RF) : Option Instr :=
  do let x ← MemX.ofR f; let d ← decVd f.d; let a ← decG f.a; let b ← decG f.b; let c ← decVd f.c; some (.vlds2 x d a b c)

/-- Major opcode 0x4B of Table 7-7 (R164). -/
def decodeOp4B (f : RF) : Option Instr :=
  do let x ← MemX.ofR f; let d ← decVr f.d; let a ← decG f.a; let b ← decG f.b; let c ← decVr f.c; some (.vsts2 x d a b c)

/-- Major opcode 0x4C of Table 7-7 (R164). -/
def decodeOp4C (f : RF) : Option Instr :=
  match f.fn with
  | 0 => do let d ← decVb f.d; let a ← decVm f.a; some (.sbind d a)
  | _ => none

/-- Major opcode 0x4D of Table 7-7 (R164). -/
def decodeOp4D (f : RF) : Option Instr :=
  match f.fn with
  | 0 => do let d ← decVb f.d; some (.sunbind d)
  | _ => none

/-- Major opcode 0x4E of Table 7-7 (R164). -/
def decodeOp4E (f : RF) : Option Instr :=
  match f.fn with
  | 0 => do let d ← decG f.d; let a ← decVb f.a; some (.sstat d a)
  | _ => none

/-- Major opcode 0x50 of Table 7-7 (R164). -/
def decodeOp50 (f : RF) : Option Instr :=
  do let op ← AmoOp.ofCode (f.fn % 32); let x ← MemX.ofR f; let d ← decVd f.d; let a ← decG f.a; let b ← decVr f.b; let c ← decVs f.c; some (.vamo op x d a b c)

/-- Major opcode 0x51 of Table 7-7 (R164). -/
def decodeOp51 (f : RF) : Option Instr :=
  do let op ← AmoOp.ofCode (f.fn % 32); let x ← MemX.ofR f; let a ← decG f.a; let b ← decVr f.b; let c ← decVr f.c; some (.vsta op x a b c)

/-- Major opcode 0x52 of Table 7-7 (R164). -/
def decodeOp52 (f : RF) : Option Instr :=
  do let cc ← FCond.ofCode (f.fn % 32); let x ← MemX.ofR f; let d ← decM f.d; let a ← decG f.a; let b ← decG f.b; let c ← decVs f.c; some (.vwaitc cc x d a b c)

/-- Major opcode 0x53 of Table 7-7 (R164). -/
def decodeOp53 (f : RF) : Option Instr :=
  match f.fn with
  | 0 => some .tseal
  | _ => none

/-- Major opcode 0x54 of Table 7-7 (R164). -/
def decodeOp54 (f : RF) : Option Instr :=
  do let t ← Tick.ofCode (f.fn / 32); let a ← decG f.a; let b ← (if t = .tt then decG f.b else (some none : Option GOp)); some (.twait t a b)

/-- Major opcode 0x58 of Table 7-7 (R164). -/
def decodeOp58 (f : RF) : Option Instr :=
  do let d ← decG f.d; let n ← fin4 (f.fn % 4); some (.macq d n)

/-- Major opcode 0x59 of Table 7-7 (R164). -/
def decodeOp59 (f : RF) : Option Instr :=
  do let n ← fin4 (f.fn % 4); some (.mrel n)

/-- Major opcode 0x5A of Table 7-7 (R164). -/
def decodeOp5A (f : RF) : Option Instr :=
  do let n ← fin4 (f.fn % 4); some (.mzero n)

/-- Major opcode 0x5B of Table 7-7 (R164). -/
def decodeOp5B (f : RF) : Option Instr :=
  do let q ← VMod.ofR f; let cj ← boolF (f.fn / 4); let n ← fin4 (f.fn % 4); let a ← decVr f.a; let b ← decVr f.b; some (.mopa q cj n a b)

/-- Major opcode 0x5C of Table 7-7 (R164). -/
def decodeOp5C (f : RF) : Option Instr :=
  do let col ← boolF (f.fn / 4); let d ← decVd f.d; let n ← fin4 (f.fn % 4); let a ← decG f.a; some (.mrd col d n a)

/-- Major opcode 0x5D of Table 7-7 (R164). -/
def decodeOp5D (f : RF) : Option Instr :=
  do let q ← VMod.ofR f; let col ← boolF (f.fn / 4); let n ← fin4 (f.fn % 4); let a ← decVr f.a; let b ← decG f.b; some (.mwr q col n a b)

/-- Major opcode 0x5E of Table 7-7 (R164). -/
def decodeOp5E (f : RF) : Option Instr :=
  do let x ← MemX.ofR (f.setFn 0); let sp ← boolF (f.fn / 4); let n ← fin4 (f.fn % 4); let a ← decG f.a; let b ← decG f.b; some (.mst x sp n a b)

/-- Major opcode 0x5F of Table 7-7 (R164). -/
def decodeOp5F (f : RF) : Option Instr :=
  do let x ← MemX.ofR (f.setFn 0); let sp ← boolF (f.fn / 4); let n ← fin4 (f.fn % 4); let a ← decG f.a; let b ← decG f.b; some (.mldt x sp n a b)

/-- Major opcode 0x60 of Table 7-7 (R164). -/
def decodeOp60 (f : RF) : Option Instr :=
  do let q ← VMod.ofR f; let n ← fin4 (f.fn % 4); let a ← decVs f.a; let b ← decVs f.b; some (.mscale q n a b)

/-- Major opcode 0x62 of Table 7-7 (R164). -/
def decodeOp62 (f : RF) : Option Instr :=
  match f.fn with
  | 0 => do let d ← decG f.d; let a ← decVm f.a; some (.pgopen d a)
  | _ => none

/-- Major opcode 0x63 of Table 7-7 (R164). -/
def decodeOp63 (f : RF) : Option Instr :=
  match f.fn with
  | 0 => do let q ← VMod.ofR f; let d ← decG f.d; let a ← decVr f.a; let b ← decVm f.b; let c ← decG f.c; some (.pgsub q d a b c)
  | _ => none

/-- Major opcode 0x64 of Table 7-7 (R164). -/
def decodeOp64 (f : RF) : Option Instr :=
  match f.fn with
  | 0 => do let a ← decG f.a; some (.pgclose a)
  | _ => none

/-- Major opcode 0x65 of Table 7-7 (R164). -/
def decodeOp65 (f : RF) : Option Instr :=
  match f.fn with
  | 0 => do let q ← VMod.ofR f; let a ← decVr f.a; let b ← decG f.b; let c ← decG f.c; some (.pgmerge q a b c)
  | _ => none

/-- Major opcode 0x66 of Table 7-7 (R164). -/
def decodeOp66 (f : RF) : Option Instr :=
  match f.fn with
  | 0 => do let d ← decG f.d; let a ← decG f.a; let which ← fin9 f.x; some (.pgstat d a which)
  | _ => none

/-- Major opcode 0x68 of Table 7-7 (R164). -/
def decodeOp68 (f : RF) : Option Instr :=
  match f.fn with
  | 0 => do let n ← fin32 f.x; let a ← decG f.a; let b ← decG f.b; some (.binit n a b)
  | _ => none

/-- Major opcode 0x69 of Table 7-7 (R164). -/
def decodeOp69 (f : RF) : Option Instr :=
  match f.fn with
  | 0 => do let n ← fin32 f.x; some (.barrive n)
  | _ => none

/-- Major opcode 0x6A of Table 7-7 (R164). -/
def decodeOp6A (f : RF) : Option Instr :=
  match f.fn with
  | 0 => do let n ← fin32 f.x; let a ← decG f.a; some (.bexpect n a)
  | _ => none

/-- Major opcode 0x6B of Table 7-7 (R164). -/
def decodeOp6B (f : RF) : Option Instr :=
  match f.fn with
  | 0 => do let n ← fin32 f.x; some (.bwait n)
  | _ => none

/-- Major opcode 0x6C of Table 7-7 (R164). -/
def decodeOp6C (f : RF) : Option Instr :=
  match f.fn with
  | 0 => do let d ← decG f.d; let n ← fin32 f.x; some (.btest d n)
  | _ => none

/-- Major opcode 0x6D of Table 7-7 (R164). -/
def decodeOp6D (f : RF) : Option Instr :=
  match f.fn with
  | 0 => do let a ← decVm f.a; some (.tcopy a)
  | _ => none

/-- Major opcode 0x70 of Table 7-7 (R164). -/
def decodeOp70 (f : RF) : Option Instr :=
  match f.fn with
  | 0 => do let r ← fin8 f.x; let a ← decG f.a; some (.ringcfg r a)
  | _ => none

/-- Major opcode 0x71 of Table 7-7 (R164). -/
def decodeOp71 (f : RF) : Option Instr :=
  match f.fn with
  | 0 => do let r ← fin8 f.x; let a ← decG f.a; some (.rcommit r a)
  | _ => none

/-- Major opcode 0x72 of Table 7-7 (R164). -/
def decodeOp72 (f : RF) : Option Instr :=
  match f.fn with
  | 0 => do let r ← fin8 f.x; some (.rwait r)
  | _ => none

/-- Major opcode 0x73 of Table 7-7 (R164). -/
def decodeOp73 (f : RF) : Option Instr :=
  match f.fn with
  | 0 => do let r ← fin8 f.x; some (.rrelease r)
  | _ => none

/-- Major opcode 0x74 of Table 7-7 (R164). -/
def decodeOp74 (f : RF) : Option Instr :=
  match f.fn with
  | 0 => do let d ← decG f.d; let r ← fin8 (f.x % 8); let which ← fin4 (f.x / 8); some (.rstat d r which)
  | _ => none

/-- Major opcode 0x75 of Table 7-7 (R164). -/
def decodeOp75 (f : RF) : Option Instr :=
  do let cls ← fin3 f.fn; let a ← decVm f.a; some (.csubmit cls a)

/-- Major opcode 0x76 of Table 7-7 (R164). -/
def decodeOp76 (f : RF) : Option Instr :=
  match f.fn with
  | 0 => do let a ← decVm f.a; some (.fhtx a)
  | _ => none

/-- The fields of a word under the format its major opcode fixes (Tables 7-1 to 7-3, 7-7), read into an instruction;
reserved fields are looked at in `decodeWord`. -/
def decodeRaw (w : Nat) : Option Instr :=
  match w / 2 ^ 57 with
  | 1 => decodeOp01 (RF.ofWord w)
  | 2 => decodeOp02 (IF.ofWord w)
  | 3 => decodeOp03 (IF.ofWord w)
  | 4 => decodeOp04 (IF.ofWord w)
  | 5 => decodeOp05 (RF.ofWord w)
  | 6 => decodeOp06 (IF.ofWord w)
  | 7 => decodeOp07 (IF.ofWord w)
  | 8 => decodeOp08 (RF.ofWord w)
  | 9 => decodeOp09 (RF.ofWord w)
  | 16 => decodeOp10 (JF.ofWord w)
  | 17 => decodeOp11 (JF.ofWord w)
  | 18 => decodeOp12 (IF.ofWord w)
  | 19 => decodeOp13 (JF.ofWord w)
  | 20 => decodeOp14 (JF.ofWord w)
  | 21 => decodeOp15 (RF.ofWord w)
  | 24 => decodeOp18 (IF.ofWord w)
  | 25 => decodeOp19 (IF.ofWord w)
  | 26 => decodeOp1A (IF.ofWord w)
  | 27 => decodeOp1B (RF.ofWord w)
  | 28 => decodeOp1C (RF.ofWord w)
  | 29 => decodeOp1D (RF.ofWord w)
  | 30 => decodeOp1E (RF.ofWord w)
  | 31 => decodeOp1F (RF.ofWord w)
  | 32 => decodeOp20 (RF.ofWord w)
  | 33 => decodeOp21 (RF.ofWord w)
  | 34 => decodeOp22 (RF.ofWord w)
  | 35 => decodeOp23 (RF.ofWord w)
  | 36 => decodeOp24 (RF.ofWord w)
  | 37 => decodeOp25 (RF.ofWord w)
  | 38 => decodeOp26 (RF.ofWord w)
  | 39 => decodeOp27 (RF.ofWord w)
  | 48 => decodeOp30 (RF.ofWord w)
  | 49 => decodeOp31 (RF.ofWord w)
  | 50 => decodeOp32 (RF.ofWord w)
  | 51 => decodeOp33 (RF.ofWord w)
  | 52 => decodeOp34 (RF.ofWord w)
  | 53 => decodeOp35 (RF.ofWord w)
  | 54 => decodeOp36 (RF.ofWord w)
  | 55 => decodeOp37 (RF.ofWord w)
  | 56 => decodeOp38 (RF.ofWord w)
  | 57 => decodeOp39 (RF.ofWord w)
  | 64 => decodeOp40 (RF.ofWord w)
  | 65 => decodeOp41 (RF.ofWord w)
  | 66 => decodeOp42 (RF.ofWord w)
  | 67 => decodeOp43 (RF.ofWord w)
  | 68 => decodeOp44 (RF.ofWord w)
  | 69 => decodeOp45 (RF.ofWord w)
  | 70 => decodeOp46 (RF.ofWord w)
  | 71 => decodeOp47 (RF.ofWord w)
  | 72 => decodeOp48 (RF.ofWord w)
  | 73 => decodeOp49 (RF.ofWord w)
  | 74 => decodeOp4A (RF.ofWord w)
  | 75 => decodeOp4B (RF.ofWord w)
  | 76 => decodeOp4C (RF.ofWord w)
  | 77 => decodeOp4D (RF.ofWord w)
  | 78 => decodeOp4E (RF.ofWord w)
  | 80 => decodeOp50 (RF.ofWord w)
  | 81 => decodeOp51 (RF.ofWord w)
  | 82 => decodeOp52 (RF.ofWord w)
  | 83 => decodeOp53 (RF.ofWord w)
  | 84 => decodeOp54 (RF.ofWord w)
  | 88 => decodeOp58 (RF.ofWord w)
  | 89 => decodeOp59 (RF.ofWord w)
  | 90 => decodeOp5A (RF.ofWord w)
  | 91 => decodeOp5B (RF.ofWord w)
  | 92 => decodeOp5C (RF.ofWord w)
  | 93 => decodeOp5D (RF.ofWord w)
  | 94 => decodeOp5E (RF.ofWord w)
  | 95 => decodeOp5F (RF.ofWord w)
  | 96 => decodeOp60 (RF.ofWord w)
  | 98 => decodeOp62 (RF.ofWord w)
  | 99 => decodeOp63 (RF.ofWord w)
  | 100 => decodeOp64 (RF.ofWord w)
  | 101 => decodeOp65 (RF.ofWord w)
  | 102 => decodeOp66 (RF.ofWord w)
  | 104 => decodeOp68 (RF.ofWord w)
  | 105 => decodeOp69 (RF.ofWord w)
  | 106 => decodeOp6A (RF.ofWord w)
  | 107 => decodeOp6B (RF.ofWord w)
  | 108 => decodeOp6C (RF.ofWord w)
  | 109 => decodeOp6D (RF.ofWord w)
  | 112 => decodeOp70 (RF.ofWord w)
  | 113 => decodeOp71 (RF.ofWord w)
  | 114 => decodeOp72 (RF.ofWord w)
  | 115 => decodeOp73 (RF.ofWord w)
  | 116 => decodeOp74 (RF.ofWord w)
  | 117 => decodeOp75 (RF.ofWord w)
  | 118 => decodeOp76 (RF.ofWord w)
  | _ => none

/-- The word of an instruction, from the encoding tables (R156 to R164): an instruction word for each of the 180
instructions of Table 7-7, and 0 (no instruction, R5) for a device step, which has no word. -/
def encodeNat : Instr → Nat
  | .add d a b => rword 1 (0) (encG d) (encG a) (encG b) (0) (0)
  | .sub d a b => rword 1 (1) (encG d) (encG a) (encG b) (0) (0)
  | .mul d a b => rword 1 (2) (encG d) (encG a) (encG b) (0) (0)
  | .mulhi u d a b => rword 1 (3) (encG d) (encG a) (encG b) (0) (bn u)
  | .div u d a b => rword 1 (4) (encG d) (encG a) (encG b) (0) (bn u)
  | .rem u d a b => rword 1 (5) (encG d) (encG a) (encG b) (0) (bn u)
  | .and d a b => rword 1 (6) (encG d) (encG a) (encG b) (0) (0)
  | .or d a b => rword 1 (7) (encG d) (encG a) (encG b) (0) (0)
  | .xor d a b => rword 1 (8) (encG d) (encG a) (encG b) (0) (0)
  | .andn d a b => rword 1 (9) (encG d) (encG a) (encG b) (0) (0)
  | .shl d a b => rword 1 (10) (encG d) (encG a) (encG b) (0) (0)
  | .shr d a b => rword 1 (11) (encG d) (encG a) (encG b) (0) (0)
  | .sar d a b => rword 1 (12) (encG d) (encG a) (encG b) (0) (0)
  | .min u d a b => rword 1 (13) (encG d) (encG a) (encG b) (0) (bn u)
  | .max u d a b => rword 1 (14) (encG d) (encG a) (encG b) (0) (bn u)
  | .clz d a => rword 1 (15) (encG d) (encG a) (0) (0) (0)
  | .popc d a => rword 1 (16) (encG d) (encG a) (0) (0) (0)
  | .sel d a b c => rword 1 (17) (encG d) (encG a) (encG b) (encG c) (0)
  | .setcc cc d a b => rword 1 (18) (encG d) (encG a) (encG b) (0) (2 * cc.code)
  | .aluiAdd d a imm => iword 2 (0) (encG d) (encG a) (imm.toNat)
  | .aluiAnd d a imm => iword 2 (6) (encG d) (encG a) (imm.toNat)
  | .aluiOr d a imm => iword 2 (7) (encG d) (encG a) (imm.toNat)
  | .aluiXor d a imm => iword 2 (8) (encG d) (encG a) (imm.toNat)
  | .aluiShl d a imm => iword 2 (10) (encG d) (encG a) (imm.toNat)
  | .aluiShr d a imm => iword 2 (11) (encG d) (encG a) (imm.toNat)
  | .aluiSar d a imm => iword 2 (12) (encG d) (encG a) (imm.toNat)
  | .aluiMin d a imm => iword 2 (13) (encG d) (encG a) (imm.toNat)
  | .aluiMax d a imm => iword 2 (14) (encG d) (encG a) (imm.toNat)
  | .li d imm => iword 3 (0) (encG d) (0) (imm.toNat)
  | .lih d imm => iword 4 (0) (encG d) (0) (imm.toNat)
  | .fadd f64 rm d a b => rword 5 (0) (encG d) (encG a) (encG b) (0) (bn f64 + 2 * rm.code)
  | .fsub f64 rm d a b => rword 5 (1) (encG d) (encG a) (encG b) (0) (bn f64 + 2 * rm.code)
  | .fmul f64 rm d a b => rword 5 (2) (encG d) (encG a) (encG b) (0) (bn f64 + 2 * rm.code)
  | .fma f64 rm d a b c => rword 5 (3) (encG d) (encG a) (encG b) (encG c) (bn f64 + 2 * rm.code)
  | .fcvt kind f64 rm d a => rword 5 (4) (encG d) (encG a) (0) (0) (bn f64 + 2 * rm.code + 16 * kind.code)
  | .fcmp cc f64 d a b => rword 5 (5) (encG d) (encG a) (encG b) (0) (bn f64 + 16 * cc.code)
  | .ld q d a => iword 6 (q.fn) (encG d) (encG a) (q.imm)
  | .st q d a => iword 7 (q.fn) (encG d) (encG a) (q.imm)
  | .amo op x d a b => rword 8 ((op.code) + 32 * x.t.code) (encG d) (encG a) (encG b) (0) (x.xbits + 2 ^ 12 * x.ctl)
  | .cas x d a b c => rword 9 ((0) + 32 * x.t.code) (encG d) (encG a) (encG b) (encG c) (x.xbits + 2 ^ 12 * x.ctl)
  | .br cc a b off => jword 16 (cc.code) (encG a) (encG b) off.toNat
  | .jal a off => jword 17 (0) (encG a) (0) off.toNat
  | .jalr d a imm => iword 18 (0) (encG d) (encG a) (imm.toNat)
  | .loop a off => jword 19 (0) (encG a) (0) off.toNat
  | .bm cc a off => jword 20 (cc.code) (encM a) (0) off.toNat
  | .nop => rword 21 (0) (0) (0) (0) (0) (0)
  | .csrr d num => iword 24 (0) (encG d) (0) (num.toNat)
  | .csrw a num => iword 24 (1) (0) (encG a) (num.toNat)
  | .csrset d a num => iword 24 (2) (encG d) (encG a) (num.toNat)
  | .csrclr d a num => iword 24 (3) (encG d) (encG a) (num.toNat)
  | .svc n => iword 25 (0) (0) (0) (n.toNat)
  | .trapi n => iword 26 (0) (0) (0) (n.toNat)
  | .eret => rword 27 (0) (0) (0) (0) (0) (0)
  | .fence dir sc => rword 28 (dir.code) (0) (0) (0) (0) (2 * sc.code)
  | .wfe a => rword 29 (0) (0) (encG a) (0) (0) (0)
  | .splock d a => rword 30 (0) (encG d) (encG a) (0) (0) (0)
  | .spunlock a => rword 30 (1) (0) (encG a) (0) (0) (0)
  | .tlbinv kind a b => rword 31 (0) (0) (encG a) (encG b) (0) (kind.code)
  | .ckpt => rword 32 (0) (0) (0) (0) (0) (0)
  | .vsave tk a vm => rword 33 (0) (0) (encG a) (encVm vm) (0) (512 * tk.val)
  | .vrest tk vm a => rword 34 (0) (encVm vm) (encG a) (0) (0) (512 * tk.val)
  | .hmsg a b => rword 35 (0) (0) (encG a) (encG b) (0) (0)
  | .jspawn d vm => rword 36 (0) (encG d) (encVm vm) (0) (0) (0)
  | .jend => rword 37 (0) (0) (0) (0) (0) (0)
  | .chblock a => rword 38 (0) (0) (encG a) (0) (0) (0)
  | .chunblock a => rword 38 (1) (0) (encG a) (0) (0) (0)
  | .abump d a n al => rword 39 (0) (encG d) (encG a) (0) (0) (n.val + 4 * al.toNat)
  | .vsetl d a => rword 48 (0) (encG d) (encG a) (0) (0) (0)
  | .vtag d t => rword 48 (1) (encVd d) (0) (0) (0) (t.code)
  | .vretag d t => rword 48 (2) (encVd d) (0) (0) (0) (t.code)
  | .vgettag d a => rword 48 (3) (encG d) (encVr a) (0) (0) (0)
  | .vmov d a => rword 48 (4) (encVd d) (encVs a) (0) (0) (0)
  | .vadd q d a b => rword 49 (0) (encVd d) (encVs a) (encVs b) (0) (q.xbits + (0) + 2 ^ 12 * q.ctl)
  | .vsub q d a b => rword 49 (1) (encVd d) (encVs a) (encVs b) (0) (q.xbits + (0) + 2 ^ 12 * q.ctl)
  | .vmul q d a b => rword 49 (2) (encVd d) (encVs a) (encVs b) (0) (q.xbits + (0) + 2 ^ 12 * q.ctl)
  | .vmulh q d a b => rword 49 (3) (encVd d) (encVs a) (encVs b) (0) (q.xbits + (0) + 2 ^ 12 * q.ctl)
  | .vfma q d a b c => rword 49 (4) (encVd d) (encVs a) (encVs b) (encVs c) (q.xbits + (0) + 2 ^ 12 * q.ctl)
  | .vfms q d a b c => rword 49 (5) (encVd d) (encVs a) (encVs b) (encVs c) (q.xbits + (0) + 2 ^ 12 * q.ctl)
  | .vfnma q d a b c => rword 49 (6) (encVd d) (encVs a) (encVs b) (encVs c) (q.xbits + (0) + 2 ^ 12 * q.ctl)
  | .vmin q d a b => rword 49 (7) (encVd d) (encVs a) (encVs b) (0) (q.xbits + (0) + 2 ^ 12 * q.ctl)
  | .vmax q d a b => rword 49 (8) (encVd d) (encVs a) (encVs b) (0) (q.xbits + (0) + 2 ^ 12 * q.ctl)
  | .vabs q d a => rword 49 (9) (encVd d) (encVs a) (0) (0) (q.xbits + (0) + 2 ^ 12 * q.ctl)
  | .vneg q d a => rword 49 (10) (encVd d) (encVs a) (0) (0) (q.xbits + (0) + 2 ^ 12 * q.ctl)
  | .vand q d a b => rword 49 (11) (encVd d) (encVs a) (encVs b) (0) (q.xbits + (0) + 2 ^ 12 * q.ctl)
  | .vor q d a b => rword 49 (12) (encVd d) (encVs a) (encVs b) (0) (q.xbits + (0) + 2 ^ 12 * q.ctl)
  | .vxor q d a b => rword 49 (13) (encVd d) (encVs a) (encVs b) (0) (q.xbits + (0) + 2 ^ 12 * q.ctl)
  | .vshl q d a b => rword 49 (14) (encVd d) (encVs a) (encVs b) (0) (q.xbits + (0) + 2 ^ 12 * q.ctl)
  | .vshr q d a b => rword 49 (15) (encVd d) (encVs a) (encVs b) (0) (q.xbits + (0) + 2 ^ 12 * q.ctl)
  | .vsar q d a b => rword 49 (16) (encVd d) (encVs a) (encVs b) (0) (q.xbits + (0) + 2 ^ 12 * q.ctl)
  | .vclz q d a => rword 49 (17) (encVd d) (encVs a) (0) (0) (q.xbits + (0) + 2 ^ 12 * q.ctl)
  | .vpopc q d a => rword 49 (18) (encVd d) (encVs a) (0) (0) (q.xbits + (0) + 2 ^ 12 * q.ctl)
  | .vsel q d a b c => rword 49 (19) (encVd d) (encVs a) (encVs b) (encM c) (q.xbits + (0) + 2 ^ 12 * q.ctl)
  | .vaddc q d a b c => rword 49 (20) (encVd d) (encVs a) (encVs b) (encM c) (q.xbits + (0) + 2 ^ 12 * q.ctl)
  | .vsubb q d a b c => rword 49 (21) (encVd d) (encVs a) (encVs b) (encM c) (q.xbits + (0) + 2 ^ 12 * q.ctl)
  | .vcmp q cc d a b => rword 50 (0) (encM d) (encVs a) (encVs b) (0) (q.xbits + (cc.code) + 2 ^ 12 * q.ctl)
  | .vcvt q t part d a => rword 51 (t.code) (encVd d) (encVs a) (0) (0) (q.xbits + (part.val) + 2 ^ 12 * q.ctl)
  | .vrcp q d a => rword 52 (0) (encVd d) (encVs a) (0) (0) (q.xbits + (0) + 2 ^ 12 * q.ctl)
  | .vrsqrt q d a => rword 52 (1) (encVd d) (encVs a) (0) (0) (q.xbits + (0) + 2 ^ 12 * q.ctl)
  | .vsqrt q d a => rword 52 (2) (encVd d) (encVs a) (0) (0) (q.xbits + (0) + 2 ^ 12 * q.ctl)
  | .vdiv q d a b => rword 52 (3) (encVd d) (encVs a) (encVs b) (0) (q.xbits + (0) + 2 ^ 12 * q.ctl)
  | .vexp2 q d a => rword 52 (4) (encVd d) (encVs a) (0) (0) (q.xbits + (0) + 2 ^ 12 * q.ctl)
  | .vlog2 q d a => rword 52 (5) (encVd d) (encVs a) (0) (0) (q.xbits + (0) + 2 ^ 12 * q.ctl)
  | .vcmul q d a b => rword 53 (0) (encVd d) (encVs a) (encVs b) (0) (q.xbits + (0) + 2 ^ 12 * q.ctl)
  | .vcmac q d a b c => rword 53 (1) (encVd d) (encVs a) (encVs b) (encVs c) (q.xbits + (0) + 2 ^ 12 * q.ctl)
  | .vconj q d a => rword 53 (2) (encVd d) (encVs a) (0) (0) (q.xbits + (0) + 2 ^ 12 * q.ctl)
  | .vcabs2 q d a => rword 53 (3) (encVd d) (encVs a) (0) (0) (q.xbits + (0) + 2 ^ 12 * q.ctl)
  | .vcrot q k d a => rword 53 (4) (encVd d) (encVs a) (0) (0) (q.xbits + (k.val) + 2 ^ 12 * q.ctl)
  | .vbfly q h d a b => rword 54 (0) (encVd d) (encVs a) (encVs b) (0) (q.xbits + (h.val) + 2 ^ 12 * q.ctl)
  | .vgjstep q n p d a => rword 54 (1) (encVd d) (encVr a) (0) (0) (q.xbits + (n.val + 4 * p.val) + 2 ^ 12 * q.ctl)
  | .vbfpexp q w d a => rword 54 (2) (encVd d) (encVr a) (0) (0) (q.xbits + (w.val) + 2 ^ 12 * q.ctl)
  | .vbfpcmp q w d a => rword 54 (3) (encVd d) (encVr a) (0) (0) (q.xbits + (w.val) + 2 ^ 12 * q.ctl)
  | .vslideup q d a b => rword 55 (0) (encVd d) (encVr a) (encG b) (0) (q.xbits + (0) + 2 ^ 12 * q.ctl)
  | .vslidedn q d a b => rword 55 (1) (encVd d) (encVr a) (encG b) (0) (q.xbits + (0) + 2 ^ 12 * q.ctl)
  | .vperm q d a b => rword 55 (2) (encVd d) (encVr a) (encVr b) (0) (q.xbits + (0) + 2 ^ 12 * q.ctl)
  | .vbcast q d a b => rword 55 (3) (encVd d) (encVr a) (encG b) (0) (q.xbits + (0) + 2 ^ 12 * q.ctl)
  | .vcompress q d a c => rword 55 (4) (encVd d) (encVr a) (0) (encM c) (q.xbits + (0) + 2 ^ 12 * q.ctl)
  | .vexpand q d a c => rword 55 (5) (encVd d) (encVr a) (0) (encM c) (q.xbits + (0) + 2 ^ 12 * q.ctl)
  | .viota q d c => rword 55 (6) (encVd d) (0) (0) (encM c) (q.xbits + (0) + 2 ^ 12 * q.ctl)
  | .vzip q d a b => rword 55 (7) (encVd d) (encVr a) (encVr b) (0) (q.xbits + (0) + 2 ^ 12 * q.ctl)
  | .vunzip q d a b => rword 55 (8) (encVd d) (encVr a) (encVr b) (0) (q.xbits + (0) + 2 ^ 12 * q.ctl)
  | .vredsum q d a => rword 56 (0) (encVd d) (encVr a) (0) (0) (q.xbits + (0) + 2 ^ 12 * q.ctl)
  | .vredmax q d a => rword 56 (1) (encVd d) (encVr a) (0) (0) (q.xbits + (0) + 2 ^ 12 * q.ctl)
  | .vredmin q d a => rword 56 (2) (encVd d) (encVr a) (0) (0) (q.xbits + (0) + 2 ^ 12 * q.ctl)
  | .vscan q d a => rword 56 (3) (encVd d) (encVr a) (0) (0) (q.xbits + (0) + 2 ^ 12 * q.ctl)
  | .mand d a b => rword 57 (0) (encM d) (encM a) (encM b) (0) (0)
  | .mor d a b => rword 57 (1) (encM d) (encM a) (encM b) (0) (0)
  | .mxor d a b => rword 57 (2) (encM d) (encM a) (encM b) (0) (0)
  | .mandn d a b => rword 57 (3) (encM d) (encM a) (encM b) (0) (0)
  | .mshl d a b => rword 57 (4) (encM d) (encM a) (encG b) (0) (0)
  | .mpopc d a => rword 57 (5) (encG d) (encM a) (0) (0) (0)
  | .mfirst d a => rword 57 (6) (encG d) (encM a) (0) (0) (0)
  | .mset h d a => rword 57 (7) (encM d) (encG a) (0) (0) (bn h)
  | .mget h d a => rword 57 (8) (encG d) (encM a) (0) (0) (bn h)
  | .vprobe wr tk a b => rword 64 (0) (0) (encG a) (encG b) (0) (256 * bn wr + 512 * tk.val)
  | .vrelease tk => rword 65 (0) (0) (0) (0) (0) (512 * tk.val)
  | .vld x d a b => rword 66 ((0) + 32 * x.t.code) (encVd d) (encG a) (encG b) (0) (x.xbits + 2 ^ 12 * x.ctl)
  | .vst x d a b => rword 67 ((0) + 32 * x.t.code) (encVr d) (encG a) (encG b) (0) (x.xbits + 2 ^ 12 * x.ctl)
  | .vldx x d a b => rword 68 ((0) + 32 * x.t.code) (encVd d) (encG a) (encVr b) (0) (x.xbits + 2 ^ 12 * x.ctl)
  | .vstx x d a b => rword 69 ((0) + 32 * x.t.code) (encVr d) (encG a) (encVr b) (0) (x.xbits + 2 ^ 12 * x.ctl)
  | .vlds x d a b => rword 70 ((0) + 32 * x.t.code) (encVd d) (encG a) (encG b) (0) (x.xbits + 2 ^ 12 * x.ctl)
  | .vsts x d a b => rword 71 ((0) + 32 * x.t.code) (encVr d) (encG a) (encG b) (0) (x.xbits + 2 ^ 12 * x.ctl)
  | .vldsx x d a b => rword 72 ((0) + 32 * x.t.code) (encVd d) (encG a) (encVr b) (0) (x.xbits + 2 ^ 12 * x.ctl)
  | .vstsx x d a b => rword 73 ((0) + 32 * x.t.code) (encVr d) (encG a) (encVr b) (0) (x.xbits + 2 ^ 12 * x.ctl)
  | .vlds2 x d a b c => rword 74 ((0) + 32 * x.t.code) (encVd d) (encG a) (encG b) (encVd c) (x.xbits + 2 ^ 12 * x.ctl)
  | .vsts2 x d a b c => rword 75 ((0) + 32 * x.t.code) (encVr d) (encG a) (encG b) (encVr c) (x.xbits + 2 ^ 12 * x.ctl)
  | .sbind d a => rword 76 (0) (encVb d) (encVm a) (0) (0) (0)
  | .sunbind d => rword 77 (0) (encVb d) (0) (0) (0) (0)
  | .sstat d a => rword 78 (0) (encG d) (encVb a) (0) (0) (0)
  | .vamo op x d a b c => rword 80 ((op.code) + 32 * x.t.code) (encVd d) (encG a) (encVr b) (encVs c) (x.xbits + 2 ^ 12 * x.ctl)
  | .vsta op x a b c => rword 81 ((op.code) + 32 * x.t.code) (0) (encG a) (encVr b) (encVr c) (x.xbits + 2 ^ 12 * x.ctl)
  | .vwaitc cc x d a b c => rword 82 ((cc.code) + 32 * x.t.code) (encM d) (encG a) (encG b) (encVs c) (x.xbits + 2 ^ 12 * x.ctl)
  | .tseal => rword 83 (0) (0) (0) (0) (0) (0)
  | .twait t a b => rword 84 (32 * t.code) (0) (encG a) (if t = .tt then encG b else 0) (0) (0)
  | .macq d n => rword 88 (n.val) (encG d) (0) (0) (0) (0)
  | .mrel n => rword 89 (n.val) (0) (0) (0) (0) (0)
  | .mzero n => rword 90 (n.val) (0) (0) (0) (0) (0)
  | .mopa q cj n a b => rword 91 (n.val + 4 * bn cj) (0) (encVr a) (encVr b) (0) (q.xbits + 2 ^ 12 * q.ctl)
  | .mrd col d n a => rword 92 (n.val + 4 * bn col) (encVd d) (encG a) (0) (0) (0)
  | .mwr q col n a b => rword 93 (n.val + 4 * bn col) (0) (encVr a) (encG b) (0) (q.xbits + 2 ^ 12 * q.ctl)
  | .mst x sp n a b => rword 94 (n.val + 4 * bn sp) (0) (encG a) (encG b) (0) (x.xbits + 2 ^ 12 * x.ctl)
  | .mldt x sp n a b => rword 95 (n.val + 4 * bn sp) (0) (encG a) (encG b) (0) (x.xbits + 2 ^ 12 * x.ctl)
  | .mscale q n a b => rword 96 (n.val) (0) (encVs a) (encVs b) (0) (q.xbits + 2 ^ 12 * q.ctl)
  | .pgopen d a => rword 98 (0) (encG d) (encVm a) (0) (0) (0)
  | .pgsub q d a b c => rword 99 (0) (encG d) (encVr a) (encVm b) (encG c) (q.xbits + 2 ^ 12 * q.ctl)
  | .pgclose a => rword 100 (0) (0) (encG a) (0) (0) (0)
  | .pgmerge q a b c => rword 101 (0) (0) (encVr a) (encG b) (encG c) (q.xbits + 2 ^ 12 * q.ctl)
  | .pgstat d a which => rword 102 (0) (encG d) (encG a) (0) (0) (which.val)
  | .binit n a b => rword 104 (0) (0) (encG a) (encG b) (0) (n.val)
  | .barrive n => rword 105 (0) (0) (0) (0) (0) (n.val)
  | .bexpect n a => rword 106 (0) (0) (encG a) (0) (0) (n.val)
  | .bwait n => rword 107 (0) (0) (0) (0) (0) (n.val)
  | .btest d n => rword 108 (0) (encG d) (0) (0) (0) (n.val)
  | .tcopy a => rword 109 (0) (0) (encVm a) (0) (0) (0)
  | .ringcfg r a => rword 112 (0) (0) (encG a) (0) (0) (r.val)
  | .rcommit r a => rword 113 (0) (0) (encG a) (0) (0) (r.val)
  | .rwait r => rword 114 (0) (0) (0) (0) (0) (r.val)
  | .rrelease r => rword 115 (0) (0) (0) (0) (0) (r.val)
  | .rstat d r which => rword 116 (0) (encG d) (0) (0) (0) (r.val + 8 * which.val)
  | .csubmit cls a => rword 117 (cls.val) (0) (encVm a) (0) (0) (0)
  | .fhtx a => rword 118 (0) (0) (encVm a) (0) (0) (0)
  | .copyBytesLand _ _ => 0
  | .copyComplete _ => 0
  | .codingCommandStart _ => 0
  | .codingCommandComplete _ => 0
  | .fronthaulSend _ => 0
  | .frameReceive _ _ => 0
  | .hostQueueTransmit _ => 0
  | .sweepStart _ => 0
  | .pageFetch _ => 0
  | .pageDelivery _ _ _ => 0
  | .caskOverflow _ => 0
  | .sweepEnd _ => 0
  | .launchTailWrite _ _ _ => 0
  | .launchWindowTake _ _ => 0
  | .channelMessageTake _ _ => 0
  | .taskTableWrite _ _ _ _ _ _ => 0
  | .gangPlace _ => 0
  | .hartFrameSave _ => 0
  | .gangFrameSave _ => 0
  | .lightPreemption _ => 0
  | .lightPreemptionResume _ => 0
  | .scratchpadClear _ => 0
  | .gangRelease _ => 0
  | .comparisonTick => 0
  | .abandonComplete _ _ => 0
  | .jobEnd _ _ => 0
  | .commitRightPass _ _ _ => 0
  | .commitSpill _ => 0
  | .blockedHartResume _ => 0
  | .waitWatchdog _ => 0
  | .wfeTimeout _ => 0
  | .vwaitcTimeout _ => 0
  | .lockHoldWatchdog _ => 0
  | .handlerWatchdog _ => 0
  | .addressBreakpoint _ => 0
  | .singleStep _ => 0
  | .pinGraceExpiry _ => 0
  | .kill _ => 0
  | .hostq _ => 0
  | .hostqTimeout _ => 0
  | .log _ => 0
  | .abandon _ => 0
  | .info _ => 0
  | .faultQueueReply _ _ _ => 0
  | .invalidatePage _ _ _ => 0
  | .invalidateFunction _ _ => 0
  | .invalidationComplete _ _ => 0
  | .jobKillRequest _ _ _ => 0
  | .functionConfigWrite _ _ _ _ => 0
  | .arenaGrant _ _ _ _ => 0
  | .placementEntryWrite _ _ _ _ _ _ _ => 0
  | .flowEntryWrite _ _ _ _ _ _ _ => 0
  | .portConfigWrite _ _ _ _ => 0
  | .tset _ _ => 0
  | .toff _ _ => 0
  | .holdoverTimeout => 0
  | .hostMemoryAccess _ _ => 0
  | .hostErrorCompletion _ _ => 0
  | .twinAccess _ => 0
  | .hostLinkTrain _ _ _ _ => 0
  | .twinLinkTrain _ _ => 0
  | .portLinkChange _ _ => 0
  | .l2Fill _ _ => 0
  | .partitionGo _ => 0
  | .partitionRst _ => 0
  | .firmwareSwitch _ => 0
  | .firmwareSwitchComplete _ => 0
  | .flrPhysicalFunction _ => 0
  | .flrVirtualFunction _ _ => 0
  | .patrolScrub _ _ => 0
  | .channelFail _ => 0
  | .registerError _ => 0
  | .unitRetire _ => 0
  | .coreFence _ => 0
  | .plimWrite _ => 0
  | .powerLimitThrottle _ _ => 0
  | .thermalTrip => 0
  | .powerOnReset => 0
  | .housekeepingRead _ => 0
  | .housekeepingWrite _ _ => 0
  | .keySlotRevoke _ => 0
  | .minimumSvnRaise _ _ => 0
  | .getVersion _ => 0
  | .getCapabilities _ => 0
  | .negotiateAlgorithms _ _ _ _ => 0
  | .getDigests _ => 0
  | .getCertificate _ _ _ _ => 0
  | .challenge _ _ _ => 0
  | .getMeasurements _ _ _ _ => 0
  | .registerWrite _ _ _ _ => 0
  | .synceLockChange _ => 0
  | .deviceReset => 0
  | .twinRefusedWrite _ _ => 0
  | .latePoison _ _ _ => 0
  | .recoveryImageDelivery _ => 0
  | .configurationRequest => 0
  | .cxlCacheSnoop _ _ => 0

/-- The instruction that a 64-bit word is, or none where R165 makes the word illegal: its fields are assigned, it is
well formed, and encoding it again gives the word, so every reserved field is zero (R159). -/
def decodeWord (w : BitVec 64) : Option Instr :=
  match decodeRaw w.toNat with
  | some i => if i.wf && encodeNat i == w.toNat then some i else none
  | none => none

/-- The word of a well-formed instruction. -/
def encode (i : Instr) : BitVec 64 := BitVec.ofNat 64 (encodeNat i)

/-- Eight bytes, the first at the lowest address, as a little-endian word (R2, R153). -/
def wordOfBytes (bs : List (BitVec 8)) : BitVec 64 :=
  BitVec.ofNat 64 (bs.foldr (fun b acc => b.toNat + 256 * acc) 0)
/-- The n low bytes of a number, lowest address first (R2). -/
def bytesOfNat : Nat → Nat → List (BitVec 8)
  | 0, _ => []
  | n + 1, w => BitVec.ofNat 8 w :: bytesOfNat n (w / 256)

/-- The instruction that eight bytes of memory hold (R153). -/
def decode (bs : List (BitVec 8)) : Option Instr := decodeWord (wordOfBytes bs)

/-- The decoder asked about a row of spec/opcode_table.json: `w` numbers the word's bits from bit 0; an instruction is
one 64-bit word, whose bits above `nbits` are 0. -/
def decodeTableWord (nbits w : Nat) : Option Instr :=
  if nbits ≤ 64 then decode (bytesOfNat 8 (w % 2 ^ nbits)) else none

end Sys2Proof
end

