-- ==== Sys2Proof/Machine/State.lean ====
section
/-!
DEFINITION. The state of the device as plain data: harts, gangs, jobs, engines, partitions, ports, time, links,
memory, and the housekeeping side; and the state right after reset.
-/

namespace Sys2Proof.Machine

/-- Why the machine stops with a fault. -/
inductive Fault where
  /-- The agenda, the model's own field, names an instruction of Table 7-7 as a step of a device agent. Raised by
  `step`; safe (no such turn exists on the device). -/
  | agendaNotAStep
deriving DecidableEq, Repr

/-- Why the model has no meaning to give. -/
inductive Refusal where
  /-- An instruction or device step that the model has not reached. Raised by `exec`; safe. -/
  | notModelled (mnemonic : String)
deriving DecidableEq, Repr

/-- Trap causes (Table 15-4a). -/
inductive Cause where
  | illegal | priv | untyped | type | badvl | misalign | sprange | notoken | tkrange | tkrevoked | pagefault
  | prot | poison | barrier | ring | ticket | tile | sweep | atomspace | brk | watchdog | lockstep | engine
deriving DecidableEq, Repr

/-- Page kinds (Table 5-1). -/
inductive PageKind where
  | dev | hostc | hostn | twin | io
deriving DecidableEq, Repr

/-- A generic location: the page kind and the physical address in that kind's space (R130). -/
structure Loc where
  kind : PageKind
  pa : Nat
deriving DecidableEq, Repr

/-- Memory of one space: bytes that differ from 0, by rising address. -/
abbrev Mem := List Host.Cell

/-- One page that a token, an engine or a translation cache holds (R104, R226): its function, VA base, size, physical
base, kind, permissions, and the invalidations that have marked it (R363). -/
structure Pin where
  p : Fin 3
  vf : Fin 64
  va : Nat
  size : Nat
  pa : Nat
  kind : PageKind
  r : Bool
  w : Bool
  mark : List Nat
deriving DecidableEq, Repr

/-- A valid leaf: the page it maps, and its X and SUP bits (Table 17-6). -/
structure Leaf where
  pin : Pin
  x : Bool
  sup : Bool
deriving DecidableEq, Repr

/-- A non-leaf entry that a walk has read (R362): the addresses it covers, with the physical address of the table it names
as `pa`, and the levels below it. -/
structure Branch where
  pin : Pin
  left : Nat
deriving DecidableEq, Repr

/-- Token states (R61). -/
inductive TokSt where
  | invalid | valid | revoked
deriving DecidableEq, Repr
/-- A token (R61, R226). -/
structure Token where
  st : TokSt
  base : Nat
  len : Nat
  wr : Bool
  pins : List Pin
deriving DecidableEq, Repr
def Token.empty : Token := { st := .invalid, base := 0, len := 0, wr := false, pins := [] }

/-- A stream binding (R235, R236). -/
structure Stream where
  bound : Bool
  q0 : Word
  q1 : Word
  q2 : Word
  q3 : Word
  pos : Nat
  tag : Tag
deriving DecidableEq, Repr
def Stream.empty : Stream := { bound := false, q0 := 0, q1 := 0, q2 := 0, q3 := 0, pos := 0, tag := .none }

/-- A tagged register (R46, R49) with its valid length and DIRTY bit (R351). -/
structure VReg where
  el : Vector Word 128
  tag : Tag
  vln : Nat
  dirty : Bool
deriving DecidableEq, Repr
def VReg.empty : VReg := { el := Vector.replicate 128 0, tag := .none, vln := 0, dirty := false }

/-- An accumulator tile: entry [i][j] at 64 i + j (R46), and its ZERO and DIRTY bits (R351). -/
structure Tile where
  data : Vector (BitVec 32) 4096
  zero : Bool
  dirty : Bool
deriving DecidableEq, Repr

/-- What a blocked or stalled thread waits for (Table 2-1, R309). -/
inductive WaitFor where
  | bwait (n : Fin 32)
  | rwait (r : Fin 8)
  | ringFull (r : Fin 8)
  | ringEmpty (r : Fin 8)
  | twait
  | wfe
  | vwaitc
  /-- room for n entries in the commit buffer, of an operation ordered in tree scope or not -/
  | commitFull (n : Nat) (tree : Bool)
  | caskFull
  | copyQueue
  | codingQueue
  | txQueue (port : Fin 8)
  | message (ch : Nat)
  | fill
  | invalidation (id : Nat)
  /-- the thread's own buffered ordered operations that its access must come after (R131, R136) -/
  | ordered
deriving DecidableEq, Repr
/-- A wait: what for, the opcode that waits, the cycle it began, the `dtime` at which it times out, and whether that
time has come (R125, R192, R244); the effective address of a stalled scalar access, else 0 (R316); whether its
watchdog's limit passed before its event came (R125, R192); the rings whose consumer windows the instruction has stalled
on before it came to this wait (R124, R232). -/
structure Wait where
  what : WaitFor
  op : Nat
  since : Nat
  ends : Option Nat
  expired : Bool
  addr : Word := 0
  late : Bool := false
  stalled : List (Fin 8) := []
deriving DecidableEq, Repr

/-- A line of the scalar data cache, as it stood when it was filled (R134). -/
structure CacheLine where
  at_ : Loc
  bytes : List Byte
deriving DecidableEq, Repr
/-- A scalar store on its way to its home (R132, R139). -/
structure BufStore where
  loc : Loc
  bytes : List Byte
deriving DecidableEq, Repr

/-- An instruction word that a core's instruction cache keeps as it was fetched (R155): its place, and the number that the
partition's next acceptance had then. -/
structure KeptWord where
  at_ : Loc
  word : Word
  since : Nat
deriving DecidableEq, Repr

/-- A Hearth call that a supervisor thread has made (R324). -/
structure Call where
  n : Nat
  seq : Nat
  /-- where a posted HOSTQ message stands in its fault queue: FQT at the post (R377) -/
  entry : Option (BitVec 32) := none
  /-- the firmware has taken the call; for HOSTQ the message is then posted -/
  taken : Bool
  /-- the `dtime` at which a HOSTQ call times out -/
  ends : Option Nat
deriving DecidableEq, Repr

/-- States of the supervisor thread (R309). -/
inductive SupSt where
  | idle | running | blocked
deriving DecidableEq, Repr

/-- The supervisor thread of a hart (R310, Table 15-5). -/
structure Sup where
  g : Vector Word 32
  tk : Vector Token 8
  st : SupSt
  pc : Word
  sver : BitVec 8
  lhl : BitVec 4
  sstep : Bool
  utk : Bool
  inh : Bool
  svec : Word
  scause : BitVec 8
  sepc : Word
  sei : BitVec 7
  seaddr : Word
  infoOp : BitVec 7
  infoSrc : BitVec 2
  infoDetail : BitVec 16
  sscratch : Word
  bpe : Bool
  bpa : BitVec 56
  /-- cycles in Running since the handler began (R315) -/
  ran : Nat
  locks : Nat
  call : Option Call
  wait : Option Wait
deriving DecidableEq, Repr

/-- States of the user hart (Table 2-1); Pre-empted is the gang's phase. -/
inductive HartSt where
  | running | blocked | trapped | ended | voided
deriving DecidableEq, Repr

/-- A user hart (Table 3-1, R24, R25). -/
structure Hart where
  g : Vector Word 32
  v : Vector VReg 60
  m : Vector MaskReg 16
  acc : Vector (Option Tile) 4
  tk : Vector Token 8
  str : Vector Stream 8
  pc : Word
  vl : Nat
  ei : Nat
  fcsr : BitVec 8
  lw : BitVec 4
  evt : Bool
  locks : Nat
  hold : Nat
  lockAddr : Word
  wph : Vector (BitVec 32) 32
  /-- lines the scalar data cache may still serve (R134) -/
  cache : List CacheLine
  /-- what the hart's fetches put into its core's instruction cache (R10, R155) -/
  icache : List KeptWord
  /-- scalar stores not yet performed at their homes (R139) -/
  stores : List BufStore
  /-- scalar destinations of ordered atomics not yet filled (R41), by entry number -/
  fillG : List (Fin 32 × Nat)
  /-- vector destinations of ordered atomics not yet filled (R41), by entry number -/
  fillV : List (Fin 60 × Nat)
  /-- the VAs of the records still free in the spill segments linked for the hart (R40, R352) -/
  spill : List Nat
  /-- the cycles that the hart has run at U since it last waited or trapped (R43; the model's own field, log entry 73) -/
  spun : Nat := 0
  /-- what the ordered elements returned that a restored hart has already performed, in program order (R45) -/
  redo : List Nat := []
  st : HartSt
  wait : Option Wait
  sealed : Bool
  /-- the next instruction is the one that a single step lets through (R321) -/
  stepArm : Bool
  /-- that instruction has retired: BREAK is due (R321) -/
  stepDue : Bool
  /-- the next instruction is exempt from the address breakpoint (R321) -/
  bpExempt : Bool
  sup : Sup
deriving DecidableEq, Repr

/-- A transaction barrier (Table 12-2); REFS is counted from the engine work in flight. -/
structure Barrier where
  init : Bool
  ph : BitVec 32
  cnt : Nat
  exp : Nat
  expb : Nat
  pend : Int
deriving DecidableEq, Repr
def Barrier.empty : Barrier := { init := false, ph := 0, cnt := 0, exp := 0, expb := 0, pend := 0 }

/-- A ring stage (Table 5-7), with the key the Flue opened it for and the placement entries resolved to it (R383). -/
structure Stage where
  cmt : Bool
  pend : Int
  rel : Nat
  key : Option Nat
  seen : List Nat
  /-- channels and payloads posted when FILL passes the stage (R385) -/
  posts : List (Nat × Word)
deriving DecidableEq, Repr
def Stage.empty : Stage := { cmt := false, pend := 0, rel := 0, key := none, seen := [], posts := [] }
/-- A ring (Table 5-7), with LK of R383. -/
structure Ring where
  cfg : Bool
  base : Nat
  size : Nat
  n : Nat
  c : Nat
  kind : BitVec 2
  iss : BitVec 32
  fill : BitVec 32
  drn : BitVec 32
  err : Bool
  stages : Vector Stage 16
  lk : Option Nat
deriving DecidableEq, Repr
def Ring.empty : Ring :=
  { cfg := false, base := 0, size := 0, n := 0, c := 0, kind := 0, iss := 0, fill := 0, drn := 0, err := false,
    stages := Vector.replicate 16 Stage.empty, lk := none }

/-- Where a gang is on its way (Table 2-1, R341 to R350). -/
inductive Phase where
  | placed
  | light
  /-- stopped for a full eviction, its hart frames not all written (step 3 of R349) -/
  | evict3
  /-- hart frames written, the gang frame not yet (step 4 of R349) -/
  | evict4
  | evicted
  /-- every hart ended or voided; its resources may still be held (R26) -/
  | over
deriving DecidableEq, Repr

/-- A recovery point of a PAIRED gang (R45). -/
structure RecPoint where
  harts : Vector Hart 4
  used : Bool
  /-- commit-buffer entries numbered from here on were issued after it -/
  entry : Nat
  /-- ordered elements issued and performed after it: rank, and what they returned -/
  log : List (Fin 4 × Nat) := []
deriving DecidableEq, Repr

/-- A gang (R26, R27). `spBase` is where its scratchpad allocation lies in the core (R110). -/
structure Gang where
  uid : Nat
  p : Fin 3
  job : Nat
  index : Nat
  hn : Nat
  core : Nat
  core2 : Option Nat
  slots : List Nat
  slots2 : List Nat
  spBase : Nat
  spBase2 : Nat
  spsize : Nat
  tph : Nat
  phase : Phase
  harts : Vector Hart 4
  sp : Mem
  /-- poisoned scratchpad words, by word address (R113) -/
  spPoison : List Nat
  bars : Vector Barrier 32
  rings : Vector Ring 8
  recov : Option RecPoint
  /-- the two copies of a PAIRED gang differ (R44) -/
  diverged : Bool
  /-- physical addresses of the hart frames and of the gang frame (R352) -/
  frames : Option (List Nat × Nat)
  /-- ranks whose hart frame is written in the eviction under way -/
  saved : List (Fin 4)
  /-- commit segments of 64 KiB taken from the reserve: rank and base, in the order of their chain (R352) -/
  chains : List (Nat × Nat)
deriving DecidableEq, Repr

/-- Hart slots and a scratchpad region of one core. -/
structure Seat where
  core : Nat
  slots : List Nat
  base : Nat
deriving DecidableEq, Repr
/-- Resources being freed, held for the gang that caused an eviction (R341): the job and gang index, its seats, its
scratchpad bytes and its tiles on each core. -/
structure Hold where
  p : Fin 3
  job : Nat
  index : Nat
  seat : Seat
  seat2 : Option Seat
  size : Nat
  tiles : Nat
deriving DecidableEq, Repr

/-- A launch record (Table 16-1a). -/
structure LaunchRec where
  q0 : Word
  q1 : Word
  q2 : Word
  q3 : Word
  q4 : Word
  q5 : Word
  q6 : Word
  q7 : Word
deriving DecidableEq, Repr
def LaunchRec.zero : LaunchRec := { q0 := 0, q1 := 0, q2 := 0, q3 := 0, q4 := 0, q5 := 0, q6 := 0, q7 := 0 }

/-- Job states (Table 16-1). -/
inductive JobSt where
  | accepted | placing | placed | ending | abandoning
deriving DecidableEq, Repr
/-- Statuses of a completion record (Table 16-5). -/
inductive JobStatus where
  | done | abandoned | failed | killed | spill
deriving DecidableEq, Repr
/-- Where a launch came from (R332). -/
inductive Source where
  | host | channel (c : Fin 256) | spawn
deriving DecidableEq, Repr
/-- A job in flight (R329, R331). -/
structure Job where
  id : Nat
  p : Fin 3
  vf : Fin 64
  parent : Nat
  rcd : LaunchRec
  source : Source
  /-- acceptance order, for R338 -/
  order : Nat
  st : JobSt
  /-- first cause of a failure (R32) -/
  cause : Option (BitVec 8)
  /-- the status an abandoning job will end with -/
  ending : JobStatus
  /-- the lowest gang above every placed one; gangs below it that were passed over and never placed (R338) -/
  nextGang : Nat
  skipped : List Nat := []
  /-- gangs every hart of which retired `JEND` -/
  gangsEnded : Nat
  /-- sealed and voided tickets (R38) -/
  sealedT : List Nat
  voidedT : List Nat
  /-- the ticket that holds the commit right in job scope (R38) -/
  right : Nat
  /-- tick or intake time at which the job was abandoned or killed (R343) -/
  endAt : Option Nat
  /-- has unplaced gangs considered for placement (R338) -/
  ready : Bool
  /-- turn among best-effort jobs (R338) -/
  turn : Nat
  /-- core and first slot of a job launched from a pinned channel (R335) -/
  pin : Option (Nat × Nat)
  /-- free places in the overflow segments linked for the job (R269) -/
  ovfFree : Nat
  /-- the VA of the overflow segment linked last (R269) -/
  ovfBase : Nat := 0
  /-- parent ticket and number under it, for a job made by `JSPAWN` (R37) -/
  spawnKey : Option (Nat × Nat)
deriving DecidableEq, Repr

/-- A sibling of a family (R37). -/
structure Kid where
  job : Nat
  ticket : Nat
  num : Nat
  tickets : Nat
  /-- abandon policy 10: left out of its parent's abandonment (R344) -/
  apart : Bool
deriving DecidableEq, Repr
/-- The jobs spawned by one parent, with the key that holds the commit right in tree scope (R37, R38): the parent
ticket `pt`, the sibling number `num` under it, and that sibling's ticket. -/
structure Family where
  p : Fin 3
  parent : Nat
  /-- tickets the parent has in all -/
  tickets : Nat
  kids : List Kid
  pt : Nat
  num : Nat
  right : Nat
deriving DecidableEq, Repr

/-- The operation of one element of an ordered or posted instruction (R40, R234). -/
inductive OrdOp where
  | store (bytes : List Byte)
  | amo (op : AmoOp) (x : Word)
  | cas (expected new : Nat)
deriving DecidableEq, Repr
/-- One element: its number, its place, its bytes and its operation. -/
structure OrdElem where
  e : Nat
  loc : Loc
  n : Nat
  op : OrdOp
deriving DecidableEq, Repr
/-- What a returning ordered operation fills (R41): a scalar register (and its pair), or the active elements of a
vector register and of `l2`; `sx` extends 4-byte values. -/
inductive Fill where
  | none
  | g (d : Option (Fin 32)) (wide : Bool) (sx : Bool)
  | v (d : Option (Fin 56)) (sx : Bool)
deriving DecidableEq, Repr
/-- A commit-buffer entry: one element group of one ordered instruction (R40). -/
structure Entry where
  num : Nat
  p : Fin 3
  job : Nat
  tree : Bool
  ticket : Nat
  h : HartId
  core : Nat
  /-- 0 in the commit buffer; 1 in a spill segment; 2 in the gang's commit chain (R40, R349) -/
  place : Fin 3
  elems : List OrdElem
  fill : Fill
  /-- the translations that its addresses came from (R197) -/
  pins : List Pin
  /-- an operation of the hart's V agent, else of S (R129) -/
  vec : Bool := false
  /-- an acquire (R136) -/
  acq : Bool := false
  /-- an acquire that empties the scalar data cache when it is performed: any by S, one by V at core scope or wider
  (R134) -/
  empties : Bool := false
deriving DecidableEq, Repr
/-- An accepted element of a `VSTA`, performed later (R243); one that has met poison at its home is never performed, and
waits for its late-poison step (R234). -/
structure Posted where
  p : Fin 3
  job : Nat
  elem : OrdElem
  met : Bool := false
deriving DecidableEq, Repr

/-- A copy in flight (R278 to R281). -/
structure Copy where
  id : Nat
  p : Fin 3
  job : Nat
  gang : Nat
  cluster : Nat
  rcd : List Word
  srcPins : List Pin
  dstPins : List Pin
  /-- the plain base that the producer window stood for, with the ring and the stage (R121) -/
  stage : Option (Fin 8 × Fin 16 × Nat)
  /-- the ISS to which the copy resolved (R121, R123) -/
  iss : BitVec 32 := 0
  /-- elements done -/
  pos : Nat
  total : Nat
  poisoned : Bool
  cancelled : Bool
deriving DecidableEq, Repr
/-- A coding command in flight (R285 to R288). -/
structure Coding where
  id : Nat
  p : Fin 3
  job : Nat
  gang : Nat
  cls : Fin 3
  rcd : List Word
  started : Bool
  stale : Bool
  /-- the barrier was reset while the command ran (R288) -/
  noCount : Bool
  inPins : List Pin
  outPins : List Pin
  harqPins : List Pin
  statPins : List Pin
deriving DecidableEq, Repr
/-- A transmit record waiting at a port (R289, R290). -/
structure Tx where
  id : Nat
  p : Fin 3
  job : Nat
  gang : Nat
  rcd : List Word
  pins : List Pin
deriving DecidableEq, Repr

/-- A partial (m, l, o) of a query, as binary32 bits (R101, R268). -/
structure Partial where
  m : BitVec 32
  l : BitVec 32
  o : List (BitVec 32)
deriving DecidableEq, Repr
/-- A query of a subscription in the Cask (R269): its head, next position, waiting partials in Cask entries and in
overflow segments, and the positions handed in. -/
structure Query where
  out : Nat
  head : Option Partial
  next : Nat
  waiting : List (Nat × Partial)
  overflow : List (Nat × Partial)
  handed : List Nat
  written : Bool
deriving DecidableEq, Repr
/-- A subscription (R263, R264). -/
structure Sub where
  idx : Nat
  reuse : BitVec 5
  p : Fin 3
  job : Nat
  gang : Nat
  ring : Fin 8
  bar : Fin 32
  pages : List Nat
  passed : List Nat
  delivered : List Nat
  pins : List Pin
  queries : List Query
  ended : Bool
deriving DecidableEq, Repr
/-- A fetched page that the engine holds (R265). -/
structure HeldPage where
  id : Nat
  tail : Bool
  err : Bool
  keys : List Byte
  values : List Byte
  todo : List Nat
deriving DecidableEq, Repr
/-- States of a sweep context, by the codes of counter 0 (Table 11-9); `free` was never opened. -/
inductive SweepSt where
  | free | opened | main | closedMain | tail | done | ended
deriving DecidableEq, Repr
/-- A sweep context (R260 to R272). -/
structure Sweep where
  gen : BitVec 30
  st : SweepSt
  p : Fin 3
  job : Nat
  rcd : List Word
  tblPins : List Pin
  pagePins : List Pin
  openedAt : Nat
  union : List Nat
  cursor : Option Nat
  tailCursor : Option Nat
  held : List HeldPage
  subs : List Sub
  accepted : Nat
  mainFetches : Nat
  tailFetches : Nat
  committed : Nat
  merged : Nat
  overflowed : Nat
  refused : Nat
deriving DecidableEq, Repr
def Sweep.empty : Sweep :=
  { gen := 0, st := .free, p := 0, job := 0, rcd := [], tblPins := [], pagePins := [], openedAt := 0, union := [],
    cursor := none, tailCursor := none, held := [], subs := [], accepted := 0, mainFetches := 0, tailFetches := 0,
    committed := 0, merged := 0, overflowed := 0, refused := 0 }

/-- What a message launches (R334, R336): its record, or none for one that fails, in which function, and the core and
first slot that the entry pins it to. -/
structure Taken where
  rcd : Option LaunchRec
  vf : Fin 64
  pin : Option (Nat × Nat)
deriving DecidableEq, Repr
/-- A channel message (R336): payload, arrival time, poster's job id, and what it launches when it was taken at once
(R337); otherwise it is pending. -/
structure Msg where
  payload : Word
  at_ : Nat
  poster : Nat
  taken : Option Taken := none
deriving DecidableEq, Repr
/-- A task-table entry (Table 16-2) with its template copy and pending messages (R334, R337). -/
structure TaskEntry where
  tmplVa : BitVec 56
  doff : BitVec 32
  vf : BitVec 6
  pmode : BitVec 2
  blk : Bool
  valid : Bool
  perm : BitVec 64
  rsv : Bool
  pin : Bool
  pcl : BitVec 3
  pcore : BitVec 3
  pslot : BitVec 2
  tmpl : LaunchRec
  msgs : List Msg
deriving DecidableEq, Repr
def TaskEntry.empty : TaskEntry :=
  { tmplVa := 0, doff := 0, vf := 0, pmode := 0, blk := false, valid := false, perm := 0, rsv := false, pin := false,
    pcl := 0, pcore := 0, pslot := 0, tmpl := LaunchRec.zero, msgs := [] }

/-- An invalidation in progress (R197, R363, R375): its function, its address (none for every page), the `dtime` it
began, and whether its grace has ended; `vf := none` covers the partition. -/
structure Inval where
  id : Nat
  p : Fin 3
  vf : Option (Fin 64)
  va : Option Nat
  since : Nat
  expired : Bool := false
deriving DecidableEq, Repr

/-- A function block (Table 18-3), with the VF's log (R324). -/
structure Func where
  slots : Vector LaunchRec 64
  ltail : BitVec 32
  lhead : BitVec 32
  lerr : Bool
  root : BitVec 39
  rootv : Bool
  svec : BitVec 53
  abase : Vector (BitVec 40) 4
  ag : Vector Bool 4
  iva : BitVec 40
  ikind : BitVec 2
  ibusy : Option Nat
  fqb : BitVec 40
  fqn : BitVec 4
  fqt : BitVec 32
  fqh : BitVec 32
  fqrv : Word
  cerr : BitVec 2
  log : List Byte
deriving DecidableEq, Repr
def Func.empty : Func :=
  { slots := Vector.replicate 64 LaunchRec.zero, ltail := 0, lhead := 0, lerr := false, root := 0, rootv := false,
    svec := 0, abase := Vector.replicate 4 0, ag := Vector.replicate 4 false, iva := 0, ikind := 0, ibusy := none,
    fqb := 0, fqn := 0, fqt := 0, fqh := 0, fqrv := 0, cerr := 0, log := [] }

/-- A firmware image that passed verification (R407): slot, security version and digest. -/
structure Image where
  ks : BitVec 2
  svn : BitVec 8
  digest : Nat
deriving DecidableEq, Repr

/-- Partition states (Table 19-1). -/
inductive PartSt where
  | off | reset | run | fault
deriving DecidableEq, Repr
/-- A partition (Tables 16-4, 18-2, 19-1). -/
structure Part where
  q0 : Word
  town : Bool
  ways : BitVec 16
  hrb : BitVec 36
  hrs : BitVec 32
  err : BitVec 4
  st : PartSt
  fwa : BitVec 52
  fwver : BitVec 8
  /-- Q0 at the last GO: `cap1` (R390) -/
  cap1 : Word
  preth : BitVec 32
  aben : Bool
  abch : BitVec 8
  urgth : BitVec 32
  jmax : BitVec 14
  bediv : BitVec 2
  rmcnt : Word
  dropPosts : BitVec 32
  dropRecs : BitVec 32
  twgrant : BitVec 8
  twdrop : Word
  tasks : Vector TaskEntry 256
  funcs : Vector Func 64
  nextJob : Nat
  nextOrder : Nat
  /-- the firmware that a switch will bring, and the `dtime` it began (R328) -/
  switch : Option (Image × Nat)
  nextSeq : Nat
deriving DecidableEq, Repr
def Part.empty : Part :=
  { q0 := 0, town := false, ways := 0, hrb := 0, hrs := 0, err := 0, st := .off, fwa := 0, fwver := 0, cap1 := 0,
    preth := 50000, aben := false, abch := 0, urgth := 0, jmax := 0, bediv := 2, rmcnt := 0, dropPosts := 0,
    dropRecs := 0, twgrant := 0, twdrop := 0, tasks := Vector.replicate 256 TaskEntry.empty,
    funcs := Vector.replicate 64 Func.empty, nextJob := 1, nextOrder := 0, switch := none, nextSeq := 0 }

/-- A flow entry (Table 18-6). -/
structure Flow where
  q0 : Word
  q1 : Word
  q2 : Word
  seq : BitVec 8
deriving DecidableEq, Repr
def Flow.empty : Flow := { q0 := 0, q1 := 0, q2 := 0, seq := 0 }
/-- A placement entry (Table 18-7), with the key for which it posted last (R385). -/
structure Place where
  q0 : Word
  q1 : Word
  q2 : Word
  q3 : Word
  posted : List Nat
deriving DecidableEq, Repr
def Place.empty : Place := { q0 := 0, q1 := 0, q2 := 0, q3 := 0, posted := [] }
/-- A fronthaul port (Table 18-5). -/
structure Port where
  mtu : BitVec 14
  hqen : Bool
  rate : BitVec 3
  link : Bool
  cnt : Vector Word 15
  rxb : BitVec 40
  rxn : BitVec 4
  rxt : BitVec 32
  rxh : BitVec 32
  txb : BitVec 40
  txn : BitVec 4
  txt : BitVec 32
  txh : BitVec 32
  flows : Vector Flow 512
  places : Vector Place 1024
deriving DecidableEq, Repr
def Port.empty : Port :=
  { mtu := 1518, hqen := false, rate := 0, link := false, cnt := Vector.replicate 15 0, rxb := 0, rxn := 0, rxt := 0,
    rxh := 0, txb := 0, txn := 0, txt := 0, txh := 0, flows := Vector.replicate 512 Flow.empty,
    places := Vector.replicate 1024 Place.empty }

/-- A packet that left a fronthaul port (R290): the header fields of the record and flow entry, and the payload. -/
structure Sent where
  port : Fin 8
  dmac : BitVec 48
  smac : BitVec 48
  vlan : Option (BitVec 16)
  seq : BitVec 8
  eaxc : BitVec 16
  cplane : Bool
  frameId : BitVec 8
  subframe : BitVec 4
  slot : BitVec 6
  symbol : BitVec 4
  secId : BitVec 12
  startPrb : BitVec 10
  numPrb : BitVec 8
  /-- the udCompHdr byte, when the record asks for it -/
  udHdr : Option (BitVec 4)
  beam : BitVec 15
  reMask : BitVec 12
  numSymbol : BitVec 4
  payload : List Byte
  time : Nat
deriving DecidableEq, Repr

/-- What leaves the device, other than through memory: packets, host-queue frames, IO transactions, management
responses, error reports, channel posts dropped and the board's thermal-trip signal. -/
inductive Out where
  | packet (s : Sent)
  | frame (port : Fin 8) (bytes : List Byte) (time : Nat)
  | ioWrite (pa : Nat) (bytes : List Byte)
  | ioRead (pa : Nat) (n : Nat)
  | housekeeping (off : BitVec 16) (v : Word)
  /-- the response to a housekeeping write, sent once the write is performed (R412) -/
  | housekeepingDone (off : BitVec 16)
  | spdm (via : SpdmPort) (code : Nat) (bytes : List Byte)
  | aer (p : Fin 3) (corrected : Bool)
  | thermalTrip
  | crs
  | hostData (bytes : List Byte) (poisoned : Bool)
  | twinData (bytes : List Byte) (poisoned : Bool)
  | backInvalidate (line : Nat)
deriving DecidableEq, Repr

/-- An error-log entry (R404). -/
structure ErrLog where
  source : BitVec 8
  unit : BitVec 16
  addr : Word
  p : Option (Fin 3)
  time : Nat
  corrected : Bool
deriving DecidableEq, Repr

/-- What moves next (the model's own, log entry 1): a thread of a hart, or a step of another agent. -/
inductive Turn where
  | run (h : HartId)
  | event (i : Instr)
deriving DecidableEq, Repr

/-- The state of the device. -/
structure State where
  /-- the model's own: the turns to come, the hart that runs when none is named, the counter of free values, the
  choices that the spec leaves to the device, and the cycles of the coming steps (log entries 1, 2, 10) -/
  agenda : List Turn
  cur : HartId
  freeCtr : Nat
  choices : List Nat
  gaps : List Nat
  /-- part number and stepping (R18) -/
  part : BitVec 16
  stepping : BitVec 8
  /-- cycles of the arithmetic clock since reset (R3) -/
  cyc : Nat
  oscRem : Nat
  dtime : Nat
  dfrac : Nat
  lastTick : Nat
  tfadj : BitVec 32
  /-- TREM in units of 10^-4 ns -/
  trem : Int
  tfoff : BitVec 64
  sen : Bool
  sport : BitVec 3
  terr : Bool
  tstate : BitVec 2
  /-- the `dtime` from which the 16 s without the servo count (R387) -/
  lastServo : Int
  synceLock : Bool
  hgen : BitVec 4
  cxlv : BitVec 4
  hwid : BitVec 5
  hostc : Bool
  tgen : BitVec 4
  twid : BitVec 4
  dev : Mem
  host : Mem
  twin : Mem
  /-- poisoned 128-byte lines of device, host and twin memory (R109, R401) -/
  devPoison : List Nat
  hostPoison : List Nat
  twinPoison : List Nat
  /-- host addresses whose next read or write completes with an error (R371) -/
  hostErr : List (Bool × Nat)
  /-- lines in the L2, with their way (R108, R396) -/
  l2 : List (Nat × Fin 16)
  /-- device lines the host may hold (R370), host lines a home slice owns (R147) -/
  snoop : List Nat
  owned : List Nat
  /-- translations that the caches hold (R362) -/
  tlb : List Leaf
  walks : List Branch
  /-- the model's own: whether the walks of this step and of the coming ones are served by the caches (log entry 10) -/
  serves : List Bool
  invals : List Inval
  nextInval : Nat
  gangs : List Gang
  nextGang : Nat
  /-- scratchpad regions awaiting a clear: core, base, size (R339) -/
  toClear : List (Nat × Nat × Nat)
  holds : List Hold
  jobs : List Job
  families : List Family
  entries : List Entry
  nextEntry : Nat
  posted : List Posted
  copies : List Copy
  codings : List Coding
  txs : List Tx
  nextWork : Nat
  sweeps : Vector Sweep 4
  subReuse : Vector (BitVec 5) 2048
  parts : Vector Part 3
  ports : Vector Port 8
  out : List Out
  /-- housekeeping: boot stage, thermal trip, recovery wait, PLIMX (Table 19-5) -/
  bootStage : BitVec 2
  tripped : Bool
  recovery : Bool
  plimx : Bool
  plim : BitVec 10
  watts : BitVec 10
  temp : BitVec 16
  clkMHz : Nat
  retireQ0 : BitVec 40
  retirePend : BitVec 40
  fence : BitVec 64
  lockstepCnt : Vector (BitVec 32) 64
  failedCh : BitVec 32
  /-- uncorrected errors of the last hour: channel and `dtime` (R402) -/
  chErrs : List (Nat × Nat)
  errLog : List ErrLog
  errHead : Word
  /-- the partition that last held each channel group (R395) -/
  lastOwner : Vector (Option (Fin 3)) 8
  ksRevoked : BitVec 4
  minSvn : Vector (BitVec 8) 2
  bootImage : Option Image
  hearthImage : Vector (Option Image) 3
  flashImage : List Byte
  flashTable : Vector (Word × Word × Word × Word × Word) 3
  /-- images that the boot firmware puts into device memory, with their addresses (log entry 9) -/
  flashBlobs : List (Nat × List Byte)
  /-- the partition table at the last GO (R409) -/
  goTable : List Word
  spdmVersion : Vector (Option (BitVec 8)) 4
deriving DecidableEq, Repr

/-- A supervisor thread at placement (R310, R318), with the image entry and firmware version. -/
def Sup.init (svec : Word) (sver : BitVec 8) : Sup :=
  { g := Vector.replicate 32 0, tk := Vector.replicate 8 Token.empty, st := .idle, pc := 0, sver := sver, lhl := 8,
    sstep := false, utk := false, inh := false, svec := svec, scause := 0, sepc := 0, sei := 0, seaddr := 0,
    infoOp := 0, infoSrc := 0, infoDetail := 0, sscratch := 0, bpe := false, bpa := 0, ran := 0, locks := 0,
    call := none, wait := none }

/-- A hart with every field at its value at job start (Table 3-8), before the launch record is applied. -/
def Hart.init : Hart :=
  { g := Vector.replicate 32 0, v := Vector.replicate 60 VReg.empty, m := Vector.replicate 16 0,
    acc := Vector.replicate 4 none, tk := Vector.replicate 8 Token.empty, str := Vector.replicate 8 Stream.empty,
    pc := 0, vl := 128, ei := 0, fcsr := 1, lw := 0, evt := false, locks := 0, hold := 0, lockAddr := 0,
    wph := Vector.replicate 32 0, cache := [], icache := [], stores := [], fillG := [], fillV := [], spill := [], st := .running,
    wait := none, sealed := false, stepArm := false, stepDue := false, bpExempt := false,
    sup := Sup.init 0 0 }

/-- The device right after reset (00 to 19; log entries 3 to 9): no partition configured, no job, memory zero. -/
def State.reset : State :=
  { agenda := [], cur := { gang := 0, rank := 0 }, freeCtr := 0, choices := [], gaps := [], part := 0x7140,
    stepping := 0x10, cyc := 0, oscRem := 0, dtime := 0, dfrac := 0, lastTick := 0, tfadj := 0, trem := 0, tfoff := 0,
    sen := false, sport := 0, terr := false, tstate := 0, lastServo := 0, synceLock := false, hgen := 0, cxlv := 0,
    hwid := 0, hostc := false, tgen := 0, twid := 0, dev := [], host := [], twin := [], devPoison := [],
    hostPoison := [], twinPoison := [], hostErr := [], l2 := [], snoop := [], owned := [], tlb := [], walks := [],
    serves := [], invals := [],
    nextInval := 0, gangs := [], nextGang := 1, toClear := [], holds := [], jobs := [], families := [], entries := [],
    nextEntry := 0, posted := [], copies := [], codings := [], txs := [], nextWork := 0,
    sweeps := Vector.replicate 4 Sweep.empty, subReuse := Vector.replicate 2048 0,
    parts := Vector.replicate 3 Part.empty, ports := Vector.replicate 8 Port.empty, out := [], bootStage := 0,
    tripped := false, recovery := false, plimx := false, plim := 550, watts := 0, temp := 0, clkMHz := 2600,
    retireQ0 := 0, retirePend := 0, fence := 0, lockstepCnt := Vector.replicate 64 0, failedCh := 0, chErrs := [], errLog := [],
    errHead := 0, lastOwner := Vector.replicate 8 none, ksRevoked := 0, minSvn := Vector.replicate 2 0,
    bootImage := none, hearthImage := Vector.replicate 3 none, flashImage := [],
    flashTable := Vector.replicate 3 (0, 0, 0, 0, 0), flashBlobs := [], goTable := [], spdmVersion := Vector.replicate 4 none }

end Sys2Proof.Machine
end

