-- ==== Sys2Proof/Machine/Bits.lean ====
section
/-!
DEFINITION. Bit fields, byte order, and small operations on vectors and lists that the machine uses throughout.
-/

namespace Sys2Proof.Machine

/-- Bits [hi:lo] of a word, as a number (R2). -/
def bits (w : Word) (hi lo : Nat) : Nat := w.toNat / 2 ^ lo % 2 ^ (hi + 1 - lo)
/-- Bit i of a word. -/
def bit (w : Word) (i : Nat) : Bool := w.getLsbD i
/-- A word with bits [hi:lo] replaced. -/
def setBits (w : Word) (hi lo : Nat) (v : Nat) : Word :=
  BitVec.ofNat 64 (w.toNat - bits w hi lo * 2 ^ lo + v % 2 ^ (hi + 1 - lo) * 2 ^ lo)
/-- The low n bits of a number, as a signed number. -/
def signed (n v : Nat) : Int := if v % 2 ^ n < 2 ^ (n - 1) then (v % 2 ^ n : Nat) else (v % 2 ^ n : Nat) - (2 ^ n : Nat)
/-- The low n bits of a number, sign-extended to 64. -/
def sext (n v : Nat) : Word := BitVec.ofInt 64 (signed n v)
/-- A number as a word. -/
def word (n : Nat) : Word := BitVec.ofNat 64 n
/-- A condition as 0 or 1. -/
def oneIf (b : Bool) : Word := if b then 1 else 0

/-- Bytes, lowest address first, as a number (R2). -/
def natOfBytes (bs : List Byte) : Nat := bs.foldr (fun b acc => b.toNat + 256 * acc) 0

/-- The n-byte value extended to 64 bits (SX of Tables 7-5, 7-6a). -/
def extendN (n : Nat) (sx : Bool) (v : Nat) : Word := if sx then sext (8 * n) v else word (v % 2 ^ (8 * n))

/-- A vector with entry i replaced. -/
def vput {α : Type} {n : Nat} (v : Vector α n) (i : Fin n) (x : α) : Vector α n := v.set i.val x i.isLt
/-- A vector with entry i changed by f. -/
def vmod {α : Type} {n : Nat} (v : Vector α n) (i : Fin n) (f : α → α) : Vector α n := vput v i (f v[i])
/-- A vector built from its index. -/
def vgen {α : Type} (n : Nat) (f : Nat → α) : Vector α n := (Vector.range n).map f
/-- Entry i of a vector, or a default beyond its end. -/
def vget {α : Type} {n : Nat} (v : Vector α n) (i : Nat) (d : α) : α := if h : i < n then v[i]'h else d

/-- Entry i of a list of words, or 0. -/
def nth (l : List Word) (i : Nat) : Word := l.getD i 0

/-- An element put into a sorted list, before its equals. -/
def sortedInsert {α : Type} (le : α → α → Bool) (x : α) : List α → List α
  | [] => [x]
  | y :: ys => if le x y then x :: y :: ys else y :: sortedInsert le x ys
/-- The list in the order `le`, equal elements in the order they had. -/
def sorted {α : Type} (l : List α) (le : α → α → Bool) : List α := l.foldr (sortedInsert le) []

/-- The natural number of a nonnegative integer, modulo 2^64. -/
def wrap64 (i : Int) : Nat := (i % (2 ^ 64 : Int)).toNat

/-- The least multiple of m at or above n. -/
def roundUp (n m : Nat) : Nat := if m = 0 then n else (n + m - 1) / m * m
/-- Ceil(a / b). -/
def ceilDiv (a b : Nat) : Nat := if b = 0 then 0 else (a + b - 1) / b

/-- The code of a cause (Table 15-4a). -/
def Cause.code : Cause → Nat
  | .illegal => 0x01 | .priv => 0x02 | .untyped => 0x03 | .type => 0x04 | .badvl => 0x05 | .misalign => 0x06
  | .sprange => 0x07 | .notoken => 0x08 | .tkrange => 0x09 | .tkrevoked => 0x0A | .pagefault => 0x0B | .prot => 0x0C
  | .poison => 0x0D | .barrier => 0x0E | .ring => 0x0F | .ticket => 0x10 | .tile => 0x11 | .sweep => 0x12
  | .atomspace => 0x13 | .brk => 0x14 | .watchdog => 0x15 | .lockstep => 0x16 | .engine => 0x17

/-- The code of a completion status (Table 16-5). -/
def JobStatus.code : JobStatus → Nat
  | .done => 0 | .abandoned => 1 | .failed => 2 | .killed => 3 | .spill => 4

end Sys2Proof.Machine
end

