-- ==== Sys2Proof/Machine/Memory.lean ====
section
/-!
DEFINITION. Memory as a canonical list of bytes, the spaces behind the page kinds, and poison (R109, R130, R401). A
byte that nothing has written reads as 0: device memory is scrubbed to zero (R410), a placed gang's scratchpad is zero
(R127), and host and twin memory by choice (log entry 6).
-/

namespace Sys2Proof.Machine

/-- The byte at an address. -/
def Mem.get : Mem → Nat → Byte
  | [], _ => 0
  | (k, b) :: r, a => if k = a then b else if a < k then 0 else Mem.get r a

/-- Memory with one byte written, in canonical form. -/
def Mem.set : Mem → Nat → Byte → Mem
  | [], a, b => if b = 0 then [] else [(a, b)]
  | (k, c) :: r, a, b =>
    if a < k then (if b = 0 then (k, c) :: r else (a, b) :: (k, c) :: r)
    else if a = k then (if b = 0 then r else (a, b) :: r)
    else (k, c) :: Mem.set r a b

/-- n bytes from an address up. -/
def Mem.bytes (m : Mem) (a : Nat) : Nat → List Byte
  | 0 => []
  | n + 1 => Mem.get m a :: Mem.bytes m (a + 1) n

/-- Memory with bytes written from an address up. -/
def Mem.write (m : Mem) (a : Nat) : List Byte → Mem
  | [] => m
  | b :: bs => Mem.write (Mem.set m a b) (a + 1) bs

/-- Addresses rise strictly, and no listed byte is what an unlisted address reads as. -/
def Mem.wf : Mem → Bool
  | [] => true
  | [(_, b)] => b != 0
  | (k, b) :: (k', b') :: r => b != 0 && decide (k < k') && Mem.wf ((k', b') :: r)

/-- Whether an address in scratchpad is poisoned: its 4-byte word is (R113). -/
def spPoisoned (ws : List Nat) (a n : Nat) : Bool := ws.any fun w => decide (w * 4 < a + n) && decide (a < w * 4 + 4)
/-- Poisoned words left after a write of n bytes at a: a word all of whose bytes are written is cleared (R113). -/
def spClear (ws : List Nat) (a n : Nat) : List Nat :=
  ws.filter fun w => !(decide (a ≤ w * 4) && decide (w * 4 + 4 ≤ a + n))
/-- Whether bytes of a space lie in a poisoned 128-byte line (R109). -/
def linePoisoned (ls : List Nat) (a n : Nat) : Bool :=
  ls.any fun l => decide (l * 128 < a + n) && decide (a < l * 128 + 128)
/-- Poisoned lines left after one write of n bytes at a: a line all of whose bytes it covers is cleared (R401). -/
def lineClear (ls : List Nat) (a n : Nat) : List Nat :=
  ls.filter fun l => !(decide (a ≤ l * 128) && decide (l * 128 + 128 ≤ a + n))

/-- n bytes of values that the spec leaves open, from the k-th on (log entry 2). -/
def freeBytes (k n : Nat) : List Byte := (List.range n).map fun i => (Config.freeWord (k + i)).setWidth 8

/-- The memory behind a page kind; IO has none. -/
def State.memOf (s : State) : PageKind → Mem
  | .dev => s.dev | .hostc => s.host | .hostn => s.host | .twin => s.twin | .io => []
/-- The poisoned lines behind a page kind. -/
def State.poisonOf (s : State) : PageKind → List Nat
  | .dev => s.devPoison | .hostc => s.hostPoison | .hostn => s.hostPoison | .twin => s.twinPoison | .io => []

/-- The memories behind the page kinds are in canonical form. -/
abbrev State.memWf (s : State) : Prop := Mem.wf s.dev = true ∧ Mem.wf s.host = true ∧ Mem.wf s.twin = true
/-- The scratchpads of the gangs are in canonical form. -/
abbrev State.spWf (s : State) : Prop := ∀ g ∈ s.gangs, Mem.wf g.sp = true

/-- Whether a device physical address lies in a group one of whose channels has failed (R393, R402). -/
def State.groupFailed (s : State) (pa : Nat) : Bool :=
  (List.range 4).any fun c => s.failedCh.getLsbD (4 * (pa / 0x800000000) + c)

/-- The byte that a home holds. -/
def State.byteAt (s : State) (l : Loc) : Byte := Mem.get (s.memOf l.kind) l.pa

/-- The twin lets this device reach a physical address of its memory (R378): a free value at each cycle (log entry 50). -/
def State.twinOpen (s : State) (pa : Nat) : Bool := s.tgen != 0 && (Config.twinGrant s.cyc).getLsbD (pa / 2 ^ 35)
/-- Whether a read at a home delivers poison: a poisoned line, a failed group (R402), a twin link that is down or a
read that the twin refuses (R378), or a host read that completes with an error (R371). -/
def State.readPoison (s : State) (l : Loc) (n : Nat) : Bool :=
  linePoisoned (s.poisonOf l.kind) l.pa n ||
  (match l.kind with
   | .dev => s.groupFailed l.pa
   | .twin => !s.twinOpen l.pa
   | .hostc => s.hostErr.any fun e => !e.1 && decide (l.pa ≤ e.2) && decide (e.2 < l.pa + n)
   | .hostn => s.hostErr.any fun e => !e.1 && decide (l.pa ≤ e.2) && decide (e.2 < l.pa + n)
   | .io => false)

/-- n bytes read at a home; an IO page answers with device data (R105). -/
def State.readHome (s : State) (l : Loc) (n : Nat) : List Byte :=
  match l.kind with
  | .io => bytesOfNat n (Config.ioData s.freeCtr).toNat
  | k => Mem.bytes (s.memOf k) l.pa n

/-- Lines of 128 bytes that n bytes at an address touch. -/
def linesOf (a n : Nat) : List Nat := (List.range ((a + n + 127) / 128 - a / 128)).map (a / 128 + ·)
/-- Before a device agent acts on n bytes of device memory, the lines of them that the host may hold are taken back from
it (R370), in CXL 3.1 mode alone. -/
def State.takeBack (s : State) (a n : Nat) : State :=
  let held (k : Nat) : Bool := decide (k * 128 < a + n) && decide (a < k * 128 + 128)
  { s with snoop := s.snoop.filter fun k => !held k,
           out := s.out ++ if s.cxlv = 3 then (s.snoop.filter held).map .backInvalidate else [] }
/-- The state after a read: an IO read is a transaction (R133), an error completion is used up (R371), and a line the
host may hold modified is taken back first (R370). -/
def State.afterRead (s : State) (l : Loc) (n : Nat) : State :=
  match l.kind with
  | .io => { s with out := s.out ++ [.ioRead l.pa n], freeCtr := s.freeCtr + 1 }
  | .dev => s.takeBack l.pa n
  | .twin => s
  | _ => { s with hostErr := s.hostErr.filter fun e => e.1 || !(decide (l.pa ≤ e.2) && decide (e.2 < l.pa + n)) }

/-- The state after a read at a home that delivered poison: it was a read, so an error completion of the host is used up
(R371), and a line that the host may hold was taken back first (R370). An IO read delivers no poison. -/
def State.afterPoison (s : State) (l : Loc) (n : Nat) : State := if l.kind = .io then s else s.afterRead l n

/-- Whether a write at a home is not performed: a failed group drops it (R402), the host completes it with an error
(R371), the twin link is down (R378). -/
def State.writeRefused (s : State) (l : Loc) (n : Nat) : Bool :=
  match l.kind with
  | .dev => s.groupFailed l.pa
  | .twin => !s.twinOpen l.pa
  | .io => false
  | _ => s.hostErr.any fun e => e.1 && decide (l.pa ≤ e.2) && decide (e.2 < l.pa + n)

/-- The first failure cause of a job (R32). -/
def State.failJob (s : State) (p : Fin 3) (job : Nat) (c : Nat) : State :=
  { s with jobs := s.jobs.map fun j =>
      if j.p = p ∧ j.id = job ∧ j.cause = none then { j with cause := some (BitVec.ofNat 8 c) } else j }

/-- One write at a home, for a job (R401 for poison; R371, R378 for what a refused write does to the job; R147 for the
ownership of a HOSTC line). -/
def State.writeHome (s : State) (p : Fin 3) (job : Nat) (l : Loc) (bs : List Byte) : State :=
  if s.writeRefused l bs.length then
    match l.kind with
    | .twin => s.failJob p job Cause.poison.code
    | .dev => s
    | _ => { s with hostErr := s.hostErr.filter fun e =>
               !(e.1 && decide (l.pa ≤ e.2) && decide (e.2 < l.pa + bs.length)) }.failJob p job Cause.prot.code
  else
    match l.kind with
    | .dev =>
      { s.takeBack l.pa bs.length with
        dev := Mem.write s.dev l.pa bs, devPoison := lineClear s.devPoison l.pa bs.length }
    | .hostc => { s with host := Mem.write s.host l.pa bs, hostPoison := lineClear s.hostPoison l.pa bs.length,
                         owned := s.owned ++ (linesOf l.pa bs.length).filter fun k => !s.owned.contains k }
    | .hostn => { s with host := Mem.write s.host l.pa bs, hostPoison := lineClear s.hostPoison l.pa bs.length }
    | .twin => { s with twin := Mem.write s.twin l.pa bs, twinPoison := lineClear s.twinPoison l.pa bs.length }
    | .io => { s with out := s.out ++ [.ioWrite l.pa bs] }

end Sys2Proof.Machine
end

