-- ==== Sys2Proof/Machine/Ops.lean ====
section
/-!
DEFINITION. The shared operations of the machine: harts, gangs and jobs by name, scalar registers at the level that
runs, retirement, taking a trap and returning, killing a hart, blocking, and tickets.
-/

namespace Sys2Proof.Machine

/-- The outcome of an instruction or a step. -/
abbrev Res := Host.Outcome State Fault Refusal

/-! ### Harts, gangs, jobs and partitions by name -/

/-- The gang with a number, if it exists. -/
def State.gang? (s : State) (u : Nat) : Option Gang := s.gangs.find? fun g => g.uid == u
/-- A gang that holds nothing, for a number that names none. -/
def Gang.blank : Gang :=
  { uid := 0, p := 0, job := 0, index := 0, hn := 0, core := 0, core2 := none, slots := [], slots2 := [], spBase := 0,
    spBase2 := 0, spsize := 0, tph := 0, phase := .over, harts := Vector.replicate 4 Hart.init, sp := [],
    spPoison := [], bars := Vector.replicate 32 Barrier.empty, rings := Vector.replicate 8 Ring.empty, recov := none,
    diverged := false, frames := none, saved := [], chains := [] }
def State.gang (s : State) (u : Nat) : Gang := (s.gang? u).getD Gang.blank
/-- The state with the gang of a number changed. -/
def State.modGang (s : State) (u : Nat) (f : Gang → Gang) : State :=
  { s with gangs := s.gangs.map fun g => if g.uid = u then f g else g }
def State.hart (s : State) (h : HartId) : Hart := (s.gang h.gang).harts[h.rank]
/-- The state with one hart changed. -/
def State.modHart (s : State) (h : HartId) (f : Hart → Hart) : State :=
  s.modGang h.gang fun g => { g with harts := vmod g.harts h.rank f }
/-- The hart that runs. -/
def State.me (s : State) : Hart := s.hart s.cur
def State.modMe (s : State) (f : Hart → Hart) : State := s.modHart s.cur f
/-- The gang of the hart that runs. -/
def State.myGang (s : State) : Gang := s.gang s.cur.gang
def State.modMyGang (s : State) (f : Gang → Gang) : State := s.modGang s.cur.gang f
def State.modSup (s : State) (f : Sup → Sup) : State := s.modMe fun h => { h with sup := f h.sup }
/-- A step for one hart, from which the turn goes back to the current hart. -/
def State.asHart (s : State) (h : HartId) (k : State → State) : State := { k { s with cur := h } with cur := s.cur }
/-- The running hart exists. -/
def State.live (s : State) : Prop := ∃ g, s.gang? s.cur.gang = some g

def State.job? (s : State) (p : Fin 3) (id : Nat) : Option Job := s.jobs.find? fun j => j.p == p && j.id == id
def State.modJob (s : State) (p : Fin 3) (id : Nat) (f : Job → Job) : State :=
  { s with jobs := s.jobs.map fun j => if j.p = p ∧ j.id = id then f j else j }
def Job.blank : Job :=
  { id := 0, p := 0, vf := 0, parent := 0, rcd := LaunchRec.zero, source := .host, order := 0, st := .ending,
    cause := none, ending := .done, nextGang := 0, gangsEnded := 0, sealedT := [], voidedT := [], right := 0,
    endAt := none, ready := false, turn := 0, pin := none, ovfFree := 0, spawnKey := none }
def State.jobOf (s : State) (g : Gang) : Job := (s.job? g.p g.job).getD Job.blank
def State.myJob (s : State) : Job := s.jobOf s.myGang

def State.prt (s : State) (p : Fin 3) : Part := s.parts[p]
def State.modPart (s : State) (p : Fin 3) (f : Part → Part) : State := { s with parts := vmod s.parts p f }
def State.func (s : State) (p : Fin 3) (vf : Fin 64) : Func := (s.prt p).funcs[vf]
def State.modFunc (s : State) (p : Fin 3) (vf : Fin 64) (f : Func → Func) : State :=
  s.modPart p fun q => { q with funcs := vmod q.funcs vf f }
def State.modPort (s : State) (n : Fin 8) (f : Port → Port) : State := { s with ports := vmod s.ports n f }

/-! ### Launch record fields (Table 16-1a) -/

def LaunchRec.entry (r : LaunchRec) : Nat := bits r.q0 55 0
def LaunchRec.gangs (r : LaunchRec) : Nat := bits r.q2 19 0
def LaunchRec.harts (r : LaunchRec) : Nat := bits r.q2 22 20 + 1
def LaunchRec.lw (r : LaunchRec) : Nat := bits r.q2 26 23
def LaunchRec.tph (r : LaunchRec) : Nat := bits r.q2 29 27
def LaunchRec.spk (r : LaunchRec) : Nat := bits r.q2 47 32
def LaunchRec.cosched (r : LaunchRec) : Bool := bit r.q2 48
def LaunchRec.paired (r : LaunchRec) : Bool := bit r.q2 49
def LaunchRec.abp (r : LaunchRec) : Nat := bits r.q2 51 50
def LaunchRec.ddl (r : LaunchRec) : Nat := r.q3.toNat
def LaunchRec.vint (r : LaunchRec) : Nat := bits r.q4 39 0
def LaunchRec.crec (r : LaunchRec) : Nat := bits r.q5 55 0
def LaunchRec.amask (r : LaunchRec) : Nat := bits r.q6 11 8
def LaunchRec.cont (r : LaunchRec) : Nat := bits r.q6 7 0
/-- Tickets of the job (R36). -/
def Job.tickets (j : Job) : Nat := j.rcd.gangs * j.rcd.harts

/-! ### Levels and scalar registers -/

/-- The thread that runs is the supervisor thread: its user hart is Trapped (R309). -/
def State.atS (s : State) : Bool := s.me.st == .trapped

/-- A scalar source at the level that runs; `_` reads zero (R48, R310). -/
def State.rg (s : State) (x : GOp) : Word :=
  match x with
  | none => 0
  | some r => if s.atS then s.me.sup.g[r] else s.me.g[r]
/-- A scalar destination at the level that runs; `_` discards (R48). A value written over an unfilled destination of an
ordered atomic supersedes the fill (R41). -/
def State.wg (s : State) (x : GOp) (v : Word) : State :=
  match x with
  | none => s
  | some r =>
    if s.atS then s.modSup fun t => { t with g := vput t.g r v }
    else s.modMe fun h => { h with g := vput h.g r v, fillG := h.fillG.filter fun q => q.1 ≠ r }
/-- A mask source; `_` reads as all zeros (R48, R222). -/
def State.mreg (s : State) (x : MOp) : MaskReg := match x with | some r => s.me.m[r] | none => 0
/-- PC of the thread that runs. -/
def State.pcv (s : State) : Word := if s.atS then s.me.sup.pc else s.me.pc

/-- The next value of a counter of free values, and the state that has used it (log entry 2). -/
def State.free (s : State) : Word × State := (Config.freeWord s.freeCtr, { s with freeCtr := s.freeCtr + 1 })
/-- The next choice that the spec leaves to the device; 0 when none is given (log entry 10). -/
def State.choose (s : State) : Nat × State :=
  match s.choices with
  | [] => (0, s)
  | c :: r => (c, { s with choices := r })

/-! ### Retirement -/

/-- The hart after its instruction retires and control goes to `t`: `ei` is 0 (R24), a wait is over, a single step is
due when it was armed (R321). -/
def Hart.retire (h : Hart) (t : Word) : Hart :=
  { h with pc := t, ei := 0, wait := none, bpExempt := false, stepDue := h.stepDue || h.stepArm, stepArm := false }
/-- The state after the instruction retires and control goes to `t`. -/
def State.goto (s : State) (t : Word) : State :=
  if s.atS then s.modSup fun u => { u with pc := t, wait := none } else s.modMe fun h => h.retire t
/-- The state after the instruction retires and the next one follows it. -/
def State.retired (s : State) : State := s.goto (s.pcv + 8)
def State.retire (s : State) : Res := .next s.retired

/-! ### Events and stores that a step lets go -/

/-- The event register of one hart is set (R193). -/
def State.setEvt (s : State) (h : HartId) : State := s.modHart h fun x => { x with evt := true }
/-- The event registers of a gang are set (R193). -/
def State.setEvtGang (s : State) (u : Nat) : State :=
  s.modGang u fun g => { g with harts := g.harts.map fun x => { x with evt := true } }

/-- The buffered scalar stores of a hart are performed, oldest first (R139). -/
def State.drain (s : State) (h : HartId) : State :=
  let g := s.gang h.gang
  let t := s.modHart h fun x => { x with stores := [] }
  (s.hart h).stores.foldl (fun t b => t.writeHome g.p g.job b.loc b.bytes) t
/-- The scalar data cache holds nothing (R134). -/
def State.dropCache (s : State) (h : HartId) : State := s.modHart h fun x => { x with cache := [] }
/-- An acquire by the hart's S agent, or at core scope or wider by its V agent or by a synchronisation instruction (R134,
R136). It acts towards every agent, whatever its SCOPE (log entry 78). -/
def State.acquire (s : State) : State := s.dropCache s.cur
/-- A release by the hart: its earlier accesses are performed (R136, R137), but for those that the commit buffer holds
(log entry 47). It acts towards every agent, whatever its SCOPE, and for both agents of the hart (log entry 78). -/
def State.release (s : State) : State := s.drain s.cur

/-! ### Tickets (R36 to R42) -/

/-- The ticket of a hart (R36). -/
def Gang.ticket (g : Gang) (r : Fin 4) : Nat := g.index * g.hn + r.val
def State.ticket (s : State) (h : HartId) : Nat := (s.gang h.gang).ticket h.rank
/-- Ordered operations of a ticket in a scope are still to be performed. -/
def State.pendingOps (s : State) (p : Fin 3) (job : Nat) (t : Nat) (tree : Bool) : Bool :=
  s.entries.any fun e => e.p == p && e.job == job && e.ticket == t && e.tree == tree
/-- A ticket is committed: sealed or voided, with every ordered operation performed or discarded (R43). -/
def State.committed (s : State) (j : Job) (t : Nat) : Bool :=
  (j.sealedT.contains t || j.voidedT.contains t) && !s.pendingOps j.p j.id t false && !s.pendingOps j.p j.id t true
/-- A ticket is sealed (R38, R39). -/
def State.sealTicket (s : State) (p : Fin 3) (job t : Nat) : State :=
  s.modJob p job fun j => if j.sealedT.contains t then j else { j with sealedT := j.sealedT ++ [t] }
/-- A ticket is voided and its unperformed operations are discarded (R32, R42); one that the right has passed with
nothing pending is committed and stays so. -/
def State.voidTicket (s : State) (p : Fin 3) (job t : Nat) : State :=
  match s.job? p job with
  | none => s
  | some j =>
    let com := decide (t < j.right) && s.committed j t
    { s with entries := s.entries.filter fun e => !(e.p == p && e.job == job && e.ticket == t) }.modJob p job fun j =>
      if com || j.voidedT.contains t then j else { j with voidedT := j.voidedT ++ [t] }

/-! ### The end of harts and gangs (R26, R30, R32) -/

/-- The ranks of a gang's harts. -/
def Gang.ranks (g : Gang) : List (Fin 4) := (List.finRange 4).filter fun r => r.val < g.hn
def Hart.over (h : Hart) : Bool := h.st == .ended || h.st == .voided
/-- Every hart of the gang has ended or been voided. -/
def Gang.over (g : Gang) : Bool := g.ranks.all fun r => g.harts[r].over
/-- Every hart of the gang retired `JEND`. -/
def Gang.allEnded (g : Gang) : Bool := g.ranks.all fun r => g.harts[r].st == .ended

/-- Tokens released, with their pins (R292, R344). -/
def Hart.dropTokens (h : Hart) : Hart :=
  { h with tk := Vector.replicate 8 Token.empty, str := Vector.replicate 8 Stream.empty,
           sup := { h.sup with tk := Vector.replicate 8 Token.empty } }

/-- A gang all of whose harts are over gives its tiles back (R26) and counts for its job (Table 16-1). -/
def State.settleGang (s : State) (u : Nat) : State :=
  match s.gang? u with
  | none => s
  | some g =>
    if g.over && g.phase != .over then
      let s := s.modGang u fun g =>
        { g with phase := .over, harts := g.harts.map fun h => { h with acc := Vector.replicate 4 none } }
      let s := s.modJob g.p g.job fun j => if g.allEnded then { j with gangsEnded := j.gangsEnded + 1 } else j
      s.modJob g.p g.job fun j =>
        if (j.st == .placing || j.st == .placed) && j.nextGang == j.rcd.gangs && j.skipped.isEmpty &&
           (s.gangs.all fun x => !(x.p == g.p && x.job == g.job) || x.over) then
          { j with st := .ending } else j
    else s

/-- A hart stops for good without retiring `JEND`: its ticket is voided (R32, R42), its tokens go, its supervisor
thread is Idle (R326). -/
def State.voidHart (s : State) (h : HartId) : State :=
  let g := s.gang h.gang
  if (s.hart h).over then s
  else
    let s := s.drain h
    let s := s.voidTicket g.p g.job (g.ticket h.rank)
    let s := s.modHart h fun x =>
      let y := x.dropTokens
      { y with
        st := .voided, wait := none, fillG := [], fillV := [],
        sup := { y.sup with st := .idle, inh := false, call := none, wait := none } }
    s.settleGang h.gang

/-- The accesses of a gang's harts are performed. -/
def State.drainGang (s : State) (g : Gang) : State :=
  g.ranks.foldl (fun s r => s.drain { gang := g.uid, rank := r }) s

/-- A hart is killed with a cause: the job will end FAILED with the cause of its first killed hart (R32). -/
def State.killHart (s : State) (h : HartId) (c : Nat) : State :=
  let g := s.gang h.gang
  (s.failJob g.p g.job c).voidHart h

/-! ### Posted messages (R326, R328, R377) -/

/-- Bytes of a fault-queue entry. -/
def fqEntry : Nat := 320
/-- Where entry k of a function's fault queue lies. -/
def Func.fqLoc (f : Func) (k : BitVec 32) : Loc :=
  { kind := .dev, pa := f.fqb.toNat * 4096 + fqEntry * (k.toNat % 2 ^ f.fqn.toNat) }
/-- Entry k is taken out of a function's fault queue, unless the host has passed it: the later entries move down by one,
with the numbers that their calls know (log entry 42). -/
def State.unpost (s : State) (p : Fin 3) (vf : Fin 64) (k : BitVec 32) : State :=
  let f := s.func p vf
  let i := (k - f.fqh).toNat
  let n := (f.fqt - f.fqh).toNat
  let down (c : Call) : Call :=
    { c with entry := c.entry.map fun e => if i < (e - f.fqh).toNat ∧ (e - f.fqh).toNat < n then e - 1 else e }
  if n ≤ i ∨ 2 ^ f.fqn.toNat < n then s
  else
    let s := (List.range (n - 1 - i)).foldl (fun s j =>
      let q := f.fqLoc (k + BitVec.ofNat 32 j + 1)
      (s.afterRead q fqEntry).writeHome p 0 (f.fqLoc (k + BitVec.ofNat 32 j)) (s.readHome q fqEntry)) s
    let s := s.modFunc p vf fun f => { f with fqt := f.fqt - 1 }
    { s with gangs := s.gangs.map fun g =>
        if g.p = p ∧ (s.jobOf g).vf = vf then
          { g with harts := g.harts.map fun h => { h with sup := { h.sup with call := h.sup.call.map down } } } else g }
/-- The HOSTQ call that a hart's supervisor thread waits in has no effect: its message is taken back (R326, R328). -/
def State.unpostCall (s : State) (h : HartId) : State :=
  let g := s.gang h.gang
  match (s.hart h).sup.call with
  | some { n := 2, taken := true, entry := some k, .. } => s.unpost g.p (s.jobOf g).vf k
  | _ => s
/-- A hart is killed by what is no instruction of its own, so that it may be in a Hearth call (R326). -/
def State.killOutside (s : State) (h : HartId) (c : Nat) : State := (s.unpostCall h).killHart h c

/-! ### Traps (R314 to R316) -/

/-- A trap as an instruction raises it: cause, DETAIL and SRC of Table 15-4, address, and the `ei` it leaves. -/
structure TrapInfo where
  c : Cause
  detail : Nat := 0
  src : Nat := 0
  addr : Word := 0
  ei : Nat := 0
deriving DecidableEq, Repr

/-- The supervisor thread as a trap or a service call starts it (R189, R316): `sepc`, `scause`, `sei`, `seaddr`,
`sinfo` and INH are set, and it runs from `svec`. -/
def Sup.enter (t : Sup) (op cause detail src : Nat) (epc : Word) (ei : Nat) (addr : Word) : Sup :=
  { t with st := .running, pc := t.svec &&& ~~~ (7 : Word), inh := true, scause := BitVec.ofNat 8 cause, sepc := epc,
           sei := BitVec.ofNat 7 ei, seaddr := addr, infoOp := BitVec.ofNat 7 op, infoSrc := BitVec.ofNat 2 src,
           infoDetail := BitVec.ofNat 16 detail, ran := 0, wait := none }

/-- The user hart of `h` enters its supervisor thread: its accesses are performed (R152), its scalar cache is
invalidated (R134), and it is Trapped. Ordered operations that the commit buffer holds are left there, and the handler's
accesses do not wait for them (log entry 47). A single step whose one instruction enters so, as `SVC` does, is dropped (log entry
46). -/
def State.enter (s : State) (h : HartId) (op cause detail src : Nat) (epc : Word) (ei : Nat) (addr : Word) : State :=
  (s.drain h).modHart h fun x =>
    { x with st := .trapped, wait := none, cache := [], stepArm := false, stepDue := false, ei := ei,
             sup := x.sup.enter op cause detail src epc ei addr }

/-- A trap of the user hart `h` at `epc`: entry, or, with no supervisor image, a kill with the trap's cause (R308). An
`svec` of 0, which a handler may write as well, is no image (log entry 59). -/
def State.trapAt (s : State) (h : HartId) (op : Nat) (epc : Word) (t : TrapInfo) : State :=
  if (s.hart h).sup.svec = 0 then s.killHart h t.c.code
  else s.enter h op t.c.code t.detail t.src epc t.ei t.addr

/-- A trap of the thread that runs: at U an entry, at S a kill of the user hart (R315). -/
def State.raise (s : State) (op : Nat) (t : TrapInfo) : Res :=
  if s.atS then .next (s.killHart s.cur t.c.code) else .next (s.trapAt s.cur op s.me.pc t)

/-- A trap with no more than its cause. -/
def trap (c : Cause) : TrapInfo := { c := c }

/-- An instruction outside Table 15-2 raises ILLEGAL in the supervisor thread (R310). -/
def State.userOnly (s : State) (op : Nat) (k : Res) : Res := if s.atS then s.raise op (trap .illegal) else k
/-- A supervisor-only instruction raises PRIV at U (R307). -/
def State.supOnly (s : State) (op : Nat) (k : Res) : Res := if s.atS then k else s.raise op (trap .priv)

/-! ### Blocking (R25, R125) -/

/-- Stalls that R125 counts as one while an instruction goes from one to another: on a ring's window, and of a `TCOPY`. -/
def WaitFor.ofRing : WaitFor → Bool
  | .ringFull _ | .ringEmpty _ | .copyQueue => true
  | _ => false
/-- A wait of a `VWAITC` (R244): between its evaluations, or for the hart's own ordered operations before one. -/
def Wait.ofVwaitc (w : Wait) : Bool := w.op == 0x52 && (w.what == .vwaitc || w.what == .ordered)
/-- The rings whose consumer windows the instruction of a wait has stalled on, this wait among them (R124, R232). -/
def Wait.passed (w : Wait) : List (Fin 8) := match w.what with | .ringEmpty r => r :: w.stalled | _ => w.stalled
/-- A wait that takes another's place at the same instruction without an interruption of what its watchdog counts (R125,
R244). -/
def Wait.goesOn (o new : Wait) : Bool := (o.what.ofRing && new.what.ofRing) || (o.ofVwaitc && new.ofVwaitc)
/-- The wait of a thread that blocks: the one it is already in, or a new one. An instruction that comes from one wait to
another keeps the rings it has stalled on (R232), and the count of its watchdog where that goes on (R125, R244). -/
def Wait.enter (old : Option Wait) (new : Wait) : Wait :=
  match old with
  | some o =>
    if o.op ≠ new.op then new
    else if o.what = new.what then o
    else if o.goesOn new then { new with since := o.since, expired := o.expired, late := o.late, stalled := o.passed }
    else { new with stalled := o.passed }
  | none => new
/-- The thread blocks or stalls at its instruction, which has had no effect: `ends` is the `dtime` of a time-out. An
instruction that is evaluated again and blocks once more is still in its wait (R125, R244). `addr` is the effective
address of a scalar access (R316). -/
def State.block (s : State) (op : Nat) (w : WaitFor) (ends : Option Nat) (addr : Word := 0) : Res :=
  let new : Wait := { what := w, op := op, since := s.cyc, ends := ends, expired := false, addr := addr }
  if s.atS then .next (s.modSup fun t => { t with st := .blocked, wait := some (Wait.enter t.wait new) })
  else .next (s.modMe fun h => { h with st := .blocked, wait := some (Wait.enter h.wait new) })

end Sys2Proof.Machine
end

