-- ==== Sys2Proof/Machine/Translate.lean ====
section
/-!
DEFINITION. Address translation: page-table walks (R359, R360), the checks of a valid leaf (R361), translation caches
(R362), and instruction fetch (R155).
-/

namespace Sys2Proof.Machine

/-- What an access does, for the checks of R361. -/
inductive Use where
  | read | write | fetch
deriving DecidableEq, Repr
/-- DETAIL of a scalar access (Table 15-4). -/
def Use.detail : Use → Nat
  | .read => 0 | .write => 1 | .fetch => 2

/-- Page kinds by their codes (Table 17-6). -/
def PageKind.ofCode : Nat → Option PageKind
  | 0 => some .dev | 1 => some .hostc | 2 => some .hostn | 3 => some .twin | 4 => some .io | _ => none

/-- log2 of the page that a leaf of a level maps. -/
def pageShift (lvl : Nat) : Nat := 46 - 10 * lvl

/-- A malformed entry (R360), for the partition's PTWIN and the device's HOSTC. -/
def malformed (ptwin hostc : Bool) (pte : Word) (lvl : Nat) : Bool :=
  bits pte 55 52 != 0 || bits pte 12 11 != 0 || bits pte 7 6 != 0 ||
  (if bit pte 1 then
    lvl == 0 || bits pte 51 13 * 8192 % 2 ^ pageShift lvl != 0 || (PageKind.ofCode (bits pte 10 8)).isNone ||
      (bit pte 3 && !bit pte 2) || (bits pte 10 8 == 4 && bit pte 4) || (bits pte 10 8 == 1 && !hostc) ||
      (bits pte 10 8 == 3 && !ptwin)
   else lvl == 3 || bits pte 10 2 != 0)

/-- The leaf that a well-formed leaf entry of a level gives for an address. -/
def leafOf (p : Fin 3) (vf : Fin 64) (pte : Word) (lvl va : Nat) : Leaf :=
  let size := 2 ^ pageShift lvl
  { pin := { p := p, vf := vf, va := va / size * size, size := size, pa := bits pte 51 13 * 8192,
             kind := (PageKind.ofCode (bits pte 10 8)).getD .dev, r := bit pte 2, w := bit pte 3, mark := [] },
    x := bit pte 4, sup := bit pte 5 }

/-- Where the entry of a table for an address lies: a table above the device's memory is in host-cached memory (R359; log
entry 16). -/
def tableLoc (t lvl va : Nat) : Loc :=
  { kind := if t < 2 ^ 38 then .dev else .hostc, pa := t + 8 * (va / 2 ^ pageShift lvl % 1024) }
/-- The entry of a table for an address, read at its home; one that is invalid, malformed or out of reach is a page
fault. -/
def State.entryAt (s : State) (p : Fin 3) (t lvl va : Nat) : Except Cause Word :=
  let l := tableLoc t lvl va
  if s.readPoison l 8 then .error .poison
  else
    let pte := word (natOfBytes (s.readHome l 8))
    if !bit pte 0 || malformed (bit (s.prt p).cap1 30) s.hostc pte lvl || (l.kind == .hostc && !s.hostc) then
      .error .pagefault
    else .ok pte
/-- The walk of R359 from the table at `t` and the level `4 - n`. -/
def State.walkFrom (s : State) (p : Fin 3) (vf : Fin 64) (va : Nat) : Nat → Nat → Except Cause Leaf
  | 0, _ => .error .pagefault
  | n + 1, t =>
    match s.entryAt p t (3 - n) va with
    | .error c => .error c
    | .ok pte => if bit pte 1 then .ok (leafOf p vf pte (3 - n) va) else s.walkFrom p vf va n (bits pte 51 13 * 8192)
/-- The non-leaf entries that the walk reads. -/
def State.branches (s : State) (p : Fin 3) (vf : Fin 64) (va : Nat) : Nat → Nat → List Branch
  | 0, _ => []
  | n + 1, t =>
    match s.entryAt p t (3 - n) va with
    | .error _ => []
    | .ok pte =>
      if bit pte 1 then [] else
        let u := bits pte 51 13 * 8192
        { pin := { (leafOf p vf pte (3 - n) va).pin with pa := u }, left := n } :: s.branches p vf va n u

/-! ### Translation caches (R362) -/

/-- A translation of a function covers an address. -/
def Pin.at_ (q : Pin) (p : Fin 3) (vf : Fin 64) (va : Nat) : Bool :=
  q.p == p && q.vf == vf && decide (q.va ≤ va) && decide (va < q.va + q.size)
/-- A remembered translation that covers the address. -/
def State.remembered (s : State) (p : Fin 3) (vf : Fin 64) (va : Nat) : Option Leaf := s.tlb.find? fun l => l.pin.at_ p vf va
/-- Where a walk that the caches serve begins: the levels left, and the lowest table that they know. -/
def State.walkStart (s : State) (p : Fin 3) (vf : Fin 64) (va : Nat) : Nat × Nat :=
  match (sorted (s.walks.filter fun b => b.pin.at_ p vf va) fun a b => decide (a.left ≤ b.left)).head? with
  | some b => (b.left, b.pin.pa)
  | none => (4, (s.func p vf).root.toNat * 8192)
/-- A walk as the caches serve it: by a leaf that they hold, or from the lowest table that they know. -/
def State.walkHeld (s : State) (p : Fin 3) (vf : Fin 64) (va : Nat) : Except Cause Leaf :=
  match s.remembered p vf va with
  | some l => .ok l
  | none => s.walkFrom p vf va (s.walkStart p vf va).1 (s.walkStart p vf va).2
/-- The walk of an address in a virtual function (R103, R359), at the homes of its entries, or as the caches serve it; no
root is an unmapped space. -/
def State.walk (s : State) (p : Fin 3) (vf : Fin 64) (va : Nat) : Except Cause Leaf :=
  let f := s.func p vf
  if 2 ^ 56 ≤ va || !f.rootv then .error .pagefault
  else if s.serves.head? = some true then s.walkHeld p vf va
  else s.walkFrom p vf va 4 (f.root.toNat * 8192)
/-- The entry at which a walk from the table at `t` meets poison. -/
def State.walkMet (s : State) (p : Fin 3) (va : Nat) : Nat → Nat → Option Loc
  | 0, _ => none
  | n + 1, t =>
    match s.entryAt p t (3 - n) va with
    | .error .poison => some (tableLoc t (3 - n) va)
    | .error _ => none
    | .ok pte => if bit pte 1 then none else s.walkMet p va n (bits pte 51 13 * 8192)
/-- The state after the walk of an address that met poison: an error completion of the host is used up (R371). -/
def State.walked (s : State) (p : Fin 3) (vf : Fin 64) (va : Nat) : State :=
  let q := if s.serves.head? = some true then s.walkStart p vf va else (4, (s.func p vf).root.toNat * 8192)
  match s.walkMet p va q.1 q.2 with
  | some l => s.afterPoison l 8
  | none => s
/-- The translation caches take up what the walk of an address reads. -/
def State.remember (s : State) (p : Fin 3) (vf : Fin 64) (va : Nat) : State :=
  { s with tlb := s.tlb ++ (match s.walk p vf va with | .ok l => [l] | .error _ => [])
           walks := s.walks ++ s.branches p vf va 4 ((s.func p vf).root.toNat * 8192) }

/-- A device physical address lies in a channel group granted to the partition (R361, R393). -/
def State.granted (s : State) (p : Fin 3) (pa : Nat) : Bool :=
  decide (pa < 2 ^ 38) && bit (s.prt p).cap1 (48 + pa / 2 ^ 35)

/-- The checks of R361 on an access to bytes a to b of the page. A leaf that maps the partition's Hearth reserve is checked
like any other: R352 says that no virtual function maps its frames, and R361 refuses no such leaf (log entry 74). -/
def State.leafCheck (s : State) (p : Fin 3) (sup : Bool) (u : Use) (l : Leaf) (a b : Nat) : Option Cause :=
  let perm := match u with | .read => l.pin.r | .write => l.pin.w | .fetch => l.x
  let pa (x : Nat) := l.pin.pa + (x - l.pin.va)
  if !perm || (!sup && l.sup) || (sup && u == .fetch && !l.sup) then some .prot
  else if l.pin.kind == .dev && !(s.granted p (pa a) && s.granted p (pa b)) then some .prot
  else none

/-- The leaf for a scalar access or a fetch: walked, walked and remembered (choice 1), or one remembered earlier
(choice 2), as R362 lets the device choose. -/
def State.lookup (s : State) (p : Fin 3) (vf : Fin 64) (va : Nat) : Except Cause Leaf × State :=
  let (c, s) := s.choose
  match c, s.remembered p vf va with
  | 2, some l => (.ok l, s)
  | 1, _ => (s.walk p vf va, s.remember p vf va)
  | _, _ => (s.walk p vf va, s)
/-- The state after a translation that failed: one that met poison has used an error completion of the host up (R371). -/
def State.untranslated (s : State) (p : Fin 3) (vf : Fin 64) (va : Nat) (c : Cause) : State :=
  if c = .poison then s.walked p vf va else s

/-- Partition and function of the hart that runs. -/
def State.myVf (s : State) : Fin 64 := s.myJob.vf
/-- A scalar access or a fetch of the thread that runs, translated (R104, R155, R361): its place and its page. -/
def State.translate (s : State) (u : Use) (va : Word) : Except Cause (Loc × Pin) × State :=
  let p := s.myGang.p
  match s.lookup p s.myVf va.toNat with
  | (.error c, t) => (.error c, t.untranslated p s.myVf va.toNat c)
  | (.ok l, t) =>
    match t.leafCheck p s.atS u l va.toNat va.toNat with
    | some c => (.error c, t)
    | none => (.ok ({ kind := l.pin.kind, pa := l.pin.pa + (va.toNat - l.pin.va) }, l.pin), t)

/-- Words of the instruction cache of a core (Table 1-1: 64 KiB). -/
def icacheWords : Nat := 8192
/-- The gang has a core, and holds it. -/
def Gang.usesCore (g : Gang) (c : Nat) : Bool := g.phase != .evicted && (g.core == c || g.core2 == some c)
/-- What the instruction cache of a core keeps: the words that the gangs on it have fetched (R10). -/
def State.keptOn (s : State) (c : Nat) : List KeptWord :=
  (s.gangs.filter fun g => g.usesCore c).flatMap fun g => g.harts.toList.flatMap Hart.icache
/-- A word that the cache of a core may serve to a job: one kept since the job was accepted, because code is written and
made visible before the launch of a job that executes it (R155). -/
def State.servedOn (s : State) (j : Job) (l : Loc) (c : Nat) : Option Word :=
  ((s.keptOn c).find? fun k => k.at_ == l && decide (j.order < k.since)).map KeptWord.word
/-- A word that the instruction cache serves the gang that runs; both cores of a pair serve the same one. -/
def State.wordKept (s : State) (l : Loc) : Option Word :=
  (s.servedOn s.myJob l s.myGang.core).filter fun w => s.myGang.core2.all fun c => s.servedOn s.myJob l c == some w
/-- A word kept in the caches of the gang's cores, while they have room. -/
def State.keepWord (s : State) (l : Loc) (w : Word) : State :=
  let room (c : Nat) : Bool := decide ((s.keptOn c).length < icacheWords)
  let k : KeptWord := { at_ := l, word := w, since := (s.prt s.myGang.p).nextOrder }
  if room s.myGang.core && s.myGang.core2.all room then
    s.modMe fun h => { h with icache := k :: h.icache.filter fun e => e.at_ != l }
  else s
/-- A fetched word: read at its home, and kept by choice 1; or, by choice 2, one that the core's cache kept earlier, as it
was (R155); choice 3 empties what the hart kept. -/
def State.fetchWord (s : State) (l : Loc) : Word × State :=
  let now := word (natOfBytes (s.readHome l 8))
  let (c, s) := s.choose
  match c, s.wordKept l with
  | 2, some w => (w, s)
  | 1, _ => (now, (s.afterRead l 8).keepWord l now)
  | 3, _ => (now, (s.afterRead l 8).modMe fun h => { h with icache := [] })
  | _, _ => (now, s.afterRead l 8)

/-- Fetch at the thread's PC: the word, or the fault of R155. -/
def State.fetch (s : State) : Except Cause Word × State :=
  match s.translate .fetch s.pcv with
  | (.error c, t) => (.error c, t)
  | (.ok (l, _), t) =>
    if t.readPoison l 8 then (.error .poison, t.afterPoison l 8)
    else
      let (w, u) := t.fetchWord l
      (.ok w, u)

end Sys2Proof.Machine
end

