-- ==== Sys2Proof/Machine/Pins.lean ====
section
/-!
DEFINITION. Tokens and their pages (R61, R226 to R229), every pin that the device holds, and invalidations (R197, R363,
R364).
-/

namespace Sys2Proof.Machine

/-! ### Tokens -/

/-- The page of a token that holds an address. -/
def findPin (l : List Pin) (a : Nat) : Option Pin := l.find? fun q => decide (q.va ≤ a) && decide (a < q.va + q.size)
/-- The place of an address on a page. -/
def Pin.loc (q : Pin) (a : Nat) : Loc := { kind := q.kind, pa := q.pa + (a - q.va) }
/-- n bytes at an address lie in the token's probed range (R61). -/
def Token.covers (t : Token) (a n : Nat) : Bool := decide (t.base ≤ a) && decide (a + n ≤ t.base + t.len)
/-- The token that an instruction at the running level names: at S always the supervisor's own (R312). -/
def State.token (s : State) (n : Fin 8) : Token := if s.atS then s.me.sup.tk[n] else s.me.tk[n]
/-- The trap of a token that is not valid (R61); DETAIL is its number. -/
def Token.stateTrap (t : Token) (n : Fin 8) : Option TrapInfo :=
  match t.st with
  | .valid => none
  | .invalid => some { c := .notoken, detail := n.val }
  | .revoked => some { c := .tkrevoked, detail := n.val }
/-- Pages that a slot's two token sets hold, but for one token (R226, R227). -/
def Hart.pinsBut (h : Hart) (sup : Bool) (n : Fin 8) : Nat :=
  ((List.finRange 8).map fun k => (if sup = false ∧ k = n then 0 else h.tk[k].pins.length)
    + (if sup = true ∧ k = n then 0 else h.sup.tk[k].pins.length)).sum

/-- The pages of a probed range from `a` up to its last byte `e`, at most k of them (R226): a page that cannot be
translated, or a 33rd page, is a trap with its address. -/
def State.probePages (s : State) (p : Fin 3) (vf : Fin 64) (sup wr : Bool) (a e : Nat) : Nat → Except (Cause × Nat) (List Pin)
  | 0 => .error (.tkrange, a)
  | k + 1 =>
    match s.walk p vf a with
    | .error c => .error (c, a)
    | .ok l =>
      let last := min e (l.pin.va + l.pin.size - 1)
      let chk (u : Use) := s.leafCheck p sup u l a last
      match chk .read, (if wr then chk .write else none) with
      | some c, _ => .error (c, a)
      | _, some c => .error (c, a)
      | none, none =>
        let q : Pin := { l.pin with w := l.pin.w && wr }
        if last = e then .ok [q]
        else match State.probePages s p vf sup wr (last + 1) e k with
          | .error x => .error x
          | .ok r => .ok (q :: r)
/-- The pages of a range for a probe or an engine: nothing for an empty range (R226). -/
def State.probeRange (s : State) (p : Fin 3) (vf : Fin 64) (sup wr : Bool) (base len : Nat) : Except (Cause × Nat) (List Pin) :=
  if len = 0 then .ok []
  else if 2 ^ 56 ≤ base + len - 1 then .error (.pagefault, max base (2 ^ 56))
  else s.probePages p vf sup wr base (base + len - 1) 32

/-! ### Every pin of the device -/

def Token.mapPins (f : Pin → Pin) (t : Token) : Token := { t with pins := t.pins.map f }
def Hart.mapPins (f : Pin → Pin) (h : Hart) : Hart :=
  { h with tk := h.tk.map (Token.mapPins f), sup := { h.sup with tk := h.sup.tk.map (Token.mapPins f) } }
/-- A change to every translation that tokens, engines and buffered operations hold. -/
def State.mapPins (s : State) (f : Pin → Pin) : State :=
  { s with
    gangs := s.gangs.map fun g => { g with harts := g.harts.map (Hart.mapPins f) }
    copies := s.copies.map fun c => { c with srcPins := c.srcPins.map f, dstPins := c.dstPins.map f }
    codings := s.codings.map fun c =>
      { c with inPins := c.inPins.map f, outPins := c.outPins.map f, harqPins := c.harqPins.map f,
               statPins := c.statPins.map f }
    txs := s.txs.map fun t => { t with pins := t.pins.map f }
    sweeps := s.sweeps.map fun w =>
      { w with tblPins := w.tblPins.map f, pagePins := w.pagePins.map f,
               subs := w.subs.map fun b => { b with pins := b.pins.map f } }
    entries := s.entries.map fun e => { e with pins := e.pins.map f } }
/-- The translations that tokens, engines and buffered operations hold. A recovery point holds none of its own: a
restoration walks again what the hart no longer pins (`State.recall`). -/
def State.allPins (s : State) : List Pin :=
  (s.gangs.map fun g => (g.harts.toList.map fun h =>
      (h.tk.toList.map Token.pins).flatten ++ (h.sup.tk.toList.map Token.pins).flatten).flatten).flatten
    ++ (s.copies.map fun c => c.srcPins ++ c.dstPins).flatten
    ++ (s.codings.map fun c => c.inPins ++ c.outPins ++ c.harqPins ++ c.statPins).flatten
    ++ (s.txs.map Tx.pins).flatten
    ++ (s.sweeps.toList.map fun w => w.tblPins ++ w.pagePins ++ (w.subs.map Sub.pins).flatten).flatten
    ++ (s.entries.map Entry.pins).flatten

/-! ### Invalidations -/

/-- A translation that an invalidation removes (R197). -/
def Inval.covers (i : Inval) (q : Pin) : Bool :=
  i.p == q.p && (match i.vf with | some f => f == q.vf | none => true)
    && (match i.va with | some a => decide (q.va ≤ a) && decide (a < q.va + q.size) | none => true)
/-- An invalidation begins: the caches forget its translations, and pins of them are marked (R363). -/
def State.startInval (s : State) (p : Fin 3) (vf : Option (Fin 64)) (va : Option Nat) : State :=
  let i : Inval := { id := s.nextInval, p := p, vf := vf, va := va, since := s.dtime }
  { s with nextInval := s.nextInval + 1, invals := s.invals ++ [i],
           tlb := s.tlb.filter fun l => !i.covers l.pin
           walks := s.walks.filter fun b => !i.covers b.pin }.mapPins fun q =>
    if i.covers q then { q with mark := q.mark ++ [i.id] } else q
/-- Nothing on the device uses a translation that the invalidation removed (R197, R363, R364). -/
def State.invalDone (s : State) (id : Nat) : Bool := !s.allPins.any fun q => q.mark.contains id
/-- A token with a marked pin is revoked, and its pins are released (R229, R363). -/
def Token.revoke (id : Nat) (t : Token) : Token :=
  if t.st == .valid && t.pins.any (fun q => q.mark.contains id) then { t with st := .revoked, pins := [] } else t

/-- A user hart inside an instruction that has issued and waits: not at an instruction boundary (R229). -/
def Hart.inside (h : Hart) : Bool := h.wait.any fun w => w.what != .fill
/-- A hart's tokens with pins of an invalidation revoked, at an instruction boundary of the user hart (R229): those of a
hart inside an instruction stay (log entry 38). -/
def Hart.revoke (id : Nat) (h : Hart) : Hart :=
  if h.inside then h
  else { h with tk := h.tk.map (Token.revoke id), sup := { h.sup with tk := h.sup.tk.map (Token.revoke id) } }
/-- The invalidations whose grace has ended take the tokens that an instruction had kept (R229). -/
def State.revokeDue (s : State) : State :=
  (s.invals.filter Inval.expired).foldl (fun s i =>
    { s with gangs := s.gangs.map fun g => { g with harts := g.harts.map (Hart.revoke i.id) } }) s
/-- An invalidation completes (R197, R362): stores that translated its pages are performed, and what the caches took up
of them meanwhile is forgotten. -/
def State.endInval (s : State) (id : Nat) : State :=
  let is := s.invals.filter fun i => i.id == id
  let s := (s.gangs.filter fun g => is.any fun i => i.p == g.p).foldl State.drainGang s
  { s with invals := s.invals.filter fun i => i.id ≠ id
           tlb := s.tlb.filter fun l => !is.any fun i => i.covers l.pin
           walks := s.walks.filter fun b => !is.any fun i => i.covers b.pin }

/-- TLBINV (R197): supervisor-only; it starts the invalidation, and retires when that has completed. -/
def execTlbinv (kind : InvKind) (a b : GOp) (s : State) : Res := s.supOnly 0x1F <|
  match s.me.sup.wait with
  | some { what := .invalidation id, .. } =>
    if s.invalDone id then (s.endInval id).retire
    else s.block 0x1F (.invalidation id) none
  | _ =>
    let p := s.myGang.p
    let s := s.release
    let start (vf : Option (Fin 64)) (va : Option Nat) : Res :=
      let id := s.nextInval
      let t := s.startInval p vf va
      if t.invalDone id then (t.endInval id).retire
      else t.block 0x1F (.invalidation id) none
    if h : (s.rg b).toNat < 64 then
      match kind with
      | .every => start none none
      | .vf => start (some ⟨_, h⟩) none
      | .page => if 2 ^ 56 ≤ (s.rg a).toNat then s.retire else start (some ⟨_, h⟩) (some (s.rg a).toNat)
    else match kind with
      | .every => start none none
      | _ => s.raise 0x1F (trap .prot)

/-- Free values in a place of a job's segments, for contents whose layout the spec does not give (log entry 43). A place
whose page does not translate, or may not be written, is left unwritten (log entry 55). -/
def State.writeFree (s : State) (j : Job) (va n : Nat) : State :=
  match s.walk j.p j.vf va with
  | .ok l =>
    if (s.leafCheck j.p false .write l va (va + n - 1)).isSome then s
    else { s.writeHome j.p j.id (l.pin.loc va) (freeBytes s.freeCtr n) with freeCtr := s.freeCtr + n }
  | .error c => s.untranslated j.p j.vf va c

end Sys2Proof.Machine
end

