-- ==== Sys2Proof/Machine/Lockstep.lean ====
section
/-!
DEFINITION. Tokens walked again after their pins were given up (R45, R358), and lockstep recovery (R44, R45, R405).
-/

namespace Sys2Proof.Machine

/-! ### Tokens without their pins -/

/-- A valid token that holds no pins, which a walk has to find before its next use. -/
def Token.unpinned (t : Token) : Bool := t.st == .valid && t.pins.isEmpty
/-- A hart with one of its tokens replaced. -/
def Hart.putToken (h : Hart) (sup : Bool) (k : Fin 8) (t : Token) : Hart :=
  if sup then { h with sup := { h.sup with tk := vput h.sup.tk k t } } else { h with tk := vput h.tk k t }
/-- A valid token without pins walked again (R358), within the slot's pin limit; else it is revoked. -/
def State.rewalkToken (s : State) (p : Fin 3) (vf : Fin 64) (sup : Bool) (h : Hart) (k : Fin 8) : Hart :=
  let t := if sup then h.sup.tk[k] else h.tk[k]
  if !t.unpinned then h
  else match s.probeRange p vf sup t.wr t.base t.len with
    | .ok pins => h.putToken sup k (if h.pinsBut sup k + pins.length ≤ 64 then { t with pins := pins } else { t with st := .revoked })
    | .error _ => h.putToken sup k { t with st := .revoked }
/-- The tokens of a hart that are walked again, the user's first. -/
def State.rewalk (s : State) (p : Fin 3) (vf : Fin 64) (h : Hart) : Hart :=
  (List.finRange 8).foldl (s.rewalkToken p vf true) ((List.finRange 8).foldl (s.rewalkToken p vf false) h)
/-- The state after a hart's tokens are walked again: a walk that met poison has used an error completion of the host up
(R371). -/
def State.afterRewalk (s : State) (p : Fin 3) (vf : Fin 64) (h : Hart) : State :=
  let one (sup : Bool) (s : State) (t : Token) : State :=
    if !t.unpinned then s
    else match s.probeRange p vf sup t.wr t.base t.len with
      | .ok _ => s
      | .error (c, a) => s.untranslated p vf a c
  h.sup.tk.toList.foldl (one true) (h.tk.toList.foldl (one false) s)

/-! ### Lockstep -/

/-- A token of a recovery point as a restoration finds it: the hart's present one where that is the same range still
valid, with the marks of its pins; else the recorded one, whose pins the hart has given up (R363). -/
def Token.recalled (old now : Token) : Token :=
  if old.st = .valid ∧ now.st = .valid ∧ now.base = old.base ∧ now.len = old.len ∧ now.wr = old.wr then now
  else { old with pins := [] }
/-- A hart of a recovery point as a restoration brings it back over the present one, before its tokens are walked (R45):
the registers and tiles differ from what a save may have put into the hart's frame since, so they count as changed (R351,
R356, R357); the scalar cache and the store buffer are empty, and ordered elements performed since the point return what
they returned. -/
def Hart.recalled (old now : Hart) (redo : List Nat) : Hart :=
  { old with
    v := old.v.map fun r => { r with dirty := true }
    acc := old.acc.map fun a => a.map fun t => { t with dirty := true }
    tk := Vector.ofFn fun k => (old.tk[k]).recalled now.tk[k]
    sup := { old.sup with tk := Vector.ofFn fun k => (old.sup.tk[k]).recalled now.sup.tk[k] }
    cache := [], stores := [], icache := now.icache, redo := old.redo ++ redo }
/-- The cores' LOCKSTEP counters count an event of a gang (R405). -/
def State.countLockstep (s : State) (g : Gang) : State :=
  let up (v : Vector (BitVec 32) 64) (c : Nat) : Vector (BitVec 32) 64 :=
    if h : c < 64 then v.set c (if v[c] = 0xFFFFFFFF then v[c] else v[c] + 1) h else v
  { s with lockstepCnt := up (match g.core2 with | some c => up s.lockstepCnt c | none => s.lockstepCnt) g.core }
/-- The gang restored to its recovery point (R45): entries issued after the point are discarded, and a ticket sealed since
then that still holds its place is open again. The spec does not say what becomes of harts, tokens and tiles that ended or
were given up since the point, and the model chooses (log entry 62): a hart that has Ended runs again from the point, and
one that is Voided stays so (Table 2-1); a token given up since is walked again, as R358 walks a restored one, and revoked
where that fails; tiles come back without a look at what the core's pool holds now. -/
def State.recall (s : State) (u : Nat) (r : RecPoint) : State :=
  let g := s.gang u
  let vf := (s.jobOf g).vf
  let s := { s with entries := s.entries.filter fun e => !(e.h.gang == u && decide (r.entry ≤ e.num)) }
  let open_ (k : Fin 4) : Bool := !r.harts[k].sealed && g.harts[k].st != .voided
  let s := s.modJob g.p g.job fun j =>
    { j with sealedT := j.sealedT.filter fun t =>
        !(decide (j.right ≤ t) && g.ranks.any fun k => t == g.ticket k && open_ k) }
  let back (k : Fin 4) : Hart :=
    if g.harts[k].st = .voided then g.harts[k]
    else (r.harts[k]).recalled g.harts[k] ((r.log.filter fun q => q.1 == k).map Prod.snd)
  let t := g.ranks.foldl (fun (s : State) k => s.afterRewalk g.p vf (back k)) s
  t.modGang u fun g =>
    { g with harts := Vector.ofFn fun k => s.rewalk g.p vf (back k), recov := some { r with used := true } }
/-- What a LOCKSTEP event does (R45, R405): the counters of both cores count it, and Hearth restores the recovery point,
once, or kills the gang's harts. -/
def State.lockstep (s : State) (u : Nat) : State :=
  let g := s.gang u
  let s := ((s.drainGang g).countLockstep g).modGang u fun g => { g with diverged := false }
  match g.recov.filter fun r => !r.used with
  | some r => s.recall u r
  | none => g.ranks.foldl (fun s k => s.killOutside { gang := u, rank := k } Cause.lockstep.code) s

/-- An action that leaves a PAIRED gang's pair is taken only while both copies agree (R44). -/
def State.pair (s : State) (k : Res) : Res :=
  if s.myGang.diverged then .next (s.lockstep s.cur.gang) else k

end Sys2Proof.Machine
end

