-- ==== Sys2Proof/Machine/SpAccess.lean ====
section
/-!
DEFINITION. Scratchpad space and ring windows (R110 to R113), ring and barrier counting (R119 to R124, R276).
-/

namespace Sys2Proof.Machine

/-! ### Rings -/

/-- Difference of two ring counters (R119). -/
def Ring.diff (a b : BitVec 32) : Nat := (a - b).toNat
/-- ISS − DRN = N (R121). -/
def Ring.full (r : Ring) : Bool := decide (r.n ≤ Ring.diff r.iss r.drn)
/-- FILL = DRN (R124). -/
def Ring.empty_ (r : Ring) : Bool := r.fill == r.drn
/-- The number of a stage from a counter. -/
def Ring.stageNo (r : Ring) (c : BitVec 32) : Fin 16 := Fin.ofNat 16 (if r.n = 0 then 0 else c.toNat % r.n)
/-- FILL advances over filled stages, at most k of them (R123). -/
def Ring.advance : Nat → Ring → Ring
  | 0, r => r
  | k + 1, r =>
    let st := r.stages[r.stageNo r.fill]
    if r.fill ≠ r.iss ∧ st.cmt ∧ st.pend = 0 then Ring.advance k { r with fill := r.fill + 1 } else r
/-- A count of bytes as PEND holds it: 56 bits, two's complement (Tables 5-7, 12-2). -/
def pend56 (x : Int) : Int := (x + 2 ^ 55) % 2 ^ 56 - 2 ^ 55
/-- A commit of b bytes (R121). -/
def Ring.commit (r : Ring) (b : Nat) (key : Option Nat) : Ring :=
  let i := r.stageNo r.iss
  Ring.advance 16
    { r with iss := r.iss + 1,
             stages := vmod r.stages i fun st => { st with cmt := true, pend := pend56 (st.pend + (b : Int)), key := key } }
/-- FILL has passed the stage that a value of ISS numbers, drained since or not (R123). -/
def Ring.passed (r : Ring) (c : BitVec 32) : Bool := decide (1 ≤ Ring.diff r.fill c ∧ Ring.diff r.fill c ≤ 2 ^ 31)
/-- n bytes land together in the stage that a value of ISS numbers (R121, R123). -/
def Ring.landTogether (r : Ring) (c : BitVec 32) (n : Nat) : Ring :=
  if !r.cfg || n = 0 then r
  else
    Ring.advance 16
      { r with err := r.err || r.passed c,
               stages := vmod r.stages (r.stageNo c) fun st => { st with pend := pend56 (st.pend - (n : Int)) } }
/-- n bytes land in a stage one after another: those that its PEND still expects, then the rest (R121, R123). -/
def Ring.land (r : Ring) (c : BitVec 32) (n : Nat) : Ring :=
  let k := min n r.stages[r.stageNo c].pend.toNat
  (r.landTogether c k).landTogether c (n - k)
/-- One `RRELEASE` (R124). -/
def Ring.release (r : Ring) : Ring :=
  let i := r.stageNo r.drn
  if r.stages[i].rel + 1 = r.c then
    { r with drn := r.drn + 1, stages := vput r.stages i Stage.empty }
  else { r with stages := vmod r.stages i fun st => { st with rel := st.rel + 1 } }

def State.ring (s : State) (u : Nat) (r : Fin 8) : Ring := (s.gang u).rings[r]
/-- A ring changed; a change of FILL or DRN sets the gang's event registers (R193). -/
def State.setRing (s : State) (u : Nat) (r : Fin 8) (x : Ring) : State :=
  let old := s.ring u r
  let t := s.modGang u fun g => { g with rings := vput g.rings r x }
  if old.fill = x.fill ∧ old.drn = x.drn then t else t.setEvtGang u

/-! ### Barriers (R276) -/

/-- A phase completes when INIT, CNT = EXP and PEND = 0. -/
def Barrier.complete (b : Barrier) : Bool := b.init && b.cnt == b.exp && b.pend == 0
/-- The barrier after the check for completion. -/
def Barrier.settle (b : Barrier) : Barrier :=
  if b.complete then { b with ph := b.ph + 1, cnt := 0, pend := b.expb } else b
/-- A barrier changed by an event of R276: checked for completion, which sets the gang's event registers (R193). -/
def State.setBar (s : State) (u : Nat) (n : Fin 32) (b : Barrier) : State :=
  let t := s.modGang u fun g => { g with bars := vput g.bars n b.settle }
  if b.complete then t.setEvtGang u else t
def State.bar (s : State) (u : Nat) (n : Fin 32) : Barrier := (s.gang u).bars[n]
/-- k bytes land for a barrier together; with INIT = 0 the count is dropped (R276). -/
def State.landTogether (s : State) (u : Nat) (n : Fin 32) (k : Nat) : State :=
  let b := s.bar u n
  if b.init && k != 0 then s.setBar u n { b with pend := pend56 (b.pend - (k : Int)) } else s
/-- k bytes land for a barrier one after another: those that its phase still expects, then the rest (R276). -/
def State.landBar (s : State) (u : Nat) (n : Fin 32) (k : Nat) : State :=
  let m := min k (s.bar u n).pend.toNat
  (s.landTogether u n m).landTogether u n (k - m)

/-! ### Scratchpad space (Table 5-3) -/

/-- Where an access of n bytes at a scratchpad address lies: a window, or the plain region. -/
inductive SpPlace where
  /-- reserved space, or beyond the valid part -/
  | out
  /-- a window of a ring that does not exist or is not configured, or the read of a consumer window after ERR -/
  | badRing (r : Nat)
  | plain (a : Nat)
  /-- offset x of the producer window -/
  | prod (r : Fin 8) (x : Nat)
  | cons (r : Fin 8) (x : Nat)
deriving DecidableEq, Repr
/-- The place of n bytes at address a in the space of a gang (R110, R111, R123). All n bytes are checked: an access that
begins inside the valid part and ends outside it is out of range, even where it is misaligned too (log entry 79). -/
def Gang.spPlace (g : Gang) (wr : Bool) (a n : Nat) : SpPlace :=
  if a < 0x100000 then (if a + n ≤ g.spsize then .plain a else .out)
  else if 0x200000 ≤ a then .out
  else
    let r : Fin 8 := Fin.ofNat 8 (a / 0x10000)
    let x := a % 0x10000
    let ring := g.rings[r]
    let prod := a < 0x180000
    if 2 * g.hn ≤ r.val || !ring.cfg || (!prod && !wr && ring.err) then .badRing r.val
    else if ring.size < x + n then .out
    else if prod then .prod r x else .cons r x
/-- The plain address of a place (R112). -/
def Gang.spMap (g : Gang) : SpPlace → Nat
  | .plain a => a
  | .prod r x => let q := g.rings[r]; q.base + (q.stageNo q.iss).val * q.size + x
  | .cons r x => let q := g.rings[r]; q.base + (q.stageNo q.drn).val * q.size + x
  | _ => 0
/-- What an access to a place must wait for (R121, R124). -/
def Gang.spStall (g : Gang) (wr : Bool) : SpPlace → Option WaitFor
  | .prod r _ => if g.rings[r].full then some (.ringFull r) else none
  | .cons r _ => if !wr && g.rings[r].empty_ then some (.ringEmpty r) else none
  | _ => none
/-- The alignment that an n-byte scratchpad access needs (R115). -/
def spAlign (n : Nat) : Nat := min n 4

/-- A read of n bytes at a plain address delivers poison (R113). -/
def Gang.spPoisoned (g : Gang) (a n : Nat) : Bool := Machine.spPoisoned g.spPoison a n
def Gang.spRead (g : Gang) (a n : Nat) : List Byte := Mem.bytes g.sp a n
/-- A write at a plain address (R113). -/
def State.spWrite (s : State) (u : Nat) (a : Nat) (bs : List Byte) : State :=
  s.modGang u fun g => { g with sp := Mem.write g.sp a bs, spPoison := spClear g.spPoison a bs.length }

/-! ### Waits that the gang's state ends, and their watchdog -/

/-- PH > WPH (R275). -/
def phaseDone (ph wph : BitVec 32) : Bool := decide (1 ≤ (ph - wph).toNat ∧ (ph - wph).toNat ≤ 2 ^ 31)
/-- What a thread of rank k waits for has come, where the gang's own state says so (R121, R124, R192, R277). ERR ends what
R123 makes raise RING: consumer-side operations, and `RCOMMIT` and `TCOPY`, but not a hart's access through the producer
window. -/
def Gang.eventCame (g : Gang) (k : Fin 4) (w : Wait) : Bool :=
  match w.what with
  | .bwait n => !g.bars[n].init || phaseDone g.bars[n].ph g.harts[k].wph[n]
  | .rwait r | .ringEmpty r => let q := g.rings[r]; !q.cfg || q.err || !q.empty_
  | .ringFull r => let q := g.rings[r]; !q.cfg || (q.err && (w.op == 0x71 || w.op == 0x6D)) || !q.full
  | .wfe => g.harts[k].evt
  | _ => false
/-- Cycles after which a wait or a stall is a WATCHDOG (R43, R125, R192, R244). -/
def waitLimit : Nat := 2 ^ 24
/-- A wait with a watchdog (R43, R125, R192, R244, R274): a `WFE` or `VWAITC` without a time-out, a barrier, a ring, a
full queue. The wait of an instruction for its own hart's buffered ordered operations has none, be it an `ABUMP` (log entry
82). -/
def Wait.watched (w : Wait) : Bool :=
  match w.what with
  | .bwait _ | .rwait _ | .ringFull _ | .ringEmpty _ | .copyQueue | .codingQueue | .txQueue _ | .message _ => true
  | .wfe | .vwaitc => w.ends.isNone
  | .ordered => w.ofVwaitc && w.ends.isNone
  | _ => false
/-- The watchdog of a wait is due: its limit has passed, and what it waits for has not come before that. -/
def Gang.watchdogDue (g : Gang) (k : Fin 4) (cyc : Nat) (w : Wait) : Bool :=
  w.watched && decide (w.since + waitLimit ≤ cyc) && (w.late || !g.eventCame k w)
/-- A wait whose watchdog is due stays due (R125, R192): the first of the event and the limit counts. -/
def Gang.markLate (g : Gang) (k : Fin 4) (cyc : Nat) (w : Wait) : Wait :=
  if g.watchdogDue k cyc w then { w with late := true } else w

/-- A thread whose instruction stalled on a ring's consumer window and now proceeds, whatever it waited for since: its
read of that window is an acquire (R124, R232). -/
def State.stalledOn (s : State) (r : Fin 8) : Bool :=
  match (if s.atS then s.me.sup.wait else s.me.wait) with
  | some w => w.passed.contains r
  | none => false

end Sys2Proof.Machine
end

