-- ==== Sys2Proof/Machine/Barriers.lean ====
section
/-!
DEFINITION. Barrier and ring instructions: opcodes 0x68 to 0x6C and 0x70 to 0x74 (R275 to R277, R282 to R284).
-/

namespace Sys2Proof.Machine

/-! ### Barriers -/

/-- BARRIER, naming barrier n (Table 15-4). -/
def barTrap (n : Fin 32) : TrapInfo := { c := .barrier, detail := n.val }
/-- The gang of the hart that runs has no barrier n (R63). -/
def State.noBar (s : State) (n : Fin 32) : Bool := decide (8 * s.myGang.hn ≤ n.val)
/-- Barrier n of the gang of the hart that runs. -/
def State.myBar (s : State) (n : Fin 32) : Barrier := s.bar s.cur.gang n
/-- An instruction on a barrier that the gang has. -/
def State.onBar (s : State) (op : Nat) (n : Fin 32) (k : Barrier → Res) : Res :=
  if s.noBar n then s.raise op (barTrap n) else k (s.myBar n)
/-- The target kind and number of a copy record: CMPL and CTGT (Table 12-4). -/
def Copy.target (c : Copy) : Nat × Nat := (bits (nth c.rcd 2) 17 16, bits (nth c.rcd 2) 31 24)
/-- The target kind and number of a coding record: CK and TGT (Table 12-9). -/
def Coding.target (c : Coding) : Nat × Nat := (bits (nth c.rcd 7) 1 0, bits (nth c.rcd 7) 15 8)
/-- REFS of a barrier: copies, coding commands and subscriptions in flight that name it (Table 12-2); a copy is in
flight until its `COPY_COMPLETE` (log entry 37). -/
def State.barRefs (s : State) (u : Nat) (n : Fin 32) : Bool :=
  (s.copies.any fun c => c.gang == u && !c.cancelled && c.target == (0, n.val)) ||
  (s.codings.any fun c => c.gang == u && !c.noCount && c.target == (0, n.val)) ||
  s.sweeps.toList.any fun w => w.subs.any fun b => b.gang == u && b.bar == n && !b.ended
/-- A thread of the gang is blocked in `BWAIT` of a barrier. -/
def Gang.waitsBar (g : Gang) (n : Fin 32) : Bool :=
  g.harts.toList.any fun h =>
    (h.wait.any fun w => w.what == .bwait n) || h.sup.wait.any fun w => w.what == .bwait n
/-- The largest byte quota. -/
def maxBytes : Nat := 2 ^ 55 - 1
/-- BINIT (R276). -/
def execBinit (n : Fin 32) (a b : GOp) (s : State) : Res :=
  s.onBar 0x68 n fun _ =>
    let x := (s.rg a).toNat
    let y := (s.rg b).toNat
    if x = 0 ∨ 65535 < x ∨ maxBytes < y ∨ s.barRefs s.cur.gang n ∨ s.myGang.waitsBar n then s.raise 0x68 (barTrap n)
    else
      let t := s.modMyGang fun g => { g with harts := g.harts.map fun h => { h with wph := vput h.wph n 0 } }
      (t.setBar t.cur.gang n { init := true, ph := 0, cnt := 0, exp := x, expb := y, pend := y }).retire
/-- BARRIVE: a release at core scope (R276). -/
def execBarrive (n : Fin 32) (s : State) : Res :=
  s.onBar 0x69 n fun b =>
    if !b.init || b.cnt == b.exp then s.raise 0x69 (barTrap n)
    else s.pair (s.release.setBar s.cur.gang n { b with cnt := b.cnt + 1 }).retire
/-- BEXPECT (R276). -/
def execBexpect (n : Fin 32) (a : GOp) (s : State) : Res :=
  s.onBar 0x6A n fun b =>
    let x := (s.rg a).toNat
    if !b.init || decide (maxBytes < x) || decide ((maxBytes : Int) < b.pend + x) then s.raise 0x6A (barTrap n)
    else (s.setBar s.cur.gang n { b with pend := b.pend + x }).retire
/-- The hart that runs consumes one phase, with its acquire (R277). -/
def State.consume (s : State) (n : Fin 32) : State := (s.modMe fun h => { h with wph := vmod h.wph n (· + 1) }).acquire
/-- BWAIT (R277). -/
def execBwait (n : Fin 32) (s : State) : Res :=
  s.onBar 0x6B n fun b =>
    if !b.init then s.raise 0x6B (barTrap n)
    else if phaseDone b.ph s.me.wph[n] then (s.consume n).retire
    else s.block 0x6B (.bwait n) none
/-- BTEST (R277, Table 12-3). -/
def execBtest (d : GOp) (n : Fin 32) (s : State) : Res :=
  s.onBar 0x6C n fun b =>
    if !b.init then (s.wg d 0).retire
    else
      let done := phaseDone b.ph s.me.wph[n]
      let v := word ((if done then 2 ^ 63 else 0) + 2 ^ 62 + b.cnt * 2 ^ 32 + b.ph.toNat)
      ((if done then s.consume n else s).wg d v).retire

/-! ### Rings -/

/-- RING, naming ring r. -/
def ringBad (r : Fin 8) : TrapInfo := { c := .ring, detail := r.val }
/-- An instruction on a ring that the gang has (R63). -/
def State.onRing (s : State) (op : Nat) (r : Fin 8) (k : Ring → Res) : Res :=
  if 2 * s.myGang.hn ≤ r.val then s.raise op (ringBad r) else k (s.ring s.cur.gang r)
/-- The same on a configured ring without ERR (R123, R283). -/
def State.onLiveRing (s : State) (op : Nat) (r : Fin 8) (k : Ring → Res) : Res :=
  s.onRing op r fun q => if !q.cfg || q.err then s.raise op (ringBad r) else k q
/-- Copies resolved to a stage of the ring are still writing (R120): a byte has still to land. -/
def State.ringCopies (s : State) (u : Nat) (r : Fin 8) : Bool :=
  s.copies.any fun c => c.gang == u && decide (c.pos < c.total) && (match c.stage with | some (k, _) => k == r | none => false)
/-- A subscription that has not ended names the ring (R264). -/
def State.ringSubs (s : State) (u : Nat) (r : Fin 8) : Bool :=
  s.sweeps.toList.any fun w => w.subs.any fun b => b.gang == u && b.ring == r && !b.ended
/-- The ring that a configuration word describes (Table 12-8). -/
def ringOf (w : Word) : Ring :=
  { Ring.empty with cfg := true, base := bits w 20 0, size := 128 * (bits w 29 21 + 1), n := bits w 33 30 + 1,
                    c := bits w 37 34 + 1, kind := BitVec.ofNat 2 (bits w 39 38) }
/-- The stages of two rings overlap. -/
def Ring.overlaps (a b : Ring) : Bool := decide (a.base < b.base + b.n * b.size) && decide (b.base < a.base + a.n * a.size)
/-- RINGCFG refuses the word (R120, R282). -/
def State.ringRefused (s : State) (r : Fin 8) (w : Word) : Bool :=
  let g := s.myGang
  let q := ringOf w
  let old := g.rings[r]
  let idle := !old.cfg || ((old.iss == old.drn || old.err) && !s.ringCopies g.uid r)
  bits w 63 40 != 0 || q.n == 1 || q.base % 128 != 0 || !idle || decide (g.spsize < q.base + q.n * q.size) ||
    ((List.finRange 8).any fun k => k != r && g.rings[k].cfg && Ring.overlaps g.rings[k] q) || s.ringSubs g.uid r
/-- RINGCFG (R120, R282). -/
def execRingcfg (r : Fin 8) (a : GOp) (s : State) : Res := s.userOnly 0x70 <|
  s.onRing 0x70 r fun _ =>
    if s.ringRefused r (s.rg a) then s.raise 0x70 (ringBad r)
    else (s.setRing s.cur.gang r (ringOf (s.rg a))).retire
/-- RCOMMIT (R121, R283, Table 5-8): a release (R137). -/
def execRcommit (r : Fin 8) (a : GOp) (s : State) : Res := s.userOnly 0x71 <|
  s.onLiveRing 0x71 r fun q =>
    let b := (s.rg a).toNat
    if maxBytes < b ∨ (q.kind = 0 ∧ b ≠ 0) ∨ q.kind = 2 ∨ q.kind = 3 then s.raise 0x71 (ringBad r)
    else if q.full then s.block 0x71 (.ringFull r) none
    else s.pair (s.release.setRing s.cur.gang r (q.commit b none)).retire
/-- RWAIT (R124, R283). -/
def execRwait (r : Fin 8) (s : State) : Res := s.userOnly 0x72 <|
  s.onLiveRing 0x72 r fun q => if q.empty_ then s.block 0x72 (.rwait r) none else s.acquire.retire
/-- RRELEASE (R124, R283). -/
def execRrelease (r : Fin 8) (s : State) : Res := s.userOnly 0x73 <|
  s.onLiveRing 0x73 r fun q =>
    if q.empty_ then s.raise 0x73 (ringBad r) else s.pair (s.release.setRing s.cur.gang r q.release).retire
/-- The configuration word that `RSTAT` reads (Table 12-8). -/
def Ring.word (q : Ring) : Word :=
  Machine.word (2 ^ 63 + (if q.err then 2 ^ 62 else 0) + q.kind.toNat * 2 ^ 38 + (q.c - 1) * 2 ^ 34 + (q.n - 1) * 2 ^ 30
    + (q.size / 128 - 1) * 2 ^ 21 + q.base)
/-- RSTAT (R284). -/
def execRstat (d : GOp) (r : Fin 8) (which : Fin 4) (s : State) : Res :=
  s.onRing 0x74 r fun q =>
    let v := if !q.cfg then 0 else match which with
      | 0 => q.iss.setWidth 64 | 1 => q.fill.setWidth 64 | 2 => q.drn.setWidth 64 | _ => q.word
    (s.wg d v).retire

end Sys2Proof.Machine
end

