-- ==== Sys2Proof/Machine/Csr.lean ====
section
/-!
DEFINITION. Control and status registers: their values (R17 to R21, R64 to R69, R313, R318) and the instructions of
opcode 0x18 (R187, R188).
-/

namespace Sys2Proof.Machine

/-! ### Capability and launch values -/

/-- Units of a kind that are left: those of the part less the retired ones, numbered from 0 (R16, R406); the retired
ones are bits lo to lo + 7 of RETIRE. -/
def State.unitsLeft (s : State) (lo : Nat) : Nat :=
  (if s.part = 0x7120 then 6 else 8) - ((List.range 8).filter fun i => s.retireQ0.getLsbD (lo + i)).length
/-- `cap0` (Table 1-4): clusters, channel groups and ports present on the part. -/
def State.cap0 (s : State) : Word :=
  let m (lo : Nat) : Nat := 2 ^ s.unitsLeft lo - 1
  word (s.part.toNat * 2 ^ 48 + s.stepping.toNat * 2 ^ 40 + m 0 * 2 ^ 32 + m 8 * 2 ^ 24 + m 16 * 2 ^ 16 + 0x24A8)
/-- `cap2` (Table 1-6). -/
def cap2 : Word := 0x01000000000000FF
/-- `cap3` (Table 1-7, R387). -/
def State.cap3 (s : State) : Word :=
  word (s.hgen.toNat * 2 ^ 60 + s.cxlv.toNat * 2 ^ 56 + s.hwid.toNat * 2 ^ 51 + s.tgen.toNat * 2 ^ 44
    + s.twid.toNat * 2 ^ 40) ||| oneIf s.hostc <<< 39 ||| oneIf (s.tstate == 1) <<< 38
    ||| oneIf (s.sen && s.synceLock) <<< 37 ||| oneIf (s.tstate == 2) <<< 36
/-- A job of class 0: its deadline is not 0 (R338). -/
def Job.classZero (j : Job) : Bool := j.rcd.ddl != 0
/-- A core that the gang occupies. -/
def Gang.onCore (g : Gang) (c : Nat) : Bool := g.core == c || g.core2 == some c
/-- A core holds a hart of a class-0 job that is Running, Blocked or Trapped (R340). -/
def State.coreUrgent (s : State) (c : Nat) : Bool :=
  s.gangs.any fun g => g.phase == .placed && g.onCore c && (s.jobOf g).classZero && g.ranks.any fun r => !g.harts[r].over
/-- The lane weight in force (R35, R340). -/
def State.laneWeight (s : State) (h : HartId) : Nat :=
  let g := s.gang h.gang
  let w := (s.hart h).lw.toNat
  if !(s.jobOf g).classZero && s.coreUrgent g.core then max 1 (w / 2 ^ (s.prt g.p).bediv.toNat) else w
/-- `tkst` (Table 3-7). -/
def Hart.tkst (h : Hart) : Word :=
  (List.finRange 8).foldl (fun w k => w ||| (match h.tk[k].st with
    | .valid => (1 : Word) <<< k.val | .revoked => (1 : Word) <<< (8 + k.val) | .invalid => 0)) 0
/-- `arenan` of a job (Table 3-6, R374). -/
def State.arena (s : State) (j : Job) (n : Fin 4) : Word :=
  let f := s.func j.p j.vf
  if j.rcd.amask.testBit n.val && f.ag[n] then word (f.abase[n].toNat * 65536) else 0

/-! ### Reading -/

/-- A user CSR of the current hart (Table 3-6); none for an unassigned number. -/
def State.userCsr (s : State) (n : Nat) : Option Word :=
  let h := s.me
  let g := s.myGang
  let j := s.myJob
  match n with
  | 0x000 => some (word h.vl)
  | 0x001 => some (word h.ei)
  | 0x002 => some (h.fcsr.setWidth 64)
  | 0x003 => some 128
  | 0x010 => some (word ((if j.spawnKey.isSome then 2 else 1) * 2 ^ 62 + s.ticket s.cur))
  | 0x011 => some (word j.tickets)
  | 0x012 => some (word g.index)
  | 0x013 => some (word s.cur.rank.val)
  | 0x014 => some (word g.hn)
  | 0x015 => some (word g.core)
  | 0x016 => some (word j.id)
  | 0x017 => some (word j.rcd.vint)
  | 0x018 => some (word s.dtime)
  | 0x019 => some (word j.rcd.ddl)
  | 0x01A => some (word (s.laneWeight s.cur))
  | 0x01B => some (word (j.vf.val * 256 + g.p.val))
  | 0x020 => some h.tkst
  | 0x030 => some s.cap0
  | 0x031 => some (s.prt g.p).cap1
  | 0x032 => some cap2
  | 0x033 => some s.cap3
  | 0x040 => some j.rcd.q1
  | 0x041 => some (word g.spsize)
  | 0x042 => some (s.arena j 0)
  | 0x043 => some (s.arena j 1)
  | 0x044 => some (s.arena j 2)
  | 0x045 => some (s.arena j 3)
  | _ => none
/-- User state seen at S (Table 15-3). -/
def State.userState (s : State) (n : Nat) : Option Word :=
  if 0x0C0 ≤ n ∧ n < 0x0E0 then
    let m := s.me.m[Fin.ofNat 16 ((n - 0x0C0) / 2)]
    some (if n % 2 = 0 then m.setWidth 64 else (m >>> 64).setWidth 64)
  else if 0x0E0 ≤ n ∧ n < 0x100 then some s.me.g[Fin.ofNat 32 (n - 0x0E0)]
  else none
/-- A supervisor CSR (Table 15-5). -/
def Sup.csr (t : Sup) (n : Nat) : Option Word :=
  match n with
  | 0x100 => some (word (t.sver.toNat * 2 ^ 16 + t.lhl.toNat * 2 ^ 8) ||| oneIf t.sstep <<< 2 ||| oneIf t.utk <<< 1
      ||| oneIf t.inh)
  | 0x101 => some t.svec
  | 0x102 => some (t.scause.setWidth 64)
  | 0x103 => some t.sepc
  | 0x104 => some (t.sei.setWidth 64)
  | 0x105 => some t.seaddr
  | 0x106 => some (word (t.infoOp.toNat * 2 ^ 25 + t.infoSrc.toNat * 2 ^ 16 + t.infoDetail.toNat))
  | 0x107 => some t.sscratch
  | 0x108 => some (oneIf t.bpe <<< 63 ||| t.bpa.setWidth 64)
  | _ => none
/-- A CSR as the running level reads it: its value, ILLEGAL or PRIV (R64, R188, R313). -/
def State.csrRead (s : State) (n : Nat) : Except Cause Word :=
  if 0x100 ≤ n ∧ n < 0x200 then
    (if s.atS then (match s.me.sup.csr n with | some v => .ok v | none => .error .illegal) else .error .priv)
  else
    match s.userCsr n, (if s.atS then s.userState n else none) with
    | some v, _ => .ok v
    | none, some v => .ok v
    | none, none => .error .illegal

/-! ### Writing -/

/-- A supervisor CSR written: reserved and HW bits are kept (R318). -/
def Sup.csrWrite (t : Sup) (n : Nat) (v : Word) : Sup :=
  match n with
  | 0x100 => { t with lhl := BitVec.ofNat 4 (bits v 11 8), sstep := bit v 2, utk := bit v 1 }
  | 0x101 => { t with svec := v &&& ~~~ (7 : Word) }
  | 0x102 => { t with scause := v.setWidth 8 }
  | 0x103 => { t with sepc := v &&& ~~~ (7 : Word) }
  | 0x104 => { t with sei := v.setWidth 7 }
  | 0x105 => { t with seaddr := v }
  | 0x106 => { t with infoOp := BitVec.ofNat 7 (bits v 31 25), infoSrc := BitVec.ofNat 2 (bits v 17 16),
                      infoDetail := v.setWidth 16 }
  | 0x107 => { t with sscratch := v }
  | 0x108 => { t with bpe := bit v 63, bpa := (v &&& ~~~ (7 : Word)).setWidth 56 }
  | _ => t
/-- User state written at S (Table 15-3). -/
def Hart.userStateWrite (h : Hart) (n : Nat) (v : Word) : Hart :=
  if n < 0x0E0 then
    { h with m := vmod h.m (Fin.ofNat 16 ((n - 0x0C0) / 2)) fun m =>
        if n % 2 = 0 then (m &&& ~~~ (lowBits 64)) ||| v.setWidth 128 else (m &&& lowBits 64) ||| v.setWidth 128 <<< 64 }
  else
    let r : Fin 32 := Fin.ofNat 32 (n - 0x0E0)
    { h with g := vput h.g r v, fillG := h.fillG.filter fun q => q.1 ≠ r }
where
  /-- n one bits -/
  lowBits (n : Nat) : MaskReg := BitVec.ofNat 128 (2 ^ n - 1)
/-- A CSR written at the running level (R64, R66, R188, R313): the state, or the trap that leaves it unchanged. -/
def State.csrWrite (s : State) (n : Nat) (v : Word) : Except TrapInfo State :=
  match s.csrRead n with
  | .error c => .error (trap c)
  | .ok _ =>
    if 0x100 ≤ n then .ok (s.modSup fun t => t.csrWrite n v)
    else if 0x0C0 ≤ n then .ok (s.modMe fun h => h.userStateWrite n v)
    else match n with
      | 0 => if 128 < v.toNat then .error { c := .badvl, detail := s.me.vl } else .ok (s.modMe fun h => { h with vl := v.toNat })
      | 1 => .ok (s.modMe fun h => { h with ei := bits v 6 0 })
      | 2 =>
        if bits v 2 0 = 0 ∨ bits v 2 0 = 6 ∨ bits v 2 0 = 7 then .error (trap .illegal)
        else .ok (s.modMe fun h => { h with fcsr := v.setWidth 8 })
      | _ => .error (trap .illegal)

/-! ### The instructions -/

/-- A CSR instruction that writes: `f` forms the new value from the old one and g[A]; `d` receives the old one. -/
def csrUpdate (f : Word → Word → Word) (d a : GOp) (num : BitVec 12) (s : State) : Res :=
  match s.csrRead num.toNat with
  | .error c => s.raise 0x18 (trap c)
  | .ok old =>
    match s.csrWrite num.toNat (f old (s.rg a)) with
    | .error t => s.raise 0x18 t
    | .ok t => (t.wg d old).retire
/-- CSRR (R187). -/
def execCsrr (d : GOp) (num : BitVec 12) (s : State) : Res :=
  match s.csrRead num.toNat with
  | .error c => s.raise 0x18 (trap c)
  | .ok v => (s.wg d v).retire
/-- CSRW (R187). -/
def execCsrw (a : GOp) (num : BitVec 12) (s : State) : Res := csrUpdate (fun _ x => x) none a num s
/-- CSRSET (R187). -/
def execCsrset (d a : GOp) (num : BitVec 12) (s : State) : Res := csrUpdate (fun o x => o ||| x) d a num s
/-- CSRCLR (R187). -/
def execCsrclr (d a : GOp) (num : BitVec 12) (s : State) : Res := csrUpdate (fun o x => o &&& ~~~ x) d a num s

end Sys2Proof.Machine
end

