-- ==== Sys2Proof/Machine/Channels.lean ====
section
/-!
DEFINITION. What a channel message launches (R334 to R337): vintages and frame times (R389), the record of a message, and
when a post is taken at once.
-/

namespace Sys2Proof.Machine

/-! ### Frame times and vintages (R389) -/

/-- The GPS epoch in TAI nanoseconds since the PTP epoch. -/
def gpsEpoch : Int := 315964819 * 10 ^ 9
/-- FS(F). -/
def State.frameStart (s : State) (f : Int) : Int := gpsEpoch + 10 ^ 7 * f + s.tfoff.toInt
/-- The frame count at a time. -/
def State.frameCount (s : State) (t : Nat) : Int := ((t : Int) - gpsEpoch - s.tfoff.toInt) / 10 ^ 7
/-- The number congruent to v modulo m that lies nearest to c, the later one on a tie. -/
def nearest (c v m : Int) : Int := let d := (v - c) % m; if 2 * d ≤ m then c + d else c + d - m
/-- T(v, l) less FS(F), for subframe, slot, numerology and symbol. -/
def symbolOffset (subf slot mu l : Nat) : Nat :=
  let n := 14 * slot + l
  let off := n * 2192 / 2 ^ mu + 16 * ((if 0 < n then 1 else 0) + (if 7 * 2 ^ mu < n then 1 else 0))
  10 ^ 6 * subf + off * 3125 / 96
/-- Fields of a vintage (Table 3-7). -/
def vSfn (v : Nat) : Nat := v / 2 ^ 30 % 1024
def vSubf (v : Nat) : Nat := v / 2 ^ 26 % 16
def vSlot (v : Nat) : Nat := v / 2 ^ 20 % 64
def vMu (v : Nat) : Nat := v / 2 ^ 16 % 16
/-- A vintage inside the ranges of R389. -/
def vintOk (v : Nat) : Bool := decide (vMu v ≤ 4) && decide (vSubf v < 10) && decide (vSlot v < 2 ^ vMu v)
/-- T(v, l), evaluated now. -/
def State.symbolTime (s : State) (v l : Nat) : Int :=
  s.frameStart (nearest (s.frameCount s.dtime) (vSfn v) 1024) + symbolOffset (vSubf v) (vSlot v) (vMu v) l

/-! ### Messages -/

/-- The record that a message launches (Table 16-3); none for a message that fails. -/
def State.messageRec (s : State) (t : TaskEntry) (m : Msg) : Option LaunchRec :=
  let r := { t.tmpl with q7 := word m.poster }
  let q3 : Word := if t.doff = 0 then 0 else word (m.at_ + t.doff.toNat)
  match t.pmode.toNat with
  | 2 =>
    if bits m.payload 63 40 ≠ 0 ∨ !vintOk m.payload.toNat then none
    else some { r with q3 := BitVec.ofInt 64 (s.symbolTime m.payload.toNat 0 + t.doff.toInt), q4 := m.payload }
  | 1 => if t.doff.toInt < 0 then none else some { r with q1 := m.payload, q3 := q3 }
  | _ => if t.doff.toInt < 0 then none else some { r with q3 := q3 }
/-- Core and first slot that a task-table entry pins its jobs to (R335). -/
def TaskEntry.place (t : TaskEntry) : Option (Nat × Nat) :=
  if t.pin then some (t.pcl.toNat * 8 + t.pcore.toNat, t.pslot.toNat) else none
/-- What a message launches when it is taken now: the entry and its template copy as they stand (R334). -/
def State.taking (s : State) (t : TaskEntry) (m : Msg) : Taken :=
  { rcd := s.messageRec t m, vf := Fin.ofNat 64 t.vf.toNat, pin := t.place }
/-- Pending messages of a channel, and PEND (Table 16-2). -/
def TaskEntry.waiting (t : TaskEntry) : Nat := (t.msgs.filter fun m => m.taken.isNone).length
def TaskEntry.pend (t : TaskEntry) : Nat := min 255 t.waiting
/-- Messages of a partition that were taken and have still to launch: R329 permitted each of them. -/
def State.takenMsgs (s : State) (p : Fin 3) : Nat :=
  ((s.prt p).tasks.toList.map fun t => (t.msgs.filter fun m => m.taken.isSome).length).sum
/-- R329 permits a launch. A partition with JMAX = 0 may take every entry that is free, those that another partition
would need to reach its own JMAX too (log entry 84). -/
def State.admits (s : State) (p : Fin 3) : Bool :=
  let m := min 8192 (s.prt p).jmax.toNat
  decide (s.jobs.length + ((List.finRange 3).map s.takenMsgs).sum < 8192) &&
    (m == 0 || decide ((s.jobs.filter fun j => j.p == p).length + s.takenMsgs p < m))
/-- A post on a channel is taken at once (R337). -/
def State.takesNow (s : State) (p : Fin 3) (t : TaskEntry) : Bool := !t.blk && t.waiting == 0 && s.admits p

end Sys2Proof.Machine
end

