-- ==== Sys2Proof/Machine/Float.lean ====
section
/-!
DEFINITION. Number formats and one rounding (R75 to R83): a float is read as an exact value, an expression is formed
exactly, and the result is rounded once into a format, with the flags of Table 4-2.
-/

namespace Sys2Proof.Machine

/-- A floating-point format (Table 4-1): exponent and fraction bits, bias; `e4m3` has no infinity and one NaN pattern. -/
structure Fmt where
  eb : Nat
  fb : Nat
  bias : Nat
  e4m3 : Bool
  e5m2 : Bool
deriving DecidableEq, Repr
def fmt64 : Fmt := { eb := 11, fb := 52, bias := 1023, e4m3 := false, e5m2 := false }
def fmt32 : Fmt := { eb := 8, fb := 23, bias := 127, e4m3 := false, e5m2 := false }
def fmt16 : Fmt := { eb := 5, fb := 10, bias := 15, e4m3 := false, e5m2 := false }
def fmtBf : Fmt := { eb := 8, fb := 7, bias := 127, e4m3 := false, e5m2 := false }
def fmtE4 : Fmt := { eb := 4, fb := 3, bias := 7, e4m3 := true, e5m2 := false }
def fmtE5 : Fmt := { eb := 5, fb := 2, bias := 15, e4m3 := false, e5m2 := true }
/-- Width of a format in bits. -/
def Fmt.width (f : Fmt) : Nat := 1 + f.eb + f.fb
/-- The bits of the largest finite value (Table 4-1). -/
def Fmt.maxFin (f : Fmt) : Nat := if f.e4m3 then 0x7E else (2 ^ f.eb - 1) * 2 ^ f.fb - 1
/-- The bits of +infinity. -/
def Fmt.infBits (f : Fmt) : Nat := (2 ^ f.eb - 1) * 2 ^ f.fb
/-- The canonical NaN (Table 4-1). -/
def Fmt.nan (f : Fmt) : Nat := if f.e4m3 then 0x7F else (2 ^ f.eb - 1) * 2 ^ f.fb + 2 ^ (f.fb - 1)
/-- The sign bit as a number. -/
def Fmt.sign (f : Fmt) (neg : Bool) : Nat := if neg then 2 ^ (f.eb + f.fb) else 0
/-- The exponent of the smallest subnormal: every finite value is a whole multiple of 2 to it. -/
def Fmt.qmin (f : Fmt) : Int := 1 - (f.bias : Int) - (f.fb : Int)

/-- A floating-point operand: a NaN, an infinity, or (−1)^neg · m · 2^e. -/
inductive FVal where
  | nan (signalling : Bool)
  | inf (neg : Bool)
  | fin (neg : Bool) (m : Nat) (e : Int)
deriving DecidableEq, Repr

/-- The value of a bit pattern (R75, R76). -/
def Fmt.read (f : Fmt) (w : Nat) : FVal :=
  let neg := w / 2 ^ (f.eb + f.fb) % 2 == 1
  let e := w / 2 ^ f.fb % 2 ^ f.eb
  let fr := w % 2 ^ f.fb
  if f.e4m3 && e == 2 ^ f.eb - 1 && fr == 2 ^ f.fb - 1 then .nan false
  else if !f.e4m3 && e == 2 ^ f.eb - 1 then
    (if fr = 0 then .inf neg else .nan (fr < 2 ^ (f.fb - 1)))
  else if e = 0 then .fin neg fr f.qmin
  else .fin neg (2 ^ f.fb + fr) (f.qmin + (e - 1 : Nat))

/-- Sticky flags as `fcsr` holds them (Table 3-7): NV 7, DZ 6, OF 5, UF 4, NX 3. -/
abbrev Flags := BitVec 8
def flNV : Flags := 0x80
def flDZ : Flags := 0x40
def flOF : Flags := 0x20
def flUF : Flags := 0x10
def flNX : Flags := 0x08

/-- A rounding of m · 2^e to a whole multiple of 2^q, as that multiple (R79). -/
def roundQ (rm : Rm) (neg : Bool) (m : Nat) (e q : Int) : Nat :=
  if q ≤ e then m * 2 ^ (e - q).toNat
  else
    let sh := (q - e).toNat
    -- far below the last place: less than half of it
    let hi := if sh > Nat.log2 m + 2 then 0 else m / 2 ^ sh
    let lo := if sh > Nat.log2 m + 2 then m else m % 2 ^ sh
    let half := if sh > Nat.log2 m + 2 then m + 1 else 2 ^ (sh - 1)
    let up := match rm with
      | .rtz => false
      | .rdn => neg && lo != 0
      | .rup => !neg && lo != 0
      | .rna => decide (half ≤ lo)
      | _ => decide (half < lo) || (lo == half && hi % 2 == 1)
    if up then hi + 1 else hi

/-- The outcome of a rounding: the bits without sign, and whether it overflowed, is tiny, is inexact (R79). -/
structure Rounded where
  mag : Nat
  ovf : Bool
  tiny : Bool
  inexact : Bool
deriving DecidableEq, Repr

/-- `Round` of the nonzero exact value m · 2^e, before what overflow delivers (R79). -/
def Fmt.roundMag (f : Fmt) (rm : Rm) (neg : Bool) (m : Nat) (e : Int) : Rounded :=
  let top : Int := e + (Nat.log2 m : Int) - (f.fb : Int)
  let q := if top < f.qmin then f.qmin else top
  let k := roundQ rm neg m e q
  let ku := roundQ rm neg m e top
  let mag := (q - f.qmin).toNat * 2 ^ f.fb + k
  { mag := mag, ovf := decide (f.maxFin < mag),
    tiny := decide (top + (Nat.log2 ku : Int) < 1 - (f.bias : Int)),
    inexact := if q ≤ e then false
               else if (q - e).toNat > Nat.log2 m + 2 then true else m % 2 ^ (q - e).toNat != 0 }

/-- What an overflow delivers (R79, R80). -/
def Fmt.overflow (f : Fmt) (rm : Rm) (sat neg : Bool) : Nat :=
  let toInf := match rm with | .rtz => false | .rdn => neg | .rup => !neg | _ => true
  if f.e4m3 then
    (if toInf && !sat then 0x7F else f.maxFin + f.sign neg)
  else if toInf && !(f.e5m2 && sat) then f.infBits + f.sign neg else f.maxFin + f.sign neg

/-- An exact result (R78): a NaN (with NV or not), an infinity, a zero with its sign, or a nonzero value. -/
inductive Exact where
  | nan (nv : Bool)
  | inf (neg : Bool)
  | zero (neg : Bool)
  | val (neg : Bool) (m : Nat) (e : Int)
deriving DecidableEq, Repr

/-- An exact result delivered in a format, with its flags (R78 to R80). -/
def Fmt.deliver (f : Fmt) (rm : Rm) (sat : Bool) (x : Exact) : Nat × Flags :=
  match x with
  | .nan nv => (f.nan, if nv then flNV else 0)
  | .inf neg =>
    if f.e4m3 then (if sat then (f.maxFin + f.sign neg, flNX) else (0x7F, flNV))
    else if f.e5m2 && sat then (f.maxFin + f.sign neg, flNX)
    else (f.infBits + f.sign neg, 0)
  | .zero neg => (f.sign neg, 0)
  | .val neg m e =>
    let r := f.roundMag rm neg m e
    if r.ovf then (f.overflow rm sat neg, flOF ||| flNX)
    else (r.mag + f.sign neg, (if r.inexact then flNX else 0) ||| (if r.tiny && r.inexact then flUF else 0))

/-- A product of operands with a sign (R78). -/
structure Term where
  neg : Bool
  fs : List FVal
deriving DecidableEq, Repr
def tm (a : FVal) : Term := { neg := false, fs := [a] }
def tm2 (a b : FVal) : Term := { neg := false, fs := [a, b] }
def Term.flip (t : Term) : Term := { t with neg := !t.neg }

def FVal.isNan : FVal → Bool | .nan _ => true | _ => false
def FVal.isSnan : FVal → Bool | .nan s => s | _ => false
def FVal.isInf : FVal → Bool | .inf _ => true | _ => false
def FVal.isZero : FVal → Bool | .fin _ m _ => m == 0 | _ => false
def FVal.neg : FVal → Bool | .nan _ => false | .inf n => n | .fin n _ _ => n
/-- The sign of a term: the XOR of its factors' signs. -/
def Term.sgn (t : Term) : Bool := t.fs.foldl (fun s x => s != x.neg) t.neg
def Term.isInf (t : Term) : Bool := t.fs.any FVal.isInf
def Term.isZero (t : Term) : Bool := t.fs.any FVal.isZero
/-- Magnitude and exponent of a finite term. -/
def Term.mag (t : Term) : Nat × Int :=
  t.fs.foldl (fun p x => match x with | .fin _ m e => (p.1 * m, p.2 + e) | _ => p) (1, 0)

/-- The least of a list of exponents. -/
def minExp : List (Nat × Int) → Int
  | [] => 0
  | [x] => x.2
  | x :: r => min x.2 (minExp r)

/-- An expression formed exactly (R78). An expression with no term is a zero sum (log entry 12). -/
def exactSum (rm : Rm) (ts : List Term) : Exact :=
  if ts.any fun t => t.fs.any FVal.isNan then .nan (ts.any fun t => t.fs.any FVal.isSnan)
  else if ts.any fun t => t.isInf && t.isZero then .nan true
  else
    let infs := ts.filter Term.isInf
    match infs with
    | t :: r => if r.any fun u => u.sgn != t.sgn then .nan true else .inf t.sgn
    | [] =>
      let e := minExp (ts.map Term.mag)
      let sum : Int := ts.foldl (fun (acc : Int) t =>
        let v : Int := (t.mag.1 * 2 ^ (t.mag.2 - e).toNat : Nat)
        if t.sgn then acc - v else acc + v) 0
      if sum = 0 then
        match ts with
        | t :: r => if ts.all Term.isZero && r.all (fun u => u.sgn == t.sgn) then .zero t.sgn else .zero (rm == .rdn)
        | [] => .zero (rm == .rdn)
      else .val (sum < 0) sum.natAbs e

/-- An exact expression rounded once into a format (R78, R79). -/
def Fmt.sum (f : Fmt) (rm : Rm) (ts : List Term) : Nat × Flags := f.deliver rm false (exactSum rm ts)

/-- An operand as an exact result. -/
def FVal.exact : FVal → Exact
  | .nan s => .nan s
  | .inf n => .inf n
  | .fin n m e => if m = 0 then .zero n else .val n m e

/-- A value a / b to more places than any format keeps, the last bit standing for what follows (R95). -/
def quotient (am : Nat) (ae : Int) (bm : Nat) (be : Int) : Nat × Int :=
  let s := 130 + Nat.log2 bm - Nat.log2 am
  let q := am * 2 ^ s / bm
  (2 * q + (if am * 2 ^ s % bm = 0 then 0 else 1), ae - be - (s : Int) - 1)
/-- a ÷ b (R81, R95). -/
def divExact (a b : FVal) : Exact × Flags :=
  let sg := a.neg != b.neg
  if a.isNan || b.isNan then (.nan (a.isSnan || b.isSnan), 0)
  else match a, b with
    | .inf _, .inf _ => (.nan true, 0)
    | .inf _, _ => (.inf sg, 0)
    | _, .inf _ => (.zero sg, 0)
    | .fin _ am ae, .fin _ bm be =>
      if bm = 0 then (if am = 0 then (.nan true, 0) else (.inf sg, flDZ))
      else if am = 0 then (.zero sg, 0)
      else let (q, e) := quotient am ae bm be; (.val sg q e, 0)
    | _, _ => (.nan false, 0)
/-- Division in a format (R95). -/
def Fmt.div (f : Fmt) (rm : Rm) (a b : FVal) : Nat × Flags :=
  let (x, fl) := divExact a b
  let (r, g) := f.deliver rm false x
  (r, fl ||| g)

/-- Floor of the square root of n, by its bits from bit i down. -/
def isqrtFrom : Nat → Nat → Nat → Nat
  | 0, n, r => if (r + 1) * (r + 1) ≤ n then r + 1 else r
  | i + 1, n, r => isqrtFrom i n (if (r + 2 ^ (i + 1)) * (r + 2 ^ (i + 1)) ≤ n then r + 2 ^ (i + 1) else r)
def isqrt (n : Nat) : Nat := isqrtFrom (Nat.log2 n / 2 + 1) n 0
/-- Square root in a format (R81, R95): −0 for −0. -/
def Fmt.sqrt (f : Fmt) (rm : Rm) (a : FVal) : Nat × Flags :=
  match a with
  | .nan s => (f.nan, if s then flNV else 0)
  | .inf n => if n then (f.nan, flNV) else (f.infBits, 0)
  | .fin n m e =>
    if m = 0 then (f.sign n, 0)
    else if n then (f.nan, flNV)
    else
      let k : Nat := if e % 2 = 0 then 130 else 131
      let w := m * 2 ^ k
      let r := isqrt w
      f.deliver rm false (.val false (2 * r + (if r * r = w then 0 else 1)) ((e - (k : Int)) / 2 - 1))

/-! ### Comparison, minimum, maximum (R81) -/

/-- The value of a finite operand times 2^-e for the exponent given. -/
def FVal.scaled (x : FVal) (e : Int) : Int :=
  match x with
  | .fin n m k => let v : Int := (m * 2 ^ (k - e).toNat : Nat); if n then -v else v
  | _ => 0
/-- a < b in value, for operands that are no NaN. -/
def FVal.lt (a b : FVal) : Bool :=
  match a, b with
  | .inf x, .inf y => x && !y
  | .inf x, _ => x
  | _, .inf y => !y
  | .fin _ _ ea, .fin _ _ eb => let e := min ea eb; decide (a.scaled e < b.scaled e)
  | _, _ => false
/-- a = b in value, for operands that are no NaN; −0 equals +0. -/
def FVal.eqv (a b : FVal) : Bool := !a.lt b && !b.lt a

/-- A floating-point comparison and the NV it sets (R81). -/
def FCond.float (c : FCond) (a b : FVal) : Bool × Flags :=
  let nan := a.isNan || b.isNan
  let sn := if a.isSnan || b.isSnan then flNV else 0
  let ordered := if nan then flNV else 0
  match c with
  | .eq => (!nan && a.eqv b, sn)
  | .ne => (nan || !a.eqv b, sn)
  | .lt => (!nan && a.lt b, ordered)
  | .le => (!nan && !b.lt a, ordered)
  | .gt => (!nan && b.lt a, ordered)
  | .ge => (!nan && !a.lt b, ordered)
  | .ult => (nan || a.lt b, sn)
  | .ule => (nan || !b.lt a, sn)
  | .ugt => (nan || b.lt a, sn)
  | .uge => (nan || !a.lt b, sn)

/-- An operand as bits of its format; a NaN becomes canonical. -/
def Fmt.canon (f : Fmt) (w : Nat) : Nat := if (f.read w).isNan then f.nan else w
/-- a below b, with −0 below +0 (R81). -/
def FVal.below (a b : FVal) : Bool := a.lt b || (a.isZero && b.isZero && a.neg && !b.neg)
/-- Minimum (`mx = false`) or maximum of two patterns of a format (R81): −0 is below +0, a lone NaN yields the other
operand. -/
def Fmt.minMax (f : Fmt) (mx : Bool) (a b : Nat) : Nat × Flags :=
  let x := f.read a
  let y := f.read b
  let fl := if x.isSnan || y.isSnan then flNV else 0
  if x.isNan && y.isNan then (f.nan, fl)
  else if x.isNan then (b, fl)
  else if y.isNan then (a, fl)
  else
    (if mx then (if x.below y then b else a) else (if y.below x then b else a), fl)

/-! ### Conversions (R83, Table 4-3) -/

/-- An integer as an exact value. -/
def exactInt (i : Int) : Exact := if i = 0 then .zero false else .val (i < 0) i.natAbs 0
/-- An integer clamped to a range. -/
def clampInt (lo hi i : Int) : Int := if i < lo then lo else if hi < i then hi else i
/-- Range of an integer type of width w. -/
def intLo (sg : Bool) (w : Nat) : Int := if sg then -(2 ^ (w - 1) : Nat) else 0
def intHi (sg : Bool) (w : Nat) : Int := if sg then (2 ^ (w - 1) - 1 : Nat) else (2 ^ w - 1 : Nat)
/-- Float to integer: rounded by `rm`, clamped; NaN gives 0 (Table 4-3). -/
def floatToInt (rm : Rm) (sg : Bool) (w : Nat) (x : FVal) : Int × Flags :=
  match x with
  | .nan _ => (0, flNV)
  | .inf n => (if n then intLo sg w else intHi sg w, flNV)
  | .fin n m e =>
    -- beyond any integer type without forming the number
    if 0 < m ∧ e > 70 then (if n then intLo sg w else intHi sg w, flNV)
    else
      let k := roundQ rm n m e 0
      let v : Int := if n then -(k : Int) else k
      let c := clampInt (intLo sg w) (intHi sg w) v
      let exact := if 0 ≤ e then true else if (-e).toNat > Nat.log2 m + 2 then m == 0 else m % 2 ^ (-e).toNat == 0
      (c, if c ≠ v then flNV else if exact then 0 else flNX)

/-! ### Rounding-mode codes -/

/-- The mode that a RM field names, with `fcsr` RM for 000 (R79). -/
def Rm.actual (r : Rm) (fcsr : BitVec 8) : Rm :=
  match r with
  | .dyn => (match fcsr.toNat % 8 with | 2 => .rtz | 3 => .rdn | 4 => .rup | 5 => .rna | _ => .rne)
  | x => x

end Sys2Proof.Machine
end

