-- ==== Sys2Proof/Machine/Tickets.lean ====
section
/-!
DEFINITION. Atomic operations (R148, R181, Table 8-6), the commit right, the commit buffer and the fills of ordered
operations (R37 to R43, R233, R234), and `TSEAL` and `TWAIT` (R246, R247).
-/

namespace Sys2Proof.Machine

/-- The float format of an n-byte atomic (Table 8-6). -/
def atomFmt (n : Nat) : Fmt := if n = 4 then fmt32 else fmt64
/-- The new value of an n-byte atomic (Table 8-6). -/
def AmoOp.apply (op : AmoOp) (n old x : Nat) : Nat :=
  let m := 2 ^ (8 * n)
  let f := atomFmt n
  match op with
  | .add => (old + x) % m
  | .and => old &&& x
  | .or => old ||| x
  | .xor => old ^^^ x
  | .min => if signed (8 * n) old ≤ signed (8 * n) x then old else x
  | .max => if signed (8 * n) x ≤ signed (8 * n) old then old else x
  | .minu => min old x
  | .maxu => max old x
  | .swap => x
  | .fadd => (f.sum .rne [tm (f.read old), tm (f.read x)]).1
  | .fmin => (f.minMax false old x).1
  | .fmax => (f.minMax true old x).1

/-- Whether a page kind accepts an atomic (Table 5-1, Table 8-6). -/
def PageKind.takes (k : PageKind) (op : AmoOp) : Bool :=
  match k with
  | .dev | .hostc => true
  | .hostn | .twin => op == .add || op == .swap
  | .io => false

/-- What an operation writes over an old value; none writes nothing (R182). -/
def OrdOp.next (op : OrdOp) (n old : Nat) : Option Nat :=
  match op with
  | .store bs => some (natOfBytes bs)
  | .amo o x => some (AmoOp.apply o n old (x.toNat % 2 ^ (8 * n)))
  | .cas e w => if old = e then some w else none
/-- An operation that reads its location. -/
def OrdOp.reads : OrdOp → Bool
  | .store _ => false
  | _ => true

/-- One element performed at its home: one indivisible read-modify-write, or a store (R148). The slice is recorded as the
owner of a HOSTC line by writes alone: Table 5-1 does not say how long it stays the owner after an atomic that writes
nothing, such as a `CAS` that fails (log entry 69). -/
def State.performElem (s : State) (p : Fin 3) (job : Nat) (x : OrdElem) : Nat × State :=
  match x.op with
  | .store bs => (0, s.writeHome p job x.loc bs)
  | op =>
    let old := natOfBytes (s.readHome x.loc x.n)
    let t := s.afterRead x.loc x.n
    match op.next x.n old with
    | some v => (old, t.writeHome p job x.loc (bytesOfNat x.n v))
    | none => (old, t)
/-- An element meets poison when it is performed: one that reads finds its bytes poisoned, one that stores meets a
poisoned line (R234; log entry 75). -/
def State.elemPoison (s : State) (x : OrdElem) : Bool :=
  if x.op.reads then s.readPoison x.loc x.n else linePoisoned (s.poisonOf x.loc.kind) x.loc.pa x.n
/-- The state after an element has met poison: one that stores has read nothing. -/
def State.metPoison (s : State) (x : OrdElem) : State := if x.op.reads then s.afterPoison x.loc x.n else s
/-- An element of a vector instruction performed late: one that meets poison is not performed, returns 0, and fails its
job (R234). -/
def State.performLate (s : State) (p : Fin 3) (job : Nat) (x : OrdElem) : Nat × State :=
  if s.elemPoison x then (0, (s.metPoison x).failJob p job Cause.poison.code) else s.performElem p job x
/-! ### The scalar data cache (R134) and the operations of a restored hart (R45) -/

/-- Two page kinds reach the same memory (R130). -/
def PageKind.sameSpace (a b : PageKind) : Bool :=
  a == b || (a == .hostc && b == .hostn) || (a == .hostn && b == .hostc)
/-- A cached line with bytes replaced. -/
def CacheLine.put (c : CacheLine) (pa : Nat) (bs : List Byte) : CacheLine :=
  { c with bytes := c.bytes.mapIdx fun i b => if pa ≤ c.at_.pa + i then (bs[c.at_.pa + i - pa]?).getD b else b }
/-- The scalar data cache with the bytes that the thread has just read or written at a place (R134). -/
def Hart.cachePut (h : Hart) (l : Loc) (bs : List Byte) : Hart :=
  { h with cache := h.cache.map fun c =>
      if PageKind.sameSpace c.at_.kind l.kind && c.at_.pa == l.pa / 128 * 128 then c.put l.pa bs else c }
/-- A recovery point after which the hart of a rank has performed one more ordered element (R45). -/
def RecPoint.note (r : RecPoint) (k : Fin 4) (num v : Nat) : RecPoint :=
  if r.entry ≤ num then { r with log := r.log ++ [(k, v)] } else r
/-- The recovery point of a hart's gang notes an ordered element performed, of entry `num` (R45). -/
def State.noteDone (s : State) (h : HartId) (num v : Nat) : State :=
  s.modGang h.gang fun g => { g with recov := g.recov.map fun r => r.note h.rank num v }
/-- An ordered element of a hart that must be performed now, unless the hart performed it before it was restored: then
what it returned is returned again (R45). `perform` performs it. -/
def State.once (s : State) (h : HartId) (num : Nat) (perform : State → Nat × State) : Nat × State :=
  match (s.hart h).redo with
  | v :: r => (v, s.modHart h fun x => { x with redo := r })
  | [] => let (v, t) := perform s; (v, t.noteDone h num v)
/-- Ordered elements of an entry performed late in order, with the values they return by element number. An `ST` with T
is no element of R234: it writes its bytes, and a poisoned line stays poisoned (R401). -/
def State.performOrdered (s : State) (h : HartId) (num : Nat) (vec : Bool) (p : Fin 3) (job : Nat) :
    List OrdElem → List (Nat × Nat) × State
  | [] => ([], s)
  | x :: r =>
    let (v, s) := s.once h num fun s => if vec || x.op.reads then s.performLate p job x else s.performElem p job x
    let (l, s) := State.performOrdered s h num vec p job r
    ((x.e, v) :: l, s)
/-- What the S agent of a hart sees of elements that its entry has performed (R134, R183). -/
def State.seeOwn (s : State) (e : Entry) : State :=
  if e.vec then s
  else e.elems.foldl (fun s x => s.modHart e.h fun h => h.cachePut x.loc (s.readHome x.loc x.n)) s

/-- What a returned value becomes in a register: extended by SX for 4 bytes. -/
def returned (n : Nat) (sx : Bool) (v : Nat) : Word := if n = 4 then extendN 4 sx v else word v

/-- A vector register with returned values in their elements: a change since the last save (R351). -/
def VReg.fill (v : VReg) (n : Nat) (sx : Bool) (l : List (Nat × Nat)) : VReg :=
  { v with dirty := true, el := vgen 128 fun e => match l.find? fun q => q.1 == e with
             | some q => returned n sx q.2
             | none => vget v.el e 0 }
/-- A hart's register fill when entry `num` is performed, where no later write has superseded it (R41). -/
def Hart.fill (h : Hart) (num : Nat) (f : Fill) (n : Nat) (l : List (Nat × Nat)) : Hart :=
  match f with
  | .none => h
  | .g d wide sx =>
    let old := (l.headD (0, 0)).2
    let put (h : Hart) (r : Fin 32) (w : Word) : Hart :=
      if h.fillG.contains (r, num) then
        { h with g := vput h.g r w, fillG := h.fillG.filter fun q => q ≠ (r, num) } else h
    match d with
    | none => h
    | some r =>
      if wide then put (put h r (word old)) (r + 1) (word (old / 2 ^ 64))
      else put h r (returned n sx old)
  | .v d sx =>
    let put (h : Hart) (r : Fin 60) : Hart :=
      if h.fillV.contains (r, num) then
        { h with v := vmod h.v r fun v => v.fill n sx l, fillV := h.fillV.filter fun q => q ≠ (r, num) } else h
    let h := match d with
      | some r => put h ⟨r.val, by omega⟩
      | none => h
    put h 58

/-- Results that reach a hart whose state is saved reach its frame too: scalar register r at quadword 32 + r, element e of
register k at quadword 512 + 128 k + e (R42, Table 17-2). -/
def State.fillFrame (s : State) (h : HartId) (old : Hart) : State :=
  let g := s.gang h.gang
  match g.frames with
  | none => s
  | some (hs, _) =>
    if !g.saved.contains h.rank then s
    else
      let new := s.hart h
      let put (s : State) (k : Nat) (w : Word) : State :=
        s.writeHome g.p 0 { kind := .dev, pa := hs.getD h.rank.val 0 + 8 * k } (bytesOfNat 8 w.toNat)
      let s := (List.finRange 32).foldl (fun s r => if old.g[r] = new.g[r] then s else put s (32 + r.val) new.g[r]) s
      (List.finRange 60).foldl (fun s k => if old.v[k].el = new.v[k].el then s
        else (List.range 128).foldl (fun s e => put s (512 + 128 * k.val + e) (vget new.v[k].el e 0)) s) s
/-- What the entry of an instruction before a recovery point returns reaches the hart of that point too (R41, R45). -/
def RecPoint.fill (r : RecPoint) (k : Fin 4) (num : Nat) (f : Fill) (n : Nat) (l : List (Nat × Nat)) : RecPoint :=
  if num < r.entry then { r with harts := vmod r.harts k fun h => h.fill num f n l } else r
/-- A commit-buffer entry performed (R38, R41): the S agent sees its own write, and an acquire invalidates the scalar
cache, but for one of V at hart scope (R134, R136). -/
def State.performEntry (s : State) (e : Entry) : State :=
  let (l, t) := s.performOrdered e.h e.num e.vec e.p e.job e.elems
  let u := { t.seeOwn e with entries := t.entries.filter fun x => x.num ≠ e.num }
  let n := (e.elems.map OrdElem.n).headD 8
  ((u.modHart e.h fun h =>
    { h.fill e.num e.fill n l with cache := if e.empties then [] else h.cache }).modGang e.h.gang fun g =>
      { g with recov := g.recov.map fun r => r.fill e.h.rank e.num e.fill n l }).fillFrame e.h (u.hart e.h)

/-! ### Own ordered operations in the commit buffer -/

/-- An access of n bytes at a place must come after an element of the same agent: they overlap (R131), or both act on
IO pages (R133). -/
def OrdElem.meets (x : OrdElem) (l : Loc) (n : Nat) : Bool :=
  if x.loc.kind == .io || l.kind == .io then x.loc.kind == l.kind
  else PageKind.sameSpace x.loc.kind l.kind && decide (x.loc.pa < l.pa + n) && decide (l.pa < x.loc.pa + x.n)
/-- An unordered access of the S or V agent of the hart that runs must wait for the agent's own buffered operations: for
those it meets (R131, R133), for every acquire (R136), and, when it is a release itself, for all of them (R136). R131
would let the agent read its own buffered write early; the model does not (log entry 52). The accesses of the
supervisor agent wait for none of them, the trapped hart's own included (R152; log entry 47). -/
def State.waitsOwn (s : State) (vec rel : Bool) (ls : List (Loc × Nat)) : Bool :=
  !s.atS && s.entries.any fun e => e.h == s.cur && e.vec == vec &&
    (rel || e.acq || e.elems.any fun x => ls.any fun q => x.meets q.1 q.2)

/-! ### The commit right -/

def State.family? (s : State) (p : Fin 3) (parent : Nat) : Option Family :=
  s.families.find? fun f => f.p == p && f.parent == parent
def State.modFamily (s : State) (p : Fin 3) (parent : Nat) (f : Family → Family) : State :=
  { s with families := s.families.map fun x => if x.p = p ∧ x.parent = parent then f x else x }
/-- The scope in which an operation of a job is ordered: tree only for a job that `JSPAWN` made (R37). -/
def Job.scope (j : Job) (tree : Bool) : Bool := tree && j.spawnKey.isSome
/-- The place of a key among the keys of a family: parent ticket, number, ticket. -/
def keyLt (a b : Nat × Nat × Nat) : Bool :=
  decide (a.1 < b.1) || (a.1 == b.1 && (decide (a.2.1 < b.2.1) || (a.2.1 == b.2.1 && decide (a.2.2 < b.2.2))))
/-- The ticket of a job holds the commit right in a scope (R38), or the right has passed it: a ticket that was sealed and
is open again in a restored hart (R45). -/
def State.hasRight (s : State) (j : Job) (t : Nat) (tree : Bool) : Bool :=
  match j.scope tree, j.spawnKey, s.family? j.p j.parent with
  | true, some (pt, num), some f => !keyLt (f.pt, f.num, f.right) (pt, num, t)
  | true, _, _ => false
  | false, _, _ => decide (t ≤ j.right)

/-- The entries of a ticket, in program order. -/
def State.queue (s : State) (p : Fin 3) (job t : Nat) : List Entry :=
  s.entries.filter fun e => e.p == p && e.job == job && e.ticket == t
/-- The leading entries of a ticket are performed while the ticket holds their right (R38, R40), at most n. -/
def State.flush (s : State) (p : Fin 3) (job t : Nat) : Nat → State
  | 0 => s
  | n + 1 =>
    match s.queue p job t, s.job? p job with
    | e :: _, some j => if s.hasRight j t e.tree then State.flush (s.performEntry e) p job t n else s
    | _, _ => s
/-- An ordered operation of the hart that runs is performed as it issues: it holds the right, and no earlier ordered
operation of the hart is waiting (R37, R38). -/
def State.direct (s : State) (tree : Bool) : Bool :=
  let g := s.myGang
  let j := s.myJob
  let t := s.ticket s.cur
  (s.queue g.p g.job t).isEmpty && s.hasRight j t tree

/-- Entries of a core's commit buffer in use (R40). The spec does not say whether an entry of a PAIRED gang takes room in
the shadow core's buffer too: the model counts it on the primary core only (log entry 64). -/
def State.commitUsed (s : State) (core : Nat) : Nat :=
  (s.entries.filter fun e => e.place == 0 && e.core == core).length
/-- Capacity of a core's commit buffer. -/
def commitEntries : Nat := 1024

/-- New entries of the hart that runs, all in one place: of its V agent or of S, whether they are acquires, and whether
these empty the scalar cache (R134). -/
def State.addEntries (s : State) (tree vec acq empties : Bool) (place : Fin 3) (pins : List Pin) :
    List (List OrdElem × Fill) → State
  | [] => s
  | (xs, f) :: r =>
    let g := s.myGang
    let e : Entry := { num := s.nextEntry, p := g.p, job := g.job, tree := s.myJob.scope tree, ticket := s.ticket s.cur,
                       h := s.cur, core := g.core, place := place, elems := xs, fill := f, pins := pins, vec := vec,
                       acq := acq, empties := empties }
    State.addEntries { s with entries := s.entries ++ [e], nextEntry := s.nextEntry + 1 } tree vec acq empties place pins r
/-- Entries that one spill segment holds, and the bytes of a record that holds one (R40, R352). -/
def segmentEntries : Nat := 64
def recordBytes : Nat := 1024
/-- The places of the records of a segment. -/
def segmentRecords (va : Nat) : List Nat := (List.range segmentEntries).map fun i => va + recordBytes * i
/-- Records of entries written at some places of a job's segments. R352 keeps their format internal, so their bytes are
free values (log entry 43); the entries themselves stay in State. -/
def State.writeRecords (s : State) (j : Job) (vas : List Nat) : State :=
  vas.foldl (fun s va => s.writeFree j va recordBytes) s
/-- Entries still free in the spill segments linked for a hart (R40). -/
def Hart.spillFree (h : Hart) : Nat := h.spill.length
/-- The stall of the ordered operation that runs is over, because `COMMIT_SPILL` has moved the hart's entries (R40). -/
def State.spills (s : State) : Bool :=
  s.me.wait.any fun w => w.expired && (match w.what with | .commitFull _ _ => true | _ => false)
/-- Ordered element groups of the hart that runs placed in the commit buffer; none when it lacks room, and the operation
stalls (R40). One that finds room for only some of its entries enters none (log entry 51). After its stall, an operation
that the moved entries left no room enters its own into the linked segments too (log entry 32). -/
def State.buffer (s : State) (tree vec acq empties : Bool) (pins : List Pin) (gs : List (List OrdElem × Fill)) : Option State :=
  let n := gs.length
  if s.commitUsed s.myGang.core + n ≤ commitEntries then some (s.addEntries tree vec acq empties 0 pins gs)
  else if s.spills ∧ n ≤ s.me.spillFree then
    some (((s.addEntries tree vec acq empties 1 pins gs).writeRecords s.myJob (s.me.spill.take n)).modMe fun h =>
      { h with spill := h.spill.drop n })
  else none

/-- T of an instruction: at S, and after the ticket is sealed, it raises TICKET (R39, R248); a scalar access gives its
effective address (R316). -/
def State.ticketCheck (s : State) (t : Tick) (ea : Word := 0) : Option TrapInfo :=
  if t ≠ .no ∧ (s.atS ∨ s.me.sealed) then some { c := .ticket, addr := ea } else none

/-! ### TSEAL and TWAIT -/

/-- TSEAL (R246): the ticket is sealed; at S it raises TICKET (R248). -/
def execTseal (s : State) : Res :=
  if s.atS then s.raise 0x53 (trap .ticket)
  else
    let g := s.myGang
    ((s.modMe fun h => { h with sealed := true }).sealTicket g.p g.job (s.ticket s.cur)).retire

/-- A ticket of a job is committed, and so is every lower one: the right has passed it (R38, R43, R151). A job that
has ended has committed every ticket. -/
def State.passed (s : State) (p : Fin 3) (job t : Nat) : Bool :=
  match s.job? p job with
  | none => true
  | some j => decide (t < j.right)
/-- The tree right of a family has passed a key. -/
def Family.passed (f : Family) (k : Nat × Nat × Nat) : Bool := keyLt k (f.pt, f.num, f.right)
/-- The siblings of a family in spawn order (R37). -/
def Family.inOrder (f : Family) : List Kid :=
  sorted f.kids fun a b => decide (a.ticket < b.ticket) || (a.ticket == b.ticket && decide (a.num ≤ b.num))

/-- What TWAIT waits for: a trap, nothing, or a key of the job or of the family (R247). -/
inductive TwaitKey where
  | bad
  | done
  | job (t : Nat)
  | tree (k : Nat × Nat × Nat)
deriving DecidableEq, Repr
/-- The key that TWAIT names (R247). A blocked `TWAIT` finds it again at each evaluation, so a sibling spawned meanwhile
changes which one a distance names (log entry 33). -/
def State.twaitKey (s : State) (t : Tick) (a b : Nat) : TwaitKey :=
  let j := s.myJob
  let own := s.ticket s.cur
  match t, j.spawnKey, s.family? j.p j.parent with
  | .tt, some (pt, num), some f =>
    if b = 0 then (if a < own then .tree (pt, num, a) else .bad)
    else
      let l := f.inOrder
      let i := l.findIdx fun k => k.ticket == pt && k.num == num
      if i < b then .done
      else match l[i - b]? with
        | some k => .tree (k.ticket, k.num, min a (k.tickets - 1))
        | none => .done
  | .tt, _, _ => if b ≠ 0 then .bad else if a < own then .job a else .bad
  | _, _, _ => if a < own then .job a else .bad
/-- The key is committed. -/
def State.twaitDone (s : State) : TwaitKey → Bool
  | .bad => false
  | .done => true
  | .job t => s.passed s.myGang.p s.myGang.job t
  | .tree k =>
    match s.family? s.myJob.p s.myJob.parent with
    | some f => f.passed k
    | none => true
/-- TWAIT (R43, R247): blocks until the key is committed; an acquire at device scope. -/
def execTwait (t : Tick) (a b : GOp) (s : State) : Res :=
  if s.atS then s.raise 0x54 (trap .ticket)
  else
    match s.twaitKey t (s.rg a).toNat (s.rg b).toNat with
    | .bad => s.raise 0x54 (trap .ticket)
    | k => if s.twaitDone k then s.acquire.retire else s.block 0x54 .twait none

end Sys2Proof.Machine
end

