-- ==== Sys2Proof/Machine/Hearth.lean ====
section
/-!
DEFINITION. What Hearth's steps share: the Hearth reserve (R352, R392), launch checks and acceptance (R28, R329, R332,
R334), channel posts (R337), the passing of the commit right (R38), completion records (R343), the end of subscriptions
and the closing of sweeps (R267, R271, R273), and abandonment (R344).
-/

namespace Sys2Proof.Machine

/-! ### The Hearth reserve -/

/-- Messages pending on the channels of a partition. -/
def State.messages (s : State) (p : Fin 3) : Nat := ((s.prt p).tasks.toList.map TaskEntry.waiting).sum
/-- 64 KiB segments of the reserve that n pending messages take: the first 1,024 are on-chip (R337). -/
def messageSegs (n : Nat) : Nat := ceilDiv (n - 1024) 8192
/-- Bytes of a hart frame, and of a gang frame before its scratchpad (R352). -/
def hartFrameBytes : Nat := 131072
def gangFrameBytes : Nat := 8192
/-- Blocks of the reserve that a gang's frames and commit chains take: base and size (R352). -/
def Gang.blocks (g : Gang) : List (Nat × Nat) :=
  (match g.frames with
   | some (hs, f) => hs.map (fun a => (a, hartFrameBytes)) ++ [(f, gangFrameBytes + g.spsize)]
   | none => []) ++ g.chains.map fun c => (c.2, 65536)
def State.reserveBlocks (s : State) (p : Fin 3) : List (Nat × Nat) :=
  ((s.gangs.filter fun g => g.p == p).map Gang.blocks).flatten
/-- The first address of the reserve, and the first above what is left when n message segments lie at its top. -/
def Part.reserveLow (q : Part) : Nat := q.hrb.toNat * 65536
def Part.reserveHigh (q : Part) (n : Nat) : Nat := q.reserveLow + q.hrs.toNat * 2 ^ 20 - 65536 * n
/-- The reserve has room for n message segments (R337, R392). -/
def State.reserveRoom (s : State) (p : Fin 3) (n : Nat) : Bool :=
  n == 0 || (decide (65536 * n ≤ (s.prt p).hrs.toNat * 2 ^ 20) &&
    (s.reserveBlocks p).all fun b => decide (b.1 + b.2 ≤ (s.prt p).reserveHigh n))
/-- The lowest free aligned block of the reserve beside the blocks in use (R352). -/
def State.takeBlock (s : State) (p : Fin 3) (used : List (Nat × Nat)) (size align : Nat) : Option Nat :=
  let q := s.prt p
  let high := q.reserveHigh (messageSegs (s.messages p))
  let starts := (q.reserveLow :: used.map fun b => b.1 + b.2).map fun a => roundUp a align
  (starts.filter fun a => decide (a + size ≤ high) &&
    used.all fun b => b.2 == 0 || decide (a + size ≤ b.1) || decide (b.1 + b.2 ≤ a)).min?

/-! ### Launch records -/

/-- A record that R28, R153 and R332 refuse, for its effective deadline; `JSPAWN` ignores Q4. -/
def LaunchRec.refused (r : LaunchRec) (spawn : Bool) (ddl : Nat) : Bool :=
  bits r.q0 63 56 != 0 || bits r.q1 63 56 != 0 || bits r.q2 63 52 != 0 || bits r.q2 31 30 != 0 ||
  (!spawn && bits r.q4 63 40 != 0) || bits r.q5 63 56 != 0 || bits r.q6 63 12 != 0 ||
  r.gangs == 0 || decide (4 < r.harts) || r.lw == 0 || decide (4 < r.tph) || decide (8 < r.harts * r.tph) ||
  decide (512 < r.spk) || decide (128 * r.harts < r.spk) || r.abp == 3 || (r.abp == 2 && ddl != 0) ||
  r.entry % 8 != 0 || r.crec % 32 != 0
/-- The arena mask names an arena that is not granted (R374). -/
def State.ungranted (s : State) (p : Fin 3) (vf : Fin 64) (r : LaunchRec) : Bool :=
  (List.finRange 4).any fun n => r.amask.testBit n.val && !(s.func p vf).ag[n]
/-- Cores of a partition on which Hearth may place gangs (R339, R406). -/
def State.cores (s : State) (p : Fin 3) : List Nat :=
  (List.range 64).filter fun c => bit (s.prt p).cap1 (56 + c / 8) && !s.fence.getLsbD c
/-- Gangs of a job that an empty core holds at once (R27, R339). -/
def LaunchRec.perCore (r : LaunchRec) : Nat :=
  let sp := if r.spk = 0 then 4 else 524288 / roundUp (1024 * r.spk) 4096
  let tiles := if r.tph = 0 then 4 else 8 / (r.harts * r.tph)
  min (4 / r.harts) (min sp tiles)
/-- A COSCHED job whose gangs can never be placed at once (R34); a PAIRED gang takes two cores of one cluster. -/
def State.neverFits (s : State) (p : Fin 3) (r : LaunchRec) : Bool :=
  let n := if r.paired then
      ((List.range 8).map fun k => ((s.cores p).filter fun c => c / 8 == k).length).foldl
        (fun acc m => acc + (if m < 2 then 0 else m * r.perCore / 2)) 0
    else (s.cores p).length * r.perCore
  r.cosched && decide (n < r.gangs)

/-! ### Channel posts -/

def State.modTask (s : State) (p : Fin 3) (c : Fin 256) (f : TaskEntry → TaskEntry) : State :=
  s.modPart p fun q => { q with tasks := vmod q.tasks c f }
/-- A post on a channel (R337): taken at once where the channel and R329 let it, so that nothing keeps its launch by
`CHANNEL_MESSAGE_TAKE` back, and otherwise added to the pending messages; dropped and counted where the entry is not valid
or the message store cannot grow (R392). -/
def State.post (s : State) (p : Fin 3) (c : Fin 256) (x : Word) (poster : Nat) : State :=
  let t := (s.prt p).tasks[c]
  let m : Msg := { payload := x, at_ := s.dtime, poster := poster }
  let add (m : Msg) : State := s.modTask p c fun t => { t with msgs := t.msgs ++ [m] }
  let drop (s : State) := s.modPart p fun q => { q with dropPosts := q.dropPosts + 1 }
  if (s.prt p).st ≠ .run then s
  else if !t.valid then drop s
  else if s.takesNow p t then add { m with taken := some (s.taking t m) }
  else if !s.reserveRoom p (messageSegs (s.messages p + 1)) then
    (drop s).modPart p fun q => { q with err := q.err ||| 8 }
  else add m
/-- A post by an engine or by Hearth, on a channel number of 8 bits. -/
def State.postN (s : State) (p : Fin 3) (c : Nat) (x : Word) : State := s.post p (Fin.ofNat 256 c) x 0

/-! ### The commit right -/

/-- The event registers of a job's harts are set (R193). -/
def State.setEvtJob (s : State) (p : Fin 3) (job : Nat) : State :=
  { s with gangs := s.gangs.map fun g =>
      if g.p = p ∧ g.job = job then { g with harts := g.harts.map fun x => { x with evt := true } } else g }
/-- A ticket of a job is sealed or voided; those of a job that has ended are. -/
def State.closedTicket (s : State) (p : Fin 3) (job t : Nat) : Bool :=
  match s.job? p job with
  | none => true
  | some j => j.sealedT.contains t || j.voidedT.contains t
/-- The right of a job passes its holder, where R38 lets it; the next ticket's operations are performed. -/
def State.passJob (s : State) (p : Fin 3) (job : Nat) : Option State :=
  match s.job? p job with
  | none => none
  | some j =>
    if j.right < j.tickets ∧ s.closedTicket p job j.right ∧ !s.pendingOps p job j.right false then
      let s := (s.modJob p job fun j => { j with right := j.right + 1 }).setEvtJob p job
      some (s.flush p job (j.right + 1) s.entries.length)
    else none
/-- The sibling at a place of a family. -/
def Family.kid? (f : Family) (pt num : Nat) : Option Kid := f.kids.find? fun k => k.ticket == pt && k.num == num
/-- The tree right of a family moved to a key, whose operations are performed. -/
def State.moveTree (s : State) (f : Family) (pt num t : Nat) : State :=
  let s := s.modFamily f.p f.parent fun f => { f with pt := pt, num := num, right := t }
  match f.kid? pt num with
  | some k => let s := s.setEvtJob f.p k.job; s.flush f.p k.job t s.entries.length
  | none => s
/-- The tree right of a family passes its holder, where R38 lets it. -/
def State.passTree (s : State) (p : Fin 3) (parent : Nat) : Option State :=
  match s.family? p parent with
  | none => none
  | some f =>
    match f.kid? f.pt f.num with
    | some k =>
      if f.right < k.tickets ∧ (!s.closedTicket p k.job f.right ∨ s.pendingOps p k.job f.right true) then none
      else
        let s := s.setEvtJob p k.job
        if f.right + 1 < k.tickets ∧ (s.job? p k.job).isSome then some (s.moveTree f f.pt f.num (f.right + 1))
        else some (s.moveTree f f.pt (f.num + 1) 0)
    | none =>
      if f.pt < f.tickets ∧ s.closedTicket p parent f.pt then some (s.moveTree f (f.pt + 1) 0 0) else none
/-- Passes of a job's right, at most n of them. -/
def State.passJobs (s : State) (p : Fin 3) (job : Nat) : Nat → State
  | 0 => s
  | n + 1 => match s.passJob p job with
    | some t => State.passJobs t p job n
    | none => s

/-! ### Completion records -/

/-- A completion record written through the translation of the launching function; one whose write faults is dropped and
counted (R343). One that its home refuses (R371, R378, R402) is lost without a count: it has met no fault of its
translation (log entry 72). -/
def State.writeRecord (s : State) (p : Fin 3) (vf : Fin 64) (job crec : Nat) (qs : List Word) : State :=
  let drop (s : State) := s.modPart p fun q => { q with dropRecs := q.dropRecs + 1 }
  if crec = 0 then s
  else match s.walk p vf crec with
    | .error c => drop (s.untranslated p vf crec c)
    | .ok l =>
      if (s.leafCheck p false .write l crec (crec + 31)).isSome then drop s
      else s.writeHome p job (l.pin.loc crec) (qs.map fun q => bytesOfNat 8 q.toNat).flatten
/-- The payload of a continuation or abandon post (R31, R343). -/
def endPayload (q5 : Word) (id : Nat) : Word :=
  if q5 ≠ 0 ∧ q5.toNat % 32 = 0 then q5 else word (0x8000000000000000 + id)
/-- The abandon channel posted, when ABEN is 1 (R31). -/
def State.postAbandon (s : State) (p : Fin 3) (x : Word) : State :=
  let q := s.prt p
  if q.aben then s.postN p q.abch.toNat x else s
/-- The completion record of a job (Table 16-5). -/
def Job.record (j : Job) (status : JobStatus) (cause endAt : Nat) : List Word :=
  let vs := j.voidedT.dedup
  [word (j.id % 2 ^ 40 * 2 ^ 24 + cause * 2 ^ 16 + status.code), word endAt, word (vs.min?.getD 0),
   word ((j.rcd.gangs - j.gangsEnded) * 2 ^ 24 + vs.length)]
/-- The post that the end of a job makes: on its continuation channel, or on the abandon channel (R31, R343). -/
def State.postEnd (s : State) (j : Job) (status : JobStatus) : State :=
  let x := endPayload j.rcd.q5 j.id
  if status = .done then (if bits j.rcd.q6 7 0 = 255 then s else s.postN j.p (bits j.rcd.q6 7 0) x)
  else s.postAbandon j.p x
/-- A job that is no longer in flight: its deadline entry is free (R329). -/
def State.dropJob (s : State) (p : Fin 3) (id : Nat) : State :=
  { s with jobs := s.jobs.filter fun x => !(x.p == p && x.id == id),
           holds := s.holds.filter fun h => !(h.p == p && h.job == id) }
/-- A job ends: its record is written and its channel posted while it is still in flight, so that it counts where R329
admits the launch of that post; then its deadline entry is freed (R30, R31, R329, R343). -/
def State.finishJob (s : State) (j : Job) (status : JobStatus) (cause endAt : Nat) : State :=
  ((s.writeRecord j.p j.vf j.id j.rcd.crec (j.record status cause endAt)).postEnd j status).dropJob j.p j.id
/-- A host or channel launch refused (R28, R332, R374): FAILED, under job id 0. -/
def State.refuseLaunch (s : State) (p : Fin 3) (vf : Fin 64) (r : LaunchRec) (c : Cause) : State :=
  let s := if r.crec % 32 = 0 then
      s.writeRecord p vf 0 r.crec [word (c.code * 2 ^ 16 + JobStatus.failed.code), word s.dtime, 0, 0]
    else s
  s.postAbandon p (endPayload r.q5 0)

/-- A launch accepted (R329): the job gets the next id; a COSCHED job that can never be placed ends FAILED with cause 0
(R34), and one of class 0 whose deadline has passed waits for its firing (R338). R34 does not say when it is judged that
the gangs cannot all fit: the model judges it at acceptance alone (log entry 63), so a job that a later core fence makes
unplaceable waits on. -/
def State.accept (s : State) (j : Job) : State :=
  let q := s.prt j.p
  let j := { j with id := q.nextJob, order := q.nextOrder, turn := q.nextOrder, st := .accepted,
                    ready := j.rcd.ddl == 0 || decide (s.dtime < j.rcd.ddl) }
  let s := (s.modPart j.p fun q => { q with nextJob := q.nextJob + 1, nextOrder := q.nextOrder + 1 })
  let t := { s with jobs := s.jobs ++ [j] }
  if s.neverFits j.p j.rcd then t.finishJob j .failed 0 s.dtime else t

/-! ### Sweeps (R267, R271, R273) -/

/-- A subscription that waits for a page in the main pass, or in the tail pass. -/
def Sub.wants (b : Sub) (tail : Bool) (id : Nat) : Bool :=
  !b.ended && b.pages.contains id && b.passed.contains id == tail
/-- The least page above a cursor that some subscription wants in a pass. -/
def Sweep.least (w : Sweep) (tail : Bool) (cur : Option Nat) : Option Nat :=
  (w.union.filter fun id => (match cur with | some c => decide (c < id) | none => true) &&
    w.subs.any fun b => b.wants tail id).min?
/-- The page that the sweep fetches next (R267). -/
def Sweep.nextPage (w : Sweep) : Option Nat :=
  match w.st with
  | .main | .closedMain => w.least false w.cursor
  | .tail => w.least true w.tailCursor
  | _ => none
/-- A closed sweep whose main pass has no page left goes on to its tail pass, where a page is passed for a subscription
(R267); with no page left to fetch and none held, its passes are done (log entry 4). -/
def Sweep.settle (w : Sweep) : Sweep :=
  let w := if w.st = .closedMain ∧ w.nextPage = none ∧ (w.least true none).isSome then { w with st := .tail } else w
  if (w.st = .closedMain ∨ w.st = .tail) ∧ w.nextPage = none ∧ w.held = [] then { w with st := .done } else w
/-- `PGCLOSE` of a sweep that is not closed (R271); one not started starts (R267). -/
def Sweep.close (w : Sweep) : Sweep :=
  Sweep.settle (if w.st = .opened ∨ w.st = .main then { w with st := .closedMain } else w)
/-- A subscription that ends: its pins and its Cask entries are freed (R270, R273). -/
def Sub.finish (b : Sub) : Sub := { b with ended := true, pins := [], queries := [] }
/-- Subscriptions of a sweep that end at once (R273). -/
def Sweep.endSubs (w : Sweep) (f : Sub → Bool) : Sweep :=
  let gone := (w.subs.filter fun b => !b.ended && f b).map Sub.idx
  Sweep.settle { w with
    subs := w.subs.map fun b => if f b && !b.ended then b.finish else b
    held := (w.held.map fun h => { h with todo := h.todo.filter fun i => !gone.contains i }).filter fun h => h.todo != [] }
def State.endSubs (s : State) (f : Sub → Bool) : State :=
  { s with sweeps := s.sweeps.map fun w => Sweep.endSubs w f }
/-- The sweeps that a job opened are closed (R30, R273). -/
def State.closeSweeps (s : State) (p : Fin 3) (job : Nat) : State :=
  { s with sweeps := s.sweeps.map fun w => if w.p = p ∧ w.job = job then w.close else w }

/-! ### Abandonment (R344) -/

/-- Descendants of a job by its families, but for those under a job with policy 10 (R344). -/
def State.descendants (s : State) (p : Fin 3) : Nat → Nat → List Nat
  | 0, _ => []
  | n + 1, job =>
    match s.family? p job with
    | none => []
    | some f =>
      let ks := f.kids.filter fun k => !k.apart
      ks.map Kid.job ++ (ks.map fun k => State.descendants s p n k.job).flatten
/-- A job's abandon policy takes its descendants with it (R344). -/
def Job.takesKids (j : Job) : Bool := j.rcd.abp == 0
/-- The jobs that are abandoned with a job (R344), by ascending id: alone, or with its descendants. -/
def State.abandonSet (s : State) (j : Job) (kids : Bool) : List Nat :=
  let ds := if kids then s.descendants j.p (s.families.length + 1) j.id else []
  sorted (j.id :: ds).dedup fun a b => decide (a ≤ b)
/-- A hart of an abandoned or killed job (R344, steps 2 and 5, R326). -/
def Hart.stopped (h : Hart) : Hart :=
  let h := { h with acc := Vector.replicate 4 none, fillG := [], fillV := [], stores := [], spill := [] }
  if h.over then h
  else
    let y := h.dropTokens
    { y with st := .voided, wait := none,
             sup := { y.sup with st := .idle, inh := false, call := none, wait := none } }
/-- A gang of an abandoned or killed job: its barriers and rings reset, its frames freed (R126, R128, R350). -/
def Gang.stopped (g : Gang) : Gang :=
  { g with phase := .over, harts := g.harts.map Hart.stopped, bars := Vector.replicate 32 Barrier.empty,
           rings := Vector.replicate 8 Ring.empty, frames := none, chains := [], saved := [], recov := none }
/-- The Hearth calls that the harts of a gang wait in have no effect (R326). -/
def State.unpostGang (s : State) (g : Gang) : State :=
  g.ranks.foldl (fun s r => s.unpostCall { gang := g.uid, rank := r }) s
/-- The gangs of some jobs stop for good, with their Hearth calls; those that hold no core are gone. -/
def State.stopGangs (s : State) (f : Gang → Bool) : State :=
  let s := (s.gangs.filter f).foldl State.unpostGang s
  let s := (s.gangs.filter f).foldl State.drainGang s
  { s with gangs := (s.gangs.filter fun g => !(f g && g.phase == .evicted)).map fun g => if f g then g.stopped else g }
/-- Tickets of a job that are not committed are voided, with their entries (R42, R344). -/
def State.voidJob (s : State) (p : Fin 3) (job : Nat) : State :=
  match s.job? p job with
  | none => s
  | some j =>
    let vs := (List.range j.tickets).filter fun t => j.voidedT.contains t || decide (j.right ≤ t) ||
      s.pendingOps p job t true || s.pendingOps p job t false
    { s with entries := s.entries.filter fun e => !(e.p == p && e.job == job) }.modJob p job fun j =>
      { j with voidedT := vs }
/-- The status post of a transmit record (R290). -/
def State.postTx (s : State) (t : Tx) (status time : Nat) : State :=
  let ch := bits (nth t.rcd 6) 7 0
  if ch = 255 then s else s.postN t.p ch (word (status + time % 2 ^ 56 * 256))
/-- Engine work of a job is cancelled (R344 step 4, R273, R281, R288, R290). -/
def State.cancelWork (s : State) (p : Fin 3) (job : Nat) : State :=
  let mineC (c : Coding) : Bool := c.p == p && c.job == job
  let txs := s.txs.filter fun t => t.p == p && t.job == job
  let s := { s with
    copies := s.copies.map fun (c : Copy) => if c.p = p ∧ c.job = job then { c with cancelled := true } else c
    codings := (s.codings.filter fun c => !mineC c || c.started).map fun c =>
      if mineC c then { c with stale := true, noCount := true } else c
    txs := s.txs.filter fun t => !(t.p == p && t.job == job) }
  let s := txs.foldl (fun s t => s.postTx t 5 0) s
  (s.endSubs fun b => b.p == p && b.job == job).closeSweeps p job
/-- Steps 1 to 5 of R344 for one job, with the status it will end with; a job that has ended or is Abandoning stays as
it is. -/
def State.abandonJob (s : State) (p : Fin 3) (job : Nat) (status : JobStatus) (endAt : Nat) : State :=
  match s.job? p job with
  | none => s
  | some j =>
    if j.st = .abandoning then s
    else
      let s := s.passJobs p job (j.tickets + 1)
      let s := s.modJob p job fun j =>
        { j with st := .abandoning, ready := false, ending := status, endAt := some endAt }
      let s := { s with holds := s.holds.filter fun h => !(h.p == p && h.job == job) }
      let s := (s.stopGangs fun g => g.p == p && g.job == job).voidJob p job
      s.cancelWork p job
/-- A job is abandoned, alone or with its descendants (R344): the job with the status given, descendants ABANDONED. -/
def State.abandonTree (s : State) (j : Job) (status : JobStatus) (kids : Bool) (endAt : Nat) : State :=
  (s.abandonSet j kids).foldl
    (fun s id => s.abandonJob j.p id (if id = j.id then status else .abandoned) endAt) s

/-- What a read of the header of arena n of a job finds (R106, R107): its place, where Hearth can read and write it. The
spec does not say whether Hearth can take a segment of an arena whose header lies on an IO page; the model takes such a
header as one that Hearth cannot update, since no atomic is performed on IO pages (Table 5-1, log entry 36). -/
def State.header? (s : State) (j : Job) (n : Fin 4) : Except Cause Loc :=
  let base := (s.arena j n).toNat
  match s.walk j.p j.vf base with
  | .error c => .error c
  | .ok l =>
    if l.pin.kind = .io ∨ (s.leafCheck j.p false .read l base (base + 63)).isSome ∨
        (s.leafCheck j.p false .write l base (base + 63)).isSome then
      .error .prot
    else if s.readPoison (l.pin.loc base) 64 then .error .poison
    else .ok (l.pin.loc base)
/-- Quadword k of an arena header at a place. -/
def State.headerQuad (s : State) (l : Loc) (k : Nat) : Nat := natOfBytes (s.readHome { l with pa := l.pa + 8 * k } 8)
/-- A segment taken from the first of some arenas of a job that Hearth may spill into, by one atomic on its header's
NEXT: its VA, and the state after; none where that header cannot be read or updated, or has no room (R107). -/
def State.takeFrom (s : State) (j : Job) : List (Fin 4) → Option (Nat × State)
  | [] => none
  | n :: r =>
    match s.header? j n with
    | .error _ => none
    | .ok l =>
      let t := s.afterRead l 64
      if s.headerQuad l 2 % 2 = 0 then t.takeFrom j r
      else
        let nx := roundUp (s.headerQuad l 0) 65536 + 65536
        if s.headerQuad l 1 < nx ∨ s.writeRefused l 8 then none
        else some ((s.arena j n).toNat + nx - 65536, t.writeHome j.p j.id l (bytesOfNat 8 nx))
/-- The arenas that a job may use (R106). -/
def Job.arenas (j : Job) : List (Fin 4) := (List.finRange 4).filter fun n => j.rcd.amask.testBit n.val
/-- A segment taken from the spill arena of a job (R106, R107). -/
def State.takeSegment (s : State) (j : Job) : Option (Nat × State) := s.takeFrom j j.arenas
/-- The state after some arenas gave no segment (R370, R371): the error completion of an update that failed is used up,
with the segment not taken (R107). -/
def State.noneFrom (s : State) (j : Job) : List (Fin 4) → State
  | [] => s
  | n :: r =>
    let base := (s.arena j n).toNat
    match s.header? j n with
    | .error c => match s.walk j.p j.vf base with
      | .error _ => s.untranslated j.p j.vf base c
      | .ok l => if c = .poison then s.afterPoison (l.pin.loc base) 64 else s
    | .ok l =>
      let t := s.afterRead l 64
      let nx := roundUp (s.headerQuad l 0) 65536 + 65536
      if s.headerQuad l 2 % 2 = 0 then t.noneFrom j r
      else if s.headerQuad l 1 < nx then t
      else t.writeHome j.p j.id l (bytesOfNat 8 nx)
/-- The state after the arenas of a job gave no segment. -/
def State.noSegment (s : State) (j : Job) : State := s.noneFrom j j.arenas
/-- Segments taken one after another, until one cannot be taken: their VAs when all were, and the state with those that
were, which are never returned (R106, R107). -/
def State.takeSegments (s : State) (j : Job) : Nat → Option (List Nat) × State
  | 0 => (some [], s)
  | n + 1 => match s.takeSegment j with
    | some (a, t) => let (l, u) := State.takeSegments t j n; (l.map (a :: ·), u)
    | none => (none, s.noSegment j)

end Sys2Proof.Machine
end

