-- ==== Sys2Proof/Machine/Approx.lean ====
section
/-!
DEFINITION. The approximations VRCP, VRSQRT, VEXP2 and VLOG2 (R96 to R100), each an exact formula over fixed tables with
one rounding of the final value, and the merge of two Cask partials (R101, R102).
-/

namespace Sys2Proof.Machine

/-- An exact signed value n · 2^e. -/
structure Dy where
  n : Int
  e : Int
deriving DecidableEq, Repr
def Dy.ofInt (i : Int) : Dy := { n := i, e := 0 }
def Dy.mul (a b : Dy) : Dy := { n := a.n * b.n, e := a.e + b.e }
def Dy.neg (a : Dy) : Dy := { n := -a.n, e := a.e }
def Dy.add (a b : Dy) : Dy :=
  let e := min a.e b.e
  { n := a.n * (2 ^ (a.e - e).toNat : Nat) + b.n * (2 ^ (b.e - e).toNat : Nat), e := e }
def Dy.sub (a b : Dy) : Dy := a.add b.neg
def Dy.shift (a : Dy) (k : Int) : Dy := { a with e := a.e + k }
def Dy.exact (a : Dy) : Exact := if a.n = 0 then .zero false else .val (a.n < 0) a.n.natAbs a.e
/-- The value of a finite pattern of a format. -/
def Fmt.dy (f : Fmt) (w : Nat) : Dy :=
  match f.read w with
  | .fin n m e => { n := if n then -(m : Int) else m, e := e }
  | _ => { n := 0, e := 0 }
/-- RN32 of an exact value, as a value again. -/
def Dy.rn32 (a : Dy) : Dy := fmt32.dy (fmt32.deliver .rne false a.exact).1
/-- Equality of values. -/
def Dy.same (a b : Dy) : Bool := (a.sub b).n == 0
/-- Floor of a value. -/
def Dy.floor (a : Dy) : Int := if 0 ≤ a.e then a.n * (2 ^ a.e.toNat : Nat) else a.n / (2 ^ (-a.e).toNat : Nat)

/-- ExpTab of R99: the binary32 patterns nearest to 2^(i/64). -/
def expTab : List Nat :=
  [0x3F800000, 0x3F8164D2, 0x3F82CD87, 0x3F843A29, 0x3F85AAC3, 0x3F871F62, 0x3F88980F, 0x3F8A14D5, 0x3F8B95C2, 0x3F8D1ADF, 0x3F8EA43A, 0x3F9031DC, 0x3F91C3D3, 0x3F935A2B, 0x3F94F4F0, 0x3F96942D]
  ++ [0x3F9837F0, 0x3F99E046, 0x3F9B8D3A, 0x3F9D3EDA, 0x3F9EF532, 0x3FA0B051, 0x3FA27043, 0x3FA43516, 0x3FA5FED7, 0x3FA7CD94, 0x3FA9A15B, 0x3FAB7A3A, 0x3FAD583F, 0x3FAF3B79, 0x3FB123F6, 0x3FB311C4]
  ++ [0x3FB504F3, 0x3FB6FD92, 0x3FB8FBAF, 0x3FBAFF5B, 0x3FBD08A4, 0x3FBF179A, 0x3FC12C4D, 0x3FC346CD, 0x3FC5672A, 0x3FC78D75, 0x3FC9B9BE, 0x3FCBEC15, 0x3FCE248C, 0x3FD06334, 0x3FD2A81E, 0x3FD4F35B]
  ++ [0x3FD744FD, 0x3FD99D16, 0x3FDBFBB8, 0x3FDE60F5, 0x3FE0CCDF, 0x3FE33F89, 0x3FE5B907, 0x3FE8396A, 0x3FEAC0C7, 0x3FED4F30, 0x3FEFE4BA, 0x3FF28177, 0x3FF5257D, 0x3FF7D0DF, 0x3FFA83B3, 0x3FFD3E0C]

/-- LgRcp of R100: the binary32 patterns nearest to 1/(1 + j/64). -/
def lgRcp : List Nat :=
  [0x3F800000, 0x3F7C0FC1, 0x3F783E10, 0x3F74898D, 0x3F70F0F1, 0x3F6D7304, 0x3F6A0EA1, 0x3F66C2B4, 0x3F638E39, 0x3F607038, 0x3F5D67C9, 0x3F5A740E, 0x3F579436, 0x3F54C77B, 0x3F520D21, 0x3F4F6475]
  ++ [0x3F4CCCCD, 0x3F4A4588, 0x3F47CE0C, 0x3F4565C8, 0x3F430C31, 0x3F40C0C1, 0x3F3E82FA, 0x3F3C5264, 0x3F3A2E8C, 0x3F381703, 0x3F360B61, 0x3F340B41, 0x3F321643, 0x3F302C0B, 0x3F2E4C41, 0x3F2C7692]
  ++ [0x3F2AAAAB, 0x3F28E83F, 0x3F272F05, 0x3F257EB5, 0x3F23D70A, 0x3F2237C3, 0x3F20A0A1, 0x3F1F1166, 0x3F1D89D9, 0x3F1C09C1, 0x3F1A90E8, 0x3F191F1A, 0x3F17B426, 0x3F164FDA, 0x3F14F209, 0x3F139A86]
  ++ [0x3F124925, 0x3F10FDBC, 0x3F0FB824, 0x3F0E7835, 0x3F0D3DCB, 0x3F0C08C1, 0x3F0AD8F3, 0x3F09AE41, 0x3F088889, 0x3F0767AB, 0x3F064B8A, 0x3F053408, 0x3F042108, 0x3F03126F, 0x3F020821, 0x3F010204]

/-- LgTab of R100: the binary32 patterns nearest to −log2(LgRcp[j]). -/
def lgTab : List Nat :=
  [0x00000000, 0x3CB73CB3, 0x3D35D690, 0x3D8759C9, 0x3DB31FB7, 0x3DDE420E, 0x3E0462C4, 0x3E195751, 0x3E2E00D1, 0x3E42615F, 0x3E567AEF, 0x3E6A4F70, 0x3E7DE0B5, 0x3E88983F, 0x3E92203D, 0x3E9B8925]
  ++ [0x3EA4D3C2, 0x3EAE00D1, 0x3EB71110, 0x3EC0052D, 0x3EC8DDD3, 0x3ED19BAF, 0x3EDA3F60, 0x3EE2C97E, 0x3EEB3A9E, 0x3EF39355, 0x3EFBD42A, 0x3F01FED4, 0x3F060828, 0x3F0A0650, 0x3F0DF98A, 0x3F11E20E]
  ++ [0x3F15C01A, 0x3F1993E4, 0x3F1D5DA0, 0x3F211D84, 0x3F24D3C3, 0x3F28808D, 0x3F2C2410, 0x3F2FBE7F, 0x3F335004, 0x3F36D8CA, 0x3F3A58FE, 0x3F3DD0C9, 0x3F41404E, 0x3F44A7BB, 0x3F480731, 0x3F4B5ED6]
  ++ [0x3F4EAECF, 0x3F51F740, 0x3F553847, 0x3F58720A, 0x3F5BA4A5, 0x3F5ED038, 0x3F61F4E5, 0x3F6512C6, 0x3F6829FA, 0x3F6B3AA0, 0x3F6E44CF, 0x3F7148A2, 0x3F744636, 0x3F773DA2, 0x3F7A2F03, 0x3F7D1A71]

/-- RcpTab8 of R97 in units of 2^-12: 1/(1 + j/256) to the nearest, ties to even. -/
def rcpTab8 (j : Nat) : Nat :=
  let d := 256 + j
  let q := 2 ^ 20 / d
  let r := 2 ^ 20 % d
  if 2 * r > d || (2 * r == d && q % 2 == 1) then q + 1 else q
/-- RsqTab of R98 in units of 2^-12: 1/sqrt(2^b (1 + (j mod 128)/128)) to the nearest. -/
def rsqTab (j : Nat) : Nat :=
  let x := 2 ^ 31 / (2 ^ (j / 128) * (128 + j % 128))
  (isqrt (4 * x) + 1) / 2

/-- The leading-bit form of a positive value: 2^ex · M with 1 ≤ M < 2, M as a value. -/
def normalise (m : Nat) (e : Int) : Int × Dy :=
  (e + (Nat.log2 m : Int), { n := m, e := -(Nat.log2 m : Int) })

/-- y of R97 for a nonzero magnitude. -/
def rcpY (m : Nat) (e : Int) : Dy :=
  let (ex, mm) := normalise m e
  let j := (((mm.sub (Dy.ofInt 1)).shift 8).floor).toNat
  let y0 : Dy := { n := rcpTab8 j, e := -12 }
  let d := ((Dy.ofInt 1).sub (mm.mul y0)).rn32
  (y0.add (y0.mul d)).shift (-ex)
/-- y of R98 for a positive value. -/
def rsqrtY (m : Nat) (e : Int) : Dy :=
  let (ex, mm) := normalise m e
  let b := ex % 2
  let j := b.toNat * 128 + (((mm.sub (Dy.ofInt 1)).shift 7).floor).toNat
  let y0 : Dy := { n := rsqTab j, e := -12 }
  let h := ((Dy.ofInt 1).sub (((mm.shift b).mul y0).mul y0)).rn32
  (y0.add ((y0.mul h).shift (-1))).shift (-((ex - b) / 2))
/-- y of R99. -/
def exp2Y (x : Dy) : Dy :=
  let n := (x.shift 6).floor
  let i := (n % 64).toNat
  let k := n / 64
  let f := x.sub { n := n, e := -6 }
  let t1 := ((fmt32.dy 0x3E75FDF0).add ((fmt32.dy 0x3D635847).mul f)).rn32
  let t2 := ((fmt32.dy 0x3F317218).add (t1.mul f)).rn32
  let t3 := ((Dy.ofInt 1).add (t2.mul f)).rn32
  ((fmt32.dy (expTab.getD i 0)).mul t3).shift k
/-- y of R100 for a positive value. -/
def log2Y (m : Nat) (e : Int) : Dy :=
  let (ex, mm) := normalise m e
  let j := (((mm.sub (Dy.ofInt 1)).shift 6).floor).toNat
  let u := ((mm.mul (fmt32.dy (lgRcp.getD j 0))).sub (Dy.ofInt 1)).rn32
  let t1 := ((fmt32.dy 0xBF38AA3B).add ((fmt32.dy 0x3EF6384F).mul u)).rn32
  let t2 := ((fmt32.dy 0x3FB8AA3B).add (t1.mul u)).rn32
  ((Dy.ofInt ex).add (fmt32.dy (lgTab.getD j 0))).add (t2.mul u)

/-- y delivered in the source format with RNE: NX when the delivered value differs from the exact function (`same` of
the delivered value), OF when y overflows, UF when y is tiny and NX is set (R96). -/
def Fmt.approx (f : Fmt) (y : Dy) (same : Dy → Bool) : Nat × Flags :=
  match y.exact with
  | .val neg m e =>
    let r := f.roundMag .rne neg m e
    if r.ovf then (f.overflow .rne false neg, flOF ||| flNX)
    else
      let w := r.mag + f.sign neg
      if same (f.dy w) then (w, 0) else (w, flNX ||| (if r.tiny then flUF else 0))
  | x => let w := (f.deliver .rne false x).1; (w, if same (f.dy w) then 0 else flNX)

/-- VRCP (R96, R97). -/
def Fmt.rcp (f : Fmt) (w : Nat) : Nat × Flags :=
  match f.read w with
  | .nan s => (f.nan, if s then flNV else 0)
  | .inf n => (f.sign n, 0)
  | .fin n m e =>
    if m = 0 then (f.infBits + f.sign n, flDZ)
    else
      let y := rcpY m e
      f.approx (if n then y.neg else y) fun r => (r.mul (f.dy w)).same (Dy.ofInt 1)
/-- VRSQRT (R96, R98). -/
def Fmt.rsqrt (f : Fmt) (w : Nat) : Nat × Flags :=
  match f.read w with
  | .nan s => (f.nan, if s then flNV else 0)
  | .inf n => if n then (f.nan, flNV) else (0, 0)
  | .fin n m e =>
    if m = 0 then (f.infBits + f.sign n, flDZ)
    else if n then (f.nan, flNV)
    else f.approx (rsqrtY m e) fun r => ((r.mul r).mul (f.dy w)).same (Dy.ofInt 1)
/-- Whether a value is a whole number. -/
def Dy.isInt (x : Dy) : Bool := decide (0 ≤ x.e) || x.n % (2 ^ (-x.e).toNat : Nat) == 0
/-- VEXP2 (R96, R99). -/
def Fmt.exp2 (f : Fmt) (w : Nat) : Nat × Flags :=
  match f.read w with
  | .nan s => (f.nan, if s then flNV else 0)
  | .inf n => (if n then 0 else f.infBits, 0)
  | .fin _ m _ =>
    if m = 0 then (f.bias * 2 ^ f.fb, 0)
    else
      let x := f.dy w
      f.approx (exp2Y x) fun r => x.isInt && r.n == (2 ^ (Nat.log2 r.n.natAbs) : Nat)
        && r.e + (Nat.log2 r.n.natAbs : Int) == x.floor
/-- VLOG2 (R96, R100). -/
def Fmt.log2 (f : Fmt) (w : Nat) : Nat × Flags :=
  match f.read w with
  | .nan s => (f.nan, if s then flNV else 0)
  | .inf n => if n then (f.nan, flNV) else (f.infBits, 0)
  | .fin n m e =>
    if m = 0 then (f.infBits + f.sign true, flDZ)
    else if n then (f.nan, flNV)
    else f.approx (log2Y m e) fun r =>
      m == 2 ^ Nat.log2 m && r.same (Dy.ofInt (e + (Nat.log2 m : Int)))

/-! ### Cask merges (R101, R102) -/

/-- RN32(a − b) on patterns (R101). -/
def sub32 (a b : Nat) : Nat := (fmt32.sum .rne [tm (fmt32.read a), (tm (fmt32.read b)).flip]).1
/-- RN32(x·a + y·b) on patterns, exact and rounded once (R101). -/
def dot32 (x a y b : Nat) : Nat :=
  (fmt32.sum .rne [tm2 (fmt32.read x) (fmt32.read a), tm2 (fmt32.read y) (fmt32.read b)]).1
/-- The running state (first) merged with the next partial (R101). -/
def Partial.merge (a b : Partial) : Partial :=
  let m := (fmt32.minMax true a.m.toNat b.m.toNat).1
  let one := 0x3F800000
  let (fa, fb) :=
    if m = fmt32.infBits + fmt32.sign true then (one, one)
    else ((fmt32.exp2 (sub32 a.m.toNat m)).1, (fmt32.exp2 (sub32 b.m.toNat m)).1)
  { m := BitVec.ofNat 32 m, l := BitVec.ofNat 32 (dot32 a.l.toNat fa b.l.toNat fb),
    o := List.zipWith (fun x y => BitVec.ofNat 32 (dot32 x.toNat fa y.toNat fb)) a.o b.o }
/-- The bfloat16 outputs of a query all of whose positions have merged (R102). -/
def Partial.output (a : Partial) : List (BitVec 16) :=
  a.o.map fun x =>
    let q := (fmt32.div .rne (fmt32.read x.toNat) (fmt32.read a.l.toNat)).1
    BitVec.ofNat 16 (fmtBf.deliver .rne false (fmt32.read q).exact).1

end Sys2Proof.Machine
end

