-- ==== Sys2Proof/Machine/Flags.lean ====
section
/-!
DEFINITION. The sticky flags and the rounding mode of a thread (R67, R79, R82, R178, R310).
-/

namespace Sys2Proof.Machine

/-- The rounding mode in force: `fcsr` RM for a dynamic one in the user hart, RNE in the supervisor thread (R178). -/
def State.rmode (s : State) (r : Rm) : Rm := Rm.actual r (if s.atS then 1 else s.me.fcsr)
/-- Flags ORed into `fcsr`; those of the supervisor thread are discarded (R67, R310). -/
def State.flag (s : State) (f : Flags) : State := if s.atS then s else s.modMe fun h => { h with fcsr := h.fcsr ||| f }
/-- The flags that the elements of a list raise, ORed (R77, R82). -/
def flagsOf (l : List Nat) (f : Nat → Flags) : Flags := l.foldl (fun acc e => acc ||| f e) 0

end Sys2Proof.Machine
end

