-- ==== Sys2Proof/Machine/Operands.lean ====
section
/-!
DEFINITION. Vector operands: sub-elements of a tagged element (R49, R199), sources and their tags (R50, R51), the write
of a result (R52, R56, R351), stream pops and appends (R237, R238), and the frame of opcodes 0x30 to 0x38 (R200).
-/

namespace Sys2Proof.Machine

/-! ### Sub-elements (Table 3-3, Table 9-1) -/

/-- What a tag's lanes hold: integers, floats of a format, or the same as components of complex values. -/
inductive Kind where
  | int (sg : Bool)
  | flt (f : Fmt)
  | cint
  | cflt (f : Fmt)
  | untyped
deriving DecidableEq, Repr
/-- The kind of a tag. -/
def tagKind : Tag → Kind
  | .none => .untyped
  | .n64 | .n32x2 | .n16x4 | .n8x8 => .int false
  | .i64 | .i32x2 | .i16x4 | .i8x8 => .int true
  | .f64 => .flt fmt64 | .f32x2 => .flt fmt32 | .f16x4 => .flt fmt16 | .bf16x4 => .flt fmtBf
  | .e4m3x8 => .flt fmtE4 | .e5m2x8 => .flt fmtE5
  | .cf32 => .cflt fmt32 | .cf16x2 => .cflt fmt16 | .cbf16x2 => .cflt fmtBf
  | .ci32 | .ci16x2 => .cint
/-- Width of a lane: a sub-element of a real tag, a component of a complex one. -/
def tagWidth : Tag → Nat
  | .none | .n64 | .i64 | .f64 => 64
  | .n32x2 | .i32x2 | .f32x2 | .cf32 | .ci32 => 32
  | .n16x4 | .i16x4 | .f16x4 | .bf16x4 | .ci16x2 | .cf16x2 | .cbf16x2 => 16
  | .n8x8 | .i8x8 | .e4m3x8 | .e5m2x8 => 8
def isI (t : Tag) : Bool := match tagKind t with | .int _ => true | _ => false
def isIS (t : Tag) : Bool := tagKind t == .int true
def isF8 (t : Tag) : Bool := t == .e4m3x8 || t == .e5m2x8
def isF (t : Tag) : Bool := match tagKind t with | .flt _ => !isF8 t | _ => false
def isCF (t : Tag) : Bool := match tagKind t with | .cflt _ => true | _ => false
def isCI (t : Tag) : Bool := tagKind t == .cint
def isComplex (t : Tag) : Bool := isCF t || isCI t

/-- Lane s of width w of an element. -/
def lane (w : Nat) (x : Word) (s : Nat) : Nat := x.toNat / 2 ^ (w * s) % 2 ^ w
/-- An element from its lanes. -/
def ofLanes (w : Nat) (f : Nat → Nat) : Word :=
  word ((List.range (64 / w)).foldl (fun acc s => acc + f s % 2 ^ w * 2 ^ (w * s)) 0)
/-- An element formed lane by lane, with the flags of its lanes. -/
def byLane (w : Nat) (f : Nat → Nat × Flags) : Word × Flags :=
  (ofLanes w fun s => (f s).1, flagsOf (List.range (64 / w)) fun s => (f s).2)
/-- An integer lane as its value. -/
def intVal (sg : Bool) (w v : Nat) : Int := if sg then signed w v else (v % 2 ^ w : Nat)
/-- An exact integer result reduced to w bits: it wraps, or is clamped once (R74). -/
def intFit (sg sat : Bool) (w : Nat) (x : Int) : Nat :=
  wrap64 (if sat then clampInt (intLo sg w) (intHi sg w) x else x) % 2 ^ w

/-! ### Sources (R47 to R51) -/

/-- The specifier of a vector source (Table 3-2). -/
def VsOp.spec : VsOp → Nat
  | .vec r => r.val | .g r => 64 + r.val | .zero => 127
/-- The register of a vector source. -/
def VsOp.reg? : VsOp → Option (Fin 60)
  | .vec r => some r | _ => none
/-- The tag of a source; none for a scalar. -/
def State.vtag (s : State) : VsOp → Option Tag
  | .vec r => some s.me.v[r].tag
  | _ => none
/-- Element e of a source: a scalar supplies its bits to every element (R51). -/
def State.vel (s : State) (x : VsOp) (e : Nat) : Word :=
  match x with
  | .vec r => vget s.me.v[r].el e 0
  | .g r => s.me.g[r]
  | .zero => 0
/-- A trap that names a source (Table 15-4). -/
def typeTrap (c : Cause) (x : VsOp) : TrapInfo := { c := c, detail := VsOp.spec x }
/-- UNTYPED for the first source tagged `none` (R50). -/
def State.untypedIn (s : State) (srcs : List VsOp) : Option TrapInfo :=
  (srcs.find? fun x => s.vtag x == some .none).map (typeTrap .untyped)
/-- The common tag of the vector sources: TYPE for a mix, and for none at all (R51). -/
def commonTag (srcs : List VsOp) (tags : List (Option Tag)) : Except TrapInfo Tag :=
  match (srcs.zip tags).filterMap fun q => q.2.map fun t => (q.1, t) with
  | [] => .error (typeTrap .type (srcs.headD .zero))
  | (_, t) :: r =>
    match r.find? fun q => q.2 != t with
    | some q => .error (typeTrap .type q.1)
    | none => .ok t

/-! ### Streams (R235 to R240) -/

/-- The stream register number of a specifier, `v40` to `v47`. -/
def streamNo (r : Nat) : Option (Fin 8) := if h : 40 ≤ r ∧ r < 48 then some ⟨r - 40, by omega⟩ else none
/-- The binding of a register, when it is bound. -/
def Hart.bound (h : Hart) (r : Nat) : Option (Fin 8 × Stream) :=
  match streamNo r with
  | some k => if h.str[k].bound then some (k, h.str[k]) else none
  | none => none
/-- DIR: a store stream (Table 10-2). -/
def Stream.stores (t : Stream) : Bool := bit t.q3 0
/-- Bytes of a stream element. -/
def Stream.bytes (t : Stream) : Nat := if bits t.q3 5 4 = 0 then 4 else 8
def Stream.tk (t : Stream) : Fin 8 := Fin.ofNat 8 (bits t.q3 3 1)
def Stream.count (t : Stream) : Nat := bits t.q2 47 0
/-- The address of element k (R235). -/
def Stream.addr (t : Stream) (k : Nat) : Nat := (word (bits t.q0 55 0) + word k * t.q1).toNat

/-- The conditions of Table 5-5 that an n-byte element at a generic address meets before it is read, in their order: out
of the token's range, MISALIGN, PROT. -/
def Token.elemCheck (t : Token) (k : Fin 8) (wr : Bool) (a n : Nat) : Except TrapInfo (Loc × Pin) :=
  let det : Nat := if wr then 1 else 0
  if !t.covers a n then .error { c := .tkrange, detail := k.val, addr := word a }
  else if a % n ≠ 0 then .error { c := .misalign, detail := det, addr := word a }
  else match findPin t.pins a with
    | none => .error { c := .tkrange, detail := k.val, addr := word a }
    | some q => if (if wr then q.w else q.r) then .ok (q.loc a, q) else .error { c := .prot, detail := det, addr := word a }

/-- Elements POS + i, … of a load stream, at most n: their values, and the state after the reads; the first that cannot
be delivered ends the strip, or traps, with the place of a poisoned element (R237). -/
def State.popFrom (s : State) (t : Stream) (i : Nat) : Nat → Except (TrapInfo × Option (Loc × Nat)) (List Word × State)
  | 0 => .ok ([], s)
  | n + 1 =>
    let a := t.addr (t.pos + i)
    match (s.me.tk[t.tk]).elemCheck t.tk false a t.bytes with
    | .error x => if x.c = .tkrange ∧ 0 < i then .ok ([], s) else .error (x, none)
    | .ok (l, _) =>
      if s.readPoison l t.bytes then .error ({ c := .poison, addr := word a }, some (l, t.bytes))
      else
        let w := returned4 t.bytes (bit t.q3 6) (natOfBytes (s.readHome l t.bytes))
        match State.popFrom (s.afterRead l t.bytes) t (i + 1) n with
        | .error x => .error x
        | .ok (ws, u) => .ok (w :: ws, u)
where
  /-- a 4-byte element extended by SX (R235) -/
  returned4 (n : Nat) (sx : Bool) (v : Nat) : Word := if n = 4 then extendN 4 sx v else word v
/-- The strips that an instruction pops, with the `vl` that results (R237). R237 gives no order among the popped streams:
the model goes by source field, A first, and the first stream that offends traps, even where a later one would have cut
the strip below that element (log entry 65). -/
def State.popAll (s : State) (vl : Nat) :
    List (Fin 8 × Stream) → Except (TrapInfo × Option (Loc × Nat)) (List (Fin 8 × List Word) × Nat × State)
  | [] => .ok ([], vl, s)
  | (k, t) :: r =>
    match s.popFrom t 0 vl with
    | .error x => .error x
    | .ok (ws, u) =>
      match State.popAll u ws.length r with
      | .error x => .error x
      | .ok (l, v, u) => .ok ((k, ws) :: l, v, u)
/-- A hart with v elements of a strip delivered (R237). -/
def Hart.deliver (h : Hart) (v : Nat) (q : Fin 8 × List Word) : Hart :=
  let r : Fin 60 := ⟨q.1.val + 40, by omega⟩
  { h with str := vmod h.str q.1 fun t => { t with pos := t.pos + v }
           v := vmod h.v r fun x => { x with el := vgen 128 fun e => if e < v then nth q.2 e else vget x.el e 0,
                                             vln := max x.vln v, dirty := true } }
/-- Places of the elements that an append writes, or the trap of the first that offends (R238). -/
def Hart.appendCheck (h : Hart) (t : Stream) (vl : Nat) : Except TrapInfo (List Loc) :=
  (List.range vl).foldl (fun acc i => match acc with
    | .error x => .error x
    | .ok ls =>
      let a := t.addr (t.pos + i)
      if t.count ≤ t.pos + i then .error { c := .tkrange, detail := t.tk.val, addr := word a }
      else match (h.tk[t.tk]).elemCheck t.tk true a t.bytes with
        | .error x => .error x
        | .ok (l, _) => .ok (ls ++ [l])) (.ok [])
/-- The appended elements written in order (R238). -/
def State.append (s : State) (p : Fin 3) (job n : Nat) : List (Loc × Word) → State
  | [] => s
  | (l, w) :: r => State.append (s.writeHome p job l (bytesOfNat n w.toNat)) p job n r

/-! ### Results -/

/-- What an instruction of opcodes 0x31 to 0x38 produces: the destination elements that it sets, flags, and a mask. -/
structure VRes where
  put : Nat → Option Word
  fl : Flags
  mask : Option (Fin 16 × MaskReg)
/-- Element e is active: below `vl`, and not masked off (R200). -/
def State.active (s : State) (k : Fin 16) (ke : Bool) (vl e : Nat) : Bool :=
  decide (e < vl) && (!ke || s.me.m[k].getLsbD e)
/-- The elements that R52 sets from an element-wise result. -/
def State.r52 (s : State) (q : VMod) (vl : Nat) (res : Nat → Word) : Nat → Option Word := fun e =>
  if vl ≤ e then none else if s.active q.k q.ke vl e then some (res e) else if q.kz then some 0 else none
/-- The result of an element-wise operation with its flags (R82, R200). -/
def State.elementwise (s : State) (q : VMod) (vl : Nat) (f : Nat → Word × Flags) : VRes :=
  { put := s.r52 q vl fun e => (f e).1,
    fl := flagsOf ((List.range vl).filter fun e => s.active q.k q.ke vl e) fun e => (f e).2, mask := none }
/-- A register with elements set: VLN and DIRTY follow R351. -/
def VReg.put (v : VReg) (tag : Tag) (f : Nat → Option Word) : VReg :=
  { el := vgen 128 fun e => (f e).getD (vget v.el e 0), tag := tag, dirty := true,
    vln := (List.range 128).foldl (fun m e => if (f e).isSome then max m (e + 1) else m) v.vln }
/-- The specifier of a destination register. -/
def vdReg (d : Fin 56) : Fin 60 := ⟨d.val, by omega⟩
/-- The value that R52 forms for a destination: over D, or over the last-result register when D is `_`. -/
def State.formed (s : State) (d : VdOp) (last : Fin 60) (tag : Tag) (f : Nat → Option Word) : VReg :=
  (s.me.v[(d.map vdReg).getD last]).put tag f
/-- A hart with a vector register written; an unfilled destination is superseded (R41). -/
def Hart.setV (h : Hart) (r : Fin 60) (x : VReg) : Hart :=
  { h with v := vput h.v r x, fillV := h.fillV.filter fun q => q.1 ≠ r }
/-- A hart with a register written, when there is one. -/
def Hart.setV? (h : Hart) (r : Option (Fin 60)) (x : VReg) : Hart := match r with | some k => h.setV k x | none => h
/-- A hart with a mask written, when there is one. -/
def Hart.setM? (h : Hart) : Option (Fin 16 × MaskReg) → Hart
  | some (m, w) => { h with m := vput h.m m w }
  | none => h
/-- A vector value written to D and to a last-result register (R52, R56), and a mask. -/
def State.writeV (s : State) (d : VdOp) (last : Option (Fin 60)) (x : VReg) (mask : Option (Fin 16 × MaskReg) := none) : State :=
  s.modMe fun h => ((h.setV? (d.map vdReg) x).setV? last x).setM? mask
/-- The last-result register of pipe VA0 or VA1 (Table 3-5). -/
def vaLast (p : Bool) : Fin 60 := if p then 57 else 56

/-! ### The frame (R200, R202, R237, R238) -/

/-- The store stream that a destination is bound to. -/
def State.sink (s : State) (d : VdOp) : Option (Fin 8 × Stream) := d.bind fun r => s.me.bound r.val
/-- The stream that a source is bound to. -/
def State.tap (s : State) (x : VsOp) : Option (Fin 8 × Stream) := (VsOp.reg? x).bind fun r => s.me.bound r.val
/-- The load streams among the sources, each once. -/
def State.pops (s : State) (srcs : List VsOp) : List (Fin 8 × Stream) :=
  (srcs.filterMap s.tap).dedup
/-- TYPE for a destination. -/
def destTrap (d : VdOp) : TrapInfo := { c := .type, detail := (d.map Fin.val).getD 0 }
/-- TYPE for a bound store stream as a source, and for a bound load stream as a destination (R239). -/
def State.streamType (s : State) (srcs : List VsOp) (d : VdOp) : Option TrapInfo :=
  match srcs.find? fun x => (s.tap x).any fun q => q.2.stores with
  | some x => some (typeTrap .type x)
  | none => (s.sink d).bind fun q => if q.2.stores then none else some (destTrap d)
/-- The result tag differs from the tag of the store stream it goes to (R238). -/
def State.sinkType (s : State) (d : VdOp) (tag : Tag) : Option TrapInfo :=
  (s.sink d).bind fun q => if q.2.tag = tag then none else some (destTrap d)
/-- Of the elements that meet an issue condition, the trap at the lowest address (R225). -/
def lowestTrap : List (Word × TrapInfo) → Option TrapInfo
  | [] => none
  | (a, t) :: r =>
    match lowestTrap r with
    | none => some { t with addr := a }
    | some u => if u.addr.toNat < a.toNat then some u else some { t with addr := a }
/-- The streams of an instruction whose token is not valid (R61): NOTOKEN or TKREVOKED at the lowest address of the n
elements that it names of each (R225); with no element, of the first, and at 0. -/
def State.streamToken (s : State) (n : Nat) (l : List (Fin 8 × Stream)) : Option TrapInfo :=
  let bad := l.filterMap fun q => ((s.me.tk[q.2.tk]).stateTrap q.2.tk).map fun x => (q.2, x)
  bad.head?.map fun q => (lowestTrap (bad.flatMap fun q => (List.range n).map fun i =>
    (word (q.1.addr (q.1.pos + i)), q.2))).getD q.2

/-- How an instruction of opcodes 0x30 to 0x38 checks its operands and forms its result: `check` answers the tag that its
operation works on and the tag of its result, from the tags of the sources; `badvl` refuses a `vl` (BADVL); `res` forms
the result at a `vl`, on the state whose strips are delivered. -/
structure VForm where
  op : Nat
  srcs : List VsOp
  d : VdOp
  last : Option (Fin 60)
  check : List (Option Tag) → Except TrapInfo (Tag × Tag)
  badvl : Tag → Nat → Bool
  res : State → Tag → Nat → VRes

/-- The checks that R23 keeps for `vl` = 0: UNTYPED; TYPE of the sources; what their tags make ILLEGAL (R201), which
comes before the TYPE that the use of a stream raises (R166, R239); and the tag of a store stream (R238). -/
def State.vecTags (s : State) (f : VForm) : Except TrapInfo (Tag × Tag) :=
  match s.untypedIn f.srcs with
  | some t => .error t
  | none =>
    match f.check (f.srcs.map s.vtag), s.streamType f.srcs f.d with
    | .error t, u => .error (if t.c = .illegal then t else u.getD t)
    | .ok _, some t => .error t
    | .ok (t, r), none => match s.sinkType f.d r with
      | some x => .error x
      | none => .ok (t, r)
/-- The result written: D, the last-result register, a mask, the flags and the appended strip, which leaves a pair only
when its copies agree (R44); then the instruction retires. -/
def State.vecWrite (s : State) (f : VForm) (tag rtag : Tag) (vl : Nat) (locs : List Loc) : Res :=
  let r := f.res s tag vl
  let g := s.myGang
  let x := s.formed f.d (f.last.getD 0) rtag r.put
  let s := (s.writeV f.d f.last x r.mask).flag r.fl
  match s.sink f.d with
  | some (k, t) =>
    s.pair ((s.append g.p g.job t.bytes (locs.zip x.el.toList)).modMe fun h =>
      { h with str := vmod h.str k fun t => { t with pos := t.pos + vl } }).retire
  | none => s.retire
/-- The places of elements POS to POS + n − 1 of a stream, as far as they can be accessed. -/
def State.stripLocs (s : State) (n : Nat) (t : Stream) : List (Loc × Nat) :=
  (List.range n).filterMap fun i =>
    match (s.me.tk[t.tk]).elemCheck t.tk t.stores (t.addr (t.pos + i)) t.bytes with
    | .ok (l, _) => some (l, t.bytes)
    | .error _ => none
/-- The count that the pop of a stream leaves of v (R237): its first element after element 0 that lies out of the token's
range cuts the strip. An element that traps instead leaves none, and then v stands (log entry 76). -/
def State.cut (s : State) (v : Nat) (t : Stream) : Nat :=
  let check (i : Nat) := (s.me.tk[t.tk]).elemCheck t.tk false (t.addr (t.pos + i)) t.bytes
  match (List.range v).find? fun i => match check i with | .error _ => true | .ok _ => false with
  | some 0 | none => v
  | some i => match check i with
    | .error x => if x.c = .tkrange then i else v
    | .ok _ => v
/-- The strips are popped and the appends checked, then the result is written (R237, R238). BADVL comes before the tokens
and the elements (R166), and is decided with the `vl` that results from the pops (R202). Buffered operations of the V agent that meet the strips
come first (R131). A trap in a pop performs nothing and leaves `ei` at 0, as R237 says and not as Table 5-5's column for
stream pops says (log entry 66). -/
def State.vecStreams (s : State) (f : VForm) (tag rtag : Tag) : Res :=
  let ps := s.pops f.srcs
  let want := ps.foldl (fun v q => min v (q.2.count - q.2.pos)) s.me.vl
  let used := ps ++ (s.sink f.d).toList
  let vl' := ps.foldl (fun v q => s.cut v q.2) want
  if vl' ≠ 0 ∧ f.badvl tag vl' then s.raise f.op { c := .badvl, detail := s.me.vl }
  else match s.streamToken want used with
  | some t => s.raise f.op t
  | none =>
    if !used.isEmpty && s.waitsOwn true false (used.map fun q => s.stripLocs want q.2).flatten then
      s.block f.op .ordered none
    else match s.popAll want ps with
    | .error (t, l) => ((l.map fun q => s.afterPoison q.1 q.2).getD s).raise f.op t
    | .ok (strips, vl, u) =>
      if vl = 0 then (u.modMe fun h => { h with vl := 0 }).retire
      else
        match ((u.sink f.d).map fun q => u.me.appendCheck q.2 vl).getD (.ok []) with
        | .error t => u.raise f.op t
        | .ok locs =>
          (if ps.isEmpty then u else u.modMe fun h => { strips.foldl (fun h q => h.deliver vl q) h with vl := vl }).vecWrite
            f tag rtag vl locs
/-- An instruction of opcodes 0x30 to 0x38 (R200). -/
def State.vec (s : State) (f : VForm) : Res := s.userOnly f.op <|
  match s.vecTags f with
  | .error t => s.raise f.op t
  | .ok (tag, rtag) => if s.me.vl = 0 then s.retire else s.vecStreams f tag rtag

/-- The check of an instruction whose sources share one tag of a class, with SAT legal for some tags (R51, R199, R201). -/
def classCheck (srcs : List VsOp) (cls satOk : Tag → Bool) (sat : Bool) (tags : List (Option Tag)) :
    Except TrapInfo (Tag × Tag) :=
  match commonTag srcs tags with
  | .error t => .error t
  | .ok t =>
    if !cls t then .error (typeTrap .type ((srcs.find? fun x => match x with | .vec _ => true | _ => false).getD .zero))
    else if sat && !satOk t then .error (trap .illegal)
    else .ok (t, t)

end Sys2Proof.Machine
end

