-- ==== Sys2Proof/Machine/Scalar.lean ====
section
/-!
DEFINITION. Scalar integer arithmetic and constants: opcodes 0x01 to 0x04 (R173 to R177), and `NOP` (R186).
-/

namespace Sys2Proof.Machine

/-- Bits [127:64] of a product, signed or unsigned (Table 8-1). -/
def mulHigh (u : Bool) (a b : Word) : Word :=
  if u then BitVec.ofNat 64 (a.toNat * b.toNat / 2 ^ 64) else BitVec.ofInt 64 (a.toInt * b.toInt / 2 ^ 64)
/-- Quotient truncated towards zero; all ones for a zero divisor; −2^63 ÷ −1 wraps to −2^63 (R175). -/
def divide (u : Bool) (a b : Word) : Word :=
  if b = 0 then BitVec.allOnes 64
  else if u then BitVec.ofNat 64 (a.toNat / b.toNat) else BitVec.ofInt 64 (a.toInt.tdiv b.toInt)
/-- Remainder with the sign of the dividend; the dividend for a zero divisor (R175). -/
def remainder (u : Bool) (a b : Word) : Word :=
  if b = 0 then a
  else if u then BitVec.ofNat 64 (a.toNat % b.toNat) else BitVec.ofInt 64 (a.toInt.tmod b.toInt)
/-- The shift amount: b[5:0] (R174). -/
def shamt (b : Word) : Nat := b.toNat % 64
/-- The smaller operand, signed or unsigned. -/
def minWord (u : Bool) (a b : Word) : Word := if (if u then b.ult a else b.slt a) then b else a
/-- The larger operand, signed or unsigned. -/
def maxWord (u : Bool) (a b : Word) : Word := if (if u then a.ult b else a.slt b) then b else a
/-- Leading zero bits of the low n bits of a number. -/
def leadingZeros : Nat → Nat → Nat
  | 0, _ => 0
  | n + 1, w => if w / 2 ^ n % 2 = 1 then 0 else 1 + leadingZeros n w
/-- One bits among the low n bits of a number. -/
def popCount : Nat → Nat → Nat
  | 0, _ => 0
  | n + 1, w => w % 2 + popCount n (w / 2)
/-- The conditions of `B` and `SETCC` (Table 7-6). -/
def Cond.holds (c : Cond) (a b : Word) : Bool :=
  match c with
  | .eq => a == b | .ne => a != b | .lt => a.slt b | .ge => !a.slt b | .ltu => a.ult b | .geu => !a.ult b

/-- A register operation of opcode 0x01: g[D] := f(g[A], g[B]) (R174). -/
def alu (f : Word → Word → Word) (d a b : GOp) (s : State) : Res := (s.wg d (f (s.rg a) (s.rg b))).retire
/-- An immediate operation of opcode 0x02: g[D] := f(g[A], SignExtend(IMM36)) (R176). -/
def alui (f : Word → Word → Word) (d a : GOp) (imm : BitVec 36) (s : State) : Res :=
  (s.wg d (f (s.rg a) (imm.signExtend 64))).retire

/-- ADD (Table 8-1). -/
def execAdd (d a b : GOp) (s : State) : Res := alu (· + ·) d a b s
/-- SUB (Table 8-1). -/
def execSub (d a b : GOp) (s : State) : Res := alu (· - ·) d a b s
/-- MUL (Table 8-1). -/
def execMul (d a b : GOp) (s : State) : Res := alu (· * ·) d a b s
/-- MULHI (Table 8-1). -/
def execMulhi (u : Bool) (d a b : GOp) (s : State) : Res := alu (mulHigh u) d a b s
/-- DIV (R175). -/
def execDiv (u : Bool) (d a b : GOp) (s : State) : Res := alu (divide u) d a b s
/-- REM (R175). -/
def execRem (u : Bool) (d a b : GOp) (s : State) : Res := alu (remainder u) d a b s
/-- AND (Table 8-1). -/
def execAnd (d a b : GOp) (s : State) : Res := alu (· &&& ·) d a b s
/-- OR (Table 8-1). -/
def execOr (d a b : GOp) (s : State) : Res := alu (· ||| ·) d a b s
/-- XOR (Table 8-1). -/
def execXor (d a b : GOp) (s : State) : Res := alu (· ^^^ ·) d a b s
/-- ANDN (Table 8-1). -/
def execAndn (d a b : GOp) (s : State) : Res := alu (fun x y => x &&& ~~~ y) d a b s
/-- SHL (R174). -/
def execShl (d a b : GOp) (s : State) : Res := alu (fun x y => x <<< shamt y) d a b s
/-- SHR (R174). -/
def execShr (d a b : GOp) (s : State) : Res := alu (fun x y => x >>> shamt y) d a b s
/-- SAR (R174). -/
def execSar (d a b : GOp) (s : State) : Res := alu (fun x y => x.sshiftRight (shamt y)) d a b s
/-- MIN (Table 8-1). -/
def execMin (u : Bool) (d a b : GOp) (s : State) : Res := alu (minWord u) d a b s
/-- MAX (Table 8-1). -/
def execMax (u : Bool) (d a b : GOp) (s : State) : Res := alu (maxWord u) d a b s
/-- CLZ (Table 8-1). -/
def execClz (d a : GOp) (s : State) : Res := (s.wg d (word (leadingZeros 64 (s.rg a).toNat))).retire
/-- POPC (Table 8-1). -/
def execPopc (d a : GOp) (s : State) : Res := (s.wg d (word (popCount 64 (s.rg a).toNat))).retire
/-- SEL (Table 8-1). -/
def execSel (d a b c : GOp) (s : State) : Res := (s.wg d (if s.rg c ≠ 0 then s.rg a else s.rg b)).retire
/-- SETCC (Table 8-1). -/
def execSetcc (cc : Cond) (d a b : GOp) (s : State) : Res := alu (fun x y => oneIf (Cond.holds cc x y)) d a b s

/-- ALUI ADD (R176). -/
def execAluiAdd (d a : GOp) (imm : BitVec 36) (s : State) : Res := alui (· + ·) d a imm s
/-- ALUI AND (R176). -/
def execAluiAnd (d a : GOp) (imm : BitVec 36) (s : State) : Res := alui (· &&& ·) d a imm s
/-- ALUI OR (R176). -/
def execAluiOr (d a : GOp) (imm : BitVec 36) (s : State) : Res := alui (· ||| ·) d a imm s
/-- ALUI XOR (R176). -/
def execAluiXor (d a : GOp) (imm : BitVec 36) (s : State) : Res := alui (· ^^^ ·) d a imm s
/-- ALUI SHL (R176). -/
def execAluiShl (d a : GOp) (imm : BitVec 36) (s : State) : Res := alui (fun x y => x <<< shamt y) d a imm s
/-- ALUI SHR (R176). -/
def execAluiShr (d a : GOp) (imm : BitVec 36) (s : State) : Res := alui (fun x y => x >>> shamt y) d a imm s
/-- ALUI SAR (R176). -/
def execAluiSar (d a : GOp) (imm : BitVec 36) (s : State) : Res := alui (fun x y => x.sshiftRight (shamt y)) d a imm s
/-- ALUI MIN, signed (R176). -/
def execAluiMin (d a : GOp) (imm : BitVec 36) (s : State) : Res := alui (minWord false) d a imm s
/-- ALUI MAX, signed (R176). -/
def execAluiMax (d a : GOp) (imm : BitVec 36) (s : State) : Res := alui (maxWord false) d a imm s

/-- LI (R177). -/
def execLi (d : GOp) (imm : BitVec 36) (s : State) : Res := (s.wg d (imm.signExtend 64)).retire
/-- LIH: bits [63:36] from the immediate, bits [35:0] kept (R177). -/
def execLih (d : GOp) (imm : BitVec 28) (s : State) : Res :=
  (s.wg d (imm ++ (s.rg d).setWidth 36)).retire
/-- NOP (R186). -/
def execNop (s : State) : Res := s.retire

end Sys2Proof.Machine
end

