-- ==== Sys2Proof/Machine/Vector.lean ====
section
/-!
DEFINITION. Vector configuration, element-wise arithmetic and comparison: opcodes 0x30, 0x31 and 0x32 (R203 to R209).
-/

namespace Sys2Proof.Machine

/-! ### Configuration: opcode 0x30 -/

/-- VSETL (R203). -/
def execVsetl (d a : GOp) (s : State) : Res := s.userOnly 0x30 <|
  let n := min (s.rg a).toNat 128
  ((s.wg d (word n)).modMe fun h => { h with vl := n }).retire
/-- `VTAG` and `VRETAG` on a register: TYPE for one bound to a stream; nothing for `_` (R54, R204). -/
def State.retag (s : State) (d : VdOp) (f : VReg → VReg) : Res := s.userOnly 0x30 <|
  match d with
  | none => s.retire
  | some r =>
    if (s.me.bound r.val).isSome then s.raise 0x30 { c := .type, detail := r.val }
    else (s.modMe fun h => h.setV (vdReg r) (f h.v[vdReg r])).retire
/-- VTAG: the tag set and every element zero (R54, R204); VLN becomes 0 (R351). -/
def execVtag (d : VdOp) (t : Tag) (s : State) : Res :=
  s.retag d fun _ => { el := Vector.replicate 128 0, tag := t, vln := 0, dirty := true }
/-- VRETAG: the tag set, every bit kept (R54, R204). -/
def execVretag (d : VdOp) (t : Tag) (s : State) : Res := s.retag d fun x => { x with tag := t, dirty := true }


/-- VGETTAG: the tag without UNTYPED and without a pop (R205). -/
def execVgettag (d : GOp) (a : VrOp) (s : State) : Res := s.userOnly 0x30 (s.wg d (word (s.me.v[a].tag.code))).retire
/-- The tag of a destination; none when there is no destination. -/
def State.dTag (s : State) (d : VdOp) : Tag := match d with | some r => s.me.v[vdReg r].tag | none => .none
/-- No mask, and no other control field. -/
def VMod.plain : VMod :=
  { k := 0, ke := false, kz := false, ca := false, cb := false, cc := false, p := false, rm := .dyn, sat := false }
/-- VMOV (R206): a scalar takes the tag of D. It writes `l3` also with D = `_`, as R56 says and Table 3-5 does not (log
entry 68). -/
def execVmov (d : VdOp) (a : VsOp) (s : State) : Res :=
  s.vec
    { op := 0x30, srcs := [a], d := d, last := some 59,
      check := fun tags => match tags with
        | [some t] => .ok (t, t)
        | _ => if s.dTag d = .none then .error (typeTrap .type a) else .ok (s.dTag d, s.dTag d),
      badvl := fun _ _ => false,
      res := fun u _ vl => u.elementwise VMod.plain vl fun e => (u.vel a e, 0) }

/-! ### The element-wise form of opcodes 0x31, 0x34 and 0x35 -/

/-- An element-wise instruction whose sources share a tag of a class, on whole elements. -/
def State.perElem (s : State) (op : Nat) (q : VMod) (d : VdOp) (srcs : List VsOp) (cls satOk : Tag → Bool)
    (f : State → Tag → Nat → (Nat → Word) → Word × Flags) : Res :=
  s.vec
    { op := op, srcs := srcs, d := d, last := some (vaLast q.p), check := classCheck srcs cls satOk q.sat,
      badvl := fun _ _ => false,
      res := fun u t vl => u.elementwise q vl fun e => f u t e fun i => u.vel (srcs.getD i .zero) e }
/-- The same lane by lane: `f` takes the lanes of the first, second and third source. -/
def State.perLane (s : State) (op : Nat) (q : VMod) (d : VdOp) (srcs : List VsOp) (cls satOk : Tag → Bool)
    (f : Tag → Nat → Nat → Nat → Nat × Flags) : Res :=
  s.perElem op q d srcs cls satOk fun _ t _ x =>
    let w := tagWidth t
    byLane w fun l => f t (lane w (x 0) l) (lane w (x 1) l) (lane w (x 2) l)
/-- No tag allows SAT. -/
def noSat (_ : Tag) : Bool := false
/-- Tags of class ANY (Table 9-1). -/
def isAny (t : Tag) : Bool := t != .none

/-- An arithmetic function of lanes: exact on integers (R74), and a sum of terms rounded once on floats (R78). -/
def arith (sat : Bool) (rm : Rm) (fi : Int → Int → Int → Int) (ff : FVal → FVal → FVal → List Term)
    (t : Tag) (a b c : Nat) : Nat × Flags :=
  let w := tagWidth t
  let int (sg : Bool) : Nat × Flags := (intFit sg sat w (fi (intVal sg w a) (intVal sg w b) (intVal sg w c)), 0)
  match tagKind t with
  | .int sg => int sg
  | .cint => int true
  | .flt f | .cflt f => f.sum rm (ff (f.read a) (f.read b) (f.read c))
  | .untyped => (0, 0)
/-- The classes of VADD and VSUB. -/
def clsAdd (t : Tag) : Bool := isI t || isF t || isCF t || isCI t
/-- The classes of VMUL and of the fused functions. -/
def clsMul (t : Tag) : Bool := isI t || isF t
/-- The tags on which VADD and VSUB saturate. -/
def satAdd (t : Tag) : Bool := isI t || isCI t

/-- VADD (Table 9-2). -/
def execVadd (q : VMod) (d : VdOp) (a b : VsOp) (s : State) : Res :=
  s.perLane 0x31 q d [a, b] clsAdd satAdd
    (arith q.sat (s.rmode q.rm) (fun x y _ => x + y) (fun x y _ => [tm x, tm y]))
/-- VSUB (Table 9-2). -/
def execVsub (q : VMod) (d : VdOp) (a b : VsOp) (s : State) : Res :=
  s.perLane 0x31 q d [a, b] clsAdd satAdd
    (arith q.sat (s.rmode q.rm) (fun x y _ => x - y) (fun x y _ => [tm x, (tm y).flip]))
/-- VMUL (Table 9-2). -/
def execVmul (q : VMod) (d : VdOp) (a b : VsOp) (s : State) : Res :=
  s.perLane 0x31 q d [a, b] clsMul isI
    (arith q.sat (s.rmode q.rm) (fun x y _ => x * y) (fun x y _ => [tm2 x y]))
/-- VMULH: Floor(a × b ÷ 2^w) (Table 9-2). -/
def execVmulh (q : VMod) (d : VdOp) (a b : VsOp) (s : State) : Res :=
  s.perLane 0x31 q d [a, b] isI noSat fun t x y _ =>
    let w := tagWidth t
    let sg := isIS t
    (wrap64 (intVal sg w x * intVal sg w y / (2 ^ w : Nat)) % 2 ^ w, 0)
/-- VFMA: a × b + c, one rounding (Table 9-2). -/
def execVfma (q : VMod) (d : VdOp) (a b c : VsOp) (s : State) : Res :=
  s.perLane 0x31 q d [a, b, c] clsMul isI
    (arith q.sat (s.rmode q.rm) (fun x y z => x * y + z) (fun x y z => [tm2 x y, tm z]))
/-- VFMS: a × b − c, one rounding (Table 9-2). -/
def execVfms (q : VMod) (d : VdOp) (a b c : VsOp) (s : State) : Res :=
  s.perLane 0x31 q d [a, b, c] clsMul isI
    (arith q.sat (s.rmode q.rm) (fun x y z => x * y - z) (fun x y z => [tm2 x y, (tm z).flip]))
/-- VFNMA: c − a × b, one rounding (Table 9-2). -/
def execVfnma (q : VMod) (d : VdOp) (a b c : VsOp) (s : State) : Res :=
  s.perLane 0x31 q d [a, b, c] clsMul isI
    (arith q.sat (s.rmode q.rm) (fun x y z => z - x * y) (fun x y z => [tm z, (tm2 x y).flip]))

/-- The classes of the minimum and maximum functions. -/
def clsMinMax (t : Tag) : Bool := isI t || isF t || isF8 t
/-- The smaller or larger lane: signed for IS, floats under R81. -/
def minMaxLane (mx : Bool) (t : Tag) (a b : Nat) : Nat × Flags :=
  match tagKind t with
  | .flt f => f.minMax mx a b
  | _ =>
    let x := intVal (isIS t) (tagWidth t) a
    let y := intVal (isIS t) (tagWidth t) b
    (if (if mx then x < y else y < x) then b else a, 0)
/-- VMIN (Table 9-2). -/
def execVmin (q : VMod) (d : VdOp) (a b : VsOp) (s : State) : Res :=
  s.perLane 0x31 q d [a, b] clsMinMax noSat fun t x y _ => minMaxLane false t x y
/-- VMAX (Table 9-2). -/
def execVmax (q : VMod) (d : VdOp) (a b : VsOp) (s : State) : Res :=
  s.perLane 0x31 q d [a, b] clsMinMax noSat fun t x y _ => minMaxLane true t x y

/-- A float pattern with its sign changed, or cleared; a NaN becomes canonical (R81). -/
def Fmt.signOp (f : Fmt) (clear : Bool) (w : Nat) : Nat :=
  if (f.read w).isNan then f.nan
  else
    let mag := w % 2 ^ (f.eb + f.fb)
    mag + f.sign (!clear && !(f.read w).neg)
/-- The negation or absolute value of a lane: integers under R74, floats by sign only (R81). -/
def signLane (clear sat : Bool) (t : Tag) (a : Nat) : Nat × Flags :=
  match tagKind t with
  | .flt f | .cflt f => (f.signOp clear a, 0)
  | _ =>
    let x := intVal true (tagWidth t) a
    (intFit true sat (tagWidth t) (if clear then x.natAbs else -x), 0)
/-- VABS (Table 9-2). -/
def execVabs (q : VMod) (d : VdOp) (a : VsOp) (s : State) : Res :=
  s.perLane 0x31 q d [a] (fun t => isIS t || isF t || isF8 t) isIS fun t x _ _ => signLane true q.sat t x
/-- VNEG (Table 9-2). -/
def execVneg (q : VMod) (d : VdOp) (a : VsOp) (s : State) : Res :=
  s.perLane 0x31 q d [a] (fun t => isIS t || isF t || isF8 t || isComplex t) (fun t => isIS t || isCI t)
    fun t x _ _ => signLane false q.sat t x

/-- A bitwise function of two sources, on every tag (Table 9-2). -/
def State.bitwise (s : State) (q : VMod) (d : VdOp) (a b : VsOp) (f : Word → Word → Word) : Res :=
  s.perElem 0x31 q d [a, b] isAny noSat fun _ _ _ x => (f (x 0) (x 1), 0)
/-- VAND (Table 9-2). -/
def execVand (q : VMod) (d : VdOp) (a b : VsOp) (s : State) : Res := s.bitwise q d a b (· &&& ·)
/-- VOR (Table 9-2). -/
def execVor (q : VMod) (d : VdOp) (a b : VsOp) (s : State) : Res := s.bitwise q d a b (· ||| ·)
/-- VXOR (Table 9-2). -/
def execVxor (q : VMod) (d : VdOp) (a b : VsOp) (s : State) : Res := s.bitwise q d a b (· ^^^ ·)
/-- VSHL: a << (b mod w) (R207). -/
def execVshl (q : VMod) (d : VdOp) (a b : VsOp) (s : State) : Res :=
  s.perLane 0x31 q d [a, b] isI noSat fun t x y _ => (x * 2 ^ (y % tagWidth t) % 2 ^ tagWidth t, 0)
/-- VSHR: a >> (b mod w), zeros in (R207). -/
def execVshr (q : VMod) (d : VdOp) (a b : VsOp) (s : State) : Res :=
  s.perLane 0x31 q d [a, b] isI noSat fun t x y _ => (x / 2 ^ (y % tagWidth t), 0)
/-- VSAR: a >> (b mod w), copies of the sign bit in (R207). -/
def execVsar (q : VMod) (d : VdOp) (a b : VsOp) (s : State) : Res :=
  s.perLane 0x31 q d [a, b] isI noSat fun t x y _ =>
    let w := tagWidth t
    (wrap64 (signed w x / (2 ^ (y % w) : Nat)) % 2 ^ w, 0)
/-- VCLZ (Table 9-2). -/
def execVclz (q : VMod) (d : VdOp) (a : VsOp) (s : State) : Res :=
  s.perLane 0x31 q d [a] isI noSat fun t x _ _ => (leadingZeros (tagWidth t) x, 0)
/-- VPOPC (Table 9-2). -/
def execVpopc (q : VMod) (d : VdOp) (a : VsOp) (s : State) : Res :=
  s.perLane 0x31 q d [a] isI noSat fun t x _ _ => (popCount (tagWidth t) x, 0)
/-- VSEL (Table 9-2). -/
def execVsel (q : VMod) (d : VdOp) (a b : VsOp) (c : MOp) (s : State) : Res :=
  s.perElem 0x31 q d [a, b] isAny noSat fun u _ e x => (if (u.mreg c).getLsbD e then x 0 else x 1, 0)

/-- A mask built from its bits. -/
def maskOf (f : Nat → Bool) : MaskReg :=
  BitVec.ofNat 128 ((List.range 128).foldl (fun acc e => acc + (if f e then 2 ^ e else 0)) 0)
/-- `VADDC` and `VSUBB`: elements with a carry or borrow in and out through a mask (R208). -/
def State.carry (s : State) (q : VMod) (d : VdOp) (a b : VsOp) (c : MOp) (f : Int → Int → Int → Int) : Res :=
  s.vec
    { op := 0x31, srcs := [a, b], d := d, last := some (vaLast q.p),
      check := classCheck [a, b] (· == .n64) noSat q.sat, badvl := fun _ _ => false,
      res := fun u _ vl =>
        let cin : MaskReg := u.mreg c
        let x (e : Nat) : Int := f (u.vel a e).toNat (u.vel b e).toNat (if cin.getLsbD e then 1 else 0)
        let r := u.elementwise q vl fun e => (word (wrap64 (x e)), 0)
        { r with mask := c.map fun m => (m, maskOf fun e =>
            if u.active q.k q.ke vl e then decide ((2 ^ 64 : Nat) ≤ x e ∨ x e < 0) else cin.getLsbD e) } }
/-- VADDC (R208). -/
def execVaddc (q : VMod) (d : VdOp) (a b : VsOp) (c : MOp) (s : State) : Res :=
  s.carry q d a b c fun x y z => x + y + z
/-- VSUBB (R208). -/
def execVsubb (q : VMod) (d : VdOp) (a b : VsOp) (c : MOp) (s : State) : Res :=
  s.carry q d a b c fun x y z => x - y - z

/-! ### Comparison: opcode 0x32 -/

/-- The condition codes that a class accepts (Table 9-3). -/
def cmpCodes (cc : FCond) (t : Tag) : Bool :=
  match tagKind t with
  | .int _ => (match cc with | .eq | .ne | .lt | .le | .gt | .ge => true | _ => false)
  | .flt _ => true
  | .cint | .cflt _ => cc == .eq || cc == .ne
  | .untyped => false
/-- An integer comparison (Table 9-3). -/
def FCond.int (c : FCond) (a b : Int) : Bool :=
  match c with
  | .eq => decide (a = b) | .ne => decide (a ≠ b) | .lt | .ult => decide (a < b) | .le | .ule => decide (a ≤ b)
  | .gt | .ugt => decide (b < a) | .ge | .uge => decide (b ≤ a)
/-- The comparison of two elements: it holds for every sub-element (R209). A complex NE is the negation of EQ of both
components, in each sub-element. -/
def cmpElem (cc : FCond) (t : Tag) (a b : Word) : Bool × Flags :=
  let w := tagWidth t
  let ls := List.range (64 / w)
  let real (i : Nat) : Bool × Flags := match tagKind t with
    | .flt f => FCond.float cc (f.read (lane w a i)) (f.read (lane w b i))
    | _ => (FCond.int cc (intVal (isIS t) w (lane w a i)) (intVal (isIS t) w (lane w b i)), 0)
  let eq (i : Nat) : Bool × Flags := match tagKind t with
    | .cflt f => FCond.float .eq (f.read (lane w a i)) (f.read (lane w b i))
    | _ => (lane w a i == lane w b i, 0)
  if isComplex t then
    let both (i : Nat) : Bool := (eq (2 * i)).1 && (eq (2 * i + 1)).1
    ((List.range (32 / w)).all fun i => both i == (cc == .eq), flagsOf ls fun i => (eq i).2)
  else (ls.all fun i => (real i).1, flagsOf ls fun i => (real i).2)
/-- VCMP (R209). -/
def execVcmp (q : VMod) (cc : FCond) (d : MOp) (a b : VsOp) (s : State) : Res :=
  s.vec
    { op := 0x32, srcs := [a, b], d := none, last := none,
      check := classCheck [a, b] (fun t => cmpCodes cc t) noSat false, badvl := fun _ _ => false,
      res := fun u t vl =>
        let r := u.elementwise q vl fun e => (0, (cmpElem cc t (u.vel a e) (u.vel b e)).2)
        { r with
          put := fun _ => none,
          mask := d.map fun m => (m, maskOf fun e =>
            if vl ≤ e then false
            else if u.active q.k q.ke vl e then (cmpElem cc t (u.vel a e) (u.vel b e)).1
            else !q.kz && u.me.m[m].getLsbD e) } }

end Sys2Proof.Machine
end

