-- ==== Sys2Proof/Machine/Convert.lean ====
section
/-!
DEFINITION. Conversion and special functions: opcodes 0x33 and 0x34 (R83, R210 to R212).
-/

namespace Sys2Proof.Machine

/-- One lane converted from a tag to another (Table 4-3); a value that a float format of the same width cannot hold is
rounded as for a narrower one (log entry 45). -/
def convLane (rm : Rm) (sat : Bool) (src tgt : Tag) (a : Nat) : Nat × Flags :=
  let sgT := isIS tgt || isCI tgt
  let wT := tagWidth tgt
  let x := intVal (isIS src || isCI src) (tagWidth src) a
  match tagKind src, tagKind tgt with
  | .flt f, .flt h | .cflt f, .cflt h => h.deliver rm sat (f.read a).exact
  | .flt f, _ | .cflt f, _ => let (i, fl) := floatToInt rm sgT wT (f.read a); (wrap64 i % 2 ^ wT, fl)
  | _, .flt h | _, .cflt h => h.deliver rm sat (exactInt x)
  | _, _ => (intFit sgT sat wT x, 0)
/-- SAT is legal for a pair of tags (Table 9-4): integer targets from integers, and FP8 targets. -/
def convSat (src tgt : Tag) : Bool := isF8 tgt || (isI src && isI tgt) || (isCI src && isCI tgt)
/-- Lanes of an element. -/
def tagLanes (t : Tag) : Nat := 64 / tagWidth t
/-- The parts that a pair of tags allows: more than p (R211). -/
def convParts (src tgt : Tag) : Nat := max (tagLanes src / tagLanes tgt) (tagLanes tgt / tagLanes src)
/-- The prior bits of element e of a destination, or of the last-result register when D is `_` (R52). -/
def State.dold (s : State) (d : VdOp) (last : Fin 60) (e : Nat) : Word :=
  vget s.me.v[(d.map vdReg).getD last].el e 0
/-- VCVT (R210, R211): lanes that take no part keep the prior bits of D. -/
def execVcvt (q : VMod) (t : Tag) (part : Fin 8) (d : VdOp) (a : VsOp) (s : State) : Res :=
  let last := vaLast q.p
  s.vec
    { op := 0x33, srcs := [a], d := d, last := some last,
      check := fun tags => match tags with
        | [some u] =>
          if isComplex u != isComplex t then .error (typeTrap .type a)
          else if convParts u t ≤ part.val || (q.sat && !convSat u t) then .error (trap .illegal)
          else .ok (u, t)
        | _ => .error (typeTrap .type a),
      badvl := fun _ _ => false,
      res := fun u src vl =>
        let rm := u.rmode q.rm
        let ns := tagLanes src
        let nt := tagLanes t
        let conv (e i : Nat) : Nat × Flags := convLane rm q.sat src t (lane (tagWidth src) (u.vel a e) i)
        u.elementwise q vl fun e => byLane (tagWidth t) fun l =>
          if ns < nt then
            (if part.val * ns ≤ l ∧ l < (part.val + 1) * ns then conv e (l - part.val * ns)
             else (lane (tagWidth t) (u.dold d last e) l, 0))
          else conv e (part.val * nt + l) }

/-- A function of the lanes of one float source. -/
def State.special (s : State) (q : VMod) (d : VdOp) (a : VsOp) (cls : Tag → Bool) (f : Fmt → Nat → Nat × Flags) : Res :=
  s.perLane 0x34 q d [a] cls noSat fun t x _ _ =>
    match tagKind t with
    | .flt h => f h x
    | _ => (0, 0)
/-- The tags of the approximations (Table 9-5). -/
def clsApprox (t : Tag) : Bool := t == .f32x2 || t == .f16x4 || t == .bf16x4
/-- VRCP (R96, R97). -/
def execVrcp (q : VMod) (d : VdOp) (a : VsOp) (s : State) : Res := s.special q d a clsApprox Fmt.rcp
/-- VRSQRT (R96, R98). -/
def execVrsqrt (q : VMod) (d : VdOp) (a : VsOp) (s : State) : Res := s.special q d a clsApprox Fmt.rsqrt
/-- VSQRT (R95, R212). -/
def execVsqrt (q : VMod) (d : VdOp) (a : VsOp) (s : State) : Res :=
  s.special q d a isF fun f x => f.sqrt (s.rmode q.rm) (f.read x)
/-- VDIV (R95, R212). -/
def execVdiv (q : VMod) (d : VdOp) (a b : VsOp) (s : State) : Res :=
  s.perLane 0x34 q d [a, b] isF noSat fun t x y _ =>
    match tagKind t with
    | .flt f => f.div (s.rmode q.rm) (f.read x) (f.read y)
    | _ => (0, 0)
/-- VEXP2 (R96, R99). -/
def execVexp2 (q : VMod) (d : VdOp) (a : VsOp) (s : State) : Res := s.special q d a clsApprox Fmt.exp2
/-- VLOG2 (R96, R100). -/
def execVlog2 (q : VMod) (d : VdOp) (a : VsOp) (s : State) : Res := s.special q d a clsApprox Fmt.log2

end Sys2Proof.Machine
end

