-- ==== Sys2Proof/Machine/Permute.lean ====
section
/-!
DEFINITION. Permutes, reductions, scan and mask instructions: opcodes 0x37, 0x38 and 0x39 (R90, R91, R218 to R223).
-/

namespace Sys2Proof.Machine

/-! ### Permutes: opcode 0x37 -/

/-- The element results of a permute under R52; none keeps the prior bits of an active element. -/
def State.moves (s : State) (q : VMod) (vl : Nat) (f : Nat → Option Word) : VRes :=
  { put := fun e => if vl ≤ e then none else if s.active q.k q.ke vl e then f e else if q.kz then some 0 else none,
    fl := 0, mask := none }
/-- A permute of register A, with the check of its sources (R218): it runs on XP and writes `l3`, also with
D = `_` (log entry 68). -/
def State.permute (s : State) (d : VdOp) (srcs : List VsOp) (check : List (Option Tag) → Except TrapInfo (Tag × Tag))
    (res : State → Nat → VRes) : Res :=
  s.vec { op := 0x37, srcs := srcs, d := d, last := some 59, check := check, badvl := fun _ _ => false,
          res := fun u _ vl => res u vl }
/-- The result tag is Tag(A); a second source that a test refuses raises TYPE. -/
def tagOfA (b : VsOp) (ok : Tag → Tag → Bool) (tags : List (Option Tag)) : Except TrapInfo (Tag × Tag) :=
  match tags with
  | [some t] => .ok (t, t)
  | [some t, some u] => if ok t u then .ok (t, t) else .error (typeTrap .type b)
  | _ => .error (typeTrap .type b)
/-- Element i of a register, at any index from 0 to 127. -/
def State.elAt (s : State) (a : VrOp) (i : Nat) : Word := vget s.me.v[a].el i 0

/-- VSLIDEUP (Table 9-8). -/
def execVslideup (q : VMod) (d : VdOp) (a : VrOp) (b : GOp) (s : State) : Res :=
  let n := (s.rg b).toNat
  s.permute d [.vec a] (tagOfA .zero fun _ _ => true) fun u vl =>
    u.moves q vl fun e => if n ≤ e then some (u.elAt a (e - n)) else none
/-- VSLIDEDN (Table 9-8). -/
def execVslidedn (q : VMod) (d : VdOp) (a : VrOp) (b : GOp) (s : State) : Res :=
  let n := (s.rg b).toNat
  s.permute d [.vec a] (tagOfA .zero fun _ _ => true) fun u vl => u.moves q vl fun e => some (u.elAt a (e + n))
/-- VPERM (Table 9-8): the indices are `n64` or `i64`, read as unsigned. -/
def execVperm (q : VMod) (d : VdOp) (a b : VrOp) (s : State) : Res :=
  s.permute d [.vec a, .vec b] (tagOfA (.vec b) fun _ t => t == .n64 || t == .i64) fun u vl =>
    u.moves q vl fun e => some (u.elAt a (u.elAt b e).toNat)
/-- VBCAST (Table 9-8). -/
def execVbcast (q : VMod) (d : VdOp) (a : VrOp) (b : GOp) (s : State) : Res :=
  let n := (s.rg b).toNat
  s.permute d [.vec a] (tagOfA .zero fun _ _ => true) fun u vl => u.moves q vl fun _ => some (u.elAt a n)
/-- S of R219: the set bits of a mask below `vl`, ascending. -/
def setBelow (m : MaskReg) (vl : Nat) : List Nat := (List.range vl).filter fun e => m.getLsbD e
/-- VCOMPRESS (R219). -/
def execVcompress (_q : VMod) (d : VdOp) (a : VrOp) (c : MOp) (s : State) : Res :=
  s.permute d [.vec a] (tagOfA .zero fun _ _ => true) fun u vl =>
    { put := fun j => ((setBelow (u.mreg c) vl)[j]?).map (u.elAt a), fl := 0, mask := none }
/-- VEXPAND (R219). -/
def execVexpand (_q : VMod) (d : VdOp) (a : VrOp) (c : MOp) (s : State) : Res :=
  s.permute d [.vec a] (tagOfA .zero fun _ _ => true) fun u vl =>
    { put := fun e => if e < vl ∧ (u.mreg c).getLsbD e then some (u.elAt a (setBelow (u.mreg c) e).length) else none,
      fl := 0, mask := none }
/-- VIOTA: the tag of D becomes `n64` (R219). -/
def execViota (_q : VMod) (d : VdOp) (c : MOp) (s : State) : Res :=
  s.permute d [] (fun _ => .ok (.n64, .n64)) fun u vl =>
    { put := fun e => if e < vl then some (word (setBelow (u.mreg c) e).length) else none, fl := 0, mask := none }
/-- VZIP (Table 9-8). -/
def execVzip (q : VMod) (d : VdOp) (a b : VrOp) (s : State) : Res :=
  s.permute d [.vec a, .vec b] (tagOfA (.vec b) fun t u => t == u) fun u vl =>
    u.moves q vl fun e => some (u.elAt (if e % 2 = 0 then a else b) (e / 2))
/-- VUNZIP (Table 9-8). -/
def execVunzip (q : VMod) (d : VdOp) (a b : VrOp) (s : State) : Res :=
  s.permute d [.vec a, .vec b] (tagOfA (.vec b) fun t u => t == u) fun u vl =>
    u.moves q vl fun e => some (if e < 64 then u.elAt a (2 * e) else u.elAt b (2 * (e - 64) + 1))

/-! ### Reductions and scan: opcode 0x38 -/

/-- The value of a lane that passes alone: a NaN becomes canonical, a signalling NaN sets NV (R90, R91). -/
def passLane (t : Tag) (x : Nat) : Nat × Flags :=
  match tagKind t with
  | .flt f | .cflt f => (f.canon x, if (f.read x).isSnan then flNV else 0)
  | _ => (x, 0)
/-- Node j of level k of the tree of R90 over the present leaves. -/
def redNode (op : Nat → Nat → Nat × Flags) (pass : Nat → Nat × Flags) (leaf : Nat → Option Nat) :
    Nat → Nat → Option Nat × Flags
  | 0, j => (leaf j, 0)
  | k + 1, j =>
    let (x, fx) := redNode op pass leaf k (2 * j)
    let (y, fy) := redNode op pass leaf k (2 * j + 1)
    match x, y with
    | some a, some b => let (z, fz) := op a b; (some z, fx ||| fy ||| fz)
    | some a, none | none, some a => let (z, fz) := pass a; (some z, fx ||| fy ||| fz)
    | none, none => (none, fx ||| fy)
/-- A reduction into element 0 (R220); it writes `l3` also with D = `_` (log entry 68). -/
def State.reduce (s : State) (q : VMod) (d : VdOp) (a : VrOp) (cls satOk : Tag → Bool)
    (op : Tag → Nat → Nat → Nat × Flags) : Res :=
  s.vec
    { op := 0x38, srcs := [.vec a], d := d, last := some 59, check := classCheck [.vec a] cls satOk q.sat,
      badvl := fun _ _ => false,
      res := fun u t vl =>
        let w := tagWidth t
        let r := byLane w fun l =>
          let x := redNode (op t) (passLane t)
            (fun e => if u.active q.k q.ke vl e then some (lane w (u.elAt a e) l) else none) 7 0
          (x.1.getD 0, x.2)
        { put := fun e => if e = 0 then some r.1 else none, fl := r.2, mask := none } }
/-- The sum of two lanes: rounded, or under R74. -/
def addLane (sat : Bool) (rm : Rm) (t : Tag) (a b : Nat) : Nat × Flags :=
  arith sat rm (fun x y _ => x + y) (fun x y _ => [tm x, tm y]) t a b 0
/-- VREDSUM (R90, R220). -/
def execVredsum (q : VMod) (d : VdOp) (a : VrOp) (s : State) : Res :=
  s.reduce q d a clsAdd satAdd (addLane q.sat (s.rmode q.rm))
/-- VREDMAX (R90, R220). -/
def execVredmax (q : VMod) (d : VdOp) (a : VrOp) (s : State) : Res := s.reduce q d a clsMinMax noSat (minMaxLane true)
/-- VREDMIN (R90, R220). -/
def execVredmin (q : VMod) (d : VdOp) (a : VrOp) (s : State) : Res := s.reduce q d a clsMinMax noSat (minMaxLane false)
/-- The running value of R91 after the first n elements, with the flags of its last step. -/
def running (op : Nat → Nat → Nat × Flags) (pass : Nat → Nat × Flags) (leaf : Nat → Option Nat) :
    Nat → Option Nat × Flags
  | 0 => (none, 0)
  | n + 1 =>
    let (r, _) := running op pass leaf n
    match leaf n, r with
    | none, r => (r, 0)
    | some x, none => let (z, f) := pass x; (some z, f)
    | some x, some y => let (z, f) := op y x; (some z, f)
/-- VSCAN (R91, R221); it writes `l3` also with D = `_` (log entry 68). -/
def execVscan (q : VMod) (d : VdOp) (a : VrOp) (s : State) : Res :=
  s.vec
    { op := 0x38, srcs := [.vec a], d := d, last := some 59, check := classCheck [.vec a] clsAdd satAdd q.sat,
      badvl := fun _ _ => false,
      res := fun u t vl =>
        let w := tagWidth t
        u.elementwise q vl fun e => byLane w fun l =>
          let x := running (addLane q.sat (u.rmode q.rm) t) (passLane t)
            (fun i => if u.active q.k q.ke vl i then some (lane w (u.elAt a i) l) else none) (e + 1)
          (x.1.getD 0, x.2) }

/-! ### Mask instructions: opcode 0x39 (R222, R223) -/

/-- A mask written; `_` discards. -/
def State.wm (s : State) (d : MOp) (x : MaskReg) : State :=
  match d with
  | some r => s.modMe fun h => { h with m := vput h.m r x }
  | none => s
/-- A function of bits below `vl`; the other bits of the destination are kept, and `vl` = 0 changes nothing. -/
def State.maskBits (s : State) (d : MOp) (f : Nat → Bool) : Res := s.userOnly 0x39 <|
  (s.wm d (maskOf fun e => if e < s.me.vl then f e else (s.mreg d).getLsbD e)).retire
/-- MAND (Table 9-10). -/
def execMand (d a b : MOp) (s : State) : Res := s.maskBits d fun e => (s.mreg a).getLsbD e && (s.mreg b).getLsbD e
/-- MOR (Table 9-10). -/
def execMor (d a b : MOp) (s : State) : Res := s.maskBits d fun e => (s.mreg a).getLsbD e || (s.mreg b).getLsbD e
/-- MXOR (Table 9-10). -/
def execMxor (d a b : MOp) (s : State) : Res := s.maskBits d fun e => (s.mreg a).getLsbD e != (s.mreg b).getLsbD e
/-- MANDN (Table 9-10). -/
def execMandn (d a b : MOp) (s : State) : Res := s.maskBits d fun e => (s.mreg a).getLsbD e && !(s.mreg b).getLsbD e
/-- MSHL (Table 9-10). -/
def execMshl (d a : MOp) (b : GOp) (s : State) : Res :=
  s.maskBits d fun e =>
    let i : Int := e - (s.rg b).toInt
    decide (0 ≤ i ∧ i < s.me.vl) && (s.mreg a).getLsbD i.toNat
/-- A scalar result of a mask, which `vl` = 0 leaves alone (R223). -/
def State.maskToG (s : State) (d : GOp) (x : Nat) : Res := s.userOnly 0x39 <|
  if s.me.vl = 0 then s.retire else (s.wg d (word x)).retire
/-- MPOPC (Table 9-10). -/
def execMpopc (d : GOp) (a : MOp) (s : State) : Res := s.maskToG d (setBelow (s.mreg a) s.me.vl).length
/-- MFIRST (Table 9-10). -/
def execMfirst (d : GOp) (a : MOp) (s : State) : Res := s.maskToG d ((setBelow (s.mreg a) s.me.vl).headD 128)
/-- MSET: one half written, the other kept (Table 9-10). -/
def execMset (h : Bool) (d : MOp) (a : GOp) (s : State) : Res := s.userOnly 0x39 <|
  let x := s.mreg d
  (s.wm d (if h then s.rg a ++ x.setWidth 64 else (x.extractLsb' 64 64) ++ s.rg a)).retire
/-- MGET (Table 9-10). -/
def execMget (h : Bool) (d : GOp) (a : MOp) (s : State) : Res := s.userOnly 0x39 <|
  (s.wg d ((s.mreg a).extractLsb' (if h then 64 else 0) 64)).retire

end Sys2Proof.Machine
end

