-- ==== Sys2Proof/Machine/ScalarMem.lean ====
section
/-!
DEFINITION. Scalar loads, stores and atomics (R179 to R183), with the scalar data cache and the store buffer (R134,
R139).
-/

namespace Sys2Proof.Machine

/-! ### The scalar data cache and the store buffer -/

/-- The byte that a buffered store puts at a place. -/
def BufStore.byte? (b : BufStore) (l : Loc) : Option Byte :=
  if PageKind.sameSpace b.loc.kind l.kind && decide (b.loc.pa ≤ l.pa) then b.bytes[l.pa - b.loc.pa]? else none
/-- Bytes read at a place as the thread sees them: its own latest buffered store at each byte, else what the home
holds (R131). -/
def overlay (stores : List BufStore) (l : Loc) (bs : List Byte) : List Byte :=
  bs.mapIdx fun i b =>
    stores.foldl (fun acc st => (st.byte? { l with pa := l.pa + i }).getD acc) b
/-- The cached line that holds a place. -/
def Hart.line? (h : Hart) (l : Loc) : Option CacheLine :=
  h.cache.find? fun c => PageKind.sameSpace c.at_.kind l.kind && c.at_.pa == l.pa / 128 * 128
/-- Lines of the scalar data cache: 32 KiB (R10). The spec does not say which line a full one gives up: the model's is the
one filled longest ago (log entry 10). -/
def cacheLines : Nat := 256
/-- A page kind that the scalar data cache holds (R134). -/
def PageKind.cached (k : PageKind) : Bool := k == .dev || k == .hostc

/-- A scalar load at a place: performed at the home, or, where it may be stale, filling a cache line (choice 1) or
served from one (choice 2), as R134 lets the cache choose. A full cache gives up the line filled longest ago, which is the
model's choice (log entry 10). A line of which a byte would be delivered poisoned is not filled (R109, R371). -/
def State.scalarRead (s : State) (l : Loc) (n : Nat) (mayStale : Bool) : List Byte × State :=
  let home (s : State) : List Byte × State :=
    let bs := overlay s.me.stores l (s.readHome l n)
    (bs, (s.afterRead l n).modMe fun h => h.cachePut l bs)
  if !mayStale then home s
  else
    let (c, s) := s.choose
    match c, s.me.line? l with
    | 2, some k => ((k.bytes.drop (l.pa % 128)).take n, s)
    | 1, _ =>
      let at_ : Loc := { l with pa := l.pa / 128 * 128 }
      let k : CacheLine := { at_ := at_, bytes := overlay s.me.stores at_ (s.readHome at_ 128) }
      if s.readPoison at_ 128 then home s
      else ((k.bytes.drop (l.pa % 128)).take n,
       (s.afterRead at_ 128).modMe fun h => { h with cache := (k :: h.cache.filter fun c => c.at_ ≠ at_).take cacheLines })
    | _, _ => home s
/-- A scalar store at a place: performed at its home after the thread's earlier ones, or kept in the store buffer
(choice 1), where its kind lets it be and it is no acquire, which later accesses come after (R132, R133, R136, R139). -/
def State.scalarWrite (s : State) (l : Loc) (bs : List Byte) (acq : Bool) : State :=
  let g := s.myGang
  let t := s.modMe fun h => h.cachePut l bs
  if acq || !l.kind.cached then t.drain t.cur |>.writeHome g.p g.job l bs
  else
    let (c, t) := t.choose
    if c = 1 then t.modMe fun h => { h with stores := h.stores ++ [{ loc := l, bytes := bs }] }
    else (t.drain t.cur).writeHome g.p g.job l bs

/-! ### LD and ST -/

/-- The effective address (R179). -/
def LdSt.ea (q : LdSt) (base : Word) : Word := base + q.off.signExtend 64
/-- Bytes of an access (Table 7-6a). -/
def LdSt.bytes (q : LdSt) : Nat := 2 ^ q.size.val
/-- An acquire (R136). -/
def acquires (o : MOrd) : Bool := o == .acq || o == .ar
/-- A release (R136). -/
def releases (o : MOrd) : Bool := o == .rel || o == .ar
/-- A trap of a scalar memory access (R316, Table 15-4). -/
def memTrap (c : Cause) (u : Use) (ea : Word) : TrapInfo := { c := c, detail := u.detail, addr := ea }
/-- A trap that names a ring (Table 15-4). -/
def ringTrap (r : Nat) (ea : Word) : TrapInfo := { c := .ring, detail := r, addr := ea }

/-- Scratchpad checks of a scalar access, in the order of R179: the place, or the trap. -/
def Gang.spCheck (g : Gang) (u : Use) (ea : Word) (n : Nat) : Except TrapInfo SpPlace :=
  match g.spPlace (u == .write) ea.toNat n with
  | .out => .error (memTrap .sprange u ea)
  | .badRing r => .error (ringTrap r ea)
  | k => if ea.toNat % spAlign n ≠ 0 then .error (memTrap .misalign u ea) else .ok k
/-- Generic checks of a scalar access, in the order of R179: translation, then alignment. -/
def State.genCheck (s : State) (u : Use) (ea : Word) (n : Nat) : Except TrapInfo (Loc × Pin) × State :=
  match s.translate u ea with
  | (.error c, t) => (.error (memTrap c u ea), t)
  | (.ok l, t) => (if ea.toNat % n ≠ 0 then .error (memTrap .misalign u ea) else .ok l, t)

/-- A scratchpad load (R179). -/
def ldSp (q : LdSt) (d a : GOp) (s : State) : Res :=
  let ea := LdSt.ea q (s.rg a)
  let n := LdSt.bytes q
  match s.myGang.spCheck .read ea n with
  | .error t => s.raise 0x06 t
  | .ok k =>
    match s.myGang.spStall false k with
    | some w => s.block 0x06 w none ea
    | none =>
      if s.waitsOwn false (releases q.ord) [] then s.block 0x06 .ordered none ea else
      let at_ := s.myGang.spMap k
      if s.myGang.spPoisoned at_ n then s.raise 0x06 (memTrap .poison .read ea)
      else
        let v := natOfBytes (s.myGang.spRead at_ n)
        let s := if releases q.ord then s.release else s
        let s := match k with
          | .cons r _ => if s.stalledOn r then s.acquire else s
          | _ => s
        let s := if acquires q.ord then s.acquire else s
        (s.wg d (extendN n q.sx v)).retire
/-- A generic load (R179, R180). -/
def ldGen (q : LdSt) (d a : GOp) (s : State) : Res :=
  let ea := LdSt.ea q (s.rg a)
  let n := LdSt.bytes q
  match s.genCheck .read ea n with
  | (.error t, s) => s.raise 0x06 t
  | (.ok (l, _), s) =>
    if s.waitsOwn false (releases q.ord) [(l, n)] then s.block 0x06 .ordered none ea
    else if s.readPoison l n then (s.afterPoison l n).raise 0x06 (memTrap .poison .read ea)
    else
      let s := if releases q.ord then s.release else s
      let (bs, s) := s.scalarRead l n (!acquires q.ord && l.kind.cached)
      let s := if acquires q.ord then s.acquire else s
      (s.wg d (extendN n q.sx (natOfBytes bs))).retire
/-- LD (R179, R180). -/
def execLd (q : LdSt) (d a : GOp) (s : State) : Res := if q.sp then ldSp q d a s else ldGen q d a s

/-- A scratchpad store (R179). -/
def stSp (q : LdSt) (d a : GOp) (s : State) : Res :=
  let ea := LdSt.ea q (s.rg a)
  let n := LdSt.bytes q
  match s.myGang.spCheck .write ea n with
  | .error t => s.raise 0x07 t
  | .ok k =>
    match s.myGang.spStall true k with
    | some w => s.block 0x07 w none ea
    | none =>
      if s.waitsOwn false (releases q.ord) [] then s.block 0x07 .ordered none ea
      else s.pair <|
      let s := if releases q.ord then s.release else s
      let s := s.spWrite s.cur.gang (s.myGang.spMap k) (bytesOfNat n (s.rg d).toNat)
      (if acquires q.ord then s.acquire else s).retire
/-- A generic store that takes no ticket (R179, R180). -/
def stPlain (q : LdSt) (d : GOp) (ea : Word) (l : Loc) (n : Nat) (s : State) : Res :=
  if s.waitsOwn false (releases q.ord) [(l, n)] then s.block 0x07 .ordered none ea
  else s.pair <|
  let s := if releases q.ord then s.release else s
  let s := s.scalarWrite l (bytesOfNat n (s.rg d).toNat) (acquires q.ord)
  (if acquires q.ord then s.acquire else s).retire
/-- A ticket-ordered store (R180): performed when the hart holds the right, else one commit-buffer entry. -/
def stTicket (q : LdSt) (d : GOp) (ea : Word) (l : Loc) (pin : Pin) (n : Nat) (s : State) : Res := s.pair <|
  let bs := bytesOfNat n (s.rg d).toNat
  let tree := q.t == .tt
  let s := if releases q.ord then s.release else s
  let s := s.drain s.cur
  let g := s.myGang
  let s := s.flush g.p g.job (s.ticket s.cur) s.entries.length
  if s.direct tree then
    let (_, s) := s.once s.cur s.nextEntry fun s => (0, s.writeHome g.p g.job l bs)
    let s := s.modMe fun h => h.cachePut l (s.readHome l n)
    (if acquires q.ord then s.acquire else s).retire
  else
    match s.buffer tree false (acquires q.ord) (acquires q.ord) [pin] [([{ e := 0, loc := l, n := n, op := .store bs }], .none)] with
    | some s => let s := s.modMe fun h => h.cachePut l bs
      (if acquires q.ord then s.acquire else s).retire
    | none => s.block 0x07 (.commitFull 1 tree) none ea
/-- A generic store (R179, R180, R39): TICKET comes before the conditions of its address (log entry 54). -/
def stGen (q : LdSt) (d a : GOp) (s : State) : Res :=
  let ea := LdSt.ea q (s.rg a)
  let n := LdSt.bytes q
  match s.ticketCheck q.t ea with
  | some t => s.raise 0x07 t
  | none =>
    match s.genCheck .write ea n with
    | (.error t, s) => s.raise 0x07 t
    | (.ok (l, pin), s) => if q.t = .no then stPlain q d ea l n s else stTicket q d ea l pin n s
/-- ST (R179, R180). -/
def execSt (q : LdSt) (d a : GOp) (s : State) : Res := if q.sp then stSp q d a s else stGen q d a s

/-! ### AMO and CAS -/

/-- Bytes of a memory X size. -/
def Sz.bytes : Sz → Nat
  | .w => 4 | .q => 8 | .p => 16 | .rsv => 16

/-- A register pair of `CAS.P`, or one register (R182). -/
def State.rgWide (s : State) (n : Nat) (x : GOp) : Nat :=
  if n = 16 then
    match x with
    | none => 0
    | some r => (s.rg (some r)).toNat + 2 ^ 64 * (s.rg (some (r + 1))).toNat
  else (s.rg x).toNat % 2 ^ (8 * n)
/-- The old value of an atomic put into its destination (R181, R182). -/
def State.wgWide (s : State) (n : Nat) (sx : Bool) (x : GOp) (v : Nat) : State :=
  if n = 16 then
    match x with
    | none => s
    | some r => (s.wg (some r) (word v)).wg (some (r + 1)) (word (v / 2 ^ 64))
  else s.wg x (returned n sx v)
/-- The destination of an ordered atomic waits for its fill (R41). -/
def Hart.awaitG (h : Hart) (n : Nat) (x : GOp) (num : Nat) : Hart :=
  match x with
  | none => h
  | some r =>
    let rs := if n = 16 then [r, r + 1] else [r]
    { h with fillG := (h.fillG.filter fun q => !rs.contains q.1) ++ rs.map fun r => (r, num) }

/-- An atomic at a translated place: indivisible at the home (R181 to R183), or ticket-ordered. -/
def atomAt (op : Nat) (x : MemX) (n : Nat) (ea : Word) (o : OrdOp) (d : GOp) (l : Loc) (pin : Pin) (s : State) : Res :=
  if x.t = .no ∧ s.waitsOwn false (releases x.ord) [(l, n)] then s.block op .ordered none ea
  else s.pair <|
  let el : OrdElem := { e := 0, loc := l, n := n, op := o }
  let tree := x.t == .tt
  let s := s.drain s.cur
  let g := s.myGang
  let s := if x.t = .no then s else s.flush g.p g.job (s.ticket s.cur) s.entries.length
  if x.t = .no ∨ s.direct tree then
    if (x.t = .no ∨ s.me.redo.isEmpty) ∧ s.elemPoison el then (s.afterPoison l n).raise op (memTrap .poison .write ea)
    else
      let (old, s) :=
        if x.t = .no then s.performElem g.p g.job el
        else s.once s.cur s.nextEntry fun s => s.performElem g.p g.job el
      let s := s.modMe fun h => h.cachePut l (s.readHome l n)
      let s := if acquires x.ord then s.acquire else s
      (s.wgWide n x.sx d old).retire
  else
    let num := s.nextEntry
    match s.buffer tree false (acquires x.ord) (acquires x.ord) [pin] [([el], .g d (n == 16) x.sx)] with
    | some s =>
      let s := if acquires x.ord then s.acquire else s
      (s.modMe fun h => h.awaitG n d num).retire
    | none => s.block op (.commitFull 1 tree) none ea
/-- Checks of an atomic, TICKET first (log entry 54), then in the order of R181; then the atomic. -/
def atomGen (op : Nat) (x : MemX) (n : Nat) (a : GOp) (o : OrdOp) (ok : PageKind → Bool) (d : GOp) (s : State) : Res :=
  let ea := s.rg a
  match s.ticketCheck x.t ea with
  | some t => s.raise op t
  | none =>
    match s.genCheck .write ea n with
    | (.error t, s) => s.raise op t
    | (.ok (l, pin), s) => if ok l.kind then atomAt op x n ea o d l pin s else s.raise op (memTrap .atomspace .write ea)

/-- AMO (R181, R183). -/
def execAmo (op : AmoOp) (x : MemX) (d a b : GOp) (s : State) : Res :=
  atomGen 0x08 x (Sz.bytes x.sz) a (.amo op (s.rg b)) (fun k => PageKind.takes k op) d s
/-- CAS (R182, R183). -/
def execCas (x : MemX) (d a b c : GOp) (s : State) : Res :=
  let n := Sz.bytes x.sz
  atomGen 0x09 x n a (.cas (s.rgWide n b) (s.rgWide n c)) (fun k => k != .io) d s

end Sys2Proof.Machine
end

