-- ==== Sys2Proof/Machine/VMem.lean ====
section
/-!
DEFINITION. Vector memory: probes (R226 to R228, R312), the element frame of Tables 5-5 and 10-4 (R116, R117, R231 to
R234), loads and stores (Table 10-1).
-/

namespace Sys2Proof.Machine

/-! ### Tokens: opcodes 0x40 and 0x41 -/

/-- The thread that runs acts on its own token, or at S with UTK on the user hart's (R312): true for the supervisor
thread's own. -/
def State.probesSup (s : State) : Bool := s.atS && !s.me.sup.utk
/-- VPROBE (R226, R312): all pages of the range, or a trap that leaves the token as it was. -/
def execVprobe (wr : Bool) (tk : Fin 8) (a b : GOp) (s : State) : Res :=
  let sup := s.probesSup
  let base := (s.rg a).toNat
  let len := (s.rg b).toNat
  match s.probeRange s.myGang.p s.myVf sup wr base len with
  | .error (c, at_) =>
    (s.untranslated s.myGang.p s.myVf at_ c).raise 0x40
      { c := c, detail := if c = .tkrange then tk.val else if wr then 1 else 0, addr := word at_ }
  | .ok pins =>
    if 64 < s.me.pinsBut sup tk + pins.length then s.raise 0x40 { c := .tkrange, detail := tk.val, addr := word base }
    else
      let s := if s.serves.head? = some true then
          pins.foldl (fun s q => s.remember s.myGang.p s.myVf q.va) s else s
      (s.modMe fun h => h.putToken sup tk { st := .valid, base := base, len := len, wr := wr, pins := pins }).retire
/-- VRELEASE (R228, R312). -/
def execVrelease (tk : Fin 8) (s : State) : Res :=
  (s.modMe fun h => h.putToken s.probesSup tk Token.empty).retire

/-! ### Elements of a vector access -/

/-- A vector access: its opcode, control fields, bytes per element, whether it is checked as a store, whether it names
the scratchpad, and the address of each element. -/
structure VAcc where
  op : Nat
  x : MemX
  n : Nat
  wr : Bool
  sp : Bool
  addr : Nat → Word
/-- The address of element e of a strided access (R230). -/
def State.strided (s : State) (a b : GOp) (e : Nat) : Word := s.rg a + word e * s.rg b
/-- The address of element e of an indexed access (R230). -/
def State.indexed (s : State) (a : GOp) (b : VrOp) (e : Nat) : Word := s.rg a + vget s.me.v[b].el e 0
/-- DETAIL of an access (Table 15-4). -/
def VAcc.det (f : VAcc) : Nat := if f.wr then 1 else 0
/-- The active elements from `ei` up (R116). -/
def State.todo (s : State) (x : MemX) : List Nat :=
  (List.range s.me.vl).filter fun e => decide (s.me.ei ≤ e) && s.active x.k x.ke s.me.vl e
/-- UNTYPED, then TYPE (R50, R230, R239): data sources, destinations and an offsets register. -/
def State.vmTags (s : State) (data : List VsOp) (dests : List VdOp) (offs : Option VrOp) : Option TrapInfo :=
  let off := (offs.map fun r => [VsOp.vec r]).getD []
  let regs := (dests.filterMap fun d => d.map fun r => r.val)
    ++ (off ++ data).filterMap fun x => match x with | .vec r => some r.val | _ => none
  match s.untypedIn (off ++ data) with
  | some t => some t
  | none =>
    match regs.find? fun r => (s.me.bound r).isSome, offs with
    | some r, _ => some { c := .type, detail := r }
    | none, some r =>
      if s.me.v[r].tag == .n64 || s.me.v[r].tag == .i64 then none else some (typeTrap .type (.vec r))
    | none, none => none
/-- The issue conditions of Table 5-5: a ring window that does not exist, whose number is that of the lowest element
(R111), the state of the token, and page kinds that the instruction refuses (R61, R105). The token is tested with no
element active as well (R23, R61); `seaddr` is then 0 (R225). -/
def State.vIssue (s : State) (f : VAcc) (refuse : PageKind → Option Cause) (es : List Nat) : Option TrapInfo :=
  if f.sp then
    let bad := es.filterMap fun e => match s.myGang.spPlace f.wr (f.addr e).toNat f.n with
      | .badRing r => some (f.addr e, ({ c := .ring, detail := r } : TrapInfo))
      | _ => none
    bad.head?.bind fun q => (lowestTrap bad).map fun t => { t with detail := q.2.detail }
  else
    let t := s.token f.x.tk
    match t.stateTrap f.x.tk with
    | some x => some ((lowestTrap (es.map fun e => (f.addr e, x))).getD x)
    | none =>
      lowestTrap (es.filterMap fun e =>
        let a := (f.addr e).toNat
        if t.covers a f.n then
          match findPin t.pins a with
          | some q => (refuse q.kind).map fun c => (f.addr e, { c := c, detail := f.det })
          | none => none
        else none)

/-- The place of an element: generic, or in the scratchpad. -/
inductive VPlace where
  | gen (l : Loc) (q : Pin)
  | sp (a : SpPlace)
deriving DecidableEq, Repr
/-- The place of element e, or the first row of Table 5-5 but POISON that it meets. -/
def State.vPlace (s : State) (f : VAcc) (e : Nat) : Except TrapInfo VPlace :=
  let a := f.addr e
  if f.sp then
    match s.myGang.spCheck (if f.wr then .write else .read) a f.n with
    | .error t => .error { t with ei := e }
    | .ok k => .ok (.sp k)
  else
    match (s.token f.x.tk).elemCheck f.x.tk f.wr a.toNat f.n with
    | .error t => .error { t with ei := e }
    | .ok (l, q) => .ok (.gen l q)
/-- What the window elements of a scratchpad access wait for (R121, R124, R232): every active element's window is waited
for before any element condition is looked at (log entry 34). -/
def State.vStall (s : State) (f : VAcc) (es : List Nat) : Option WaitFor :=
  if f.sp then es.findSome? fun e => s.myGang.spStall f.wr (s.myGang.spPlace f.wr (f.addr e).toNat f.n) else none
/-- The generic places of elements. -/
def State.vLocs (s : State) (f : VAcc) (es : List Nat) : List (Loc × Nat) :=
  es.filterMap fun e => match s.vPlace f e with | .ok (.gen l _) => some (l, f.n) | _ => none
/-- POISON at element e. -/
def VAcc.poison (f : VAcc) (e : Nat) : TrapInfo := { c := .poison, detail := f.det, addr := f.addr e, ei := e }

/-- An acquire by the V agent that invalidates the scalar data cache: one at core scope or wider (R134). -/
def emptiesCache (x : MemX) : Bool := acquires x.ord && x.scope != .hart
/-- The acquire of a vector instruction, once its reads are done (R134, R136). -/
def State.acquireV (s : State) (x : MemX) : State := if emptiesCache x then s.acquire else s
/-- A vector memory instruction (R231): tags, then for `vl` > 0 the conditions checked at issue, of which TICKET is the
first (log entry 54), and stalls; `k` goes on with the elements to do, once the agent's own buffered operations let them
(R131, R136). A trap before any element leaves `ei` as it is, but for `VWAITC`, which leaves 0, and whose time-out is
`ends` (R244). -/
def State.vmem (s : State) (f : VAcc) (tags : Option TrapInfo) (refuse : PageKind → Option Cause) (k : List Nat → Res)
    (ends : Option Nat := none) : Res := s.userOnly f.op <|
  let keep (t : TrapInfo) : Res := s.raise f.op { t with ei := if f.op = 0x52 then 0 else s.me.ei }
  match tags with
  | some t => keep t
  | none =>
    if s.me.vl = 0 then s.retire
    else match s.ticketCheck f.x.t with
      | some t => keep t
      | none =>
        let es := s.todo f.x
        match s.vIssue f refuse es with
        | some t => keep t
        | none => match s.vStall f es with
          | some w => s.block f.op w none
          | none =>
            if f.x.t = .no ∧ s.waitsOwn true (releases f.x.ord) (s.vLocs f es) then s.block f.op .ordered ends else k es

/-- A page kind that no strided access refuses. -/
def anyKind (_ : PageKind) : Option Cause := none
/-- Gathers and scatters refuse IO pages (Table 5-1). -/
def notIo (k : PageKind) : Option Cause := if k = .io then some .prot else none

/-! ### Raw results (R53, R231) -/

/-- How a run of elements ended: all done, trimmed at an element, or trapped. -/
inductive VStop where
  | done
  | trim (e : Nat)
  | trap (t : TrapInfo)
/-- The number of elements that are behind when a run has ended. -/
def VStop.limit (z : VStop) (vl : Nat) : Nat := match z with | .done => vl | .trim e => e | .trap t => t.ei
/-- The elements of [ei, lim) that a raw result sets: the values found, and zeros for masked-off elements under KZ. -/
def State.rawPut (s : State) (x : MemX) (lim : Nat) (val : Nat → Option Word) : Nat → Option Word := fun e =>
  if s.me.ei ≤ e ∧ e < lim then (match val e with | some w => some w | none => if x.kz then some 0 else none) else none
/-- The tag of a destination of raw bits (R53); `sx` says that the instruction is a load with SX = 1. -/
def rawTag (old : Tag) (n : Nat) (sx : Bool) : Tag := if old = .none then (if n = 4 ∧ sx then .i64 else .n64) else old
/-- Raw bits written to D, and to `l2` when the instruction retires (R53, R56, R231). With D = `_` the l register keeps
its own tag under the rule of R53 (log entry 19). -/
def State.rawWrite (s : State) (d : VdOp) (n : Nat) (sx retires : Bool) (put : Nat → Option Word) : State :=
  let old := s.me.v[(d.map vdReg).getD 58].tag
  let x := s.formed d 58 (rawTag old n sx) put
  if retires then s.writeV d (some 58) x
  else if (List.range 128).any fun e => (put e).isSome then s.writeV d none x
  else s

/-! ### Loads -/

/-- The state after a read at a place that met poison (R371). -/
def State.vPoisoned (s : State) (n : Nat) : VPlace → State
  | .gen l _ => s.afterPoison l n
  | .sp _ => s
/-- A read at a place, as a number; none for poison. -/
def State.vRead (s : State) (n : Nat) : VPlace → Option (Nat × State)
  | .gen l _ => if s.readPoison l n then none else some (natOfBytes (s.readHome l n), s.afterRead l n)
  | .sp k =>
    let a := s.myGang.spMap k
    if s.myGang.spPoisoned a n then none else some (natOfBytes (s.myGang.spRead a n), s)
/-- The elements of a load in ascending order (R116, R117, R231); `first` is the lowest of all. -/
def State.loadAll (s : State) (f : VAcc) (first : Nat) : List Nat → List (Nat × Nat) × State × VStop
  | [] => ([], s, .done)
  | e :: r =>
    match s.vPlace f e with
    | .error t => ([], s, if (t.c = .tkrange ∨ t.c = .sprange) ∧ e ≠ first then .trim e else .trap t)
    | .ok p =>
      match s.vRead f.n p with
      | none => ([], s.vPoisoned f.n p, .trap (f.poison e))
      | some (v, u) =>
        let (l, w, z) := State.loadAll u f first r
        ((e, v) :: l, w, z)
/-- The value of an element in a list of values. -/
def found (l : List (Nat × Nat)) (e : Nat) : Option Nat := (l.find? fun q => q.1 == e).map fun q => q.2
/-- A consumer-window read of the access had stalled, at this wait or an earlier one of the instruction, and now proceeds
(R124, R232). -/
def State.vStalled (s : State) (f : VAcc) (es : List Nat) : Bool :=
  f.sp && es.any fun e => match s.myGang.spPlace f.wr (f.addr e).toNat f.n with
    | .cons r _ => s.stalledOn r
    | _ => false
/-- The access is a load with SX = 1, and no `VAMO`, which R53 lists apart from the loads. -/
def VAcc.loadSx (f : VAcc) : Bool := f.op != 0x50 && f.x.sx
/-- The end of a load: raw values written to D (and for pairs to C), `vl` trimmed, and the trap or the retirement. -/
def State.loadEnd (s : State) (f : VAcc) (d : VdOp) (pair : Option VdOp) (l : List (Nat × Nat)) (z : VStop) : Res :=
  let lim := z.limit s.me.vl
  let done := match z with | .trap _ => false | _ => true
  let lo (e : Nat) : Option Word := (found l e).map fun v => if f.n = 4 then extendN 4 f.x.sx v else word v
  let hi (e : Nat) : Option Word := (found l e).map fun v => word (v / 2 ^ 64)
  let put := s.rawPut f.x lim
  let u := match pair with
    | some (some c) =>
      let old := s.me.v[vdReg c].tag
      let x := s.formed (some c) 58 (rawTag old f.n false) (put hi)
      if done || (List.range 128).any (fun e => (put hi e).isSome) then s.writeV (some c) none x else s
    | _ => s
  let u := u.rawWrite d f.n f.loadSx done (put lo)
  match z with
  | .done => u.retire
  | .trim e => (u.modMe fun h => { h with vl := e }).retire
  | .trap t => u.raise f.op t
/-- A vector load (R231). -/
def State.vload (s : State) (f : VAcc) (d : VdOp) (pair : Option VdOp) (offs : Option VrOp)
    (refuse : PageKind → Option Cause) : Res :=
  s.vmem f (s.vmTags [] (d :: pair.toList) offs) refuse fun es =>
    let u := if releases f.x.ord then s.release else s
    let (l, u, z) := u.loadAll f (es.headD 0) es
    let u := if emptiesCache f.x || s.vStalled f es then u.acquire else u
    u.loadEnd f d pair l z

/-- VLD (Table 10-1). -/
def execVld (x : MemX) (d : VdOp) (a b : GOp) (s : State) : Res :=
  s.vload { op := 0x42, x := x, n := Sz.bytes x.sz, wr := false, sp := false, addr := s.strided a b } d none none anyKind
/-- VLDX (Table 10-1). -/
def execVldx (x : MemX) (d : VdOp) (a : GOp) (b : VrOp) (s : State) : Res :=
  s.vload { op := 0x44, x := x, n := Sz.bytes x.sz, wr := false, sp := false, addr := s.indexed a b } d none (some b)
    notIo
/-- VLDS (Table 10-1). -/
def execVlds (x : MemX) (d : VdOp) (a b : GOp) (s : State) : Res :=
  s.vload { op := 0x46, x := x, n := Sz.bytes x.sz, wr := false, sp := true, addr := s.strided a b } d none none anyKind
/-- VLDSX (Table 10-1). -/
def execVldsx (x : MemX) (d : VdOp) (a : GOp) (b : VrOp) (s : State) : Res :=
  s.vload { op := 0x48, x := x, n := Sz.bytes x.sz, wr := false, sp := true, addr := s.indexed a b } d none (some b)
    anyKind
/-- VLDS2: bytes 0 to 7 of a pair to D, 8 to 15 to C (R230). -/
def execVlds2 (x : MemX) (d : VdOp) (a b : GOp) (c : VdOp) (s : State) : Res :=
  s.vload { op := 0x4A, x := x, n := 16, wr := false, sp := true, addr := s.strided a b } d (some c) none anyKind

/-! ### Stores -/

/-- A write at a place. -/
def State.vWrite (s : State) (n : Nat) (v : Nat) : VPlace → State
  | .gen l _ => let g := s.myGang; s.writeHome g.p g.job l (bytesOfNat n v)
  | .sp k => s.spWrite s.cur.gang (s.myGang.spMap k) (bytesOfNat n v)
/-- The elements of a store in ascending order; the first that offends ends it (R231). -/
def State.storeAll (s : State) (f : VAcc) (data : Nat → Nat) : List Nat → State × Option TrapInfo
  | [] => (s, none)
  | e :: r =>
    match s.vPlace f e with
    | .error t => (s, some t)
    | .ok p => State.storeAll (s.vWrite f.n (data e) p) f data r
/-- The elements before the first that offends, with their places, and its trap (R233). -/
def State.prefixOf (s : State) (f : VAcc) : List Nat → List (Nat × Loc × Pin) × Option TrapInfo
  | [] => ([], none)
  | e :: r =>
    match s.vPlace f e with
    | .error t => ([], some t)
    | .ok (.gen l q) => let (ls, t) := State.prefixOf s f r; ((e, l, q) :: ls, t)
    | .ok (.sp _) => ([], none)
/-- The end of an instruction that wrote memory: the trap, or retirement, with the acquire of its ORD. -/
def State.storeEnd (s : State) (f : VAcc) (t : Option TrapInfo) : Res :=
  let s := s.acquireV f.x
  match t with
  | some t => s.raise f.op t
  | none => s.retire
/-- The trap that ends elements performed in flight: POISON at an element, else the one already found. -/
def VAcc.stop (f : VAcc) (z : Option Nat) (t : Option TrapInfo) : Option TrapInfo :=
  match z with
  | some e => some (f.poison e)
  | none => t
/-- Elements performed while their instruction is in flight; the first that meets poison ends them (R234). -/
def State.performNow (s : State) (p : Fin 3) (job : Nat) : List OrdElem → List (Nat × Nat) × State × Option Nat
  | [] => ([], s, none)
  | x :: r =>
    if s.elemPoison x then ([], s.metPoison x, some x.e)
    else
      let (v, u) := s.performElem p job x
      let (l, w, z) := State.performNow u p job r
      ((x.e, v) :: l, w, z)
/-- Ordered elements of the hart that runs, performed as they issue; those that it performed before it was restored
return what they returned (R45). -/
def State.performOwn (s : State) (p : Fin 3) (job : Nat) : List OrdElem → List (Nat × Nat) × State × Option Nat
  | [] => ([], s, none)
  | x :: r =>
    if s.me.redo.isEmpty ∧ s.elemPoison x then ([], s.metPoison x, some x.e)
    else
      let (v, u) := s.once s.cur s.nextEntry fun s => s.performElem p job x
      let (l, w, z) := State.performOwn u p job r
      ((x.e, v) :: l, w, z)
/-- The entries of ordered elements: one for each element group (R40). -/
def entryGroups (xs : List OrdElem) (f : Fill) : List (List OrdElem × Fill) :=
  (List.range 4).filterMap fun g =>
    let ys := xs.filter fun x => x.e / 32 == g
    if ys.isEmpty then none else some (ys, f)
/-- Ordered elements of the hart that runs (R233): performed at once when it holds the right, else buffered; `now` and
`later` say what follows. -/
def State.ordered (s : State) (f : VAcc) (xs : List OrdElem) (pins : List Pin) (fill : Fill)
    (now : List (Nat × Nat) → State → Option Nat → Res) (later : State → List Nat → Res) : Res :=
  let tree := f.x.t == .tt
  let g := s.myGang
  let s := if releases f.x.ord then s.release else s
  let s := s.flush g.p g.job (s.ticket s.cur) s.entries.length
  if s.direct tree then
    let (l, u, z) := s.performOwn g.p g.job xs
    now l u z
  else
    let gs := entryGroups xs fill
    match s.buffer tree true (acquires f.x.ord) (emptiesCache f.x) pins.dedup gs with
    | some u => later u ((List.range gs.length).map fun i => s.nextEntry + i)
    | none => s.block f.op (.commitFull gs.length tree) none
/-- A vector store, ordered or not (R231, R233). R233 says that a checked ordered store never traps; one performed in
flight that meets a poisoned word still raises POISON, as the last sentence of R234 says (log entry 75). -/
def State.vstore (s : State) (f : VAcc) (data : Nat → Nat) (srcs : List VsOp) (offs : Option VrOp)
    (refuse : PageKind → Option Cause) : Res :=
  s.vmem f (s.vmTags srcs [] offs) refuse fun es =>
    if es.isEmpty then s.retire
    else s.pair <|
      if f.x.t = .no then
        let u := if releases f.x.ord then s.release else s
        let (u, t) := u.storeAll f data es
        u.storeEnd f t
      else
        let (ps, t) := s.prefixOf f es
        let xs : List OrdElem := ps.map fun q =>
          { e := q.1, loc := q.2.1, n := f.n, op := .store (bytesOfNat f.n (data q.1)) }
        if xs.isEmpty then s.storeEnd f t
        else s.ordered f xs (ps.map fun q => q.2.2) .none (fun _ u z => u.storeEnd f (f.stop z t))
          (fun u _ => u.storeEnd f t)
/-- Element e of a register as a number. -/
def State.elNat (s : State) (r : VrOp) (e : Nat) : Nat := (vget s.me.v[r].el e 0).toNat

/-- VST (Table 10-1). -/
def execVst (x : MemX) (d : VrOp) (a b : GOp) (s : State) : Res :=
  s.vstore { op := 0x43, x := x, n := Sz.bytes x.sz, wr := true, sp := false, addr := s.strided a b } (s.elNat d)
    [.vec d] none anyKind
/-- VSTX (Table 10-1). -/
def execVstx (x : MemX) (d : VrOp) (a : GOp) (b : VrOp) (s : State) : Res :=
  s.vstore { op := 0x45, x := x, n := Sz.bytes x.sz, wr := true, sp := false, addr := s.indexed a b } (s.elNat d)
    [.vec d] (some b) notIo
/-- VSTS (Table 10-1). -/
def execVsts (x : MemX) (d : VrOp) (a b : GOp) (s : State) : Res :=
  s.vstore { op := 0x47, x := x, n := Sz.bytes x.sz, wr := true, sp := true, addr := s.strided a b } (s.elNat d)
    [.vec d] none anyKind
/-- VSTSX (Table 10-1). -/
def execVstsx (x : MemX) (d : VrOp) (a : GOp) (b : VrOp) (s : State) : Res :=
  s.vstore { op := 0x49, x := x, n := Sz.bytes x.sz, wr := true, sp := true, addr := s.indexed a b } (s.elNat d)
    [.vec d] (some b) anyKind
/-- VSTS2: Elem(D, e) in bytes 0 to 7, Elem(C, e) in 8 to 15 (R230). -/
def execVsts2 (x : MemX) (d : VrOp) (a b : GOp) (c : VrOp) (s : State) : Res :=
  s.vstore { op := 0x4B, x := x, n := 16, wr := true, sp := true, addr := s.strided a b }
    (fun e => s.elNat d e + 2 ^ 64 * s.elNat c e) [.vec d, .vec c] none anyKind

end Sys2Proof.Machine
end

