-- ==== Sys2Proof/Machine/VAtomics.lean ====
section
/-!
DEFINITION. Streams (R235, R236, R241), vector atomics (R242, R243), and `VWAITC` (R244).
-/

namespace Sys2Proof.Machine

/-! ### Streams: opcodes 0x4C to 0x4E -/

/-- Element i of a main register. -/
def State.recQ (s : State) (a : Fin 48) (i : Nat) : Word := vget s.me.v[(⟨a.val, by omega⟩ : Fin 60)].el i 0
/-- The first n quadwords of a record register (R164). -/
def State.record (s : State) (a : Fin 48) (n : Nat) : List Word := (List.range n).map (s.recQ a)
/-- The first trap of a list of checks. -/
def firstTrap (l : List (Option TrapInfo)) : Option TrapInfo := l.findSome? id
/-- A trap that saves no address: R316 gives 0 to an instruction that is no scalar access and for which neither R225 nor
a rule of its own gives one. -/
def TrapInfo.bare (t : TrapInfo) : TrapInfo := { t with addr := 0 }
/-- A check that raises a trap when it holds. -/
def failIf (b : Bool) (t : TrapInfo) : Option TrapInfo := if b then some t else none
/-- UNTYPED for a record register whose tag is `none` (R50). -/
def State.recUntyped (s : State) (a : Fin 48) : Option TrapInfo := s.untypedIn [.vec ⟨a.val, by omega⟩]
/-- TYPE for a bound register as a record (R239). -/
def State.recType (s : State) (a : Fin 48) : Option TrapInfo :=
  if (s.me.bound a.val).isSome then some { c := .type, detail := a.val } else none
/-- A stream record that `SBIND` refuses (R7, R235). -/
def badStream (q : List Word) : Bool :=
  bits (nth q 0) 63 56 != 0 || bits (nth q 2) 63 48 != 0 || bits (nth q 3) 63 7 != 0 || bit (nth q 3) 5 ||
    (bit (nth q 3) 6 && bit (nth q 3) 4)
/-- SBIND (R236): ILLEGAL for its record comes first, as item 2 of R166 (log entry 54), and UNTYPED is raised for a record
register that holds no data (R50). A token that is not valid is named with the
stream's BASE as address (log entry 35). -/
def execSbind (d : VbOp) (a : Fin 48) (s : State) : Res := s.userOnly 0x4C <|
  let q := s.record a 4
  let r : Fin 60 := ⟨d.val + 40, by omega⟩
  let old := s.me.v[r].tag
  let t : Stream := { bound := true, q0 := nth q 0, q1 := nth q 1, q2 := nth q 2, q3 := nth q 3, pos := 0, tag := old }
  let typ : TrapInfo := { c := .type, detail := r.val }
  if badStream q then s.raise 0x4C (trap .illegal)
  else match firstTrap [s.recUntyped a, failIf s.me.str[d].bound typ, s.recType a] with
    | some x => s.raise 0x4C x
    | none =>
      if t.stores && old == .none then s.raise 0x4C typ
      else match (s.me.tk[t.tk]).stateTrap t.tk with
        | some x => s.raise 0x4C { x with addr := word (bits t.q0 55 0) }
        | none =>
          let tag := rawTag old t.bytes (bit t.q3 6)
          (s.modMe fun h =>
            { h with str := vput h.str d { t with tag := tag },
                     v := vmod h.v r fun v => { v with tag := tag, dirty := v.dirty || v.tag != tag } }).retire
/-- SUNBIND (R241). -/
def execSunbind (d : VbOp) (s : State) : Res := s.userOnly 0x4D <|
  (s.modMe fun h => { h with str := vput h.str d Stream.empty }).retire
/-- The value of Table 10-3. -/
def Stream.stat (t : Stream) : Word :=
  if !t.bound then 0
  else word (2 ^ 63 + (if t.stores then 2 ^ 62 else 0) + (if t.pos = t.count then 2 ^ 61 else 0) + t.pos)
/-- SSTAT (R241). -/
def execSstat (d : GOp) (a : VbOp) (s : State) : Res := s.userOnly 0x4E <| (s.wg d s.me.str[a].stat).retire

/-! ### VAMO and VSTA: opcodes 0x50 and 0x51 -/

/-- The elements of a vector atomic. -/
def State.amoElems (s : State) (op : AmoOp) (n : Nat) (c : VsOp) (ps : List (Nat × Loc × Pin)) : List OrdElem :=
  ps.map fun q => { e := q.1, loc := q.2.1, n := n, op := .amo op (s.vel c q.1) }
/-- Page kinds that refuse a vector atomic raise ATOMSPACE at issue (Table 5-1). -/
def notTaken (ok : PageKind → Bool) (k : PageKind) : Option Cause := if ok k then none else some .atomspace
/-- How elements performed in flight ended: all done, or trapped. -/
def stopAt (f : VAcc) (z : Option Nat) (t : Option TrapInfo) : VStop :=
  match f.stop z t with
  | some w => .trap w
  | none => .done
/-- The destination of an ordered `VAMO` whose elements will fill (R41): masked-off elements are formed now, and the
register waits for its entries, and for earlier ones that its kept elements still wait for; `l2` waits with it when the
instruction retires. -/
def State.awaitV (s : State) (f : VAcc) (d : VdOp) (xs : List OrdElem) (nums : List Nat) (t : Option TrapInfo) : State :=
  let z := stopAt f none t
  let base : Fin 60 := (d.map vdReg).getD 58
  let put := s.rawPut f.x (z.limit s.me.vl) fun e =>
    if xs.any fun x => x.e == e then some (vget s.me.v[base].el e 0) else none
  let u := s.rawWrite d f.n f.loadSx t.isNone put
  let rs : List (Fin 60) := (d.map fun r => [vdReg r]).getD [] ++ if t.isNone then [58] else []
  let kept := (s.me.fillV.filter fun q => q.1 == base).map Prod.snd
  u.modMe fun h => { h with fillV := h.fillV ++ (rs.map fun r => (kept ++ nums).map fun n => (r, n)).flatten }
/-- VAMO (R242): old values to D and `l2`; ordered with T. -/
def execVamo (op : AmoOp) (x : MemX) (d : VdOp) (a : GOp) (b : VrOp) (c : VsOp) (s : State) : Res :=
  let f : VAcc := { op := 0x50, x := x, n := Sz.bytes x.sz, wr := true, sp := false, addr := s.indexed a b }
  s.vmem f (s.vmTags [c] [d] (some b)) (notTaken fun k => PageKind.takes k op) fun es =>
    let (ps, t) := s.prefixOf f es
    let xs := s.amoElems op f.n c ps
    let g := s.myGang
    let fin (l : List (Nat × Nat)) (u : State) (z : Option Nat) : Res :=
      (u.acquireV x).loadEnd f d none l (stopAt f z t)
    if xs.isEmpty then fin [] s none
    else s.pair <|
      if x.t = .no then
        let u := if releases x.ord then s.release else s
        let (l, u, z) := u.performNow g.p g.job xs
        fin l u z
      else s.ordered f xs (ps.map fun q => q.2.2) (.v d x.sx) fin
        (fun u nums => (u.awaitV f d xs nums t).storeEnd f t)
/-- VSTA (R243): accepted elements are performed later at their homes. -/
def execVsta (op : AmoOp) (x : MemX) (a : GOp) (b c : VrOp) (s : State) : Res :=
  let f : VAcc := { op := 0x51, x := x, n := Sz.bytes x.sz, wr := true, sp := false, addr := s.indexed a b }
  let ok (k : PageKind) : Bool := match k with
    | .dev | .hostc => true
    | .hostn | .twin => op == .add
    | .io => false
  s.vmem f (s.vmTags [.vec c] [] (some b)) (notTaken ok) fun es =>
    let (ps, t) := s.prefixOf f es
    let xs := s.amoElems op f.n (.vec c) ps
    let g := s.myGang
    if xs.isEmpty then s.storeEnd f t
    else s.pair <|
      if x.t = .no then
        let u := if releases x.ord then s.release else s
        let ys : List Posted := xs.map fun y => { p := g.p, job := g.job, elem := y }
        ({ u with posted := u.posted ++ ys }).storeEnd f t
      else s.ordered f xs (ps.map fun q => q.2.2) .none
        (fun _ u z => u.storeEnd f (f.stop z t))
        (fun u _ => u.storeEnd f t)

/-! ### VWAITC: opcode 0x52 -/

/-- A comparison of 64-bit values (Table 7-6). -/
def FCond.words (c : FCond) (sg : Bool) (a b : Word) : Bool :=
  if sg then FCond.int c a.toInt b.toInt else FCond.int c a.toNat b.toNat
/-- One evaluation: whether each element meets the condition, read at its home; or the trap (R244). -/
def State.evaluate (s : State) (f : VAcc) (ok : Nat → Word → Bool) : List Nat → Except (TrapInfo × State) (List (Nat × Bool) × State)
  | [] => .ok ([], s)
  | e :: r =>
    match s.vPlace f e with
    | .ok p =>
      match s.vRead f.n p with
      | none => .error ({ f.poison e with ei := 0 }, s.vPoisoned f.n p)
      | some (v, u) =>
        match State.evaluate u f ok r with
        | .ok (l, w) => .ok ((e, ok e (if f.n = 4 then extendN 4 f.x.sx v else word v)) :: l, w)
        | .error t => .error t
    | .error t => .error ({ t with ei := 0 }, s)
/-- The end of a `VWAITC`: the mask written, bits of other elements kept. -/
def State.waitcEnd (s : State) (f : VAcc) (d : MOp) (l : List (Nat × Bool)) : Res :=
  let old := s.mreg d
  let m := maskOf fun e => match l.find? fun q => q.1 == e with
    | some q => q.2
    | none => old.getLsbD e
  ((s.acquireV f.x).wm d m).retire
/-- The `dtime` at which a `VWAITC` times out (R244): from its issue on, whether it has waited between evaluations or for
the hart's own ordered operations since. -/
def State.waitcEnds (s : State) (b : GOp) : Option Nat :=
  match s.me.wait.filter Wait.ofVwaitc with
  | some w => w.ends
  | none => b.map fun _ => s.dtime + (s.rg b).toNat
/-- VWAITC (R136, R244). -/
def execVwaitc (cc : FCond) (x : MemX) (d : MOp) (a b : GOp) (c : VsOp) (s : State) : Res :=
  let n := Sz.bytes x.sz
  let f : VAcc := { op := 0x52, x := x, n := n, wr := false, sp := false, addr := fun e => s.rg a + word (e * n) }
  let tags := match s.vmTags [c] [] none with
    | some t => some t
    | none => match s.vtag c with
      | some .n64 | some .i64 | none => none
      | some _ => some (typeTrap .type c)
  let ends := s.waitcEnds b
  s.vmem f tags notIo (ends := ends) fun es =>
    let check := es.findSome? fun e => match s.vPlace f e with | .error t => some { t with ei := 0 } | .ok _ => none
    match check with
    | some t => s.raise f.op t
    | none =>
      let s := if releases x.ord then s.release else s
      let late := (s.me.wait.any fun w => w.ofVwaitc && w.expired) || ends.any fun e => decide (e ≤ s.dtime)
      match s.evaluate f (fun e w => FCond.words cc (s.vtag c == some .i64) w (s.vel c e)) es with
      | .error (t, u) => u.raise f.op t
      | .ok (l, u) =>
        if late || l.all fun q => q.2 then u.waitcEnd f d l
        else u.block f.op .vwaitc ends

end Sys2Proof.Machine
end

