-- ==== Sys2Proof/Machine/Engine.lean ====
section
/-!
DEFINITION. What the engines share: generic bytes read and written through the pins that an engine holds (R228, R364),
the checks of a record's ranges (R279, R285), and records of the record-issuing instructions (R23).
-/

namespace Sys2Proof.Machine

/-- The parts of n bytes at an address that lie in one 128-byte line each: address and length. -/
def linePieces (a n : Nat) : List (Nat × Nat) :=
  (List.range (ceilDiv (a % 128 + n) 128)).map fun k =>
    let lo := max a ((a / 128 + k) * 128)
    (lo, min (a + n) ((a / 128 + k + 1) * 128) - lo)

/-- What reading a range gave: its bytes, whether every page could be read, and whether a byte was poisoned. -/
structure Span where
  bytes : List Byte
  ok : Bool
  poison : Bool
deriving DecidableEq, Repr

/-- An engine that reads through a pin may access n bytes from an address on its page: read permission, no IO page, and
granted channel groups (R8, R262, R361). -/
def State.mayRead (s : State) (q : Pin) (a n : Nat) : Bool :=
  q.r && q.kind != .io && (q.kind != .dev || (s.granted q.p (q.loc a).pa && s.granted q.p ((q.loc a).pa + n - 1)))
/-- Parts of a range read through pins; a part on no page that may be read gives zero bytes, and is not accessed. -/
def State.readPieces (s : State) (ps : List Pin) : List (Nat × Nat) → Span × State
  | [] => ({ bytes := [], ok := true, poison := false }, s)
  | (a, n) :: r =>
    match findPin ps a with
    | none =>
      let (x, t) := s.readPieces ps r
      ({ x with bytes := List.replicate n 0 ++ x.bytes, ok := false }, t)
    | some q =>
      if !s.mayRead q a n then
        let (x, t) := s.readPieces ps r
        ({ x with bytes := List.replicate n 0 ++ x.bytes, ok := false }, t)
      else
      let l := q.loc a
      let bs := s.readHome l n
      let bad := s.readPoison l n
      let (x, t) := (s.afterRead l n).readPieces ps r
      ({ x with bytes := bs ++ x.bytes, poison := x.poison || bad }, t)
/-- n bytes at an address read through pins. -/
def State.readVia (s : State) (ps : List Pin) (a n : Nat) : Span × State := s.readPieces ps (linePieces a n)

/-- Parts of a range written through pins for a job; a part whose translation is gone is not written (R364). -/
def State.writePieces (s : State) (p : Fin 3) (job : Nat) (ps : List Pin) : List (Nat × Nat) → List Byte → State
  | [], _ => s
  | (a, n) :: r, bs =>
    let t := match findPin ps a with
      | some q => s.writeHome p job (q.loc a) (bs.take n)
      | none => s
    t.writePieces p job ps r (bs.drop n)
/-- Bytes at an address written through pins for a job. -/
def State.writeVia (s : State) (p : Fin 3) (job : Nat) (ps : List Pin) (a : Nat) (bs : List Byte) : State :=
  s.writePieces p job ps (linePieces a bs.length) bs
/-- Every byte of a range has a translation. -/
def coveredBy (ps : List Pin) (a n : Nat) : Bool := (linePieces a n).all fun q => (findPin ps q.1).isSome

/-- The pages of a token that a range touches. -/
def Token.pagesOf (t : Token) (a n : Nat) : List Pin :=
  t.pins.filter fun q => decide (q.va < a + n) && decide (a < q.va + q.size)
/-- The range lies outside the token's probed range. -/
def Token.outside (t : Token) (k : Fin 8) (a n : Nat) : Option TrapInfo :=
  if t.covers a n then none else some { c := .tkrange, detail := k.val, addr := word a }
/-- PROT for a range that lacks a permission or touches an IO page, with write in DETAIL. -/
def Token.refuses (t : Token) (rd wr : Bool) (a n : Nat) : Option TrapInfo :=
  if (t.pagesOf a n).any fun q => (rd && !q.r) || (wr && !q.w) || q.kind == .io then
    some { c := .prot, detail := if wr then 1 else 0, addr := word a }
  else none


/-- A record-issuing instruction on the record in v[a] (R23, R166): UNTYPED, which a record register without a tag raises
as well (R50), and TYPE, whatever `vl` is; then, which `vl` = 0 leaves out, ILLEGAL for the record's contents, the other
checks and the effect. -/
def State.issue (s : State) (op : Nat) (a : Fin 48) (bad : Bool) (untyped typ : Option TrapInfo) (k : Res) : Res :=
  s.userOnly op <|
    match firstTrap [untyped, s.recUntyped a, s.recType a, typ] with
    | some t => s.raise op t
    | none => if s.me.vl = 0 then s.retire else if bad then s.raise op (trap .illegal) else k
/-- The pages of a user token that a range touches. -/
def State.pages (s : State) (k : Fin 8) (a n : Nat) : List Pin := (s.me.tk[k]).pagesOf a n
/-- NOTOKEN or TKREVOKED of a token that a record names (R61). -/
def State.tokenTrap (s : State) (k : Nat) : Option TrapInfo := (s.me.tk[Fin.ofNat 8 k]).stateTrap (Fin.ofNat 8 k)

end Sys2Proof.Machine
end

