-- ==== Sys2Proof/Machine/Coding.lean ====
section
/-!
DEFINITION. Coding commands: opcode 0x75 and the steps of the LDPC and polar engines (R285 to R288). The tables of
TS 38.212 that the rules name are outside the spec: the short ones (lifting sizes, CRC polynomials, k0) stand here as the
standard gives them (PRESUMED, log entry 11), the long ones are constants of `Config`.
-/

namespace Sys2Proof.Machine

/-! ### The record (Tables 12-9, 12-10) -/

def codeParam (q : List Word) : Word := nth q 4
def codeF (q : List Word) : Nat := bits (nth q 5) 55 40
def codeNcb (q : List Word) : Nat := bits (nth q 5) 39 24
def codeE (q : List Word) : Nat := bits (nth q 5) 23 0
def codeTki (q : List Word) : Fin 8 := Fin.ofNat 8 (bits (nth q 6) 2 0)
def codeTko (q : List Word) : Fin 8 := Fin.ofNat 8 (bits (nth q 6) 6 4)
def codeTkh (q : List Word) : Fin 8 := Fin.ofNat 8 (bits (nth q 6) 10 8)
def codeTks (q : List Word) : Fin 8 := Fin.ofNat 8 (bits (nth q 6) 14 12)
def codeCk (q : List Word) : Nat := bits (nth q 7) 1 0
def codeTgt (q : List Word) : Nat := bits (nth q 7) 15 8
def ldBg2 (q : List Word) : Bool := bit (codeParam q) 0
def ldZc (q : List Word) : Nat := bits (codeParam q) 9 1
def ldItmax (q : List Word) : Nat := bits (codeParam q) 14 10
def ldHc (q : List Word) : Bool := bit (codeParam q) 15
def ldHw (q : List Word) : Bool := bit (codeParam q) 16
def ldCrc (q : List Word) : Nat := bits (codeParam q) 19 17
def ldQm (q : List Word) : Nat := bits (codeParam q) 23 20
def ldRv (q : List Word) : Nat := bits (codeParam q) 25 24
/-- KS and NC of R286. -/
def ldKs (q : List Word) : Nat := (if ldBg2 q then 10 else 22) * ldZc q
def ldNc (q : List Word) : Nat := (if ldBg2 q then 52 else 68) * ldZc q
def poLn (q : List Word) : Nat := bits (codeParam q) 3 0
def poK (q : List Word) : Nat := bits (codeParam q) 13 4
def poCrc (q : List Word) : Nat := bits (codeParam q) 16 14
def poIil (q : List Word) : Bool := bit (codeParam q) 17
def poIbil (q : List Word) : Bool := bit (codeParam q) 18
def poNpc (q : List Word) : Nat := bits (codeParam q) 20 19
def poWm (q : List Word) : Bool := bit (codeParam q) 21

/-- The M rows of the base graph: 46 or 42 (R286). -/
def ldRows (q : List Word) : List (List (Nat × Nat)) :=
  (List.range (if ldBg2 q then 42 else 46)).map fun r => (Config.baseGraph (ldBg2 q) (ldZc q)).getD r []
/-- A lifting size of TS 38.212 Table 5.3.2-1. -/
def isLifting (z : Nat) : Bool :=
  decide (2 ≤ z ∧ z ≤ 384) && [2, 3, 5, 7, 9, 11, 13, 15].any fun a => (List.range 8).any fun j => z == a * 2 ^ j
/-- CRC length and polynomial, its highest term included (TS 38.212 §5.1): none, CRC16, CRC24A, CRC24B for LDPC. -/
def ldPoly : Nat → Nat × Nat
  | 1 => (16, 0x11021) | 2 => (24, 0x1864CFB) | 3 => (24, 0x1800063) | _ => (0, 0)
/-- CRC6, CRC11, CRC24C for polar codes (TS 38.212 §5.1). -/
def poPoly : Nat → Nat × Nat
  | 1 => (6, 0x61) | 2 => (11, 0xE21) | 3 => (24, 0x1B2B117) | _ => (0, 0)
/-- The remainder of a bit string, its first bit the highest, under a CRC of a length and polynomial. -/
def crcRem (c : Nat × Nat) (bs : List Bool) : Nat :=
  bs.foldl (fun r b =>
    let x := 2 * r + (if b then 1 else 0)
    if x.testBit c.1 then x ^^^ c.2 else x) 0
/-- A CRC holds over a bit string that ends with it. -/
def crcHolds (c : Nat × Nat) (bs : List Bool) : Bool := c.1 != 0 && crcRem c bs == 0
/-- k0 (TS 38.212 Table 5.4.2.1-2). -/
def ldK0 (q : List Word) : Nat :=
  let z := ldZc q
  let part (n : Nat) : Nat := n * codeNcb q / ((if ldBg2 q then 50 else 66) * z) * z
  match ldRv q with
  | 0 => 0
  | 1 => part (if ldBg2 q then 13 else 17)
  | 2 => part (if ldBg2 q then 25 else 33)
  | _ => part (if ldBg2 q then 43 else 56)

/-- What a command does: its class, and for polar codes its direction. -/
inductive CodeKind where
  | ldpcDec | ldpcEnc | polarDec | polarEnc
deriving DecidableEq, Repr
def codeKind (cls : Fin 3) (q : List Word) : CodeKind :=
  match cls with
  | 0 => .ldpcDec
  | 1 => .ldpcEnc
  | _ => if Config.polarEncodes (q.map BitVec.toNat) then .polarEnc else .polarDec

/-- A field of the record outside Table 12-9 (R285). -/
def badCodeHead (q : List Word) : Bool :=
  ((List.range 4).any fun k => bits (nth q k) 63 56 != 0) || bits (nth q 5) 63 56 != 0 || codeE q == 0 ||
    bits (nth q 6) 63 15 != 0 || bit (nth q 6) 11 || bit (nth q 6) 7 || bit (nth q 6) 3 ||
    bits (nth q 7) 63 16 != 0 || bits (nth q 7) 7 2 != 0 || decide (1 < codeCk q) ||
    (codeCk q == 0 && (decide (31 < codeTgt q) || nth q 8 != 0)) || (List.range 7).any fun k => nth q (9 + k) != 0
/-- A PARAM outside Table 12-10 (R285). A polar K below the length of its CRC is refused only where TS 38.212 does not
allow that K for E; otherwise the payload has no bits (log entry 80). -/
def badParam (cls : Fin 3) (q : List Word) : Bool :=
  if cls = 2 then
    bits (codeParam q) 63 22 != 0 || codeF q != 0 || codeNcb q != 0 || nth q 2 != 0 ||
      poLn q != Config.polarN (poK q) (codeE q) (poPoly (poCrc q)).1 || !Config.polarAllows (poK q) (codeE q) ||
      (poPoly (poCrc q)).1 == 0
  else
    bits (codeParam q) 63 26 != 0 || !isLifting (ldZc q) || decide (3 < ldCrc q) || !([1, 2, 4, 6, 8, 10].contains (ldQm q)) ||
      codeE q % ldQm q != 0 || decide ((if ldBg2 q then 50 else 66) * ldZc q < codeNcb q) || decide (ldKs q ≤ codeF q) ||
      (!(ldHc q || ldHw q) && nth q 2 != 0) ||
      (if cls = 0 then ldItmax q == 0 else ldItmax q != 0 || ldHc q || ldHw q)

/-- Bits of the input or output that a decoder delivers or an encoder takes (R285, R288): of a polar code the payload, to
which an encoder attaches the CRC itself (log entry 56). -/
def codeBits (cls : Fin 3) (q : List Word) : Nat :=
  if cls = 2 then poK q - (poPoly (poCrc q)).1 else ldKs q - codeF q
def encodes (k : CodeKind) : Bool := k == .ldpcEnc || k == .polarEnc
/-- Bytes of the input and of the output. -/
def codeIn (cls : Fin 3) (q : List Word) : Nat :=
  if encodes (codeKind cls q) then ceilDiv (codeBits cls q) 8 else codeE q
def codeOut (cls : Fin 3) (q : List Word) : Nat :=
  if encodes (codeKind cls q) then ceilDiv (codeE q) 8 else ceilDiv (codeBits cls q) 8
/-- The command uses the HARQ buffer. -/
def usesHarq (cls : Fin 3) (q : List Word) : Bool := cls == 0 && (ldHc q || ldHw q)
/-- Bytes that a command counts to its target (R288). -/
def codeCount (cls : Fin 3) (q : List Word) : Nat :=
  codeOut cls q + 32 + (if cls = 0 ∧ ldHw q then codeNcb q else 0)

/-- A range that a command uses: token, address, bytes, and the permissions it needs. -/
structure Range where
  tk : Fin 8
  a : Nat
  n : Nat
  rd : Bool
  wr : Bool
deriving DecidableEq, Repr
/-- The ranges of a command (R285). -/
def codeRanges (cls : Fin 3) (q : List Word) : List Range :=
  [{ tk := codeTki q, a := (nth q 0).toNat, n := codeIn cls q, rd := true, wr := false },
   { tk := codeTko q, a := (nth q 1).toNat, n := codeOut cls q, rd := false, wr := true }] ++
  (if usesHarq cls q then [{ tk := codeTkh q, a := (nth q 2).toNat, n := codeNcb q, rd := false, wr := true }] else []) ++
  [{ tk := codeTks q, a := (nth q 3).toNat, n := 32, rd := false, wr := true }]

/-! ### Issue -/

/-- Engines of a class that the partition of the running hart holds (Table 1-5). -/
def State.codeEngines (s : State) (cls : Fin 3) : Nat :=
  let c := (s.prt s.myGang.p).cap1
  match cls with | 0 => bits c 39 36 | 1 => bits c 35 34 | _ => bits c 33 32
/-- The checks of R285 after the record's contents, in their order; `seaddr` is 0 for each (R316). Of several tokens that
fail, the first of input, output, HARQ and status is reported, and of several ranges the one at the lowest address,
which is the model's choice (log entry 21). -/
def State.codeChecks (s : State) (cls : Fin 3) (q : List Word) : Option TrapInfo :=
  let n : Fin 32 := Fin.ofNat 32 (codeTgt q)
  let rs := codeRanges cls q
  let byAddr := sorted rs fun x y => decide (x.a ≤ y.a)
  Option.map TrapInfo.bare <| firstTrap [
    failIf (codeCk q == 0 && (s.noBar n || !(s.myBar n).init)) (barTrap n),
    rs.findSome? fun r => s.tokenTrap r.tk.val,
    byAddr.findSome? fun r => (s.me.tk[r.tk]).outside r.tk r.a r.n,
    failIf ((nth q 3).toNat % 32 != 0) { c := .misalign, detail := 1 },
    byAddr.findSome? fun r => (s.me.tk[r.tk]).refuses r.rd r.wr r.a r.n]
/-- Accepted commands of a class that have not started (R285). -/
def codeQueue : Nat := 32
/-- The accepted command. -/
def State.newCoding (s : State) (cls : Fin 3) (q : List Word) : Coding :=
  let g := s.myGang
  { id := s.nextWork, p := g.p, job := g.job, gang := g.uid, cls := cls, rcd := q, started := false, stale := false,
    noCount := false
    inPins := s.pages (codeTki q) (nth q 0).toNat (codeIn cls q)
    outPins := s.pages (codeTko q) (nth q 1).toNat (codeOut cls q)
    harqPins := if usesHarq cls q then s.pages (codeTkh q) (nth q 2).toNat (codeNcb q) else []
    statPins := s.pages (codeTks q) (nth q 3).toNat 32 }
/-- CSUBMIT (R285): a release at system scope. It stalls while 32 accepted commands of the class have not started in the
partition, whose engines are its own (R19; log entry 44). -/
def execCsubmit (cls : Fin 3) (a : Fin 48) (s : State) : Res :=
  let q := s.record a 16
  s.issue 0x75 a (badCodeHead q || badParam cls q) none none <|
    if s.codeEngines cls = 0 then s.raise 0x75 { c := .engine, detail := 0 }
    else match s.codeChecks cls q with
      | some t => s.raise 0x75 t
      | none =>
        if codeQueue ≤ (s.codings.filter fun c => c.p == s.myGang.p && c.cls == cls && !c.started).length then
          s.block 0x75 .codingQueue none
        else s.pair <|
          let t := s.release
          ({ t with codings := t.codings ++ [s.newCoding cls q], nextWork := t.nextWork + 1 }).retire

/-! ### LDPC (R286) -/

def sat8 (x : Int) : Int := clampInt (-127) 127 x
def sat16 (x : Int) : Int := clampInt (-32768) 32767 x
/-- Signed bytes. -/
def int8s (bs : List Byte) : List Int := bs.map fun b => b.toInt
/-- Bits packed eight to a byte, the first in bit 7; unused bits are zero. -/
def packBits (n : Nat) (b : Nat → Bool) : List Byte :=
  (List.range (ceilDiv n 8)).map fun k =>
    BitVec.ofNat 8 ((List.range 8).foldl (fun acc i => 2 * acc + (if 8 * k + i < n && b (8 * k + i) then 1 else 0)) 0)
/-- Bit i of packed bytes. -/
def packedBit (bs : List Byte) (i : Nat) : Bool := (bs.getD (i / 8) 0).getLsbD (7 - i % 8)

/-- The first position from j on, around the circular buffer, that is no filler. -/
def skipFill (q : List Word) : Nat → Nat → Option Nat
  | 0, _ => none
  | n + 1, j =>
    let c := 2 * ldZc q + j
    if ldKs q - codeF q ≤ c ∧ c < ldKs q then skipFill q n ((j + 1) % codeNcb q) else some j
/-- The buffer positions of the E rate-matched bits, in order: none where the buffer holds nothing but fillers. -/
def selectFrom (q : List Word) : Nat → Nat → Option (List Nat)
  | 0, _ => some []
  | n + 1, j =>
    match skipFill q (codeNcb q) (j % max 1 (codeNcb q)) with
    | none => none
    | some k => (selectFrom q n ((k + 1) % codeNcb q)).map fun r => k :: r
def ldSelect (q : List Word) : Option (List Nat) := selectFrom q (codeE q) (ldK0 q)

/-- Values of an LDPC decoder: P by column, and R by row, column and z. -/
structure LdState where
  p : Array Int
  r : Array Int
/-- The place of an edge in R. -/
def edgeAt (zc row j z : Nat) : Nat := (row * 68 + j) * zc + z
/-- Sign with Sign(0) = +1. -/
def sgn (x : Int) : Int := if x < 0 then -1 else 1
/-- One check of row `row` at z. -/
def ldCheck (zc row z : Nat) (cols : List (Nat × Nat)) (x : LdState) : LdState :=
  let es := cols.map fun c =>
    let at_ := c.1 * zc + (z + c.2 % zc) % zc
    (c.1, at_, sat8 (x.p.getD at_ 0 - x.r.getD (edgeAt zc row c.1 z) 0))
  let m1 := (es.map fun e => e.2.2.natAbs).min?.getD 0
  let jm := ((es.filter fun e => e.2.2.natAbs == m1).map fun e => e.1).min?.getD 0
  let m2 := ((es.filter fun e => e.1 != jm).map fun e => e.2.2.natAbs).min?.getD 0
  let sg := es.foldl (fun acc e => acc * sgn e.2.2) 1
  es.foldl (fun x e =>
    let v := sg * sgn e.2.2 * ((3 * (if e.1 = jm then m2 else m1) / 4 : Nat) : Int)
    { p := x.p.setIfInBounds e.2.1 (sat8 (e.2.2 + v)), r := x.r.setIfInBounds (edgeAt zc row e.1 z) v }) x
/-- One iteration over every row. -/
def ldPass (zc : Nat) (rows : List (List (Nat × Nat))) (x : LdState) : LdState :=
  rows.zipIdx.foldl (fun x r => (List.range zc).foldl (fun x z => ldCheck zc r.2 z r.1 x) x) x
/-- H·x = 0 over GF(2). -/
def ldSyndrome (zc : Nat) (rows : List (List (Nat × Nat))) (p : Array Int) : Bool :=
  rows.all fun cols => (List.range zc).all fun z =>
    !(cols.foldl (fun acc c => acc != decide (p.getD (c.1 * zc + (z + c.2 % zc) % zc) 0 < 0)) false)
/-- At most n iterations after `it` of them: P, the iterations run, and whether the syndrome is zero. -/
def ldLoop (zc : Nat) (rows : List (List (Nat × Nat))) : Nat → Nat → LdState → Array Int × Nat × Bool
  | 0, it, x => (x.p, it, false)
  | n + 1, it, x =>
    let y := ldPass zc rows x
    if ldSyndrome zc rows y.p then (y.p, it + 1, true) else ldLoop zc rows n (it + 1) y

/-- What a command delivers: output, HARQ bytes, and the fields of its status record. -/
structure CodeRes where
  out : List Byte
  harq : List Byte
  st : Nat
  iter : Nat
  sz : Bool
  crcok : Bool
  path : Nat
  pm : Nat
deriving DecidableEq, Repr
/-- ST of a decode: CRC, or convergence where there is no CRC (Table 12-11). -/
def decodeSt (hasCrc crcok sz : Bool) : Nat := if hasCrc then (if crcok then 0 else 1) else if sz then 0 else 2
/-- De-interleaved LLRs (R286). -/
def ldDeint (q : List Word) (x : List Int) : List Int :=
  let w := codeE q / ldQm q
  (List.range (codeE q)).map fun k => x.getD (k / w + k % w * ldQm q) 0
/-- LDPC decoding; none where every position of the circular buffer is a filler. -/
def ldDecode (q : List Word) (inp harq : List Byte) : Option CodeRes :=
  (ldSelect q).map fun sel =>
    let zc := ldZc q
    let ncb := codeNcb q
    let h0 : Array Int := ((List.range ncb).map fun j => if ldHc q then (harq.getD j 0).toInt else 0).toArray
    let hb := (sel.zip (ldDeint q (int8s inp))).foldl (fun (a : Array Int) x => a.setIfInBounds x.1 (sat8 (a.getD x.1 0 + x.2))) h0
    let k := ldKs q - codeF q
    let p0 : Array Int := ((List.range (ldNc q)).map fun c =>
      if k ≤ c ∧ c < ldKs q then 127 else if 2 * zc ≤ c ∧ c < 2 * zc + ncb then hb.getD (c - 2 * zc) 0 else 0).toArray
    let rows := ldRows q
    let (p, it, z) := ldLoop zc rows (ldItmax q) 0 { p := p0, r := Array.replicate (rows.length * 68 * zc) 0 }
    let bs := (List.range k).map fun c => decide (p.getD c 0 < 0)
    let ok := crcHolds (ldPoly (ldCrc q)) bs
    { out := packBits k fun i => bs.getD i false, harq := hb.toList.map (BitVec.ofInt 8), st := decodeSt (ldCrc q != 0) ok z,
      iter := it, sz := z, crcok := ok, path := 0, pm := 0 }
/-- The codeword d: its first KS bits are IN and F zero fillers, the parity bits are those of TS 38.212 §5.3.2 (R286). -/
def ldWord (q : List Word) (inp : List Byte) : List Bool :=
  let sys := (List.range (ldKs q - codeF q)).map (packedBit inp) ++ List.replicate (codeF q) false
  sys ++ (Config.ldpcEncode (ldBg2 q) (ldZc q) sys).drop sys.length
/-- LDPC encoding; none where every position of the circular buffer is a filler. -/
def ldEncode (q : List Word) (inp : List Byte) : Option CodeRes :=
  (ldSelect q).map fun sel =>
    let d := ldWord q inp
    let e := sel.map fun j => d.getD (2 * ldZc q + j) false
    let w := codeE q / ldQm q
    { out := packBits (codeE q) fun x => e.getD (x % ldQm q * w + x / ldQm q) false, harq := [], st := 0, iter := 0,
      sz := false, crcok := false, path := 0, pm := 0 }

/-! ### Polar codes (R287) -/

/-- f and g of R287. -/
def polF (a b : Int) : Int := sgn a * sgn b * (min a.natAbs b.natAbs : Nat)
def polG (a b : Int) (u : Bool) : Int := sat16 (b + (if u then -a else a))
/-- u·G(2^n). -/
def polMul : Nat → List Bool → List Bool
  | 0, u => u
  | n + 1, u =>
    let h := 2 ^ n
    let a := u.take h
    let b := u.drop h
    polMul n (List.zipWith (· != ·) a b) ++ polMul n b
/-- Lam of R287 on 2^n values, for bit i after the bits u. -/
def polLam : Nat → List Int → Nat → List Bool → Int
  | 0, v, _, _ => v.getD 0 0
  | n + 1, v, i, u =>
    let h := 2 ^ n
    let a := v.take h
    let b := v.drop h
    if i < h then polLam n (List.zipWith polF a b) i u
    else
      let w := polMul n (u.take h)
      polLam n (List.zipWith (fun x y => polG x.1 x.2 y) (a.zip b) w) (i - h) (u.drop h)
/-- A path: its metric and its bits. -/
structure PolPath where
  pm : Nat
  u : List Bool
deriving DecidableEq, Repr
def PolPath.next (p : PolPath) (lam : Int) (b : Bool) : PolPath :=
  { pm := (p.pm + (if b != decide (lam < 0) then lam.natAbs else 0)) % 2 ^ 32, u := p.u ++ [b] }
/-- The paths after bit i, whose kind is given. -/
def polStep (q : List Word) (y : List Int) (i kind : Nat) (ps : List PolPath) : List PolPath :=
  let n := poLn q
  let lam (p : PolPath) : Int := polLam n y i p.u
  match kind with
  | 0 => ps.map fun p => p.next (lam p) false
  | 1 =>
    let from_ := Config.polarParity (poK q) (codeE q) n (poNpc q) (poWm q) i
    ps.map fun p => p.next (lam p) (from_.foldl (fun acc k => acc != p.u.getD k false) false)
  | _ =>
    let cs := (ps.map fun p => [p.next (lam p) false, p.next (lam p) true]).flatten
    (sorted cs fun a b => decide (a.pm ≤ b.pm)).take 8
/-- The positions 0 to N − 1 of a polar code. -/
def polN (q : List Word) : List Nat := List.range (2 ^ poLn q)
/-- Rate recovery of R287: y[0 .. N − 1]. -/
def polRecover (q : List Word) (x : List Int) : List Int :=
  (polN q).map fun i => match Config.polarSource (poK q) (codeE q) (poLn q) (poIbil q) i with
    | none => 32767
    | some l => l.foldl (fun acc k => sat16 (acc + x.getD k 0)) 0
/-- Polar decoding. -/
def polDecode (q : List Word) (inp : List Byte) : CodeRes :=
  let k := poK q
  let crc := poPoly (poCrc q)
  let kinds := (polN q).map (Config.polarKind k (codeE q) (poLn q) (poNpc q) (poWm q))
  let y := polRecover q (int8s inp)
  let ps := kinds.zipIdx.foldl (fun ps x => polStep q y x.2 x.1 ps) [{ pm := 0, u := [] }]
  let info (p : PolPath) : List Bool :=
    let b := ((p.u.zip kinds).filter fun x => decide (1 < x.2)).map Prod.fst
    if poIil q then
      let pi := (List.range k).map (Config.polarInterleave k)
      (List.range k).map fun j => b.getD (pi.idxOf j) false
    else b
  let best := (ps.zipIdx.find? fun x => crcHolds crc (info x.1))
  let (p, i) := best.getD (ps.headD { pm := 0, u := [] }, 0)
  let bs := (info p).take (k - crc.1)
  { out := packBits (k - crc.1) fun i => bs.getD i false, harq := [], st := if best.isSome then 0 else 1, iter := 0,
    sz := false, crcok := best.isSome, path := i, pm := p.pm }
/-- Polar encoding: IN holds the payload, and the engine attaches the CRC (log entry 56). -/
def polEncode (q : List Word) (inp : List Byte) : CodeRes :=
  let k := poK q
  let one (b : Bool) : Nat := if b then 1 else 0
  let e := Config.polarEncode [k, codeE q, poLn q, poCrc q, one (poIil q), one (poIbil q), poNpc q, one (poWm q)]
    ((List.range (k - (poPoly (poCrc q)).1)).map (packedBit inp))
  { out := packBits (codeE q) fun i => e.getD i false, harq := [], st := 0, iter := 0, sz := false, crcok := false,
    path := 0, pm := 0 }

/-! ### The coding agent (R288) -/

/-- A result that R286 does not state, because its reference never ends: every value is free. -/
def freeRes (cls : Fin 3) (q : List Word) (k : Nat) : CodeRes :=
  let w := (Config.freeWord k).toNat
  { out := freeBytes (k + 1) (codeOut cls q), harq := freeBytes (k + 1 + codeOut cls q) (codeNcb q), st := w % 3,
    iter := w / 4 % 32, sz := w.testBit 8, crcok := w.testBit 9, path := 0, pm := 0 }
/-- What a command delivers for its input and HARQ bytes. -/
def codeResult (cls : Fin 3) (q : List Word) (k : Nat) (inp harq : List Byte) : CodeRes :=
  match codeKind cls q with
  | .ldpcDec => (ldDecode q inp harq).getD (freeRes cls q k)
  | .ldpcEnc => (ldEncode q inp).getD (freeRes cls q k)
  | .polarDec => polDecode q inp
  | .polarEnc => polEncode q inp
/-- The status record (Table 12-11). -/
def CodeRes.status (r : CodeRes) (time : Nat) : List Byte :=
  let b (x : Bool) (i : Nat) : Nat := if x then 2 ^ i else 0
  bytesOfNat 8 (r.path % 8 * 2 ^ 15 + b r.crcok 14 + b r.sz 13 + r.iter % 32 * 256 + r.st) ++ bytesOfNat 8 time ++
    bytesOfNat 8 r.pm ++ bytesOfNat 8 0

/-- CODING_COMMAND_START (R285): an engine of the class starts an accepted command, whatever others have started (log
entry 44). -/
def execCodingCommandStart (cmd : Nat) (s : State) : Res :=
  .next { s with codings := s.codings.map fun c => if c.id = cmd then { c with started := true } else c }
/-- CODING_COMMAND_COMPLETE (R286 to R288): output, HARQ bytes and status are written, and the target is told. -/
def execCodingCommandComplete (cmd : Nat) (s : State) : Res :=
  match s.codings.find? fun c => c.id == cmd with
  | none => .next s
  | some c =>
    if !c.started then .next s
    else
      let q := c.rcd
      let hc := c.cls == 0 && ldHc q
      let (inp, s) := s.readVia c.inPins (nth q 0).toNat (codeIn c.cls q)
      let (harq, s) := if hc then s.readVia c.harqPins (nth q 2).toNat (codeNcb q)
        else ({ bytes := [], ok := true, poison := false }, s)
      let bad := inp.poison || harq.poison
      let r0 := codeResult c.cls q s.freeCtr inp.bytes harq.bytes
      let r : CodeRes := if bad then
          { out := [], harq := [], st := 3, iter := 0, sz := false, crcok := false, path := 0, pm := 0 } else r0
      let r := if c.stale then { r with st := 4 } else r
      let s := { s with freeCtr := s.freeCtr + 1 + codeOut c.cls q + codeNcb q }
      let s := if bad then s else s.writeVia c.p c.job c.outPins (nth q 1).toNat r.out
      let s := if !bad && c.cls == 0 && ldHw q then s.writeVia c.p c.job c.harqPins (nth q 2).toNat r.harq else s
      let s := s.writeVia c.p c.job c.statPins (nth q 3).toNat (r.status s.dtime)
      let s := { s with codings := s.codings.filter fun x => x.id != cmd }
      if codeCk q = 1 then .next (s.postN c.p (codeTgt q) (nth q 8))
      else .next (if c.noCount then s else s.landBar c.gang (Fin.ofNat 32 (codeTgt q)) (codeCount c.cls q))

end Sys2Proof.Machine
end

