-- ==== Sys2Proof/Machine/Complex.lean ====
section
/-!
DEFINITION. Complex arithmetic and signal processing: opcodes 0x35 and 0x36 (R84 to R89, R213 to R217).
-/

namespace Sys2Proof.Machine

/-- One signed product of components, by their numbers: 0 and 1 are the real and imaginary parts of the first operand,
2 and 3 of the second, 4 and 5 of the third. -/
structure Mono where
  neg : Bool
  fs : List Nat
/-- A component expression (Table 4-4): a sum of products. -/
abbrev CExpr := List Mono
def pos (fs : List Nat) : Mono := { neg := false, fs := fs }
def neg (fs : List Nat) : Mono := { neg := true, fs := fs }
/-- An expression formed exactly and rounded once, or reduced under R74, on the component values of a tag (R84). -/
def CExpr.eval (sat : Bool) (rm : Rm) (t : Tag) (v : Nat → Nat) (x : CExpr) : Nat × Flags :=
  match tagKind t with
  | .cflt f => f.sum rm (x.map fun m => { neg := m.neg, fs := m.fs.map fun i => f.read (v i) })
  | _ =>
    let w := tagWidth t
    (intFit true sat w (x.foldl (fun acc m =>
      let p := m.fs.foldl (fun p i => p * intVal true w (v i)) 1
      if m.neg then acc - p else acc + p) 0), 0)
/-- The components of complex sub-element i of an element, by number from 0. -/
def comp (t : Tag) (x : Word) (i c : Nat) : Nat := lane (tagWidth t) x (2 * i + c)
/-- Components numbered across three elements. -/
def comps (t : Tag) (x y z : Word) (i n : Nat) : Nat :=
  comp t (if n < 2 then x else if n < 4 then y else z) i (n % 2)
/-- An element whose complex sub-elements have the given real and imaginary expressions. -/
def byExpr (sat : Bool) (rm : Rm) (t : Tag) (x y z : Word) (re im : CExpr) : Word × Flags :=
  byLane (tagWidth t) fun l => CExpr.eval sat rm t (comps t x y z (l / 2)) (if l % 2 = 0 then re else im)

/-- A function of opcode 0x35. -/
def State.vcpx (s : State) (q : VMod) (d : VdOp) (srcs : List VsOp) (f : Tag → (Nat → Word) → Word × Flags) : Res :=
  s.perElem 0x35 q d srcs isComplex isCI fun _ t _ x => f t x
/-- The product a × b as component expressions. -/
def mulRe (a b : Nat) : CExpr := [pos [a, b], neg [a + 1, b + 1]]
def mulIm (a b : Nat) : CExpr := [pos [a, b + 1], pos [a + 1, b]]
/-- An expression with every term's sign changed. -/
def CExpr.flip (x : CExpr) : CExpr := x.map fun m => { m with neg := !m.neg }
/-- VCMUL (Table 4-4). -/
def execVcmul (q : VMod) (d : VdOp) (a b : VsOp) (s : State) : Res :=
  s.vcpx q d [a, b] fun t x => byExpr q.sat (s.rmode q.rm) t (x 0) (x 1) 0 (mulRe 0 2) (mulIm 0 2)
/-- VCMAC (Table 4-4). -/
def execVcmac (q : VMod) (d : VdOp) (a b c : VsOp) (s : State) : Res :=
  s.vcpx q d [a, b, c] fun t x =>
    byExpr q.sat (s.rmode q.rm) t (x 0) (x 1) (x 2) (pos [4] :: mulRe 0 2) (pos [5] :: mulIm 0 2)
/-- A component moved, with its sign changed or not: no rounding, NaNs canonical (R84, R213). -/
def moveComp (sat flip : Bool) (t : Tag) (x : Nat) : Nat × Flags :=
  if flip then signLane false sat t x
  else match tagKind t with
    | .cflt f => (f.canon x, 0)
    | _ => (x, 0)
/-- VCONJ (Table 4-4). -/
def execVconj (q : VMod) (d : VdOp) (a : VsOp) (s : State) : Res :=
  s.vcpx q d [a] fun t x => byLane (tagWidth t) fun l => moveComp q.sat (l % 2 == 1) t (lane (tagWidth t) (x 0) l)
/-- VCABS2 (Table 4-4): the imaginary component is +0. -/
def execVcabs2 (q : VMod) (d : VdOp) (a : VsOp) (s : State) : Res :=
  s.vcpx q d [a] fun t x => byLane (tagWidth t) fun l =>
    if l % 2 = 1 then (0, 0)
    else CExpr.eval q.sat (s.rmode q.rm) t (comps t (x 0) 0 0 (l / 2)) [pos [0, 0], pos [1, 1]]
/-- VCROT by k quarter turns (Table 4-4). -/
def execVcrot (q : VMod) (k : Fin 4) (d : VdOp) (a : VsOp) (s : State) : Res :=
  s.vcpx q d [a] fun t x => byLane (tagWidth t) fun l =>
    let c := l % 2
    let flip := if c = 0 then k == 1 || k == 2 else k == 2 || k == 3
    moveComp q.sat flip t (comp t (x 0) (l / 2) ((c + k.val) % 2))

/-! ### Signal processing: opcode 0x36 -/

/-- VBFLY of span 2^h (R85, R214). -/
def execVbfly (q : VMod) (h : Fin 7) (d : VdOp) (a b : VsOp) (s : State) : Res :=
  let n := 2 ^ h.val
  s.vec
    { op := 0x36, srcs := [a, b], d := d, last := some (vaLast q.p), check := classCheck [a, b] isComplex isCI q.sat,
      badvl := fun _ vl => vl % (2 * n) != 0,
      res := fun u t vl =>
        let rm := u.rmode q.rm
        u.elementwise q vl fun e =>
          let low := e % (2 * n) < n
          let i := if low then e else e - n
          let re := mulRe 4 2
          let im := mulIm 4 2
          byExpr q.sat rm t (u.vel a i) (u.vel a (i + n)) (u.vel b i)
            (pos [0] :: if low then re else CExpr.flip re) (pos [1] :: if low then im else CExpr.flip im) }

/-- A complex value as binary32 patterns, with flags of the roundings that gave it. -/
structure C32 where
  re : Nat
  im : Nat
  fl : Flags
/-- RN32 of component expressions of up to three values (R86). -/
def c32Expr (x y z : C32) (re im : CExpr) : C32 :=
  let v (n : Nat) : Nat := let w := if n < 2 then x else if n < 4 then y else z; if n % 2 = 0 then w.re else w.im
  let r := CExpr.eval false .rne .cf32 v re
  let i := CExpr.eval false .rne .cf32 v im
  { re := r.1, im := i.1, fl := r.2 ||| i.2 }
/-- Element (r, c) after a step of pivot p on a matrix, with the flags of its own roundings and of d, q and
inv (R86). -/
def gjElem (p : Nat) (m : Nat → Nat → C32) (r c : Nat) : C32 :=
  let piv := m p p
  let dd := CExpr.eval false .rne .cf32 (fun i => if i % 2 = 0 then piv.re else piv.im) [pos [0, 0], pos [1, 1]]
  let qq := fmt32.div .rne (fmt32.read 0x3F800000) (fmt32.read dd.1)
  let qc : C32 := { re := qq.1, im := 0, fl := 0 }
  let inv := c32Expr piv qc qc [pos [0, 2]] [neg [1, 2]]
  let common := dd.2 ||| qq.2 ||| inv.fl
  let row (k : Nat) : C32 := c32Expr (m p k) inv inv (mulRe 0 2) (mulIm 0 2)
  let f := m r p
  let x :=
    if r = p then (if c = p then inv else row c)
    else if c = p then c32Expr f inv inv (CExpr.flip (mulRe 0 2)) (CExpr.flip (mulIm 0 2))
    else c32Expr (m r c) f (row c) (pos [0] :: CExpr.flip (mulRe 2 4)) (pos [1] :: CExpr.flip (mulIm 2 4))
  { x with fl := x.fl ||| common }
/-- The check of an instruction of opcode 0x36 that takes one tag and gives another. -/
def oneTag (a : VrOp) (t r : Tag) (tags : List (Option Tag)) : Except TrapInfo (Tag × Tag) :=
  if tags = [some t] then .ok (t, r) else .error (typeTrap .type (.vec a))
/-- VGJSTEP on matrices of order 2^(n+1), pivot p (R86, R215). -/
def execVgjstep (q : VMod) (n : Fin 3) (p : Fin 8) (d : VdOp) (a : VrOp) (s : State) : Res :=
  let o := 2 ^ (n.val + 1)
  s.vec
    { op := 0x36, srcs := [.vec a], d := d, last := some (vaLast q.p), check := oneTag a .cf32 .cf32,
      badvl := fun _ vl => vl % (o * o) != 0,
      res := fun u _ vl => u.elementwise q vl fun e =>
        let base := e / (o * o) * (o * o)
        let m (r c : Nat) : C32 :=
          let x := u.vel (.vec a) (base + r * o + c)
          { re := lane 32 x 0, im := lane 32 x 1, fl := 0 }
        let y := gjElem p.val m (e % (o * o) / o) (e % o)
        (ofLanes 32 fun l => if l = 0 then y.re else y.im, y.fl) }

/-- Byte j of a register. -/
def VReg.byte (v : VReg) (j : Nat) : Nat := lane 8 (vget v.el (j / 8) 0) (j % 8)
/-- The `vl` that BADVL refuses for PRBs of 1 + 3w bytes (R216). -/
def prbBad (w vl : Nat) : Bool := vl % 6 != 0 || decide (1024 < vl / 6 * (1 + 3 * w))
/-- The w-bit field that starts at bit k of a big-endian stream of bytes (R87). -/
def beField (by_ : Nat → Nat) (w k : Nat) : Nat :=
  (List.range w).foldl (fun acc i => 2 * acc + by_ ((k + i) / 8) / 2 ^ (7 - (k + i) % 8) % 2) 0
/-- VBFPEXP (R87, R88, R216). -/
def execVbfpexp (q : VMod) (w : Fin 16) (d : VdOp) (a : VrOp) (s : State) : Res :=
  let wd := w.val + 1
  s.vec
    { op := 0x36, srcs := [.vec a], d := d, last := some (vaLast q.p), check := oneTag a .n8x8 .ci16x2,
      badvl := fun _ vl => prbBad wd vl,
      res := fun u _ vl =>
        let x := u.me.v[a]
        u.elementwise q vl fun e =>
          let b := e / 6 * (1 + 3 * wd)
          let ex := x.byte b % 16
          (ofLanes 16 fun l =>
            let v := signed wd (beField (fun i => x.byte (b + 1 + i)) wd ((4 * (e % 6) + l) * wd))
            wrap64 (clampInt (-32768) 32767 (v * (2 ^ ex : Nat))) % 2 ^ 16, 0) }
/-- q(c, e) of R89. -/
def bfpQ (c : Int) (e : Nat) : Int := if e = 0 then c else (c + (2 ^ (e - 1) : Nat)) / (2 ^ e : Nat)
/-- The exponent of a PRB: the smallest at which every value fits, else 15 (R89). -/
def bfpExp (w : Nat) (cs : List Int) : Nat :=
  ((List.range 16).find? fun e => cs.all fun c => decide (intLo true w ≤ bfpQ c e ∧ bfpQ c e ≤ intHi true w)).getD 15
/-- VBFPCMP (R87, R89, R217): elements from E up keep their bits. -/
def execVbfpcmp (q : VMod) (w : Fin 16) (d : VdOp) (a : VrOp) (s : State) : Res :=
  let wd := w.val + 1
  let n := 1 + 3 * wd
  s.vec
    { op := 0x36, srcs := [.vec a], d := d, last := some (vaLast q.p), check := oneTag a .ci16x2 .n8x8,
      badvl := fun _ vl => prbBad wd vl,
      res := fun u _ vl =>
        let x := u.me.v[a]
        let cs (p : Nat) : List Int := (List.range 24).map fun k => signed 16 (lane 16 (vget x.el (6 * p + k / 4) 0) (k % 4))
        let ex (p : Nat) : Nat := bfpExp wd (cs p)
        -- value k of PRB p, as w bits
        let val (p k : Nat) : Nat :=
          wrap64 (clampInt (intLo true wd) (intHi true wd) (bfpQ ((cs p).getD k 0) (ex p))) % 2 ^ wd
        let byte (j : Nat) : Nat :=
          let p := j / n
          if vl / 6 * n ≤ j then 0
          else if j % n = 0 then ex p
          else (List.range 8).foldl (fun acc i =>
            let k := 8 * (j % n - 1) + i
            2 * acc + val p (k / wd) / 2 ^ (wd - 1 - k % wd) % 2) 0
        { put := fun e => if e < ceilDiv (vl / 6 * n) 8 then some (ofLanes 8 fun i => byte (8 * e + i)) else none,
          fl := 0, mask := none } }

end Sys2Proof.Machine
end

