-- ==== Sys2Proof/Machine/Control.lean ====
section
/-!
DEFINITION. Control transfer: opcodes 0x10 to 0x14 (R154, R184, R185).
-/

namespace Sys2Proof.Machine

/-- The target of a J-format transfer (R154). -/
def State.target (s : State) (off : BitVec 39) : Word := s.pcv + 8 * off.signExtend 64
/-- Control goes to the target when the condition holds, else to the next instruction (R184). -/
def State.branch (s : State) (c : Bool) (t : Word) : Res := if c then .next (s.goto t) else s.retire
/-- Bits 0 to n − 1 of a mask. -/
def lowMask (n : Nat) : MaskReg := BitVec.ofNat 128 (2 ^ n - 1)

/-- B (Table 8-7). -/
def execBr (cc : Cond) (a b : GOp) (off : BitVec 39) (s : State) : Res :=
  s.branch (Cond.holds cc (s.rg a) (s.rg b)) (s.target off)
/-- JAL (Table 8-7). -/
def execJal (a : GOp) (off : BitVec 39) (s : State) : Res := .next ((s.wg a (s.pcv + 8)).goto (s.target off))
/-- JALR (Table 8-7): a target that is no multiple of 8 raises MISALIGN with no effect. -/
def execJalr (d a : GOp) (imm : BitVec 36) (s : State) : Res :=
  let t := s.rg a + imm.signExtend 64
  if t.toNat % 8 ≠ 0 then s.raise 0x12 (trap .misalign) else .next ((s.wg d (s.pcv + 8)).goto t)
/-- LOOP (Table 8-7). -/
def execLoop (a : GOp) (off : BitVec 39) (s : State) : Res :=
  let v := s.rg a - 1
  (s.wg a v).branch (v != 0) (s.target off)
/-- The mask conditions of R185. -/
def MCond.holds (c : MCond) (m full : MaskReg) : Bool :=
  match c with
  | .any => m &&& full != 0
  | .noneSet => m &&& full == 0
  | .all => m &&& full == full
  | .nall => m &&& full != full
/-- BM (R185); a mask register in a field of the supervisor thread is ILLEGAL (R310). -/
def execBm (cc : MCond) (a : MOp) (off : BitVec 39) (s : State) : Res :=
  if s.atS ∧ a.isSome then s.raise 0x14 (trap .illegal)
  else s.branch (MCond.holds cc (s.mreg a) (lowMask s.me.vl)) (s.target off)

end Sys2Proof.Machine
end

