-- ==== Sys2Proof/Machine/Copies.lean ====
section
/-!
DEFINITION. Copies: opcode 0x6D and the steps of the copy engines (R278 to R281).
-/

namespace Sys2Proof.Machine

/-! ### The record (Tables 12-4 to 12-6) -/

/-- Bytes of a source element, by ESZ. -/
def copyEsz (q : List Word) : Nat := 2 ^ bits (nth q 2) 3 0
def copyConv (q : List Word) : Nat := bits (nth q 2) 6 4
/-- Bytes of a destination element (Table 12-6). -/
def copyDsz (q : List Word) : Nat :=
  match copyConv q with | 1 => 2 | 2 => 4 | 3 => 1 | 4 => 2 | _ => copyEsz q
def copySsp (q : List Word) : Bool := bit (nth q 2) 8
def copyDsp (q : List Word) : Bool := bit (nth q 2) 12
def copyStk (q : List Word) : Fin 8 := Fin.ofNat 8 (bits (nth q 2) 11 9)
def copyDtk (q : List Word) : Fin 8 := Fin.ofNat 8 (bits (nth q 2) 15 13)
def copyCmpl (q : List Word) : Nat := bits (nth q 2) 17 16
def copyCtgt (q : List Word) : Nat := bits (nth q 2) 31 24
/-- Extent and strides of dimension k (Table 12-5). -/
def copyExt (q : List Word) (k : Nat) : Nat := bits (nth q (9 + 2 * k)) 63 48 * 65536 + bits (nth q (8 + 2 * k)) 63 48
def copySs (q : List Word) (k : Nat) : Int := signed 48 (bits (nth q (8 + 2 * k)) 47 0)
def copyDs (q : List Word) (k : Nat) : Int := signed 48 (bits (nth q (9 + 2 * k)) 47 0)
/-- The six dimensions. -/
def dims : List Nat := List.range 6
/-- Elements of a copy. -/
def copyTotal (q : List Word) : Nat := dims.foldl (fun n k => n * copyExt q k) 1
/-- The source element size that a conversion takes, as ESZ codes it. -/
def convSource : Nat → Option Nat
  | 1 => some 2 | 2 => some 1 | 3 => some 1 | 4 => some 0 | _ => none
/-- A record that R278 refuses. -/
def badCopy (q : List Word) : Bool :=
  let addrBad (x : Word) (sp : Bool) : Bool := if sp then bits x 63 21 != 0 else bits x 63 56 != 0
  addrBad (nth q 0) (copySsp q) || addrBad (nth q 1) (copyDsp q) || bits (nth q 2) 63 32 != 0 ||
    bits (nth q 2) 23 18 != 0 || bit (nth q 2) 7 || copyCmpl q == 3 || decide (4 < copyConv q) ||
    decide (4 < bits (nth q 2) 3 0) || (copySsp q && bits (nth q 2) 11 9 != 0) ||
    (copyDsp q && bits (nth q 2) 15 13 != 0) || (copyCmpl q != 2 && nth q 3 != 0) ||
    ((List.range 4).any fun k => nth q (4 + k) != 0) || (dims.any fun k => copyExt q k == 0) ||
    decide (2 ^ 47 < copyTotal q * copyDsz q) ||
    (convSource (copyConv q)).any (fun e => e != bits (nth q 2) 3 0) ||
    (copyCmpl q == 0 && decide (31 < copyCtgt q)) || (copyCmpl q == 1 && decide (7 < copyCtgt q))

/-! ### Boxes and checks (R279) -/

/-- One side of a copy: in scratchpad or through a token, its box, element size, base and strides. -/
structure Side where
  sp : Bool
  tk : Fin 8
  wr : Bool
  lo : Int
  hi : Int
  size : Nat
  base : Nat
  strides : List (Nat × Int)
deriving DecidableEq, Repr
/-- The side with its box, computed exactly. -/
def sideOf (sp : Bool) (tk : Fin 8) (wr : Bool) (base size : Nat) (st : List (Nat × Int)) : Side :=
  { sp := sp, tk := tk, wr := wr, size := size, base := base, strides := st
    lo := st.foldl (fun a x => a + min 0 (((x.1 : Int) - 1) * x.2)) base
    hi := st.foldl (fun a x => a + max 0 (((x.1 : Int) - 1) * x.2)) base + size - 1 }
def copySrc (q : List Word) : Side :=
  sideOf (copySsp q) (copyStk q) false (nth q 0).toNat (copyEsz q) (dims.map fun k => (copyExt q k, copySs q k))
def copyDst (q : List Word) : Side :=
  sideOf (copyDsp q) (copyDtk q) true (nth q 1).toNat (copyDsz q) (dims.map fun k => (copyExt q k, copyDs q k))
/-- The box touches addresses a to b - 1 of scratchpad space. -/
def Side.touches (x : Side) (a b : Nat) : Bool := x.sp && decide (x.lo < b) && decide ((a : Int) ≤ x.hi)
/-- A trap of a box, with its lowest address. -/
def Side.trap (x : Side) (c : Cause) (detail : Nat) : TrapInfo := { c := c, detail := detail, addr := word (wrap64 x.lo) }
def Side.dir (x : Side) : Nat := if x.wr then 1 else 0
/-- The ring that DETAIL of a RING trap names for a box: that of the window in which its lowest address lies, or would lie
(log entry 22). -/
def Side.ringNo (x : Side) : Fin 8 := Fin.ofNat 8 (wrap64 x.lo / 0x10000)
/-- Where the producer window of a ring begins. -/
def prodWindow (r : Nat) : Nat := 0x100000 + r * 0x10000

/-- Check 1 of R279. -/
def State.copyBarrier (s : State) (q : List Word) : Option TrapInfo :=
  let n : Fin 32 := Fin.ofNat 32 (copyCtgt q)
  failIf (copyCmpl q == 0 && (s.noBar n || !(s.myBar n).init)) (barTrap n)
/-- Check 2 of R279, with the ERR of R123. -/
def State.copyRing (s : State) (q : List Word) : Option TrapInfo :=
  let r : Fin 8 := Fin.ofNat 8 (copyCtgt q)
  let g := s.ring s.cur.gang r
  let d := copyDst q
  let x := copySrc q
  firstTrap [
    failIf (copyCmpl q == 1 && (decide (2 * s.myGang.hn ≤ r.val) || !g.cfg || g.kind != 1 || g.err || !d.sp ||
      decide (d.lo < prodWindow r.val) || decide ((prodWindow r.val + g.size : Int) ≤ d.hi))) (ringBad r),
    failIf (copyCmpl q != 1 && d.touches 0x100000 0x180000) (ringBad d.ringNo),
    failIf (d.touches 0x180000 0x200000) (ringBad d.ringNo),
    failIf (x.touches 0x100000 0x200000) (ringBad x.ringNo)]
/-- Check 3 for a side. -/
def State.sideToken (s : State) (x : Side) : Option TrapInfo := if x.sp then none else s.tokenTrap x.tk.val
/-- Check 4 for a side: a destination in a producer window was checked before. -/
def State.sideRange (s : State) (x : Side) (window : Bool) : Option TrapInfo :=
  if x.sp then
    failIf (!window && (decide (x.lo < 0) || decide ((s.myGang.spsize : Int) ≤ x.hi))) (x.trap .sprange x.dir)
  else
    let t := s.me.tk[x.tk]
    failIf (decide (x.lo < t.base) || decide ((t.base + t.len : Int) ≤ x.hi)) (x.trap .tkrange x.tk.val)
/-- Check 5 for a side. -/
def Side.misaligned (x : Side) : Option TrapInfo :=
  let m := if x.sp then min x.size 4 else x.size
  failIf (x.base % m != 0 || x.strides.any fun y => decide (1 < y.1) && y.2 % (m : Int) != 0) (x.trap .misalign x.dir)
/-- Check 6 for a side. -/
def State.sideProt (s : State) (x : Side) : Option TrapInfo :=
  if x.sp then none
  else ((s.me.tk[x.tk]).refuses (!x.wr) x.wr x.lo.toNat (x.hi + 1 - x.lo).toNat).map fun _ => x.trap .prot x.dir
/-- The checks of R279, in their order. Where both sides fail one check, the source is reported: R279 names no side (log
entry 67). -/
def State.copyChecks (s : State) (q : List Word) : Option TrapInfo :=
  let a := copySrc q
  let b := copyDst q
  firstTrap [s.copyBarrier q, s.copyRing q, s.sideToken a, s.sideToken b, s.sideRange a false,
    s.sideRange b (copyCmpl q == 1), a.misaligned, b.misaligned, s.sideProt a, s.sideProt b]
/-- The pages of a side's box (R228). -/
def State.sidePins (s : State) (x : Side) : List Pin :=
  if x.sp then [] else s.pages x.tk x.lo.toNat (x.hi + 1 - x.lo).toNat

/-- Copies that a cluster holds at once (R278). -/
def clusterCopies : Nat := 64
/-- What an issue must wait for (R121, R278). -/
def State.copyStall (s : State) (q : List Word) : Option WaitFor :=
  let r : Fin 8 := Fin.ofNat 8 (copyCtgt q)
  if copyCmpl q = 1 ∧ (s.ring s.cur.gang r).full then some (.ringFull r)
  else if clusterCopies ≤ (s.copies.filter fun c => c.cluster == s.myGang.core / 8 && !c.cancelled).length then
    some .copyQueue
  else none
/-- The copy that the cluster's engine accepts. -/
def State.newCopy (s : State) (q : List Word) : Copy :=
  let g := s.myGang
  let r : Fin 8 := Fin.ofNat 8 (copyCtgt q)
  let ring := s.ring s.cur.gang r
  let i := ring.stageNo ring.iss
  { id := s.nextWork, p := g.p, job := g.job, gang := g.uid, cluster := g.core / 8, rcd := q,
    srcPins := s.sidePins (copySrc q), dstPins := s.sidePins (copyDst q),
    stage := if copyCmpl q = 1 then some (r, i, ring.base + i.val * ring.size) else none, iss := ring.iss,
    pos := 0, total := copyTotal q, poisoned := false, cancelled := false }
/-- TCOPY (R278, R279): a release at system scope. -/
def execTcopy (a : Fin 48) (s : State) : Res :=
  let q := s.record a 20
  s.issue 0x6D a (badCopy q) none none <|
    match s.copyChecks q with
    | some t => s.raise 0x6D t
    | none => match s.copyStall q with
      | some w => s.block 0x6D w none
      | none => s.pair <|
        let t := s.release
        ({ t with copies := t.copies ++ [s.newCopy q], nextWork := t.nextWork + 1 }).retire

/-! ### The copy agent (R280, R281) -/

/-- Σ ik·strk of element e: dimension 0 is innermost. -/
def strideSum : List (Nat × Int) → Nat → Int
  | [], _ => 0
  | (n, st) :: r, e => (e % n : Nat) * st + strideSum r (e / n)
/-- The address of element e on a side. -/
def Side.elem (x : Side) (e : Nat) : Nat := (x.base + strideSum x.strides e).toNat
/-- Conversion of an element (Table 12-6): canonical NaNs, subnormals kept, no flags. -/
def copyConvert (q : List Word) (v : Nat) : Nat :=
  match copyConv q with
  | 1 => (fmtBf.deliver .rne false (fmt32.read v).exact).1
  | 2 => (fmt32.deliver .rne false (fmtBf.read v).exact).1
  | 3 => (fmtE4.deliver .rne true (fmtBf.read v).exact).1
  | 4 => (fmtBf.deliver .rne false (fmtE4.read v).exact).1
  | _ => v
/-- An element read at a copy's source: its bytes, whether it was poisoned, and the state after the read. -/
def State.copyRead (s : State) (c : Copy) (a n : Nat) : List Byte × Bool × State :=
  if copySsp c.rcd then ((s.gang c.gang).spRead a n, (s.gang c.gang).spPoisoned a n, s)
  else
    let (x, t) := s.readVia c.srcPins a n
    (x.bytes, x.poison, t)
/-- An element written at a copy's destination. -/
def State.copyWrite (s : State) (c : Copy) (a : Nat) (bs : List Byte) : State :=
  match c.stage with
  | some (r, _, base) => s.spWrite c.gang (base + (a - prodWindow r.val)) bs
  | none => if copyDsp c.rcd then s.spWrite c.gang a bs else s.writeVia c.p c.job c.dstPins a bs
/-- k bytes counted to a copy's target (R121, R276, R281). -/
def State.copyCount (s : State) (c : Copy) (k : Nat) : State :=
  if c.cancelled then s
  else match copyCmpl c.rcd, c.stage with
    | 0, _ => s.landBar c.gang (Fin.ofNat 32 (copyCtgt c.rcd)) k
    | 1, some (r, _, _) => s.setRing c.gang r ((s.ring c.gang r).land c.iss k)
    | _, _ => s
/-- One element of a copy (R280, R281). -/
def State.copyElem (s : State) (c : Copy) : Copy × State :=
  let n := copyDsz c.rcd
  let d := { c with pos := c.pos + 1 }
  if c.poisoned then (d, s.copyCount c n)
  else
    let (bs, bad, t) := s.copyRead c ((copySrc c.rcd).elem c.pos) (copyEsz c.rcd)
    if bad then
      ({ d with poisoned := true },
       ((if c.cancelled then t else t.failJob c.p c.job Cause.poison.code)).copyCount c n)
    else
      let v := bytesOfNat n (copyConvert c.rcd (natOfBytes bs))
      (d, (t.copyWrite c ((copyDst c.rcd).elem c.pos) v).copyCount c n)
/-- Elements of a copy, n of them. -/
def State.copyElems (s : State) (c : Copy) : Nat → Copy × State
  | 0 => (c, s)
  | n + 1 => let (d, t) := s.copyElem c; t.copyElems d n
/-- COPY_BYTES_LAND (R280): the next n elements of a copy, as far as it has them. -/
def execCopyBytesLand (copy n : Nat) (s : State) : Res :=
  match s.copies.find? fun c => c.id == copy with
  | none => .next s
  | some c =>
    let (d, t) := s.copyElems c (min n (c.total - c.pos))
    .next { t with copies := t.copies.map fun x => if x.id = copy then { d with srcPins := x.srcPins, dstPins := x.dstPins } else x }
/-- COPY_COMPLETE (R280, R281): with every byte performed, PAY is posted on the channel; a cancelled copy goes, and posts
nothing. -/
def execCopyComplete (copy : Nat) (s : State) : Res :=
  match s.copies.find? fun c => c.id == copy with
  | none => .next s
  | some c =>
    let t := { s with copies := s.copies.filter fun x => x.id != copy }
    if c.cancelled then .next t
    else if c.pos < c.total then .next s
    else .next (if copyCmpl c.rcd = 2 then t.postN c.p (copyCtgt c.rcd) (nth c.rcd 3) else t)

end Sys2Proof.Machine
end

