-- ==== Sys2Proof/Machine/Clock.lean ====
section
/-!
DEFINITION. The clocks: cycles, `dtime` and its slew (R3, R69, R386), the hold timer (R323), the handler's cycles (R315),
and the posted elements of `VSTA` (R243), all of which move with every step.
-/

namespace Sys2Proof.Machine

/-- Parts of a nanosecond in which `dtime` is carried: 2^-40 · 10^-4 ns, so that both rates of R386 are whole. -/
def dfracUnit : Nat := 2 ^ 40 * 10000
/-- TFADJ clamped to ±500 ppm (R386). -/
def State.freqAdj (s : State) : Int := clampInt (-549755814) 549755814 s.tfadj.toInt
/-- `dtime` after n nanoseconds of the device oscillator (R386). -/
def State.advanceTime (s : State) (n : Nat) : State :=
  let m : Int := min n s.trem.natAbs
  let slew : Int := if 0 ≤ s.trem then m else -m
  let total : Int := s.dfrac + (n : Int) * dfracUnit + (n : Int) * s.freqAdj * 10000 + slew * 2 ^ 40
  { s with dtime := s.dtime + (total / dfracUnit).toNat, dfrac := (total % dfracUnit).toNat, trem := s.trem - slew }
/-- The clock after k cycles. -/
def State.advance (s : State) (k : Nat) : State :=
  let q := s.oscRem + k * 1000
  let c := max 1 s.clkMHz
  { s with cyc := s.cyc + k, oscRem := q % c }.advanceTime (q / c)

/-- The hold limit of a hart, in cycles (R323). -/
def Hart.holdLimit (h : Hart) : Nat := 2 ^ (12 + h.sup.lhl.toNat)
/-- Timers of a hart on a core after k cycles (R43, R315, R323). -/
def Hart.tick (h : Hart) (k : Nat) : Hart :=
  { h with hold := if 0 < h.locks ∧ (h.st = .running ∨ h.st = .blocked) then h.hold + k else h.hold,
           spun := if h.st = .running then h.spun + k else 0,
           sup := { h.sup with ran := if h.sup.st = .running then h.sup.ran + k else h.sup.ran } }
/-- The timers and the watchdogs of a gang at a cycle, after k cycles: those of a pre-empted gang stand still (Table
17-1). -/
def Gang.tick (g : Gang) (k cyc : Nat) : Gang :=
  if g.phase = .placed then
    { g with harts := Vector.ofFn fun r =>
        let h := g.harts[r].tick k
        { h with wait := h.wait.map (g.markLate r cyc), sup := { h.sup with wait := h.sup.wait.map (g.markLate r cyc) } } }
  else g

/-- Posted elements are performed at their homes in order; one that meets poison is not, whatever the location holds
later, and stays for its late-poison step (R234, R243). -/
def State.performPosted (s : State) : State :=
  s.posted.foldl (fun t q =>
    if q.met then { t with posted := t.posted ++ [q] }
    else if t.elemPoison q.elem then
      let u := t.afterPoison q.elem.loc q.elem.n
      { u with posted := u.posted ++ [{ q with met := true }] }
    else (t.performElem q.p q.job q.elem).2)
    { s with posted := [] }

/-- What every step does first: the clocks move by the cycles of the step (log entry 10), and posted elements are
performed. -/
def State.tick (s : State) : State :=
  let (k, s) := match s.gaps with
    | [] => (1, s)
    | k :: r => (k, { s with gaps := r })
  let s := { s with serves := s.serves.tail, gangs := s.gangs.map fun g => Gang.tick g k (s.cyc + k) }
  (s.advance k).revokeDue.performPosted

/-- A comparison tick is due: `dtime` has passed a multiple of 64 ns since the last one (R330). -/
def State.tickDue (s : State) : Bool := decide (s.lastTick / 64 < s.dtime / 64)

end Sys2Proof.Machine
end

