-- ==== Sys2Proof/Machine/Jobs.lean ====
section
/-!
DEFINITION. Job, channel and arena instructions: opcodes 0x23 to 0x27 (R291 to R294).
-/

namespace Sys2Proof.Machine

/-! ### Channels -/

/-- An instruction on the channel that g[A] names (R293): PROT for a number above 255, a channel without a template, or
one whose mask leaves out the hart's function. -/
def State.onChannel (s : State) (op : Nat) (a : GOp) (k : Fin 256 → TaskEntry → Res) : Res :=
  if h : (s.rg a).toNat < 256 then
    let t := (s.prt s.myGang.p).tasks[(s.rg a).toNat]
    if t.valid && t.perm.getLsbD s.myVf.val then k ⟨_, h⟩ t else s.raise op (trap .prot)
  else s.raise op (trap .prot)
/-- HMSG (R293): a release at device scope; it stalls while 255 messages are pending. -/
def execHmsg (a b : GOp) (s : State) : Res :=
  s.onChannel 0x23 a fun c t =>
    if 255 ≤ t.waiting then s.block 0x23 (.message c.val) none
    else s.pair (s.release.post s.myGang.p c (s.rg b) s.myGang.job).retire
/-- CHBLOCK (R293). -/
def execChblock (a : GOp) (s : State) : Res :=
  s.onChannel 0x26 a fun c _ => (s.modTask s.myGang.p c fun t => { t with blk := true }).retire
/-- CHUNBLOCK (R293): the pending messages can launch. -/
def execChunblock (a : GOp) (s : State) : Res :=
  s.onChannel 0x26 a fun c _ => (s.modTask s.myGang.p c fun t => { t with blk := false }).retire

/-! ### Jobs -/

/-- A launch record from eight quadwords (Table 16-1a). -/
def launchOf (q : List Word) : LaunchRec :=
  { q0 := nth q 0, q1 := nth q 1, q2 := nth q 2, q3 := nth q 3, q4 := nth q 4, q5 := nth q 5, q6 := nth q 6,
    q7 := nth q 7 }
/-- The earlier of two deadlines, 0 counting as the latest (R29). -/
def earlier (a b : Word) : Word := if a = 0 then b else if b = 0 then a else if b.toNat < a.toNat then b else a
/-- The place in spawn order that the next `JSPAWN` of a ticket takes (R37). -/
def State.nextSpawn (s : State) (p : Fin 3) (job t : Nat) : Nat :=
  match s.family? p job with
  | some f => (f.kids.filter fun k => k.ticket == t).length
  | none => 0
/-- A sibling entered into the family of its parent (R37). -/
def State.addKid (s : State) (j : Job) (k : Kid) : State :=
  match s.family? j.p j.id with
  | some _ => s.modFamily j.p j.id fun f => { f with kids := f.kids ++ [k] }
  | none => { s with families := s.families ++
      [{ p := j.p, parent := j.id, tickets := j.tickets, kids := [k], pt := 0, num := 0, right := 0 }] }
/-- A child launched by the hart that runs (R29, R37, R291). -/
def State.spawn (s : State) (r : LaunchRec) : State :=
  let j := s.myJob
  let t := s.ticket s.cur
  let num := s.nextSpawn j.p j.id t
  let id := (s.prt j.p).nextJob
  let child : Job := { Job.blank with p := j.p, vf := j.vf, parent := j.id, rcd := r, source := .spawn,
                                      spawnKey := some (t, num) }
  (s.addKid j { job := id, ticket := t, num := num, tickets := child.tickets, apart := r.abp == 2 }).accept child
/-- The record that a `JSPAWN` launches: deadline, vintage and parent id set by hardware (R29, R291). -/
def LaunchRec.child (r : LaunchRec) (j : Job) : LaunchRec :=
  { r with q3 := earlier r.q3 j.rcd.q3, q4 := word j.rcd.vint, q7 := word j.id }
/-- JSPAWN (R291). -/
def execJspawn (d : GOp) (vm : Fin 48) (s : State) : Res :=
  if s.atS then s.raise 0x24 (trap .ticket)
  else
    let j := s.myJob
    let r := (launchOf (s.record vm 8)).child j
    match firstTrap [s.recUntyped vm, s.recType vm] with
      | some t => s.raise 0x24 t
      | none =>
        if s.me.vl = 0 then s.retire
        else if r.refused true r.ddl then s.raise 0x24 (trap .illegal)
        else if s.me.sealed then s.raise 0x24 (trap .ticket)
        else if r.amask &&& (15 - j.rcd.amask) ≠ 0 then s.raise 0x24 (trap .prot)
        else if !s.admits j.p then (s.wg d 0).retire
        else s.pair ((s.release.spawn r).wg d (word ((s.prt j.p).nextJob))).retire
/-- The hart that runs has ended (R26, R292). -/
def Hart.end_ (h : Hart) : Hart := { h.dropTokens with st := .ended, sealed := true, wait := none, ei := 0 }
/-- JEND (R26, R292): ILLEGAL in the supervisor thread. When it is the last of its job, the job's sweeps close (R30). -/
def execJend (s : State) : Res := s.userOnly 0x25 <| s.pair <|
  let g := s.myGang
  let t := ((s.release.modMe Hart.end_).sealTicket g.p g.job (s.ticket s.cur)).settleGang g.uid
  .next (if (t.job? g.p g.job).any (fun j => j.st == .ending) then t.closeSweeps g.p g.job else t)

/-! ### Arenas -/

/-- ABUMP (R106, R294): one 64-bit atomic on the header of arena n, which the S agent of the hart makes, as it makes the
hart's other atomics: Table 6-1 names no agent for it (log entry 53). Only an IO page refuses it: R294 names no other, and
Table 5-1 lists other instructions (log entry 36). The agent's cache takes what it read or wrote (R131, R134). -/
def execAbump (d a : GOp) (n : Fin 4) (al : BitVec 5) (s : State) : Res :=
  let base := s.arena s.myJob n
  if base = 0 then s.raise 0x27 (trap .prot)
  else match s.genCheck .write base 8 with
    | (.error t, s) => s.raise 0x27 t
    | (.ok (l, _), s) =>
      let size : Loc := { l with pa := l.pa + 8 }
      if l.kind = .io then s.raise 0x27 (memTrap .atomspace .write base)
      else if s.waitsOwn false false [(l, 16)] then s.block 0x27 .ordered none base
      else if s.readPoison l 16 then (s.afterPoison l 16).raise 0x27 (memTrap .poison .write base)
      else
        let s := s.drain s.cur
        let nx := roundUp (natOfBytes (s.readHome l 8)) (2 ^ al.toNat)
        let end_ := nx + (s.rg a).toNat
        if natOfBytes (s.readHome size 8) < end_ then
          (((s.afterRead l 16).modMe fun h => h.cachePut l (s.readHome l 16)).wg d 0).retire
        else s.pair <|
          let g := s.myGang
          let bs := bytesOfNat 8 end_
          let t := (s.afterRead l 16).writeHome g.p g.job l bs
          ((t.modMe fun h => h.cachePut l (t.readHome l 16)).wg d (base + word nx)).retire

end Sys2Proof.Machine
end

