-- ==== Sys2Proof/Machine/Launch.lean ====
section
/-!
DEFINITION. Launches from windows and channels (R332 to R337), comparison ticks (R330), the ends of jobs (R30, R343, R344), the passing of the commit right (R38), and commit spills (R40).
-/

namespace Sys2Proof.Machine

/-- A partition's functions answer and its launches are taken only in RUN (R397, R410). -/
def State.inRun (s : State) (p : Fin 3) : Bool := (s.prt p).st == .run

/-! ### Launches -/

/-- LAUNCH_TAIL_WRITE (R333). -/
def execLaunchTailWrite (p : Fin 3) (vf : Fin 64) (tail : BitVec 32) (s : State) : Res :=
  if !s.inRun p then .next s
  else .next (s.modFunc p vf fun f =>
    if 64 < (tail - f.lhead).toNat then { f with lerr := true } else { f with ltail := tail })
/-- A host or channel launch that R329 permits: refused (R28, R332, R374) or accepted. -/
def State.launch (s : State) (p : Fin 3) (vf : Fin 64) (r : LaunchRec) (src : Source) (pin : Option (Nat × Nat)) :
    State :=
  if r.refused false r.ddl then s.refuseLaunch p vf r .illegal
  else if s.ungranted p vf r then s.refuseLaunch p vf r .prot
  else s.accept { Job.blank with p := p, vf := vf, rcd := r, source := src, pin := pin }
/-- LAUNCH_WINDOW_TAKE (R333). -/
def execLaunchWindowTake (p : Fin 3) (vf : Fin 64) (s : State) : Res :=
  let f := s.func p vf
  if !s.inRun p || f.lhead == f.ltail || !s.admits p then .next s
  else
    let r := f.slots[Fin.ofNat 64 f.lhead.toNat]
    .next ((s.modFunc p vf fun f => { f with lhead := f.lhead + 1 }).launch p vf { r with q7 := 0 } .host none)
/-- CHANNEL_MESSAGE_TAKE (R336, R337): a message that its post took at once launches what it was taken for; a pending
one waits for an unblocked valid entry and for R329. -/
def execChannelMessageTake (p : Fin 3) (ch : Fin 256) (s : State) : Res :=
  let t := (s.prt p).tasks[ch]
  match t.msgs with
  | [] => .next s
  | m :: rest =>
    if !s.inRun p || (m.taken.isNone && (!t.valid || t.blk || !s.admits p)) then .next s
    else
      let k := m.taken.getD (s.taking t m)
      let u := s.modTask p ch fun t => { t with msgs := rest }
      match k.rcd with
      | none => .next (u.modPart p fun q => { q with rmcnt := q.rmcnt + 1 })
      | some r => .next (u.launch p k.vf r (.channel ch) k.pin)
/-- The template at an address of a function's space, read by Hearth; none where it cannot be read. -/
def State.readTemplate (s : State) (p : Fin 3) (vf : Fin 64) (a : Nat) : Option LaunchRec :=
  match s.walk p vf a with
  | .error _ => none
  | .ok l =>
    let at_ := l.pin.loc a
    if (s.leafCheck p false .read l a (a + 63)).isSome ∨ s.readPoison at_ 64 then none
    else some (launchOf ((List.range 8).map fun k =>
      word (natOfBytes (s.readHome { at_ with pa := at_.pa + 8 * k } 8))))
/-- The state after Hearth has read a template, or has failed to (R370, R371). -/
def State.afterTemplate (s : State) (p : Fin 3) (vf : Fin 64) (a : Nat) : State :=
  match s.walk p vf a with
  | .error c => s.untranslated p vf a c
  | .ok l =>
    let at_ := l.pin.loc a
    if (s.leafCheck p false .read l a (a + 63)).isSome then s
    else if s.readPoison at_ 64 then s.afterPoison at_ 64
    else (List.range 8).foldl (fun s k => s.afterRead { at_ with pa := at_.pa + 8 * k } 8) s
/-- A pinned entry that R335 refuses. -/
def State.badPin (s : State) (p : Fin 3) (t : TaskEntry) : Bool :=
  t.pin && (t.tmpl.gangs != 1 || t.tmpl.cosched || t.tmpl.paired || decide (4 < t.pslot.toNat + t.tmpl.harts) ||
    !bit (s.prt p).cap1 (56 + t.pcl.toNat))
/-- TASK_TABLE_WRITE (R334, R335). An entry whose template cannot be read, or whose TMPL is no multiple of 64, reads back
with VALID = 0 like one whose template fails its checks (log entry 83). -/
def execTaskTableWrite (p : Fin 3) (ch : Fin 256) (q0 q1 q2 q3 : Word) (s : State) : Res :=
  if !s.inRun p then .next s
  else
    let old := (s.prt p).tasks[ch]
    let t : TaskEntry :=
      { old with tmplVa := q0.setWidth 56, doff := BitVec.ofNat 32 (bits q1 63 32), vf := BitVec.ofNat 6 (bits q1 13 8),
                 pmode := BitVec.ofNat 2 (bits q1 3 2), blk := bit q1 1, valid := bit q1 0, perm := q2,
                 rsv := bit q3 9, pin := bit q3 8, pcl := BitVec.ofNat 3 (bits q3 7 5),
                 pcore := BitVec.ofNat 3 (bits q3 4 2), pslot := BitVec.ofNat 2 (bits q3 1 0) }
    if !t.valid then .next (s.modTask p ch fun _ => t)
    else
      let vf : Fin 64 := Fin.ofNat 64 t.vf.toNat
      let t := match s.readTemplate p vf t.tmplVa.toNat with
        | none => { t with valid := false }
        | some r =>
          let t := { t with tmpl := r }
          { t with valid := !(r.refused false 0 || t.tmplVa.toNat % 64 != 0 || t.pmode == 3 || s.badPin p t) }
      .next ((s.afterTemplate p vf t.tmplVa.toNat).modTask p ch fun _ => t)

/-! ### Ticks and the ends of jobs -/

/-- The tick at which a job's deadline fires: the first after the last tick at which the deadline has come (R330). -/
def State.fireTime (s : State) (j : Job) : Nat := max (roundUp j.rcd.ddl 64) (s.lastTick / 64 * 64 + 64)
/-- The firings that have fallen due: by tick, and within a tick by job id (R330). -/
def State.firings (s : State) : List (Nat × Job) :=
  let due := (s.jobs.filter fun j => j.classZero && decide (s.fireTime j ≤ s.dtime)).map fun j => (s.fireTime j, j)
  sorted due fun a b => decide (a.1 < b.1) || (a.1 == b.1 && decide (a.2.id ≤ b.2.id))
/-- One firing (R330, R343, R344): a job that has ended or is Abandoning stays as it is. -/
def State.fire (s : State) (f : Nat × Job) : State :=
  match s.job? f.2.p f.2.id with
  | some j => if j.st = .abandoning then s else s.abandonTree j .abandoned j.takesKids f.1
  | none => s
/-- COMPARISON_TICK (R330, R344, R345). -/
def execComparisonTick (s : State) : Res :=
  if !s.tickDue then .next s
  else .next { (s.firings.foldl State.fire s) with lastTick := s.dtime }
/-- ABANDON_COMPLETE (R344, step 6): no cancelled copy of the job is still writing. -/
def execAbandonComplete (p : Fin 3) (job : Nat) (s : State) : Res :=
  match s.job? p job with
  | none => .next s
  | some j =>
    if j.st ≠ .abandoning ∨ s.copies.any (fun c => c.p == p && c.job == job) then .next s
    else
      let c := if j.ending = .killed then ((j.cause.map BitVec.toNat).getD 0) else 0
      .next (s.finishJob j j.ending c (j.endAt.getD s.dtime))
/-- A subscription of the job still lacks a partial for some position (R30). -/
def Sub.lacks (b : Sub) : Bool := !b.ended && b.queries.any fun q => !q.written && decide (q.handed.length < b.pages.length)
/-- Work of R30 that the end of a job waits for. -/
def State.busyJob (s : State) (p : Fin 3) (job : Nat) : Bool :=
  s.entries.any (fun e => e.p == p && e.job == job) || s.posted.any (fun e => e.p == p && e.job == job) ||
  s.copies.any (fun c => c.p == p && c.job == job) || s.codings.any (fun c => c.p == p && c.job == job) ||
  s.txs.any (fun t => t.p == p && t.job == job) ||
  s.sweeps.toList.any fun w => w.subs.any fun b => b.p == p && b.job == job && !b.ended
/-- JOB_END (R30, R31, R32, R343). -/
def execJobEnd (p : Fin 3) (job : Nat) (s : State) : Res :=
  match s.job? p job with
  | none => .next s
  | some j =>
    if j.st ≠ .ending then .next s
    else
      let mine (b : Sub) : Bool := b.p == p && b.job == job
      let s := s.closeSweeps p job
      let s := if s.sweeps.toList.any fun w => w.subs.any fun b => mine b && b.lacks then
          (s.failJob p job Cause.sweep.code).endSubs mine
        else s
      if s.busyJob p job then .next s
      else match ((s.job? p job).getD j).cause with
        | none => .next (s.finishJob j .done 0 s.dtime)
        | some c => .next (s.finishJob j .failed c.toNat s.dtime)

/-! ### The commit right and spills -/

/-- COMMIT_RIGHT_PASS (R38, R42): the right of a job, or of the family that the job belongs to. -/
def execCommitRightPass (p : Fin 3) (job : Nat) (tree : Bool) (s : State) : Res :=
  if tree then
    match s.families.find? fun f => f.p == p && f.kids.any fun k => k.job == job with
    | some f => .next ((s.passTree p f.parent).getD s)
    | none => .next s
  else .next ((s.passJob p job).getD s)
/-- Segments that a spill takes (R40): for the k entries of the hart beyond the records still free. The n entries of the
operation that waits count only where the moved entries leave it no room in the buffer (log entry 32). -/
def State.spillSegments (s : State) (core k n free : Nat) : Nat :=
  ceilDiv (k + (if s.commitUsed core - k + n ≤ commitEntries then 0 else n) - free) segmentEntries
/-- COMMIT_SPILL (R40, R107): the entries of a hart that has stalled for 4,096 cycles without gaining the right move to
records of spill segments, and the hart continues; an exhausted arena abandons the job. -/
def execCommitSpill (h : HartId) (s : State) : Res :=
  let g := s.gang h.gang
  let j := s.jobOf g
  match (s.hart h).st, (s.hart h).wait with
  | .blocked, some { what := .commitFull n tree, since := since, .. } =>
    if s.cyc < since + 4096 ∨ g.phase ≠ .placed ∨ (s.prt g.p).switch.isSome ∨ s.hasRight j (s.ticket h) tree then .next s
    else
      let here (e : Entry) : Bool := e.h == h && e.place == 0
      let k := (s.entries.filter here).length
      match s.takeSegments j (s.spillSegments g.core k n (s.hart h).spillFree) with
      | (none, t) => .next (t.abandonTree j .spill j.takesKids s.dtime)
      | (some as, t) =>
        let free := (s.hart h).spill ++ (as.map segmentRecords).flatten
        let t := t.writeRecords j (free.take k)
        let t := { t with entries := t.entries.map fun e => if here e then { e with place := 1 } else e }
        .next (t.modHart h fun x =>
          { x with spill := free.drop k, st := .running, wait := x.wait.map fun w => { w with expired := true } })
  | _, _ => .next s

end Sys2Proof.Machine
end

