-- ==== Sys2Proof/Machine/Matrix.lean ====
section
/-!
DEFINITION. Matrix instructions: opcodes 0x58 to 0x60 (R92 to R94, R250 to R259).
-/

namespace Sys2Proof.Machine

/-! ### Tiles -/

/-- A gang whose harts and tiles are on its core. -/
def Gang.resident (g : Gang) : Bool := match g.phase with | .evicted | .over => false | _ => true
/-- Tiles of a hart. -/
def Hart.tiles (h : Hart) : Nat := (h.acc.toList.filter Option.isSome).length
/-- Tiles of a gang's harts. -/
def Gang.tiles (g : Gang) : Nat := (g.ranks.map fun r => g.harts[r].tiles).sum
/-- Tiles that the harts on a core hold, of the eight in its pool (R251). -/
def State.tilesHeld (s : State) (core : Nat) : Nat :=
  ((s.gangs.filter fun g => g.resident && g.onCore core).map Gang.tiles).sum
/-- Tiles of a core that Hearth reserves for gangs that wait for an eviction (R251, R341). -/
def State.tilesKept (s : State) (core : Nat) : Nat :=
  (s.holds.map fun h => if (h.seat :: h.seat2.toList).any (fun x => x.core == core) then h.tiles else 0).sum
/-- Tiles of a core that an eviction under way will free. -/
def State.tilesLeaving (s : State) (core : Nat) : Nat :=
  ((s.gangs.filter fun g => (g.phase == .evict3 || g.phase == .evict4) && g.onCore core).map Gang.tiles).sum
/-- Tiles of a core that are held or reserved: what Hearth reserves it takes from evicted gangs first, whose tiles
count once (R251, R341). -/
def State.tilesTaken (s : State) (core : Nat) : Nat := s.tilesHeld core + (s.tilesKept core - s.tilesLeaving core)
/-- A free tile for a gang: in the pool of each of its cores, held by no hart and not reserved (R251). -/
def State.tileFree (s : State) (g : Gang) : Bool :=
  let free (c : Nat) : Bool := decide (s.tilesTaken c < 8)
  free g.core && g.core2.all free
/-- The tile that `MACQ` and `MZERO` leave: +0 everywhere (R251, R253, R351). -/
def Tile.empty : Tile := { data := Vector.replicate 4096 0, zero := true, dirty := true }
/-- TILE, naming tile n (R60, Table 15-4). -/
def tileTrap (n : Fin 4) : TrapInfo := { c := .tile, detail := n.val }
/-- A tile written by an instruction (R351). -/
def Tile.put (f : Nat → BitVec 32) : Tile := { data := vgen 4096 f, zero := false, dirty := true }
/-- Entry [i][j]. -/
def Tile.at_ (t : Tile) (i j : Nat) : Nat := (vget t.data (64 * i + j) 0).toNat
/-- The hart that runs with a tile name changed. -/
def State.setTile (s : State) (n : Fin 4) (t : Option Tile) : State := s.modMe fun h => { h with acc := vput h.acc n t }
/-- An instruction on a tile that the hart holds. -/
def State.withTile (s : State) (op : Nat) (n : Fin 4) (k : Tile → Res) : Res :=
  match s.me.acc[n] with
  | some t => k t
  | none => s.raise op (tileTrap n)

/-- MACQ (R251). -/
def execMacq (d : GOp) (n : Fin 4) (s : State) : Res := s.userOnly 0x58 <|
  if s.me.acc[n].isSome then s.raise 0x58 (tileTrap n)
  else if s.tileFree s.myGang then ((s.setTile n (some Tile.empty)).wg d 0).retire
  else (s.wg d 1).retire
/-- MREL (R252). -/
def execMrel (n : Fin 4) (s : State) : Res := s.userOnly 0x59 <| s.withTile 0x59 n fun _ => (s.setTile n none).retire
/-- MZERO (R253). -/
def execMzero (n : Fin 4) (s : State) : Res := s.userOnly 0x5A <|
  s.withTile 0x5A n fun _ => (s.setTile n (some Tile.empty)).retire

/-! ### MOPA (R92, R93, R254, R255) -/

/-- Elements per k of a panel, for the tags that `MOPA` accepts (Table 11-2). -/
def mopaPer : Tag → Option Nat
  | .bf16x4 => some 16
  | .e4m3x8 | .e5m2x8 => some 8
  | .cbf16x2 => some 32
  | _ => none
/-- The operands of a `MOPA`: the format of a component, elements per k, whether it is complex, and its panels. -/
structure Mopa where
  f : Fmt
  per : Nat
  cplx : Bool
  cj : Bool
  kk : Nat
  a : VReg
  b : VReg
  on : Nat → Bool
/-- Component c of the panel value for row or column i at k (Table 4-5). -/
def Mopa.val (q : Mopa) (v : VReg) (k i c : Nat) : FVal :=
  let subs := 64 / q.per
  let w := if q.cplx then 16 else q.per
  let x := vget v.el (k * q.per + i / subs) 0
  q.f.read (lane w x (if q.cplx then 2 * (i % subs) + c else i % subs))
/-- The element of a panel that holds row or column i at k. -/
def Mopa.elem (q : Mopa) (k i : Nat) : Nat := k * q.per + i / (64 / q.per)
/-- The products of group g that are present for (i, j), for one component of the result: real, or imaginary. -/
def Mopa.terms (q : Mopa) (g i j : Nat) (im : Bool) : List Term :=
  ((List.range 4).map fun dk =>
    let k := 4 * g + dk
    if q.kk ≤ k ∨ !q.on (q.elem k i) ∨ !q.on (q.elem k j) then []
    else if !q.cplx then [tm2 (q.val q.a k i 0) (q.val q.b k j 0)]
    else
      let re := q.val q.a k i 0
      let ai := q.val q.a k i 1
      let br := q.val q.b k j 0
      let bi := q.val q.b k j 1
      let sg (t : Term) : Term := if q.cj then t.flip else t
      if im then [tm2 re bi, sg (tm2 ai br)] else [tm2 re br, (sg (tm2 ai bi)).flip]).flatten
/-- One entry after group g: unchanged when no product is present. -/
def Mopa.entry (q : Mopa) (g : Nat) (t : Tile) (im : Bool) (x : Nat) : Nat × Flags :=
  let old := (vget t.data x 0).toNat
  match q.terms g (x / 64) (x % 64) im with
  | [] => (old, 0)
  | ts => fmt32.sum .rne (tm (fmt32.read old) :: ts)
/-- A tile after group g, with the flags that the group sets. -/
def Mopa.group (q : Mopa) (g : Nat) (im : Bool) (t : Tile) : Tile × Flags :=
  (Tile.put fun x => BitVec.ofNat 32 (q.entry g t im x).1, flagsOf (List.range 4096) fun x => (q.entry g t im x).2)
/-- A tile after n groups from group g. -/
def Mopa.groups (q : Mopa) (im : Bool) : Nat → Nat → Tile → Tile × Flags
  | 0, _, t => (t, 0)
  | n + 1, g, t =>
    let (u, f) := q.group g im t
    let (v, h) := Mopa.groups q im n (g + 1) u
    (v, f ||| h)
/-- The common tag of the panels of a `MOPA`, with its elements per k; what that tag makes ILLEGAL (R254). -/
def State.mopaCheck (s : State) (cj : Bool) (n : Fin 4) (a b : VrOp) : Except TrapInfo (Tag × Nat) :=
  let srcs := [VsOp.vec a, VsOp.vec b]
  match commonTag srcs (srcs.map s.vtag) with
  | .error t => .error t
  | .ok t =>
    match mopaPer t with
    | none => .error (typeTrap .type (.vec a))
    | some per => if (if isCF t then n.val % 2 == 1 else cj) then .error (trap .illegal) else .ok (t, per)
/-- The checks of tags of a `MOPA` (R254): UNTYPED; what the tags make ILLEGAL; the TYPE that a bound register raises, and
that of the tags (R166, R201, R239). -/
def State.mopaTags (s : State) (cj : Bool) (n : Fin 4) (a b : VrOp) : Except TrapInfo (Tag × Nat) :=
  let srcs := [VsOp.vec a, VsOp.vec b]
  match s.untypedIn srcs with
  | some t => .error t
  | none =>
    match s.mopaCheck cj n a b, s.vmTags srcs [] none with
    | .error t, u => .error (if t.c = .illegal then t else u.getD t)
    | .ok _, some t => .error t
    | .ok r, none => .ok r
/-- A `MOPA` that passes its checks: its operands, its K-groups, and its tiles. -/
structure MopaPlan where
  m : Mopa
  groups : Nat
  re : Tile
  im : Option Tile
/-- The checks of a `MOPA` (R254): its trap, which leaves `ei` 0 (R24, R316), no work with `vl` = 0, or its plan. -/
def State.mopaPlan (s : State) (q : VMod) (cj : Bool) (n : Fin 4) (a b : VrOp) : Except TrapInfo (Option MopaPlan) :=
  match s.mopaTags cj n a b with
  | .error t => .error t
  | .ok (t, per) =>
    let vl := s.me.vl
    let gs := ceilDiv (vl / per) 4
    let m : Mopa :=
      { f := if t = .e4m3x8 then fmtE4 else if t = .e5m2x8 then fmtE5 else fmtBf, per := per, cplx := isCF t, cj := cj,
        kk := vl / per, a := s.me.v[a], b := s.me.v[b], on := fun e => !q.ke || s.me.m[q.k].getLsbD e }
    if vl = 0 then .ok none
    else match s.me.acc[n], isCF t, s.me.acc[n + 1] with
      | none, _, _ => .error (tileTrap n)
      | some _, true, none => .error (tileTrap (n + 1))
      | some re, cplx, second =>
        if vl % per ≠ 0 ∨ gs ≤ s.me.ei then .error { c := .badvl, detail := vl }
        else .ok (some { m := m, groups := gs, re := re, im := if cplx then second else none })
/-- k groups of a `MOPA` from `ei` up (R255). -/
def State.mopaRun (s : State) (n : Fin 4) (r : MopaPlan) (k : Nat) : State :=
  let (x, f) := r.m.groups false k s.me.ei r.re
  let u := (s.setTile n (some x)).flag f
  match r.im with
  | some im =>
    let (y, h) := r.m.groups true k s.me.ei im
    (u.setTile (n + 1) (some y)).flag h
  | none => u
/-- MOPA (R254, R255): every group from `ei` up. -/
def execMopa (q : VMod) (cj : Bool) (n : Fin 4) (a b : VrOp) (s : State) : Res := s.userOnly 0x5B <|
  match s.mopaPlan q cj n a b with
  | .error t => s.raise 0x5B t
  | .ok none => s.retire
  | .ok (some r) => (s.mopaRun n r (r.groups - s.me.ei)).retire
/-- A `MOPA` interrupted after k of its groups (R24, R256): `ei` is the next group; none where it ends or traps first. -/
def State.mopaPart (s : State) (q : VMod) (cj : Bool) (n : Fin 4) (a b : VrOp) (k : Nat) : Option State :=
  match s.mopaPlan q cj n a b with
  | .ok (some r) =>
    if s.me.ei + k < r.groups then some ((s.mopaRun n r k).modMe fun h => { h with ei := s.me.ei + k }) else none
  | _ => none

/-! ### MRD and MWR (R257) -/

/-- The tile entry of sub-element l of element e in block b. -/
def blockEntry (col : Bool) (b e l : Nat) : Nat × Nat :=
  let x := 4 * b + e / 32
  let y := 2 * (e % 32) + l
  if col then (y, x) else (x, y)
/-- MRD (R257): raw bits to D and `l3`. -/
def execMrd (col : Bool) (d : VdOp) (n : Fin 4) (a : GOp) (s : State) : Res := s.userOnly 0x5C <|
  match s.vmTags [] [d] none with
  | some t => s.raise 0x5C t
  | none =>
    if s.me.vl = 0 then s.retire
    else s.withTile 0x5C n fun t =>
      let b := (s.rg a).toNat
      if 15 < b then s.raise 0x5C (tileTrap n)
      else
        let ent (e l : Nat) : Nat := let (i, j) := blockEntry col b e l; t.at_ i j
        let old := s.me.v[(d.map vdReg).getD 59].tag
        (s.writeV d (some 59) (s.formed d 59 (rawTag old 8 false) fun e =>
          if e < s.me.vl then some (ofLanes 32 (ent e)) else none)).retire
/-- MWR (R257): raw bits of each element below `vl` to its two entries. -/
def execMwr (_q : VMod) (col : Bool) (n : Fin 4) (a : VrOp) (b : GOp) (s : State) : Res := s.userOnly 0x5D <|
  match s.vmTags [.vec a] [] none with
  | some t => s.raise 0x5D t
  | none =>
    if s.me.vl = 0 then s.retire
    else s.withTile 0x5D n fun t =>
      let k := (s.rg b).toNat
      if 15 < k then s.raise 0x5D (tileTrap n)
      else
        -- the element and sub-element of an entry, when it lies in the block
        let src (i j : Nat) : Option (Nat × Nat) :=
          let (x, y) := if col then (j, i) else (i, j)
          if x / 4 = k ∧ 32 * (x % 4) + y / 2 < s.me.vl then some (32 * (x % 4) + y / 2, y % 2) else none
        (s.setTile n (some (Tile.put fun x => match src (x / 64) (x % 64) with
          | some (e, l) => BitVec.ofNat 32 (lane 32 (vget s.me.v[a].el e 0) l)
          | none => vget t.data x 0))).retire

/-! ### MST and MLDT (R258) -/

/-- The access of a whole tile: entry 64 i + j at g[A] + i × g[B] + 4j. -/
def State.tileAcc (s : State) (op : Nat) (x : MemX) (sp wr : Bool) (a b : GOp) : VAcc :=
  { op := op, x := x, n := 4, wr := wr, sp := sp, addr := fun e => s.rg a + word (e / 64) * s.rg b + word (4 * (e % 64)) }
/-- The places of every entry, or the trap of the first that offends, at issue or as an element of Table 5-5, in
ascending order (R258). -/
def State.tilePlaces (s : State) (f : VAcc) : Except TrapInfo (List (Nat × VPlace)) :=
  let bad (t : TrapInfo) : Except TrapInfo (List (Nat × VPlace)) := .error { t with ei := 0 }
  (List.range 4096).foldr (fun e rest => match s.vIssue f notIo [e], s.vPlace f e with
    | some t, _ => bad t
    | none, .error t => bad t
    | none, .ok p => rest.map fun l => (e, p) :: l) (.ok [])
/-- A whole-tile access: TILE, the conditions of every address, the stalls of R232, and the agent's own
buffered operations (R131, R136). -/
def State.tileMem (s : State) (f : VAcc) (n : Fin 4) (k : Tile → List (Nat × VPlace) → Res) : Res := s.userOnly f.op <|
  s.withTile f.op n fun t =>
    match s.tilePlaces f with
    | .error x => s.raise f.op x
    | .ok ps => match s.vStall f (List.range 4096) with
      | some w => s.block f.op w none
      | none =>
        if s.waitsOwn true (releases f.x.ord) (s.vLocs f (List.range 4096)) then s.block f.op .ordered none else k t ps
/-- MST (R258): words written in ascending order. -/
def execMst (x : MemX) (sp : Bool) (n : Fin 4) (a b : GOp) (s : State) : Res :=
  s.tileMem (s.tileAcc 0x5E x sp true a b) n fun t ps => s.pair <|
    let u := if releases x.ord then s.release else s
    (ps.foldl (fun u q => u.vWrite 4 (vget t.data q.1 0).toNat q.2) u).retire
/-- Every word of a tile read before the tile is written; at a poisoned word, its number and
the state that has met it (R371). -/
def State.tileRead (s : State) : List (Nat × VPlace) → Except (Nat × State) (List (Nat × Nat) × State)
  | [] => .ok ([], s)
  | (e, p) :: r =>
    match s.vRead 4 p with
    | none => .error (e, s.vPoisoned 4 p)
    | some (v, u) =>
      match State.tileRead u r with
      | .ok (l, w) => .ok ((e, v) :: l, w)
      | .error x => .error x
/-- MLDT (R258). -/
def execMldt (x : MemX) (sp : Bool) (n : Fin 4) (a b : GOp) (s : State) : Res :=
  let f := s.tileAcc 0x5F x sp false a b
  s.tileMem f n fun _ ps =>
    match s.tileRead ps with
    | .error (e, u) => u.raise 0x5F { f.poison e with ei := 0 }
    | .ok (l, u) =>
      let u := if emptiesCache x || s.vStalled f (List.range 4096) then u.acquire else u
      let words := (l.map fun q => q.2).toArray
      let v : Vector (BitVec 32) 4096 := vgen 4096 fun i => BitVec.ofNat 32 (words.getD i 0)
      (u.setTile n (some { data := v, zero := false, dirty := true })).retire

/-! ### MSCALE (R94, R259) -/

/-- MSCALE (R259). -/
def execMscale (_q : VMod) (n : Fin 4) (a b : VsOp) (s : State) : Res := s.userOnly 0x60 <|
  match s.vmTags [a, b] [] none with
  | some t => s.raise 0x60 t
  | none =>
    match classCheck [a, b] (· == .f32x2) noSat false ([a, b].map s.vtag) with
    | .error t => s.raise 0x60 t
    | .ok _ =>
      s.withTile 0x60 n fun t =>
        let fac (x : VsOp) (i : Nat) : FVal := fmt32.read (lane 32 (s.vel x (i / 2)) (i % 2))
        let ent (x : Nat) : Nat × Flags :=
          fmt32.sum .rne [{ neg := false, fs := [fmt32.read (vget t.data x 0).toNat, fac a (x / 64), fac b (x % 64)] }]
        ((s.setTile n (some (Tile.put fun x => BitVec.ofNat 32 (ent x).1))).flag
          (flagsOf (List.range 4096) fun x => (ent x).2)).retire

end Sys2Proof.Machine
end

