-- ==== Sys2Proof/Machine/Restore.lean ====
section
/-!
DEFINITION. What a restore takes back from the frames in the Hearth reserve (R351, R353, R354, R358, Tables 17-2 to
17-5), and the resumption of a pre-empted hart (R193, R347, R348).
-/

namespace Sys2Proof.Machine

/-- A pre-empted hart resumes: its event register is set, and an instruction it waited in is issued again (R193, R347,
R348). -/
def Hart.resumed (h : Hart) : Hart :=
  { h with evt := true, wait := none, st := if h.st = .blocked then .running else h.st,
           sup := { h.sup with st := if h.sup.st = .blocked ∧ h.sup.call.isNone then .running else h.sup.st,
                               wait := none } }

/-- Quadword k of a frame. -/
def State.frameQuad (s : State) (base k : Nat) : Word := word (natOfBytes (s.readHome { kind := .dev, pa := base + 8 * k } 8))
/-- A token as its descriptor gives it (Table 17-4). -/
def Token.ofQuads (q : Nat → Word) : Token :=
  { st := if bit (q 2) 0 then .valid else if bit (q 2) 1 then .revoked else .invalid, base := bits (q 0) 55 0,
    len := (q 1).toNat, wr := bit (q 2) 2, pins := [] }
/-- A stream binding as its descriptor gives it. -/
def Stream.ofQuads (q : Nat → Word) : Stream :=
  if !bit (q 4) 63 then Stream.empty
  else { bound := true, q0 := q 0, q1 := q 1, q2 := q 2, q3 := q 3, pos := bits (q 4) 47 0,
         tag := (Tag.ofCode (bits (q 5) 4 0)).getD .none }
/-- A register: TAG and VLN of its table entry, the elements below VLN, and zeros above (R351, R358). -/
def VReg.ofQuads (entry : Word) (q : Nat → Word) : VReg :=
  let n := min 128 (bits entry 15 8)
  { el := vgen 128 fun e => if e < n then q e else 0, tag := (Tag.ofCode (bits entry 4 0)).getD .none, vln := n,
    dirty := false }
/-- A tile: its byte of TILES, and the quadwords of TD. -/
def Tile.ofQuads (byte : Nat) (q : Nat → Word) : Option Tile :=
  if byte.testBit 7 then
    let zero := byte.testBit 6
    some { data := vgen 4096 fun x => if zero then 0 else (q (x / 2) >>> (32 * (x % 2))).setWidth 32, zero := zero,
           dirty := false }
  else none
/-- The supervisor thread as its frame fields give it; the count of its watchdog starts again (Table 17-1). -/
def Sup.ofQuads (t : Sup) (q : Nat → Word) : Sup :=
  let u := (List.range 9).foldl (fun (u : Sup) k => u.csrWrite (0x100 + k) (q (288 + k))) t
  { u with g := vgen 32 fun k => q (256 + k), inh := bit (q 288) 0, ran := 0,
           tk := vgen 8 fun k => Token.ofQuads fun i => q (320 + 4 * k + i) }
/-- A hart as a restore gives it its frame (R358); what the frame does not hold, such as its event of a single step, stays
as it was (log entry 28). -/
def Hart.ofQuads (h : Hart) (q : Nat → Word) : Hart :=
  let r := h.resumed
  { r with
    pc := q 0, vl := min 128 (bits (q 1) 7 0), ei := bits (q 2) 6 0, fcsr := (q 3).setWidth 8, locks := bits (q 4) 7 4,
    hold := (q 5).toNat,
    g := vgen 32 fun k => q (32 + k),
    m := vgen 16 fun k => (q (64 + 2 * k)).setWidth 128 ||| (q (65 + 2 * k)).setWidth 128 <<< 64,
    v := vgen 60 fun k => VReg.ofQuads (q (96 + k)) fun e => q (512 + 128 * k + e),
    acc := vgen 4 fun n => Tile.ofQuads (bits (q 6) (8 * n + 7) (8 * n)) fun i => q (8192 + 2048 * n + i),
    tk := vgen 8 fun k => Token.ofQuads fun i => q (160 + 4 * k + i),
    str := vgen 8 fun k => Stream.ofQuads fun i => q (192 + 8 * k + i),
    wph := vgen 32 fun n => (q (352 + n / 2) >>> (32 * (n % 2))).setWidth 32,
    sup := r.sup.ofQuads q, cache := [], icache := [] }

/-- A signed count of 56 bits. -/
def signed56 (w : Word) : Int := (w.setWidth 56).toInt
/-- A barrier as the gang frame gives it (Table 17-5). -/
def Barrier.ofQuads (q : Nat → Word) : Barrier :=
  { init := bit (q 0) 63, exp := bits (q 0) 31 16, cnt := bits (q 0) 15 0, ph := (q 1).setWidth 32, expb := (q 2).toNat,
    pend := signed56 (q 3) }
/-- A ring as the gang frame gives it; what its stages keep for the Flue stays as it was (log entry 28). -/
def Ring.ofQuads (old : Ring) (q : Nat → Word) : Ring :=
  if !bit (q 0) 63 then Ring.empty
  else
    { old with
      cfg := true, err := bit (q 0) 62, base := bits (q 0) 20 0, size := 128 * (bits (q 0) 29 21 + 1),
      n := bits (q 0) 33 30 + 1, c := bits (q 0) 37 34 + 1, kind := BitVec.ofNat 2 (bits (q 0) 39 38),
      iss := (q 1).setWidth 32, fill := BitVec.ofNat 32 (bits (q 1) 63 32), drn := (q 2).setWidth 32,
      stages := Vector.ofFn fun k => { old.stages[k] with
        cmt := bit (q (4 + 2 * k.val)) 63, pend := signed56 (q (4 + 2 * k.val)), rel := (q (5 + 2 * k.val)).toNat } }
/-- An evicted gang with what its frames hold: its harts, barriers, rings and scratchpad (R358). The bytes of a poisoned
line of a frame are taken as they are, since no rule gives the save engine an error status (log entry 77). -/
def State.gangRestored (s : State) (g : Gang) : Gang :=
  match g.frames with
  | none => g
  | some (hs, f) =>
    let q := s.frameQuad f
    { g with
      harts := Vector.ofFn fun r =>
        let h := g.harts[r]
        if h.over || decide (g.hn ≤ r.val) then h else h.ofQuads (s.frameQuad (hs.getD r.val 0))
      bars := vgen 32 fun n => if 8 * g.hn ≤ n then Barrier.empty else Barrier.ofQuads fun i => q (8 + 4 * n + i)
      rings := Vector.ofFn fun r =>
        if 2 * g.hn ≤ r.val then Ring.empty else g.rings[r].ofQuads fun i => q (512 + 64 * r.val + i)
      sp := Mem.write [] 0 (s.readHome { kind := .dev, pa := f + 8192 } g.spsize) }

end Sys2Proof.Machine
end

