-- ==== Sys2Proof/Machine/Reads.lean ====
section
/-!
DEFINITION. The registers that each instruction reads, or partly keeps, for the waits on unfilled destinations of ordered
atomics (R41).
-/

namespace Sys2Proof.Machine

/-- The register of a scalar operand. -/
def gop : GOp → List (Fin 32)
  | some r => [r]
  | none => []
/-- The registers of a scalar pair operand (R182). -/
def gpair (wide : Bool) : GOp → List (Fin 32)
  | some r => if wide then [r, r + 1] else [r]
  | none => []
/-- The register of a vector source. -/
def vsop : VsOp → List (Fin 60)
  | .vec r => [r]
  | _ => []
/-- The scalar register of a vector source. -/
def vsg : VsOp → List (Fin 32)
  | .g r => [r]
  | _ => []
/-- A vector destination whose old elements may be kept (R52); `_` keeps those of the last-result register `l`. -/
def vdop (l : List (Fin 60)) : VdOp → List (Fin 60)
  | some r => [⟨r.val, by omega⟩]
  | none => l
/-- Old elements that a `VAMO` waits for: an ordered one keeps what is still unfilled and fills after it (R41), unless it
writes zeros over masked-off elements. -/
def vamoOld (x : MemX) (d : VdOp) : List (Fin 60) := if x.t = .no ∨ (x.ke ∧ x.kz) then vdop [58] d else []
/-- A main register. -/
def vmop (r : Fin 48) : List (Fin 60) := [⟨r.val, by omega⟩]
/-- The user register that a supervisor CSR number names (Table 15-3). -/
def ugop (n : BitVec 12) : List (Fin 32) :=
  if 0x0E0 ≤ n.toNat ∧ n.toNat < 0x100 then [Fin.ofNat 32 (n.toNat - 0x0E0)] else []

/-- The scalar registers that an instruction reads. -/
def Instr.gReads : Instr → List (Fin 32)
  | .add _ a b => gop a ++ gop b
  | .sub _ a b => gop a ++ gop b
  | .mul _ a b => gop a ++ gop b
  | .mulhi _ _ a b => gop a ++ gop b
  | .div _ _ a b => gop a ++ gop b
  | .rem _ _ a b => gop a ++ gop b
  | .and _ a b => gop a ++ gop b
  | .or _ a b => gop a ++ gop b
  | .xor _ a b => gop a ++ gop b
  | .andn _ a b => gop a ++ gop b
  | .shl _ a b => gop a ++ gop b
  | .shr _ a b => gop a ++ gop b
  | .sar _ a b => gop a ++ gop b
  | .min _ _ a b => gop a ++ gop b
  | .max _ _ a b => gop a ++ gop b
  | .clz _ a => gop a
  | .popc _ a => gop a
  | .sel _ a b c => gop a ++ gop b ++ gop c
  | .setcc _ _ a b => gop a ++ gop b
  | .aluiAdd _ a _ => gop a
  | .aluiAnd _ a _ => gop a
  | .aluiOr _ a _ => gop a
  | .aluiXor _ a _ => gop a
  | .aluiShl _ a _ => gop a
  | .aluiShr _ a _ => gop a
  | .aluiSar _ a _ => gop a
  | .aluiMin _ a _ => gop a
  | .aluiMax _ a _ => gop a
  | .lih d _ => gop d
  | .fadd _ _ _ a b => gop a ++ gop b
  | .fsub _ _ _ a b => gop a ++ gop b
  | .fmul _ _ _ a b => gop a ++ gop b
  | .fma _ _ _ a b c => gop a ++ gop b ++ gop c
  | .fcvt _ _ _ _ a => gop a
  | .fcmp _ _ _ a b => gop a ++ gop b
  | .ld _ _ a => gop a
  | .st _ d a => gop d ++ gop a
  | .amo _ _ _ a b => gop a ++ gop b
  | .cas x _ a b c => gop a ++ gpair (x.sz == .p) b ++ gpair (x.sz == .p) c
  | .br _ a b _ => gop a ++ gop b
  | .jalr _ a _ => gop a
  | .loop a _ => gop a
  | .csrw a _ => gop a
  | .csrset _ a _ => gop a
  | .csrclr _ a _ => gop a
  | .wfe a => gop a
  | .splock _ a => gop a
  | .spunlock a => gop a
  | .tlbinv _ a b => gop a ++ gop b
  | .vsave _ a _ => gop a
  | .vrest _ _ a => gop a
  | .hmsg a b => gop a ++ gop b
  | .chblock a => gop a
  | .chunblock a => gop a
  | .abump _ a _ _ => gop a
  | .vsetl _ a => gop a
  | .vmov _ a => vsg a
  | .vadd _ _ a b => vsg a ++ vsg b
  | .vsub _ _ a b => vsg a ++ vsg b
  | .vmul _ _ a b => vsg a ++ vsg b
  | .vmulh _ _ a b => vsg a ++ vsg b
  | .vfma _ _ a b c => vsg a ++ vsg b ++ vsg c
  | .vfms _ _ a b c => vsg a ++ vsg b ++ vsg c
  | .vfnma _ _ a b c => vsg a ++ vsg b ++ vsg c
  | .vmin _ _ a b => vsg a ++ vsg b
  | .vmax _ _ a b => vsg a ++ vsg b
  | .vabs _ _ a => vsg a
  | .vneg _ _ a => vsg a
  | .vand _ _ a b => vsg a ++ vsg b
  | .vor _ _ a b => vsg a ++ vsg b
  | .vxor _ _ a b => vsg a ++ vsg b
  | .vshl _ _ a b => vsg a ++ vsg b
  | .vshr _ _ a b => vsg a ++ vsg b
  | .vsar _ _ a b => vsg a ++ vsg b
  | .vclz _ _ a => vsg a
  | .vpopc _ _ a => vsg a
  | .vsel _ _ a b _ => vsg a ++ vsg b
  | .vaddc _ _ a b _ => vsg a ++ vsg b
  | .vsubb _ _ a b _ => vsg a ++ vsg b
  | .vcmp _ _ _ a b => vsg a ++ vsg b
  | .vcvt _ _ _ _ a => vsg a
  | .vrcp _ _ a => vsg a
  | .vrsqrt _ _ a => vsg a
  | .vsqrt _ _ a => vsg a
  | .vdiv _ _ a b => vsg a ++ vsg b
  | .vexp2 _ _ a => vsg a
  | .vlog2 _ _ a => vsg a
  | .vcmul _ _ a b => vsg a ++ vsg b
  | .vcmac _ _ a b c => vsg a ++ vsg b ++ vsg c
  | .vconj _ _ a => vsg a
  | .vcabs2 _ _ a => vsg a
  | .vcrot _ _ _ a => vsg a
  | .vbfly _ _ _ a b => vsg a ++ vsg b
  | .vslideup _ _ _ b => gop b
  | .vslidedn _ _ _ b => gop b
  | .vbcast _ _ _ b => gop b
  | .mshl _ _ b => gop b
  | .mset _ _ a => gop a
  | .vprobe _ _ a b => gop a ++ gop b
  | .vld _ _ a b => gop a ++ gop b
  | .vst _ _ a b => gop a ++ gop b
  | .vldx _ _ a _ => gop a
  | .vstx _ _ a _ => gop a
  | .vlds _ _ a b => gop a ++ gop b
  | .vsts _ _ a b => gop a ++ gop b
  | .vldsx _ _ a _ => gop a
  | .vstsx _ _ a _ => gop a
  | .vlds2 _ _ a b _ => gop a ++ gop b
  | .vsts2 _ _ a b _ => gop a ++ gop b
  | .vamo _ _ _ a _ c => gop a ++ vsg c
  | .vsta _ _ a _ _ => gop a
  | .vwaitc _ _ _ a b c => gop a ++ gop b ++ vsg c
  | .twait _ a b => gop a ++ gop b
  | .mrd _ _ _ a => gop a
  | .mwr _ _ _ _ b => gop b
  | .mst _ _ _ a b => gop a ++ gop b
  | .mldt _ _ _ a b => gop a ++ gop b
  | .mscale _ _ a b => vsg a ++ vsg b
  | .pgsub _ _ _ _ c => gop c
  | .pgclose a => gop a
  | .pgmerge _ _ b c => gop b ++ gop c
  | .pgstat _ a _ => gop a
  | .binit _ a b => gop a ++ gop b
  | .bexpect _ a => gop a
  | .ringcfg _ a => gop a
  | .rcommit _ a => gop a
  | _ => []

/-- The user registers that a CSR access at S reads (Table 15-3). -/
def Instr.ugReads : Instr → List (Fin 32)
  | .csrr _ num => ugop num
  | .csrset _ _ num => ugop num
  | .csrclr _ _ num => ugop num
  | _ => []

/-- The vector registers that an instruction reads or partly keeps. -/
def Instr.vReads : Instr → List (Fin 60)
  | .vsave _ _ vm => vmop vm
  | .jspawn _ vm => vmop vm
  | .vretag d _ => vdop [] d
  | .vgettag _ a => [a]
  | .vmov d a => vdop [59] d ++ vsop a
  | .vadd _ d a b => vdop [] d ++ vsop a ++ vsop b
  | .vsub _ d a b => vdop [] d ++ vsop a ++ vsop b
  | .vmul _ d a b => vdop [] d ++ vsop a ++ vsop b
  | .vmulh _ d a b => vdop [] d ++ vsop a ++ vsop b
  | .vfma _ d a b c => vdop [] d ++ vsop a ++ vsop b ++ vsop c
  | .vfms _ d a b c => vdop [] d ++ vsop a ++ vsop b ++ vsop c
  | .vfnma _ d a b c => vdop [] d ++ vsop a ++ vsop b ++ vsop c
  | .vmin _ d a b => vdop [] d ++ vsop a ++ vsop b
  | .vmax _ d a b => vdop [] d ++ vsop a ++ vsop b
  | .vabs _ d a => vdop [] d ++ vsop a
  | .vneg _ d a => vdop [] d ++ vsop a
  | .vand _ d a b => vdop [] d ++ vsop a ++ vsop b
  | .vor _ d a b => vdop [] d ++ vsop a ++ vsop b
  | .vxor _ d a b => vdop [] d ++ vsop a ++ vsop b
  | .vshl _ d a b => vdop [] d ++ vsop a ++ vsop b
  | .vshr _ d a b => vdop [] d ++ vsop a ++ vsop b
  | .vsar _ d a b => vdop [] d ++ vsop a ++ vsop b
  | .vclz _ d a => vdop [] d ++ vsop a
  | .vpopc _ d a => vdop [] d ++ vsop a
  | .vsel _ d a b _ => vdop [] d ++ vsop a ++ vsop b
  | .vaddc _ d a b _ => vdop [] d ++ vsop a ++ vsop b
  | .vsubb _ d a b _ => vdop [] d ++ vsop a ++ vsop b
  | .vcmp _ _ _ a b => vsop a ++ vsop b
  | .vcvt _ _ _ d a => vdop [] d ++ vsop a
  | .vrcp _ d a => vdop [] d ++ vsop a
  | .vrsqrt _ d a => vdop [] d ++ vsop a
  | .vsqrt _ d a => vdop [] d ++ vsop a
  | .vdiv _ d a b => vdop [] d ++ vsop a ++ vsop b
  | .vexp2 _ d a => vdop [] d ++ vsop a
  | .vlog2 _ d a => vdop [] d ++ vsop a
  | .vcmul _ d a b => vdop [] d ++ vsop a ++ vsop b
  | .vcmac _ d a b c => vdop [] d ++ vsop a ++ vsop b ++ vsop c
  | .vconj _ d a => vdop [] d ++ vsop a
  | .vcabs2 _ d a => vdop [] d ++ vsop a
  | .vcrot _ _ d a => vdop [] d ++ vsop a
  | .vbfly _ _ d a b => vdop [] d ++ vsop a ++ vsop b
  | .vgjstep _ _ _ d a => vdop [] d ++ [a]
  | .vbfpexp _ _ d a => vdop [] d ++ [a]
  | .vbfpcmp _ _ d a => vdop [] d ++ [a]
  | .vslideup _ d a _ => vdop [59] d ++ [a]
  | .vslidedn _ d a _ => vdop [59] d ++ [a]
  | .vperm _ d a b => vdop [59] d ++ [a] ++ [b]
  | .vbcast _ d a _ => vdop [59] d ++ [a]
  | .vcompress _ d a _ => vdop [59] d ++ [a]
  | .vexpand _ d a _ => vdop [59] d ++ [a]
  | .viota _ d _ => vdop [59] d
  | .vzip _ d a b => vdop [59] d ++ [a] ++ [b]
  | .vunzip _ d a b => vdop [59] d ++ [a] ++ [b]
  | .vredsum _ d a => vdop [59] d ++ [a]
  | .vredmax _ d a => vdop [59] d ++ [a]
  | .vredmin _ d a => vdop [59] d ++ [a]
  | .vscan _ d a => vdop [59] d ++ [a]
  | .vld _ d _ _ => vdop [58] d
  | .vst _ d _ _ => [d]
  | .vldx _ d _ b => vdop [58] d ++ [b]
  | .vstx _ d _ b => [d] ++ [b]
  | .vlds _ d _ _ => vdop [58] d
  | .vsts _ d _ _ => [d]
  | .vldsx _ d _ b => vdop [58] d ++ [b]
  | .vstsx _ d _ b => [d] ++ [b]
  | .vlds2 _ d _ _ c => vdop [58] d ++ vdop [] c
  | .vsts2 _ d _ _ c => [d] ++ [c]
  | .sbind _ a => vmop a
  | .vamo _ x d _ b c => vamoOld x d ++ [b] ++ vsop c
  | .vsta _ _ _ b c => [b] ++ [c]
  | .vwaitc _ _ _ _ _ c => vsop c
  | .mopa _ _ _ a b => [a] ++ [b]
  | .mrd _ d _ _ => vdop [59] d
  | .mwr _ _ _ a _ => [a]
  | .mscale _ _ a b => vsop a ++ vsop b
  | .pgopen _ a => vmop a
  | .pgsub _ _ a b _ => [a] ++ vmop b
  | .pgmerge _ a _ _ => [a]
  | .tcopy a => vmop a
  | .csubmit _ a => vmop a
  | .fhtx a => vmop a
  | _ => []

/-- A device step is no word of Table 7-7. -/
def Instr.isStep : Instr → Bool
  | .copyBytesLand _ _ => true
  | .copyComplete _ => true
  | .codingCommandStart _ => true
  | .codingCommandComplete _ => true
  | .fronthaulSend _ => true
  | .frameReceive _ _ => true
  | .hostQueueTransmit _ => true
  | .sweepStart _ => true
  | .pageFetch _ => true
  | .pageDelivery _ _ _ => true
  | .caskOverflow _ => true
  | .sweepEnd _ => true
  | .launchTailWrite _ _ _ => true
  | .launchWindowTake _ _ => true
  | .channelMessageTake _ _ => true
  | .taskTableWrite _ _ _ _ _ _ => true
  | .gangPlace _ => true
  | .hartFrameSave _ => true
  | .gangFrameSave _ => true
  | .lightPreemption _ => true
  | .lightPreemptionResume _ => true
  | .scratchpadClear _ => true
  | .gangRelease _ => true
  | .comparisonTick => true
  | .abandonComplete _ _ => true
  | .jobEnd _ _ => true
  | .commitRightPass _ _ _ => true
  | .commitSpill _ => true
  | .blockedHartResume _ => true
  | .waitWatchdog _ => true
  | .wfeTimeout _ => true
  | .vwaitcTimeout _ => true
  | .lockHoldWatchdog _ => true
  | .handlerWatchdog _ => true
  | .addressBreakpoint _ => true
  | .singleStep _ => true
  | .pinGraceExpiry _ => true
  | .kill _ => true
  | .hostq _ => true
  | .hostqTimeout _ => true
  | .log _ => true
  | .abandon _ => true
  | .info _ => true
  | .faultQueueReply _ _ _ => true
  | .invalidatePage _ _ _ => true
  | .invalidateFunction _ _ => true
  | .invalidationComplete _ _ => true
  | .jobKillRequest _ _ _ => true
  | .functionConfigWrite _ _ _ _ => true
  | .arenaGrant _ _ _ _ => true
  | .placementEntryWrite _ _ _ _ _ _ _ => true
  | .flowEntryWrite _ _ _ _ _ _ _ => true
  | .portConfigWrite _ _ _ _ => true
  | .tset _ _ => true
  | .toff _ _ => true
  | .holdoverTimeout => true
  | .hostMemoryAccess _ _ => true
  | .hostErrorCompletion _ _ => true
  | .twinAccess _ => true
  | .hostLinkTrain _ _ _ _ => true
  | .twinLinkTrain _ _ => true
  | .portLinkChange _ _ => true
  | .l2Fill _ _ => true
  | .partitionGo _ => true
  | .partitionRst _ => true
  | .firmwareSwitch _ => true
  | .firmwareSwitchComplete _ => true
  | .flrPhysicalFunction _ => true
  | .flrVirtualFunction _ _ => true
  | .patrolScrub _ _ => true
  | .channelFail _ => true
  | .registerError _ => true
  | .unitRetire _ => true
  | .coreFence _ => true
  | .plimWrite _ => true
  | .powerLimitThrottle _ _ => true
  | .thermalTrip => true
  | .powerOnReset => true
  | .housekeepingRead _ => true
  | .housekeepingWrite _ _ => true
  | .keySlotRevoke _ => true
  | .minimumSvnRaise _ _ => true
  | .getVersion _ => true
  | .getCapabilities _ => true
  | .negotiateAlgorithms _ _ _ _ => true
  | .getDigests _ => true
  | .getCertificate _ _ _ _ => true
  | .challenge _ _ _ => true
  | .getMeasurements _ _ _ _ => true
  | .registerWrite _ _ _ _ => true
  | .synceLockChange _ => true
  | .deviceReset => true
  | .twinRefusedWrite _ _ => true
  | .latePoison _ _ _ => true
  | .recoveryImageDelivery _ => true
  | .configurationRequest => true
  | .cxlCacheSnoop _ _ => true
  | _ => false

end Sys2Proof.Machine
end

