-- ==== Sys2Proof/Machine/Turn.lean ====
section
/-!
DEFINITION. What the turn of a hart brings: the event that is due at its instruction boundary, the end of its wait, or
its next instruction; faults of fetch and decode; and a word placed where the next step fetches it.
-/

namespace Sys2Proof.Machine

/-- Cycles that a handler may run (R315). -/
def handlerLimit : Nat := 2 ^ 26
/-- Cycles that a hart stalls on a full commit buffer before its entries spill (R40). -/
def spillLimit : Nat := 4096

/-- The wait of the thread that runs in a hart. -/
def Hart.theWait (h : Hart) : Option Wait := if h.st == .trapped then h.sup.wait else h.wait

/-- The service numbers that Hearth firmware knows (Table 15-6). -/
def serviceKnown (n : Nat) : Bool := decide (1 ≤ n) && decide (n ≤ 5)

/-- What a hart does with its turn. -/
inductive Duty where
  | nothing
  | event (i : Instr)
  | instr
deriving DecidableEq, Repr

/-- What the current hart does with its turn. Of events due at one boundary a single step comes first, then the limit of a
lock's hold, then the address breakpoint, which is taken before the word at BPA is fetched (log entry 58). -/
def State.duty (s : State) : Duty :=
  let h := s.me
  let c := s.cur
  if s.gang? c.gang = none ∨ s.myGang.phase ≠ .placed ∨ s.myGang.hn ≤ c.rank.val then .nothing
  else match h.st with
    | .running =>
      if h.stepDue then .event (.singleStep c)
      else if h.holdLimit ≤ h.hold then .event (.lockHoldWatchdog c)
      else if h.sup.bpe ∧ !h.bpExempt ∧ h.pc = h.sup.bpa.setWidth 64 then .event (.addressBreakpoint c)
      else .instr
    | .blocked =>
      if h.holdLimit ≤ h.hold then .event (.lockHoldWatchdog c)
      else match h.wait with
        | none => .event (.blockedHartResume c)
        | some w =>
          match w.ends with
          | some e =>
            if e ≤ s.dtime then .event (if w.what = .wfe then .wfeTimeout c else .vwaitcTimeout c)
            else .event (.blockedHartResume c)
          | none =>
            if s.myGang.watchdogDue c.rank s.cyc w then .event (.waitWatchdog c)
            else .event (.blockedHartResume c)
    | .trapped =>
      match h.sup.st with
      | .idle => .nothing
      | .running => if handlerLimit ≤ h.sup.ran then .event (.handlerWatchdog c) else .instr
      | .blocked =>
        if let some k := h.sup.call then (if serviceKnown k.n then .nothing else .event (.blockedHartResume c))
        else match h.sup.wait with
          | none => .event (.blockedHartResume c)
          | some w =>
            if s.myGang.watchdogDue c.rank s.cyc w then .event (.waitWatchdog c)
            else .event (.blockedHartResume c)
    | _ => .nothing

/-- A fault of fetch at PC (R155, R316): there is no word, so OP is 0, and `ei` stays as it is. -/
def State.fetchFault (s : State) (c : Cause) : Res :=
  s.raise 0 { c := c, detail := Use.detail .fetch, addr := s.pcv, ei := s.me.ei }
/-- A word that is no instruction (R165). -/
def State.illegalWord (s : State) (w : Word) : Res := s.raise (w.toNat / 2 ^ 57) (trap .illegal)
/-- The vector registers of the user hart that an instruction of the supervisor thread reads: one of the others raises
a trap (R198, R310). -/
def Instr.uvReads (i : Instr) : List (Fin 60) :=
  match i with
  | .vsave _ _ v => vmop v
  | _ => []
/-- The instruction reads a register that an ordered atomic has still to fill (R41). -/
def State.unfilled (s : State) (i : Instr) : Bool :=
  ((if s.atS then Instr.ugReads i else Instr.gReads i).any fun r => s.me.fillG.any fun q => q.1 == r) ||
    (if s.atS then Instr.uvReads i else Instr.vReads i).any fun r => s.me.fillV.any fun q => q.1 == r

/-- The physical address at which `placeWord` puts its page tables, above its page. -/
def fetchTables : Nat := 0x100000
/-- A word where the next step fetches it (log entry 13): one hart of one job of partition 0, on core 0, whose PC is 0,
with a 64 KiB page of all permissions at PA 0 that begins with the word. -/
def State.placeWord (s : State) (w : Word) : State :=
  let pte (leaf : Bool) (pa : Nat) : List Byte :=
    bytesOfNat 8 (pa + (if leaf then 0x1F else 0x01))
  let tab (k : Nat) : Nat := fetchTables + 8192 * k
  let dev := Mem.write (Mem.write (Mem.write (Mem.write (Mem.write s.dev (tab 0) (pte false (tab 1))) (tab 1)
    (pte false (tab 2))) (tab 2) (pte false (tab 3))) (tab 3) (pte true 0)) 0 (bytesOfNat 8 w.toNat)
  let q : LaunchRec := { LaunchRec.zero with q2 := 0x0000000800800001, q6 := 0xFF }
  let j : Job := { Job.blank with id := 1, p := 0, rcd := q, st := .placed, nextGang := 1 }
  let g : Gang := { Gang.blank with
    uid := 1, p := 0, job := 1, hn := 1, core := 0, slots := [0], spsize := 8192, phase := .placed,
    harts := Vector.replicate 4 { Hart.init with lw := 1 } }
  { s with
    dev := dev, jobs := [j], gangs := [g], cur := { gang := 1, rank := 0 }, agenda := [], choices := [], tlb := [],
    walks := [], serves := [],
    parts := vmod s.parts 0 fun p =>
      { p with cap1 := 0x01FFFFFFC0000000 ||| p.cap1, st := .run,
               funcs := vmod p.funcs 0 fun f => { f with root := BitVec.ofNat 39 (tab 0 / 8192), rootv := true } } }

end Sys2Proof.Machine
end

