-- ==== Sys2Proof/Machine/Placement.lean ====
section
/-!
DEFINITION. Placement: the fit of gangs on cores (R27, R335, R339), ready order (R338), placing and restoring gangs (R70,
R358), the choice of victims (R341), light pre-emption (R342, R348), and the release of gangs (R26).
-/

namespace Sys2Proof.Machine

/-! ### What fits where (R335, R339) -/

/-- What a gang needs of each core it is placed on. -/
structure Need where
  harts : Nat
  size : Nat
  tiles : Nat
  paired : Bool
  pin : Option (Nat × Nat)
  chan : Option (Fin 256)
  /-- the cluster that an evicted gang stays in (R27) -/
  cluster : Option Nat
deriving DecidableEq, Repr
/-- The needs of a gang of a job, or of an evicted one, which takes back the tiles it held (R358). -/
def Job.need (j : Job) (old : Option Gang) : Need :=
  { harts := j.rcd.harts, size := 1024 * j.rcd.spk,
    tiles := match old with
      | some g => g.tiles
      | none => j.rcd.harts * j.rcd.tph
    paired := j.rcd.paired, pin := j.pin
    chan := match j.source with | .channel c => some c | _ => none
    cluster := old.map fun g => g.core / 8 }
/-- A gang still holds slots and scratchpad of its cores. -/
def Gang.holdsCore (g : Gang) : Bool := g.phase != .evicted
/-- The seats of a gang. -/
def Gang.seats (g : Gang) : List Seat :=
  { core := g.core, slots := g.slots, base := g.spBase } ::
    (g.core2.map fun c => [{ core := c, slots := g.slots2, base := g.spBase2 }]).getD []
/-- The hart slots that a gang holds on a core. -/
def Gang.slotsOn (g : Gang) (core : Nat) : List Nat := ((g.seats.filter fun x => x.core == core).map Seat.slots).flatten
/-- The seats taken or held on a core, each with its scratchpad bytes. -/
def State.seatsOn (s : State) (core : Nat) : List (Seat × Nat) :=
  let gs := ((s.gangs.filter Gang.holdsCore).map fun g => g.seats.map fun x => (x, g.spsize)).flatten
  let hs := (s.holds.map fun h => (h.seat :: h.seat2.toList).map fun x => (x, h.size)).flatten
  (gs ++ hs).filter fun x => x.1.core == core
/-- Channels that reserve a slot (R335). -/
def State.reserving (s : State) (p : Fin 3) (core slot : Nat) : List (Fin 256) :=
  (List.finRange 256).filter fun c =>
    let t := (s.prt p).tasks[c]
    t.valid && t.rsv && (match t.place with
      | some (k, x) => k == core && decide (x ≤ slot) && decide (slot < x + t.tmpl.harts)
      | none => false)
/-- A slot that a gang may take. -/
def State.slotFree (s : State) (p : Fin 3) (n : Need) (core slot : Nat) : Bool :=
  !((s.seatsOn core).any fun x => x.1.slots.contains slot) &&
    (let cs := s.reserving p core slot
     cs.isEmpty || (match n.chan with | some c => cs.contains c | none => false))
/-- The lowest cleared free region of a core's scratchpad, at a multiple of 4,096. -/
def State.region (s : State) (core size : Nat) : Option Nat :=
  let used := ((s.seatsOn core).map fun x => (x.1.base, x.2)) ++
    (s.toClear.filter fun x => x.1 == core).map fun x => (x.2.1, x.2.2)
  ((List.range 129).map fun k => 4096 * k).find? fun a => decide (a + size ≤ 524288) &&
    (size == 0 || used.all fun u => u.2 == 0 || decide (a + size ≤ u.1) || decide (u.1 + u.2 ≤ a))
/-- The seat that a gang finds on a core (R27, R335, R339). -/
def State.seat (s : State) (p : Fin 3) (n : Need) (core : Nat) : Option Seat :=
  let slots := match n.pin with
    | some (c, x) => if c = core then (List.range n.harts).map fun i => x + i else []
    | none => ((List.range 4).filter (s.slotFree p n core)).take n.harts
  if slots.length = n.harts ∧ slots.all (s.slotFree p n core) ∧ (s.cores p).contains core ∧
      (n.cluster.all fun k => core / 8 == k) ∧ s.tilesTaken core + n.tiles ≤ 8 then
    (s.region core n.size).map fun b => { core := core, slots := slots, base := b }
  else none
/-- The seats that a gang finds on some cores: the lowest core, or for a PAIRED gang the lowest pair of one cluster. -/
def State.findSeats (s : State) (p : Fin 3) (n : Need) (cs : List Nat) : Option (Seat × Option Seat) :=
  cs.findSome? fun c => match s.seat p n c with
    | none => none
    | some a =>
      if !n.paired then some (a, none)
      else (cs.filter fun d => decide (c < d) && c / 8 == d / 8).findSome? fun d =>
        (s.seat p n d).map fun b => (a, some b)

/-! ### Placing and restoring -/

/-- A hart at its first instruction (R70, R310). -/
def Hart.first (q : LaunchRec) (svec : Word) (sver : BitVec 8) : Hart :=
  { Hart.init with g := vput Hart.init.g 1 q.q1, pc := word q.entry, lw := BitVec.ofNat 4 q.lw,
                   acc := vgen 4 fun n => if n < q.tph then some Tile.empty else none, sup := Sup.init svec sver }
/-- A gang at its first instruction (R70, R127, R128). -/
def State.newGang (s : State) (j : Job) (index : Nat) (a : Seat) (b : Option Seat) : Gang :=
  let h := Hart.first j.rcd (word ((s.func j.p j.vf).svec.toNat * 8)) (s.prt j.p).fwver
  { Gang.blank with
    uid := s.nextGang, p := j.p, job := j.id, index := index, hn := j.rcd.harts, core := a.core,
    core2 := b.map Seat.core, slots := a.slots, slots2 := (b.map Seat.slots).getD [], spBase := a.base,
    spBase2 := (b.map Seat.base).getD 0, spsize := 1024 * j.rcd.spk, tph := j.rcd.tph, phase := .placed,
    harts := Vector.replicate 4 h }
/-- The state after an evicted gang's frames are read: lines of them that the host may hold are taken back (R370). -/
def State.afterFrames (s : State) (g : Gang) : State :=
  match g.frames with
  | none => s
  | some (hs, f) =>
    (hs.foldl (fun s a => s.takeBack a hartFrameBytes) s).takeBack f (gangFrameBytes + g.spsize)
/-- Saved commit entries of a gang restored into the commit buffer of a core, ahead of new ones, as far as they fit
(R358). -/
def State.restoreEntries (s : State) (u core : Nat) : State :=
  let room := commitEntries - s.commitUsed core
  let es := s.entries.foldl (fun (acc : List Entry × Nat) e =>
    if e.h.gang = u ∧ e.place = 2 ∧ 0 < acc.2 then (acc.1 ++ [{ e with place := 0, core := core }], acc.2 - 1)
    else (acc.1 ++ [e], acc.2)) ([], room)
  { s with entries := es.1 }
/-- A gang placed on the seats found: a new one, or an evicted one restored (R331, R338, R358). -/
def State.placeGang (s : State) (j : Job) (index : Nat) (old : Option Gang) (a : Seat) (b : Option Seat) : State :=
  let s := match old with
    | none =>
      let s := { s with gangs := s.gangs ++ [s.newGang j index a b], nextGang := s.nextGang + 1 }
      s.modJob j.p j.id fun j =>
        let next := max j.nextGang (index + 1)
        let skipped := (j.skipped ++ (List.range (next - j.nextGang)).map (j.nextGang + ·)).filter (· != index)
        { j with nextGang := next, skipped := skipped,
                 st := if next = j.rcd.gangs ∧ skipped = [] then .placed else .placing }
    | some g =>
      let r := s.gangRestored g
      let hs := r.harts.map fun h => s.rewalk g.p j.vf h
      let s := g.ranks.foldl (fun (s : State) k => s.afterRewalk g.p j.vf r.harts[k]) (s.afterFrames g)
      (s.modGang g.uid fun _ =>
        { r with core := a.core, core2 := b.map Seat.core, slots := a.slots, slots2 := (b.map Seat.slots).getD [],
                 spBase := a.base, spBase2 := (b.map Seat.base).getD 0, phase := .placed, harts := hs,
                 saved := [] }).restoreEntries g.uid a.core
  let turn := (s.prt j.p).nextOrder
  (s.modPart j.p fun q => { q with nextOrder := q.nextOrder + 1 }).modJob j.p j.id fun j => { j with turn := turn }

/-! ### Victims and eviction (R341, R349) -/

/-- A gang that may be evicted (R126, R341). -/
def State.evictable (s : State) (g : Gang) : Bool :=
  let j := s.jobOf g
  let mates := if j.rcd.cosched then s.gangs.filter fun x => x.p == g.p && x.job == g.job else [g]
  g.phase == .placed && j.st != .abandoning &&
    mates.all fun x => !(x.rings.toList.any fun r => r.cfg && (r.kind == 2 || r.kind == 3))
/-- The gangs that go with a victim: every gang of a COSCHED job. -/
def State.mates (s : State) (g : Gang) : List Nat :=
  if (s.jobOf g).rcd.cosched then
    (s.gangs.filter fun x => x.p == g.p && x.job == g.job && (x.phase == .placed || x.phase == .light)).map Gang.uid
  else [g.uid]
/-- Victims on a core for a class-0 job, in victim order (R341): among equals, the gang of the later job first, and of one
job the one with the higher index (log entry 60). -/
def State.victims (s : State) (j : Job) (core : Nat) : List Gang :=
  let gs := s.gangs.filter fun g => g.onCore core && s.evictable g
  let later (a b : Gang) : Bool :=
    let x := (s.jobOf a).order
    let y := (s.jobOf b).order
    decide (y < x) || (x == y && decide (b.index ≤ a.index))
  let be := sorted (gs.filter fun g => !(s.jobOf g).classZero) later
  let z := sorted (gs.filter fun g => decide (j.rcd.ddl < (s.jobOf g).rcd.ddl)) fun a b =>
    let x := (s.jobOf a).rcd.ddl
    let y := (s.jobOf b).rcd.ddl
    decide (y < x) || (x == y && later a b)
  if (j.rcd.ddl : Int) - s.dtime ≤ (s.prt j.p).preth.toNat then be ++ z else be
/-- The state as it would be without some gangs. -/
def State.without (s : State) (us : List Nat) : State := { s with gangs := s.gangs.filter fun g => !us.contains g.uid }
/-- Victims taken in order until the gang fits on the core: all of them, with the seat found. -/
def State.takeVictims (s : State) (p : Fin 3) (n : Need) (core : Nat) (taken : List Nat) : List Gang → Option (List Nat × Seat)
  | [] => (s.seat p n core).map fun a => (taken, a)
  | g :: r =>
    match s.seat p n core with
    | some a => some (taken, a)
    | none =>
      let us := (s.mates g).filter fun u => !taken.contains u
      State.takeVictims (s.without us) p n core (taken ++ us) r
/-- Victims on one core, and the seat that they make (R335, R341). -/
def State.coreVictims (s : State) (j : Job) (n : Need) (core : Nat) : Option (List Nat × Seat) :=
  let order := s.victims j core
  match n.pin with
  | none => s.takeVictims j.p n core [] order
  | some (c, x) =>
    if c ≠ core then none
    else
      let first := s.gangs.filter fun g => g.holdsCore && g.onCore core &&
        (g.slotsOn core).any fun k => decide (x ≤ k) && decide (k < x + n.harts)
      if first.any fun g => !(order.any fun v => v.uid == g.uid) then none
      else
        let us := ((first.map s.mates).flatten).dedup
        (s.without us).takeVictims j.p n core us (order.filter fun v => !us.contains v.uid)
/-- A choice of victims: their gangs and the seats that they make. -/
structure Choice where
  us : List Nat
  a : Seat
  b : Option Seat
deriving DecidableEq, Repr
/-- Every choice for a gang of a class-0 job, by rising core. -/
def State.choices4 (s : State) (j : Job) (n : Need) : List Choice :=
  (s.cores j.p).flatMap fun c => match s.coreVictims j n c with
    | none => []
    | some (us, a) =>
      if !n.paired then [{ us := us, a := a, b := none }]
      else ((s.cores j.p).filter fun d => decide (c < d) && c / 8 == d / 8).flatMap fun d =>
        match (s.without us).coreVictims j n d with
        | none => []
        | some (vs, b) => [{ us := us ++ vs, a := a, b := some b }]
/-- Harts of a choice's victims. -/
def State.cost (s : State) (c : Choice) : Nat := (c.us.map fun u => (s.gang u).hn).sum
/-- The choice with the fewest victim harts, the lowest core among equals. -/
def State.best (s : State) : List Choice → Option Choice
  | [] => none
  | c :: r => match State.best s r with
    | none => some c
    | some d => if s.cost d < s.cost c then some d else some c
/-- A hart that Hearth stops (R326, R347): an instruction that waits has had no effect. -/
def Hart.stop (h : Hart) : Hart := { h with wait := none, sup := { h.sup with wait := none } }
/-- A pre-emption may find a running hart inside a `MOPA` (R24, R256, R347): of the K-groups that its next instruction
has still to do, the choice says how many are performed first (log entry 10); with none, the hart stops before it. The
supervisor thread has no `MOPA` (R310). -/
def State.cutMopa (s : State) (h : HartId) : State :=
  s.asHart h fun s =>
    match s.duty, s.fetch with
    | .instr, (.ok w, t) =>
      match (if s.atS then none else decodeWord w) with
      | some (.mopa q cj n a b) =>
        if t.unfilled (.mopa q cj n a b) then s
        else let (k, u) := t.choose; (u.mopaPart q cj n a b k).getD s
      | _ => s
    | _, _ => s
/-- The harts of some gangs stop where they are, of which a running `MOPA` may have performed some groups. -/
def State.cutGangs (s : State) (f : Gang → Bool) : State :=
  (s.gangs.filter f).foldl (fun s g => g.ranks.foldl (fun s r => s.cutMopa { gang := g.uid, rank := r }) s) s
/-- The full eviction of a gang begins: it stops, and its frames and commit segments are taken from the reserve (R347,
R349, R352); none when they cannot be. The accesses of all its harts are performed before any frame is saved (R152). -/
def State.startEvict (s : State) (u : Nat) : Option State :=
  let s := s.cutGangs fun g => g.uid == u
  let s := s.drainGang (s.gang u)
  let g := s.gang u
  let used := s.reserveBlocks g.p
  let frames : Option (List Nat × Nat × List (Nat × Nat)) :=
    match g.frames with
    | some (hs, f) => some (hs, f, used)
    | none =>
      let hs := g.ranks.foldl (fun (acc : Option (List Nat × List (Nat × Nat))) _ =>
        acc.bind fun x => (s.takeBlock g.p x.2 hartFrameBytes 65536).map fun a => (x.1 ++ [a], x.2 ++ [(a, hartFrameBytes)]))
        (some ([], used))
      hs.bind fun x => (s.takeBlock g.p x.2 (gangFrameBytes + g.spsize) 8192).map fun f =>
        (x.1, f, x.2 ++ [(f, gangFrameBytes + g.spsize)])
  -- segments in which entries of an earlier eviction still lie stay in the chain
  let live := g.chains.filter fun c => s.entries.any fun e => e.h.gang == u && e.h.rank.val == c.1 && e.place == 2
  let chains := frames.bind fun x =>
    g.ranks.foldl (fun (acc : Option (List (Nat × Nat) × List (Nat × Nat))) r =>
      let n := ceilDiv (s.entries.filter fun e => e.h.gang == u && e.h.rank == r && e.place == 0).length segmentEntries
      (List.range n).foldl (fun acc _ => acc.bind fun y =>
        (s.takeBlock g.p y.2 65536 65536).map fun a => (y.1 ++ [(r.val, a)], y.2 ++ [(a, 65536)])) acc)
      (some (live, x.2.2))
  match frames, chains with
  | some (hs, f, _), some (cs, _) => some (s.modGang u fun g =>
      { g with phase := .evict3, frames := some (hs, f), chains := cs, saved := [], harts := g.harts.map Hart.stop })
  | _, _ => none
/-- The evictions of a choice, all or none. -/
def State.evictAll (s : State) : List Nat → Option State
  | [] => some s
  | u :: r => (s.startEvict u).bind fun t => State.evictAll t r
def Choice.hold (c : Choice) (j : Job) (index : Nat) (n : Need) : Hold :=
  { p := j.p, job := j.id, index := index, seat := c.a, seat2 := c.b, size := n.size, tiles := n.tiles }
/-- Victims are chosen and evicted for one gang of a class-0 job, and what they free is held for it (R341). -/
def State.seek (s : State) (j : Job) (index : Nat) (n : Need) : Option State :=
  let ok := (s.choices4 j n).filter fun c => !c.us.isEmpty && (s.evictAll c.us).isSome
  (s.best ok).bind fun c => (s.evictAll c.us).map fun t => { t with holds := t.holds ++ [c.hold j index n] }
/-- Choices for the gangs of a COSCHED job together: victims, and the seats held; `t` is the state that counts what is
found already as taken (R341). -/
def State.seekEach (s t : State) (j : Job) : List (Nat × Need) → Option (List Nat × List Hold)
  | [] => some ([], [])
  | (index, n) :: r =>
    match t.best ((t.choices4 j n).filter fun c => (s.evictAll c.us).isSome) with
    | none => none
    | some c =>
      let h := c.hold j index n
      (State.seekEach s { t.without c.us with holds := t.holds ++ [h] } j r).map fun x => (c.us ++ x.1, h :: x.2)
def State.seekAll (s : State) (j : Job) (gs : List (Nat × Need)) : Option State :=
  (s.seekEach s j gs).bind fun x =>
    if x.1.isEmpty then none else (s.evictAll x.1).map fun t => { t with holds := t.holds ++ x.2 }

/-! ### Ready order (R34, R338) -/

/-- The unplaced gangs of a job that placement considers, by index: evicted ones and those passed over, then those above
every placed one. Of these `all` takes every one; otherwise those are left out that come after one without a hold, whose
needs they share. -/
def State.unplaced (s : State) (j : Job) (all : Bool) : List (Nat × Option Gang) :=
  let evicted := s.gangs.filter fun g => g.p == j.p && g.job == j.id && g.phase == .evicted
  let left := j.rcd.gangs - j.nextGang
  (sorted ((evicted.map fun g => (g.index, some g)) ++ j.skipped.map fun i => (i, none)) fun a b => decide (a.1 ≤ b.1)) ++
    (List.range (if all then left else min left (s.holds.length + 1))).map fun i => (j.nextGang + i, none)
/-- The resources held for a gang. -/
def State.held (s : State) (j : Job) (index : Nat) : Option Hold :=
  s.holds.find? fun h => h.p == j.p && h.job == j.id && h.index == index
def State.unhold (s : State) (j : Job) (index : Nat) : State :=
  { s with holds := s.holds.filter fun h => !(h.p == j.p && h.job == j.id && h.index == index) }
/-- One gang placed where it fits, or where resources are held for it. -/
def State.placeOne (s : State) (j : Job) (index : Nat) (old : Option Gang) : Option State :=
  let cs := match s.held j index with
    | some h => h.seat.core :: (h.seat2.map Seat.core).toList
    | none => s.cores j.p
  let t := s.unhold j index
  (t.findSeats j.p (j.need old) cs).map fun x => t.placeGang j index old x.1 x.2
/-- Every gang of a list placed, or none. -/
def State.placeEach (s : State) (j : Job) : List (Nat × Option Gang) → Option State
  | [] => some s
  | (i, g) :: r => (s.placeOne j i g).bind fun t => State.placeEach t j r
/-- What one placement opportunity does for a job: it places a gang, or begins evictions for one; a COSCHED job is placed
whole, and so not before the eviction of every gang of it has ended (R33, R34, R338, R341). -/
def State.tryJob (s : State) (j : Job) : Option State :=
  if j.rcd.cosched then
    if s.gangs.any fun g => g.p == j.p && g.job == j.id && (g.phase == .evict3 || g.phase == .evict4) then none else
    let gs := s.unplaced j true
    match s.placeEach j gs with
    | some t => some t
    | none =>
      if j.classZero && !(gs.any fun g => (s.held j g.1).isSome) then
        s.seekAll j (gs.map fun g => (g.1, j.need g.2))
      else none
  else
    (s.unplaced j false).findSome? fun g =>
      match s.placeOne j g.1 g.2 with
      | some t => some t
      | none => if j.classZero && (s.held j g.1).isNone then s.seek j g.1 (j.need g.2) else none
/-- The first job of a list for which something can be done; a COSCHED job that waits keeps later best-effort jobs
back (R34). -/
def State.tryJobs (s : State) (back : Bool) : List Job → Option State
  | [] => none
  | j :: r =>
    if back && !j.classZero then State.tryJobs s back r
    else match s.tryJob j with
      | some t => some t
      | none => State.tryJobs s (back || j.rcd.cosched) r
/-- The jobs of a partition with unplaced gangs, in ready order (R338). -/
def State.readyJobs (s : State) (p : Fin 3) : List Job :=
  let js := s.jobs.filter fun j => j.p == p && j.ready && !(s.unplaced j false).isEmpty
  let z := sorted (js.filter Job.classZero) fun a b =>
    decide (a.rcd.ddl < b.rcd.ddl) || (a.rcd.ddl == b.rcd.ddl && decide (a.order ≤ b.order))
  z ++ sorted (js.filter fun j => !j.classZero) fun a b => decide (a.turn ≤ b.turn)
/-- A placement opportunity: until nothing more can be done, at most n times. -/
def State.placeAll (s : State) (p : Fin 3) : Nat → State
  | 0 => s
  | n + 1 => match s.tryJobs false (s.readyJobs p) with
    | some t => State.placeAll t p n
    | none => s
/-- GANG_PLACE (R27, R338, R339, R341): 64 cores have 256 slots, so 512 placings and evictions exhaust it. -/
def execGangPlace (p : Fin 3) (s : State) : Res := if s.inRun p then .next (s.placeAll p 512) else .next s

/-! ### Light pre-emption (R342, R348) -/

/-- A class-0 hart on the core is Running or Blocked with too little time left (R342). -/
def State.urgent (s : State) (core : Nat) : Bool :=
  s.gangs.any fun g =>
    let u := (s.prt g.p).urgth.toNat
    g.phase == .placed && g.onCore core && (s.jobOf g).classZero && u != 0 &&
      decide (((s.jobOf g).rcd.ddl : Int) - s.dtime ≤ u) &&
      g.ranks.any fun r => g.harts[r].st == .running || g.harts[r].st == .blocked
/-- The gang, or for a COSCHED job some gang of its job, has a core where a condition holds: such gangs are pre-empted and
resumed together (Table 2-3). -/
def State.together (s : State) (g : Gang) (f : Nat → Bool) : Bool :=
  let on (x : Gang) : Bool := f x.core || (match x.core2 with | some c => f c | none => false)
  if (s.jobOf g).rcd.cosched then s.gangs.any fun x => x.p == g.p && x.job == g.job && x.holdsCore && on x else on g
/-- A gang that a light pre-emption of a core stops (R342). -/
def State.yields (s : State) (core : Fin 64) (g : Gang) : Bool :=
  g.phase == .placed && !(s.jobOf g).classZero && s.together g (· == core.val)
/-- The gangs that yield a core, stopped (R347). -/
def State.lighten (s : State) (core : Fin 64) : State :=
  { s with gangs := s.gangs.map fun g =>
      if s.yields core g then { g with phase := .light, harts := g.harts.map Hart.stop } else g }
/-- LIGHT_PREEMPTION (R342, R347). -/
def execLightPreemption (core : Fin 64) (s : State) : Res :=
  .next (if s.urgent core then (s.cutGangs (s.yields core)).lighten core else s)
/-- LIGHT_PREEMPTION_RESUME (R342, R348): gangs of the core that no urgent hart holds back. -/
def execLightPreemptionResume (core : Fin 64) (s : State) : Res :=
  .next { s with gangs := s.gangs.map fun g =>
    if g.phase == .light && s.together g (· == core.val) && !s.together g s.urgent then
      { g with phase := .placed, harts := g.harts.map fun h => if h.over then h else h.resumed } else g }

/-! ### Release (R26, R339) -/

/-- SSP and DSP of a copy record. -/
def Copy.usesSp (c : Copy) : Bool := bit (nth c.rcd 2) 8 || bit (nth c.rcd 2) 12
/-- Engine work still touches the shared resources of a gang (R26, R350). -/
def State.touched (s : State) (u : Nat) : Bool :=
  (s.copies.any fun c => c.gang == u && (c.usesSp || (!c.cancelled && decide (c.target.1 ≤ 1)))) ||
  (s.codings.any fun c => c.gang == u && !c.noCount && c.target.1 == 0) ||
  (s.txs.any fun t => t.gang == u && bit (nth t.rcd 2) 6) ||
  s.sweeps.toList.any fun w => w.subs.any fun b => b.gang == u && !b.ended
/-- The scratchpad regions of a gang, which are cleared before they are free (R127, R339). -/
def Gang.toClear (g : Gang) : List (Nat × Nat × Nat) := g.seats.map fun x => (x.core, x.base, g.spsize)
/-- GANG_RELEASE (R26, R344 step 5). -/
def execGangRelease (gang : Nat) (s : State) : Res :=
  match s.gang? gang with
  | none => .next s
  | some g =>
    if g.phase ≠ .over ∨ s.touched gang then .next s
    else .next { s with gangs := s.gangs.filter fun x => x.uid ≠ gang, toClear := s.toClear ++ g.toClear }
/-- SCRATCHPAD_CLEAR (R339). -/
def execScratchpadClear (core : Fin 64) (s : State) : Res :=
  .next { s with toClear := s.toClear.filter fun x => x.1 ≠ core.val }

end Sys2Proof.Machine
end

