-- ==== Sys2Proof/Machine/Frames.lean ====
section
/-!
DEFINITION. The save engine: hart frames and gang frames in the Hearth reserve (R349 to R357).
-/

namespace Sys2Proof.Machine

/-- Quadwords written in device memory, each at its number from a base, for Hearth. -/
def State.putQuads (s : State) (p : Fin 3) (base : Nat) (qs : List (Nat × Word)) : State :=
  qs.foldl (fun s q => s.writeHome p 0 { kind := .dev, pa := base + 8 * q.1 } (bytesOfNat 8 q.2.toNat)) s
/-- Records of saved entries written at some places of a chain: free values, as their format is internal (R352, log
entry 43). -/
def State.putRecords (s : State) (p : Fin 3) (as : List Nat) : State :=
  as.foldl (fun s a => { s.writeHome p 0 { kind := .dev, pa := a } (freeBytes s.freeCtr recordBytes) with
                           freeCtr := s.freeCtr + recordBytes }) s
/-- The places of the records of n more entries of a hart: in the last segments of its chain (R352). -/
def Gang.chainRecords (g : Gang) (rank n : Nat) : List Nat :=
  let segs := (g.chains.filter fun c => c.1 == rank).map Prod.snd
  (((segs.drop (segs.length - ceilDiv n segmentEntries)).map segmentRecords).flatten).take n

/-! ### Hart frames (Tables 17-2 to 17-4) -/

/-- A token descriptor. -/
def Token.quads (t : Token) : List Word :=
  if t.st = .invalid then [0, 0, 0, 0]
  else [word t.base, word t.len, (if t.wr then 4 else 0) ||| (if t.st = .revoked then 2 else 1), 0]
/-- A stream descriptor. -/
def Stream.quads (t : Stream) : List Word :=
  if !t.bound then List.replicate 8 0
  else [t.q0, t.q1, t.q2, t.q3, word (2 ^ 63 + t.pos), word (Tag.code t.tag), 0, 0]
/-- The header; `nce` entries are saved, in the chain at `chain`. -/
def Hart.header (h : Hart) (nce chain : Nat) : List Word :=
  let sst : Nat := match h.sup.st with | .idle => 0 | .running => 1 | .blocked => 2
  let tile (n : Fin 4) : Nat := match h.acc[n] with
    | some t => (0x80 + (if t.zero then 0x40 else 0)) * 256 ^ n.val
    | none => 0
  [h.pc, word h.vl, word h.ei, h.fcsr.setWidth 64,
   word (sst * 512 + (if h.st = .trapped then 256 else 0) + h.locks * 16 + (if h.evt then 1 else 0)), word h.hold,
   word ((List.finRange 4).map tile).sum, word nce, word (if nce = 0 then 0 else chain)] ++ List.replicate 23 0
/-- Q0 to Q351. -/
def Hart.frame (h : Hart) (nce chain : Nat) : List Word :=
  h.header nce chain ++ h.g.toList ++
  (h.m.toList.map fun (m : MaskReg) => [m.setWidth 64, (m >>> 64).setWidth 64]).flatten ++
  (h.v.toList.map fun v => word (v.vln * 256 + Tag.code v.tag)) ++ List.replicate 4 0 ++
  (h.tk.toList.map Token.quads).flatten ++ (h.str.toList.map Stream.quads).flatten ++ h.sup.g.toList ++
  ((List.range 9).map fun k => (h.sup.csr (0x100 + k)).getD 0) ++ List.replicate 23 0 ++
  (h.sup.tk.toList.map Token.quads).flatten
/-- What the save engine writes of the vector registers and tiles: only what is DIRTY (R356, R357). -/
def Hart.frameData (h : Hart) : List (Nat × Word) :=
  let regs := (List.finRange 60).flatMap fun k =>
    if h.v[k].dirty then (List.range h.v[k].vln).map fun e => (512 + 128 * k.val + e, vget h.v[k].el e 0) else []
  let tiles := (List.finRange 4).flatMap fun n => match h.acc[n] with
    | some t =>
      if t.dirty && !t.zero then (List.range 2048).map fun x =>
          (8192 + 2048 * n.val + x, word ((vget t.data (2 * x) 0).toNat + 2 ^ 32 * (vget t.data (2 * x + 1) 0).toNat))
      else []
    | none => []
  regs ++ tiles
/-- A hart whose state is saved: nothing is DIRTY, and its token pins are released (R349, R351). -/
def Hart.saved (h : Hart) : Hart :=
  { h with v := h.v.map fun v => { v with dirty := false }, acc := h.acc.map fun t => t.map fun t => { t with dirty := false },
           tk := h.tk.map fun t => { t with pins := [] },
           sup := { h.sup with tk := h.sup.tk.map fun t => { t with pins := [] } } }
/-- HART_FRAME_SAVE (R349 step 3, R353, R355 to R357): once its accesses are performed and its Hearth call is over. -/
def execHartFrameSave (h : HartId) (s : State) : Res :=
  let g := s.gang h.gang
  match g.phase, g.frames with
  | .evict3, some (hs, _) =>
    if g.hn ≤ h.rank.val ∨ g.saved.contains h.rank ∨ (s.hart h).sup.call.isSome then .next s
    else
      let s := s.drain h
      let mine (e : Entry) : Bool := e.h == h && e.place == 0
      let x := s.hart h
      let k := (s.entries.filter mine).length
      let s := s.putRecords g.p (g.chainRecords h.rank.val k)
      let chain := ((g.chains.find? fun c => c.1 == h.rank.val).map Prod.snd).getD 0
      let base := hs.getD h.rank.val 0
      let qs := (x.frame k chain).zipIdx.map fun q => (q.2, q.1)
      let zeros := (List.range 144).map fun k => (368 + k, (0 : Word))
      let s := (s.putQuads g.p base (qs ++ zeros)).putQuads g.p base x.frameData
      let s := { s with entries := s.entries.map fun e => if mine e then { e with place := 2 } else e }
      .next ((s.modHart h Hart.saved).modGang h.gang fun g =>
        let done := g.saved ++ [h.rank]
        { g with saved := done, phase := if g.ranks.all fun r => done.contains r then .evict4 else .evict3 })
  | _, _ => .next s

/-! ### Gang frames (Table 17-5) -/

/-- The low 56 bits of a signed count. -/
def low56 (n : Int) : Nat := (n % (2 ^ 56 : Int)).toNat
/-- Q0 to Q1023; barriers and rings that the gang does not have are zero. -/
def Gang.frame (g : Gang) : List (Nat × Word) :=
  let zeros := (List.range 1024).map fun k => (k, (0 : Word))
  let bars := (List.finRange 32).flatMap fun n =>
    let b := g.bars[n]
    if 8 * g.hn ≤ n.val then []
    else [(8 + 4 * n.val, word ((if b.init then 2 ^ 63 else 0) + b.exp * 2 ^ 16 + b.cnt)), (9 + 4 * n.val, b.ph.setWidth 64),
          (10 + 4 * n.val, word b.expb), (11 + 4 * n.val, word (low56 b.pend))]
  let rings := (List.finRange 8).flatMap fun r =>
    let q := g.rings[r]
    if 2 * g.hn ≤ r.val ∨ !q.cfg then []
    else
      let st (k : Fin 16) : List (Nat × Word) :=
        let x := q.stages[k]
        [(516 + 64 * r.val + 2 * k.val, word ((if x.cmt then 2 ^ 63 else 0) + low56 x.pend)),
         (517 + 64 * r.val + 2 * k.val, word x.rel)]
      [(512 + 64 * r.val, q.word), (513 + 64 * r.val, word (q.fill.toNat * 2 ^ 32 + q.iss.toNat)),
       (514 + 64 * r.val, q.drn.setWidth 64)] ++ (List.finRange 16).flatMap st
  zeros ++ [(0, word ((g.hn - 1) * 65536 + g.spsize / 1024))] ++ bars ++ rings
/-- The WPH values of a hart, in Q352 to Q367 of its frame. -/
def Hart.wphQuads (h : Hart) : List (Nat × Word) :=
  (List.range 16).map fun k =>
    (352 + k, word ((vget h.wph (2 * k) 0).toNat + 2 ^ 32 * (vget h.wph (2 * k + 1) 0).toNat))
/-- GANG_FRAME_SAVE (R349 steps 4 and 5, R350, R354): once no engine work touches the gang, its shared state is saved and
its slots, tiles and scratchpad return to the core. -/
def execGangFrameSave (gang : Nat) (s : State) : Res :=
  let g := s.gang gang
  match g.phase, g.frames with
  | .evict4, some (hs, f) =>
    if s.touched gang then .next s
    else
      let s := s.putQuads g.p f g.frame
      let s := s.writeHome g.p 0 { kind := .dev, pa := f + gangFrameBytes } (g.spRead 0 g.spsize)
      let s := g.ranks.foldl (fun s r => s.putQuads g.p (hs.getD r.val 0) g.harts[r].wphQuads) s
      .next ({ s with toClear := s.toClear ++ g.toClear }.modGang gang fun g => { g with phase := .evicted })
  | _, _ => .next s

end Sys2Proof.Machine
end

