-- ==== Sys2Proof/Machine/Fronthaul.lean ====
section
/-!
DEFINITION. Fronthaul: opcode 0x76 with the egress (R289, R290, R382), and the ports: placement of arriving sections
(R381 to R385) and the host queues (R380, R388).
-/

namespace Sys2Proof.Machine

/-! ### Ports (R379) -/

/-- The partition in RUN that a port is granted to. -/
def State.portOwner (s : State) (n : Fin 8) : Option (Fin 3) :=
  (List.finRange 3).find? fun p => (s.prt p).st == .run && bit (s.prt p).cap1 (40 + n.val)
/-- The rate that a port runs at: 0 where it is not granted; 400 Gb/s on even ports only (Table 18-4). The table does not
list 110 and 111: they act, and read, as 000 (log entry 70). -/
def State.portRate (s : State) (n : Fin 8) : Nat :=
  let r := (s.ports[n]).rate.toNat
  if (s.portOwner n).isNone || (r == 5 && n.val % 2 == 1) || decide (5 < r) then 0 else r
/-- The link of a port is up: not for an odd port whose lanes the port below it takes. -/
def State.portUp (s : State) (n : Fin 8) : Bool :=
  (s.ports[n]).link && s.portRate n != 0 && !(n.val % 2 == 1 && s.portRate (n - 1) == 5)
/-- Counter i of a port counts one more (Table 18-8). -/
def Port.count (q : Port) (i : Fin 15) : Port := { q with cnt := vmod q.cnt i (· + 1) }
def State.countPort (s : State) (n : Fin 8) (i : Fin 15) : State := s.modPort n fun q => q.count i

/-! ### Host queues (R380) -/

/-- Bytes of a host-queue entry, and of a frame in one. -/
def hqEntry : Nat := 2048
def hqBytes : Nat := 2032
/-- An entry of the receive queue that holds part of a frame. -/
def rxEntry (bs : List Byte) (more : Bool) (time : Nat) : List Byte :=
  bytesOfNat 8 (bs.length + 16384 + (if more then 32768 else 0)) ++ bytesOfNat 8 time ++ bs
/-- The parts of a frame that its entries carry, at most k of them. -/
def frameParts : Nat → List Byte → List (List Byte)
  | 0, _ => []
  | k + 1, bs => if bs.length ≤ hqBytes then [bs] else bs.take hqBytes :: frameParts k (bs.drop hqBytes)
/-- Entries written one after another from count `t` of a queue at `base`. -/
def State.putEntries (s : State) (p : Fin 3) (base k : Nat) (time : Nat) : Nat → List (List Byte) → State
  | _, [] => s
  | t, bs :: r =>
    (s.writeHome p 0 { kind := .dev, pa := base + hqEntry * (t % 2 ^ k) } (rxEntry bs (r != []) time)).putEntries p base k
      time (t + 1) r
/-- A frame delivered to the host receive queue, or counted in HQFULL. -/
def State.toHost (s : State) (p : Fin 3) (n : Fin 8) (raw : List Byte) : State :=
  let q := s.ports[n]
  let parts := frameParts 8 raw
  if q.rxn = 0 ∨ 2 ^ q.rxn.toNat < (q.rxt - q.rxh).toNat + parts.length then s.countPort n 11
  else (s.putEntries p (q.rxb.toNat * 4096) q.rxn.toNat s.dtime q.rxt.toNat parts).modPort n fun q =>
    { q with rxt := q.rxt + BitVec.ofNat 32 parts.length }
/-- What a host-queue entry of n bytes of frame takes in memory (R380). -/
def txRead (n : Nat) : Nat := 16 + min n hqBytes
/-- The transmit entries of the next frame, from count t, at most k of them: where each lies, its length and its bytes;
none before TXT has passed the last. One that is read poisoned has the length 0, with which a frame is dropped (log entry
61). -/
def State.txChain (s : State) (q : Port) : Nat → BitVec 32 → Option (List (Nat × Nat × List Byte))
  | 0, _ => none
  | k + 1, t =>
    if t = q.txt then none
    else
      let a := q.txb.toNat * 4096 + hqEntry * (t.toNat % 2 ^ q.txn.toNat)
      let q0 := word (natOfBytes (s.readHome { kind := .dev, pa := a } 8))
      let n := bits q0 13 0
      if s.readPoison { kind := .dev, pa := a } 8 then some [(a, 0, [])]
      else
      let e := if s.readPoison { kind := .dev, pa := a } (txRead n) then (a, 0, [])
        else (a, n, s.readHome { kind := .dev, pa := a + 16 } (min n hqBytes))
      if bit q0 15 then (s.txChain q k (t + 1)).map fun r => e :: r else some [e]
/-- The timestamp of a sent frame in its entries, or none in those of a dropped one. -/
def State.stampTx (s : State) (p : Fin 3) (sent : Bool) (l : List (Nat × Nat × List Byte)) : State :=
  l.foldl (fun s e =>
    let s := s.afterRead { kind := .dev, pa := e.1 } (txRead e.2.1)
    let q0 := word (natOfBytes (s.readHome { kind := .dev, pa := e.1 } 8))
    let s := s.writeHome p 0 { kind := .dev, pa := e.1 } (bytesOfNat 8 (setBits q0 14 14 (if sent then 1 else 0)).toNat)
    s.writeHome p 0 { kind := .dev, pa := e.1 + 8 } (bytesOfNat 8 (if sent then s.dtime else 0))) s
/-- HOST_QUEUE_TRANSMIT (R380, R388): the next frame that TXT has released is sent or dropped. -/
def execHostQueueTransmit (port : Fin 8) (s : State) : Res :=
  let q := s.ports[port]
  match s.portOwner port, s.txChain q 65536 q.txh with
  | some p, some l =>
    if !s.portUp port then .next s
    else
      let bad := l.any fun e => e.2.1 == 0 || decide (hqBytes < e.2.1)
      let bs := (l.map fun e => e.2.2).flatten
      let sent := !bad && decide (bs.length ≤ q.mtu.toNat)
      let t := (s.stampTx p sent l).modPort port fun q =>
        ({ q with txh := q.txh + BitVec.ofNat 32 l.length }).count (if sent then 12 else 14)
      .next (if sent then { t with out := t.out ++ [.frame port bs t.dtime] } else t)
  | _, _ => .next s

/-! ### Transmit records (R289, R290) -/

/-- Fields of a transmit record (Table 12-12). -/
def txPort (q : List Word) : Fin 8 := Fin.ofNat 8 (bits (nth q 2) 2 0)
def txTk (q : List Word) : Fin 8 := Fin.ofNat 8 (bits (nth q 2) 5 3)
def txDsp (q : List Word) : Bool := bit (nth q 2) 6
def txMt (q : List Word) : Bool := bit (nth q 2) 7
def txWm1 (q : List Word) : Nat := bits (nth q 2) 12 9
def txSym (q : List Word) : Nat := bits (nth q 2) 16 13
def txNprb (q : List Word) : Nat := bits (nth q 2) 25 17
def txEaxc (q : List Word) : Nat := bits (nth q 2) 63 48
def txVint (q : List Word) : Nat := bits (nth q 1) 39 0
def txStart (q : List Word) : Int := signed 32 (bits (nth q 3) 31 0)
def txEnd (q : List Word) : Int := signed 32 (bits (nth q 3) 63 32)
/-- A record that R7 and Table 12-12 refuse. The table reserves no bit of DATA: an address out of range is for the checks
of R279. -/
def badTx (q : List Word) : Bool :=
  (txMt q && nth q 0 != 0) ||
    bits (nth q 1) 63 40 != 0 || txNprb q == 0 || decide (273 < txNprb q) || decide (13 < txSym q) ||
    (txDsp q && txTk q != 0) || bits (nth q 4) 63 32 != 0 || bit (nth q 4) 0 ||
    (!txMt q && bits (nth q 4) 31 17 != 0) ||
    (txMt q && (bits (nth q 4) 4 1 == 0 || bits (nth q 4) 4 1 == 15)) || nth q 5 != 0 || bits (nth q 6) 63 8 != 0 ||
    nth q 7 != 0
/-- The payload of a U-plane record as the source side of R279; its elements are those of `ci16x2`. -/
def txSide (q : List Word) : Side := sideOf (txDsp q) (txTk q) false (nth q 0).toNat 8 [(6 * txNprb q, 8)]
/-- The checks of R279 on the payload. -/
def State.txChecks (s : State) (q : List Word) : Option TrapInfo :=
  let x := txSide q
  if txMt q then none
  else firstTrap [failIf (x.touches 0x100000 0x200000) (ringBad x.ringNo), s.sideToken x, s.sideRange x false,
    x.misaligned, s.sideProt x]
/-- Records that wait at a port (R289). -/
def txQueueLen : Nat := 256
/-- FHTX (R289): a release at system scope. -/
def execFhtx (a : Fin 48) (s : State) : Res :=
  let q := s.record a 8
  s.issue 0x76 a (badTx q) none none <|
    if !bit (s.prt s.myGang.p).cap1 (40 + (txPort q).val) then s.raise 0x76 { c := .engine, detail := 1 }
    else match s.txChecks q with
      | some t => s.raise 0x76 t
      | none =>
        if txQueueLen ≤ (s.txs.filter fun t => txPort t.rcd == txPort q).length then s.block 0x76 (.txQueue (txPort q)) none
        else s.pair <|
          let g := s.myGang
          let x : Tx := { id := s.nextWork, p := g.p, job := g.job, gang := g.uid, rcd := q,
                          pins := if txMt q then [] else s.sidePins (txSide q) }
          let t := s.release
          ({ t with txs := t.txs ++ [x], nextWork := t.nextWork + 1 }).retire

/-- The symbol start of a record: T(v, l), or, outside the ranges of R389, a time that the spec does not state. It is
evaluated at the send, not at the issue (log entry 81). -/
def State.txTime (s : State) (q : List Word) : Int :=
  if vintOk (txVint q) then s.symbolTime (txVint q) (txSym q) else Config.symbolStart [txVint q, txSym q]
/-- The send window of a record. -/
def State.txWindow (s : State) (t : Tx) : Int × Int := (s.txTime t.rcd + txStart t.rcd, s.txTime t.rcd + txEnd t.rcd)
/-- A record that goes before another on its port: by window, then by issue (R290). -/
def State.txBefore (s : State) (a b : Tx) : Bool :=
  let x := s.txWindow a
  let y := s.txWindow b
  decide (x.1 < y.1) || (x.1 == y.1 && (decide (x.2 < y.2) || (x.2 == y.2 && decide (a.id < b.id))))
/-- The payload of a U-plane record: its bytes, and whether a byte was poisoned. -/
def State.txData (s : State) (t : Tx) : (List Byte × Bool) × State :=
  let a := (nth t.rcd 0).toNat
  let n := 48 * txNprb t.rcd
  if txMt t.rcd then (([], false), s)
  else if txDsp t.rcd then (((s.gang t.gang).spRead a n, (s.gang t.gang).spPoisoned a n), s)
  else let (x, u) := s.readVia t.pins a n; ((x.bytes, x.poison), u)
/-- 24 signed components of PRB i of a payload. -/
def prbVals (bs : List Byte) (i : Nat) : List Int :=
  (List.range 24).map fun k => signed 16 (natOfBytes ((bs.drop (48 * i + 2 * k)).take 2))
/-- A PRB as it is sent: block floating point of width w (R89), or 16-bit values, most significant byte first. -/
def prbSent (w : Option Nat) (cs : List Int) : List Byte :=
  match w with
  | none => (cs.map fun c => (bytesOfNat 2 (wrap64 c % 65536)).reverse).flatten
  | some w =>
    let e := bfpExp w cs
    let vs := cs.map fun c => wrap64 (clampInt (intLo true w) (intHi true w) (bfpQ c e)) % 2 ^ w
    BitVec.ofNat 8 e :: (List.range (3 * w)).map fun j =>
      BitVec.ofNat 8 ((List.range 8).foldl (fun acc i =>
        let k := 8 * j + i
        2 * acc + vs.getD (k / w) 0 / 2 ^ (w - 1 - k % w) % 2) 0)
/-- The width of a record's compression: none for WM1 = 15. -/
def bfpWidth (wm1 : Nat) : Option Nat := if wm1 = 15 then none else some (wm1 + 1)
/-- The payload of a record as it is sent. -/
def txPayload (q : List Word) (bs : List Byte) : List Byte :=
  if txMt q then [] else ((List.range (txNprb q)).map fun i => prbSent (bfpWidth (txWm1 q)) (prbVals bs i)).flatten
/-- The packet of a record (R290): numPrbu, which R290 gives no width, is sent in 8 bits, so that NPRB of 256 to 272
is sent modulo 256 (log entry 57). -/
def sentOf (t : Tx) (f : Flow) (payload : List Byte) (sfn time : Nat) : Sent :=
  let q := t.rcd
  let v := txVint q
  { port := txPort q, dmac := BitVec.ofNat 48 (bits f.q0 47 0), smac := BitVec.ofNat 48 (bits f.q1 47 0),
    vlan := if bit f.q2 16 then some (BitVec.ofNat 16 (bits f.q2 15 0)) else none, seq := f.seq,
    eaxc := BitVec.ofNat 16 (txEaxc q), cplane := txMt q, frameId := BitVec.ofNat 8 sfn,
    subframe := BitVec.ofNat 4 (vSubf v), slot := BitVec.ofNat 6 (vSlot v), symbol := BitVec.ofNat 4 (txSym q),
    secId := BitVec.ofNat 12 (bits (nth q 2) 47 36), startPrb := BitVec.ofNat 10 (bits (nth q 2) 35 26),
    numPrb := BitVec.ofNat 8 (if txNprb q = 273 then 0 else txNprb q),
    udHdr := if bit (nth q 2) 8 then some (BitVec.ofNat 4 (txWm1 q)) else none,
    beam := BitVec.ofNat 15 (bits (nth q 4) 31 17), reMask := BitVec.ofNat 12 (bits (nth q 4) 16 5),
    numSymbol := BitVec.ofNat 4 (bits (nth q 4) 4 1), payload := payload, time := time }
/-- FRONTHAUL_SEND (R290, R382): in its window, and when every record before it on its port has gone, a record is sent or
dropped, and its status is posted. -/
def execFronthaulSend (tx : Nat) (s : State) : Res :=
  match s.txs.find? fun t => t.id == tx with
  | none => .next s
  | some t =>
    let q := t.rcd
    let n := txPort q
    let w := s.txWindow t
    if (s.dtime : Int) < w.1 ∨ s.txs.any (fun x => txPort x.rcd == n && x.id != tx && s.txBefore x t) then .next s
    else
      let i : Fin 512 := Fin.ofNat 512 (txEaxc q)
      let f := (s.ports[n]).flows[i]
      let gone (s : State) : State := { s with txs := s.txs.filter fun x => x.id != tx }
      if !s.portUp n ∨ !bit f.q2 17 ∨ bits f.q2 63 48 ≠ txEaxc q then .next ((gone s).postTx t 4 0)
      else if w.2 < s.dtime then .next (((gone s).countPort n 13).postTx t 1 0)
      else
        let ((bs, bad), s) := s.txData t
        let payload := txPayload q bs
        if (s.ports[n]).mtu.toNat < payload.length + Config.packetOverhead (txMt q) (bit f.q2 16) (bit (nth q 2) 8) then
          .next ((gone s).postTx t 2 0)
        else if bad then .next ((gone s).postTx t 3 0)
        else
          let x := sentOf t f payload (vSfn (txVint q)) s.dtime
          let u := (gone s).modPort n fun p =>
            { p with flows := vmod p.flows i fun f => { f with seq := f.seq + 1 } }.count 12
          .next (({ u with out := u.out ++ [Out.packet x] }).postTx t 0 s.dtime)

/-! ### Placement (R381 to R385) -/

/-- Fields of a placement entry (Table 18-7). -/
def Place.wm1 (e : Place) : Nat := bits e.q0 14 11
def Place.nprb (e : Place) : Nat := bits e.q0 23 15
def Place.exp (e : Place) : Bool := bit e.q0 10
def Place.any (e : Place) : Bool := bit e.q1 51
def Place.job (e : Place) : Nat := bits e.q1 39 0
def Place.core (e : Place) : Nat := bits e.q1 50 48 * 8 + bits e.q1 47 45
def Place.slot (e : Place) : Nat := bits e.q1 44 43
def Place.ring (e : Place) : Fin 8 := Fin.ofNat 8 (bits e.q1 42 40)
def Place.stb (e : Place) : Nat := bits e.q2 32 16
def Place.off (e : Place) : Nat := bits e.q2 15 0
def Place.mu (e : Place) : Nat := bits e.q3 19 16
/-- An entry is valid: VALID is 1, and ANY goes with JOB 0. -/
def Place.valid (e : Place) : Bool := bit e.q3 20 && !(e.any && e.job != 0)
/-- Bytes that a section of the entry writes. -/
def Place.bytes (e : Place) : Nat := if e.exp || e.wm1 == 15 then 48 * e.nprb else e.nprb * (1 + 3 * (e.wm1 + 1))
/-- A section of a packet matches the entry (R381). -/
def Place.matches_ (e : Place) (f : Frame) : Bool :=
  e.valid && bits e.q0 63 48 == f.eaxc.toNat && decide (f.symbol.toNat < 14) && bit e.q0 (34 + f.symbol.toNat)
/-- MISMATCH of R381. -/
def Place.mismatch (e : Place) (x : FhSection) : Bool :=
  let n := if x.numPrb = 0 then 273 else x.numPrb.toNat
  x.startPrb.toNat != bits e.q0 33 24 || n != e.nprb || x.bfp != bfpWidth e.wm1 ||
    x.hdr.any fun h => h != bfpWidth e.wm1
/-- Frame count of a frameId, nearest to the count at arrival (R383, R385). -/
def State.keyFrame (s : State) (f : Frame) : Int := nearest (s.frameCount s.dtime) f.frameId.toNat 256
/-- The key of a section, as its symbol's start time above −2^63 (R383, R389). A section carries no numerology: the start
time is that under the MU of the entry it matches (log entry 71). -/
def State.key (s : State) (e : Place) (f : Frame) : Nat :=
  let sub := f.subframe.toNat
  let slot := f.slot.toNat
  let t := if e.mu ≤ 4 ∧ sub < 10 ∧ slot < 2 ^ e.mu then
      s.frameStart (s.keyFrame f) + symbolOffset sub slot e.mu f.symbol.toNat
    else s.frameStart (s.keyFrame f) + Config.symbolStart [sub, slot, e.mu, f.symbol.toNat]
  (t + 2 ^ 63).toNat
/-- The vintage that an entry posts (R385). -/
def State.keyVint (s : State) (e : Place) (f : Frame) : Word :=
  word (bits e.q3 15 0 + e.mu * 2 ^ 16 + f.slot.toNat * 2 ^ 20 + f.subframe.toNat * 2 ^ 26
    + (s.keyFrame f % 1024).toNat * 2 ^ 30)
/-- The bytes that a section places: expanded to `ci16x2`, or as received (R88, Table 18-7). -/
def Place.data (e : Place) (x : FhSection) : List Byte :=
  let by_ (j : Nat) : Nat := (x.data.getD j 0).toNat
  if !e.exp then (List.range e.bytes).map fun j => x.data.getD j 0
  else ((List.range (24 * e.nprb)).map fun k =>
    let v : Int := match bfpWidth e.wm1 with
      | none => signed 16 (256 * by_ (2 * k) + by_ (2 * k + 1))
      | some w =>
        let b := k / 24 * (1 + 3 * w)
        clampInt (-32768) 32767 (signed w (beField (fun i => by_ (b + 1 + i)) w (k % 24 * w)) * (2 ^ (by_ b % 16) : Nat))
    bytesOfNat 2 (wrap64 v)).flatten

/-- The gang that holds a slot of a core for a partition (R114, R384). -/
def State.slotGang (s : State) (p : Fin 3) (core slot : Nat) : Option Gang :=
  s.gangs.find? fun g => g.p == p && g.phase != .evicted &&
    ((g.core == core && g.slots.contains slot) || (g.core2 == some core && g.slots2.contains slot))
/-- The gang that an entry targets, whose ring takes the section: none is NOTARGET (R384). -/
def State.postTarget (s : State) (p : Fin 3) (e : Place) : Option Gang :=
  (s.slotGang p e.core e.slot).filter fun g =>
    let r := g.rings[e.ring]
    (e.any || g.job == e.job) && r.cfg && r.kind == 2 && decide (e.off + e.bytes ≤ r.size)
/-- The values of ISS that number the stages committed and not yet filled, whose PEND is not 0, from FILL up (R123,
R383). -/
def Ring.openStages (r : Ring) : List (BitVec 32) :=
  ((List.range (Ring.diff r.iss r.fill)).map fun k => r.fill + BitVec.ofNat 32 k).filter fun c =>
    r.stages[r.stageNo c].pend != 0
/-- How a section with a key resolves (R383): the ISS of a stage, with the ring as it then stands, or the counter that it
is dropped in. -/
def Ring.resolve (r : Ring) (k who stb : Nat) : Except (Fin 15) (Ring × BitVec 32) :=
  match r.openStages.find? fun c => r.stages[r.stageNo c].key == some k with
  | some c => if r.stages[r.stageNo c].seen.contains who then .error 7 else .ok (r, c)
  | none =>
    if r.lk.all fun l => decide (l < k) then
      if r.full then .error 5
      else .ok ({ (r.commit stb (some k)) with lk := some k }, r.iss)
    else .error 6
/-- The posts of the stages that FILL has passed since a counter value, with those stages' posts taken off (R385). -/
def Ring.takePosts (r : Ring) (from_ : BitVec 32) : List (Nat × Word) × Ring :=
  let is := (List.range (Ring.diff r.fill from_)).map fun k => r.stageNo (from_ + BitVec.ofNat 32 k)
  ((is.map fun i => r.stages[i].posts).flatten,
   is.foldl (fun r i => { r with stages := vmod r.stages i fun st => { st with posts := [] } }) r)
/-- A section placed for the entry (R383, R385), or dropped and counted. -/
def State.placeSection (s : State) (p : Fin 3) (n : Fin 8) (i : Nat) (e : Place) (f : Frame) (x : FhSection) : State :=
  match s.postTarget p e with
  | none => s.countPort n 8
  | some g =>
    let old := g.rings[e.ring]
    match old.resolve (s.key e f) (n.val * 1024 + i) e.stb with
    | .error c => s.countPort n c
    | .ok (r, c) =>
      let st := r.stageNo c
      let post := if bits e.q0 9 8 = 2 then [(bits e.q0 7 0, s.keyVint e f)] else []
      let r := { r with stages := vmod r.stages st fun y =>
        { y with seen := (n.val * 1024 + i) :: y.seen, posts := y.posts ++ post } }
      let s := s.spWrite g.uid (r.base + st.val * r.size + e.off) (e.data x)
      let (ps, r) := (r.land c e.bytes).takePosts old.fill
      let s := (s.setRing g.uid e.ring r).countPort n 1
      ps.foldl (fun s q => s.postN p q.1 q.2) s
/-- POST 01 of a taken section: once for its key and entry (R385). -/
def State.postFirst (s : State) (p : Fin 3) (n : Fin 8) (i : Fin 1024) (e : Place) (f : Frame) : State :=
  let k := s.key e f
  if bits e.q0 9 8 ≠ 1 ∨ e.posted.contains k then s
  else (s.modPort n fun q => { q with places := vmod q.places i fun e => { e with posted := k :: e.posted } }).postN p
    (bits e.q0 7 0) (s.keyVint e f)
/-- One section of a frame (R381, R384): whether it is left unmatched for the host, and the state after it. -/
def State.section_ (s : State) (p : Fin 3) (n : Fin 8) (f : Frame) (j : Nat) (x : FhSection) : Bool × State :=
  if f.cutAt.any fun c => decide (c ≤ j) then (false, s.countPort n 9)
  else match (List.finRange 1024).find? fun i => ((s.ports[n]).places[i]).matches_ f with
    | none => if (s.ports[n]).hqen then (true, s) else (false, s.countPort n 2)
    | some i =>
      let e := (s.ports[n]).places[i]
      if x.unsupported then (false, s.countPort n 4)
      else if e.mismatch x then (false, s.countPort n 3)
      else
        let s := s.postFirst p n i e f
        (false, if e.any || e.job != 0 then s.placeSection p n i.val e f x else s)
/-- The sections of a frame one by one, from number j. -/
def State.sections (s : State) (p : Fin 3) (n : Fin 8) (f : Frame) : Nat → List FhSection → Bool × State
  | _, [] => (false, s)
  | j, x :: r =>
    let (a, s) := s.section_ p n f j x
    let (b, s) := s.sections p n f (j + 1) r
    (a || b, s)
/-- FRAME_RECEIVE (R381, R388): a port that is down receives nothing. -/
def execFrameReceive (port : Fin 8) (fr : Frame) (s : State) : Res :=
  match s.portOwner port with
  | none => .next s
  | some p =>
    if !s.portUp port then .next s
    else
      let s := s.countPort port 0
      if fr.ethertype = 0x88F7 then .next (s.toHost p port fr.raw)
      else if fr.ethertype = 0xAEFE ∧ fr.uplane then
        let (left, s) := s.sections p port fr 0 fr.sections
        let s := if fr.trailing then s.countPort port 10 else s
        .next (if left then s.toHost p port fr.raw else s)
      else if (s.ports[port]).hqen then .next (s.toHost p port fr.raw)
      else .next (s.countPort port 2)

end Sys2Proof.Machine
end

