-- ==== Sys2Proof/Machine/Waits.lean ====
section
/-!
DEFINITION. Events at a hart's instruction boundary: the end of a wait (R33), watchdogs (R125, R315, R323), time-outs
(R192, R244), breakpoints (R321), and the expiry of pin grace (R363, R364).
-/

namespace Sys2Proof.Machine

/-- A hart that its core can run: of a gang that is placed and not pre-empted. -/
def State.onCore (s : State) (h : HartId) : Bool :=
  (s.gang? h.gang).any fun g => g.phase == .placed && decide (h.rank.val < g.hn)
/-- A trap at the instruction boundary of a user hart (R316). -/
def State.boundaryTrap (s : State) (h : HartId) (op : Nat) (t : TrapInfo) : State := s.trapAt h op (s.hart h).pc t

/-! ### Hearth calls (R324, R328) -/

/-- The call that the supervisor thread of a hart waits for. -/
def State.call? (s : State) (h : HartId) : Option Call :=
  let x := s.hart h
  if (s.gang? h.gang).isSome ∧ x.st = .trapped ∧ x.sup.st = .blocked then x.sup.call else none
/-- Calls of a partition that are not answered. -/
def State.calls (s : State) (p : Fin 3) : List Call :=
  ((s.gangs.filter fun g => g.p == p).map fun g => g.harts.toList.filterMap fun h => h.sup.call).flatten
/-- Calls that the firmware serves at once (R324). -/
def servedCalls : Nat := 256
/-- The firmware of the partition can take a call: it is the earliest that waits, fewer than 256 are being served, and no
switch runs (R324, R328). -/
def State.takes (s : State) (h : HartId) (n : Nat) : Option Call :=
  let p := (s.gang h.gang).p
  let cs := s.calls p
  (s.call? h).filter fun c => c.n == n && !c.taken && (s.prt p).switch.isNone &&
    (cs.all fun d => d.taken || decide (c.seq ≤ d.seq)) && decide ((cs.filter Call.taken).length < servedCalls)
/-- The thread continues after its call, with results: an acquire (R324, R325). -/
def Hart.answer (h : Hart) (rs : List (Fin 32 × Word)) : Hart :=
  { h with cache := [], sup := { h.sup with
      st := .running, call := none, wait := none, pc := h.sup.pc + 8, g := rs.foldl (fun g r => vput g r.1 r.2) h.sup.g } }
def State.answer (s : State) (h : HartId) (status : Word) (rs : List (Fin 32 × Word)) : State :=
  s.modHart h fun x => x.answer ((1, status) :: rs)

/-! ### Waits -/

/-- The event that a thread of the current hart waits for may have come: exactly, where the state says so, and otherwise
the instruction is evaluated again. -/
def State.waitOver (s : State) (w : Wait) : Bool :=
  let g := s.myGang
  match w.what with
  | .bwait _ | .rwait _ | .ringEmpty _ | .ringFull _ | .wfe => g.eventCame s.cur.rank w
  | .commitFull n tree =>
    decide (s.commitUsed g.core + n ≤ commitEntries) || s.hasRight s.myJob (s.ticket s.cur) tree
  | .message c => (vget (s.prt g.p).tasks c TaskEntry.empty).waiting < 255
  | .invalidation id => s.invalDone id
  | .twait | .vwaitc | .caskFull | .copyQueue | .codingQueue | .txQueue _ | .fill | .ordered => true
/-- BLOCKED_HART_RESUME (R33): the hart's instruction is evaluated again; a Hearth call whose number the firmware does not
know is answered with status 1 when its turn comes (R324), on a core or not (R326). -/
def execBlockedHartResume (h : HartId) (s : State) : Res :=
  match s.call? h with
  | some c => .next (if !serviceKnown c.n ∧ (s.takes h c.n).isSome then s.answer h 1 [] else s)
  | none =>
    if !s.onCore h then .next s
    else .next (s.asHart h fun s =>
      let x := s.me
      match x.st with
      | .blocked => if x.wait.all s.waitOver then s.modMe fun x => { x with st := .running } else s
      | .trapped =>
        if x.sup.st = .blocked ∧ x.sup.call = none ∧ x.sup.wait.all s.waitOver then s.modSup fun t => { t with st := .running }
        else s
      | _ => s)
/-- The `ei` that WATCHDOG leaves: vector loads, stores and atomics keep theirs, every other instruction that waits is
all-or-nothing or resumes at 0 (R244, R249, R316). -/
def watchdogEi (op ei : Nat) : Nat :=
  if (0x42 ≤ op ∧ op ≤ 0x4B) ∨ op = 0x50 ∨ op = 0x51 then ei else 0
/-- A hart may be waiting by spinning for an ordered operation of a higher key (R43): it has run for 2^24 cycles with its
ticket unsealed, and there are higher keys in a scope of its job. -/
def State.maySpin (s : State) (h : HartId) : Bool :=
  let x := s.hart h
  let j := s.jobOf (s.gang h.gang)
  x.st == .running && decide (waitLimit ≤ x.spun) && !x.sealed &&
    (decide (s.ticket h + 1 < j.tickets) || j.spawnKey.isSome)
/-- WAIT_WATCHDOG (R43, R125, R192, R244, R274): WATCHDOG at the instruction that waits, unless what it waits for came
first; in the supervisor thread it kills the hart (R315). R43 has it reach a hart that waits by spinning too, and no rule
says how the device finds one: whether a hart that may be spinning is found is the device's choice (1 finds it), and the
trap is taken at the instruction boundary, with OP 0 (log entry 73). -/
def execWaitWatchdog (h : HartId) (s : State) : Res :=
  let x := s.hart h
  let due := (s.gang h.gang).watchdogDue h.rank s.cyc
  if !s.onCore h then .next s
  else match x.st, x.wait, x.sup.wait with
    | .blocked, some w, _ =>
      .next (if due w then
          s.boundaryTrap h w.op { c := .watchdog, detail := 1, addr := w.addr, ei := watchdogEi w.op x.ei } else s)
    | .trapped, _, some w =>
      .next (if x.sup.st = .blocked ∧ due w then s.killHart h Cause.watchdog.code else s)
    | _, _, _ =>
      if s.maySpin h then
        let (c, t) := s.choose
        .next (if c = 1 then t.boundaryTrap h 0 { c := .watchdog, detail := 1, ei := x.ei } else t)
      else .next s
/-- A blocked hart's wait of a kind has reached its time-out. -/
def State.timedOut (s : State) (h : HartId) (kind : Wait → Bool) : Bool :=
  s.onCore h && (s.hart h).st == .blocked &&
    (s.hart h).wait.any fun x => kind x && x.ends.any fun e => decide (e ≤ s.dtime)
/-- WFE_TIMEOUT (R192): the `WFE` returns, with the event register cleared. -/
def execWfeTimeout (h : HartId) (s : State) : Res :=
  if !s.timedOut h fun w => w.what == .wfe then .next s
  else .next (s.modHart h fun x => { (x.retire (x.pc + 8)) with st := .running, evt := false })
/-- VWAITC_TIMEOUT (R244): the `VWAITC` makes its last evaluation. -/
def execVwaitcTimeout (h : HartId) (s : State) : Res :=
  if !s.timedOut h fun w => w.what == .vwaitc || w.ofVwaitc then .next s
  else .next (s.modHart h fun x =>
    { x with st := .running, wait := x.wait.map fun w => { w with expired := true } })

/-! ### Watchdogs and breakpoints at a boundary -/

/-- LOCK_HOLD_WATCHDOG (R323). -/
def execLockHoldWatchdog (h : HartId) (s : State) : Res :=
  let x := s.hart h
  if !s.onCore h ∨ (x.st ≠ .running ∧ x.st ≠ .blocked) ∨ x.hold < x.holdLimit then .next s
  else .next (s.boundaryTrap h 0 { c := .watchdog, detail := 2, addr := x.lockAddr, ei := x.ei })
/-- HANDLER_WATCHDOG (R315). -/
def execHandlerWatchdog (h : HartId) (s : State) : Res :=
  let x := s.hart h
  if !s.onCore h ∨ x.st ≠ .trapped ∨ x.sup.st ≠ .running ∨ x.sup.ran < handlerLimit then .next s
  else .next (s.killHart h Cause.watchdog.code)
/-- ADDRESS_BREAKPOINT (R321): before the instruction at BPA, but for the first after `ERET`. -/
def execAddressBreakpoint (h : HartId) (s : State) : Res :=
  let x := s.hart h
  if !s.onCore h ∨ x.st ≠ .running ∨ !x.sup.bpe ∨ x.bpExempt ∨ x.pc ≠ x.sup.bpa.setWidth 64 then .next s
  else .next (s.boundaryTrap h 0 { c := .brk, src := 1, ei := x.ei })
/-- SINGLE_STEP (R321): after the one instruction that SSTEP let through. -/
def execSingleStep (h : HartId) (s : State) : Res :=
  let x := s.hart h
  if !s.onCore h ∨ x.st ≠ .running ∨ !x.stepDue then .next s
  else .next (s.boundaryTrap h 0 { c := .brk, src := 2 })

/-! ### Pin grace -/

/-- Nanoseconds that a pin outlives the start of an invalidation (R363). -/
def pinGrace : Nat := 100000
/-- PIN_GRACE_EXPIRY (R229, R363, R364): marked tokens are revoked, those of a hart inside an instruction once that has
ended (`State.tick`), and sweeps lose their marked translations. -/
def execPinGraceExpiry (inv : Nat) (s : State) : Res :=
  match s.invals.find? fun i => i.id == inv with
  | none => .next s
  | some i =>
    if s.dtime < i.since + pinGrace then .next s
    else
      let keep (l : List Pin) : List Pin := l.filter fun q => !q.mark.contains inv
      .next { s with
        invals := s.invals.map fun j => if j.id = inv then { j with expired := true } else j
        gangs := s.gangs.map fun g => { g with harts := g.harts.map (Hart.revoke inv) }
        sweeps := s.sweeps.map fun w =>
          { w with tblPins := keep w.tblPins, pagePins := keep w.pagePins,
                   subs := w.subs.map fun b => { b with pins := keep b.pins } } }

end Sys2Proof.Machine
end

