-- ==== Sys2Proof/Machine/Services.lean ====
section
/-!
DEFINITION. The Hearth services that a supervisor thread calls (R324, R325, R377), the firmware switch (R328, R399), and
the function blocks of the host (R373 to R376).
-/

namespace Sys2Proof.Machine

/-! ### Calls -/

/-- Argument k of a call: `g`k of the supervisor thread. -/
def State.arg (s : State) (h : HartId) (k : Fin 32) : Word := (s.hart h).sup.g[k]
/-- What a call does once the firmware takes it; an event without a call to take does nothing. -/
def State.serve (s : State) (h : HartId) (n : Nat) (k : Call → State) : Res :=
  match s.takes h n with
  | none => .next s
  | some c => .next (k c)
/-- Bytes read through the scalar translation of a supervisor thread (R325): none where a page cannot be read, or where a
byte is poisoned (R402; log entry 26). -/
def State.readSup (s : State) (p : Fin 3) (vf : Fin 64) : List (Nat × Nat) → Option (List Byte × State)
  | [] => some ([], s)
  | (a, n) :: r =>
    match s.walk p vf a with
    | .error _ => none
    | .ok l =>
      if (s.leafCheck p true .read l a (a + n - 1)).isSome ∨ s.readPoison (l.pin.loc a) n then none
      else (((s.afterRead (l.pin.loc a) n).readSup p vf r)).map fun x => (s.readHome (l.pin.loc a) n ++ x.1, x.2)
/-- The state after a read of arguments that failed: an error completion of the host is used up (R371). -/
def State.supFailed (s : State) (p : Fin 3) (vf : Fin 64) : List (Nat × Nat) → State
  | [] => s
  | (a, n) :: r =>
    match s.walk p vf a with
    | .error c => s.untranslated p vf a c
    | .ok l =>
      if (s.leafCheck p true .read l a (a + n - 1)).isSome then s
      else if s.readPoison (l.pin.loc a) n then s.afterPoison (l.pin.loc a) n
      else (s.afterRead (l.pin.loc a) n).supFailed p vf r
/-- The bytes of an argument range of a call. -/
def State.argBytes (s : State) (h : HartId) (a n : Nat) : Option (List Byte × State) :=
  let g := s.gang h.gang
  s.readSup g.p (s.jobOf g).vf (linePieces a n)
/-- A call whose arguments cannot be read returns status 3 (Table 15-6). -/
def State.badArgs (s : State) (h : HartId) (a n : Nat) : State :=
  let g := s.gang h.gang
  (s.supFailed g.p (s.jobOf g).vf (linePieces a n)).answer h 3 []

/-- KILL (R324): kills the user hart with the cause in `g1`; a cause of 0 is a bad argument. -/
def execKill (h : HartId) (s : State) : Res :=
  s.serve h 1 fun _ =>
    let c := bits (s.arg h 1) 7 0
    if c = 0 then s.answer h 3 [] else s.killHart h c
/-- LOG (R324): bytes appended to the VF's log. -/
def execLog (h : HartId) (s : State) : Res :=
  s.serve h 3 fun _ =>
    let g := s.gang h.gang
    let n := (s.arg h 2).toNat
    if n = 0 ∨ 256 < n then s.answer h 3 []
    else match s.argBytes h (s.arg h 1).toNat n with
      | none => s.badArgs h (s.arg h 1).toNat n
      | some (bs, t) => (t.modFunc g.p (s.jobOf g).vf fun f => { f with log := f.log ++ bs }).answer h 0 []
/-- ABANDON (R324, R344): abandons the job as at a missed deadline, so its descendants go with it under policy 00, and with
`g1` = 0 whatever the policy is. Table 15-6 names the job only for `g1` = 1; the model follows the set that R344 gives (log
entry 41). -/
def execAbandon (h : HartId) (s : State) : Res :=
  s.serve h 4 fun _ =>
    let x := s.arg h 1
    if x ≠ 0 ∧ x ≠ 1 then s.answer h 3 []
    else
      let j := s.jobOf (s.gang h.gang)
      s.abandonTree j .abandoned (x == 0 || j.takesKids) s.dtime
/-- INFO (R324): SVER and `cap1`. -/
def execInfo (h : HartId) (s : State) : Res :=
  s.serve h 5 fun _ =>
    s.answer h 0 [(2, (s.hart h).sup.sver.setWidth 64), (3, (s.prt (s.gang h.gang).p).cap1)]

/-! ### The host fault queue (R377) -/

/-- The fault-queue entry of a call: 320 bytes, of which the spec gives none after the message: free values (log entries
2, 40). -/
def State.fqBytes (s : State) (h : HartId) (c : Call) (msg : List Byte) : List Byte :=
  let g := s.gang h.gang
  let slot := g.slots.getD h.rank.val 0
  bytesOfNat 8 (c.seq % 2 ^ 32 + msg.length * 2 ^ 32) ++ bytesOfNat 8 g.job ++ bytesOfNat 8 (g.core + slot * 256) ++
    bytesOfNat 8 0 ++ msg ++
    freeBytes s.freeCtr (fqEntry - 32 - msg.length)
/-- HOSTQ (R324, R377): the message is posted and the call waits for its reply; a full queue answers RETRY. -/
def execHostq (h : HartId) (s : State) : Res :=
  s.serve h 2 fun c =>
    let g := s.gang h.gang
    let vf := (s.jobOf g).vf
    let n := (s.arg h 2).toNat
    if n < 8 ∨ 256 < n ∨ n % 8 ≠ 0 then s.answer h 3 []
    else match s.argBytes h (s.arg h 1).toNat n with
      | none => s.badArgs h (s.arg h 1).toNat n
      | some (bs, t) =>
        let f := t.func g.p vf
        let k := f.fqn.toNat
        if k = 0 ∨ (f.fqt - f.fqh).toNat = 2 ^ k then s.answer h 2 []
        else
          let t := ({ t with freeCtr := t.freeCtr + fqEntry }.writeHome g.p g.job (f.fqLoc f.fqt) (t.fqBytes h c bs)).modFunc
            g.p vf fun f => { f with fqt := f.fqt + 1 }
          let ends := if s.arg h 3 = 0 then none else some (s.dtime + (s.arg h 3).toNat)
          t.modHart h fun x => { x with sup := { x.sup with call := some { c with taken := true, ends := ends, entry := some f.fqt } } }
/-- HOSTQ_TIMEOUT (R324, R377): status 4. -/
def execHostqTimeout (h : HartId) (s : State) : Res :=
  match s.call? h with
  | some c => .next (if c.n = 2 ∧ c.taken ∧ c.ends.any fun e => decide (e ≤ s.dtime) then s.answer h 4 [] else s)
  | none => .next s
/-- FAULT_QUEUE_REPLY (R377): a write of FQRS answers the call of the function with its sequence number; another is
ignored. -/
def execFaultQueueReply (p : Fin 3) (vf : Fin 64) (seq : BitVec 32) (s : State) : Res :=
  let v := (s.func p vf).fqrv
  let waits (h : HartId) : Bool := (s.call? h).any fun c => c.n == 2 && c.taken && c.seq % 2 ^ 32 == seq.toNat
  let hs := ((s.gangs.filter fun g => g.p == p && (s.jobOf g).vf == vf).map fun g =>
    g.ranks.map fun r => ({ gang := g.uid, rank := r } : HartId)).flatten
  if !s.inRun p then .next s
  else .next ((hs.filter waits).foldl (fun s h => s.answer h 0 [(2, v)]) s)

/-! ### Function blocks -/

/-- A job of the function is in flight (R373). -/
def State.funcBusy (s : State) (p : Fin 3) (vf : Fin 64) : Bool := s.jobs.any fun j => j.p == p && j.vf == vf
/-- A write of a function block that R373 or R374 ignores, with CERR [0], while a job of the function is in flight. -/
def State.configFunc (s : State) (p : Fin 3) (vf : Fin 64) (f : Func → Func) : Res :=
  if !s.inRun p then .next s
  else if s.funcBusy p vf then .next (s.modFunc p vf fun x => { x with cerr := x.cerr ||| 1 })
  else .next (s.modFunc p vf f)
/-- FUNCTION_CONFIG_WRITE (R373): ROOT or SVEC. -/
def execFunctionConfigWrite (p : Fin 3) (vf : Fin 64) (off : BitVec 16) (v : Word) (s : State) : Res :=
  if off = 0x1100 then s.configFunc p vf fun f => { f with root := BitVec.ofNat 39 (bits v 51 13), rootv := bit v 0 }
  else if off = 0x1108 then s.configFunc p vf fun f => { f with svec := BitVec.ofNat 53 (bits v 55 3) }
  else .next s
/-- ARENA_GRANT (R374): ABASEn with AGn. -/
def execArenaGrant (p : Fin 3) (vf : Fin 64) (n : Fin 4) (v : Word) (s : State) : Res :=
  s.configFunc p vf fun f =>
    { f with abase := vput f.abase n (BitVec.ofNat 40 (bits v 55 16)), ag := vput f.ag n (bit v 0) }
/-- IGO of a function (R375): it starts an invalidation, or, while one runs, is ignored and sets CERR [1]. -/
def State.igo (s : State) (p : Fin 3) (vf : Fin 64) (kind : BitVec 2) (va : Option (BitVec 40)) : State :=
  let s := s.modFunc p vf fun f => { f with ikind := kind, iva := va.getD f.iva }
  if (s.func p vf).ibusy.isSome then s.modFunc p vf fun f => { f with cerr := f.cerr ||| 2 }
  else
    let id := s.nextInval
    (s.startInval p (some vf) (va.map fun a => a.toNat * 65536)).modFunc p vf fun f => { f with ibusy := some id }
/-- INVALIDATE_PAGE (R375). -/
def execInvalidatePage (p : Fin 3) (vf : Fin 64) (va : BitVec 56) (s : State) : Res :=
  if s.inRun p then .next (s.igo p vf 0 (some (BitVec.ofNat 40 (va.toNat / 65536)))) else .next s
/-- INVALIDATE_FUNCTION (R375). -/
def execInvalidateFunction (p : Fin 3) (vf : Fin 64) (s : State) : Res :=
  if s.inRun p then .next (s.igo p vf 1 none) else .next s
/-- INVALIDATION_COMPLETE (R197, R375): IBUSY clears. -/
def execInvalidationComplete (p : Fin 3) (vf : Fin 64) (s : State) : Res :=
  match (s.func p vf).ibusy with
  | some id =>
    if s.invalDone id then
      .next ((s.endInval id).modFunc p vf fun f => { f with ibusy := none })
    else .next s
  | none => .next s
/-- JOB_KILL_REQUEST (R343, R376): the procedure of R344 for the job alone; another value is ignored. -/
def execJobKillRequest (p : Fin 3) (vf : Fin 64) (job : BitVec 40) (s : State) : Res :=
  match s.job? p job.toNat with
  | some j => .next (if s.inRun p ∧ j.vf = vf then s.abandonJob p job.toNat .killed s.dtime else s)
  | none => .next s

end Sys2Proof.Machine
end

