-- ==== Sys2Proof/Machine/Registers.lean ====
section
/-!
DEFINITION. Registers of BAR0, as the host writes and reads them: fronthaul ports (R379, R382), the time block (R386,
R387, R389), and the plain registers (R4, R6, R372).
-/

namespace Sys2Proof.Machine

/-! ### Fronthaul ports -/

/-- A port is granted to a partition in RUN (R379). -/
def State.holdsPort (s : State) (p : Fin 3) (n : Fin 8) : Bool := s.inRun p && bit (s.prt p).cap1 (40 + n.val)
/-- A register of a port block below its entries (Table 18-5), which gives MTU up to 9,216 and does not say what a larger
write does: the model stores 9,216 (log entry 70). -/
def Port.write (q : Port) (off : Nat) (v : Word) : Port :=
  if off = 0x0000 then { q with mtu := BitVec.ofNat 14 (min 9216 (bits v 29 16)), hqen := bit v 3, rate := BitVec.ofNat 3 (bits v 2 0) }
  else if off = 0x0200 then { q with rxb := BitVec.ofNat 40 (bits v 51 12), rxn := BitVec.ofNat 4 (bits v 3 0) }
  else if off = 0x0210 then { q with rxh := v.setWidth 32 }
  else if off = 0x0220 then { q with txb := BitVec.ofNat 40 (bits v 51 12), txn := BitVec.ofNat 4 (bits v 3 0) }
  else if off = 0x0228 then { q with txt := v.setWidth 32 }
  else q
/-- PORT_CONFIG_WRITE (R372, R379). -/
def execPortConfigWrite (p : Fin 3) (port : Fin 8) (off : BitVec 16) (v : Word) (s : State) : Res :=
  .next (if s.holdsPort p port then s.modPort port fun q => q.write off.toNat v else s)
/-- FLOW_ENTRY_WRITE (Table 18-6): the sequence number returns to 0. -/
def execFlowEntryWrite (p : Fin 3) (port : Fin 8) (i : Fin 512) (q0 q1 q2 _q3 : Word) (s : State) : Res :=
  let f : Flow := { q0 := q0 &&& 0x0000FFFFFFFFFFFF, q1 := q1 &&& 0x0000FFFFFFFFFFFF, q2 := q2 &&& 0xFFFF00000003FFFF, seq := 0 }
  .next (if s.holdsPort p port then s.modPort port fun q => { q with flows := vput q.flows i f } else s)
/-- PLACEMENT_ENTRY_WRITE (R382, Table 18-7). R385 posts once per key and entry, and does not say whether an entry that is
written again is another: the model clears the keys it has posted (log entry 71). -/
def execPlacementEntryWrite (p : Fin 3) (port : Fin 8) (i : Fin 1024) (q0 q1 q2 q3 : Word) (s : State) : Res :=
  let e : Place := { q0 := q0, q1 := q1 &&& 0x000FFFFFFFFFFFFF, q2 := q2 &&& 0x00000001FFFFFFFF,
                     q3 := q3 &&& 0x00000000001FFFFF, posted := [] }
  .next (if s.holdsPort p port then s.modPort port fun q => { q with places := vput q.places i e } else s)

/-! ### Time (R386, R387) -/

/-- The partition is the time owner, in RUN (R386). -/
def State.ownsTime (s : State) (p : Fin 3) : Bool := s.inRun p && (s.prt p).town
/-- TSET (R386); the time since the servo's last write stays what it is (R387). -/
def execTset (p : Fin 3) (v : Word) (s : State) : Res :=
  if !s.ownsTime p then .next s
  else if s.jobs = [] ∧ s.tstate = 0 then
    .next { s with dtime := v.toNat, dfrac := 0, lastTick := v.toNat,
                   lastServo := s.lastServo + ((v.toNat : Int) - s.dtime) }
  else .next { s with terr := true }
/-- Units of TREM in a nanosecond. -/
def tremUnit : Int := 10000
/-- TOFF (R386). -/
def execToff (p : Fin 3) (v : Word) (s : State) : Res :=
  if !s.ownsTime p then .next s
  else .next { s with trem := s.trem + v.toInt * tremUnit, lastServo := s.dtime }
/-- Nanoseconds without the servo after which time is in holdover (R387). -/
def servoLimit : Nat := 16000000000
/-- HOLDOVER_TIMEOUT (R387). -/
def execHoldoverTimeout (s : State) : Res :=
  .next (if s.tstate = 1 ∧ s.lastServo + servoLimit ≤ s.dtime then { s with tstate := 2 } else s)
/-- SYNCE_LOCK_CHANGE (R387). -/
def execSynceLockChange (up : Bool) (s : State) : Res := .next { s with synceLock := up }
/-- A register of the time block with no behaviour of its own (Table 18-9). -/
def State.timeWrite (s : State) (off : Nat) (v : Word) : State :=
  if off = 0x10 then { s with tfadj := v.setWidth 32, lastServo := s.dtime }
  else if off = 0x28 then { s with tfoff := v }
  else if off = 0x30 then
    { s with sen := bit v 7, sport := BitVec.ofNat 3 (bits v 6 4), terr := s.terr && !bit v 3,
             tstate := if bits v 1 0 = 3 then 0 else BitVec.ofNat 2 (bits v 1 0) }
  else s

/-! ### Plain registers of BAR0 (R6, R372) -/

/-- Quadword k of a launch slot written. -/
def LaunchRec.put (r : LaunchRec) (k : Nat) (v : Word) : LaunchRec :=
  match k with
  | 0 => { r with q0 := v } | 1 => { r with q1 := v } | 2 => { r with q2 := v } | 3 => { r with q3 := v }
  | 4 => { r with q4 := v } | 5 => { r with q5 := v } | 6 => { r with q6 := v } | _ => { r with q7 := v }
/-- A register of a function block with no behaviour of its own (Table 18-3). The table gives FQN as 0 to 12 and does not
say what a larger write does: the model stores 12 (log entry 70). -/
def Func.write (f : Func) (off : Nat) (v : Word) : Func :=
  if off < 0x1000 then { f with slots := vmod f.slots (Fin.ofNat 64 (off / 64)) fun r => r.put (off / 8 % 8) v }
  else if off = 0x1010 then { f with lerr := f.lerr && !bit v 0 }
  else if off = 0x1400 then { f with fqb := BitVec.ofNat 40 (bits v 51 12), fqn := BitVec.ofNat 4 (min 12 (bits v 3 0)) }
  else if off = 0x1410 then { f with fqh := v.setWidth 32 }
  else if off = 0x1418 then { f with fqrv := v }
  else if off = 0x1510 then { f with cerr := f.cerr &&& ~~~ (v.setWidth 2) }
  else if off = 0x1300 then
    -- IGO = 0 writes the address and the kind; IGO = 1 with another kind is ignored, with CERR [1]
    let g := { f with iva := BitVec.ofNat 40 (bits v 55 16), ikind := BitVec.ofNat 2 (bits v 2 1) }
    if !bit v 0 then g else if 1 < bits v 2 1 then { g with cerr := g.cerr ||| 2 } else f
  else f
/-- A register of a physical function's BAR0 beside its function block, its time block and its ports (Tables 16-4,
18-2). -/
def Part.write (q : Part) (off : Nat) (v : Word) : Part :=
  if off = 0x110000 then
    { q with preth := BitVec.ofNat 32 (bits v 63 32), aben := bit v 8, abch := BitVec.ofNat 8 (bits v 7 0) }
  else if off = 0x110008 then
    { q with urgth := BitVec.ofNat 32 (bits v 63 32), jmax := BitVec.ofNat 14 (bits v 15 2), bediv := BitVec.ofNat 2 (bits v 1 0) }
  else if off = 0x110020 then { q with twgrant := BitVec.ofNat 8 (bits v 7 0) }
  else q
/-- REGISTER_WRITE (R6, R372): a write of a BAR0 register that has no step of its own; another offset is left as it is. -/
def execRegisterWrite (p : Fin 3) (vf : Fin 64) (off : BitVec 25) (v : Word) (s : State) : Res :=
  let o := off.toNat
  if !s.inRun p ∨ o % 8 ≠ 0 then .next s
  else if o < 0x10000 then .next (s.modFunc p vf fun f => f.write o v)
  else if vf ≠ 0 then .next s
  else if 0x200000 ≤ o ∧ o < 0x200100 then .next (if s.ownsTime p then s.timeWrite (o - 0x200000) v else s)
  else if 0x400000 ≤ o ∧ o < 0x480000 then
    let n : Fin 8 := Fin.ofNat 8 ((o - 0x400000) / 0x10000)
    .next (if s.holdsPort p n then s.modPort n fun q => q.write (o % 0x10000) v else s)
  else .next (s.modPart p fun q => q.write o v)

/-! ### Reads (R6, R372) -/

/-- Quadword k of a launch slot. -/
def LaunchRec.get (r : LaunchRec) (k : Nat) : Word :=
  match k with
  | 0 => r.q0 | 1 => r.q1 | 2 => r.q2 | 3 => r.q3 | 4 => r.q4 | 5 => r.q5 | 6 => r.q6 | _ => r.q7
/-- A register of a function block (Table 18-3): IGO, FQRS and KILL read as zero, as an unassigned offset does. -/
def Func.read (f : Func) (off : Nat) : Word :=
  if off < 0x1000 then (f.slots[Fin.ofNat 64 (off / 64)]).get (off / 8 % 8)
  else if 0x1200 ≤ off ∧ off < 0x1240 then
    if off % 16 = 0 then
      let n : Fin 4 := Fin.ofNat 4 ((off - 0x1200) / 16)
      word (f.abase[n].toNat * 2 ^ 16) ||| oneIf f.ag[n]
    else 0
  else match off with
    | 0x1000 => f.ltail.setWidth 64
    | 0x1008 => f.lhead.setWidth 64
    | 0x1010 => oneIf f.lerr
    | 0x1100 => word (f.root.toNat * 2 ^ 13) ||| oneIf f.rootv
    | 0x1108 => word (f.svec.toNat * 2 ^ 3)
    | 0x1300 => word (f.iva.toNat * 2 ^ 16 + f.ikind.toNat * 2)
    | 0x1308 => oneIf f.ibusy.isSome
    | 0x1400 => word (f.fqb.toNat * 2 ^ 12 + f.fqn.toNat)
    | 0x1408 => f.fqt.setWidth 64
    | 0x1410 => f.fqh.setWidth 64
    | 0x1418 => f.fqrv
    | 0x1510 => f.cerr.setWidth 64
    | _ => 0
/-- Quadword k of a task-table entry (Table 16-2). -/
def TaskEntry.word (t : TaskEntry) (k : Nat) : Word :=
  match k with
  | 0 => t.tmplVa.setWidth 64
  | 1 => Machine.word (t.doff.toNat * 2 ^ 32 + t.pend * 2 ^ 24 + t.vf.toNat * 2 ^ 8 + t.pmode.toNat * 4) |||
      oneIf t.blk <<< 1 ||| oneIf t.valid
  | 2 => t.perm
  | _ => Machine.word (t.pcl.toNat * 32 + t.pcore.toNat * 4 + t.pslot.toNat) ||| oneIf t.rsv <<< 9 ||| oneIf t.pin <<< 8
/-- A register of a physical function's BAR0 beside its function block, its time block and its ports (Tables 16-4,
18-2). -/
def Part.read (q : Part) (off : Nat) : Word :=
  if 0x100000 ≤ off ∧ off < 0x102000 then (q.tasks[Fin.ofNat 256 ((off - 0x100000) / 32)]).word (off / 8 % 4)
  else match off with
    | 0x110000 => word (q.preth.toNat * 2 ^ 32 + q.abch.toNat) ||| oneIf q.aben <<< 8
    | 0x110008 => word (q.urgth.toNat * 2 ^ 32 + q.jmax.toNat * 4 + q.bediv.toNat)
    | 0x110010 => q.rmcnt
    | 0x110018 => word (q.dropPosts.toNat * 2 ^ 32 + q.dropRecs.toNat)
    | 0x110020 => q.twgrant.setWidth 64
    | 0x110028 => q.twdrop
    | _ => 0
/-- A register of the time block (Table 18-9); TSET and TOFF read as zero, TREM in whole nanoseconds (log entry 39). -/
def State.timeRead (s : State) (off : Nat) : Word :=
  match off with
  | 0x00 => word s.dtime
  | 0x10 => s.tfadj.setWidth 64
  | 0x20 => BitVec.ofInt 64 (s.trem.tdiv tremUnit)
  | 0x28 => s.tfoff
  | 0x30 => word (s.sport.toNat * 16 + s.tstate.toNat) ||| oneIf s.sen <<< 7 ||| oneIf s.terr <<< 3
  | _ => 0
/-- A register of a port block (Tables 18-5 to 18-7). -/
def State.portRead (s : State) (n : Fin 8) (off : Nat) : Word :=
  let q := s.ports[n]
  let quad (a b c d : Word) : Word := match off / 8 % 4 with | 0 => a | 1 => b | 2 => c | _ => d
  if 0x100 ≤ off ∧ off < 0x178 then vget q.cnt ((off - 0x100) / 8) 0
  else if 0x1000 ≤ off ∧ off < 0x5000 then
    let e := q.flows[Fin.ofNat 512 ((off - 0x1000) / 32)]
    quad e.q0 e.q1 e.q2 (e.seq.setWidth 64)
  else if 0x8000 ≤ off then
    let e := q.places[Fin.ofNat 1024 ((off - 0x8000) / 32)]
    quad e.q0 e.q1 e.q2 e.q3
  else match off with
    | 0x0000 => word (q.mtu.toNat * 2 ^ 16 + s.portRate n) ||| oneIf q.hqen <<< 3
    | 0x0008 => oneIf (s.portUp n)
    | 0x0200 => word (q.rxb.toNat * 2 ^ 12 + q.rxn.toNat)
    | 0x0208 => q.rxt.setWidth 64
    | 0x0210 => q.rxh.setWidth 64
    | 0x0220 => word (q.txb.toNat * 2 ^ 12 + q.txn.toNat)
    | 0x0228 => q.txt.setWidth 64
    | 0x0230 => q.txh.setWidth 64
    | _ => 0
/-- The host's read of the BAR0 of a function of a partition (R4, R6, R372): reserved bits, write-only registers,
unassigned offsets and ports outside PFH read as zero. The spec does not speak of an offset within an assigned register that
is no multiple of 8: the model takes it as unassigned, for reads and for writes (log entry 70). -/
def State.registerRead (s : State) (p : Fin 3) (vf : Fin 64) (off : Nat) : Word :=
  if off % 8 ≠ 0 then 0
  else if off < 0x10000 then (s.func p vf).read off
  else if vf ≠ 0 then 0
  else if 0x200000 ≤ off ∧ off < 0x200100 then s.timeRead (off - 0x200000)
  else if 0x400000 ≤ off ∧ off < 0x480000 then
    let n : Fin 8 := Fin.ofNat 8 ((off - 0x400000) / 0x10000)
    if s.holdsPort p n then s.portRead n (off % 0x10000) else 0
  else (s.prt p).read off

end Sys2Proof.Machine
end

