-- ==== Sys2Proof/Machine/HostPort.lean ====
section
/-!
DEFINITION. The links (R369, R378, R379), and accesses that arrive from the host and the twin (R370, R371, R378).
-/

namespace Sys2Proof.Machine

/-! ### Links -/

/-- The generations that a link trains at (R21, R369, R378). -/
def linkGen (g : BitVec 4) : Bool := g == 4 || g == 5 || g == 6
/-- HOST_LINK_TRAIN (R21, R369): generation 0 is a link that is down; HOSTC pages are usable only in a CXL mode; what no
link of Table 1-7 trains to changes nothing. The snoop filter of CXL 3.1 mode is empty where that mode begins or ends
(R370, log entry 30). -/
def execHostLinkTrain (gen : BitVec 4) (width : BitVec 5) (cxl : BitVec 4) (hostc : Bool) (s : State) : Res :=
  .next (if gen = 0 then { s with hgen := 0, hwid := 0, cxlv := 0, hostc := false, snoop := [] }
    else if linkGen gen && [1, 2, 4, 8, 16].contains width.toNat && decide (cxl.toNat ≤ 3) then
      { s with hgen := gen, hwid := width, cxlv := cxl, hostc := hostc && cxl != 0,
               snoop := if s.cxlv = 3 ∧ cxl = 3 then s.snoop else [] }
    else s)
/-- TWIN_LINK_TRAIN (R21, R378): as for the host link, up to eight lanes. -/
def execTwinLinkTrain (gen width : BitVec 4) (s : State) : Res :=
  .next (if gen = 0 then { s with tgen := 0, twid := 0 }
    else if linkGen gen && [1, 2, 4, 8].contains width.toNat then { s with tgen := gen, twid := width } else s)
/-- PORT_LINK_CHANGE (R379). -/
def execPortLinkChange (port : Fin 8) (up : Bool) (s : State) : Res :=
  .next (s.modPort port fun q => { q with link := up && s.portRate port != 0 })

/-! ### Accesses over the links -/

/-- Channel groups granted to a partition, ascending (R394). -/
def State.groups (s : State) (p : Fin 3) : List Nat := (List.range 8).filter fun k => bit (s.prt p).cap1 (48 + k)
/-- The PA of an offset in a partition's device-memory range; none beyond its memory (R372, R394). -/
def State.rangePa (s : State) (p : Fin 3) (o : Nat) : Option Nat :=
  ((s.groups p)[o / 2 ^ 35]?).map fun k => k * 2 ^ 35 + o % 2 ^ 35
/-- Lines of the snoop filter (R370). -/
def snoopLines : Nat := 1048576
/-- The host may hold a line that it reads in CXL 3.1 mode; a full filter takes back its oldest line (R370). -/
def State.snooped (s : State) (line : Nat) : State :=
  if s.cxlv ≠ 3 ∨ s.snoop.contains line then s
  else if snoopLines ≤ s.snoop.length then
    { s with out := s.out ++ [.backInvalidate (s.snoop.headD 0)], snoop := s.snoop.tail ++ [line] }
  else { s with snoop := s.snoop ++ [line] }
/-- Parts of a read at the PAs that `f` gives; a part without one reads as zero (R372). -/
def State.partsRead (s : State) (f : Nat → Option Nat) : List (Nat × Nat) → (List Byte × Bool) × State
  | [] => (([], false), s)
  | (a, n) :: r =>
    match f a with
    | none => let ((bs, bad), t) := s.partsRead f r; ((List.replicate n 0 ++ bs, bad), t)
    | some pa =>
      let l : Loc := { kind := .dev, pa := pa }
      let ((bs, bad), t) := (s.afterRead l n).partsRead f r
      ((s.readHome l n ++ bs, s.readPoison l n || bad), t)
/-- Parts of a write at the PAs that `f` gives; a part without one is ignored (R372). -/
def State.partsWrite (s : State) (p : Fin 3) (f : Nat → Option Nat) : List (Nat × Nat) → List Byte → State
  | [], _ => s
  | (a, n) :: r, bs =>
    (match f a with
     | none => s
     | some pa => s.writeHome p 0 { kind := .dev, pa := pa } (bs.take n)).partsWrite p f r (bs.drop n)
/-- An atomic of an external agent on n bytes at the PA that `f` gives (R149, R370, R378): what it answers; without a PA
it reads as zero (R372). -/
def State.extAtomic (s : State) (p : Fin 3) (f : Nat → Option Nat) (a n : Nat) (op : OrdOp) : (List Byte × Bool) × State :=
  match f a with
  | none => ((List.replicate n 0, false), s)
  | some pa =>
    let l : Loc := { kind := .dev, pa := pa }
    let (v, t) := s.performElem p 0 { e := 0, loc := l, n := n, op := op }
    ((bytesOfNat n v, s.readPoison l n), t)
/-- Bytes of an atomic other than a compare-and-swap. -/
def amoBytes (wide : Bool) : Nat := if wide then 8 else 4
/-- An access of an external agent at the PAs that `f` gives, performed at the homes: what it answers. -/
def State.extDo (s : State) (p : Fin 3) (f : Nat → Option Nat) : ExtAcc → (List Byte × Bool) × State
  | .read a n => s.partsRead f (linePieces a n)
  | .write a bs => (([], false), s.partsWrite p f (linePieces a bs.length) bs)
  | .atomic op a wide x => s.extAtomic p f a (amoBytes wide) (.amo op x)
  | .cas a n e x => s.extAtomic p f a n.bytes (.cas e.toNat x.toNat)
  | .register vf off => ((bytesOfNat 8 (s.registerRead p vf off.toNat).toNat, false), s)
/-- An access of the host at an offset of a partition's range, which takes back none of its own lines; it may hold a line
that it reads (R370). -/
def State.hostAccess (s : State) (p : Fin 3) (acc : ExtAcc) : (List Byte × Bool) × State :=
  let (x, t) := ({ s with snoop := [] }).extDo p (s.rangePa p) acc
  let t := { t with snoop := s.snoop }
  match acc with
  | .read a n => (x, ((linePieces a n).filterMap fun q => s.rangePa p q.1).foldl (fun t pa => t.snooped (pa / 128)) t)
  | _ => (x, t)
/-- The function of a partition exists: the partition is configured, and has reached RUN since the device's reset (R372,
R410; log entry 49). -/
def State.hasFunction (s : State) (p : Fin 3) : Bool := (s.prt p).st != .off && (s.hearthImage[p]).isSome
/-- HOST_MEMORY_ACCESS (R370, R372): memory answers where the partition is in RUN; a register of a function that exists
reads as zero outside RUN (R397). -/
def execHostMemoryAccess (p : Fin 3) (acc : ExtAcc) (s : State) : Res :=
  if s.inRun p then
    let ((bs, bad), t) := s.hostAccess p acc
    .next { t with out := t.out ++ [.hostData bs bad] }
  else match acc, s.hasFunction p with
    | .register _ _, true => .next { s with out := s.out ++ [.hostData (bytesOfNat 8 0) false] }
    | _, _ => .next s
/-- HOST_ERROR_COMPLETION (R371): the next read or write of the address completes with an error. -/
def execHostErrorCompletion (wr : Bool) (pa : Nat) (s : State) : Res := .next { s with hostErr := s.hostErr ++ [(wr, pa)] }

/-- First address and bytes of an external access; a register lies outside every channel group. -/
def ExtAcc.range : ExtAcc → Nat × Nat
  | .read a n => (a, n)
  | .write a bs => (a, bs.length)
  | .atomic _ a wide _ => (a, amoBytes wide)
  | .cas a n _ _ => (a, n.bytes)
  | .register _ _ => (2 ^ 38, 8)
/-- The grants of a partition: those of its last GO while it runs or is in FAULT, and those of its entry in RESET. -/
def Part.grants (q : Part) : Word :=
  match q.st with
  | .off => 0
  | .reset => q.q0
  | .run | .fault => q.cap1
/-- The configured partition that holds something: one that runs or is in FAULT, else one in RESET, whose entry GO has
still to check (R391). -/
def State.holder (s : State) (f : Part → Bool) : Option (Fin 3) :=
  let is_ (a b : PartSt) (p : Fin 3) : Bool := ((s.prt p).st == a || (s.prt p).st == b) && f (s.prt p)
  ((List.finRange 3).find? (is_ .run .fault)).orElse fun _ => (List.finRange 3).find? (is_ .reset .reset)
/-- The configured partition that holds the channel group of a PA (R393, R404). -/
def State.ownerOf (s : State) (pa : Nat) : Option (Fin 3) :=
  s.holder fun q => decide (pa < 2 ^ 38) && bit q.grants (48 + pa / 2 ^ 35)
/-- The twin may reach a PA (R378): not that of a partition in RESET (R397). -/
def State.twinMay (s : State) (pa : Nat) : Bool :=
  (s.ownerOf pa).any fun p => s.inRun p && (s.prt p).twgrant.getLsbD (pa / 2 ^ 35)
/-- TWIN_ACCESS (R378, R397): performed, or refused and counted; a refused read answers with poison. -/
def execTwinAccess (acc : ExtAcc) (s : State) : Res :=
  let (a, n) := ExtAcc.range acc
  if s.tgen = 0 then .next s
  else match s.ownerOf a, s.twinMay a && s.twinMay (a + n - 1) with
    | some p, true =>
      let ((bs, bad), t) := s.extDo p some acc
      .next { t with out := t.out ++ [Out.twinData bs bad] }
    | o, _ =>
      let t := match o with
        | some p => s.modPart p fun q => { q with twdrop := q.twdrop + 1 }
        | none => s
      .next { t with out := t.out ++ [Out.twinData (List.replicate n 0) true] }
/-- TWIN_REFUSED_WRITE (R378). -/
def execTwinRefusedWrite (p : Fin 3) (job : Nat) (s : State) : Res := .next (s.failJob p job Cause.poison.code)
/-- CXL_CACHE_SNOOP (R105, R147): the home slice no longer owns the HOSTC line, which it gives up or only shares. -/
def execCxlCacheSnoop (pa : Nat) (_inval : Bool) (s : State) : Res := .next { s with owned := s.owned.filter fun l => l != pa / 128 }
/-- LATE_POISON (R234): a posted element of a job that has met poison at its home, or meets it now, is not performed, and
fails its job. -/
def execLatePoison (p : Fin 3) (job idx : Nat) (s : State) : Res :=
  match s.posted[idx]? with
  | some q =>
    if q.p = p ∧ q.job = job ∧ (q.met ∨ s.elemPoison q.elem) then
      let t := if q.met then s else s.afterPoison q.elem.loc q.elem.n
      .next (({ t with posted := t.posted.eraseIdx idx }).failJob p job Cause.poison.code)
    else .next s
  | none => .next s
/-- A line's place in the L2: slice and set (R13). -/
def l2Place (line : Nat) : Nat × Nat := (line % 61, line / 61 % 1024)
/-- L2_FILL (R108, R396): a line of device memory enters a way of the partition that holds its group. -/
def execL2Fill (line : Nat) (way : Fin 16) (s : State) : Res :=
  match s.ownerOf (line * 128) with
  | some p =>
    if s.inRun p && (s.prt p).ways.getLsbD way.val then
      .next { s with l2 := (s.l2.filter fun x => x.1 != line && !(x.2 == way && l2Place x.1 == l2Place line)) ++ [(line, way)] }
    else .next s
  | none => .next s

end Sys2Proof.Machine
end

