-- ==== Sys2Proof/Machine/Sweeps.lean ====
section
/-!
DEFINITION. Page-major attention: opcodes 0x62 to 0x66 and the steps of the page sweep engine and of the Cask
(R260 to R273, R301, R302).
-/

namespace Sys2Proof.Machine

/-! ### Handles and layer records -/

/-- PPSE: the partition holds the page sweep engine (R19, R260). -/
def State.ppse (s : State) : Bool := bit (s.prt s.myGang.p).cap1 31
/-- What an instruction does on the sweep engine; ENGINE where the partition does not hold it (R260). -/
def State.onSweep (s : State) (op : Nat) (k : Res) : Res :=
  if s.ppse then k else s.raise op { c := .engine, detail := 2 }
/-- SWEEP. -/
def State.raiseSweep (s : State) (op : Nat) : Res := s.raise op (trap .sweep)
/-- The handle of a context (Table 11-3). -/
def Sweep.handle (w : Sweep) (k : Fin 4) : Word := word (w.gen.toNat * 4 + k.val)
/-- The context of a sweep is open or finishing (R260). -/
def Sweep.open_ (w : Sweep) : Bool := w.st != .free && w.st != .ended
/-- The context that a handle names for a partition, its sweep open or, where `old`, ended (R260, R272). -/
def State.sweep? (s : State) (p : Fin 3) (x : Word) (old : Bool) : Option (Fin 4) :=
  (List.finRange 4).find? fun k =>
    let w := s.sweeps[k]
    (w.open_ || (old && w.st == .ended)) && w.p == p && w.handle k == x
def State.modSweep (s : State) (k : Fin 4) (f : Sweep → Sweep) : State := { s with sweeps := vmod s.sweeps k f }

/-- Head dimension of the sweep's layer record. -/
def Sweep.hd (w : Sweep) : Nat := if bit (nth w.rcd 2) 0 then 128 else 64
/-- KB of a layer record (R261). -/
def layerKb (q : List Word) : Nat := 16 * (if bit (nth q 2) 0 then 128 else 64) * (if bit (nth q 2) 1 then 1 else 2)
def Sweep.kb (w : Sweep) : Nat := layerKb w.rcd
/-- A layer record that R261 refuses. -/
def badLayer (q : List Word) : Bool :=
  let koff := bits (nth q 1) 31 0
  let voff := bits (nth q 1) 63 32
  let pb := bits (nth q 3) 31 0
  bits (nth q 0) 63 56 != 0 || bits (nth q 2) 63 29 != 0 || bit (nth q 2) 23 || bit (nth q 2) 19 ||
    bits (nth q 2) 7 4 != 0 || bits (nth q 2) 3 2 == 3 || bits (nth q 3) 63 32 != 0 || bits (nth q 4) 63 32 != 0 ||
    nth q 5 != 0 || nth q 6 != 0 || nth q 7 != 0 || bits (nth q 2) 28 24 != 16 || decide (pb < layerKb q + koff) ||
    decide (pb < layerKb q + voff) || koff % 128 != 0 || voff % 128 != 0 || bits (nth q 0) 55 0 % 8 != 0
/-- The tokens of a layer record: TKT and TKP. -/
def layerTkt (q : List Word) : Nat := bits (nth q 2) 18 16
def layerTkp (q : List Word) : Nat := bits (nth q 2) 22 20

/-- PGOPEN (R261, R262): a release at system scope. Of several free contexts it takes the lowest (log entry 4). -/
def execPgopen (d : GOp) (a : Fin 48) (s : State) : Res :=
  let q := s.record a 8
  s.issue 0x62 a (badLayer q) none none <| s.onSweep 0x62 <|
    match firstTrap [s.tokenTrap (layerTkt q), s.tokenTrap (layerTkp q)] with
    | some t => s.raise 0x62 t
    | none => s.pair <|
      match (List.finRange 4).find? fun k => !(s.sweeps[k]).open_ with
      | none => (s.wg d (word (2 ^ 63 + 1))).retire
      | some k =>
        let g := s.myGang
        let w : Sweep := { Sweep.empty with
          gen := (s.sweeps[k]).gen + 1, st := .opened, p := g.p, job := g.job, rcd := q,
          tblPins := (s.me.tk[Fin.ofNat 8 (layerTkt q)]).pins, pagePins := (s.me.tk[Fin.ofNat 8 (layerTkp q)]).pins,
          openedAt := s.dtime }
        ((s.release.modSweep k fun _ => w).wg d (w.handle k)).retire

/-! ### Subscriptions -/

/-- Pages of a subscription record, and its queries. -/
def subPages (q : List Word) : Nat := bits (nth q 0) 31 24 + 1
def subQueries (q : List Word) : Nat := bits (nth q 0) 2 0 + 1
def subOut (q : List Word) (i : Nat) : Nat := bits (nth q (2 + i)) 55 0
def subTko (q : List Word) : Fin 8 := Fin.ofNat 8 (bits (nth q 0) 18 16)
def subBar (q : List Word) : Fin 32 := Fin.ofNat 32 (bits (nth q 0) 12 8)
def subRing (q : List Word) : Fin 8 := Fin.ofNat 8 (bits (nth q 0) 6 4)
/-- A subscription record that R263 refuses. -/
def badSub (q : List Word) : Bool :=
  bits (nth q 0) 63 32 != 0 || bits (nth q 0) 23 19 != 0 || bits (nth q 0) 15 13 != 0 || bit (nth q 0) 7 ||
    bit (nth q 0) 3 || nth q 1 != 0 ||
    (List.range 8).any fun i => bits (nth q (2 + i)) 63 56 != 0 || subOut q i % 2 != 0 ||
      (decide (subQueries q ≤ i) && subOut q i != 0)
/-- The page ids of the list in v[a] (R264). -/
def State.pageList (s : State) (a : VrOp) (n : Nat) : List Nat :=
  (List.range n).map fun p => lane 32 (s.vel (.vec a) (p / 2)) (p % 2)
/-- Page ids rise strictly. -/
def rising : List Nat → Bool
  | a :: b :: r => decide (a < b) && rising (b :: r)
  | _ => true

/-- Subscriptions of a sweep that have not ended. -/
def Sweep.live (w : Sweep) : List Sub := w.subs.filter fun b => !b.ended
/-- Cask entries in use: the heads of open queries and the waiting partials (R264, R269). -/
def State.caskUsed (s : State) : Nat :=
  (s.sweeps.toList.map fun w => (w.live.map fun b =>
    (b.queries.map fun q => (if q.written then 0 else 1) + q.waiting.length).sum).sum).sum
/-- Entries of the Cask (Table 1-2). -/
def caskEntries : Nat := 8192
/-- The status of Table 11-7 for a subscription to an open sweep, in the order of R264. -/
def State.subStatus (s : State) (w : Sweep) (ids : List Nat) (queries : Nat) : Nat :=
  if w.st ≠ .opened ∧ w.st ≠ .main then 1
  else if 512 ≤ w.live.length then 3
  else if 4096 < (w.union ++ ids).dedup.length then 4
  else if ids.any fun id => decide (64 ≤ (w.live.filter fun b => b.pages.contains id).length) then 5
  else if caskEntries < s.caskUsed + queries then 6 else 0
/-- The traps of R264 that depend on the sweep: the ring's kind and stage size, the token, its range, permissions;
`seaddr` is 0 for each (R316). -/
def State.subTraps (s : State) (q : List Word) (w : Sweep) : Option TrapInfo :=
  let r := subRing q
  let g := s.ring s.cur.gang r
  let k := subTko q
  let n := 2 * w.hd
  let outs := sorted ((List.range (subQueries q)).map (subOut q)) fun a b => decide (a ≤ b)
  Option.map TrapInfo.bare <| firstTrap [failIf (!g.cfg || g.kind != 3 || decide (g.size < 128 + 2 * w.kb)) (ringBad r),
    s.tokenTrap k.val, outs.findSome? fun a => (s.me.tk[k]).outside k a n,
    outs.findSome? fun a => (s.me.tk[k]).refuses false true a n]
/-- The lowest subscription index that no subscription holds, with its reuse count. -/
def State.freeSub (s : State) : Nat :=
  ((List.range 2048).find? fun i => !s.sweeps.toList.any fun w => w.live.any fun b => b.idx == i).getD 0
/-- The handle of a subscription (Table 11-7). -/
def Sub.sh (b : Sub) : Nat := b.reuse.toNat * 2048 + b.idx
/-- The subscription entered into a sweep, which starts if it is its first and SPOL is 00 (R267). -/
def Sweep.enter (w : Sweep) (b : Sub) : Sweep :=
  { w with subs := w.subs ++ [b], union := (w.union ++ b.pages).dedup, accepted := w.accepted + 1,
           st := if w.st = .opened ∧ bits (nth w.rcd 2) 3 2 = 0 then .main else w.st }
/-- An accepted subscription of the hart that runs. -/
def State.newSub (s : State) (q : List Word) (w : Sweep) (ids : List Nat) : Sub :=
  let i := s.freeSub
  let g := s.myGang
  let t := s.me.tk[subTko q]
  let outs := (List.range (subQueries q)).map (subOut q)
  { idx := i, reuse := vget s.subReuse i 0, p := g.p, job := g.job, gang := g.uid, ring := subRing q, bar := subBar q,
    pages := ids, passed := ids.filter fun id => w.cursor.any fun c => decide (id ≤ c), delivered := [],
    pins := t.pins.filter fun p => outs.any fun a => decide (p.va < a + 2 * w.hd) && decide (a < p.va + p.size),
    queries := outs.map fun a =>
      { out := a, head := none, next := 0, waiting := [], overflow := [], handed := [], written := false },
    ended := false }
/-- The traps of R264 that come before the handle is looked up. -/
def State.subChecks (s : State) (q : List Word) (ids : List Nat) : Option TrapInfo :=
  firstTrap [failIf (!rising ids) (trap .sweep), failIf (s.noBar (subBar q)) (barTrap (subBar q)),
    failIf (decide (2 * s.myGang.hn ≤ (subRing q).val)) (ringBad (subRing q))]
/-- The type of the page list, or of a partial, in v[a]. -/
def State.tagTrap (s : State) (a : VrOp) (t : Tag) : Option TrapInfo :=
  failIf ((s.me.bound a.val).isSome || s.me.v[a].tag != t) (typeTrap .type (.vec a))
/-- PGSUB (R263, R264): a release at system scope. -/
def execPgsub (_q : VMod) (d : GOp) (a : VrOp) (b : Fin 48) (c : GOp) (s : State) : Res :=
  let q := s.record b 10
  let ids := s.pageList a (subPages q)
  s.issue 0x63 b (badSub q) (s.untypedIn [.vec a]) (s.tagTrap a .n32x2) <| s.onSweep 0x63 <|
    match s.subChecks q ids with
    | some t => s.raise 0x63 t
    | none =>
      match s.sweep? s.myGang.p (s.rg c) false with
      | none => match s.tokenTrap (subTko q).val with
        | some t => s.raise 0x63 t
        | none => s.pair (s.release.wg d (word (2 * 2 ^ 56))).retire
      | some k =>
        let w := s.sweeps[k]
        match s.subTraps q w with
        | some t => s.raise 0x63 t
        | none => s.pair <|
          let st := s.subStatus w ids (subQueries q)
          if st ≠ 0 then
            ((s.release.modSweep k fun w => { w with refused := w.refused + 1 }).wg d (word (st * 2 ^ 56))).retire
          else
            let x := s.newSub q w ids
            let t := { s.release with
              subReuse := if h : x.idx < 2048 then s.subReuse.set x.idx (x.reuse + 1) h else s.subReuse }
            ((t.modSweep k fun w => w.enter x).wg d (word (x.passed.length * 65536 + x.sh))).retire

/-! ### Closing and counters -/

/-- PGCLOSE (R271). -/
def execPgclose (a : GOp) (s : State) : Res := s.userOnly 0x64 <| s.onSweep 0x64 <|
  match s.sweep? s.myGang.p (s.rg a) false with
  | none => s.raiseSweep 0x64
  | some k => (s.modSweep k Sweep.close).retire
/-- State and counters of a sweep (Table 11-9). -/
def Sweep.counter (w : Sweep) (n : Fin 9) : Nat :=
  match n with
  | 0 => match w.st with
    | .free => 0 | .opened => 1 | .main => 2 | .closedMain => 3 | .tail => 4 | .done => 5 | .ended => 6
  | 1 => w.accepted | 2 => w.union.length | 3 => w.mainFetches | 4 => w.tailFetches | 5 => w.committed
  | 6 => w.merged | 7 => w.overflowed | _ => w.refused
/-- PGSTAT (R272, R302). -/
def execPgstat (d a : GOp) (which : Fin 9) (s : State) : Res := s.userOnly 0x66 <| s.onSweep 0x66 <|
  let v := match s.sweep? s.myGang.p (s.rg a) true with
    | some k => word ((s.sweeps[k]).counter which)
    | none => 0xFFFFFFFFFFFFFFFF
  (s.wg d v).retire

/-! ### The Cask -/

/-- The partial that the next position waits for, taken from the Cask entries or from overflow segments. -/
def Query.take (q : Query) : Option (Partial × Query) :=
  match q.waiting.find? fun x => x.1 == q.next, q.overflow.find? fun x => x.1 == q.next with
  | some x, _ => some (x.2, { q with waiting := q.waiting.filter fun y => y.1 != q.next })
  | none, some x => some (x.2, { q with overflow := q.overflow.filter fun y => y.1 != q.next })
  | none, none => none
/-- A partial merged as the next position (R101, R269). -/
def Query.merge (q : Query) (x : Partial) : Query :=
  { q with head := some (match q.head with | some h => h.merge x | none => x), next := q.next + 1 }
/-- Waiting partials merged, at most n of them, with their count. -/
def Query.drain : Nat → Query → Nat × Query
  | 0, q => (0, q)
  | n + 1, q => match q.take with
    | some (x, t) => let (k, u) := Query.drain n (t.merge x); (k + 1, u)
    | none => (0, q)

/-- Every query of a subscription is written and every page delivered (R270). -/
def Sub.done (b : Sub) : Bool := (b.queries.all Query.written) && b.pages.all fun id => b.delivered.contains id
/-- A subscription changed, and ended once it is done (R270). -/
def Sweep.modSub (w : Sweep) (idx : Nat) (f : Sub → Sub) : Sweep :=
  { w with subs := w.subs.map fun b =>
      if b.idx = idx ∧ !b.ended then (let c := f b; if c.done then c.finish else c) else b }
def Sub.modQuery (b : Sub) (i : Nat) (f : Query → Query) : Sub :=
  { b with queries := b.queries.mapIdx fun k q => if k = i then f q else q }

/-- Output of a query all of whose positions have merged: bfloat16 values through the subscription's pins, counted
against its barrier; revoked translations are not written, and fail the job (R102, R270, R364). -/
def State.caskOutput (s : State) (b : Sub) (q : Query) : State :=
  match q.head with
  | none => s
  | some h =>
    let bs := (h.output.map fun x => bytesOfNat 2 x.toNat).flatten
    let s := s.writeVia b.p b.job b.pins q.out bs
    let s := if coveredBy b.pins q.out bs.length then s else s.failJob b.p b.job Cause.tkrevoked.code
    s.landBar b.gang b.bar bs.length
/-- The partial in v[a] for a head dimension (R268). -/
def State.partialIn (s : State) (a : VrOp) (hd : Nat) : Partial :=
  let x (e l : Nat) : BitVec 32 := BitVec.ofNat 32 (lane 32 (s.vel (.vec a) e) l)
  { m := x 0 0, l := x 0 1, o := (List.range hd).map fun i => x (1 + i / 2) (i % 2) }
/-- The subscription that a query handle names: its context, and itself (R264, R268). -/
def State.subOf? (s : State) (h : Nat) : Option (Fin 4 × Sub) :=
  (List.finRange 4).findSome? fun k =>
    ((s.sweeps[k]).live.find? fun b => b.sh == h / 8).map fun b => (k, b)
/-- A partial for the next position, merged with those that wait for it; the last one writes the output (R269, R270),
unless the query is lost, whose output is not written (R403). -/
def State.mergeNext (s : State) (k : Fin 4) (b : Sub) (i : Nat) (q : Query) (x : Partial) (pos : Nat) : State :=
  let (n, r) := Query.drain 256 ({ q with handed := pos :: q.handed }.merge x)
  let full := r.next == b.pages.length
  let s := if full && !q.written then s.caskOutput b r else s
  s.modSweep k fun w =>
    Sweep.settle ({ w with merged := w.merged + 1 + n }.modSub b.idx fun c =>
      c.modQuery i fun _ => if full then { r with head := none, written := true } else r)
/-- A partial that waits, in a Cask entry or in an overflow segment (R269). -/
def State.mergeWait (s : State) (k : Fin 4) (b : Sub) (i : Nat) (x : Partial) (pos : Nat) (ovf : Bool) : State :=
  s.modSweep k fun w =>
    { w with overflowed := if ovf then w.overflowed + 1 else w.overflowed }.modSub b.idx fun c =>
      c.modQuery i fun q =>
        let q := { q with handed := pos :: q.handed }
        if ovf then { q with overflow := q.overflow ++ [(pos, x)] } else { q with waiting := q.waiting ++ [(pos, x)] }
/-- Partials in an overflow segment, and the bytes of each (R269). -/
def segmentPartials : Nat := 124
def partialBytes : Nat := 528
/-- A partial takes the next place of its job's overflow segment: the spec does not lay out a Cask entry, so its bytes are
free values (log entry 43). A place whose page does not translate, or may not be written, is left unwritten, and the
partial still waits for its position (log entry 55). -/
def State.writeOverflow (s : State) (j : Job) : State :=
  let va := j.ovfBase + (segmentPartials - j.ovfFree) * partialBytes
  (s.modJob j.p j.id fun j => { j with ovfFree := j.ovfFree - 1 }).writeFree j va partialBytes
/-- The stall of `PGMERGE` is over: `CASK_OVERFLOW` has linked a place (R269). -/
def State.overflows (s : State) : Bool :=
  match s.me.wait with
  | some w => w.what == .caskFull && w.expired && decide (0 < s.myJob.ovfFree)
  | none => false
/-- PGMERGE (R268, R269): a release at device scope. -/
def execPgmerge (_q : VMod) (a : VrOp) (b c : GOp) (s : State) : Res := s.userOnly 0x65 <|
  match firstTrap [s.untypedIn [.vec a], s.tagTrap a .f32x2] with
  | some t => s.raise 0x65 t
  | none =>
    if s.me.vl = 0 then s.retire
    else s.onSweep 0x65 <| match s.subOf? (s.rg c).toNat with
      | none => s.raiseSweep 0x65
      | some (k, x) =>
        let i := (s.rg c).toNat % 8
        let pos := (s.rg b).toNat
        match x.queries[i]? with
        | none => s.raiseSweep 0x65
        | some q =>
          if x.p ≠ s.myGang.p ∨ x.job ≠ s.myGang.job ∨ x.pages.length ≤ pos ∨ q.handed.contains pos then s.raiseSweep 0x65
          else
            let y := s.partialIn a (s.sweeps[k]).hd
            if pos = q.next then s.pair ((s.release.mergeNext k x i q y pos).retire)
            else if s.caskUsed < caskEntries then s.pair ((s.release.mergeWait k x i y pos false).retire)
            else if s.overflows then
              s.pair (((s.release.mergeWait k x i y pos true).writeOverflow s.myJob).retire)
            else s.block 0x65 .caskFull none
/-- Cycles that a hart stalls on a full Cask (R269). -/
def caskLimit : Nat := 2048
/-- CASK_OVERFLOW (R269): the job's overflow segment takes the partial, a further segment is linked when it is full, and
with none to take the job is abandoned with status SPILL; not during a firmware switch (R328). -/
def execCaskOverflow (h : HartId) (s : State) : Res :=
  let g := s.gang h.gang
  let go (t : State) : Res := .next (t.modHart h fun x =>
    { x with st := .running, wait := x.wait.map fun w => { w with expired := true } })
  match s.job? g.p g.job, (s.hart h).wait with
  | some j, some w =>
    if (s.hart h).st ≠ .blocked ∨ w.what ≠ .caskFull ∨ s.cyc < w.since + caskLimit ∨ g.phase ≠ .placed ∨
        (s.prt g.p).switch.isSome then .next s
    else if 0 < j.ovfFree then go s
    else match s.takeSegment j with
      | some (a, t) => go (t.modJob g.p g.job fun j => { j with ovfFree := segmentPartials, ovfBase := a })
      | none => .next ((s.noSegment j).abandonTree j .spill j.takesKids s.dtime)
  | _, _ => .next s

/-! ### Fetches and deliveries -/

/-- SWEEP_START (R267): at the delay of SPOL 10, or at the first subscription. -/
def execSweepStart (ctx : Fin 4) (s : State) : Res :=
  let w := s.sweeps[ctx]
  let pol := bits (nth w.rcd 2) 3 2
  if w.st = .opened ∧ ((pol = 2 ∧ w.openedAt + bits (nth w.rcd 4) 31 0 ≤ s.dtime) ∨ (pol = 0 ∧ w.subs ≠ [])) then
    .next (s.modSweep ctx fun w => { w with st := .main })
  else .next s
/-- What a page fetch reads: whether an error was found, and the key and value blocks (R261, R266). -/
def State.readPage (s : State) (w : Sweep) (id : Nat) : (Bool × List Byte × List Byte) × State :=
  let zero := List.replicate w.kb (0 : Byte)
  let (e, s) := s.readVia w.tblPins (bits (nth w.rcd 0) 55 0 + 8 * id) 8
  let x := word (natOfBytes e.bytes)
  let va := bits x 55 0
  if !e.ok || e.poison || bits x 63 56 != 0 || va % 128 != 0 then ((true, zero, zero), s)
  else
    let (k, s) := s.readVia w.pagePins (va + bits (nth w.rcd 1) 31 0) w.kb
    let (v, s) := s.readVia w.pagePins (va + bits (nth w.rcd 1) 63 32) w.kb
    if !k.ok || !v.ok || k.poison || v.poison then ((true, zero, zero), s) else ((false, k.bytes, v.bytes), s)
/-- Pages that the engine holds for one context (R265). -/
def heldPages : Nat := 4
/-- PAGE_FETCH (R265 to R267, R302): the next page of the pass, for every subscription that wants it. -/
def execPageFetch (ctx : Fin 4) (s : State) : Res :=
  let w := s.sweeps[ctx]
  match w.nextPage with
  | none => .next s
  | some id =>
    if heldPages ≤ w.held.length then .next s
    else
      let tail := w.st == .tail
      let ((err, k, v), s) := s.readPage w id
      let page : HeldPage := { id := id, tail := tail, err := err, keys := k, values := v,
                               todo := (w.subs.filter fun b => b.wants tail id).map Sub.idx }
      .next (s.modSweep ctx fun w =>
        Sweep.settle { w with held := w.held ++ [page],
                              cursor := if tail then w.cursor else some id
                              tailCursor := if tail then some id else w.tailCursor
                              mainFetches := if tail then w.mainFetches else w.mainFetches + 1
                              tailFetches := if tail then w.tailFetches + 1 else w.tailFetches })
/-- The header of a delivered stage (Table 11-8). -/
def Sub.header (b : Sub) (h : HeldPage) : List Byte :=
  let last := b.delivered.length + 1 == b.pages.length
  let q3 := (if h.err then 4 else 0) + (if last then 2 else 0) + (if h.tail then 1 else 0)
  bytesOfNat 8 h.id ++ bytesOfNat 8 (b.pages.idxOf h.id) ++ bytesOfNat 8 b.sh ++ bytesOfNat 8 q3 ++
    List.replicate 96 0
/-- A stage written and committed by an engine: its bytes, and its byte count under R121. -/
def State.commitStage (s : State) (u : Nat) (r : Fin 8) (bs : List Byte) : State :=
  let q := s.ring u r
  let i := q.stageNo q.iss
  let s := s.spWrite u (q.base + i.val * q.size) bs
  s.setRing u r ((q.commit bs.length none).landTogether q.iss bs.length)
/-- PAGE_DELIVERY (R265, R301): a held page to one subscriber whose earlier pages are delivered and whose ring is not
full. -/
def execPageDelivery (ctx : Fin 4) (page sb : Nat) (s : State) : Res :=
  let w := s.sweeps[ctx]
  match w.held.find? fun h => h.todo.contains sb, w.live.find? fun b => b.idx == sb with
  | some h, some b =>
    let q := s.ring b.gang b.ring
    if h.id ≠ page ∨ !q.cfg ∨ q.full then .next s
    else
      let t := s.commitStage b.gang b.ring (b.header h ++ h.keys ++ h.values)
      .next (t.modSweep ctx fun w =>
        let w := { w with committed := w.committed + 1,
                          held := (w.held.map fun (x : HeldPage) => if x.id = h.id ∧ x.tail = h.tail then
                            { x with todo := x.todo.erase sb } else x).filter fun x => x.todo != [] }
        Sweep.settle (w.modSub sb fun b => { b with delivered := b.delivered ++ [page] }))
  | _, _ => .next s
/-- SWEEP_END (R271): closed, both passes done, every subscription ended. -/
def execSweepEnd (ctx : Fin 4) (s : State) : Res :=
  let w := s.sweeps[ctx]
  if w.st ≠ .done ∨ w.live ≠ [] then .next s
  else
    let ch := bits (nth w.rcd 2) 15 8
    let t := s.modSweep ctx fun w => { w with st := .ended, tblPins := [], pagePins := [], held := [] }
    .next (if ch = 255 then t else t.postN w.p ch (w.handle ctx))

end Sys2Proof.Machine
end

