-- ==== Sys2Proof/Machine/Partition.lean ====
section
/-!
DEFINITION. Partitions (R390 to R399): GO with the verification of firmware (R407), RST, function-level resets, and the
firmware switch (R328); the error log (R404).
-/

namespace Sys2Proof.Machine

/-! ### The error log (R404) -/

/-- Entries of the error log (Table 19-5). -/
def logEntries : Nat := 64
/-- An event written to the error log and reported by AER: by the owning function, or by every function (R404). -/
def State.report (s : State) (source : BitVec 8) (unit : Nat) (addr : Word) (p : Option (Fin 3)) (corrected : Bool) : State :=
  let e : ErrLog := { source := source, unit := BitVec.ofNat 16 unit, addr := addr, p := p, time := s.dtime,
                      corrected := corrected }
  let ps := match p with
    | some q => [q]
    | none => (List.finRange 3).filter fun q => s.hasFunction q
  { s with errLog := (if logEntries ≤ s.errLog.length then s.errLog.tail else s.errLog) ++ [e], errHead := s.errHead + 1,
           out := s.out ++ ps.map fun q => Out.aer q corrected }

/-! ### Verification of an image (R407, Table 19-4) -/

/-- Bytes a to b - 1 of an image. -/
def slice (bs : List Byte) (a b : Nat) : List Byte := (bs.drop a).take (b - a)
/-- A big-endian number. -/
def beNat (bs : List Byte) : Nat := natOfBytes bs.reverse
/-- Quadword k of an image header. -/
def headQ (bs : List Byte) (k : Nat) : Word := word (natOfBytes (slice bs (8 * k) (8 * k + 8)))
def headLen (h : List Byte) : Nat := bits (headQ h 2) 31 0
/-- The header is well formed for a TYPE (Table 19-4). -/
def headOk (type : Nat) (h : List Byte) : Bool :=
  headQ h 0 == word (type * 2 ^ 24 + 0x494C53) && bits (headQ h 1) 63 16 == 0 && bits (headQ h 1) 7 2 == 0 &&
    decide (bits (headQ h 1) 15 8 ≤ 64) && bits (headQ h 2) 63 32 == 0 && headLen h != 0 && decide (headLen h ≤ 2 ^ 31) &&
    beNat (slice h 640 644) == 65537 && (slice h 644 1024).all fun b => b == 0
/-- The image that a header and a body hold, when they pass verification: TYPE 1 is boot firmware, 2 Hearth firmware. -/
def State.verify (s : State) (type : Nat) (h body : List Byte) : Option Image :=
  let ks : Fin 4 := Fin.ofNat 4 (bits (headQ h 1) 1 0)
  let svn := BitVec.ofNat 8 (bits (headQ h 1) 15 8)
  if headOk type h && Config.sha512 (slice h 128 644) == Config.keyHash ks && !s.ksRevoked.getLsbD ks.val &&
      Config.pssValid (slice h 128 644) (slice h 1024 1536) (Config.sha512 (slice h 0 1024)) &&
      beNat (slice h 64 128) == Config.sha512 body && decide (vget s.minSvn (type - 1) 0 ≤ svn) then
    some { ks := BitVec.ofNat 2 ks.val, svn := svn, digest := Config.sha512 body }
  else none
/-- Bytes of an image header. -/
def headBytes : Nat := 1536
/-- Bytes of device memory read at their homes, unless one of them is delivered poisoned (R109, R402). -/
def State.devBytes (s : State) (a n : Nat) : Option (List Byte) :=
  if linePoisoned s.devPoison a n || (linesOf a n).any fun k => s.groupFailed (k * 128) then none
  else some (Mem.bytes s.dev a n)
/-- The state after an image at an address of device memory has been read (R370). -/
def State.afterImage (s : State) (fwa : Nat) : State :=
  match s.devBytes fwa headBytes with
  | some h => if headOk 2 h then s.takeBack fwa (headBytes + headLen h) else s.takeBack fwa headBytes
  | none => s.takeBack fwa headBytes
/-- The Hearth firmware at an address of device memory, when it passes verification; a poisoned image does not. -/
def State.verifyAt (s : State) (fwa : Nat) : Option Image :=
  (s.devBytes fwa headBytes).bind fun h =>
    if headOk 2 h then (s.devBytes (fwa + headBytes) (headLen h)).bind (s.verify 2 h) else none

/-! ### GO (R391, R395) -/

/-- Two grants share a cluster, a channel group, a port or a coding engine. -/
def sharesUnit (a b : Word) : Bool := bits (a &&& b) 63 32 != 0
/-- Bits [hi:lo] of a grant name only units that are left. -/
def State.present (s : State) (q : Word) (hi lo retired : Nat) : Bool := decide (bits q hi lo < 2 ^ s.unitsLeft retired)
/-- L2 ways that are retired. -/
def State.retiredWays (s : State) : BitVec 16 := s.retireQ0.extractLsb' 24 16
/-- First and last byte of the Hearth reserve lie in the partition's own groups, with all between. -/
def Part.reserveOk (q : Part) : Bool :=
  let last := q.reserveLow + q.hrs.toNat * 2 ^ 20 - 1
  decide (64 ≤ q.hrs.toNat) && decide (last < 2 ^ 38) &&
    (List.range 8).all fun k => !(decide (q.reserveLow / 2 ^ 35 ≤ k) && decide (k ≤ last / 2 ^ 35)) || bit q.q0 (48 + k)
/-- The conditions of R391 on the entry of a partition. -/
def State.goOk (s : State) (p : Fin 3) : Bool :=
  let q := s.prt p
  let others := (List.finRange 3).filter fun k => k != p && (s.prt k).st != .off
  let towns := ((List.finRange 3).filter fun k => (k == p || (s.prt k).st != .off) && (s.prt k).town).length
  bits q.q0 63 56 != 0 && bits q.q0 55 48 != 0 && decide (2 ≤ ((List.range 16).filter fun w => q.ways.getLsbD w).length) &&
    (others.all fun k => !sharesUnit q.q0 (s.prt k).q0 && (q.ways &&& (s.prt k).ways) == 0) && decide (towns ≤ 1) &&
    (q.ways &&& s.retiredWays) == 0 && q.reserveOk && s.present q.q0 63 56 0 && s.present q.q0 55 48 8 &&
    s.present q.q0 47 40 16
/-- The Hearth reserve of a partition touches a channel group. -/
def Part.reserveIn (q : Part) (k : Nat) : Bool :=
  decide (q.reserveLow / 2 ^ 35 ≤ k) && decide (k ≤ (q.reserveLow + q.hrs.toNat * 2 ^ 20 - 1) / 2 ^ 35)
/-- The Hearth reserve of a partition lies in a failed group (R402). -/
def State.reserveFailed (s : State) (q : Part) : Bool :=
  (List.range 8).any fun k => q.reserveIn k && s.groupFailed (k * 2 ^ 35)
/-- Device memory of a channel group zero-filled and cleared of poison (R395). -/
def State.zeroGroup (s : State) (k : Nat) : State :=
  { s.takeBack (k * 2 ^ 35) (2 ^ 35) with
    dev := s.dev.filter fun c => c.1 / 2 ^ 35 != k
    devPoison := s.devPoison.filter fun l => l * 128 / 2 ^ 35 != k }
/-- The groups of a partition that another one held before are zero-filled, and are its own (R395). -/
def State.takeGroups (s : State) (p : Fin 3) : State :=
  (List.finRange 8).foldl (fun s k =>
    if bit (s.prt p).q0 (48 + k.val) then
      let s := if (s.lastOwner[k]).any fun o => o != p then s.zeroGroup k.val else s
      { s with lastOwner := vput s.lastOwner k (some p) }
    else s) s
/-- The partition table as measured (R409). -/
def State.tableWords (s : State) : List Word :=
  (s.parts.toList.map fun q => [q.q0, (if q.town then 0x10000 else 0) + q.ways.setWidth 64, word q.reserveLow,
    q.hrs.setWidth 64, q.fwa.setWidth 64]).flatten
/-- A GO write (R391): refused with ERR [4], or with ERR [5] where the firmware does not verify; in another state it is
ignored. A partition whose reserve lies in a failed group is in FAULT at once (R402; log entry 48). -/
def State.go (s : State) (p : Fin 3) : State :=
  if (s.prt p).st ≠ .reset then s
  else if !s.goOk p then s.modPart p fun q => { q with err := q.err ||| 1 }
  else match s.verifyAt (s.prt p).fwa.toNat with
    | none => (s.afterImage (s.prt p).fwa.toNat).modPart p fun q => { q with err := q.err ||| 2 }
    | some i =>
      let s := ((s.afterImage (s.prt p).fwa.toNat).takeGroups p).modPart p fun q =>
        { q with st := if s.reserveFailed q then .fault else .run, cap1 := q.q0, fwver := i.svn }
      { s with hearthImage := vput s.hearthImage p (some i), goTable := s.tableWords }
/-- PARTITION_GO (R391). -/
def execPartitionGo (p : Fin 3) (s : State) : Res := .next (s.go p)

/-! ### Jobs that stop without a record (R397 step 2) -/

/-- A sweep that closes and will post no channel. -/
def Sweep.silence (w : Sweep) : Sweep :=
  if w.open_ then ({ w with rcd := w.rcd.mapIdx fun i x => if i = 2 then setBits x 15 8 255 else x }).close else w

/-- Jobs of a partition stop: their harts' accesses are performed, their resources are freed, engine work for them is
dropped, their subscriptions end and their sweeps close without a post; no record is written and no channel posted. -/
def State.dropJobs (s : State) (p : Fin 3) (f : Job → Bool) : State :=
  let ids := (s.jobs.filter fun j => j.p == p && f j).map Job.id
  let mine (q : Fin 3) (j : Nat) : Bool := q == p && ids.contains j
  let gs := s.gangs.filter fun g => mine g.p g.job
  let s := gs.foldl State.drainGang s
  let s := s.endSubs fun b => mine b.p b.job
  { s with
    gangs := s.gangs.filter fun g => !mine g.p g.job
    toClear := s.toClear ++ ((gs.filter Gang.holdsCore).map Gang.toClear).flatten
    holds := s.holds.filter fun h => !mine h.p h.job
    jobs := s.jobs.filter fun j => !mine j.p j.id
    entries := s.entries.filter fun e => !mine e.p e.job
    posted := s.posted.filter fun q => !mine q.p q.job
    copies := s.copies.filter fun c => !mine c.p c.job
    codings := s.codings.filter fun c => !mine c.p c.job
    txs := s.txs.filter fun t => !mine t.p t.job
    sweeps := s.sweeps.map fun w => if mine w.p w.job then w.silence else w }

/-! ### RST (R397) -/

/-- A partition in the state that R397 leaves: tables, HSCH registers, function blocks and port registers at reset, the
reserve discarded; OFF where GRANT is zero (R391). -/
def Part.cleared (q : Part) : Part :=
  { Part.empty with
    q0 := q.q0, town := q.town, ways := q.ways, hrb := q.hrb, hrs := q.hrs, err := q.err, fwa := q.fwa, fwver := q.fwver,
    rmcnt := q.rmcnt, dropPosts := q.dropPosts, dropRecs := q.dropRecs, twgrant := q.twgrant, twdrop := q.twdrop,
    st := if bits q.q0 63 30 = 0 then .off else .reset }
/-- What jobs of a partition, or of one function of it, have left behind is done with: coding commands finish, and their
writes are dropped; sweeps close and post nothing (R397). -/
def State.dropLeft (s : State) (p : Fin 3) (vf : Option (Fin 64)) : State :=
  let mine (q : Fin 3) (l : List Pin) : Bool := q == p && (match vf with
    | none => true
    | some f => l.any fun x => x.vf == f)
  { s with codings := s.codings.filter fun c => !mine c.p (c.inPins ++ c.outPins ++ c.harqPins ++ c.statPins)
           sweeps := s.sweeps.map fun w => if mine w.p (w.tblPins ++ w.pagePins) then w.silence else w }
/-- A partition leaves RUN or FAULT: its jobs stop, its tables and ports return to reset, its ways and translations are
invalidated (R397). -/
def State.clearPart (s : State) (p : Fin 3) : State :=
  let q := s.prt p
  let s := (s.dropJobs p fun _ => true).dropLeft p none
  let s := { s with
    families := s.families.filter fun f => f.p != p
    tlb := s.tlb.filter fun l => l.pin.p != p
    walks := s.walks.filter fun b => b.pin.p != p
    invals := s.invals.filter fun i => i.p != p
    l2 := s.l2.filter fun x => !q.ways.getLsbD x.2.val
    ports := Vector.ofFn fun n => if bit q.cap1 (40 + n.val) then Port.empty else s.ports[n] }
  s.modPart p Part.cleared
/-- A RST write (R391, R397): from RUN or FAULT; from OFF or RESET it sets the state that GRANT gives. -/
def State.rst (s : State) (p : Fin 3) : State :=
  let q := s.prt p
  match q.st with
  | .run | .fault => s.clearPart p
  | _ => s.modPart p fun q => { q with st := if bits q.q0 63 30 = 0 then .off else .reset }
/-- PARTITION_RST (R397). -/
def execPartitionRst (p : Fin 3) (s : State) : Res := .next (s.rst p)
/-- FLR_PHYSICAL_FUNCTION (R398): RST, then GO with the entry unchanged. -/
def execFlrPhysicalFunction (p : Fin 3) (s : State) : Res := .next (if s.hasFunction p then (s.rst p).go p else s)
/-- FLR_VIRTUAL_FUNCTION (R398). -/
def execFlrVirtualFunction (p : Fin 3) (vf : Fin 64) (s : State) : Res :=
  if !s.hasFunction p ∨ vf = 0 then .next s
  else .next (((s.dropJobs p fun j => j.vf == vf).dropLeft p (some vf)).modFunc p vf fun _ => Func.empty)
/-- A partition enters FAULT: its jobs stop (R402, R403). -/
def State.faultPart (s : State) (p : Fin 3) : State :=
  if s.inRun p then ((s.dropJobs p fun _ => true).dropLeft p none).modPart p fun q => { q with st := .fault } else s

/-! ### Firmware switch (R328, R399) -/

/-- FIRMWARE_SWITCH (R399): a FWGO in RUN while no switch runs. -/
def State.fwgo (s : State) (p : Fin 3) : State :=
  let q := s.prt p
  if q.st ≠ .run ∨ q.switch.isSome then s
  else match s.verifyAt q.fwa.toNat with
    | none => (s.afterImage q.fwa.toNat).modPart p fun q => { q with err := q.err ||| 4 }
    | some i => (s.afterImage q.fwa.toNat).modPart p fun q => { q with switch := some (i, s.dtime) }
def execFirmwareSwitch (p : Fin 3) (s : State) : Res := .next (s.fwgo p)
/-- Nanoseconds that calls already taken have to complete (R328). -/
def switchLimit : Nat := 1000000
/-- A hart's thread whose call the old firmware has taken gets RETRY, and SVER takes the new version. -/
def Hart.switched (ver : BitVec 8) (h : Hart) : Hart :=
  let h := if h.sup.st = .blocked ∧ h.sup.call.any Call.taken then h.answer [(1, 2)] else h
  { h with sup := { h.sup with sver := ver } }
/-- The calls that the old firmware has taken return RETRY with no effect: their messages are taken back (R328). -/
def State.unpostTaken (s : State) (p : Fin 3) : State := (s.gangs.filter fun g => g.p == p).foldl State.unpostGang s
/-- FIRMWARE_SWITCH_COMPLETE (R328, R399): once every taken call has completed, or after 1 ms. -/
def execFirmwareSwitchComplete (p : Fin 3) (s : State) : Res :=
  match (s.prt p).switch with
  | none => .next s
  | some (i, since) =>
    if (s.calls p).any Call.taken ∧ s.dtime < since + switchLimit then .next s
    else
      let t := (s.unpostTaken p).modPart p fun q => { q with switch := none, fwver := i.svn }
      .next { t with
        hearthImage := vput t.hearthImage p (some i)
        gangs := t.gangs.map fun g => if g.p = p then { g with harts := g.harts.map (Hart.switched i.svn) } else g }

end Sys2Proof.Machine
end

