-- ==== Sys2Proof/Machine/Reliability.lean ====
section
/-!
DEFINITION. Errors, retirement, power, bring-up and the housekeeping block (R400 to R406, R410 to R412).
-/

namespace Sys2Proof.Machine

/-! ### Errors -/

/-- Sources in the error log: the model's numbers, since the spec gives none (log entry 15). -/
def srcDram : BitVec 8 := 1
def srcChannel : BitVec 8 := 2
def srcRegister : BitVec 8 := 3
def srcCommit : BitVec 8 := 4
def srcCask : BitVec 8 := 5
def srcDeadline : BitVec 8 := 6
def srcTask : BitVec 8 := 7
def srcTags : BitVec 8 := 8
def srcPower : BitVec 8 := 9
def srcScratchpad : BitVec 8 := 10
def srcL2 : BitVec 8 := 11
def srcSnoop : BitVec 8 := 12
def srcInstrCache : BitVec 8 := 13
def srcDataCache : BitVec 8 := 14
/-- The channel that serves a line of device memory (R393). -/
def channelOf (line : Nat) : Nat := 4 * (line / 2 ^ 28) + line % 4
/-- A list with one more number in it, once. -/
def addOnce (l : List Nat) (k : Nat) : List Nat := if l.contains k then l else l ++ [k]
/-- A channel is marked failed (R402): its group returns poison; a partition whose reserve lies in it enters FAULT. -/
def State.failChannel (s : State) (ch : Fin 32) : State :=
  let k := ch.val / 4
  let t := { s with failedCh := s.failedCh ||| 1 <<< ch.val }
  let t := t.report srcChannel ch.val (word (k * 2 ^ 35)) (t.ownerOf (k * 2 ^ 35)) false
  ((List.finRange 3).filter fun p => s.inRun p && (s.prt p).reserveIn k).foldl State.faultPart t
/-- Uncorrected errors of a channel in one hour, in nanoseconds, before it is marked failed (R402). -/
def channelLimit : Nat := 256
def hour : Nat := 3600000000000
/-- An LPDDR-6 line that cannot be corrected: it is poisoned (R109, R401), and its channel is marked failed when it has
more of them in one hour than R402 allows (log entry 48). -/
def State.lineLost (s : State) (line : Nat) : State :=
  let ch := channelOf line
  let s := s.report srcDram ch (word (line * 128)) (s.ownerOf (line * 128)) false
  let s := { s with devPoison := addOnce s.devPoison line
                    chErrs := (s.chErrs.filter fun e => decide (s.dtime < e.2 + hour)) ++ [(ch, s.dtime)] }
  if channelLimit < (s.chErrs.filter fun e => e.1 == ch).length ∧ s.failedCh.getLsbD ch = false then
    s.failChannel (Fin.ofNat 32 ch)
  else s
/-- PATROL_SCRUB (R401, R404): a line of a granted group is read at its home (R370); one corrected is rewritten as it was,
one that cannot be is written back poisoned. -/
def execPatrolScrub (line : Nat) (bad : Option Bool) (s : State) : Res :=
  match s.ownerOf (line * 128) with
  | none => .next s
  | some p =>
    let t := s.afterRead { kind := .dev, pa := line * 128 } 128
    match bad with
    | none => .next t
    | some false => .next (t.report srcDram (channelOf line) (word (line * 128)) (some p) true)
    | some true => .next (t.lineLost line)
/-- CHANNEL_FAIL (R402): a channel that fails training. -/
def execChannelFail (ch : Fin 32) (s : State) : Res := .next (s.failChannel ch)
/-- The partition that an L2 way belongs to: one that runs or is in FAULT, else one in RESET (R396, R404). -/
def State.wayOwner (s : State) (way : Fin 16) : Option (Fin 3) :=
  s.holder fun q => q.ways.getLsbD way.val
/-- The query of a subscription is lost: its output will not be written (R403). -/
def State.loseQuery (s : State) (k : Fin 4) (b : Sub) (i : Nat) : State :=
  s.modSweep k fun w => Sweep.settle (w.modSub b.idx fun c =>
    c.modQuery i fun q => { q with head := none, waiting := [], overflow := [], written := true })
/-- The core whose commit buffer holds entries of a job; 0 when none does. -/
def State.bufferUnit (s : State) (p : Fin 3) (job : Nat) : Nat :=
  ((s.entries.find? fun e => e.p == p && e.job == job).map fun e => e.core).getD 0
/-- The instruction caches without the words that hold a physical address, for the harts of the gangs on a core: they will
be fetched again (R400). -/
def State.dropInstr (s : State) (core pa : Nat) : State :=
  { s with gangs := s.gangs.map fun g => if g.usesCore core then
      { g with harts := g.harts.map fun h => { h with icache := h.icache.filter fun k => k.at_.pa / 8 != pa / 8 } } else g }
/-- The scalar data cache of a hart without the line of a physical address (R400). -/
def State.dropData (s : State) (h : HartId) (pa : Nat) : State :=
  s.modHart h fun x => { x with cache := x.cache.filter fun c => c.at_.pa != pa / 128 * 128 }
/-- The partition that a core belongs to (R391, R404). -/
def State.coreOwner (s : State) (core : Nat) : Option (Fin 3) := s.holder fun q => bit q.cap1 (56 + core / 8)
/-- REGISTER_ERROR (R400, R403): what an uncorrected error does, and a corrected one, which is only logged (R404), but for
the caches of clean lines, whose contents are dropped and refetched. A
lost query's job fails with a cause that the spec does not state, one that hardware raises (R317). Units are numbered
as log entry 15 says. -/
def execRegisterError (e : UnitError) (s : State) : Res :=
  match e with
  | .dramLine line => .next (s.lineLost line)
  | .l2Data true line => .next { s.report srcL2 0 (word (line * 128)) none false with
      hostPoison := addOnce s.hostPoison line }
  | .l2Data false line =>
    let way := ((s.l2.find? fun x => x.1 == line).map fun x => x.2.val).getD 0
    .next { s.report srcL2 way (word (line * 128)) (s.ownerOf (line * 128)) false with
      devPoison := addOnce s.devPoison line }
  | .snoopEntry line =>
    let o := s.ownerOf (line * 128)
    let t := s.report srcSnoop 0 (word (line * 128)) o false
    .next (match o with | some p => t.faultPart p | none => t)
  | .scratchpad u w =>
    match s.gang? u with
    | none => .next s
    | some g =>
      if g.spsize ≤ w * 4 then .next s
      else .next ((s.report srcScratchpad g.core (word (g.spBase + w * 4)) (some g.p) false).modGang u fun g =>
        { g with spPoison := addOnce g.spPoison w })
  | .regOrTile h =>
    let g := s.gang h.gang
    let t := s.report srcRegister g.core 0 (some g.p) false
    .next (if (s.jobOf g).rcd.paired then t.modGang h.gang fun g => { g with diverged := true }
      else t.killOutside h Cause.poison.code)
  | .pairDiffers gang => .next (s.modGang gang fun g => { g with diverged := g.core2.isSome })
  | .commitBuffer p job => .next ((s.report srcCommit (s.bufferUnit p job) 0 (some p) false).failJob p job Cause.poison.code)
  | .cask query =>
    match s.subOf? query with
    | none => .next s
    | some (k, b) =>
      let (c, t) := (s.report srcCask k.val 0 (some b.p) false).free
      .next ((t.loseQuery k b (query % 8)).failJob b.p b.job (1 + c.toNat % 23))
  | .deadlineTable p job =>
    let t := s.report srcDeadline 0 0 (some p) false
    match t.job? p job with
    | some j => .next (t.abandonTree j .abandoned j.takesKids t.dtime)
    | none => .next t
  | .taskTable p ch =>
    .next (((s.report srcTask ch.val 0 (some p) false).modTask p ch fun t => { t with valid := false }).modPart p fun q =>
      { q with dropPosts := q.dropPosts + 1 })
  | .instrCache core pa => .next ((s.report srcInstrCache core (word pa) (s.coreOwner core) true).dropInstr core pa)
  | .dataCache h pa =>
    let g := s.gang h.gang
    .next ((s.report srcDataCache g.core (word pa) (some g.p) true).dropData h pa)
  | .corrected src unit addr p => .next (s.report src unit.toNat addr p true)
  | .l2Tags way =>
    match s.wayOwner way with
    | some p => .next ((s.report srcTags way.val 0 (some p) false).faultPart p)
    | none => .next (s.report srcTags way.val 0 none false)

/-! ### Retirement and fences (R406) -/

/-- RETIRE written: units join the pending record, unless more than four L2 ways would be retired. -/
def State.retire_ (s : State) (units : BitVec 40) : State :=
  let r := s.retirePend ||| units
  if 4 < ((List.range 16).filter fun w => r.getLsbD (24 + w)).length then s else { s with retirePend := r }
/-- UNIT_RETIRE (R406). -/
def execUnitRetire (units : BitVec 40) (s : State) : Res := .next (s.retire_ units)
/-- CORE_FENCE (R406): bits written as 1 are set. -/
def execCoreFence (cores : BitVec 64) (s : State) : Res := .next { s with fence := s.fence ||| cores }

/-! ### Power (R411) -/

/-- The clock floor and the peak clock (R15), in MHz. -/
def clockFloor : Nat := 1600
def clockPeak : Nat := 2600
/-- PLIM written: clamped to 400 to 550 W. -/
def State.setPlim (s : State) (v : Word) : State := { s with plim := BitVec.ofNat 10 (max 400 (min 550 (bits v 9 0))) }
/-- PLIM_WRITE (R411). -/
def execPlimWrite (v : BitVec 64) (s : State) : Res := .next (s.setPlim v)
/-- 100 °C in sixteenths of a degree. -/
def hotTemp : Nat := 1600
/-- POWER_LIMIT_THROTTLE (R411): power or temperature above its limit lowers the clock, to no less than the floor; else
the clock may rise. How far is the device's choice (log entry 10). PLIMX stands while power exceeds PLIM at the floor,
and its onset is logged. -/
def execPowerLimitThrottle (watts : BitVec 10) (temp : BitVec 16) (s : State) : Res :=
  let s := { s with watts := watts, temp := temp }
  let over_ := s.plim < watts
  let x := over_ && s.clkMHz == clockFloor
  let s := if x && !s.plimx then s.report srcPower 0 0 none false else s
  let s := { s with plimx := x }
  let (c, s) := s.choose
  if over_ ∨ hotTemp ≤ temp.toNat then .next { s with clkMHz := max clockFloor (min s.clkMHz (if c = 0 then clockFloor else c)) }
  else .next { s with clkMHz := if c = 0 then clockPeak else max clockFloor (min clockPeak c) }

/-! ### Reset and bring-up (R410) -/

/-- The device in reset: partitions OFF, pending retirements in effect; what lies outside the device, its flash and its
fuses stay (R406, R410). -/
def State.inReset (s : State) : State :=
  { State.reset with
    agenda := s.agenda, cur := s.cur, freeCtr := s.freeCtr, choices := s.choices, gaps := s.gaps, part := s.part,
    stepping := s.stepping, host := s.host, twin := s.twin, hostPoison := s.hostPoison, twinPoison := s.twinPoison,
    out := s.out, tripped := s.tripped, retireQ0 := s.retirePend, retirePend := s.retirePend, ksRevoked := s.ksRevoked,
    minSvn := s.minSvn, flashImage := s.flashImage, flashTable := s.flashTable, flashBlobs := s.flashBlobs }
/-- DEVICE_RESET (R410). -/
def execDeviceReset (s : State) : Res := .next s.inReset
/-- THERMAL_TRIP (R411): at 110 °C every partition stops and the device is held in reset until power is cycled. -/
def execThermalTrip (s : State) : Res :=
  if s.temp.toNat < 1760 then .next s
  else
    let t := (List.finRange 3).foldl (fun s p => s.dropJobs p fun _ => true) s
    .next { t.inReset with tripped := true, temp := s.temp, out := t.out ++ [.thermalTrip] }
/-- An entry of the partition table in flash, applied in RESET (R410 step 5). -/
def Part.apply (q : Part) (t : Word × Word × Word × Word × Word) : Part :=
  let (q0, q1, q2, q3, q5) := t
  { q with q0 := setBits q0 29 0 0, town := bit q1 16, ways := BitVec.ofNat 16 (bits q1 15 0),
           hrb := BitVec.ofNat 36 (bits q2 51 16), hrs := BitVec.ofNat 32 (bits q3 31 0), fwa := q5.setWidth 52,
           st := if bits q0 63 30 = 0 then .off else .reset }
/-- The boot firmware runs: memory is scrubbed to zero, images are put into memory (log entry 9), the partition table is
applied, and each partition with a valid entry runs GO (R410 steps 3 to 5). -/
def State.bringUp (s : State) (i : Image) : State :=
  let s := { s with bootImage := some i, bootStage := 3, recovery := false, devPoison := []
                    dev := (s.flashBlobs.foldl (fun m b => Mem.write m b.1 b.2) []).filter fun c => !s.groupFailed c.1 }
  let s := (List.finRange 3).foldl (fun s p => s.modPart p fun q => q.apply s.flashTable[p]) s
  (List.finRange 3).foldl State.go s
/-- The boot ROM verifies an image of the boot firmware and starts it, or waits for one (R407). -/
def State.boot (s : State) (img : List Byte) : State :=
  match s.verify 1 (img.take headBytes) ((img.drop headBytes).take (headLen img)) with
  | some i => s.bringUp i
  | none => { s with recovery := true, bootStage := 1 }
/-- POWER_ON_RESET (R410, R411): power-good and PERST# deassertion; a device that is already up stays as it is. -/
def execPowerOnReset (s : State) : Res :=
  if s.bootStage ≠ 0 then .next s else .next (({ s with tripped := false }).boot s.flashImage)
/-- RECOVERY_IMAGE_DELIVERY (R407). -/
def execRecoveryImageDelivery (img : List (BitVec 8)) (s : State) : Res :=
  if s.recovery then .next (s.boot img) else .next s
/-- CONFIGURATION_REQUEST (R410): answered by a retry status until bring-up has ended. -/
def execConfigurationRequest (s : State) : Res :=
  .next (if s.bootStage = 3 then s else { s with out := s.out ++ [.crs] })

/-! ### The housekeeping block (R412, Table 19-5) -/

/-- Quadword k of a partition entry (Table 19-1). The W1S bits of Q4 trigger commands and read 0: no rule says when a 1
written to RST, GO or FWGO is gone again (log entry 39). -/
def Part.entryWord (q : Part) (k : Nat) : Word :=
  match k with
  | 0 => q.q0
  | 1 => (if q.town then 0x10000 else 0) + q.ways.setWidth 64
  | 2 => word q.reserveLow
  | 3 => q.hrs.setWidth 64
  | 4 => word (q.err.toNat * 16 + (match q.st with | .off => 0 | .reset => 1 | .run => 2 | .fault => 3))
  | 5 => q.fwa.setWidth 64
  | 6 => q.fwver.setWidth 64
  | _ => 0
/-- The number of a partition in a log entry: 0 for none. -/
def ErrLog.words (e : ErrLog) : List Nat :=
  [e.source.toNat, e.unit.toNat, e.addr.toNat, (match e.p with | some p => p.val + 1 | none => 0), e.time,
   if e.corrected then 1 else 0]
/-- A housekeeping register (Table 19-5); an unassigned offset reads as zero (R6). -/
def State.hkRead (s : State) (off : Nat) : Word :=
  if off = 0 then
    word (s.bootStage.toNat + (if s.tripped then 256 else 0) + (if s.recovery then 512 else 0) + (if s.plimx then 1024 else 0))
  else if 0x100 ≤ off ∧ off < 0x1C0 then (s.parts[Fin.ofNat 3 ((off - 0x100) / 0x40)]).entryWord (off % 0x40 / 8)
  else if off = 0x200 then s.retireQ0.setWidth 64
  else if off = 0x208 then s.retirePend.setWidth 64
  else if off = 0x210 then s.fence
  else if 0x300 ≤ off ∧ off < 0x500 then (vget s.lockstepCnt ((off - 0x300) / 8) 0).setWidth 64
  else if off = 0x7F8 then s.errHead
  else if 0x800 ≤ off ∧ off < 0x1000 then
    let i := (off - 0x800) / 32
    -- the log is a ring: entry i holds the newest event whose number is i modulo 64
    match s.errLog.zipIdx.find? fun e => (s.errHead.toNat - s.errLog.length + e.2) % logEntries == i with
    | some e => Config.errLogWord e.1.words (off % 32 / 8)
    | none => 0
  else if off = 0x1000 then word (s.plim.toNat + s.watts.toNat * 2 ^ 32)
  else if off = 0x1008 then s.temp.setWidth 64
  else 0
/-- HOUSEKEEPING_READ (R412). An offset that is no multiple of 8 is taken as unassigned, even within an assigned register
(R6 does not speak of it; log entry 70). -/
def execHousekeepingRead (off : BitVec 16) (s : State) : Res :=
  .next { s with out := s.out ++ [.housekeeping off (if off.toNat % 8 = 0 then s.hkRead off.toNat else 0)] }
/-- A write of quadword k of a partition entry (R391): Q0 to Q3 and Q5 only in OFF or RESET. -/
def Part.entryWrite (q : Part) (k : Nat) (v : Word) : Part :=
  if k = 4 then { q with err := q.err &&& ~~~ (BitVec.ofNat 4 (bits v 7 4)) }
  else if q.st ≠ .off ∧ q.st ≠ .reset then q
  else match k with
    | 0 => { q with q0 := setBits v 29 0 0 }
    | 1 => { q with town := bit v 16, ways := BitVec.ofNat 16 (bits v 15 0) }
    | 2 => { q with hrb := BitVec.ofNat 36 (bits v 51 16) }
    | 3 => { q with hrs := BitVec.ofNat 32 (bits v 31 0) }
    | 5 => { q with fwa := v.setWidth 52 }
    | _ => q
/-- The commands in a write of Q4: RST, GO and FWGO. -/
def State.command (s : State) (p : Fin 3) (v : Word) : State :=
  let s := if bit v 9 then s.rst p else s
  let s := if bit v 8 then s.go p else s
  if bit v 10 then s.fwgo p else s
/-- A housekeeping register written; a write to an unassigned offset is ignored (R6), and one to an offset that is no
multiple of 8 is taken so (log entry 70). -/
def State.hkWrite (s : State) (o : Nat) (v : Word) : State :=
  if o % 8 ≠ 0 then s
  else if 0x100 ≤ o ∧ o < 0x1C0 then
    let p : Fin 3 := Fin.ofNat 3 ((o - 0x100) / 0x40)
    let k := o % 0x40 / 8
    let t := s.modPart p fun q => q.entryWrite k v
    if k = 4 then t.command p v else t
  else if o = 0x200 then s.retire_ (v.setWidth 40)
  else if o = 0x210 then { s with fence := s.fence ||| v }
  else if 0x300 ≤ o ∧ o < 0x500 then
    if v = 0 then { s with lockstepCnt := vput s.lockstepCnt (Fin.ofNat 64 ((o - 0x300) / 8)) 0 } else s
  else if o = 0x1000 then s.setPlim v
  else s
/-- HOUSEKEEPING_WRITE (R412): one write at a time, performed before its response is sent. Of the other message types of
R412, SPDM is a step of its own; control and PLDM messages have no row in the opcode table and no format in the spec (log
entry 11). -/
def execHousekeepingWrite (off : BitVec 16) (v : Word) (s : State) : Res :=
  let t := s.hkWrite off.toNat v
  .next { t with out := t.out ++ [.housekeepingDone off] }

end Sys2Proof.Machine
end

