-- ==== Sys2Proof/Machine/ScalarFp.lean ====
section
/-!
DEFINITION. Scalar floating point: opcode 0x05 (R178).
-/

namespace Sys2Proof.Machine

/-- The format that FMT names. -/
def fpsFmt (f64 : Bool) : Fmt := if f64 then fmt64 else fmt32
/-- A scalar float operand (R178). -/
def State.fpr (s : State) (f64 : Bool) (x : GOp) : FVal := (fpsFmt f64).read ((s.rg x).toNat % 2 ^ (fpsFmt f64).width)
/-- A float result written with its flags. -/
def State.fpWrite (s : State) (d : GOp) (r : Nat × Flags) : Res := ((s.wg d (word r.1)).flag r.2).retire

/-- FADD (Table 8-4). -/
def execFadd (f64 : Bool) (rm : Rm) (d a b : GOp) (s : State) : Res :=
  s.fpWrite d ((fpsFmt f64).sum (s.rmode rm) [tm (s.fpr f64 a), tm (s.fpr f64 b)])
/-- FSUB (Table 8-4). -/
def execFsub (f64 : Bool) (rm : Rm) (d a b : GOp) (s : State) : Res :=
  s.fpWrite d ((fpsFmt f64).sum (s.rmode rm) [tm (s.fpr f64 a), (tm (s.fpr f64 b)).flip])
/-- FMUL (Table 8-4). -/
def execFmul (f64 : Bool) (rm : Rm) (d a b : GOp) (s : State) : Res :=
  s.fpWrite d ((fpsFmt f64).sum (s.rmode rm) [tm2 (s.fpr f64 a) (s.fpr f64 b)])
/-- FMA (Table 8-4). -/
def execFma (f64 : Bool) (rm : Rm) (d a b c : GOp) (s : State) : Res :=
  s.fpWrite d ((fpsFmt f64).sum (s.rmode rm) [tm2 (s.fpr f64 a) (s.fpr f64 b), tm (s.fpr f64 c)])
/-- A 64-bit integer result with its flags. -/
def intResult (r : Int × Flags) : Nat × Flags := (wrap64 r.1, r.2)
/-- FCVT (Table 8-5). -/
def execFcvt (kind : FcvtKind) (f64 : Bool) (rm : Rm) (d a : GOp) (s : State) : Res :=
  let r := s.rmode rm
  let x := s.fpr f64 a
  s.fpWrite d (match kind with
    | .ff => (fpsFmt (!f64)).deliver r false x.exact
    | .toI => intResult (floatToInt r true 64 x)
    | .toN => intResult (floatToInt r false 64 x)
    | .fromI => (fpsFmt f64).deliver r false (exactInt (s.rg a).toInt)
    | .fromN => (fpsFmt f64).deliver r false (exactInt (s.rg a).toNat))
/-- FCMP (Table 8-4, R81). -/
def execFcmp (cc : FCond) (f64 : Bool) (d a b : GOp) (s : State) : Res :=
  let r := FCond.float cc (s.fpr f64 a) (s.fpr f64 b)
  s.fpWrite d (if r.1 then 1 else 0, r.2)

end Sys2Proof.Machine
end

