-- ==== Sys2Proof/Machine/Security.lean ====
section
/-!
DEFINITION. Fuses (R408) and the SPDM responder (R409). The messages are those of DSP0274, which is outside the spec: a
response is a constant of `Config` applied to the request's code, its parameters and the measurements.
-/

namespace Sys2Proof.Machine

/-! ### Fuses -/

/-- The images that run: the boot firmware's, and those of the partitions' Hearth firmware. -/
def State.images (s : State) : List Image :=
  s.bootImage.toList ++ ((List.finRange 3).filter fun p => s.inRun p).filterMap fun p => s.hearthImage[p]
/-- KEY_SLOT_REVOKE (R408): irreversible, and not accepted for the slot of an image that runs. -/
def execKeySlotRevoke (ks : Fin 4) (s : State) : Res :=
  .next (if s.images.any fun i => i.ks.toNat == ks.val then s else { s with ksRevoked := s.ksRevoked ||| 1 <<< ks.val })
/-- The images of a TYPE that run. -/
def State.imagesOf (s : State) (hearth : Bool) : List Image :=
  if hearth then ((List.finRange 3).filter fun p => s.inRun p).filterMap fun p => s.hearthImage[p] else s.bootImage.toList
/-- MINIMUM_SVN_RAISE (R407, R408): irreversible, at most 64, and not accepted above the SVN of an image that runs. -/
def execMinimumSvnRaise (hearth : Bool) (svn : BitVec 8) (s : State) : Res :=
  let k : Fin 2 := if hearth then 1 else 0
  .next (if 64 < svn.toNat ∨ svn ≤ s.minSvn[k] ∨ (s.imagesOf hearth).any (fun i => decide (i.svn < svn)) then s
    else { s with minSvn := vput s.minSvn k svn })

/-! ### SPDM (R409) -/

/-- Where a port keeps its connection: the three functions, then MCTP. -/
def spdmSlot : SpdmPort → Fin 4
  | .doe p => ⟨p.val, by omega⟩
  | .mctp => 3
/-- A request can arrive: over DOE of a function that exists, or over MCTP. -/
def State.spdmUp (s : State) : SpdmPort → Bool
  | .doe p => s.hasFunction p
  | .mctp => true
/-- The measurements of R409, index 1 to 7. -/
def State.measurements (s : State) : List Nat :=
  [Config.romDigest, (s.bootImage.map Image.digest).getD 0,
   Config.sha512 (((List.finRange 4).map fun k => bytesOfNat 64 (Config.keyHash k)).flatten ++
     bytesOfNat 1 s.ksRevoked.toNat ++ (s.minSvn.toList.map fun v => bytesOfNat 1 v.toNat).flatten ++
     bytesOfNat 5 s.retirePend.toNat),
   Config.sha512 (s.goTable.map fun q => bytesOfNat 8 q.toNat).flatten] ++
    (List.finRange 3).map fun p => ((s.hearthImage[p]).map Image.digest).getD 0
/-- A request answered: `code` is its number in R409's list, and the port's negotiated version is among its
parameters. -/
def State.spdm (s : State) (via : SpdmPort) (code : Nat) (params : List Nat) : State :=
  if s.spdmUp via then
    let ver := ((s.spdmVersion[spdmSlot via]).map BitVec.toNat).getD 0
    { s with out := s.out ++ [.spdm via code (Config.spdmBytes code (ver :: params))] }
  else s
/-- GET_VERSION (R409): it begins a connection. -/
def execGetVersion (via : SpdmPort) (s : State) : Res :=
  .next (if s.spdmUp via then
    ({ s with spdmVersion := vput s.spdmVersion (spdmSlot via) none }).spdm via 0 [0x12, 0x13] else s)
/-- GET_CAPABILITIES (R409). -/
def execGetCapabilities (via : SpdmPort) (s : State) : Res := .next (s.spdm via 1 [])
/-- NEGOTIATE_ALGORITHMS (R409): versions 1.2 and 1.3. -/
def execNegotiateAlgorithms (via : SpdmPort) (ver : BitVec 8) (asym hash : BitVec 32) (s : State) : Res :=
  let t := if s.spdmUp via ∧ (ver = 0x12 ∨ ver = 0x13) then
      { s with spdmVersion := vput s.spdmVersion (spdmSlot via) (some ver) } else s
  .next (t.spdm via 2 [ver.toNat, asym.toNat, hash.toNat])
/-- GET_DIGESTS (R409): slots 0 and 1. -/
def execGetDigests (via : SpdmPort) (s : State) : Res := .next (s.spdm via 3 [(s.bootImage.map Image.digest).getD 0])
/-- GET_CERTIFICATE (R409). -/
def execGetCertificate (via : SpdmPort) (slot : BitVec 4) (off len : BitVec 16) (s : State) : Res :=
  .next (s.spdm via 4 [slot.toNat, off.toNat, len.toNat, (s.bootImage.map Image.digest).getD 0])
/-- CHALLENGE (R409). -/
def execChallenge (via : SpdmPort) (slot : BitVec 4) (nonce : BitVec 256) (s : State) : Res :=
  .next (s.spdm via 5 ([slot.toNat, nonce.toNat] ++ s.measurements))
/-- GET_MEASUREMENTS (R409). -/
def execGetMeasurements (via : SpdmPort) (index : BitVec 8) (sign : Bool) (nonce : BitVec 256) (s : State) : Res :=
  .next (s.spdm via 6 ([index.toNat, if sign then 1 else 0, nonce.toNat] ++ s.measurements))

end Sys2Proof.Machine
end

