-- ==== Sys2Proof/Machine/System.lean ====
section
/-!
DEFINITION. System instructions: service calls, breakpoints and return (R189 to R191), fences (R139, R245), `WFE`
(R192), scratchpad locks (R194, R195, R322), checkpoints (R45, R196), and the save blocks of `VSAVE` and `VREST` (R198).
-/

namespace Sys2Proof.Machine

/-- SVC (R189, R308, R324, R325): at U the service call enters the supervisor thread, or kills the hart when there is
none; at S it is a release, and a call to Hearth that blocks the thread. -/
def execSvc (n : BitVec 16) (s : State) : Res :=
  if s.atS then
    let p := s.myGang.p
    let call : Call := { n := n.toNat, seq := (s.prt p).nextSeq, taken := false, ends := none }
    .next (((s.release).modPart p fun q => { q with nextSeq := q.nextSeq + 1 }).modSup fun t =>
      { t with st := .blocked, call := some call })
  else if s.me.sup.svec = 0 then .next (s.killHart s.cur Cause.illegal.code)
  else .next (s.enter s.cur 0x19 0 n.toNat 0 (s.me.pc + 8) 0 0)
/-- TRAPI (R190): BREAK with the code; at S it kills the user hart. -/
def execTrapi (n : BitVec 16) (s : State) : Res := s.raise 0x1A { c := .brk, detail := n.toNat }
/-- The user hart resumed at (`sepc`, `sei`) (R191, R319 to R323). -/
def Hart.eret (h : Hart) : Hart :=
  { h with pc := h.sup.sepc, ei := h.sup.sei.toNat, st := .running, wait := none, cache := [], evt := true, hold := 0,
           stepArm := h.sup.sstep, stepDue := false, bpExempt := true,
           sup := { h.sup with st := .idle, inh := false, wait := none } }
/-- ERET (R191): supervisor-only. -/
def execEret (s : State) : Res := s.supOnly 0x1B <| .next (s.release.modMe Hart.eret)

/-- FENCE (R139, R245, Table 6-4). It acts towards every agent, whatever its scope (log entry 78). -/
def execFence (dir : FenceDir) (_sc : Scope) (s : State) : Res :=
  match dir with
  | .sv => s.release.retire
  | .vs => s.acquire.retire
  | .vv => s.retire
  | .all => s.release.acquire.retire

/-- WFE (R192): a set event register is cleared at once; else the hart blocks, with a time-out when g[A] is not 0. -/
def execWfe (a : GOp) (s : State) : Res := s.userOnly 0x1D <|
  if s.me.evt then (s.modMe fun h => { h with evt := false }).retire
  else s.block 0x1D .wfe (if s.rg a = 0 then none else some (s.dtime + (s.rg a).toNat))

/-! ### Scratchpad locks -/

/-- The value that a thread puts into a lock word (R194). -/
def State.lockOwn (s : State) : Nat := (if s.atS then 0x11 else 1) + s.cur.rank.val
/-- The checks of R194 on a lock address. -/
def State.lockCheck (s : State) (a : Word) : Option TrapInfo :=
  let g := s.myGang
  if g.spsize ≤ a.toNat then some (memTrapAt .sprange a)
  else if a.toNat % 4 ≠ 0 then some (memTrapAt .misalign a)
  else if g.spPoisoned a.toNat 4 then some (memTrapAt .poison a)
  else none
where
  /-- a trap of a lock instruction, which writes -/
  memTrapAt (c : Cause) (a : Word) : TrapInfo := { c := c, detail := 1, addr := a }
/-- The running thread's lock count after a lock is taken (R322, R323). -/
def State.lockTaken (s : State) (a : Word) : State :=
  if s.atS then s.modSup fun t => { t with locks := min 15 (t.locks + 1) }
  else s.modMe fun h => { h with locks := min 15 (h.locks + 1), lockAddr := a }
/-- The running thread's lock count after a lock is released (R322, R323). -/
def State.lockFreed (s : State) : State :=
  if s.atS then s.modSup fun t => { t with locks := t.locks - 1 }
  else s.modMe fun h => { h with locks := h.locks - 1, hold := if h.locks ≤ 1 then 0 else h.hold }
/-- SPLOCK (R194): one try, an acquire at core scope when it takes the lock. -/
def execSplock (d a : GOp) (s : State) : Res :=
  let x := s.rg a
  match s.lockCheck x with
  | some t => s.raise 0x1E t
  | none =>
    let w := natOfBytes (s.myGang.spRead x.toNat 4)
    if w ≠ 0 then (s.wg d (word w)).retire
    else s.pair <|
      let s := s.spWrite s.cur.gang x.toNat (bytesOfNat 4 s.lockOwn)
      ((s.lockTaken x).acquire.wg d 0).retire
/-- SPUNLOCK (R195): a release at core scope that sets the gang's event registers; PROT for a lock not its own. -/
def execSpunlock (a : GOp) (s : State) : Res :=
  let x := s.rg a
  match s.lockCheck x with
  | some t => s.raise 0x1E t
  | none =>
    if natOfBytes (s.myGang.spRead x.toNat 4) ≠ s.lockOwn then s.raise 0x1E { c := .prot, detail := 1, addr := x }
    else s.pair <|
      let s := (s.release.spWrite s.cur.gang x.toNat (bytesOfNat 4 0)).lockFreed
      (s.setEvtGang s.cur.gang).retire

/-! ### Checkpoints -/

/-- CKPT (R45, R196): in a PAIRED gang the recovery point, or LOCKSTEP where the copies differ. -/
def execCkpt (s : State) : Res :=
  if s.atS || !s.myJob.rcd.paired then s.retire
  else s.pair <|
    let t := s.retired
    .next (t.modMyGang fun g => { g with recov := some { harts := g.harts, used := false, entry := t.nextEntry } })

/-! ### Save blocks -/

/-- Bytes of a save block (Table 8-9). -/
def saveBytes : Nat := 1032
/-- The checks of a save block against the supervisor thread's token (R61, R115, R198): the pages, or the trap. -/
def State.saveCheck (s : State) (tk : Fin 8) (a : Word) (wr : Bool) : Except TrapInfo (List Pin) :=
  let t := s.token tk
  let det : Nat := if wr then 1 else 0
  match t.stateTrap tk with
  | some x => .error x
  | none =>
    if !t.covers a.toNat saveBytes then .error { c := .tkrange, detail := tk.val, addr := a }
    else if a.toNat % 8 ≠ 0 then .error { c := .misalign, detail := det, addr := a }
    else if t.pins.any fun q => (if wr then !q.w else !q.r) && decide (q.va < a.toNat + saveBytes)
        && decide (a.toNat < q.va + q.size) then .error { c := .prot, detail := det, addr := a }
    else .ok t.pins
/-- The place of quadword k of a block at a. -/
def blockLoc (pins : List Pin) (a k : Nat) : Loc :=
  ((findPin pins (a + 8 * k)).map fun q => q.loc (a + 8 * k)).getD { kind := .dev, pa := 0 }
/-- Quadwords written from a on, for a job; the thread's scalar cache sees them, since they are the same agent's (R129,
R131). -/
def State.writeQuads (s : State) (p : Fin 3) (job : Nat) (pins : List Pin) (a : Nat) : List (Nat × Word) → State
  | [] => s
  | (k, w) :: r =>
    let l := blockLoc pins a k
    let t := s.writeHome p job l (bytesOfNat 8 w.toNat)
    State.writeQuads (t.modMe fun h => h.cachePut l (t.readHome l 8)) p job pins a r
/-- VSAVE (R198): all 128 elements and the tag. -/
def execVsave (tk : Fin 8) (a : GOp) (vm : Fin 48) (s : State) : Res := s.supOnly 0x21 <|
  match s.saveCheck tk (s.rg a) true with
  | .error t => s.raise 0x21 t
  | .ok pins => s.pair <|
    let g := s.myGang
    let v := s.me.v[(⟨vm.val, by omega⟩ : Fin 60)]
    let qs := v.el.toList ++ [BitVec.ofNat 64 (Tag.code v.tag)]
    (s.release.writeQuads g.p g.job pins (s.rg a).toNat (qs.zipIdx.map fun q => (q.2, q.1))).retire
/-- Quadwords read from a on, of a block: none for a poisoned one. The thread's scalar cache sees what they hold (R129,
R131). -/
def State.readQuads (s : State) (pins : List Pin) (a : Nat) : List Nat → List (Option Word) × State
  | [] => ([], s)
  | k :: r =>
    let l := blockLoc pins a k
    if s.readPoison l 8 then
      let (ws, t) := State.readQuads (s.afterPoison l 8) pins a r
      (none :: ws, t)
    else
      let bs := s.readHome l 8
      let (ws, t) := State.readQuads ((s.afterRead l 8).modMe fun h => h.cachePut l bs) pins a r
      (some (word (natOfBytes bs)) :: ws, t)
/-- VREST (R198, R351): all 128 elements and the tag; TYPE for a bad block or a bound register, and POISON after TYPE
(R166). -/
def execVrest (tk : Fin 8) (vm : Fin 48) (a : GOp) (s : State) : Res := s.supOnly 0x22 <|
  let r : Fin 60 := ⟨vm.val, by omega⟩
  let typ : TrapInfo := { c := .type, detail := vm.val }
  if h : 40 ≤ vm.val ∧ (s.me.str[(⟨vm.val - 40, by omega⟩ : Fin 8)]).bound then s.raise 0x22 typ
  else
    match s.saveCheck tk (s.rg a) false with
    | .error t => s.raise 0x22 t
    | .ok pins =>
      let (qs, u) := s.release.readQuads pins (s.rg a).toNat (List.range 129)
      match (qs.getD 128 none).map fun w => Tag.ofCode w.toNat with
      | some none => u.raise 0x22 typ
      | none => u.raise 0x22 { c := .poison, addr := s.rg a }
      | some (some t) =>
        if qs.any Option.isNone then u.raise 0x22 { c := .poison, addr := s.rg a }
        else
          (u.modMe fun h =>
            { h with v := vput h.v r { el := vgen 128 fun e => (qs.getD e none).getD 0, tag := t, vln := 128, dirty := true },
                     fillV := h.fillV.filter fun f => f.1 ≠ r }).retire

end Sys2Proof.Machine
end

