-- ==== Sys2Proof/Machine/Dispatch.lean ====
section
/-!
DEFINITION. The dispatch of every constructor of `Instr` to its meaning.
-/

namespace Sys2Proof.Machine

def exec (i : Instr) (s : State) : Host.Outcome State Fault Refusal :=
  match i with
  | .add d a b => Sys2Proof.Machine.execAdd d a b s
  | .sub d a b => Sys2Proof.Machine.execSub d a b s
  | .mul d a b => Sys2Proof.Machine.execMul d a b s
  | .mulhi u d a b => Sys2Proof.Machine.execMulhi u d a b s
  | .div u d a b => Sys2Proof.Machine.execDiv u d a b s
  | .rem u d a b => Sys2Proof.Machine.execRem u d a b s
  | .and d a b => Sys2Proof.Machine.execAnd d a b s
  | .or d a b => Sys2Proof.Machine.execOr d a b s
  | .xor d a b => Sys2Proof.Machine.execXor d a b s
  | .andn d a b => Sys2Proof.Machine.execAndn d a b s
  | .shl d a b => Sys2Proof.Machine.execShl d a b s
  | .shr d a b => Sys2Proof.Machine.execShr d a b s
  | .sar d a b => Sys2Proof.Machine.execSar d a b s
  | .min u d a b => Sys2Proof.Machine.execMin u d a b s
  | .max u d a b => Sys2Proof.Machine.execMax u d a b s
  | .clz d a => Sys2Proof.Machine.execClz d a s
  | .popc d a => Sys2Proof.Machine.execPopc d a s
  | .sel d a b c => Sys2Proof.Machine.execSel d a b c s
  | .setcc cc d a b => Sys2Proof.Machine.execSetcc cc d a b s
  | .aluiAdd d a imm => Sys2Proof.Machine.execAluiAdd d a imm s
  | .aluiAnd d a imm => Sys2Proof.Machine.execAluiAnd d a imm s
  | .aluiOr d a imm => Sys2Proof.Machine.execAluiOr d a imm s
  | .aluiXor d a imm => Sys2Proof.Machine.execAluiXor d a imm s
  | .aluiShl d a imm => Sys2Proof.Machine.execAluiShl d a imm s
  | .aluiShr d a imm => Sys2Proof.Machine.execAluiShr d a imm s
  | .aluiSar d a imm => Sys2Proof.Machine.execAluiSar d a imm s
  | .aluiMin d a imm => Sys2Proof.Machine.execAluiMin d a imm s
  | .aluiMax d a imm => Sys2Proof.Machine.execAluiMax d a imm s
  | .li d imm => Sys2Proof.Machine.execLi d imm s
  | .lih d imm => Sys2Proof.Machine.execLih d imm s
  | .fadd f64 rm d a b => Sys2Proof.Machine.execFadd f64 rm d a b s
  | .fsub f64 rm d a b => Sys2Proof.Machine.execFsub f64 rm d a b s
  | .fmul f64 rm d a b => Sys2Proof.Machine.execFmul f64 rm d a b s
  | .fma f64 rm d a b c => Sys2Proof.Machine.execFma f64 rm d a b c s
  | .fcvt kind f64 rm d a => Sys2Proof.Machine.execFcvt kind f64 rm d a s
  | .fcmp cc f64 d a b => Sys2Proof.Machine.execFcmp cc f64 d a b s
  | .ld q d a => Sys2Proof.Machine.execLd q d a s
  | .st q d a => Sys2Proof.Machine.execSt q d a s
  | .amo op x d a b => Sys2Proof.Machine.execAmo op x d a b s
  | .cas x d a b c => Sys2Proof.Machine.execCas x d a b c s
  | .br cc a b off => Sys2Proof.Machine.execBr cc a b off s
  | .jal a off => Sys2Proof.Machine.execJal a off s
  | .jalr d a imm => Sys2Proof.Machine.execJalr d a imm s
  | .loop a off => Sys2Proof.Machine.execLoop a off s
  | .bm cc a off => Sys2Proof.Machine.execBm cc a off s
  | .nop => Sys2Proof.Machine.execNop s
  | .csrr d num => Sys2Proof.Machine.execCsrr d num s
  | .csrw a num => Sys2Proof.Machine.execCsrw a num s
  | .csrset d a num => Sys2Proof.Machine.execCsrset d a num s
  | .csrclr d a num => Sys2Proof.Machine.execCsrclr d a num s
  | .svc n => Sys2Proof.Machine.execSvc n s
  | .trapi n => Sys2Proof.Machine.execTrapi n s
  | .eret => Sys2Proof.Machine.execEret s
  | .fence dir sc => Sys2Proof.Machine.execFence dir sc s
  | .wfe a => Sys2Proof.Machine.execWfe a s
  | .splock d a => Sys2Proof.Machine.execSplock d a s
  | .spunlock a => Sys2Proof.Machine.execSpunlock a s
  | .tlbinv kind a b => Sys2Proof.Machine.execTlbinv kind a b s
  | .ckpt => Sys2Proof.Machine.execCkpt s
  | .vsave tk a vm => Sys2Proof.Machine.execVsave tk a vm s
  | .vrest tk vm a => Sys2Proof.Machine.execVrest tk vm a s
  | .hmsg a b => Sys2Proof.Machine.execHmsg a b s
  | .jspawn d vm => Sys2Proof.Machine.execJspawn d vm s
  | .jend => Sys2Proof.Machine.execJend s
  | .chblock a => Sys2Proof.Machine.execChblock a s
  | .chunblock a => Sys2Proof.Machine.execChunblock a s
  | .abump d a n al => Sys2Proof.Machine.execAbump d a n al s
  | .vsetl d a => Sys2Proof.Machine.execVsetl d a s
  | .vtag d t => Sys2Proof.Machine.execVtag d t s
  | .vretag d t => Sys2Proof.Machine.execVretag d t s
  | .vgettag d a => Sys2Proof.Machine.execVgettag d a s
  | .vmov d a => Sys2Proof.Machine.execVmov d a s
  | .vadd q d a b => Sys2Proof.Machine.execVadd q d a b s
  | .vsub q d a b => Sys2Proof.Machine.execVsub q d a b s
  | .vmul q d a b => Sys2Proof.Machine.execVmul q d a b s
  | .vmulh q d a b => Sys2Proof.Machine.execVmulh q d a b s
  | .vfma q d a b c => Sys2Proof.Machine.execVfma q d a b c s
  | .vfms q d a b c => Sys2Proof.Machine.execVfms q d a b c s
  | .vfnma q d a b c => Sys2Proof.Machine.execVfnma q d a b c s
  | .vmin q d a b => Sys2Proof.Machine.execVmin q d a b s
  | .vmax q d a b => Sys2Proof.Machine.execVmax q d a b s
  | .vabs q d a => Sys2Proof.Machine.execVabs q d a s
  | .vneg q d a => Sys2Proof.Machine.execVneg q d a s
  | .vand q d a b => Sys2Proof.Machine.execVand q d a b s
  | .vor q d a b => Sys2Proof.Machine.execVor q d a b s
  | .vxor q d a b => Sys2Proof.Machine.execVxor q d a b s
  | .vshl q d a b => Sys2Proof.Machine.execVshl q d a b s
  | .vshr q d a b => Sys2Proof.Machine.execVshr q d a b s
  | .vsar q d a b => Sys2Proof.Machine.execVsar q d a b s
  | .vclz q d a => Sys2Proof.Machine.execVclz q d a s
  | .vpopc q d a => Sys2Proof.Machine.execVpopc q d a s
  | .vsel q d a b c => Sys2Proof.Machine.execVsel q d a b c s
  | .vaddc q d a b c => Sys2Proof.Machine.execVaddc q d a b c s
  | .vsubb q d a b c => Sys2Proof.Machine.execVsubb q d a b c s
  | .vcmp q cc d a b => Sys2Proof.Machine.execVcmp q cc d a b s
  | .vcvt q t part d a => Sys2Proof.Machine.execVcvt q t part d a s
  | .vrcp q d a => Sys2Proof.Machine.execVrcp q d a s
  | .vrsqrt q d a => Sys2Proof.Machine.execVrsqrt q d a s
  | .vsqrt q d a => Sys2Proof.Machine.execVsqrt q d a s
  | .vdiv q d a b => Sys2Proof.Machine.execVdiv q d a b s
  | .vexp2 q d a => Sys2Proof.Machine.execVexp2 q d a s
  | .vlog2 q d a => Sys2Proof.Machine.execVlog2 q d a s
  | .vcmul q d a b => Sys2Proof.Machine.execVcmul q d a b s
  | .vcmac q d a b c => Sys2Proof.Machine.execVcmac q d a b c s
  | .vconj q d a => Sys2Proof.Machine.execVconj q d a s
  | .vcabs2 q d a => Sys2Proof.Machine.execVcabs2 q d a s
  | .vcrot q k d a => Sys2Proof.Machine.execVcrot q k d a s
  | .vbfly q h d a b => Sys2Proof.Machine.execVbfly q h d a b s
  | .vgjstep q n p d a => Sys2Proof.Machine.execVgjstep q n p d a s
  | .vbfpexp q w d a => Sys2Proof.Machine.execVbfpexp q w d a s
  | .vbfpcmp q w d a => Sys2Proof.Machine.execVbfpcmp q w d a s
  | .vslideup q d a b => Sys2Proof.Machine.execVslideup q d a b s
  | .vslidedn q d a b => Sys2Proof.Machine.execVslidedn q d a b s
  | .vperm q d a b => Sys2Proof.Machine.execVperm q d a b s
  | .vbcast q d a b => Sys2Proof.Machine.execVbcast q d a b s
  | .vcompress q d a c => Sys2Proof.Machine.execVcompress q d a c s
  | .vexpand q d a c => Sys2Proof.Machine.execVexpand q d a c s
  | .viota q d c => Sys2Proof.Machine.execViota q d c s
  | .vzip q d a b => Sys2Proof.Machine.execVzip q d a b s
  | .vunzip q d a b => Sys2Proof.Machine.execVunzip q d a b s
  | .vredsum q d a => Sys2Proof.Machine.execVredsum q d a s
  | .vredmax q d a => Sys2Proof.Machine.execVredmax q d a s
  | .vredmin q d a => Sys2Proof.Machine.execVredmin q d a s
  | .vscan q d a => Sys2Proof.Machine.execVscan q d a s
  | .mand d a b => Sys2Proof.Machine.execMand d a b s
  | .mor d a b => Sys2Proof.Machine.execMor d a b s
  | .mxor d a b => Sys2Proof.Machine.execMxor d a b s
  | .mandn d a b => Sys2Proof.Machine.execMandn d a b s
  | .mshl d a b => Sys2Proof.Machine.execMshl d a b s
  | .mpopc d a => Sys2Proof.Machine.execMpopc d a s
  | .mfirst d a => Sys2Proof.Machine.execMfirst d a s
  | .mset h d a => Sys2Proof.Machine.execMset h d a s
  | .mget h d a => Sys2Proof.Machine.execMget h d a s
  | .vprobe wr tk a b => Sys2Proof.Machine.execVprobe wr tk a b s
  | .vrelease tk => Sys2Proof.Machine.execVrelease tk s
  | .vld x d a b => Sys2Proof.Machine.execVld x d a b s
  | .vst x d a b => Sys2Proof.Machine.execVst x d a b s
  | .vldx x d a b => Sys2Proof.Machine.execVldx x d a b s
  | .vstx x d a b => Sys2Proof.Machine.execVstx x d a b s
  | .vlds x d a b => Sys2Proof.Machine.execVlds x d a b s
  | .vsts x d a b => Sys2Proof.Machine.execVsts x d a b s
  | .vldsx x d a b => Sys2Proof.Machine.execVldsx x d a b s
  | .vstsx x d a b => Sys2Proof.Machine.execVstsx x d a b s
  | .vlds2 x d a b c => Sys2Proof.Machine.execVlds2 x d a b c s
  | .vsts2 x d a b c => Sys2Proof.Machine.execVsts2 x d a b c s
  | .sbind d a => Sys2Proof.Machine.execSbind d a s
  | .sunbind d => Sys2Proof.Machine.execSunbind d s
  | .sstat d a => Sys2Proof.Machine.execSstat d a s
  | .vamo op x d a b c => Sys2Proof.Machine.execVamo op x d a b c s
  | .vsta op x a b c => Sys2Proof.Machine.execVsta op x a b c s
  | .vwaitc cc x d a b c => Sys2Proof.Machine.execVwaitc cc x d a b c s
  | .tseal => Sys2Proof.Machine.execTseal s
  | .twait t a b => Sys2Proof.Machine.execTwait t a b s
  | .macq d n => Sys2Proof.Machine.execMacq d n s
  | .mrel n => Sys2Proof.Machine.execMrel n s
  | .mzero n => Sys2Proof.Machine.execMzero n s
  | .mopa q cj n a b => Sys2Proof.Machine.execMopa q cj n a b s
  | .mrd col d n a => Sys2Proof.Machine.execMrd col d n a s
  | .mwr q col n a b => Sys2Proof.Machine.execMwr q col n a b s
  | .mst x sp n a b => Sys2Proof.Machine.execMst x sp n a b s
  | .mldt x sp n a b => Sys2Proof.Machine.execMldt x sp n a b s
  | .mscale q n a b => Sys2Proof.Machine.execMscale q n a b s
  | .pgopen d a => Sys2Proof.Machine.execPgopen d a s
  | .pgsub q d a b c => Sys2Proof.Machine.execPgsub q d a b c s
  | .pgclose a => Sys2Proof.Machine.execPgclose a s
  | .pgmerge q a b c => Sys2Proof.Machine.execPgmerge q a b c s
  | .pgstat d a which => Sys2Proof.Machine.execPgstat d a which s
  | .binit n a b => Sys2Proof.Machine.execBinit n a b s
  | .barrive n => Sys2Proof.Machine.execBarrive n s
  | .bexpect n a => Sys2Proof.Machine.execBexpect n a s
  | .bwait n => Sys2Proof.Machine.execBwait n s
  | .btest d n => Sys2Proof.Machine.execBtest d n s
  | .tcopy a => Sys2Proof.Machine.execTcopy a s
  | .ringcfg r a => Sys2Proof.Machine.execRingcfg r a s
  | .rcommit r a => Sys2Proof.Machine.execRcommit r a s
  | .rwait r => Sys2Proof.Machine.execRwait r s
  | .rrelease r => Sys2Proof.Machine.execRrelease r s
  | .rstat d r which => Sys2Proof.Machine.execRstat d r which s
  | .csubmit cls a => Sys2Proof.Machine.execCsubmit cls a s
  | .fhtx a => Sys2Proof.Machine.execFhtx a s
  | .copyBytesLand copy n => Sys2Proof.Machine.execCopyBytesLand copy n s
  | .copyComplete copy => Sys2Proof.Machine.execCopyComplete copy s
  | .codingCommandStart cmd => Sys2Proof.Machine.execCodingCommandStart cmd s
  | .codingCommandComplete cmd => Sys2Proof.Machine.execCodingCommandComplete cmd s
  | .fronthaulSend tx => Sys2Proof.Machine.execFronthaulSend tx s
  | .frameReceive port fr => Sys2Proof.Machine.execFrameReceive port fr s
  | .hostQueueTransmit port => Sys2Proof.Machine.execHostQueueTransmit port s
  | .sweepStart ctx => Sys2Proof.Machine.execSweepStart ctx s
  | .pageFetch ctx => Sys2Proof.Machine.execPageFetch ctx s
  | .pageDelivery ctx page sb => Sys2Proof.Machine.execPageDelivery ctx page sb s
  | .caskOverflow h => Sys2Proof.Machine.execCaskOverflow h s
  | .sweepEnd ctx => Sys2Proof.Machine.execSweepEnd ctx s
  | .launchTailWrite p vf tail => Sys2Proof.Machine.execLaunchTailWrite p vf tail s
  | .launchWindowTake p vf => Sys2Proof.Machine.execLaunchWindowTake p vf s
  | .channelMessageTake p ch => Sys2Proof.Machine.execChannelMessageTake p ch s
  | .taskTableWrite p ch q0 q1 q2 q3 => Sys2Proof.Machine.execTaskTableWrite p ch q0 q1 q2 q3 s
  | .gangPlace p => Sys2Proof.Machine.execGangPlace p s
  | .hartFrameSave h => Sys2Proof.Machine.execHartFrameSave h s
  | .gangFrameSave gang => Sys2Proof.Machine.execGangFrameSave gang s
  | .lightPreemption core => Sys2Proof.Machine.execLightPreemption core s
  | .lightPreemptionResume core => Sys2Proof.Machine.execLightPreemptionResume core s
  | .scratchpadClear core => Sys2Proof.Machine.execScratchpadClear core s
  | .gangRelease gang => Sys2Proof.Machine.execGangRelease gang s
  | .comparisonTick => Sys2Proof.Machine.execComparisonTick s
  | .abandonComplete p job => Sys2Proof.Machine.execAbandonComplete p job s
  | .jobEnd p job => Sys2Proof.Machine.execJobEnd p job s
  | .commitRightPass p job tree => Sys2Proof.Machine.execCommitRightPass p job tree s
  | .commitSpill h => Sys2Proof.Machine.execCommitSpill h s
  | .blockedHartResume h => Sys2Proof.Machine.execBlockedHartResume h s
  | .waitWatchdog h => Sys2Proof.Machine.execWaitWatchdog h s
  | .wfeTimeout h => Sys2Proof.Machine.execWfeTimeout h s
  | .vwaitcTimeout h => Sys2Proof.Machine.execVwaitcTimeout h s
  | .lockHoldWatchdog h => Sys2Proof.Machine.execLockHoldWatchdog h s
  | .handlerWatchdog h => Sys2Proof.Machine.execHandlerWatchdog h s
  | .addressBreakpoint h => Sys2Proof.Machine.execAddressBreakpoint h s
  | .singleStep h => Sys2Proof.Machine.execSingleStep h s
  | .pinGraceExpiry inv => Sys2Proof.Machine.execPinGraceExpiry inv s
  | .kill h => Sys2Proof.Machine.execKill h s
  | .hostq h => Sys2Proof.Machine.execHostq h s
  | .hostqTimeout h => Sys2Proof.Machine.execHostqTimeout h s
  | .log h => Sys2Proof.Machine.execLog h s
  | .abandon h => Sys2Proof.Machine.execAbandon h s
  | .info h => Sys2Proof.Machine.execInfo h s
  | .faultQueueReply p vf seq => Sys2Proof.Machine.execFaultQueueReply p vf seq s
  | .invalidatePage p vf va => Sys2Proof.Machine.execInvalidatePage p vf va s
  | .invalidateFunction p vf => Sys2Proof.Machine.execInvalidateFunction p vf s
  | .invalidationComplete p vf => Sys2Proof.Machine.execInvalidationComplete p vf s
  | .jobKillRequest p vf job => Sys2Proof.Machine.execJobKillRequest p vf job s
  | .functionConfigWrite p vf off v => Sys2Proof.Machine.execFunctionConfigWrite p vf off v s
  | .arenaGrant p vf n v => Sys2Proof.Machine.execArenaGrant p vf n v s
  | .placementEntryWrite p port n q0 q1 q2 q3 => Sys2Proof.Machine.execPlacementEntryWrite p port n q0 q1 q2 q3 s
  | .flowEntryWrite p port n q0 q1 q2 q3 => Sys2Proof.Machine.execFlowEntryWrite p port n q0 q1 q2 q3 s
  | .portConfigWrite p port off v => Sys2Proof.Machine.execPortConfigWrite p port off v s
  | .tset p v => Sys2Proof.Machine.execTset p v s
  | .toff p v => Sys2Proof.Machine.execToff p v s
  | .holdoverTimeout => Sys2Proof.Machine.execHoldoverTimeout s
  | .hostMemoryAccess p acc => Sys2Proof.Machine.execHostMemoryAccess p acc s
  | .hostErrorCompletion wr pa => Sys2Proof.Machine.execHostErrorCompletion wr pa s
  | .twinAccess acc => Sys2Proof.Machine.execTwinAccess acc s
  | .hostLinkTrain gen width cxl hostc => Sys2Proof.Machine.execHostLinkTrain gen width cxl hostc s
  | .twinLinkTrain gen width => Sys2Proof.Machine.execTwinLinkTrain gen width s
  | .portLinkChange port up => Sys2Proof.Machine.execPortLinkChange port up s
  | .l2Fill line way => Sys2Proof.Machine.execL2Fill line way s
  | .partitionGo p => Sys2Proof.Machine.execPartitionGo p s
  | .partitionRst p => Sys2Proof.Machine.execPartitionRst p s
  | .firmwareSwitch p => Sys2Proof.Machine.execFirmwareSwitch p s
  | .firmwareSwitchComplete p => Sys2Proof.Machine.execFirmwareSwitchComplete p s
  | .flrPhysicalFunction p => Sys2Proof.Machine.execFlrPhysicalFunction p s
  | .flrVirtualFunction p vf => Sys2Proof.Machine.execFlrVirtualFunction p vf s
  | .patrolScrub line bad => Sys2Proof.Machine.execPatrolScrub line bad s
  | .channelFail ch => Sys2Proof.Machine.execChannelFail ch s
  | .registerError e => Sys2Proof.Machine.execRegisterError e s
  | .unitRetire units => Sys2Proof.Machine.execUnitRetire units s
  | .coreFence cores => Sys2Proof.Machine.execCoreFence cores s
  | .plimWrite v => Sys2Proof.Machine.execPlimWrite v s
  | .powerLimitThrottle watts temp => Sys2Proof.Machine.execPowerLimitThrottle watts temp s
  | .thermalTrip => Sys2Proof.Machine.execThermalTrip s
  | .powerOnReset => Sys2Proof.Machine.execPowerOnReset s
  | .housekeepingRead off => Sys2Proof.Machine.execHousekeepingRead off s
  | .housekeepingWrite off v => Sys2Proof.Machine.execHousekeepingWrite off v s
  | .keySlotRevoke ks => Sys2Proof.Machine.execKeySlotRevoke ks s
  | .minimumSvnRaise hearth svn => Sys2Proof.Machine.execMinimumSvnRaise hearth svn s
  | .getVersion via => Sys2Proof.Machine.execGetVersion via s
  | .getCapabilities via => Sys2Proof.Machine.execGetCapabilities via s
  | .negotiateAlgorithms via ver asym hash => Sys2Proof.Machine.execNegotiateAlgorithms via ver asym hash s
  | .getDigests via => Sys2Proof.Machine.execGetDigests via s
  | .getCertificate via slot off len => Sys2Proof.Machine.execGetCertificate via slot off len s
  | .challenge via slot nonce => Sys2Proof.Machine.execChallenge via slot nonce s
  | .getMeasurements via index sign nonce => Sys2Proof.Machine.execGetMeasurements via index sign nonce s
  | .registerWrite p vf off v => Sys2Proof.Machine.execRegisterWrite p vf off v s
  | .synceLockChange up => Sys2Proof.Machine.execSynceLockChange up s
  | .deviceReset => Sys2Proof.Machine.execDeviceReset s
  | .twinRefusedWrite p job => Sys2Proof.Machine.execTwinRefusedWrite p job s
  | .latePoison p job idx => Sys2Proof.Machine.execLatePoison p job idx s
  | .recoveryImageDelivery img => Sys2Proof.Machine.execRecoveryImageDelivery img s
  | .configurationRequest => Sys2Proof.Machine.execConfigurationRequest s
  | .cxlCacheSnoop pa inval => Sys2Proof.Machine.execCxlCacheSnoop pa inval s

end Sys2Proof.Machine
end

