-- ==== Sys2Proof/Machine/Step.lean ====
section
/-!
DEFINITION. One step of the device: the clocks move, then the agent whose turn it is moves: a due comparison tick, a
device step of the agenda, or a thread, which fetches and executes one instruction or takes the event that is due for it.
-/

namespace Sys2Proof.Machine

/-- The thread of the current hart fetches, decodes and executes one instruction (R155, R165); an instruction that reads
an unfilled destination waits (R41). -/
def State.runInstr (s : State) : Host.Outcome State Fault Refusal :=
  match s.fetch with
  | (.error c, t) => t.fetchFault c
  | (.ok w, t) =>
    match decodeWord w with
    | none => t.illegalWord w
    | some i => if t.unfilled i then t.block (w.toNat / 2 ^ 57) .fill none else exec i t

/-- The turn of the current hart: the event due at its boundary (R315, R321, R323), what its wait asks for, or its next
instruction. -/
def State.runHart (s : State) : Host.Outcome State Fault Refusal :=
  match s.duty with
  | .nothing => .next s
  | .event i => exec i s
  | .instr => s.runInstr

/-- One step of the device. -/
def step (s : State) : Host.Outcome State Fault Refusal :=
  let s := s.tick
  if s.tickDue then exec .comparisonTick s
  else match s.agenda with
    | [] => s.runHart
    | .run h :: r => ({ s with agenda := r, cur := h }).runHart
    | .event i :: r => if Instr.isStep i then exec i { s with agenda := r } else .fault .agendaNotAStep

/-! ### Placing a word where the next step fetches it -/

/-- The instruction of `nbits` bits and value `w` placed where the next step fetches it, with the job, the gang and the
page that running it takes (log entry 13). -/
def State.withFetchWord (s : State) (nbits w : Nat) : State :=
  s.placeWord (word (w % 2 ^ nbits))

end Sys2Proof.Machine
end

