-- ==== Sys2Proof/Safety.lean ====
section
/-!
DEFINITION. What counts as a safe run: no step ends in a fault or a refusal.
-/

namespace Sys2Proof.Machine

/-- A step from the state goes on. -/
def State.goesOn (s : State) : Prop := ∃ t, step s = .next t
/-- The first n steps from the state all go on. -/
def State.safeFor (s : State) : Nat → Prop
  | 0 => True
  | n + 1 => ∃ t, step s = .next t ∧ t.safeFor n

end Sys2Proof.Machine
end

