-- ==== Sys2Proof/Certificates/Slice0/Terms.lean ====
section
/-!
DEFINITION. The terms in which the statements of `Obligations.lean` are written: what a step leaves unchanged, results
in the words of the spec's tables, trap entry, and the conditions under which an instruction runs.
-/

set_option Elab.async false

namespace Sys2Proof.Machine

/-! ### What is left unchanged -/

/-- A hart without what every retirement at its level may change: the PC, `ei`, the wait and the debug marks. -/
def Hart.sans (sup : Bool) (h : Hart) : Hart :=
  if sup then { h with sup := { h.sup with pc := 0, wait := none } }
  else { h with pc := 0, ei := 0, wait := none, bpExempt := false, stepDue := false, stepArm := false }

/-- The step from `s` to `t` changes nothing but what the erasers hide: `eh` in the hart that runs, `eo` in the other
harts of its gang, `eg` in its gang, `es` in the rest of the device. Other gangs are untouched. -/
structure Frame (eh eo : Hart → Hart) (eg : Gang → Gang) (es : State → State) (s t : State) : Prop where
  me : eh (t.me.sans s.atS) = eh (s.me.sans s.atS)
  mates : ∀ r, r ≠ s.cur.rank → eo (t.myGang.harts[r]) = eo (s.myGang.harts[r])
  gang : eg { t.myGang with harts := Vector.replicate 4 Hart.init } = eg { s.myGang with harts := Vector.replicate 4 Hart.init }
  others : ∀ u, u ≠ s.cur.gang → t.gang? u = s.gang? u
  device : es { t with gangs := [] } = es { s with gangs := [] }

/-- Nothing is hidden. -/
def hideNone {α : Type} (x : α) : α := x
/-- A hart without the scalar registers of its level, the fills that a write supersedes, and the flags. -/
def Hart.sansG (sup : Bool) (h : Hart) : Hart :=
  if sup then { h with sup := { h.sup with g := Vector.replicate 32 0 } }
  else { h with g := Vector.replicate 32 0, fillG := [], fcsr := 0 }

/-- A write of one register; `_` discards. -/
def oneReg (d : GOp) (v : Word) : Fin 32 → Option Word := fun r => if d = some r then some v else none
/-- The instruction wrote the scalar registers that `val` names, raised the flags `fl` (at U), and retired with control
at `pc`; memory is then `mem`, and nothing else changed but what `eh` hides in the hart, `eo` in its mates, `eg` in its
gang and `es` in the device. -/
structure RegsStep (eh eo : Hart → Hart) (eg : Gang → Gang) (es : State → State) (s t : State)
    (val : Fin 32 → Option Word) (fl : Flags) (pc : Word) (mem : Loc → Byte) : Prop where
  dest : ∀ r, t.rg (some r) = (val r).getD (s.rg (some r))
  pc : t.pcv = pc
  ei : s.atS = false → t.me.ei = 0
  flags : t.me.fcsr = if s.atS then s.me.fcsr else s.me.fcsr ||| fl
  level : t.atS = s.atS
  frame : Frame (fun h => eh (h.sansG s.atS)) eo eg es s t
  memory : ∀ l, t.byteAt l = mem l
/-- One register written, nothing hidden, and every byte of memory as before. -/
def RegStep (s t : State) (d : GOp) (v : Word) (fl : Flags) (pc : Word) : Prop :=
  RegsStep hideNone hideNone hideNone hideNone s t (oneReg d v) fl pc s.byteAt
/-- The instruction retired; memory is then `mem`, and nothing else changed but what the erasers hide. -/
structure StepBut (eh eo : Hart → Hart) (eg : Gang → Gang) (es : State → State) (s t : State) (mem : Loc → Byte) : Prop where
  pc : t.pcv = s.pcv + 8
  ei : s.atS = false → t.me.ei = 0
  level : t.atS = s.atS
  frame : Frame eh eo eg es s t
  memory : ∀ l, t.byteAt l = mem l

/-! ### Scalar results -/

/-- The order of Table 7-6 on two words. -/
def condIs (c : Cond) (a b : Word) : Bool :=
  match c with
  | .eq => decide (a = b) | .ne => decide (a ≠ b)
  | .lt => decide (a.toInt < b.toInt) | .ge => decide (b.toInt ≤ a.toInt)
  | .ltu => decide (a.toNat < b.toNat) | .geu => decide (b.toNat ≤ a.toNat)

/-- The smaller (or larger) word, signed or unsigned. -/
def pickWord (larger unsigned : Bool) (a b : Word) : Word :=
  let le : Bool := if unsigned then decide (a.toNat ≤ b.toNat) else decide (a.toInt ≤ b.toInt)
  if le != larger then a else b

/-- DIV of R175. -/
def quotientOf (unsigned : Bool) (a b : Word) : Word :=
  if b = 0 then 0xFFFFFFFFFFFFFFFF else if unsigned then a / b else a.sdiv b
/-- REM of R175. -/
def remainderOf (unsigned : Bool) (a b : Word) : Word :=
  if b = 0 then a else if unsigned then a % b else a.srem b

/-- Destination and value of the integer instructions of opcodes 0x01 to 0x04, and `NOP`, which writes nothing (Table 8-1,
R174 to R177, R186). -/
inductive IntegerOp (s : State) : Instr → GOp → Word → Prop where
  | add d a b : IntegerOp s (.add d a b) d (s.rg a + s.rg b)
  | sub d a b : IntegerOp s (.sub d a b) d (s.rg a - s.rg b)
  | mul d a b : IntegerOp s (.mul d a b) d (s.rg a * s.rg b)
  | mulhi u d a b : IntegerOp s (.mulhi u d a b) d ((if u then (s.rg a).setWidth 128 * (s.rg b).setWidth 128 else (s.rg a).signExtend 128 * (s.rg b).signExtend 128).extractLsb' 64 64)
  | div u d a b : IntegerOp s (.div u d a b) d (quotientOf u (s.rg a) (s.rg b))
  | rem u d a b : IntegerOp s (.rem u d a b) d (remainderOf u (s.rg a) (s.rg b))
  | and d a b : IntegerOp s (.and d a b) d (s.rg a &&& s.rg b)
  | or d a b : IntegerOp s (.or d a b) d (s.rg a ||| s.rg b)
  | xor d a b : IntegerOp s (.xor d a b) d (s.rg a ^^^ s.rg b)
  | andn d a b : IntegerOp s (.andn d a b) d (s.rg a &&& ~~~ s.rg b)
  | shl d a b : IntegerOp s (.shl d a b) d (s.rg a <<< (s.rg b &&& 63))
  | shr d a b : IntegerOp s (.shr d a b) d (s.rg a >>> (s.rg b &&& 63))
  | sar d a b : IntegerOp s (.sar d a b) d ((s.rg a).sshiftRight' (s.rg b &&& 63))
  | min u d a b : IntegerOp s (.min u d a b) d (pickWord false u (s.rg a) (s.rg b))
  | max u d a b : IntegerOp s (.max u d a b) d (pickWord true u (s.rg a) (s.rg b))
  | clz d a : IntegerOp s (.clz d a) d (word ((List.range 64).takeWhile fun k => !(s.rg a).getLsbD (63 - k)).length)
  | popc d a : IntegerOp s (.popc d a) d (word ((List.range 64).filter fun k => (s.rg a).getLsbD k).length)
  | sel d a b c : IntegerOp s (.sel d a b c) d (if s.rg c = 0 then s.rg b else s.rg a)
  | setcc cc d a b : IntegerOp s (.setcc cc d a b) d (if condIs cc (s.rg a) (s.rg b) then 1 else 0)
  | aluiAdd d a i : IntegerOp s (.aluiAdd d a i) d (s.rg a + i.signExtend 64)
  | aluiAnd d a i : IntegerOp s (.aluiAnd d a i) d (s.rg a &&& i.signExtend 64)
  | aluiOr d a i : IntegerOp s (.aluiOr d a i) d (s.rg a ||| i.signExtend 64)
  | aluiXor d a i : IntegerOp s (.aluiXor d a i) d (s.rg a ^^^ i.signExtend 64)
  | aluiShl d a i (h : i.toNat ≤ 63) : IntegerOp s (.aluiShl d a i) d (s.rg a <<< i.toNat)
  | aluiShr d a i (h : i.toNat ≤ 63) : IntegerOp s (.aluiShr d a i) d (s.rg a >>> i.toNat)
  | aluiSar d a i (h : i.toNat ≤ 63) : IntegerOp s (.aluiSar d a i) d ((s.rg a).sshiftRight i.toNat)
  | aluiMin d a i : IntegerOp s (.aluiMin d a i) d (pickWord false false (s.rg a) (i.signExtend 64))
  | aluiMax d a i : IntegerOp s (.aluiMax d a i) d (pickWord true false (s.rg a) (i.signExtend 64))
  | li d i : IntegerOp s (.li d i) d (i.signExtend 64)
  | lih d i : IntegerOp s (.lih d i) d ((s.rg d &&& (0xFFFFFFFFF : Word)) ||| (i.setWidth 64 <<< 36))
  | nop : IntegerOp s (.nop) none (0)

/-- Destination, value and flags of the scalar floating-point instructions (R178, Tables 8-4, 8-5). -/
inductive FloatOp (s : State) : Instr → GOp → Nat × Flags → Prop where
  | fadd f rm d a b : FloatOp s (.fadd f rm d a b) d
      ((fpsFmt f).sum (s.rmode rm) [tm (s.fpr f a), tm (s.fpr f b)])
  | fsub f rm d a b : FloatOp s (.fsub f rm d a b) d
      ((fpsFmt f).sum (s.rmode rm) [tm (s.fpr f a), (tm (s.fpr f b)).flip])
  | fmul f rm d a b : FloatOp s (.fmul f rm d a b) d ((fpsFmt f).sum (s.rmode rm) [tm2 (s.fpr f a) (s.fpr f b)])
  | fma f rm d a b c : FloatOp s (.fma f rm d a b c) d
      ((fpsFmt f).sum (s.rmode rm) [tm2 (s.fpr f a) (s.fpr f b), tm (s.fpr f c)])
  | toFloat f rm d a : FloatOp s (.fcvt .ff f rm d a) d ((fpsFmt (!f)).deliver (s.rmode rm) false (s.fpr f a).exact)
  | toI64 f rm d a : FloatOp s (.fcvt .toI f rm d a) d
      (((floatToInt (s.rmode rm) true 64 (s.fpr f a)).1 % 2 ^ 64).toNat, (floatToInt (s.rmode rm) true 64 (s.fpr f a)).2)
  | toN64 f rm d a : FloatOp s (.fcvt .toN f rm d a) d
      (((floatToInt (s.rmode rm) false 64 (s.fpr f a)).1 % 2 ^ 64).toNat, (floatToInt (s.rmode rm) false 64 (s.fpr f a)).2)
  | ofI64 f rm d a : FloatOp s (.fcvt .fromI f rm d a) d ((fpsFmt f).deliver (s.rmode rm) false (exactInt (s.rg a).toInt))
  | ofN64 f rm d a : FloatOp s (.fcvt .fromN f rm d a) d ((fpsFmt f).deliver (s.rmode rm) false (exactInt (s.rg a).toNat))
  | fcmp cc f d a b : FloatOp s (.fcmp cc f d a b) d
      (if (FCond.float cc (s.fpr f a) (s.fpr f b)).1 then 1 else 0, (FCond.float cc (s.fpr f a) (s.fpr f b)).2)

/-- PC + 8 × OFF39, with OFF39 sign-extended (R184). -/
def State.jumpTarget (s : State) (off : BitVec 39) : Word := BitVec.ofInt 64 (s.pcv.toNat + 8 * off.toInt)
/-- The mask conditions of R185 on the bits below `vl`. -/
def maskIs (c : MCond) (m : MaskReg) (vl : Nat) : Bool :=
  match c with
  | .any => (List.range vl).any fun e => m.getLsbD e
  | .noneSet => (List.range vl).all fun e => !m.getLsbD e
  | .all => (List.range vl).all fun e => m.getLsbD e
  | .nall => (List.range vl).any fun e => !m.getLsbD e
/-- Register written, value, and where control goes, of the transfer instructions (Table 8-7, R184, R185). -/
inductive JumpOp (s : State) : Instr → GOp → Word → Word → Prop where
  | br cc a b off : JumpOp s (.br cc a b off) none 0
      (if condIs cc (s.rg a) (s.rg b) then s.jumpTarget off else s.pcv + 8)
  | jal a off : JumpOp s (.jal a off) a (s.pcv + 8) (s.jumpTarget off)
  | jalr d a imm (h : (s.rg a + imm.signExtend 64).toNat % 8 = 0) : JumpOp s (.jalr d a imm) d (s.pcv + 8)
      (s.rg a + imm.signExtend 64)
  | loop a off : JumpOp s (.loop a off) a (s.rg a - 1) (if s.rg a = 1 then s.pcv + 8 else s.jumpTarget off)
  | bm cc a off (h : s.atS = false ∨ a = none) (hv : s.me.vl ≤ 128) : JumpOp s (.bm cc a off) none 0
      (if maskIs cc (s.mreg a) s.me.vl then s.jumpTarget off else s.pcv + 8)

/-! ### Control and status registers -/

/-- What a writable CSR holds after `w` is written over `old` at the running level: reserved and HW bits keep their
values; none where R66, R67 or R318 refuses the write (R64, R313, Tables 3-6, 15-3, 15-5). -/
def State.csrStored (s : State) (n : Nat) (old w : Word) : Option Word :=
  match n with
  | 0x000 => if w.toNat ≤ 128 then some w else none
  | 0x001 => some (if s.atS then w &&& 0x7F else 0)
  | 0x002 => if w &&& 7 = 0 ∨ w &&& 7 = 6 ∨ w &&& 7 = 7 then none else some (w &&& 0xFF)
  | 0x100 => some ((old &&& ~~~ (0xF06 : Word)) ||| (w &&& 0xF06))
  | 0x101 => some (w &&& ~~~ (7 : Word))
  | 0x102 => some (w &&& 0xFF)
  | 0x103 => some (w &&& ~~~ (7 : Word))
  | 0x104 => some (w &&& 0x7F)
  | 0x105 => some w
  | 0x106 => some (w &&& 0xFE03FFFF)
  | 0x107 => some w
  | 0x108 => some (w &&& 0x80FFFFFFFFFFFFF8)
  | n => if 0xC0 ≤ n ∧ n < 0x100 then some w else none
/-- The CSR instructions that write: number, destination of the old value, and the word written (R187). -/
inductive CsrUpdateOp (s : State) (old : Word) : Instr → Nat → GOp → Word → Prop where
  | csrw a num : CsrUpdateOp s old (.csrw a num) num.toNat none (s.rg a)
  | csrset d a num : CsrUpdateOp s old (.csrset d a num) num.toNat d (old ||| s.rg a)
  | csrclr d a num : CsrUpdateOp s old (.csrclr d a num) num.toNat d (old &&& ~~~ s.rg a)
/-- A hart without what a CSR write may change. -/
def Hart.sansCsr (h : Hart) : Hart :=
  { h with vl := 0, m := Vector.replicate 16 0, g := Vector.replicate 32 0, fcsr := 0, ei := 0, fillG := [],
           sup := { Sup.init 0 h.sup.sver with
             tk := h.sup.tk, st := h.sup.st, inh := h.sup.inh, ran := h.sup.ran, locks := h.sup.locks,
             call := h.sup.call } }

/-! ### Traps -/

/-- A hart without what entering the supervisor thread changes. -/
def Hart.sansEntry (h : Hart) : Hart :=
  { h with st := .running, pc := 0, ei := 0, wait := none, cache := [], stores := [], stepArm := false, stepDue := false,
           sup := { Sup.init h.sup.svec h.sup.sver with
             g := h.sup.g, tk := h.sup.tk, lhl := h.sup.lhl, sstep := h.sup.sstep, utk := h.sup.utk,
             sscratch := h.sup.sscratch, bpe := h.sup.bpe, bpa := h.sup.bpa, locks := h.sup.locks, call := h.sup.call } }
/-- The hart entered its supervisor thread (R189, R316): the thread runs from `svec` with its CSRs set, and, where the
hart had no store on its way, nothing else changed but what `es` hides. -/
structure TrapEntryBut (es : State → State) (s t : State) (op cause detail src : Nat) (epc : Word) (ei : Nat)
    (addr : Word) : Prop where
  trapped : t.me.st = .trapped ∧ t.me.sup.st = .running ∧ t.atS = true
  pc : t.me.sup.pc = s.me.sup.svec &&& ~~~ (7 : Word)
  scause : t.me.sup.scause.toNat = cause
  sepc : t.me.sup.sepc = epc
  sei : t.me.sup.sei.toNat = ei
  seaddr : t.me.sup.seaddr = addr
  sinfo : t.me.sup.infoOp.toNat = op ∧ t.me.sup.infoSrc.toNat = src ∧ t.me.sup.infoDetail.toNat = detail
  inh : t.me.sup.inh = true
  userPc : t.me.pc = s.me.pc
  rest : s.me.stores = [] → (∀ l, t.byteAt l = s.byteAt l) ∧ Frame Hart.sansEntry hideNone hideNone es s t
/-- The hart entered its supervisor thread, and nothing is hidden. -/
def TrapEntry (s t : State) (op cause detail src : Nat) (epc : Word) (ei : Nat) (addr : Word) : Prop :=
  TrapEntryBut hideNone s t op cause detail src epc ei addr

/-- The instructions of the trap statements: the OP, cause, DETAIL, `sepc` and `seaddr` of what a user hart raises
(R184, R189, R190, R307, Table 15-4). -/
inductive UserTrapOp (s : State) : Instr → Nat → Nat → Nat → Word → Prop where
  | svc n : UserTrapOp s (.svc n) 0x19 0 n.toNat (s.me.pc + 8)
  | trapi n : UserTrapOp s (.trapi n) 0x1A 0x14 n.toNat s.me.pc
  | jalr d a imm (h : (s.rg a + imm.signExtend 64).toNat % 8 ≠ 0) : UserTrapOp s (.jalr d a imm) 0x12 0x06 0 s.me.pc
  | eret : UserTrapOp s .eret 0x1B 0x02 0 s.me.pc
  | tlbinv k a b : UserTrapOp s (.tlbinv k a b) 0x1F 0x02 0 s.me.pc
  | vsave k a v : UserTrapOp s (.vsave k a v) 0x21 0x02 0 s.me.pc
  | vrest k v a : UserTrapOp s (.vrest k v a) 0x22 0x02 0 s.me.pc
  | csrr d n (h : 0x100 ≤ n.toNat ∧ n.toNat < 0x200) : UserTrapOp s (.csrr d n) 0x18 0x02 0 s.me.pc
  | csrw a n (h : 0x100 ≤ n.toNat ∧ n.toNat < 0x200) : UserTrapOp s (.csrw a n) 0x18 0x02 0 s.me.pc
  | csrset d a n (h : 0x100 ≤ n.toNat ∧ n.toNat < 0x200) : UserTrapOp s (.csrset d a n) 0x18 0x02 0 s.me.pc
  | csrclr d a n (h : 0x100 ≤ n.toNat ∧ n.toNat < 0x200) : UserTrapOp s (.csrclr d a n) 0x18 0x02 0 s.me.pc

/-- The running hart was killed with a cause (R32): it is Voided, its supervisor thread is Idle, its tokens are
released, and its job has a failure cause, this one unless it had one before. -/
structure Killed (s t : State) (c : Nat) : Prop where
  voided : t.me.st = .voided
  idle : t.me.sup.st = .idle
  tokens : ∀ k : Fin 8, t.me.tk[k] = Token.empty ∧ t.me.sup.tk[k] = Token.empty
  cause : ∀ j, s.job? s.myGang.p s.myGang.job = some j →
    ∃ j', t.job? s.myGang.p s.myGang.job = some j' ∧ j'.cause = some (j.cause.getD (BitVec.ofNat 8 c))

/-- The instructions that raise TICKET in the supervisor thread, which has no ticket (R248, R291, Table 15-2). -/
inductive SupTicketOp : Instr → Prop where
  | tseal : SupTicketOp .tseal
  | twait k a b : SupTicketOp (.twait k a b)
  | jspawn d v : SupTicketOp (.jspawn d v)
  | st q d a (hs : q.sp = false) (ht : q.t ≠ .no) : SupTicketOp (.st q d a)
  | amo op x d a b (ht : x.t ≠ .no) : SupTicketOp (.amo op x d a b)
  | cas x d a b c (ht : x.t ≠ .no) : SupTicketOp (.cas x d a b c)
/-- The instructions of Table 7-7 that the supervisor thread may not execute (Table 15-2), and one that names a mask
register there (R310). -/
inductive SupIllegalOp : Instr → Prop where
  | bm cc m off : SupIllegalOp (.bm cc (some m) off)
  | wfe a : SupIllegalOp (.wfe a)
  | jend : SupIllegalOp .jend
  | vsetl d a : SupIllegalOp (.vsetl d a)
  | vtag d t : SupIllegalOp (.vtag d t)
  | vretag d t : SupIllegalOp (.vretag d t)
  | vgettag d a : SupIllegalOp (.vgettag d a)
  | vmov d a : SupIllegalOp (.vmov d a)
  | vadd q d a b : SupIllegalOp (.vadd q d a b)
  | vsub q d a b : SupIllegalOp (.vsub q d a b)
  | vmul q d a b : SupIllegalOp (.vmul q d a b)
  | vmulh q d a b : SupIllegalOp (.vmulh q d a b)
  | vfma q d a b c : SupIllegalOp (.vfma q d a b c)
  | vfms q d a b c : SupIllegalOp (.vfms q d a b c)
  | vfnma q d a b c : SupIllegalOp (.vfnma q d a b c)
  | vmin q d a b : SupIllegalOp (.vmin q d a b)
  | vmax q d a b : SupIllegalOp (.vmax q d a b)
  | vabs q d a : SupIllegalOp (.vabs q d a)
  | vneg q d a : SupIllegalOp (.vneg q d a)
  | vand q d a b : SupIllegalOp (.vand q d a b)
  | vor q d a b : SupIllegalOp (.vor q d a b)
  | vxor q d a b : SupIllegalOp (.vxor q d a b)
  | vshl q d a b : SupIllegalOp (.vshl q d a b)
  | vshr q d a b : SupIllegalOp (.vshr q d a b)
  | vsar q d a b : SupIllegalOp (.vsar q d a b)
  | vclz q d a : SupIllegalOp (.vclz q d a)
  | vpopc q d a : SupIllegalOp (.vpopc q d a)
  | vsel q d a b c : SupIllegalOp (.vsel q d a b c)
  | vaddc q d a b c : SupIllegalOp (.vaddc q d a b c)
  | vsubb q d a b c : SupIllegalOp (.vsubb q d a b c)
  | vcmp q cc d a b : SupIllegalOp (.vcmp q cc d a b)
  | vcvt q t part d a : SupIllegalOp (.vcvt q t part d a)
  | vrcp q d a : SupIllegalOp (.vrcp q d a)
  | vrsqrt q d a : SupIllegalOp (.vrsqrt q d a)
  | vsqrt q d a : SupIllegalOp (.vsqrt q d a)
  | vdiv q d a b : SupIllegalOp (.vdiv q d a b)
  | vexp2 q d a : SupIllegalOp (.vexp2 q d a)
  | vlog2 q d a : SupIllegalOp (.vlog2 q d a)
  | vcmul q d a b : SupIllegalOp (.vcmul q d a b)
  | vcmac q d a b c : SupIllegalOp (.vcmac q d a b c)
  | vconj q d a : SupIllegalOp (.vconj q d a)
  | vcabs2 q d a : SupIllegalOp (.vcabs2 q d a)
  | vcrot q k d a : SupIllegalOp (.vcrot q k d a)
  | vbfly q h d a b : SupIllegalOp (.vbfly q h d a b)
  | vgjstep q n p d a : SupIllegalOp (.vgjstep q n p d a)
  | vbfpexp q w d a : SupIllegalOp (.vbfpexp q w d a)
  | vbfpcmp q w d a : SupIllegalOp (.vbfpcmp q w d a)
  | vslideup q d a b : SupIllegalOp (.vslideup q d a b)
  | vslidedn q d a b : SupIllegalOp (.vslidedn q d a b)
  | vperm q d a b : SupIllegalOp (.vperm q d a b)
  | vbcast q d a b : SupIllegalOp (.vbcast q d a b)
  | vcompress q d a c : SupIllegalOp (.vcompress q d a c)
  | vexpand q d a c : SupIllegalOp (.vexpand q d a c)
  | viota q d c : SupIllegalOp (.viota q d c)
  | vzip q d a b : SupIllegalOp (.vzip q d a b)
  | vunzip q d a b : SupIllegalOp (.vunzip q d a b)
  | vredsum q d a : SupIllegalOp (.vredsum q d a)
  | vredmax q d a : SupIllegalOp (.vredmax q d a)
  | vredmin q d a : SupIllegalOp (.vredmin q d a)
  | vscan q d a : SupIllegalOp (.vscan q d a)
  | mand d a b : SupIllegalOp (.mand d a b)
  | mor d a b : SupIllegalOp (.mor d a b)
  | mxor d a b : SupIllegalOp (.mxor d a b)
  | mandn d a b : SupIllegalOp (.mandn d a b)
  | mshl d a b : SupIllegalOp (.mshl d a b)
  | mpopc d a : SupIllegalOp (.mpopc d a)
  | mfirst d a : SupIllegalOp (.mfirst d a)
  | mset h d a : SupIllegalOp (.mset h d a)
  | mget h d a : SupIllegalOp (.mget h d a)
  | vld x d a b : SupIllegalOp (.vld x d a b)
  | vst x d a b : SupIllegalOp (.vst x d a b)
  | vldx x d a b : SupIllegalOp (.vldx x d a b)
  | vstx x d a b : SupIllegalOp (.vstx x d a b)
  | vlds x d a b : SupIllegalOp (.vlds x d a b)
  | vsts x d a b : SupIllegalOp (.vsts x d a b)
  | vldsx x d a b : SupIllegalOp (.vldsx x d a b)
  | vstsx x d a b : SupIllegalOp (.vstsx x d a b)
  | vlds2 x d a b c : SupIllegalOp (.vlds2 x d a b c)
  | vsts2 x d a b c : SupIllegalOp (.vsts2 x d a b c)
  | sbind d a : SupIllegalOp (.sbind d a)
  | sunbind d : SupIllegalOp (.sunbind d)
  | sstat d a : SupIllegalOp (.sstat d a)
  | vamo op x d a b c : SupIllegalOp (.vamo op x d a b c)
  | vsta op x a b c : SupIllegalOp (.vsta op x a b c)
  | vwaitc cc x d a b c : SupIllegalOp (.vwaitc cc x d a b c)
  | macq d n : SupIllegalOp (.macq d n)
  | mrel n : SupIllegalOp (.mrel n)
  | mzero n : SupIllegalOp (.mzero n)
  | mopa q cj n a b : SupIllegalOp (.mopa q cj n a b)
  | mrd col d n a : SupIllegalOp (.mrd col d n a)
  | mwr q col n a b : SupIllegalOp (.mwr q col n a b)
  | mst x sp n a b : SupIllegalOp (.mst x sp n a b)
  | mldt x sp n a b : SupIllegalOp (.mldt x sp n a b)
  | mscale q n a b : SupIllegalOp (.mscale q n a b)
  | pgopen d a : SupIllegalOp (.pgopen d a)
  | pgsub q d a b c : SupIllegalOp (.pgsub q d a b c)
  | pgclose a : SupIllegalOp (.pgclose a)
  | pgmerge q a b c : SupIllegalOp (.pgmerge q a b c)
  | pgstat d a which : SupIllegalOp (.pgstat d a which)
  | tcopy a : SupIllegalOp (.tcopy a)
  | ringcfg r a : SupIllegalOp (.ringcfg r a)
  | rcommit r a : SupIllegalOp (.rcommit r a)
  | rwait r : SupIllegalOp (.rwait r)
  | rrelease r : SupIllegalOp (.rrelease r)
  | csubmit cls a : SupIllegalOp (.csubmit cls a)
  | fhtx a : SupIllegalOp (.fhtx a)

/-! ### Vector results -/

/-- A hart without the vector state that an arithmetic instruction may write: registers, masks, flags. -/
def Hart.sansV (h : Hart) : Hart :=
  { h with v := Vector.replicate 60 VReg.empty, m := Vector.replicate 16 0, fcsr := 0, fillV := [] }

/-- What a vector instruction produces: destination and last-result register, the tag of the result, the elements that
it sets (the others keep their bits), flags, and a mask. -/
structure VRow where
  d : VdOp
  last : Option (Fin 60)
  tag : Tag
  put : Nat → Option Word
  fl : Flags
  mask : Option (Fin 16 × MaskReg)

/-- Register k receives the result: it is D, or the last-result register of the pipe (R56). -/
def VRow.hits (r : VRow) (k : Fin 60) : Prop := (∃ d, r.d = some d ∧ k = vdReg d) ∨ r.last = some k
/-- The register whose bits stand where the instruction sets none: D, or the last-result register when D is `_` (R52). -/
def VRow.base (r : VRow) : Fin 60 := (r.d.map vdReg).getD (r.last.getD 0)

/-- The vector instruction wrote its row and retired; memory is then `mem`, and nothing else changed but what `eh` hides
in the hart, `eg` in its gang and `es` in the device. -/
structure VecStepBut (eh : Hart → Hart) (eg : Gang → Gang) (es : State → State) (s t : State) (r : VRow) (mem : Loc → Byte) :
    Prop where
  elems : ∀ k, r.hits k → ∀ e : Fin 128, t.me.v[k].el[e] = (r.put e.val).getD (s.me.v[r.base].el[e])
  tags : ∀ k, r.hits k → t.me.v[k].tag = r.tag
  kept : ∀ k, ¬ r.hits k → t.me.v[k] = s.me.v[k]
  masks : ∀ m, t.me.m[m] = match r.mask with | some (k, w) => if m = k then w else s.me.m[m] | none => s.me.m[m]
  flags : t.me.fcsr = s.me.fcsr ||| r.fl
  pc : t.me.pc = s.me.pc + 8
  ei : t.me.ei = 0
  memory : ∀ l, t.byteAt l = mem l
  level : t.atS = s.atS
  frame : Frame (fun h => eh h.sansV) hideNone eg es s t
/-- The same with nothing hidden, and every byte of memory as before. -/
def VecStep (s t : State) (r : VRow) : Prop := VecStepBut hideNone hideNone hideNone s t r s.byteAt

/-- A user hart runs, `vl` is not 0, and no operand is bound to a stream. -/
def VecRuns (s : State) (srcs : List VsOp) (d : VdOp) : Prop :=
  s.atS = false ∧ s.me.vl ≠ 0 ∧ (∀ r, VsOp.vec r ∈ srcs → s.me.bound r.val = none) ∧
    (∀ r, d = some r → s.me.bound r.val = none)
/-- Every vector source carries the tag t, which is not `none`, and there is one. -/
def Tagged (s : State) (srcs : List VsOp) (t : Tag) : Prop :=
  t ≠ .none ∧ (∃ r, VsOp.vec r ∈ srcs) ∧ ∀ r, VsOp.vec r ∈ srcs → s.me.v[r].tag = t

/-- Element e is below `vl` and not masked off. -/
def State.on (s : State) (q : VMod) (e : Nat) : Bool := decide (e < s.me.vl) && (!q.ke || s.me.m[q.k].getLsbD e)
/-- Elements under R52: active ones get the result, masked-off ones 0 with KZ, and every other keeps its bits. -/
def State.under (s : State) (q : VMod) (f : Nat → Word) (e : Nat) : Option Word :=
  if s.on q e then some (f e) else if q.kz ∧ e < s.me.vl then some 0 else none
/-- The flags of the active elements, ORed. -/
def State.flagsOn (s : State) (q : VMod) (f : Nat → Flags) : Flags :=
  ((List.range s.me.vl).filter (s.on q)).foldl (fun a e => a ||| f e) 0

/-- The value of an integer lane of a tag. -/
def laneValue (t : Tag) (n : Nat) : Int :=
  if (isIS t || isCI t) ∧ 2 ^ (tagWidth t - 1) ≤ n then (n : Int) - 2 ^ tagWidth t else n
/-- An exact integer as a lane: modulo 2^w, or clamped to the range of the tag (R74). -/
def laneResult (t : Tag) (sat : Bool) (v : Int) : Nat :=
  let w := tagWidth t
  let lo : Int := if isIS t || isCI t then -2 ^ (w - 1) else 0
  let hi : Int := if isIS t || isCI t then 2 ^ (w - 1) - 1 else 2 ^ w - 1
  ((if sat then max lo (min hi v) else v) % 2 ^ w).toNat
/-- An arithmetic lane: exact on integers, formed exactly and rounded once on floats (R74, R78). -/
def arithLane (q : VMod) (rm : Rm) (t : Tag) (fi : Int → Int → Int → Int) (ff : FVal → FVal → FVal → List Term)
    (a b c : Nat) : Nat × Flags :=
  match tagKind t with
  | .flt f | .cflt f => f.sum rm (ff (f.read a) (f.read b) (f.read c))
  | _ => (laneResult t q.sat (fi (laneValue t a) (laneValue t b) (laneValue t c)), 0)
/-- A function of the lanes of up to three sources. -/
def onLanes (f : Tag → Nat → Nat → Nat → Nat × Flags) (t : Tag) (x : Nat → Word) : Word × Flags :=
  let w := tagWidth t
  byLane w fun l => f t (lane w (x 0) l) (lane w (x 1) l) (lane w (x 2) l)
/-- A function of the float lanes of one source. -/
def onFloats (f : Fmt → Nat → Nat × Flags) : Tag → (Nat → Word) → Word × Flags :=
  onLanes fun t a _ _ => match tagKind t with | .flt h => f h a | _ => (0, 0)

/-- The element-wise instructions (Tables 9-2, 9-5, 9-6): control fields, destination, sources, the tags that the
instruction accepts with its SAT bit, and the result of an element from its number and the elements of its sources. -/
inductive ElementOp (s : State) :
    Instr → VMod → VdOp → List VsOp → (Tag → Bool) → (Tag → Nat → (Nat → Word) → Word × Flags) → Prop where
  | vadd q d a b : ElementOp s (.vadd q d a b) q d [a, b]
      (fun t => (isI t || isF t || isComplex t) && (!q.sat || isI t || isCI t))
      fun t _ => onLanes (fun t => arithLane q (s.rmode q.rm) t (fun x y _ => x + y) fun x y _ => [tm x, tm y]) t
  | vsub q d a b : ElementOp s (.vsub q d a b) q d [a, b]
      (fun t => (isI t || isF t || isComplex t) && (!q.sat || isI t || isCI t))
      fun t _ => onLanes (fun t => arithLane q (s.rmode q.rm) t (fun x y _ => x - y) fun x y _ => [tm x, (tm y).flip]) t
  | vmul q d a b : ElementOp s (.vmul q d a b) q d [a, b] (fun t => (isI t || isF t) && (!q.sat || isI t))
      fun t _ => onLanes (fun t => arithLane q (s.rmode q.rm) t (fun x y _ => x * y) fun x y _ => [tm2 x y]) t
  | vmulh q d a b : ElementOp s (.vmulh q d a b) q d [a, b] (fun t => isI t && !q.sat)
      fun t _ => onLanes (fun t x y _ => (laneResult t false (laneValue t x * laneValue t y / 2 ^ tagWidth t), 0)) t
  | vfma q d a b c : ElementOp s (.vfma q d a b c) q d [a, b, c] (fun t => (isI t || isF t) && (!q.sat || isI t))
      fun t _ => onLanes (fun t => arithLane q (s.rmode q.rm) t (fun x y z => x * y + z) fun x y z => [tm2 x y, tm z]) t
  | vfms q d a b c : ElementOp s (.vfms q d a b c) q d [a, b, c] (fun t => (isI t || isF t) && (!q.sat || isI t))
      fun t _ => onLanes
        (fun t => arithLane q (s.rmode q.rm) t (fun x y z => x * y - z) fun x y z => [tm2 x y, (tm z).flip]) t
  | vfnma q d a b c : ElementOp s (.vfnma q d a b c) q d [a, b, c] (fun t => (isI t || isF t) && (!q.sat || isI t))
      fun t _ => onLanes
        (fun t => arithLane q (s.rmode q.rm) t (fun x y z => z - x * y) fun x y z => [tm z, (tm2 x y).flip]) t
  | vmin q d a b : ElementOp s (.vmin q d a b) q d [a, b] (fun t => (isI t || isF t || isF8 t) && !q.sat)
      fun t _ => onLanes (fun t x y _ => minMaxLane false t x y) t
  | vmax q d a b : ElementOp s (.vmax q d a b) q d [a, b] (fun t => (isI t || isF t || isF8 t) && !q.sat)
      fun t _ => onLanes (fun t x y _ => minMaxLane true t x y) t
  | vabs q d a : ElementOp s (.vabs q d a) q d [a] (fun t => (isIS t || isF t || isF8 t) && (!q.sat || isIS t))
      fun t _ => onLanes (fun t x _ _ => signLane true q.sat t x) t
  | vneg q d a : ElementOp s (.vneg q d a) q d [a]
      (fun t => (isIS t || isF t || isF8 t || isComplex t) && (!q.sat || isIS t || isCI t))
      fun t _ => onLanes (fun t x _ _ => signLane false q.sat t x) t
  | vand q d a b : ElementOp s (.vand q d a b) q d [a, b] (fun _ => !q.sat) fun _ _ x => (x 0 &&& x 1, 0)
  | vor q d a b : ElementOp s (.vor q d a b) q d [a, b] (fun _ => !q.sat) fun _ _ x => (x 0 ||| x 1, 0)
  | vxor q d a b : ElementOp s (.vxor q d a b) q d [a, b] (fun _ => !q.sat) fun _ _ x => (x 0 ^^^ x 1, 0)
  | vshl q d a b : ElementOp s (.vshl q d a b) q d [a, b] (fun t => isI t && !q.sat)
      fun t _ => onLanes (fun t x y _ => (x <<< (y % tagWidth t) % 2 ^ tagWidth t, 0)) t
  | vshr q d a b : ElementOp s (.vshr q d a b) q d [a, b] (fun t => isI t && !q.sat)
      fun t _ => onLanes (fun t x y _ => (x >>> (y % tagWidth t), 0)) t
  | vsar q d a b : ElementOp s (.vsar q d a b) q d [a, b] (fun t => isI t && !q.sat)
      fun t _ => onLanes (fun t x y _ => (wrap64 (signed (tagWidth t) x / 2 ^ (y % tagWidth t)) % 2 ^ tagWidth t, 0)) t
  | vclz q d a : ElementOp s (.vclz q d a) q d [a] (fun t => isI t && !q.sat)
      fun t _ => onLanes (fun t x _ _ => (leadingZeros (tagWidth t) x, 0)) t
  | vpopc q d a : ElementOp s (.vpopc q d a) q d [a] (fun t => isI t && !q.sat)
      fun t _ => onLanes (fun t x _ _ => (popCount (tagWidth t) x, 0)) t
  | vsel q d a b c : ElementOp s (.vsel q d a b c) q d [a, b] (fun _ => !q.sat)
      fun _ e x => (if (s.mreg c).getLsbD e then x 0 else x 1, 0)
  | vrcp q d a : ElementOp s (.vrcp q d a) q d [a] (fun t => clsApprox t && !q.sat) fun t _ => onFloats Fmt.rcp t
  | vrsqrt q d a : ElementOp s (.vrsqrt q d a) q d [a] (fun t => clsApprox t && !q.sat) fun t _ => onFloats Fmt.rsqrt t
  | vexp2 q d a : ElementOp s (.vexp2 q d a) q d [a] (fun t => clsApprox t && !q.sat) fun t _ => onFloats Fmt.exp2 t
  | vlog2 q d a : ElementOp s (.vlog2 q d a) q d [a] (fun t => clsApprox t && !q.sat) fun t _ => onFloats Fmt.log2 t
  | vsqrt q d a : ElementOp s (.vsqrt q d a) q d [a] (fun t => isF t && !q.sat)
      fun t _ => onFloats (fun f x => f.sqrt (s.rmode q.rm) (f.read x)) t
  | vdiv q d a b : ElementOp s (.vdiv q d a b) q d [a, b] (fun t => isF t && !q.sat)
      fun t _ => onLanes (fun t x y _ => match tagKind t with
        | .flt f => f.div (s.rmode q.rm) (f.read x) (f.read y)
        | _ => (0, 0)) t
  | vcmul q d a b : ElementOp s (.vcmul q d a b) q d [a, b] (fun t => isComplex t && (!q.sat || isCI t))
      fun t _ x => byExpr q.sat (s.rmode q.rm) t (x 0) (x 1) 0 [pos [0, 2], neg [1, 3]] [pos [0, 3], pos [1, 2]]
  | vcmac q d a b c : ElementOp s (.vcmac q d a b c) q d [a, b, c] (fun t => isComplex t && (!q.sat || isCI t))
      fun t _ x => byExpr q.sat (s.rmode q.rm) t (x 0) (x 1) (x 2)
        [pos [4], pos [0, 2], neg [1, 3]] [pos [5], pos [0, 3], pos [1, 2]]
  | vconj q d a : ElementOp s (.vconj q d a) q d [a] (fun t => isComplex t && (!q.sat || isCI t))
      fun t _ x => byLane (tagWidth t) fun l => moveComp q.sat (l % 2 == 1) t (lane (tagWidth t) (x 0) l)
  | vcabs2 q d a : ElementOp s (.vcabs2 q d a) q d [a] (fun t => isComplex t && (!q.sat || isCI t))
      fun t _ x => byLane (tagWidth t) fun l => if l % 2 = 1 then (0, 0)
        else CExpr.eval q.sat (s.rmode q.rm) t (comps t (x 0) 0 0 (l / 2)) [pos [0, 0], pos [1, 1]]
  | vcrot q k d a : ElementOp s (.vcrot q k d a) q d [a] (fun t => isComplex t && (!q.sat || isCI t))
      fun t _ x => byLane (tagWidth t) fun l =>
        moveComp q.sat (if l % 2 = 0 then k == 1 || k == 2 else k == 2 || k == 3) t
          (comp t (x 0) (l / 2) ((l % 2 + k.val) % 2))

/-- Moves, carries, comparison and conversion (R206, R208 to R211): sources, and the row. -/
inductive MoveOp (s : State) : Instr → List VsOp → VRow → Prop where
  | vmov d r (h : s.me.v[r].tag ≠ .none) : MoveOp s (.vmov d (.vec r)) [.vec r]
      { d := d, last := some 59, tag := s.me.v[r].tag,
        put := fun e => if e < s.me.vl then some (s.vel (.vec r) e) else none, fl := 0, mask := none }
  | vmovScalar (d : Fin 56) a (ha : VsOp.reg? a = none) (h : s.me.v[vdReg d].tag ≠ .none) : MoveOp s (.vmov (some d) a) [a]
      { d := some d, last := some 59, tag := s.me.v[vdReg d].tag,
        put := fun e => if e < s.me.vl then some (s.vel a e) else none, fl := 0, mask := none }
  | vaddc q d a b c (h : Tagged s [a, b] .n64) (hs : q.sat = false) : MoveOp s (.vaddc q d a b c) [a, b]
      { d := d, last := some (vaLast q.p), tag := .n64,
        put := s.under q fun e => s.vel a e + s.vel b e + oneIf ((s.mreg c).getLsbD e),
        fl := 0,
        mask := c.map fun m => (m, maskOf fun e => if s.on q e then
            decide (2 ^ 64 ≤ (s.vel a e).toNat + (s.vel b e).toNat + (oneIf (s.me.m[m].getLsbD e)).toNat)
          else s.me.m[m].getLsbD e) }
  | vsubb q d a b c (h : Tagged s [a, b] .n64) (hs : q.sat = false) : MoveOp s (.vsubb q d a b c) [a, b]
      { d := d, last := some (vaLast q.p), tag := .n64,
        put := s.under q fun e => s.vel a e - s.vel b e - oneIf ((s.mreg c).getLsbD e),
        fl := 0,
        mask := c.map fun m => (m, maskOf fun e => if s.on q e then
            decide ((s.vel a e).toNat < (s.vel b e).toNat + (oneIf (s.me.m[m].getLsbD e)).toNat)
          else s.me.m[m].getLsbD e) }
  | vcmp q cc d a b t (h : Tagged s [a, b] t) (hc : cmpCodes cc t = true) : MoveOp s (.vcmp q cc d a b) [a, b]
      { d := none, last := none, tag := t, put := fun _ => none,
        fl := s.flagsOn q fun e => (cmpElem cc t (s.vel a e) (s.vel b e)).2,
        mask := d.map fun m => (m, maskOf fun e =>
          if s.on q e then (cmpElem cc t (s.vel a e) (s.vel b e)).1
          else decide (e < s.me.vl) && !q.kz && s.me.m[m].getLsbD e) }
  | vcvt q u p d r (h : s.me.v[r].tag ≠ .none) (hc : isComplex s.me.v[r].tag = isComplex u)
      (hp : p.val < convParts s.me.v[r].tag u) (hs : q.sat = false ∨ convSat s.me.v[r].tag u = true) :
      MoveOp s (.vcvt q u p d (.vec r)) [.vec r]
        (let t := s.me.v[r].tag
         let row := fun e => byLane (tagWidth u) fun l =>
           if tagLanes t < tagLanes u then
             (if p.val * tagLanes t ≤ l ∧ l < (p.val + 1) * tagLanes t then
               convLane (s.rmode q.rm) q.sat t u (lane (tagWidth t) (s.vel (.vec r) e) (l - p.val * tagLanes t))
              else (lane (tagWidth u) (s.dold d (vaLast q.p) e) l, 0))
           else convLane (s.rmode q.rm) q.sat t u (lane (tagWidth t) (s.vel (.vec r) e) (p.val * tagLanes u + l))
         { d := d, last := some (vaLast q.p), tag := u, put := s.under q fun e => (row e).1,
           fl := s.flagsOn q fun e => (row e).2, mask := none })

/-- Signal-processing instructions (R85 to R89, R214 to R217): sources, and the row. -/
inductive SignalOp (s : State) : Instr → List VsOp → VRow → Prop where
  | vbfly q h d a b t (ht : Tagged s [a, b] t) (hc : isComplex t = true) (hs : q.sat = false ∨ isCI t = true)
      (hv : s.me.vl % (2 * 2 ^ h.val) = 0) : SignalOp s (.vbfly q h d a b) [a, b]
        (let n := 2 ^ h.val
         -- the upper element of a pair is a + w·b, the lower a − w·b, with w the twiddle of the pair
         let row := fun e =>
           if e % (2 * n) < n then byExpr q.sat (s.rmode q.rm) t (s.vel a e) (s.vel a (e + n)) (s.vel b e)
             [pos [0], pos [4, 2], neg [5, 3]] [pos [1], pos [4, 3], pos [5, 2]]
           else byExpr q.sat (s.rmode q.rm) t (s.vel a (e - n)) (s.vel a (e - n + n)) (s.vel b (e - n))
             [pos [0], neg [4, 2], pos [5, 3]] [pos [1], neg [4, 3], neg [5, 2]]
         { d := d, last := some (vaLast q.p), tag := t, put := s.under q fun e => (row e).1,
           fl := s.flagsOn q fun e => (row e).2, mask := none })
  | vgjstep q n p d a (ht : s.me.v[a].tag = .cf32) (hv : s.me.vl % (2 ^ (n.val + 1) * 2 ^ (n.val + 1)) = 0) :
      SignalOp s (.vgjstep q n p d a) [.vec a]
        (let o := 2 ^ (n.val + 1)
         let row := fun e => gjElem p.val
           (fun r c => let x := s.vel (.vec a) (e / (o * o) * (o * o) + r * o + c)
                       { re := lane 32 x 0, im := lane 32 x 1, fl := 0 }) (e % (o * o) / o) (e % o)
         { d := d, last := some (vaLast q.p), tag := .cf32,
           put := s.under q fun e => ofLanes 32 fun l => if l = 0 then (row e).re else (row e).im,
           fl := s.flagsOn q fun e => (row e).fl, mask := none })
  | vbfpexp q w d a (ht : s.me.v[a].tag = .n8x8) (hv : s.me.vl % 6 = 0)
      (hb : s.me.vl / 6 * (1 + 3 * (w.val + 1)) ≤ 1024) : SignalOp s (.vbfpexp q w d a) [.vec a]
        { d := d, last := some (vaLast q.p), tag := .ci16x2,
          put := s.under q fun e =>
            let b := e / 6 * (1 + 3 * (w.val + 1))
            ofLanes 16 fun l =>
              let m := signed (w.val + 1)
                (beField (fun i => s.me.v[a].byte (b + 1 + i)) (w.val + 1) ((4 * (e % 6) + l) * (w.val + 1)))
              laneResult .ci16x2 true (m * 2 ^ (s.me.v[a].byte b % 16)),
          fl := 0, mask := none }
  | vbfpcmp q w d a (ht : s.me.v[a].tag = .ci16x2) (hv : s.me.vl % 6 = 0)
      (hb : s.me.vl / 6 * (1 + 3 * (w.val + 1)) ≤ 1024) : SignalOp s (.vbfpcmp q w d a) [.vec a]
        (let wd := w.val + 1
         let n := 1 + 3 * wd
         let cs := fun p => (List.range 24).map fun k => signed 16 (lane 16 (s.elAt a (6 * p + k / 4)) (k % 4))
         let val := fun p k =>
           wrap64 (clampInt (intLo true wd) (intHi true wd) (bfpQ ((cs p).getD k 0) (bfpExp wd (cs p)))) % 2 ^ wd
         let byte := fun j =>
           if s.me.vl / 6 * n ≤ j then 0
           else if j % n = 0 then bfpExp wd (cs (j / n))
           else (List.range 8).foldl (fun acc i =>
             2 * acc + val (j / n) ((8 * (j % n - 1) + i) / wd) / 2 ^ (wd - 1 - (8 * (j % n - 1) + i) % wd) % 2) 0
         { d := d, last := some (vaLast q.p), tag := .n8x8,
           put := fun e => if e < ceilDiv (s.me.vl / 6 * n) 8 then some (ofLanes 8 fun i => byte (8 * e + i)) else none,
           fl := 0, mask := none })

/-- Elements moved under R52: an active element takes what `f` gives, or keeps its bits. -/
def State.moving (s : State) (q : VMod) (f : Nat → Option Word) (e : Nat) : Option Word :=
  if s.on q e then f e else if q.kz ∧ e < s.me.vl then some 0 else none
/-- The number of set bits of a mask below bit n. -/
def rankBelow (m : MaskReg) (n : Nat) : Nat := ((List.range n).filter fun k => m.getLsbD k).length
/-- Permutes (Table 9-8, R218, R219): sources, and the row; they write `l3` and raise no flag. -/
inductive PermuteOp (s : State) : Instr → List VsOp → VRow → Prop where
  | vslideup q d a b (h : s.me.v[a].tag ≠ .none) : PermuteOp s (.vslideup q d a b) [.vec a]
      { d := d, last := some 59, tag := s.me.v[a].tag, fl := 0, mask := none,
        put := s.moving q fun e => if (s.rg b).toNat ≤ e then some (s.elAt a (e - (s.rg b).toNat)) else none }
  | vslidedn q d a b (h : s.me.v[a].tag ≠ .none) : PermuteOp s (.vslidedn q d a b) [.vec a]
      { d := d, last := some 59, tag := s.me.v[a].tag, fl := 0, mask := none,
        put := s.moving q fun e => some (s.elAt a (e + (s.rg b).toNat)) }
  | vperm q d a b (h : s.me.v[a].tag ≠ .none) (hb : s.me.v[b].tag = .n64 ∨ s.me.v[b].tag = .i64) :
      PermuteOp s (.vperm q d a b) [.vec a, .vec b]
        { d := d, last := some 59, tag := s.me.v[a].tag, fl := 0, mask := none,
          put := s.moving q fun e => some (s.elAt a (s.elAt b e).toNat) }
  | vbcast q d a b (h : s.me.v[a].tag ≠ .none) : PermuteOp s (.vbcast q d a b) [.vec a]
      { d := d, last := some 59, tag := s.me.v[a].tag, fl := 0, mask := none,
        put := s.moving q fun _ => some (s.elAt a (s.rg b).toNat) }
  | vcompress q d a c (h : s.me.v[a].tag ≠ .none) : PermuteOp s (.vcompress q d a c) [.vec a]
      { d := d, last := some 59, tag := s.me.v[a].tag, fl := 0, mask := none,
        put := fun j => ((List.range s.me.vl).find? fun e => (s.mreg c).getLsbD e && rankBelow (s.mreg c) e == j).map
          (s.elAt a) }
  | vexpand q d a c (h : s.me.v[a].tag ≠ .none) : PermuteOp s (.vexpand q d a c) [.vec a]
      { d := d, last := some 59, tag := s.me.v[a].tag, fl := 0, mask := none,
        put := fun e => if e < s.me.vl ∧ (s.mreg c).getLsbD e then some (s.elAt a (rankBelow (s.mreg c) e)) else none }
  | viota q d c : PermuteOp s (.viota q d c) []
      { d := d, last := some 59, tag := .n64, fl := 0, mask := none,
        put := fun e => if e < s.me.vl then some (word (rankBelow (s.mreg c) e)) else none }
  | vzip q d a b (h : s.me.v[a].tag ≠ .none) (hb : s.me.v[b].tag = s.me.v[a].tag) :
      PermuteOp s (.vzip q d a b) [.vec a, .vec b]
        { d := d, last := some 59, tag := s.me.v[a].tag, fl := 0, mask := none,
          put := s.moving q fun e => some (if e % 2 = 0 then s.elAt a (e / 2) else s.elAt b (e / 2)) }
  | vunzip q d a b (h : s.me.v[a].tag ≠ .none) (hb : s.me.v[b].tag = s.me.v[a].tag) :
      PermuteOp s (.vunzip q d a b) [.vec a, .vec b]
        { d := d, last := some 59, tag := s.me.v[a].tag, fl := 0, mask := none,
          put := s.moving q fun e => some (if e < 64 then s.elAt a (2 * e) else s.elAt b (2 * (e - 64) + 1)) }

/-- A reduction into element 0 by the tree of R90, lane by lane over the active elements. -/
def State.reduced (s : State) (q : VMod) (t : Tag) (a : VrOp) (op : Nat → Nat → Nat × Flags) : Word × Flags :=
  byLane (tagWidth t) fun l =>
    let r := redNode op (passLane t) (fun e => if s.on q e then some (lane (tagWidth t) (s.elAt a e) l) else none) 7 0
    (r.1.getD 0, r.2)
/-- Reductions and scan (R90, R91, R220, R221): sources, and the row. -/
inductive ReduceOp (s : State) : Instr → List VsOp → VRow → Prop where
  | vredsum q d a (h : clsAdd s.me.v[a].tag = true) (hs : q.sat = false ∨ satAdd s.me.v[a].tag = true) :
      ReduceOp s (.vredsum q d a) [.vec a]
        (let r := s.reduced q s.me.v[a].tag a (addLane q.sat (s.rmode q.rm) s.me.v[a].tag)
         { d := d, last := some 59, tag := s.me.v[a].tag, put := fun e => if e = 0 then some r.1 else none, fl := r.2,
           mask := none })
  | vredmax q d a (h : clsMinMax s.me.v[a].tag = true) (hs : q.sat = false) : ReduceOp s (.vredmax q d a) [.vec a]
        (let r := s.reduced q s.me.v[a].tag a (minMaxLane true s.me.v[a].tag)
         { d := d, last := some 59, tag := s.me.v[a].tag, put := fun e => if e = 0 then some r.1 else none, fl := r.2,
           mask := none })
  | vredmin q d a (h : clsMinMax s.me.v[a].tag = true) (hs : q.sat = false) : ReduceOp s (.vredmin q d a) [.vec a]
        (let r := s.reduced q s.me.v[a].tag a (minMaxLane false s.me.v[a].tag)
         { d := d, last := some 59, tag := s.me.v[a].tag, put := fun e => if e = 0 then some r.1 else none, fl := r.2,
           mask := none })
  | vscan q d a (h : clsAdd s.me.v[a].tag = true) (hs : q.sat = false ∨ satAdd s.me.v[a].tag = true) :
      ReduceOp s (.vscan q d a) [.vec a]
        (let t := s.me.v[a].tag
         let row := fun e => byLane (tagWidth t) fun l =>
           let r := running (addLane q.sat (s.rmode q.rm) t) (passLane t)
             (fun i => if s.on q i then some (lane (tagWidth t) (s.elAt a i) l) else none) (e + 1)
           (r.1.getD 0, r.2)
         { d := d, last := some 59, tag := t, put := s.under q fun e => (row e).1, fl := s.flagsOn q fun e => (row e).2,
           mask := none })

end Sys2Proof.Machine
end

