-- ==== Sys2Proof/Certificates/Slice0/TermsMem.lean ====
section
/-!
DEFINITION. Terms for the statements about scalar memory accesses, atomics and system instructions.
-/

set_option Elab.async false

namespace Sys2Proof.Machine

/-! ### Places and what an access hides -/

/-- The place m is one of the n bytes from l up; HOSTC and HOSTN reach one memory (R130), and IO has none. -/
def Loc.covers (l : Loc) (n : Nat) (m : Loc) : Bool :=
  l.kind != .io && PageKind.sameSpace l.kind m.kind && decide (l.pa ≤ m.pa) && decide (m.pa < l.pa + n)
/-- Memory with bytes written from l up. -/
def State.bytesWith (s : State) (l : Loc) (bs : List Byte) (m : Loc) : Byte :=
  if l.covers bs.length m then bs.getD (m.pa - l.pa) 0 else s.byteAt m
/-- A hart without its scalar data cache. -/
def Hart.sansCache (h : Hart) : Hart := { h with cache := [] }
/-- A gang without what its recovery point notes of ordered operations performed since (R45). -/
def Gang.sansLog (g : Gang) : Gang := { g with recov := g.recov.map fun r => { r with log := [] } }
/-- A gang without its scratchpad. -/
def Gang.sansSp (g : Gang) : Gang := { g with sp := [], spPoison := [] }
/-- The device without what a read may change outside the hart: error completions of the host, coherence records, IO
transactions (R105, R147, R370, R371). -/
def State.sansReads (s : State) : State := { s with hostErr := [], snoop := [], out := [], freeCtr := 0 }
/-- The device without memory, which the statements give byte by byte, and what goes with it. -/
def State.sansMem (s : State) : State :=
  { s.sansReads with dev := [], host := [], twin := [], devPoison := [], hostPoison := [], twinPoison := [], owned := [] }

/-- No choice of the device is given, so every access goes to the home, and the hart has no store on its way. -/
def State.calm (s : State) : Prop := s.choices = [] ∧ s.me.stores = []
/-- The access of n bytes at `ea` passes the checks of R361 and is aligned; its place is `l`, of the page `pin`. -/
def State.reaches (s : State) (u : Use) (ea : Word) (n : Nat) (l : Loc) (pin : Pin) : Prop :=
  (s.translate u ea).1 = .ok (l, pin) ∧ ea.toNat % n = 0
/-- The n bytes at plain address `at_` of scratchpad space replaced. -/
def Gang.spWith (g : Gang) (at_ : Nat) (bs : List Byte) (x : Nat) : Byte :=
  if at_ ≤ x ∧ x < at_ + bs.length then bs.getD (x - at_) 0 else Mem.get g.sp x

/-! ### Atomics -/

/-- A signed number of n bytes. -/
def signedOf (n v : Nat) : Int := (BitVec.ofNat (8 * n) v).toInt
/-- The new value of an atomic of n bytes (Table 8-6). -/
def amoValue (op : AmoOp) (n old x : Nat) : Nat :=
  let f := if n = 4 then fmt32 else fmt64
  match op with
  | .add => (old + x) % 2 ^ (8 * n)
  | .and => old &&& x
  | .or => old ||| x
  | .xor => old ^^^ x
  | .min => if signedOf n old ≤ signedOf n x then old else x
  | .max => if signedOf n x ≤ signedOf n old then old else x
  | .minu => if old ≤ x then old else x
  | .maxu => if x ≤ old then old else x
  | .swap => x
  | .fadd => (f.sum .rne [tm (f.read old), tm (f.read x)]).1
  | .fmin => (f.minMax false old x).1
  | .fmax => (f.minMax true old x).1
/-- The value that a register or a pair gives an n-byte access (R181, R182). -/
def State.operandOf (s : State) (n : Nat) (x : GOp) : Nat :=
  match n, x with
  | 16, some r => (s.rg (some r)).toNat + 2 ^ 64 * (s.rg (some (r + 1))).toNat
  | 16, none => 0
  | n, x => (s.rg x).toNat % 2 ^ (8 * n)
/-- What the old value of n bytes leaves in the destination, or in the pair (R181, R182). -/
def oldInto (n : Nat) (sx : Bool) (d : GOp) (old : Nat) : Fin 32 → Option Word := fun r =>
  match d with
  | none => none
  | some k =>
    if n = 16 then (if r = k + 1 then some (word (old / 2 ^ 64)) else if r = k then some (word old) else none)
    else if r = k then some (if n = 4 then extendN 4 sx old else word old) else none
/-- The scalar atomics (R181, R182): opcode, fields, bytes, destination, address, accepted page kinds, the value that is
written over an old one (none where a compare fails), and the operation as the commit buffer keeps it. -/
inductive AtomOp (s : State) :
    Instr → Nat → MemX → Nat → GOp → Word → (PageKind → Bool) → (Nat → Option Nat) → OrdOp → Prop where
  | amo op x d a b : AtomOp s (.amo op x d a b) 8 x (Sz.bytes x.sz) d (s.rg a)
      (fun k => match k with | .dev | .hostc => true | .hostn | .twin => op == .add || op == .swap | .io => false)
      (fun old => some (amoValue op (Sz.bytes x.sz) old ((s.rg b).toNat % 2 ^ (8 * Sz.bytes x.sz)))) (.amo op (s.rg b))
  | cas x d a b c : AtomOp s (.cas x d a b c) 9 x (Sz.bytes x.sz) d (s.rg a) (fun k => k != .io)
      (fun old => if old = s.operandOf (Sz.bytes x.sz) b then some (s.operandOf (Sz.bytes x.sz) c) else none)
      (.cas (s.operandOf (Sz.bytes x.sz) b) (s.operandOf (Sz.bytes x.sz) c))

/-- The ordered scalar operations (R39, R180, R183): opcode, T, ORD, address, bytes, accepted page kinds, operation, and
what a returned value fills. -/
inductive OrderedOp (s : State) : Instr → Nat → Tick → MOrd → Word → Nat → (PageKind → Bool) → OrdOp → Fill → Prop where
  | st q d a (h : q.sp = false) : OrderedOp s (.st q d a) 7 q.t q.ord (LdSt.ea q (s.rg a)) (LdSt.bytes q) (fun _ => true)
      (.store (bytesOfNat (LdSt.bytes q) (s.rg d).toNat)) .none
  | atom i op x n d ea ok f o (h : AtomOp s i op x n d ea ok f o) :
      OrderedOp s i op x.t x.ord ea n ok o (.g d (n == 16) x.sx)

/-- The operation went to the commit buffer as one entry (R40), an acquire or not (R136): nothing is performed, no memory
changes, and the instruction retires. -/
structure Buffered (s t : State) (tree acq : Bool) (e : OrdElem) (f : Fill) (pin : Pin) : Prop where
  entries : t.entries = s.entries ++
    [{ num := s.nextEntry, p := s.myGang.p, job := s.myGang.job, tree := tree && s.myJob.spawnKey.isSome,
       ticket := s.myGang.index * s.myGang.hn + s.cur.rank.val, h := s.cur, core := s.myGang.core, place := 0,
       elems := [e], fill := f, pins := [pin], vec := false, acq := acq,
       empties := acq }]
  next : t.nextEntry = s.nextEntry + 1
  step : StepBut (fun h => { h with cache := [], fillG := [] }) hideNone hideNone
    (fun u => { u with entries := [], nextEntry := 0 }) s t s.byteAt
  awaits : ∀ r : Fin 32, (r, s.nextEntry) ∈ t.me.fillG ↔
    match f with
    | .g (some d) wide _ => r = d ∨ (wide = true ∧ r = d + 1) ∨ (r, s.nextEntry) ∈ s.me.fillG
    | _ => (r, s.nextEntry) ∈ s.me.fillG

/-! ### Traps of scalar accesses -/

/-- A scalar access to generic space that offends, in the order of R179: the cause. A load meets poison with no ordered
operation of the thread's own in the commit buffer, which it might have to come after (R131). -/
inductive BadAccess (s : State) (u : Use) (ea : Word) (n : Nat) : Cause → Prop where
  | translation c (h : (s.translate u ea).1 = .error c) : BadAccess s u ea n c
  | alignment l (h : (s.translate u ea).1 = .ok l) (ha : ea.toNat % n ≠ 0) : BadAccess s u ea n .misalign
  | poison l pin (h : s.reaches u ea n l pin) (hu : u = .read) (hw : s.waitsOwn false true [] = false)
      (hp : s.readPoison l n = true) : BadAccess s u ea n .poison
/-- The generic accesses of scalar instructions: opcode, use, address, bytes. -/
inductive ScalarAccess (s : State) : Instr → Nat → Use → Word → Nat → Prop where
  | ld q d a (h : q.sp = false) : ScalarAccess s (.ld q d a) 6 .read (LdSt.ea q (s.rg a)) (LdSt.bytes q)
  | st q d a (h : q.sp = false) (ht : s.ticketCheck q.t = none) :
      ScalarAccess s (.st q d a) 7 .write (LdSt.ea q (s.rg a)) (LdSt.bytes q)
  | amo op x d a b (ht : s.ticketCheck x.t = none) : ScalarAccess s (.amo op x d a b) 8 .write (s.rg a) (Sz.bytes x.sz)
  | cas x d a b c (ht : s.ticketCheck x.t = none) : ScalarAccess s (.cas x d a b c) 9 .write (s.rg a) (Sz.bytes x.sz)

end Sys2Proof.Machine
end

