-- ==== Sys2Proof/Certificates/Slice0/TermsSys.lean ====
section
/-!
DEFINITION. Terms for the statements about system instructions, barriers, rings, channels, jobs, tickets and masks.
-/

set_option Elab.async false

namespace Sys2Proof.Machine

/-! ### What the instructions hide -/

/-- A hart without what a scratchpad lock changes: lock counts and times at both levels, and the scalar cache. -/
def Hart.sansLocks (h : Hart) : Hart :=
  { h with locks := 0, lockAddr := 0, hold := 0, cache := [], sup := { h.sup with locks := 0 } }
/-- A hart without its event register. -/
def Hart.sansEvt (h : Hart) : Hart := { h with evt := false }
/-- A hart without what returning from the supervisor thread changes (R191). -/
def Hart.sansReturn (h : Hart) : Hart :=
  { h with st := .running, pc := 0, ei := 0, wait := none, cache := [], evt := false, hold := 0, stepArm := false,
           stepDue := false, bpExempt := false, sup := { h.sup with st := .idle, inh := false } }
/-- A hart without its states and waits. -/
def Hart.sansWait (h : Hart) : Hart :=
  { h with st := .running, wait := none, sup := { h.sup with st := .idle, wait := none, call := none } }
/-- A hart without what `JEND` changes (R26, R292). -/
def Hart.sansEnd (h : Hart) : Hart :=
  { h.dropTokens with st := .running, sealed := false, wait := none, ei := 0, acc := Vector.replicate 4 none }
/-- A gang without barrier n. -/
def Gang.sansBar (n : Fin 32) (g : Gang) : Gang := { g with bars := vput g.bars n Barrier.empty }
/-- A gang without ring r. -/
def Gang.sansRing (r : Fin 8) (g : Gang) : Gang := { g with rings := vput g.rings r Ring.empty }
/-- A hart without the phases of barrier n that it has consumed. -/
def Hart.sansWph (n : Fin 32) (h : Hart) : Hart := { h with wph := vput h.wph n 0, cache := [] }
/-- The device without channel c of partition p. -/
def State.sansTask (p : Fin 3) (c : Fin 256) (s : State) : State :=
  s.modPart p fun q => { q with tasks := vput q.tasks c TaskEntry.empty }
/-- The device without jobs, families and the numbers given to new jobs. -/
def State.sansJobs (s : State) : State :=
  { s with jobs := [], families := [], parts := s.parts.map fun q => { q with nextJob := 0, nextOrder := 0 } }

/-! ### The values of control registers -/

/-- The control registers and their values (Tables 3-6, 3-7, 15-3, 15-5, R17, R64, R313). -/
inductive CsrValue (s : State) : Nat → Word → Prop where
  | vl : CsrValue s 0x000 (word s.me.vl)
  | ei : CsrValue s 0x001 (word s.me.ei)
  | fcsr : CsrValue s 0x002 (s.me.fcsr.setWidth 64)
  | vlmax : CsrValue s 0x003 128
  | tkt : CsrValue s 0x010
      (word (s.myGang.index * s.myGang.hn + s.cur.rank.val + 2 ^ 62 * (if s.myJob.spawnKey = none then 1 else 2)))
  | tktn : CsrValue s 0x011 (word (s.myJob.rcd.gangs * s.myJob.rcd.harts))
  | gang : CsrValue s 0x012 (word s.myGang.index)
  | hart : CsrValue s 0x013 (word s.cur.rank.val)
  | hartn : CsrValue s 0x014 (word s.myGang.hn)
  | core : CsrValue s 0x015 (word s.myGang.core)
  | job : CsrValue s 0x016 (word s.myJob.id)
  | vint : CsrValue s 0x017 (word s.myJob.rcd.vint)
  | dtime : CsrValue s 0x018 (word s.dtime)
  | ddl : CsrValue s 0x019 (word s.myJob.rcd.ddl)
  | lw : CsrValue s 0x01A (word (s.laneWeight s.cur))
  | part : CsrValue s 0x01B (word (s.myJob.vf.val * 256 + s.myGang.p.val))
  | tkst w (h : ∀ k : Fin 8, w.getLsbD k.val = (s.me.tk[k].st == .valid) ∧ w.getLsbD (8 + k.val) = (s.me.tk[k].st == .revoked))
      (hz : ∀ i, 16 ≤ i → w.getLsbD i = false) : CsrValue s 0x020 w
  | cap0 : CsrValue s 0x030 s.cap0
  | cap1 : CsrValue s 0x031 (s.prt s.myGang.p).cap1
  | cap2 : CsrValue s 0x032 0x01000000000000FF
  | cap3 : CsrValue s 0x033 s.cap3
  | args : CsrValue s 0x040 s.myJob.rcd.q1
  | spsize : CsrValue s 0x041 (word s.myGang.spsize)
  | arena (n : Fin 4) : CsrValue s (0x042 + n.val)
      (if s.myJob.rcd.amask.testBit n.val = true ∧ (s.func s.myJob.p s.myJob.vf).ag[n] = true then
        word ((s.func s.myJob.p s.myJob.vf).abase[n].toNat * 2 ^ 16) else 0)
  | umLow (k : Fin 16) (h : s.atS = true) : CsrValue s (0x0C0 + 2 * k.val) (s.me.m[k].setWidth 64)
  | umHigh (k : Fin 16) (h : s.atS = true) : CsrValue s (0x0C1 + 2 * k.val) ((s.me.m[k] >>> 64).setWidth 64)
  | ug (k : Fin 32) (h : s.atS = true) : CsrValue s (0x0E0 + k.val) s.me.g[k]
  | sctl (h : s.atS = true) : CsrValue s 0x100
      (word (s.me.sup.sver.toNat * 2 ^ 16 + s.me.sup.lhl.toNat * 2 ^ 8 + (if s.me.sup.sstep then 4 else 0)
        + (if s.me.sup.utk then 2 else 0) + (if s.me.sup.inh then 1 else 0)))
  | sbp (h : s.atS = true) : CsrValue s 0x108 (word ((if s.me.sup.bpe then 2 ^ 63 else 0) + s.me.sup.bpa.toNat))
  | svec (h : s.atS = true) : CsrValue s 0x101 s.me.sup.svec
  | scause (h : s.atS = true) : CsrValue s 0x102 (s.me.sup.scause.setWidth 64)
  | sepc (h : s.atS = true) : CsrValue s 0x103 s.me.sup.sepc
  | sei (h : s.atS = true) : CsrValue s 0x104 (s.me.sup.sei.setWidth 64)
  | seaddr (h : s.atS = true) : CsrValue s 0x105 s.me.sup.seaddr
  | sinfo (h : s.atS = true) : CsrValue s 0x106
      (word (s.me.sup.infoOp.toNat * 2 ^ 25 + s.me.sup.infoSrc.toNat * 2 ^ 16 + s.me.sup.infoDetail.toNat))
  | sscratch (h : s.atS = true) : CsrValue s 0x107 s.me.sup.sscratch

/-! ### Waits -/

/-- The thread that runs blocked at its instruction (R25, R125): it has had no effect, and the wait began now. -/
structure Blocks (s t : State) (op : Nat) (w : WaitFor) (ends : Option Nat) (addr : Word) : Prop where
  state : if s.atS then t.me.sup.st = .blocked else t.me.st = .blocked
  wait : (if s.atS then t.me.sup.wait else t.me.wait) =
    some { what := w, op := op, since := s.cyc, ends := ends, expired := false, addr := addr }
  pc : t.pcv = s.pcv
  memory : ∀ l, t.byteAt l = s.byteAt l
  frame : Frame Hart.sansWait hideNone hideNone hideNone s t
/-- Instructions that find what they wait for not there (R121, R124, R192, R247, R277, R293), and loads and stores that
must come after an ordered operation of the hart in the commit buffer (R131, R133, R136): opcode, wait, time-out, and the
effective address of a scalar access. -/
inductive WaitOp (s : State) : Instr → Nat → WaitFor → Option Nat → Word → Prop where
  | wfe a (hu : s.atS = false) (h : s.me.evt = false) :
      WaitOp s (.wfe a) 0x1D .wfe (if s.rg a = 0 then none else some (s.dtime + (s.rg a).toNat)) 0
  | bwait n (hn : n.val < 8 * s.myGang.hn) (hi : s.myGang.bars[n].init = true)
      (h : ¬ (1 ≤ (s.myGang.bars[n].ph - s.me.wph[n]).toNat ∧ (s.myGang.bars[n].ph - s.me.wph[n]).toNat ≤ 2 ^ 31)) :
      WaitOp s (.bwait n) 0x6B (.bwait n) none 0
  | rwait r (hu : s.atS = false) (hr : r.val < 2 * s.myGang.hn) (hc : s.myGang.rings[r].cfg = true)
      (he : s.myGang.rings[r].err = false) (h : s.myGang.rings[r].fill = s.myGang.rings[r].drn) :
      WaitOp s (.rwait r) 0x72 (.rwait r) none 0
  | rcommit r a (hu : s.atS = false) (hr : r.val < 2 * s.myGang.hn) (hc : s.myGang.rings[r].cfg = true)
      (he : s.myGang.rings[r].err = false) (hk : s.myGang.rings[r].kind = 1 ∨ s.myGang.rings[r].kind = 0 ∧ s.rg a = 0)
      (hb : (s.rg a).toNat < 2 ^ 55)
      (h : s.myGang.rings[r].n ≤ (s.myGang.rings[r].iss - s.myGang.rings[r].drn).toNat) :
      WaitOp s (.rcommit r a) 0x71 (.ringFull r) none 0
  | hmsg a b c (hc : (s.rg a).toNat = (c : Fin 256).val) (hv : (s.prt s.myGang.p).tasks[c].valid = true)
      (hp : (s.prt s.myGang.p).tasks[c].perm.getLsbD s.myVf.val = true) (h : 255 ≤ (s.prt s.myGang.p).tasks[c].waiting) :
      WaitOp s (.hmsg a b) 0x23 (.message c.val) none 0
  | twait a b k (hu : s.atS = false) (hj : s.myJob.spawnKey = none)
      (ha : (s.rg a).toNat = k) (hb : k < s.ticket s.cur) (h : s.passed s.myGang.p s.myGang.job k = false) :
      WaitOp s (.twait .tj a b) 0x54 .twait none 0
  | ld q d a l pin (hp : q.sp = false) (hc : s.choices = [])
      (hr : s.reaches .read (LdSt.ea q (s.rg a)) (LdSt.bytes q) l pin)
      (hw : s.waitsOwn false (releases q.ord) [(l, LdSt.bytes q)] = true) :
      WaitOp s (.ld q d a) 0x06 .ordered none (LdSt.ea q (s.rg a))
  | st q d a l pin (hp : q.sp = false) (ht : q.t = .no) (hc : s.choices = [])
      (hr : s.reaches .write (LdSt.ea q (s.rg a)) (LdSt.bytes q) l pin)
      (hw : s.waitsOwn false (releases q.ord) [(l, LdSt.bytes q)] = true) :
      WaitOp s (.st q d a) 0x07 .ordered none (LdSt.ea q (s.rg a))

/-! ### Save blocks -/

/-- Quadword k of a save block (Table 8-9): an element, or, last, the tag. -/
def saveQuad (v : VReg) (k : Nat) : Word := if h : k < 128 then v.el[k] else BitVec.ofNat 64 (Tag.code v.tag)
/-- A save block at `a` through token `tk` lies on pages that permit the access, quadword k at `at_ k` (R198). -/
structure SaveAccess (s : State) (tk : Fin 8) (a : Word) (wr : Bool) (at_ : Nat → Loc) : Prop where
  valid : s.me.sup.tk[tk].st = .valid
  covers : s.me.sup.tk[tk].base ≤ a.toNat ∧ a.toNat + 1032 ≤ s.me.sup.tk[tk].base + s.me.sup.tk[tk].len
  aligned : a.toNat % 8 = 0
  perm : ∀ p ∈ s.me.sup.tk[tk].pins, p.va < a.toNat + 1032 → a.toNat < p.va + p.size → if wr then p.w = true else p.r = true
  pages : ∀ k, k < 129 → ∃ q, findPin s.me.sup.tk[tk].pins (a.toNat + 8 * k) = some q ∧ at_ k = q.loc (a.toNat + 8 * k)

/-! ### Barriers -/

/-- A barrier after an event of R276: with every arrival made and no byte pending, its phase completes. -/
def Barrier.after (b : Barrier) : Barrier :=
  if b.init = true ∧ b.cnt = b.exp ∧ b.pend = 0 then { b with ph := b.ph + 1, cnt := 0, pend := b.expb } else b
/-- Barrier n of the gang became what `b` becomes; every event register of the gang is set when a phase completed. -/
structure BarStep (eh : Hart → Hart) (s t : State) (n : Fin 32) (b : Barrier) : Prop where
  bar : t.myGang.bars[n] = b.after
  evt : ∀ r : Fin 4, t.myGang.harts[r].evt =
    (s.myGang.harts[r].evt || (b.init && decide (b.cnt = b.exp) && decide (b.pend = 0)))
  step : StepBut (fun h => eh h.sansEvt) (fun h => eh h.sansEvt) (Gang.sansBar n) hideNone s t s.byteAt
/-- PH > WPH (R275). -/
def aheadOf (ph wph : BitVec 32) : Prop := 1 ≤ (ph - wph).toNat ∧ (ph - wph).toNat ≤ 2 ^ 31
/-- Ring r of the gang became `q`; every event register of the gang is set when FILL or DRN changed (R193). -/
structure RingStep (s t : State) (r : Fin 8) (q : Ring) : Prop where
  ring : t.myGang.rings[r] = q
  evt : ∀ k : Fin 4, t.myGang.harts[k].evt =
    (s.myGang.harts[k].evt || !(decide (s.myGang.rings[r].fill = q.fill) && decide (s.myGang.rings[r].drn = q.drn)))
  step : StepBut Hart.sansEvt Hart.sansEvt (Gang.sansRing r) hideNone s t s.byteAt
/-- A configured ring of the gang without ERR. -/
def State.ringLive (s : State) (r : Fin 8) : Prop :=
  r.val < 2 * s.myGang.hn ∧ s.myGang.rings[r].cfg = true ∧ s.myGang.rings[r].err = false

/-- The barrier instructions: opcode, and the barrier that they name. -/
inductive BarOp : Instr → Nat → Fin 32 → Prop where
  | binit n a b : BarOp (.binit n a b) 0x68 n
  | barrive n : BarOp (.barrive n) 0x69 n
  | bexpect n a : BarOp (.bexpect n a) 0x6A n
  | bwait n : BarOp (.bwait n) 0x6B n
  | btest d n : BarOp (.btest d n) 0x6C n
/-- A barrier instruction that raises BARRIER, by its opcode (R63, R276, R277): the gang has no such barrier; it is not
started; its count or its bytes leave their range; something still refers to it, or waits for it. -/
inductive BarrierBad (s : State) (n : Fin 32) : Instr → Nat → Prop where
  | absent i op (hi : BarOp i op n) (h : 8 * s.myGang.hn ≤ n.val) : BarrierBad s n i op
  | fresh i op (hi : BarOp i op n) (h : s.myGang.bars[n].init = false) (ho : 0x69 ≤ op ∧ op ≤ 0x6B) : BarrierBad s n i op
  | count a b (h : (s.rg a).toNat = 0 ∨ 65535 < (s.rg a).toNat) : BarrierBad s n (.binit n a b) 0x68
  | bytes a b (h : 2 ^ 55 ≤ (s.rg b).toNat) : BarrierBad s n (.binit n a b) 0x68
  | named a b (h : s.barRefs s.cur.gang n = true ∨ s.myGang.waitsBar n = true) : BarrierBad s n (.binit n a b) 0x68
  | full (h : s.myGang.bars[n].cnt = s.myGang.bars[n].exp) : BarrierBad s n (.barrive n) 0x69
  | quota a (h : 2 ^ 55 ≤ (s.rg a).toNat ∨ 2 ^ 55 ≤ s.myGang.bars[n].pend + (s.rg a).toNat) :
      BarrierBad s n (.bexpect n a) 0x6A
/-- The ring instructions: opcode, and the ring that they name. -/
inductive RingOp : Instr → Nat → Fin 8 → Prop where
  | ringcfg r a : RingOp (.ringcfg r a) 0x70 r
  | rcommit r a : RingOp (.rcommit r a) 0x71 r
  | rwait r : RingOp (.rwait r) 0x72 r
  | rrelease r : RingOp (.rrelease r) 0x73 r
  | rstat d r k : RingOp (.rstat d r k) 0x74 r
/-- A ring instruction that raises RING, by its opcode (R63, R120, R123, R282, R283): the gang has no such ring; it is not
configured, or in error; the configuration is refused; the quota does not suit the ring's kind; no stage is filled. -/
inductive RingBad (s : State) (r : Fin 8) : Instr → Nat → Prop where
  | absent i op (hi : RingOp i op r) (h : 2 * s.myGang.hn ≤ r.val) : RingBad s r i op
  | off i op (hi : RingOp i op r) (h : (s.myGang.rings[r]).cfg = false ∨ (s.myGang.rings[r]).err = true)
      (ho : 0x71 ≤ op ∧ op ≤ 0x73) : RingBad s r i op
  | refused a (h : s.ringRefused r (s.rg a) = true) : RingBad s r (.ringcfg r a) 0x70
  | quota a (h : 2 ^ 55 ≤ (s.rg a).toNat ∨ (s.myGang.rings[r]).kind = 0 ∧ (s.rg a).toNat ≠ 0 ∨
      2 ≤ (s.myGang.rings[r]).kind.toNat) : RingBad s r (.rcommit r a) 0x71
  | empty (h : (s.myGang.rings[r]).fill = (s.myGang.rings[r]).drn) : RingBad s r (.rrelease r) 0x73

/-! ### Channels -/

/-- The channel instructions on a channel that the function may use (R293): channel, and its entry afterwards. -/
inductive ChannelOp (s : State) : Instr → Fin 256 → (TaskEntry → TaskEntry) → Prop where
  | hmsg a b c (hc : (s.rg a).toNat = (c : Fin 256).val) (h : (s.prt s.myGang.p).tasks[c].waiting < 255)
      (hst : (s.prt s.myGang.p).st = .run)
      (hr : s.takesNow s.myGang.p (s.prt s.myGang.p).tasks[c] = true ∨
        s.reserveRoom s.myGang.p (messageSegs (s.messages s.myGang.p + 1)) = true)
      (hd : s.myGang.diverged = false) :
      ChannelOp s (.hmsg a b) c fun t =>
        let m : Msg := { payload := s.rg b, at_ := s.dtime, poster := s.myGang.job }
        { t with msgs := t.msgs ++ [{ m with taken := if s.takesNow s.myGang.p t then some (s.taking t m) else none }] }
  | chblock a c (hc : (s.rg a).toNat = (c : Fin 256).val) : ChannelOp s (.chblock a) c fun t => { t with blk := true }
  | chunblock a c (hc : (s.rg a).toNat = (c : Fin 256).val) : ChannelOp s (.chunblock a) c fun t => { t with blk := false }

/-! ### Masks -/

/-- The mask instructions that write a mask (Table 9-10): destination and bits. -/
inductive MaskOp (s : State) : Instr → MOp → (Nat → Bool) → Prop where
  | mand d a b : MaskOp s (.mand d a b) d fun e =>
      if e < s.me.vl then (s.mreg a).getLsbD e && (s.mreg b).getLsbD e else (s.mreg d).getLsbD e
  | mor d a b : MaskOp s (.mor d a b) d fun e =>
      if e < s.me.vl then (s.mreg a).getLsbD e || (s.mreg b).getLsbD e else (s.mreg d).getLsbD e
  | mxor d a b : MaskOp s (.mxor d a b) d fun e =>
      if e < s.me.vl then (s.mreg a).getLsbD e ^^ (s.mreg b).getLsbD e else (s.mreg d).getLsbD e
  | mandn d a b : MaskOp s (.mandn d a b) d fun e =>
      if e < s.me.vl then (s.mreg a).getLsbD e && !(s.mreg b).getLsbD e else (s.mreg d).getLsbD e
  | mshl d a b : MaskOp s (.mshl d a b) d fun e =>
      if e < s.me.vl then
        decide (0 ≤ (e : Int) - (s.rg b).toInt ∧ (e : Int) - (s.rg b).toInt < s.me.vl) &&
          (s.mreg a).getLsbD ((e : Int) - (s.rg b).toInt).toNat
      else (s.mreg d).getLsbD e
  | mset h d a : MaskOp s (.mset h d a) d fun e =>
      if h then (if e < 64 then (s.mreg d).getLsbD e else (s.rg a).getLsbD (e - 64))
      else (if e < 64 then (s.rg a).getLsbD e else (s.mreg d).getLsbD e)
/-- The mask instructions that write a scalar register (Table 9-10): destination and value. -/
inductive MaskReadOp (s : State) : Instr → GOp → Word → Prop where
  | mpopc d a (h : s.me.vl ≠ 0) : MaskReadOp s (.mpopc d a) d
      (word ((List.range s.me.vl).filter fun e => (s.mreg a).getLsbD e).length)
  | mfirst d a (h : s.me.vl ≠ 0) : MaskReadOp s (.mfirst d a) d
      (word (((List.range s.me.vl).find? fun e => (s.mreg a).getLsbD e).getD 128))
  | mgetLow d a : MaskReadOp s (.mget false d a) d ((s.mreg a).setWidth 64)
  | mgetHigh d a : MaskReadOp s (.mget true d a) d ((s.mreg a >>> 64).setWidth 64)
  | vgettag d a : MaskReadOp s (.vgettag d a) d (word (s.me.v[a].tag.code))

/-- The instructions that set a tag (R54, R204): destination, and the register that it becomes. -/
inductive TagOp : Instr → Fin 56 → (VReg → VReg) → Prop where
  | vtag d t : TagOp (.vtag (some d) t) d fun _ => { el := Vector.replicate 128 0, tag := t, vln := 0, dirty := true }
  | vretag d t : TagOp (.vretag (some d) t) d fun x => { x with tag := t, dirty := true }

end Sys2Proof.Machine
end

