-- ==== Sys2Proof/Certificates/Slice0/TermsVec.lean ====
section
/-!
DEFINITION. Terms for the statements about tokens, vector memory, streams, vector atomics and tiles.
-/

set_option Elab.async false

namespace Sys2Proof.Machine

/-! ### Bytes and places -/

/-- The number that n bytes of a memory hold from a place up. -/
def numAt (m : Loc → Byte) (l : Loc) (n : Nat) : Nat :=
  natOfBytes ((List.range n).map fun i => m { l with pa := l.pa + i })
/-- A memory with bytes written from a place up. -/
def putAt (m : Loc → Byte) (l : Loc) (bs : List Byte) (x : Loc) : Byte :=
  if l.covers bs.length x then bs.getD (x.pa - l.pa) 0 else m x
/-- The number that n bytes of a scratchpad hold. -/
def spNum (m : Nat → Byte) (a n : Nat) : Nat := natOfBytes ((List.range n).map fun i => m (a + i))
/-- A scratchpad with bytes written. -/
def spPut (m : Nat → Byte) (a : Nat) (bs : List Byte) (x : Nat) : Byte :=
  if a ≤ x ∧ x < a + bs.length then bs.getD (x - a) 0 else m x
/-- A byte of the gang's scratchpad. -/
def State.spByte (s : State) (x : Nat) : Byte := Mem.get s.myGang.sp x

/-- n bytes at the place of an element can be read: no poison, and no IO page, whose reads are free values. -/
def VPlace.readable (s : State) (n : Nat) : VPlace → Prop
  | .gen l _ => l.kind ≠ .io ∧ s.readPoison l n = false
  | .sp k => s.myGang.spPoisoned (s.myGang.spMap k) n = false
/-- n bytes at the place of an element can be written. -/
def VPlace.writable (s : State) (n : Nat) : VPlace → Prop
  | .gen l _ => s.writeRefused l n = false
  | .sp _ => True
/-- What n bytes at the place of an element hold. -/
def VPlace.value (s : State) (n : Nat) : VPlace → Nat
  | .gen l _ => numAt s.byteAt l n
  | .sp k => spNum s.spByte (s.myGang.spMap k) n
/-- Memory after elements are stored in ascending order. -/
def storedBytes (m : Loc → Byte) (n : Nat) (at_ : Nat → VPlace) (data : Nat → Nat) (es : List Nat) : Loc → Byte :=
  es.foldl (fun m e => match at_ e with | .gen l _ => putAt m l (bytesOfNat n (data e)) | .sp _ => m) m
/-- The scratchpad after elements are stored in ascending order. -/
def storedSp (g : Gang) (n : Nat) (at_ : Nat → VPlace) (data : Nat → Nat) (es : List Nat) : Nat → Byte :=
  es.foldl (fun m e => match at_ e with | .gen _ _ => m | .sp k => spPut m (g.spMap k) (bytesOfNat n (data e)))
    fun x => Mem.get g.sp x

/-! ### Vector accesses -/

/-- Element e is not masked off. -/
def State.onMem (s : State) (x : MemX) (e : Nat) : Bool := !x.ke || s.me.m[x.k].getLsbD e
/-- A vector access of a user hart meets every condition of Tables 5-5 and 10-4 before its elements move: its elements,
the active ones from `ei` up, have the places `at_` (R231), and an unordered one meets none of its own ordered operations
in the commit buffer, for which it would wait (R131, R133, R136). -/
structure VecAccess (s : State) (f : VAcc) (data : List VsOp) (dests : List VdOp) (offs : Option VrOp)
    (refuse : PageKind → Option Cause) (at_ : Nat → VPlace) : Prop where
  user : s.atS = false
  vl : s.me.vl ≠ 0
  tags : s.vmTags data dests offs = none
  ticket : s.ticketCheck f.x.t = none
  issue : s.vIssue f refuse (s.todo f.x) = none
  stall : s.vStall f (s.todo f.x) = none
  waits : f.x.t = .no → s.waitsOwn true (releases f.x.ord) (s.vLocs f (s.todo f.x)) = false
  places : ∀ e ∈ s.todo f.x, s.vPlace f e = .ok (at_ e)
/-- Element e of an access stops it (Table 5-5): it has no place, or its place is poisoned. -/
inductive ElemStop (s : State) (f : VAcc) (e : Nat) : TrapInfo → Prop where
  | place x (h : s.vPlace f e = .error x) : ElemStop s f e x
  | memory l q (h : s.vPlace f e = .ok (.gen l q)) (hp : s.readPoison l f.n = true) :
      ElemStop s f e { c := .poison, addr := f.addr e, ei := e }
  | scratchpad k (h : s.vPlace f e = .ok (.sp k)) (hp : s.myGang.spPoisoned (s.myGang.spMap k) f.n = true) :
      ElemStop s f e { c := .poison, addr := f.addr e, ei := e }
/-- Element e of a vector store meets a poisoned line when it is performed. -/
def VPlace.dirty (s : State) (n : Nat) : VPlace → Prop
  | .gen l _ => linePoisoned (s.poisonOf l.kind) l.pa n = true
  | .sp _ => False
/-- Element e of a vector store stops it (Table 5-5, R234): it has no place, or it is an ordered one that is performed in
flight and meets a poisoned line. -/
inductive StoreStop (s : State) (f : VAcc) (e : Nat) : Cause → Prop where
  | place x (h : s.vPlace f e = .error x) : StoreStop s f e x.c
  | poison y (h : s.vPlace f e = .ok y) (ht : f.x.t ≠ .no) (hp : y.dirty s f.n) : StoreStop s f e .poison
/-- What a raw load sets (R53, R231): active elements from `ei` up, and zeros for masked-off ones under KZ. -/
def State.loaded (s : State) (x : MemX) (v : Nat → Word) (e : Nat) : Option Word :=
  if s.me.ei ≤ e ∧ e < s.me.vl then (if s.onMem x e then some (v e) else if x.kz then some 0 else none) else none
/-- The tag of a register that raw bits go to (R53). -/
def tagOfRaw (old : Tag) (n : Nat) (sx : Bool) : Tag := if old ≠ .none then old else if n = 4 ∧ sx = true then .i64 else .n64

/-- The vector loads of one destination (R230, Table 10-1): the access, destination, offsets register and the page
kinds that it refuses. -/
inductive VLoadOp (s : State) : Instr → VAcc → VdOp → Option VrOp → (PageKind → Option Cause) → Prop where
  | vld x d a b : VLoadOp s (.vld x d a b)
      { op := 0x42, x := x, n := Sz.bytes x.sz, wr := false, sp := false, addr := fun e => s.rg a + word e * s.rg b }
      d none anyKind
  | vldx x d a b : VLoadOp s (.vldx x d a b)
      { op := 0x44, x := x, n := Sz.bytes x.sz, wr := false, sp := false, addr := fun e => s.rg a + s.vel (.vec b) e }
      d (some b) notIo
  | vlds x d a b : VLoadOp s (.vlds x d a b)
      { op := 0x46, x := x, n := Sz.bytes x.sz, wr := false, sp := true, addr := fun e => s.rg a + word e * s.rg b }
      d none anyKind
  | vldsx x d a b : VLoadOp s (.vldsx x d a b)
      { op := 0x48, x := x, n := Sz.bytes x.sz, wr := false, sp := true, addr := fun e => s.rg a + s.vel (.vec b) e }
      d (some b) anyKind
/-- The vector stores (R230, Table 10-1): the access, data, sources, offsets register and the page kinds refused. -/
inductive VStoreOp (s : State) :
    Instr → VAcc → (Nat → Nat) → List VsOp → Option VrOp → (PageKind → Option Cause) → Prop where
  | vst x d a b : VStoreOp s (.vst x d a b)
      { op := 0x43, x := x, n := Sz.bytes x.sz, wr := true, sp := false, addr := fun e => s.rg a + word e * s.rg b }
      (fun e => (s.vel (.vec d) e).toNat) [.vec d] none anyKind
  | vstx x d a b : VStoreOp s (.vstx x d a b)
      { op := 0x45, x := x, n := Sz.bytes x.sz, wr := true, sp := false, addr := fun e => s.rg a + s.vel (.vec b) e }
      (fun e => (s.vel (.vec d) e).toNat) [.vec d] (some b) notIo
  | vsts x d a b : VStoreOp s (.vsts x d a b)
      { op := 0x47, x := x, n := Sz.bytes x.sz, wr := true, sp := true, addr := fun e => s.rg a + word e * s.rg b }
      (fun e => (s.vel (.vec d) e).toNat) [.vec d] none anyKind
  | vstsx x d a b : VStoreOp s (.vstsx x d a b)
      { op := 0x49, x := x, n := Sz.bytes x.sz, wr := true, sp := true, addr := fun e => s.rg a + s.vel (.vec b) e }
      (fun e => (s.vel (.vec d) e).toNat) [.vec d] (some b) anyKind
  | vsts2 x d a b c : VStoreOp s (.vsts2 x d a b c)
      { op := 0x4B, x := x, n := 16, wr := true, sp := true, addr := fun e => s.rg a + word e * s.rg b }
      (fun e => (s.vel (.vec d) e).toNat + 2 ^ 64 * (s.vel (.vec c) e).toNat) [.vec d, .vec c] none anyKind

/-- The access of `VAMO`, `VSTA` and `VWAITC`. -/
def State.amoAcc (s : State) (op : Nat) (x : MemX) (a : GOp) (b : VrOp) : VAcc :=
  { op := op, x := x, n := Sz.bytes x.sz, wr := true, sp := false, addr := fun e => s.rg a + s.vel (.vec b) e }
def State.waitAcc (s : State) (x : MemX) (a : GOp) : VAcc :=
  { op := 0x52, x := x, n := Sz.bytes x.sz, wr := false, sp := false, addr := fun e => s.rg a + word (e * Sz.bytes x.sz) }
/-- Page kinds that accept a posted vector atomic (Table 5-1). -/
def postable (op : AmoOp) (k : PageKind) : Bool :=
  match k with
  | .dev | .hostc => true
  | .hostn | .twin => op == .add
  | .io => false
/-- The generic place of an element. -/
def VPlace.loc : VPlace → Loc
  | .gen l _ => l
  | .sp _ => { kind := .dev, pa := 0 }
/-- Atomics in ascending order of their elements: the old values, and memory afterwards (R242). -/
def amoRun (op : AmoOp) (n : Nat) (at_ : Nat → Loc) (x : Nat → Nat) : List Nat → (Loc → Byte) → List (Nat × Nat) × (Loc → Byte)
  | [], m => ([], m)
  | e :: r, m =>
    let old := numAt m (at_ e) n
    let z := amoRun op n at_ x r (putAt m (at_ e) (bytesOfNat n (amoValue op n old (x e))))
    ((e, old) :: z.1, z.2)

/-- The translation of an element's place, or none. -/
def VPlace.pins : VPlace → List Pin
  | .gen _ q => [q]
  | .sp _ => []
/-- The elements of a list, one list for each element group of 32 that has some (R40). -/
def groupsOf (es : List Nat) : List (List Nat) :=
  ((List.range 4).map fun g => es.filter fun e => e / 32 == g).filter fun l => l != []
/-- The commit-buffer entries of an ordered vector operation: one for each element group, under the next numbers (R40,
R233). -/
def State.entriesOf (s : State) (x : MemX) (at_ : Nat → VPlace) (el : Nat → OrdElem) (fill : Fill) : List Entry :=
  (groupsOf (s.todo x)).mapIdx fun k es =>
    { num := s.nextEntry + k, p := s.myGang.p, job := s.myGang.job, tree := (x.t == .tt) && s.myJob.spawnKey.isSome,
      ticket := s.myGang.index * s.myGang.hn + s.cur.rank.val, h := s.cur, core := s.myGang.core, place := 0,
      elems := es.map el, fill := fill, pins := ((s.todo x).map fun e => (at_ e).pins).flatten.dedup, vec := true,
      acq := acquires x.ord, empties := acquires x.ord && x.scope != .hart }
/-- An ordered vector operation that has no right and finds room in the commit buffer (R39, R40). -/
structure Buffers (s : State) (x : MemX) : Prop where
  ordered : x.t ≠ .no
  right : ∀ b, s.hasRight s.myJob (s.ticket s.cur) b = false
  room : s.commitUsed s.myGang.core + (groupsOf (s.todo x)).length ≤ 1024
/-- The operation went to the commit buffer and performed nothing. -/
structure VecBuffered (s t : State) (x : MemX) (at_ : Nat → VPlace) (el : Nat → OrdElem) (fill : Fill) : Prop where
  entries : t.entries = s.entries ++ s.entriesOf x at_ el fill
  next : t.nextEntry = s.nextEntry + (groupsOf (s.todo x)).length
/-- The device without the commit buffer. -/
def State.sansEntries (s : State) : State := { s with entries := [], nextEntry := 0 }

/-! ### Tokens -/

/-- A hart without its tokens. -/
def Hart.sansTokens (h : Hart) : Hart :=
  { h with tk := Vector.replicate 8 Token.empty, sup := { h.sup with tk := Vector.replicate 8 Token.empty } }
/-- Token tk of the user hart, or of the supervisor thread (`own`), became x, and no other token changed. -/
def TokenSet (s t : State) (own : Bool) (tk : Fin 8) (x : Token) : Prop :=
  (∀ k : Fin 8, t.me.tk[k] = if own = false ∧ k = tk then x else s.me.tk[k]) ∧
  ∀ k : Fin 8, t.me.sup.tk[k] = if own = true ∧ k = tk then x else s.me.sup.tk[k]
/-- A probe of the n bytes at `a` lies on the one page that `l` maps. -/
structure OnePage (s : State) (a n : Nat) (l : Leaf) : Prop where
  walk : s.walk s.myGang.p s.myVf a = .ok l
  some : 0 < n
  space : a + n ≤ 2 ^ 56
  page : a + n ≤ l.pin.va + l.pin.size

/-! ### Streams -/

/-- A stream record whose fields are legal (R235). -/
structure StreamRecord (q : List Word) : Prop where
  q0 : bits (nth q 0) 63 56 = 0
  q2 : bits (nth q 2) 63 48 = 0
  q3 : bits (nth q 3) 63 7 = 0 ∧ bit (nth q 3) 5 = false
  sx : ¬ (bit (nth q 3) 6 = true ∧ bit (nth q 3) 4 = true)
/-- Element k of a stream is reached through its token (R235, R237), at a place. -/
def State.streamAt (s : State) (t : Stream) (wr : Bool) (k : Nat) (l : Loc) (pin : Pin) : Prop :=
  (s.me.tk[t.tk]).elemCheck t.tk wr (t.addr k) t.bytes = .ok (l, pin)
/-- The elements that every one of some streams has left, at most `vl` (R237). -/
def State.stripOf (s : State) (ps : List (Fin 8)) : Nat :=
  ps.foldl (fun n k => min n (bits s.me.str[k].q2 47 0 - s.me.str[k].pos)) s.me.vl
/-- The streams of `ps` are those bound to a source, each once; they are load streams with valid tokens. -/
structure Pops (s : State) (srcs : List VsOp) (ps : List (Fin 8)) : Prop where
  which : ∀ k : Fin 8, k ∈ ps ↔ s.me.str[k].bound = true ∧ ∃ r : Fin 60, VsOp.vec r ∈ srcs ∧ r.val = k.val + 40
  once : ps.Nodup
  loads : ∀ k ∈ ps, bit s.me.str[k].q3 0 = false
  tokens : ∀ k ∈ ps, (s.me.tk[s.me.str[k].tk]).st = .valid
/-- Element POS + n of a stream lies outside its token's range. -/
def State.rangeEnd (s : State) (t : Stream) (n : Nat) : Prop :=
  ∃ x, x.c = .tkrange ∧ (s.me.tk[t.tk]).elemCheck t.tk false (t.addr (t.pos + n)) t.bytes = .error x
/-- Strips of n elements can be popped (R237): each stream delivers its elements up to the count of all, or up to the end of
its token's range, and n is the least of these lengths; element e of stream k lies at `at_ k e`. -/
structure Strips (s : State) (ps : List (Fin 8)) (n : Nat) (at_ : Fin 8 → Nat → Loc) : Prop where
  some : n ≠ 0
  reads : ∀ k ∈ ps, ∃ m, n ≤ m ∧ m ≤ s.stripOf ps ∧
    (∀ e, e < m → (∃ pin, s.streamAt s.me.str[k] false (s.me.str[k].pos + e) (at_ k e) pin) ∧
      (at_ k e).kind ≠ .io ∧ s.readPoison (at_ k e) s.me.str[k].bytes = false) ∧
    (m = s.stripOf ps ∨ s.rangeEnd s.me.str[k] m)
  length : n = s.stripOf ps ∨ ∃ k ∈ ps, s.rangeEnd s.me.str[k] n
/-- The state in which n elements of each stream are delivered to its register and `vl` is n (R237). -/
def State.delivered (s : State) (ps : List (Fin 8)) (n : Nat) (at_ : Fin 8 → Nat → Loc) : State :=
  s.modMe fun h =>
    { h with
      vl := n
      str := Vector.ofFn fun k => if k ∈ ps then { h.str[k] with pos := h.str[k].pos + n } else h.str[k]
      v := Vector.ofFn fun r => match ps.find? fun k => r.val == k.val + 40 with
        | none => h.v[r]
        | some k => { h.v[r] with
            el := Vector.ofFn fun e => if e.val < n then
                (if h.str[k].bytes = 4 then extendN 4 (bit h.str[k].q3 6) (numAt s.byteAt (at_ k e.val) 4)
                 else word (numAt s.byteAt (at_ k e.val) 8))
              else h.v[r].el[e]
            vln := max h.v[r].vln n
            dirty := true } }
/-- The register instructions of opcodes 0x30 to 0x38 that write a vector: sources, and the row. -/
inductive RowOp (s : State) : Instr → List VsOp → VRow → Prop where
  | element i q d srcs ok f u (h : ElementOp s i q d srcs ok f) (ht : Tagged s srcs u) (hu : ok u = true) :
      RowOp s i srcs
        { d := d, last := some (vaLast q.p), tag := u, put := s.under q fun e => (f u e fun k => s.vel (srcs.getD k .zero) e).1,
          fl := s.flagsOn q fun e => (f u e fun k => s.vel (srcs.getD k .zero) e).2, mask := none }
  | move i srcs r (h : MoveOp s i srcs r) : RowOp s i srcs r
  | signal i srcs r (h : SignalOp s i srcs r) : RowOp s i srcs r
  | permute i srcs r (h : PermuteOp s i srcs r) : RowOp s i srcs r
  | reduce i srcs r (h : ReduceOp s i srcs r) : RowOp s i srcs r

/-- The instructions that raise BADVL for the `vl` they would run at (R214 to R217): sources and destination. -/
inductive BadLength (s : State) : Instr → List VsOp → VdOp → Prop where
  | vbfly q h d a b t (ht : Tagged s [a, b] t) (hc : isComplex t = true) (hs : q.sat = false ∨ isCI t = true)
      (hv : s.me.vl % (2 * 2 ^ h.val) ≠ 0) : BadLength s (.vbfly q h d a b) [a, b] d
  | vgjstep q n p d a (ht : s.me.v[a].tag = .cf32) (hv : s.me.vl % (2 ^ (n.val + 1) * 2 ^ (n.val + 1)) ≠ 0) :
      BadLength s (.vgjstep q n p d a) [.vec a] d
  | vbfpexp q w d a (ht : s.me.v[a].tag = .n8x8)
      (hv : s.me.vl % 6 ≠ 0 ∨ 1024 < s.me.vl / 6 * (1 + 3 * (w.val + 1))) : BadLength s (.vbfpexp q w d a) [.vec a] d
  | vbfpcmp q w d a (ht : s.me.v[a].tag = .ci16x2)
      (hv : s.me.vl % 6 ≠ 0 ∨ 1024 < s.me.vl / 6 * (1 + 3 * (w.val + 1))) : BadLength s (.vbfpcmp q w d a) [.vec a] d

/-! ### Tiles -/

/-- A hart without its tiles. -/
def Hart.sansAcc (h : Hart) : Hart := { h with acc := Vector.replicate 4 none }
/-- The instruction left tile names as `f` says, and retired. -/
structure TileStep (es : State → State) (s t : State) (f : Fin 4 → Option Tile) (fl : Flags) (mem : Loc → Byte) : Prop where
  tiles : ∀ k, t.me.acc[k] = f k
  flags : t.me.fcsr = s.me.fcsr ||| fl
  step : StepBut (fun h => { h.sansAcc.sansCache with fcsr := 0 }) hideNone hideNone es s t mem
/-- One tile name changed. -/
def State.withAcc (s : State) (n : Fin 4) (x : Option Tile) (k : Fin 4) : Option Tile := if k = n then x else s.me.acc[k]
/-- The tile of all zeros (R251, R253). -/
def zeroTile : Tile := { data := Vector.replicate 4096 0, zero := true, dirty := true }
/-- A tile whose entries an instruction wrote. -/
def tileOf (f : Nat → BitVec 32) : Tile := { data := vgen 4096 f, zero := false, dirty := true }

/-- One entry of a tile over n groups of four products from group g on: each group adds its products to the entry in one
rounding, and a group without products leaves it (R92, R93). -/
def mopaRun (q : Mopa) (im : Bool) (x : Nat) : Nat → Nat → Nat → Nat × Flags
  | 0, _, old => (old, 0)
  | n + 1, g, old =>
    let r := match q.terms g (x / 64) (x % 64) im with
      | [] => (old, 0)
      | ts => fmt32.sum .rne (tm (fmt32.read old) :: ts)
    let z := mopaRun q im x n (g + 1) (r.1 % 2 ^ 32)
    (z.1, r.2 ||| z.2)
/-- The operands of a `MOPA` (Table 11-2). -/
def State.mopaOf (s : State) (q : VMod) (cj : Bool) (t : Tag) (per : Nat) (a b : VrOp) : Mopa :=
  { f := if t = .e4m3x8 then fmtE4 else if t = .e5m2x8 then fmtE5 else fmtBf, per := per, cplx := t == .cbf16x2, cj := cj,
    kk := s.me.vl / per, a := s.me.v[a], b := s.me.v[b], on := fun e => !q.ke || s.me.m[q.k].getLsbD e }
/-- The flags of every entry, ORed. -/
def tileFlags (f : Nat → Flags) : Flags := (List.range 4096).foldl (fun z x => z ||| f x) 0

/-- The access of a whole tile (R258): entry 64 i + j at g[A] + i × g[B] + 4j. -/
def State.tileAccess (s : State) (op : Nat) (x : MemX) (sp wr : Bool) (a b : GOp) : VAcc :=
  { op := op, x := x, n := 4, wr := wr, sp := sp, addr := fun e => s.rg a + word (e / 64) * s.rg b + word (4 * (e % 64)) }
/-- Every entry of a tile meets the conditions of R258 and has the place `at_`. -/
structure TileAccess (s : State) (f : VAcc) (at_ : Nat → VPlace) : Prop where
  user : s.atS = false
  token : f.sp = false → (s.me.tk[f.x.tk]).st = .valid
  issue : ∀ e, e < 4096 → s.vIssue f notIo [e] = none
  places : ∀ e, e < 4096 → s.vPlace f e = .ok (at_ e)
  stall : s.vStall f (List.range 4096) = none
  waits : s.waitsOwn true (releases f.x.ord) (s.vLocs f (List.range 4096)) = false

end Sys2Proof.Machine
end

