-- ==== Sys2Proof/Certificates/Slice0/TermsUnits.lean ====
section
/-!
DEFINITION. Terms for the statements about the engines and the steps of the device's other agents.
-/

set_option Elab.async false

namespace Sys2Proof.Machine

/-- A user hart with elements to act on, whose record register holds data and is not bound to a stream (R23, R50,
R239). -/
def State.recordReady (s : State) (a : Fin 48) : Prop :=
  s.atS = false ∧ s.me.vl ≠ 0 ∧ s.recUntyped a = none ∧ s.recType a = none
/-- The device without its sweep contexts. -/
def State.sansSweeps (s : State) : State := { s with sweeps := Vector.replicate 4 Sweep.empty }
/-- The device without sweep context k. -/
def State.sansSweep (k : Fin 4) (s : State) : State := { s with sweeps := vput s.sweeps k Sweep.empty }

/-- An engine can read n bytes at `a` on a page: permission, no IO page, granted channel groups, no poison (R8, R262,
R266, R281). -/
def State.engineReads (s : State) (q : Pin) (a n : Nat) : Prop :=
  q.r = true ∧ q.kind ≠ .io ∧
  (q.kind = .dev → s.granted q.p (q.loc a).pa = true ∧ s.granted q.p ((q.loc a).pa + n - 1) = true) ∧
  s.readPoison (q.loc a) n = false
/-- The 128-byte header of a delivered stage (Table 11-8). -/
def stageHeader (b : Sub) (h : HeldPage) : List Byte :=
  bytesOfNat 8 h.id ++ bytesOfNat 8 (b.pages.idxOf h.id) ++ bytesOfNat 8 (b.reuse.toNat * 2048 + b.idx) ++
    bytesOfNat 8 (4 * h.err.toNat + 2 * (b.delivered.length + 1 == b.pages.length).toNat + h.tail.toNat) ++
    List.replicate 96 0
/-- A message that an engine or Hearth posts on a channel that can take it (R337): taken at once, or pending. -/
structure Postable (s : State) (p : Fin 3) (c : Fin 256) : Prop where
  runs : (s.prt p).st = .run
  valid : ((s.prt p).tasks[c]).valid = true
  room : s.takesNow p (s.prt p).tasks[c] = true ∨ s.reserveRoom p (messageSegs (s.messages p + 1)) = true
/-- The channel's entry with a message posted by an engine or by Hearth (R337). -/
def State.posted_ (s : State) (p : Fin 3) (e : TaskEntry) (x : Word) : TaskEntry :=
  let m : Msg := { payload := x, at_ := s.dtime, poster := 0 }
  { e with msgs := e.msgs ++ [{ m with taken := if s.takesNow p e then some (s.taking e m) else none }] }
/-- A gang without its harts. -/
def Gang.sansHarts (g : Gang) : Gang := { g with harts := Vector.replicate 4 Hart.init }
/-- The device without its gangs and one sweep context. -/
def State.sansGangs (k : Fin 4) (s : State) : State := State.sansSweep k { s with gangs := [] }

/-! ### Copies -/

/-- The next element of a copy can be read, in scratchpad or on a page of the copy, and has the value v (R280). -/
inductive CopyIn (s : State) (c : Copy) : Nat → Prop where
  | sp (h : copySsp c.rcd = true)
      (hp : (s.gang c.gang).spPoisoned ((copySrc c.rcd).elem c.pos) (copyEsz c.rcd) = false) :
      CopyIn s c (spNum (fun y => Mem.get (s.gang c.gang).sp y) ((copySrc c.rcd).elem c.pos) (copyEsz c.rcd))
  | page x pin (h : copySsp c.rcd = false) (hx : x = (copySrc c.rcd).elem c.pos) (hf : findPin c.srcPins x = some pin)
      (hl : x % 128 + copyEsz c.rcd ≤ 128) (hr : s.engineReads pin x (copyEsz c.rcd)) :
      CopyIn s c (numAt s.byteAt (pin.loc x) (copyEsz c.rcd))
/-- The next element of a copy is poisoned (R281). -/
inductive CopyBad (s : State) (c : Copy) : Prop where
  | sp (h : copySsp c.rcd = true)
      (hp : (s.gang c.gang).spPoisoned ((copySrc c.rcd).elem c.pos) (copyEsz c.rcd) = true)
  | page x pin (h : copySsp c.rcd = false) (hx : x = (copySrc c.rcd).elem c.pos) (hf : findPin c.srcPins x = some pin)
      (hl : x % 128 + copyEsz c.rcd ≤ 128) (hm : s.mayRead pin x (copyEsz c.rcd) = true)
      (hp : s.readPoison (pin.loc x) (copyEsz c.rcd) = true)
/-- Memory, and the scratchpad of the copy's gang, after the next element's bytes are written: in scratchpad, in the stage
of a producer window that the copy was resolved to, or on a page of the copy (R280). -/
inductive CopyOut (s : State) (c : Copy) (bs : List Byte) : (Loc → Byte) → (Nat → Byte) → Prop where
  | sp (hs : c.stage = none) (hd : copyDsp c.rcd = true) :
      CopyOut s c bs s.byteAt (spPut (fun y => Mem.get (s.gang c.gang).sp y) ((copyDst c.rcd).elem c.pos) bs)
  | stage r i base (hs : c.stage = some (r, i, base)) :
      CopyOut s c bs s.byteAt
        (spPut (fun y => Mem.get (s.gang c.gang).sp y) (base + ((copyDst c.rcd).elem c.pos - (0x100000 + r.val * 0x10000))) bs)
  | page x pin (hs : c.stage = none) (hd : copyDsp c.rcd = false) (hx : x = (copyDst c.rcd).elem c.pos)
      (hf : findPin c.dstPins x = some pin) (hl : x % 128 + bs.length ≤ 128) (hk : pin.kind ≠ .io)
      (hw : s.writeRefused (pin.loc x) bs.length = false) :
      CopyOut s c bs (putAt s.byteAt (pin.loc x) bs) (fun y => Mem.get (s.gang c.gang).sp y)
/-- A copy whose next element counts bytes that its target still expects: a barrier that is started, or the ring stage
that the copy was resolved to, or neither (Table 12-4). -/
def State.expects (s : State) (c : Copy) : Prop :=
  (copyCmpl c.rcd = 0 → ((s.gang c.gang).bars[Fin.ofNat 32 (copyCtgt c.rcd)]).init = true ∧
    (copyDsz c.rcd : Int) ≤ ((s.gang c.gang).bars[Fin.ofNat 32 (copyCtgt c.rcd)]).pend ∧
    ((s.gang c.gang).bars[Fin.ofNat 32 (copyCtgt c.rcd)]).pend < 2 ^ 55) ∧
  (copyCmpl c.rcd = 1 ↔ c.stage.isSome = true)
/-- The bytes of the next element have been counted to the copy's target, and no other barrier or ring changed (R121,
R276). -/
structure CopyCounted (s t : State) (c : Copy) : Prop where
  bars : ∀ n : Fin 32, (t.gang c.gang).bars[n] =
    if copyCmpl c.rcd = 0 ∧ n = Fin.ofNat 32 (copyCtgt c.rcd) then
      Barrier.after { (s.gang c.gang).bars[n] with pend := ((s.gang c.gang).bars[n]).pend - copyDsz c.rcd }
    else (s.gang c.gang).bars[n]
  rings : ∀ r : Fin 8, (t.gang c.gang).rings[r] =
    match c.stage with
    | some (k, _, _) => if r = k then ((s.gang c.gang).rings[r]).land c.iss (copyDsz c.rcd) else (s.gang c.gang).rings[r]
    | none => (s.gang c.gang).rings[r]
  harts : ∀ r : Fin 4, ((t.gang c.gang).harts[r]).sansEvt = ((s.gang c.gang).harts[r]).sansEvt
  others : ∀ u, u ≠ c.gang → t.gang? u = s.gang? u

/-! ### Sections of the fronthaul -/

/-- The only section `x` of a frame matches placement entry i, the first that matches (R381). -/
structure SectionFor (s : State) (n : Fin 8) (f : Sys2Proof.Frame) (x : FhSection) (i : Fin 1024) : Prop where
  ethertype : f.ethertype = 0xAEFE
  uplane : f.uplane = true
  one : f.sections = [x]
  whole : f.cutAt = none ∧ f.trailing = false
  matches_ : ((s.ports[n]).places[i]).matches_ f = true
  first : ∀ k, k < i → ((s.ports[n]).places[k]).matches_ f = false
/-- How a section that its entry takes is dropped, and the counter that counts it (R383, R384, Table 18-8); `who`
names the entry among those of all ports. -/
inductive SectionDrop (s : State) (p : Fin 3) (e : Place) (f : Sys2Proof.Frame) (who : Nat) : Fin 15 → Prop where
  | noTarget (h : s.postTarget p e = none) : SectionDrop s p e f who 8
  | duplicate g c (h : s.postTarget p e = some g)
      (hc : (g.rings[e.ring]).openStages.find? (fun c =>
        ((g.rings[e.ring]).stages[(g.rings[e.ring]).stageNo c]).key == some (s.key e f)) = some c)
      (hs : who ∈ ((g.rings[e.ring]).stages[(g.rings[e.ring]).stageNo c]).seen) : SectionDrop s p e f who 7
  | late g l (h : s.postTarget p e = some g)
      (hc : ∀ c ∈ (g.rings[e.ring]).openStages,
        ((g.rings[e.ring]).stages[(g.rings[e.ring]).stageNo c]).key ≠ some (s.key e f))
      (hl : (g.rings[e.ring]).lk = some l) (hk : s.key e f ≤ l) : SectionDrop s p e f who 6
  | ringFull g (h : s.postTarget p e = some g)
      (hc : ∀ c ∈ (g.rings[e.ring]).openStages,
        ((g.rings[e.ring]).stages[(g.rings[e.ring]).stageNo c]).key ≠ some (s.key e f))
      (hl : ∀ l, (g.rings[e.ring]).lk = some l → l < s.key e f) (hf : (g.rings[e.ring]).full = true) :
      SectionDrop s p e f who 5
/-- The ring and the stage in which a section is placed: the open stage that has its key, or a new one, committed for it
(R383). -/
inductive SectionStage (s : State) (e : Place) (f : Sys2Proof.Frame) (who : Nat) (g : Gang) : Ring → BitVec 32 → Prop where
  | old c
      (hc : (g.rings[e.ring]).openStages.find? (fun c =>
        ((g.rings[e.ring]).stages[(g.rings[e.ring]).stageNo c]).key == some (s.key e f)) = some c)
      (hs : who ∉ ((g.rings[e.ring]).stages[(g.rings[e.ring]).stageNo c]).seen) :
      SectionStage s e f who g (g.rings[e.ring]) c
  | new
      (hc : ∀ c ∈ (g.rings[e.ring]).openStages,
        ((g.rings[e.ring]).stages[(g.rings[e.ring]).stageNo c]).key ≠ some (s.key e f))
      (hl : ∀ l, (g.rings[e.ring]).lk = some l → l < s.key e f) (hf : (g.rings[e.ring]).full = false) :
      SectionStage s e f who g { (g.rings[e.ring]).commit e.stb (some (s.key e f)) with lk := some (s.key e f) }
        (g.rings[e.ring]).iss
/-- The ring after a section of the entry has entered the stage that c numbers, with its vintage where POST is 10, and the
posts of the stages that have filled (R383, R385). -/
def State.sectionRing (s : State) (e : Place) (f : Sys2Proof.Frame) (who : Nat) (g : Gang) (r : Ring) (c : BitVec 32) :
    List (Nat × Word) × Ring :=
  ({ r with stages := vmod r.stages (r.stageNo c) fun y =>
      { y with seen := who :: y.seen,
               posts := y.posts ++ if bits e.q0 9 8 = 2 then [(bits e.q0 7 0, s.keyVint e f)] else [] } }.land c
    e.bytes).takePosts (g.rings[e.ring]).fill
/-- A section was placed: the bytes of the entry's window at its offset in the stage, the section noted at the stage,
and its bytes counted to the ring; the posts of stages that filled leave the ring (R383 to R385). Nothing else of the
gang, and no other gang, changes. -/
structure SectionPlaced (s t : State) (n : Fin 8) (e : Place) (f : Sys2Proof.Frame) (x : FhSection) (who : Nat) (g : Gang)
    (r : Ring) (c : BitVec 32) : Prop where
  bytes : ∀ y, Mem.get (t.gang g.uid).sp y =
    spPut (fun y => Mem.get (s.gang g.uid).sp y) (r.base + (r.stageNo c).val * r.size + e.off) (e.data x) y
  ring : t.ring g.uid e.ring = (s.sectionRing e f who g r c).2
  rest : ((t.gang g.uid).sansSp.sansRing e.ring).sansHarts = ((s.gang g.uid).sansSp.sansRing e.ring).sansHarts
  harts : ∀ k : Fin 4, ((t.gang g.uid).harts[k]).sansEvt = ((s.gang g.uid).harts[k]).sansEvt
  others : ∀ u, u ≠ g.uid → t.gang? u = s.gang? u
  memory : ∀ l, t.byteAt l = s.byteAt l
  jobs : t.jobs = s.jobs
  counted : (t.ports[n]).cnt[(1 : Fin 15)] = (s.ports[n]).cnt[(1 : Fin 15)] + 1 ∧
    (t.ports[n]).cnt[(0 : Fin 15)] = (s.ports[n]).cnt[(0 : Fin 15)] + 1

/-! ### Steps that write registers of the device -/

/-- No job of a function is in flight. -/
def State.idleFunc (s : State) (p : Fin 3) (vf : Fin 64) : Prop := ∀ j ∈ s.jobs, ¬ (j.p = p ∧ j.vf = vf)
/-- The partition is in RUN and owns the time block (R386). -/
def State.timeOwner (s : State) (p : Fin 3) : Prop := (s.prt p).st = .run ∧ (s.prt p).town = true
/-- The partition is in RUN and holds the port (R379). -/
def State.portHolder (s : State) (p : Fin 3) (n : Fin 8) : Prop :=
  (s.prt p).st = .run ∧ bit (s.prt p).cap1 (40 + n.val) = true

/-- The device once it has answered a housekeeping write (R412). -/
def State.replied (s : State) (off : Nat) : State :=
  { s with out := s.out ++ [.housekeepingDone (BitVec.ofNat 16 off)] }
/-- The steps that only write registers of the device, and the device afterwards (Tables 16-4, 18-2 to 18-9, 19-5, R127 to
R412). -/
inductive DeviceWrite (s : State) : Instr → State → Prop where
  | launchTail p vf tail (hr : (s.prt p).st = .run) (h : (tail - (s.func p vf).lhead).toNat ≤ 64) :
      DeviceWrite s (.launchTailWrite p vf tail) (s.modFunc p vf fun f => { f with ltail := tail })
  | launchTailFar p vf tail (hr : (s.prt p).st = .run) (h : 64 < (tail - (s.func p vf).lhead).toNat) :
      DeviceWrite s (.launchTailWrite p vf tail) (s.modFunc p vf fun f => { f with lerr := true })
  | root p vf v (hr : (s.prt p).st = .run) (h : s.idleFunc p vf) :
      DeviceWrite s (.functionConfigWrite p vf 0x1100 v)
        (s.modFunc p vf fun f => { f with root := v.extractLsb' 13 39, rootv := v.getLsbD 0 })
  | svec p vf v (hr : (s.prt p).st = .run) (h : s.idleFunc p vf) :
      DeviceWrite s (.functionConfigWrite p vf 0x1108 v) (s.modFunc p vf fun f => { f with svec := v.extractLsb' 3 53 })
  | configBusy p vf off v (hr : (s.prt p).st = .run) (ho : off = 0x1100 ∨ off = 0x1108) (h : ¬ s.idleFunc p vf) :
      DeviceWrite s (.functionConfigWrite p vf off v) (s.modFunc p vf fun f => { f with cerr := f.cerr ||| 1 })
  | arena p vf n v (hr : (s.prt p).st = .run) (h : s.idleFunc p vf) :
      DeviceWrite s (.arenaGrant p vf n v) (s.modFunc p vf fun f =>
        { f with abase := vput f.abase n (v.extractLsb' 16 40), ag := vput f.ag n (v.getLsbD 0) })
  | arenaBusy p vf n v (hr : (s.prt p).st = .run) (h : ¬ s.idleFunc p vf) :
      DeviceWrite s (.arenaGrant p vf n v) (s.modFunc p vf fun f => { f with cerr := f.cerr ||| 1 })
  | tset p v (ho : s.timeOwner p) (hj : s.jobs = []) (ht : s.tstate = 0) :
      DeviceWrite s (.tset p v) { s with
        dtime := v.toNat, dfrac := 0, lastTick := v.toNat, lastServo := s.lastServo + ((v.toNat : Int) - s.dtime) }
  | tsetRefused p v (ho : s.timeOwner p) (h : s.jobs ≠ [] ∨ s.tstate ≠ 0) :
      DeviceWrite s (.tset p v) { s with terr := true }
  | toff p v (ho : s.timeOwner p) :
      DeviceWrite s (.toff p v) { s with trem := s.trem + 10000 * v.toInt, lastServo := s.dtime }
  | tfadj p v (ho : s.timeOwner p) :
      DeviceWrite s (.registerWrite p 0 0x200010 v) { s with tfadj := v.setWidth 32, lastServo := s.dtime }
  | holdover (h : s.tstate = 1) (ht : s.lastServo + 16000000000 ≤ s.dtime) :
      DeviceWrite s .holdoverTimeout { s with tstate := 2 }
  | holdoverNot (h : s.tstate ≠ 1 ∨ s.dtime < s.lastServo + 16000000000) : DeviceWrite s .holdoverTimeout s
  | synce up : DeviceWrite s (.synceLockChange up) { s with synceLock := up }
  | hostLink gen width cxl hostc (hg : gen = 4 ∨ gen = 5 ∨ gen = 6) (hw : width.toNat ∈ [1, 2, 4, 8, 16])
      (hc : cxl.toNat ≤ 3) :
      DeviceWrite s (.hostLinkTrain gen width cxl hostc)
        { s with hgen := gen, hwid := width, cxlv := cxl, hostc := hostc && decide (cxl ≠ 0),
                 snoop := if cxl = 3 ∧ s.cxlv = 3 then s.snoop else [] }
  | hostDown width cxl hostc :
      DeviceWrite s (.hostLinkTrain 0 width cxl hostc)
        { s with hgen := 0, hwid := 0, cxlv := 0, hostc := false, snoop := [] }
  | hostNoLink gen width cxl hostc (hn : gen ≠ 0)
      (h : gen ∉ [4, 5, 6] ∨ width.toNat ∉ [1, 2, 4, 8, 16] ∨ 3 < cxl.toNat) :
      DeviceWrite s (.hostLinkTrain gen width cxl hostc) s
  | twinLink gen width (hg : gen = 4 ∨ gen = 5 ∨ gen = 6) (hw : width.toNat ∈ [1, 2, 4, 8]) :
      DeviceWrite s (.twinLinkTrain gen width) { s with tgen := gen, twid := width }
  | twinDown width : DeviceWrite s (.twinLinkTrain 0 width) { s with tgen := 0, twid := 0 }
  | twinNoLink gen width (hn : gen ≠ 0) (h : gen ∉ [4, 5, 6] ∨ width.toNat ∉ [1, 2, 4, 8]) :
      DeviceWrite s (.twinLinkTrain gen width) s
  | portDown n : DeviceWrite s (.portLinkChange n false) (s.modPort n fun q => { q with link := false })
  | portUp p n (ho : s.portHolder p n) (hr : 1 ≤ (s.ports[n]).rate.toNat ∧ (s.ports[n]).rate.toNat ≤ 4 ∨ (s.ports[n]).rate = 5 ∧ n.val % 2 = 0) :
      DeviceWrite s (.portLinkChange n true) (s.modPort n fun q => { q with link := true })
  | portControl p n v (ho : s.portHolder p n) :
      DeviceWrite s (.portConfigWrite p n 0 v) (s.modPort n fun q =>
        { q with mtu := BitVec.ofNat 14 (min 9216 (v.extractLsb' 16 14).toNat), hqen := v.getLsbD 3,
                 rate := v.extractLsb' 0 3 })
  | flow p n i q0 q1 q2 q3 (ho : s.portHolder p n) :
      DeviceWrite s (.flowEntryWrite p n i q0 q1 q2 q3) (s.modPort n fun q =>
        { q with flows := vput q.flows i
                            { q0 := q0 &&& 0x0000FFFFFFFFFFFF, q1 := q1 &&& 0x0000FFFFFFFFFFFF,
                              q2 := q2 &&& 0xFFFF00000003FFFF, seq := 0 } })
  | place p n i q0 q1 q2 q3 (ho : s.portHolder p n) :
      DeviceWrite s (.placementEntryWrite p n i q0 q1 q2 q3) (s.modPort n fun q =>
        { q with places := vput q.places i
                             { q0 := q0, q1 := q1 &&& 0x000FFFFFFFFFFFFF, q2 := q2 &&& 0x00000001FFFFFFFF,
                               q3 := q3 &&& 0x00000000001FFFFF, posted := [] } })
  | portOther p n (i : Instr) (h : ¬ s.portHolder p n)
      (hi : (∃ o v, i = .portConfigWrite p n o v) ∨ (∃ k a b c d, i = .flowEntryWrite p n k a b c d) ∨
        ∃ k a b c d, i = .placementEntryWrite p n k a b c d) : DeviceWrite s i s
  | schedule p v (hr : (s.prt p).st = .run) :
      DeviceWrite s (.registerWrite p 0 0x110008 v) (s.modPart p fun q =>
        { q with urgth := v.extractLsb' 32 32, jmax := v.extractLsb' 2 14, bediv := v.extractLsb' 0 2 })
  | abandonChannel p v (hr : (s.prt p).st = .run) :
      DeviceWrite s (.registerWrite p 0 0x110000 v) (s.modPart p fun q =>
        { q with preth := v.extractLsb' 32 32, aben := v.getLsbD 8, abch := v.extractLsb' 0 8 })
  | notRunning p vf off v (h : (s.prt p).st ≠ .run) : DeviceWrite s (.registerWrite p vf off v) s
  | hostError wr pa : DeviceWrite s (.hostErrorCompletion wr pa) { s with hostErr := s.hostErr ++ [(wr, pa)] }
  | snoop pa inval : DeviceWrite s (.cxlCacheSnoop pa inval) { s with owned := s.owned.filter fun l => l != pa / 128 }
  | codingStart cmd : DeviceWrite s (.codingCommandStart cmd)
      { s with codings := s.codings.map fun c => if c.id = cmd then { c with started := true } else c }
  | clear core : DeviceWrite s (.scratchpadClear core)
      { s with toClear := s.toClear.filter fun x => x.1 ≠ (core : Fin 64).val }
  | fence cores : DeviceWrite s (.coreFence cores) { s with fence := s.fence ||| cores }
  | retire units (h : ((List.range 16).filter fun w => (s.retirePend ||| units).getLsbD (24 + w)).length ≤ 4) :
      DeviceWrite s (.unitRetire units) { s with retirePend := s.retirePend ||| units }
  | retireTooMany units (h : 4 < ((List.range 16).filter fun w => (s.retirePend ||| units).getLsbD (24 + w)).length) :
      DeviceWrite s (.unitRetire units) s
  | plim v : DeviceWrite s (.plimWrite v) { s with plim := BitVec.ofNat 10 (max 400 (min 550 (v.extractLsb' 0 10).toNat)) }
  | keySlot ks (h : ∀ i ∈ s.images, i.ks.toNat ≠ (ks : Fin 4).val) :
      DeviceWrite s (.keySlotRevoke ks) { s with ksRevoked := s.ksRevoked ||| 1 <<< ks.val }
  | keySlotRuns ks i (h : i ∈ s.images) (hk : i.ks.toNat = (ks : Fin 4).val) : DeviceWrite s (.keySlotRevoke ks) s
  | svnBoot svn (h : svn.toNat ≤ 64) (hm : s.minSvn[0].toNat < svn.toNat)
      (hi : ∀ i, s.bootImage = some i → svn.toNat ≤ i.svn.toNat) :
      DeviceWrite s (.minimumSvnRaise false svn) { s with minSvn := vput s.minSvn 0 svn }
  | svnHearth svn (h : svn.toNat ≤ 64) (hm : s.minSvn[1].toNat < svn.toNat)
      (hi : ∀ p i, (s.prt p).st = .run → s.hearthImage[p] = some i → svn.toNat ≤ i.svn.toNat) :
      DeviceWrite s (.minimumSvnRaise true svn) { s with minSvn := vput s.minSvn 1 svn }
  | svnNoRaise b svn (h : 64 < svn.toNat ∨ svn.toNat ≤ (if b then s.minSvn[1] else s.minSvn[0]).toNat) :
      DeviceWrite s (.minimumSvnRaise b svn) s
  | retry (h : s.bootStage ≠ 3) : DeviceWrite s .configurationRequest { s with out := s.out ++ [.crs] }
  | ready (h : s.bootStage = 3) : DeviceWrite s .configurationRequest s
  | housekeeping off : DeviceWrite s (.housekeepingRead off)
      { s with out := s.out ++ [.housekeeping off (if off.toNat % 8 = 0 then s.hkRead off.toNat else 0)] }
  | lockstepClear c : DeviceWrite s (.housekeepingWrite (BitVec.ofNat 16 (0x300 + 8 * (c : Fin 64).val)) 0)
      (State.replied { s with lockstepCnt := vput s.lockstepCnt c 0 } (0x300 + 8 * c.val))
  | fenceWrite v : DeviceWrite s (.housekeepingWrite 0x210 v) (State.replied { s with fence := s.fence ||| v } 0x210)
  | entryLocked p k v (hk : (k : Fin 8).val ≠ 4) (h : (s.prt p).st = .run ∨ (s.prt p).st = .fault) :
      DeviceWrite s (.housekeepingWrite (BitVec.ofNat 16 (0x100 + 0x40 * (p : Fin 3).val + 8 * k.val)) v)
        (s.replied (0x100 + 0x40 * p.val + 8 * k.val))

/-! ### Events at a hart's boundary -/

/-- The device with hart h as the current one, through which a statement speaks of what happens to h. -/
def State.at_ (s : State) (h : HartId) : State := { s with cur := h }
/-- What a blocked instruction waits for has come, or is looked for anew (R33, Table 2-1). -/
inductive WaitEnds (s : State) (h : HartId) : WaitFor → Prop where
  | phase n (ha : aheadOf ((s.gang h.gang).bars[n]).ph (s.hart h).wph[n]) : WaitEnds s h (.bwait n)
  | stage r (hr : ((s.gang h.gang).rings[r]).fill ≠ ((s.gang h.gang).rings[r]).drn) : WaitEnds s h (.rwait r)
  | stageRead r (hr : ((s.gang h.gang).rings[r]).fill ≠ ((s.gang h.gang).rings[r]).drn) : WaitEnds s h (.ringEmpty r)
  | room r (hr : (((s.gang h.gang).rings[r]).iss - ((s.gang h.gang).rings[r]).drn).toNat < ((s.gang h.gang).rings[r]).n) :
      WaitEnds s h (.ringFull r)
  | event (he : (s.hart h).evt = true) : WaitEnds s h .wfe
  | buffer n tree (hn : s.commitUsed (s.gang h.gang).core + n ≤ 1024 ∨
      s.hasRight (s.jobOf (s.gang h.gang)) (s.ticket h) tree = true) : WaitEnds s h (.commitFull n tree)
  | message c (hc : (vget (s.prt (s.gang h.gang).p).tasks c TaskEntry.empty).waiting < 255) : WaitEnds s h (.message c)
  | invalidation id (hi : s.invalDone id = true) : WaitEnds s h (.invalidation id)
  | ordered : WaitEnds s h .ordered
  | fill : WaitEnds s h .fill
  | ticket : WaitEnds s h .twait
  | condition : WaitEnds s h .vwaitc
  | cask : WaitEnds s h .caskFull
  | copies : WaitEnds s h .copyQueue
  | codings : WaitEnds s h .codingQueue
  | packets n : WaitEnds s h (.txQueue n)

/-- A hart without what a pre-emption inside a `MOPA` may have changed: the wait it drops, and the groups it performed. -/
def Hart.sansCut (h : Hart) : Hart :=
  { h with acc := Vector.replicate 4 none, ei := 0, fcsr := 0, icache := [], wait := none,
           sup := { h.sup with wait := none } }
/-- The device without what fetching the instruction of a hart that is stopped may change. -/
def State.sansCut (s : State) : State := { s.sansReads with tlb := [], walks := [], serves := [], choices := [] }

/-! ### Frames -/

/-- The quadwords of a gang's frame below its scratchpad: number, and what it holds (Tables 17-5, 12-2, 5-7). -/
inductive GangQuad (g : Gang) : Nat → Word → Prop where
  | head : GangQuad g 0 (word ((g.hn - 1) * 2 ^ 16 + g.spsize / 1024))
  | barrier (n : Fin 32) (h : n.val < 8 * g.hn) : GangQuad g (8 + 4 * n.val)
      (word ((if (g.bars[n]).init = true then 2 ^ 63 else 0) + (g.bars[n]).exp * 2 ^ 16 + (g.bars[n]).cnt))
  | phases (n : Fin 32) (h : n.val < 8 * g.hn) : GangQuad g (9 + 4 * n.val) ((g.bars[n]).ph.setWidth 64)
  | expected (n : Fin 32) (h : n.val < 8 * g.hn) : GangQuad g (10 + 4 * n.val) (word (g.bars[n]).expb)
  | pending (n : Fin 32) (h : n.val < 8 * g.hn) : GangQuad g (11 + 4 * n.val)
      (word ((g.bars[n]).pend % 2 ^ 56).toNat)
  | noBarrier (n : Fin 32) (j : Fin 4) (h : 8 * g.hn ≤ n.val) : GangQuad g (8 + 4 * n.val + j.val) 0
  | config (r : Fin 8) (h : r.val < 2 * g.hn) (hc : (g.rings[r]).cfg = true) : GangQuad g (512 + 64 * r.val) (g.rings[r]).word
  | counts (r : Fin 8) (h : r.val < 2 * g.hn) (hc : (g.rings[r]).cfg = true) : GangQuad g (513 + 64 * r.val)
      (word ((g.rings[r]).fill.toNat * 2 ^ 32 + (g.rings[r]).iss.toNat))
  | drained (r : Fin 8) (h : r.val < 2 * g.hn) (hc : (g.rings[r]).cfg = true) : GangQuad g (514 + 64 * r.val)
      ((g.rings[r]).drn.setWidth 64)
  | stage (r : Fin 8) (k : Fin 16) (h : r.val < 2 * g.hn) (hc : (g.rings[r]).cfg = true) :
      GangQuad g (516 + 64 * r.val + 2 * k.val)
        (word ((if ((g.rings[r]).stages[k]).cmt = true then 2 ^ 63 else 0) + (((g.rings[r]).stages[k]).pend % 2 ^ 56).toNat))
  | releases (r : Fin 8) (k : Fin 16) (h : r.val < 2 * g.hn) (hc : (g.rings[r]).cfg = true) :
      GangQuad g (517 + 64 * r.val + 2 * k.val) (word ((g.rings[r]).stages[k]).rel)
  | noRing (r : Fin 8) (j : Fin 64) (h : 2 * g.hn ≤ r.val ∨ (g.rings[r]).cfg = false) : GangQuad g (512 + 64 * r.val + j.val) 0
  | reserved k (h : 1 ≤ k ∧ k < 8 ∨ 136 ≤ k ∧ k < 512) : GangQuad g k 0
  | ringReserved (r : Fin 8) (j : Fin 64) (h : j.val = 3 ∨ 36 ≤ j.val) : GangQuad g (512 + 64 * r.val + j.val) 0
/-- The frames of a gang and of its harts lie apart, in groups that have not failed. -/
structure FramesApart (s : State) (g : Gang) (hs : List Nat) (f : Nat) : Prop where
  gang : ∀ r : Fin 4, r.val < g.hn →
    hs.getD r.val 0 + 131072 ≤ f ∨ f + 8192 + g.spsize ≤ hs.getD r.val 0
  harts : ∀ r q : Fin 4, r.val < g.hn → q.val < g.hn → r ≠ q →
    hs.getD r.val 0 + 131072 ≤ hs.getD q.val 0 ∨ hs.getD q.val 0 + 131072 ≤ hs.getD r.val 0
  groups : ∀ a, s.groupFailed a = false
/-- Where entry k of a function's fault queue lies (R377). -/
def Func.entryLoc (f : Func) (k : BitVec 32) : Loc :=
  { kind := .dev, pa := f.fqb.toNat * 4096 + 320 * (k.toNat % 2 ^ f.fqn.toNat) }

/-! ### Registers of BAR0 -/

/-- What the host reads at an offset of a function's BAR0 (R4, R6, Tables 16-4, 18-2 to 18-9): a register that software
reads, zero for one that is write-only, at a misaligned offset, beyond a virtual function's registers, and for a port that
the partition does not hold. -/
inductive RegisterValue (s : State) (p : Fin 3) : Fin 64 → Nat → Word → Prop where
  | launchTail vf : RegisterValue s p vf 0x1000 ((s.func p vf).ltail.setWidth 64)
  | launchHead vf : RegisterValue s p vf 0x1008 ((s.func p vf).lhead.setWidth 64)
  | launchError vf : RegisterValue s p vf 0x1010 (if (s.func p vf).lerr then 1 else 0)
  | busy vf : RegisterValue s p vf 0x1308 (if (s.func p vf).ibusy.isSome then 1 else 0)
  | queueTail vf : RegisterValue s p vf 0x1408 ((s.func p vf).fqt.setWidth 64)
  | configError vf : RegisterValue s p vf 0x1510 ((s.func p vf).cerr.setWidth 64)
  | writeOnly vf off (h : off = 0x1420 ∨ off = 0x1500) : RegisterValue s p vf off 0
  | misaligned vf off (h : off % 8 ≠ 0) : RegisterValue s p vf off 0
  | virtual_ vf off (hv : vf ≠ 0) (h : 0x10000 ≤ off) : RegisterValue s p vf off 0
  | refusedMessages : RegisterValue s p 0 0x110010 (s.prt p).rmcnt
  | drops : RegisterValue s p 0 0x110018 (word ((s.prt p).dropPosts.toNat * 2 ^ 32 + (s.prt p).dropRecs.toNat))
  | twinDrops : RegisterValue s p 0 0x110028 (s.prt p).twdrop
  | time : RegisterValue s p 0 0x200000 (word s.dtime)
  | timeWriteOnly off (h : off = 0x200008 ∨ off = 0x200018) : RegisterValue s p 0 off 0
  | counter (n : Fin 8) (k : Fin 15) (h : bit (s.prt p).cap1 (40 + n.val) = true) :
      RegisterValue s p 0 (0x400100 + 0x10000 * n.val + 8 * k.val) (s.ports[n]).cnt[k]
  | otherPort (n : Fin 8) off (ho : off < 0x10000) (h : bit (s.prt p).cap1 (40 + n.val) = false) :
      RegisterValue s p 0 (0x400000 + 0x10000 * n.val + off) 0

/-! ### Hearth calls -/

/-- The firmware can take a call with number n of the hart's supervisor thread (R324, R328). -/
structure CallReady (s : State) (h : HartId) (n : Nat) (c : Call) : Prop where
  call : s.call? h = some c
  number : c.n = n
  waiting : c.taken = false
  steady : (s.prt (s.gang h.gang).p).switch = none
  first : ∀ d ∈ s.calls (s.gang h.gang).p, d.taken = true ∨ c.seq ≤ d.seq
  room : ((s.calls (s.gang h.gang).p).filter Call.taken).length < 256
/-- A call was answered: the thread goes on behind it, with the results `rs` in its registers, and nothing else changed
but what `es` hides (R324). -/
structure Answered (es : State → State) (s t : State) (h : HartId) (rs : Fin 32 → Option Word) : Prop where
  running : (t.hart h).sup.st = .running
  call : (t.hart h).sup.call = none
  pc : (t.hart h).sup.pc = (s.hart h).sup.pc + 8
  regs : ∀ r, (t.hart h).sup.g[r] = (rs r).getD (s.hart h).sup.g[r]
  frame : Frame (fun x => (x.sansWait.sansCache).sansG true) hideNone hideNone es (s.at_ h) (t.at_ h)
  memory : ∀ l, t.byteAt l = s.byteAt l
/-- A status in `g1`. -/
def statusIs (v : Word) : Fin 32 → Option Word := fun r => if r = 1 then some v else none

/-! ### Jobs -/

/-- A job was abandoned (R344): it is Abandoning with the status and time it will end with, nothing of it waits for
placement, and each of its gangs has stopped with every hart ended or voided. -/
structure Abandons (t : State) (p : Fin 3) (job : Nat) (status : JobStatus) (endAt : Nat) : Prop where
  entry : ∃ j, t.job? p job = some j ∧ j.st = .abandoning ∧ j.ending = status ∧ j.endAt = some endAt ∧ j.ready = false
  gangs : ∀ g ∈ t.gangs, g.p = p → g.job = job → g.phase = .over ∧ ∀ r : Fin 4, g.harts[r].st = .ended ∨ g.harts[r].st = .voided
  entries : ∀ e ∈ t.entries, ¬ (e.p = p ∧ e.job = job)
/-- A job entered the device (R329). -/
structure Launched (s t : State) (p : Fin 3) (vf : Fin 64) (r : LaunchRec) (src : Source) (pin : Option (Nat × Nat)) :
    Prop where
  jobs : ∃ j, t.jobs = s.jobs ++ [j] ∧ j.id = (s.prt p).nextJob ∧ j.p = p ∧ j.vf = vf ∧ j.parent = 0 ∧ j.rcd = r ∧
    j.source = src ∧ j.pin = pin ∧ j.st = .accepted ∧ j.cause = none ∧ j.nextGang = 0 ∧ j.spawnKey = none
  number : (t.prt p).nextJob = (s.prt p).nextJob + 1
  rest : { t with jobs := [], parts := s.parts } = { s with jobs := [] }
/-- The completion record of a job, or no record where its address is 0, has been written, and no other byte of memory
(R343). -/
def RecordWritten (s t : State) (p : Fin 3) (vf : Fin 64) (crec : Nat) (qs : List Nat) : Prop :=
  (crec = 0 → ∀ l, t.byteAt l = s.byteAt l) ∧
  (crec ≠ 0 → ∀ l, s.walk p vf crec = .ok l → s.leafCheck p false .write l crec (crec + 31) = none → l.pin.kind = .dev →
    s.groupFailed (l.pin.loc crec).pa = false →
    ∀ m, t.byteAt m = putAt s.byteAt (l.pin.loc crec) (qs.flatMap fun q => bytesOfNat 8 q) m)
/-- The record that a channel's message launches (Table 16-3). -/
inductive MessageRecord (s : State) (t : TaskEntry) (m : Msg) : LaunchRec → Prop where
  | plain (h : t.pmode = 0) (hd : 0 ≤ t.doff.toInt) : MessageRecord s t m
      { t.tmpl with q3 := if t.doff = 0 then 0 else word (m.at_ + t.doff.toNat), q7 := word m.poster }
  | args (h : t.pmode = 1) (hd : 0 ≤ t.doff.toInt) : MessageRecord s t m
      { t.tmpl with q1 := m.payload, q3 := if t.doff = 0 then 0 else word (m.at_ + t.doff.toNat), q7 := word m.poster }
  | vintage (h : t.pmode = 2) (hr : m.payload.toNat < 2 ^ 40) (hv : vintOk m.payload.toNat = true) : MessageRecord s t m
      { t.tmpl with q3 := BitVec.ofInt 64 (s.symbolTime m.payload.toNat 0 + t.doff.toInt), q4 := m.payload,
                    q7 := word m.poster }

/-! ### Errors and links -/

/-- An event entered the error log (R404): the newest entry has these fields, and the count of events went up. -/
def Logged (s t : State) (source : BitVec 8) (unit : Nat) (p : Option (Fin 3)) (corrected : Bool) : Prop :=
  (∃ e, t.errLog.getLast? = some e ∧ e.source = source ∧ e.unit = BitVec.ofNat 16 unit ∧ e.p = p ∧
    e.corrected = corrected ∧ e.time = s.dtime) ∧ t.errHead = s.errHead + 1 ∧ t.errLog.length ≤ max 64 s.errLog.length
/-! ### SPDM -/

/-- The requests of R409 but `GET_VERSION` and `NEGOTIATE_ALGORITHMS`: connection, number in R409's list, and what the
response is formed from beside the negotiated version. -/
inductive SpdmRequest (s : State) : Instr → SpdmPort → Nat → List Nat → Prop where
  | capabilities v : SpdmRequest s (.getCapabilities v) v 1 []
  | digests v : SpdmRequest s (.getDigests v) v 3 [(s.bootImage.map Image.digest).getD 0]
  | certificate v slot off len : SpdmRequest s (.getCertificate v slot off len) v 4
      [slot.toNat, off.toNat, len.toNat, (s.bootImage.map Image.digest).getD 0]
  | challenge v slot nonce : SpdmRequest s (.challenge v slot nonce) v 5 ([slot.toNat, nonce.toNat] ++ s.measurements)
  | measure v index sign nonce : SpdmRequest s (.getMeasurements v index sign nonce) v 6
      ([index.toNat, if sign then 1 else 0, nonce.toNat] ++ s.measurements)

end Sys2Proof.Machine
end

