-- ==== Sys2Proof/Certificates/Slice0/Obligations.lean ====
section
/-!
DEFINITION. The statements for the provers, about the machine of `Sys2Proof.Machine`: encoding and steps, scalar
instructions, traps and control registers, memory, system instructions, vectors and tiles, engines, and the steps of the
device's other agents.
-/

set_option Elab.async false

open Sys2Proof Sys2Proof.Machine

/-! ### Encodings, steps and reset -/

/-- R153, R158, Table 8-3: worked encodings of the spec decode to the instructions that they stand for. -/
def Obligations.WorkedEncodingsDecode : Prop :=
  decodeWord 0x0602480FFFFF24A8 = some (.li (some 9) (BitVec.ofInt 36 (-56152))) ∧
  decodeWord 0x080248000714010F = some (.lih (some 9) 0x714010F) ∧
  decodeWord 0x3002480000000030 = some (.csrr (some 9) 0x030) ∧
  decodeWord 0x3C024C4000000000 = some (.splock (some 9) (some 4)) ∧
  decodeWord 0x2A00000000000000 = some .nop

/-- R153 to R165: decoding the word of a well-formed instruction gives the instruction back, with every operand at every
value that its field admits. -/
def Obligations.DecodeInvertsEncode : Prop :=
  ∀ i : Instr, i.wf = true → Instr.isStep i = false → decodeWord (encode i) = some i

/-- R153, R165: each word stands for at most one instruction, whose word it is; so two different well-formed
instructions never share a word, and a word with a reserved field that is not 0 decodes to nothing. -/
def Obligations.DecodedWordsEncodeBack : Prop :=
  (∀ (w : BitVec 64) (i : Instr), decodeWord w = some i → i.wf = true ∧ encode i = w) ∧
  ∀ i j : Instr, i.wf = true → j.wf = true → Instr.isStep i = false → Instr.isStep j = false → encode i = encode j → i = j

/-- R24, R155, R165: with no event due and nothing on the agenda, a step runs the instruction that the word at the
program counter decodes to.
How a step follows the agenda is the model's choice (log entry 1). -/
def Obligations.StepRunsTheDecodedInstruction : Prop :=
  ∀ (s u t : State) (w : Word) (i : Instr), u = s.tick → u.tickDue = false → u.agenda = [] → u.duty = .instr →
    u.fetch = (.ok w, t) → decodeWord w = some i → t.unfilled i = false → step s = exec i t

/-- R165, R316: a word that is no instruction raises ILLEGAL, with the opcode of the word.
R155, R316: a fetch that cannot be translated raises its cause with the address of the PC and the detail of a
fetch; OP is 0, since there is no word, and the element index stays as it is (the model's reading, log entry 17). -/
def Obligations.FetchesThatFailTrap : Prop :=
  (∀ (s u t : State) (w : Word), u = s.tick → u.tickDue = false → u.agenda = [] → u.duty = .instr →
     u.fetch = (.ok w, t) → decodeWord w = none → t.live → t.atS = false → t.me.sup.svec ≠ 0 →
     ∃ v, step s = .next v ∧ TrapEntry t v (w.toNat / 2 ^ 57) 0x01 0 0 t.me.pc 0 0) ∧
  (∀ (s u : State) (c : Cause), u = s.tick → u.tickDue = false → u.agenda = [] → u.duty = .instr → u.choices = [] →
     (u.translate .fetch u.pcv).1 = .error c → u.live → u.atS = false → u.me.sup.svec ≠ 0 → u.me.ei < 128 →
     ∃ v, step s = .next v ∧
       TrapEntryBut (if c = .poison then State.sansReads else hideNone) u v 0 c.code 2 0 u.me.pc u.me.ei u.me.pc)

/-- R359 to R361: a user access to a mapped byte reaches the physical byte of its page, and needs the page's
permission, a page that is not SUP, and, in device memory, a granted channel group. That the group tested is that of
the byte accessed, and not that of the leaf's PA, is the model's reading (log entry 16). Accesses of supervisor
threads are left out. -/
def Obligations.TranslationChecksTheLeaf : Prop :=
  ∀ (s : State) (u : Use) (va : Word) (l : Leaf), s.choices = [] → s.atS = false →
    s.walk s.myGang.p s.myVf va.toNat = .ok l →
    let allowed := (match u with | .read => l.pin.r | .write => l.pin.w | .fetch => l.x) = true ∧ l.sup = false ∧
      (l.pin.kind = .dev → s.granted s.myGang.p (l.pin.pa + (va.toNat - l.pin.va)) = true)
    (allowed → (s.translate u va).1 = .ok ({ kind := l.pin.kind, pa := l.pin.pa + (va.toNat - l.pin.va) }, l.pin)) ∧
    (¬ allowed → (s.translate u va).1 = .error .prot)

/-- R391, R410, Tables 16-4 and 18-5: after reset every partition is Off, PRETH and BEDIV and the MTU of every port hold
the values of the tables, and device memory reads as zero everywhere. No gang, job, entry, copy, command, record, cached
translation or sweep exists, since nothing has run yet.
The canonical form of memory holds after reset.
Registers without a reset value in the spec hold the values that log entries 3 to 9 name; this statement says nothing
of them. -/
def Obligations.ResetLeavesTheDeviceEmpty : Prop :=
  (State.reset.gangs = [] ∧ State.reset.jobs = [] ∧ State.reset.entries = [] ∧ State.reset.copies = [] ∧
   State.reset.codings = [] ∧ State.reset.txs = [] ∧ State.reset.tlb = [] ∧
   (∀ p : Fin 3, (State.reset.prt p).st = .off ∧ (State.reset.prt p).preth = 50000 ∧ (State.reset.prt p).bediv = 2) ∧
   (∀ n : Fin 8, State.reset.ports[n].mtu = 1518) ∧ (∀ c : Fin 4, State.reset.sweeps[c].st = .free) ∧
   ∀ a, State.reset.byteAt { kind := .dev, pa := a } = 0) ∧
  (State.reset.memWf ∧ State.reset.spWf)

/-- Every step keeps every memory in its canonical form, so equal memories are equal data.
The canonical form is the model's own (the choice of log entry 9). -/
def Obligations.StepsKeepMemoryCanonical : Prop :=
  ∀ s t : State, s.memWf ∧ s.spWf → step s = .next t → t.memWf ∧ t.spWf

/-! ### Scalar instructions -/

/-- R174 to R177, R186, Table 8-1: the integer instructions write their result, raise no flag, and retire; nothing else
changes. -/
def Obligations.IntegerInstructionsWriteTheirResult : Prop :=
  ∀ (s : State) (i : Instr) (d : GOp) (v : Word), IntegerOp s i d v → s.live →
    ∃ t, exec i s = .next t ∧ RegStep s t d v 0 (s.pcv + 8)

/-- R175: DIV and REM never trap and set no flag: DIV by 0 gives all ones, REM by 0 the dividend, and the
most negative number divided by −1 itself, with remainder 0. -/
def Obligations.DivisionNeverTraps : Prop :=
  ∀ (s : State) (u : Bool) (d a b : GOp), s.live →
    (s.rg b = 0 →
      (∃ t, exec (.div u d a b) s = .next t ∧ RegStep s t d 0xFFFFFFFFFFFFFFFF 0 (s.pcv + 8)) ∧
      ∃ t, exec (.rem u d a b) s = .next t ∧ RegStep s t d (s.rg a) 0 (s.pcv + 8)) ∧
    (s.rg a = 0x8000000000000000 → s.rg b = 0xFFFFFFFFFFFFFFFF →
      (∃ t, exec (.div false d a b) s = .next t ∧ RegStep s t d 0x8000000000000000 0 (s.pcv + 8)) ∧
      ∃ t, exec (.rem false d a b) s = .next t ∧ RegStep s t d 0 0 (s.pcv + 8)) ∧
    (∃ t v, exec (.div u d a b) s = .next t ∧ RegStep s t d v 0 (s.pcv + 8)) ∧
    ∃ t v, exec (.rem u d a b) s = .next t ∧ RegStep s t d v 0 (s.pcv + 8)

/-- R178, Tables 8-4 and 8-5: the scalar floating-point instructions form their result exactly, round it once, and OR
their flags into `fcsr`. -/
def Obligations.FloatInstructionsRoundOnce : Prop :=
  ∀ (s : State) (i : Instr) (d : GOp) (r : Nat × Flags), FloatOp s i d r → s.live →
    ∃ t, exec i s = .next t ∧ RegStep s t d (word r.1) r.2 (s.pcv + 8)

/-- R154, R184, R185, Table 8-7: the transfers write their link or count and go to their target or to the next word. -/
def Obligations.TransfersGoToTheirTarget : Prop :=
  ∀ (s : State) (i : Instr) (d : GOp) (v pc : Word), JumpOp s i d v pc → s.live →
    ∃ t, exec i s = .next t ∧ RegStep s t d v 0 pc

/-! ### Traps and control registers -/

/-- R189, R190, R307, R315, R316: what a user hart raises enters its supervisor thread, with the saved registers set as
Table 15-4 says; `SVC` saves the address after it, and every other trap that of the instruction.
R308, R32: with no supervisor image, what would trap kills the hart: with ILLEGAL for `SVC`, else with its own
cause. That an `svec` which a handler wrote as 0 counts as no supervisor image is the model's reading, since R308 speaks
of a function without one only (log entry 59). -/
def Obligations.TrapsEnterTheSupervisorOrKill : Prop :=
  (∀ (s : State) (i : Instr) (op c d : Nat) (epc : Word), UserTrapOp s i op c d epc → s.live → s.atS = false →
     s.me.sup.svec ≠ 0 → ∃ t, exec i s = .next t ∧ TrapEntry s t op c d 0 epc 0 0) ∧
  (∀ (s : State) (i : Instr) (op c d : Nat) (epc : Word), UserTrapOp s i op c d epc → s.live → s.atS = false →
     s.me.sup.svec = 0 → s.me.over = false → s.me.stores = [] →
     ∃ t, exec i s = .next t ∧ Killed s t (if op = 0x19 then 0x01 else c))

/-- R310, R315, Table 15-2: an instruction that the supervisor thread may not execute, or a `BM` that names a mask
register there, kills its user hart with ILLEGAL.
R190: `TRAPI` in the supervisor thread kills the user hart with BREAK.
R248, R291: `TSEAL`, `TWAIT`, `JSPAWN`, and a generic store or atomic with a ticket, kill it with TICKET there. -/
def Obligations.SupervisorMayNotRunUserInstructions : Prop :=
  (∀ (s : State) (i : Instr), SupIllegalOp i → s.live → s.atS = true → s.me.stores = [] →
    ∃ t, exec i s = .next t ∧ Killed s t 0x01) ∧
  (∀ (s : State) (n : BitVec 16), s.live → s.atS = true → s.me.stores = [] →
    ∃ t, exec (.trapi n) s = .next t ∧ Killed s t 0x14) ∧
  (∀ (s : State) (i : Instr), SupTicketOp i → s.live → s.atS = true → s.me.stores = [] →
    ∃ t, exec i s = .next t ∧ Killed s t 0x10)

/-- R187, Tables 3-6, 15-3, 15-5: `CSRR` returns the value of its register.
R64, R66, R187, R313, R318: a write of a writable register stores what its bits allow, returns the old value, and
changes no other register.
R66, R188: a write of a register that cannot be written raises ILLEGAL, and one of `vl` above 128 BADVL; in the
supervisor thread they kill the user hart with these causes (R315). -/
def Obligations.ControlRegistersAreReadAndWritten : Prop :=
  (∀ (s : State) (d : GOp) (num : BitVec 12) (v : Word), CsrValue s num.toNat v → s.live →
     ∃ t, exec (.csrr d num) s = .next t ∧ RegStep s t d v 0 (s.pcv + 8)) ∧
  (∀ (s : State) (i : Instr) (n : Nat) (d : GOp) (old w v : Word), CsrUpdateOp s old i n d w → s.live →
     s.csrRead n = .ok old → s.csrStored n old w = some v →
     ∃ t, exec i s = .next t ∧ t.csrRead n = .ok v ∧ (∀ r, t.rg (some r) = if d = some r then old else s.rg (some r)) ∧
       (∀ m, m ≠ n → (s.atS = false → m ≠ 1) → t.csrRead m = s.csrRead m) ∧
       t.pcv = s.pcv + 8 ∧ t.atS = s.atS ∧ (∀ l, t.byteAt l = s.byteAt l) ∧
       Machine.Frame Hart.sansCsr hideNone hideNone hideNone s t) ∧
  (∀ (s : State) (i : Instr) (n : Nat) (d : GOp) (old w : Word), CsrUpdateOp s old i n d w → s.live → s.atS = false →
     s.me.sup.svec ≠ 0 → s.csrRead n = .ok old → s.me.vl ≤ 128 →
     (3 ≤ n ∨ n = 2 ∧ (bits w 2 0 = 0 ∨ 6 ≤ bits w 2 0) →
       ∃ t, exec i s = .next t ∧ TrapEntry s t 0x18 0x01 0 0 s.me.pc 0 0) ∧
     (n = 0 → 128 < w.toNat → ∃ t, exec i s = .next t ∧ TrapEntry s t 0x18 0x05 s.me.vl 0 s.me.pc 0 0)) ∧
  (∀ (s : State) (i : Instr) (n : Nat) (d : GOp) (old w : Word), CsrUpdateOp s old i n d w → s.live → s.atS = true →
     s.me.stores = [] → s.csrRead n = .ok old →
     (3 ≤ n ∧ n < 0xC0 ∨ n = 2 ∧ (bits w 2 0 = 0 ∨ 6 ≤ bits w 2 0) → ∃ t, exec i s = .next t ∧ Killed s t 0x01) ∧
     (n = 0 → 128 < w.toNat → ∃ t, exec i s = .next t ∧ Killed s t 0x05))

/-! ### Scalar memory -/

/-- R179, R180: a generic load that passes its checks writes the bytes of its place, extended by SX, and stores nothing;
it meets none of its own ordered operations in the commit buffer, for which it would wait.
R179, R110 to R113: a scratchpad load that meets its conditions reads the plain address that its place stands for. -/
def Obligations.LoadsWriteTheirRegister : Prop :=
  (∀ (s : State) (q : LdSt) (d a : GOp) (l : Loc) (pin : Pin), s.live → s.calm → q.sp = false →
     s.reaches .read (LdSt.ea q (s.rg a)) (2 ^ q.size.val) l pin → s.readPoison l (2 ^ q.size.val) = false →
     s.waitsOwn false (releases q.ord) [(l, 2 ^ q.size.val)] = false →
     ∃ t, exec (.ld q d a) s = .next t ∧
       RegsStep Hart.sansCache hideNone hideNone State.sansReads s t
         (oneReg d (extendN (2 ^ q.size.val) q.sx (natOfBytes (s.readHome l (2 ^ q.size.val))))) 0 (s.pcv + 8) s.byteAt ∧
       (l.kind = .io → t.out = s.out ++ [.ioRead l.pa (2 ^ q.size.val)])) ∧
  (∀ (s : State) (q : LdSt) (d a : GOp) (k : SpPlace), s.live → s.me.stores = [] → q.sp = true →
     s.myGang.spCheck .read (LdSt.ea q (s.rg a)) (2 ^ q.size.val) = .ok k → s.myGang.spStall false k = none →
     s.myGang.spPoisoned (s.myGang.spMap k) (2 ^ q.size.val) = false → s.waitsOwn false (releases q.ord) [] = false →
     ∃ t, exec (.ld q d a) s = .next t ∧
       RegsStep Hart.sansCache hideNone hideNone hideNone s t
         (oneReg d (extendN (2 ^ q.size.val) q.sx (natOfBytes (s.myGang.spRead (s.myGang.spMap k) (2 ^ q.size.val)))))
         0 (s.pcv + 8) s.byteAt)

/-- R179, R180: a generic store that takes no ticket, or whose ticket holds the right with nothing waiting before it,
writes the low bytes of its register at its place and no other byte; an IO store is a transaction.
R45: an ordered store that the hart had performed before it was restored is not performed again.
R179, R113: a scratchpad store writes the low bytes of its register at the plain address that its place stands for,
and no other byte of the gang's scratchpad; a poisoned word of which it writes all four bytes is poisoned no longer, and
every other one stays poisoned.
R401: no poisoned line of memory is cleared by a scalar store. -/
def Obligations.StoresWriteTheirBytesOnly : Prop :=
  (∀ (s : State) (q : LdSt) (d a : GOp) (l : Loc) (pin : Pin), s.live → s.memWf → s.calm → q.sp = false →
     s.ticketCheck q.t = none → s.myGang.diverged = false →
     (q.t = .no ∧ s.waitsOwn false (releases q.ord) [(l, 2 ^ q.size.val)] = false ∨
      q.t ≠ .no ∧ s.direct (q.t == .tt) = true) →
     s.reaches .write (LdSt.ea q (s.rg a)) (2 ^ q.size.val) l pin →
     (q.t = .no ∨ s.me.redo = [] → s.writeRefused l (2 ^ q.size.val) = false →
       ∃ t, exec (.st q d a) s = .next t ∧
         StepBut Hart.sansCache hideNone Gang.sansLog State.sansMem s t
           (s.bytesWith l (bytesOfNat (2 ^ q.size.val) (s.rg d).toNat)) ∧
         (∀ k, t.poisonOf k = s.poisonOf k) ∧
         (l.kind = .io → t.out = s.out ++ [.ioWrite l.pa (bytesOfNat (2 ^ q.size.val) (s.rg d).toNat)])) ∧
     ∀ v r, q.t ≠ .no → s.me.redo = v :: r →
       ∃ t, exec (.st q d a) s = .next t ∧ t.me.redo = r ∧
         StepBut (fun h => { h.sansCache with redo := [] }) hideNone hideNone hideNone s t s.byteAt) ∧
  (∀ (s : State) (q : LdSt) (d a : GOp) (k : SpPlace), s.live → s.me.stores = [] → Mem.wf s.myGang.sp = true →
     q.sp = true → s.myGang.diverged = false →
     s.myGang.spCheck .write (LdSt.ea q (s.rg a)) (2 ^ q.size.val) = .ok k → s.myGang.spStall true k = none →
     s.waitsOwn false (releases q.ord) [] = false →
     ∃ t, exec (.st q d a) s = .next t ∧
       StepBut Hart.sansCache hideNone Gang.sansSp hideNone s t s.byteAt ∧
       (∀ w, w ∈ t.myGang.spPoison ↔ w ∈ s.myGang.spPoison ∧
         ¬ (s.myGang.spMap k ≤ 4 * w ∧ 4 * w + 4 ≤ s.myGang.spMap k + 2 ^ q.size.val)) ∧
       ∀ x, Mem.get t.myGang.sp x =
         s.myGang.spWith (s.myGang.spMap k) (bytesOfNat (2 ^ q.size.val) (s.rg d).toNat) x)

/-- R181 to R183, Table 8-6: an atomic is one read-modify-write at its place, and its destination receives the old
value; a compare that fails writes nothing. -/
def Obligations.AtomicsReadModifyWrite : Prop :=
  ∀ (s : State) (i : Instr) (op : Nat) (x : MemX) (n : Nat) (d : GOp) (ea : Word) (ok : PageKind → Bool)
    (f : Nat → Option Nat) (o : OrdOp) (l : Loc) (pin : Pin), AtomOp s i op x n d ea ok f o →
    s.live → s.memWf → s.calm → s.ticketCheck x.t = none →
    (x.t = .no ∧ s.waitsOwn false (releases x.ord) [(l, n)] = false ∨
     x.t ≠ .no ∧ s.direct (x.t == .tt) = true ∧ s.me.redo = []) →
    s.myGang.diverged = false → s.reaches .write ea n l pin → ok l.kind = true → s.readPoison l n = false →
    s.writeRefused l n = false →
    ∃ t, exec i s = .next t ∧
      RegsStep Hart.sansCache hideNone Gang.sansLog State.sansMem s t (oldInto n x.sx d (natOfBytes (s.readHome l n))) 0
        (s.pcv + 8)
        (match f (natOfBytes (s.readHome l n)) with
         | some v => s.bytesWith l (bytesOfNat n v)
         | none => s.byteAt)

/-- R40, R180, R183: an ordered scalar operation without the right goes to the commit buffer as one entry. -/
def Obligations.OrderedScalarsWaitInTheCommitBuffer : Prop :=
  ∀ (s : State) (i : Instr) (op : Nat) (tk : Tick) (ord : MOrd) (ea : Word) (n : Nat) (ok : PageKind → Bool) (o : OrdOp)
    (f : Fill) (l : Loc) (pin : Pin), OrderedOp s i op tk ord ea n ok o f → s.live → s.calm → s.atS = false → tk ≠ .no →
    s.ticketCheck tk = none → (∀ b, s.hasRight s.myJob (s.ticket s.cur) b = false) → s.myGang.diverged = false →
    s.reaches .write ea n l pin → ok l.kind = true → s.commitUsed s.myGang.core < 1024 →
    ∃ t, exec i s = .next t ∧ Buffered s t (tk == .tt) (acquires ord) { e := 0, loc := l, n := n, op := o } f pin

/-- R179, R316: a scalar access to generic space that offends traps with the first cause in the order of R179.
R181, R182, Table 5-1: an atomic on a page whose kind refuses it raises ATOMSPACE, and one whose location is poisoned,
unordered or with the commit right, raises POISON and writes nothing. -/
def Obligations.BadScalarAccessesTrap : Prop :=
  (∀ (s : State) (i : Instr) (op n : Nat) (u : Use) (ea : Word) (c : Cause), ScalarAccess s i op u ea n →
    s.live → s.calm → s.atS = false → s.me.sup.svec ≠ 0 → BadAccess s u ea n c →
    ∃ t, exec i s = .next t ∧
      TrapEntryBut (if c = .poison then State.sansReads else hideNone) s t op c.code (if u = .write then 1 else 0) 0 s.me.pc
        0 ea) ∧
  (∀ (s : State) (i : Instr) (op : Nat) (x : MemX) (n : Nat) (d : GOp) (ea : Word) (ok : PageKind → Bool)
    (f : Nat → Option Nat) (o : OrdOp) (l : Loc) (pin : Pin), AtomOp s i op x n d ea ok f o → s.live → s.calm →
    s.atS = false → s.me.sup.svec ≠ 0 → s.ticketCheck x.t = none → s.reaches .write ea n l pin →
    (ok l.kind = false → ∃ t, exec i s = .next t ∧ TrapEntry s t op 0x13 1 0 s.me.pc 0 ea) ∧
    (ok l.kind = true → s.myGang.diverged = false →
      x.t = .no ∧ s.waitsOwn false (releases x.ord) [(l, n)] = false ∨
        x.t ≠ .no ∧ s.direct (x.t == .tt) = true ∧ s.me.redo = [] →
      s.readPoison l n = true → ∃ t, exec i s = .next t ∧ TrapEntryBut State.sansReads s t op 0x0D 1 0 s.me.pc 0 ea))

/-! ### System instructions -/

/-- R139, R245, R134: a fence performs the hart's stores at their homes, oldest first (S to V, and all), invalidates its
scalar cache (V to S, and all), and retires; it changes nothing else.
R192: `WFE` of a hart whose event register is set clears it and retires. -/
def Obligations.FencesAndEventsAreConsumed : Prop :=
  (∀ (s u : State) (dir : FenceDir) (sc : Scope), s.live →
     u = (if dir = .sv ∨ dir = .all then
       s.me.stores.foldl (fun u b => u.writeHome s.myGang.p s.myGang.job b.loc b.bytes) s else s) →
     ∃ t, exec (.fence dir sc) s = .next t ∧
       t.me.stores = (if dir = .sv ∨ dir = .all then [] else s.me.stores) ∧
       t.me.cache = (if dir = .vs ∨ dir = .all then [] else s.me.cache) ∧
       StepBut (fun h => { h.sansCache with stores := [] }) hideNone hideNone hideNone u t u.byteAt) ∧
  (∀ (s : State) (a : GOp), s.live → s.atS = false → s.me.evt = true →
     ∃ t, exec (.wfe a) s = .next t ∧ t.me.evt = false ∧
       StepBut Hart.sansEvt hideNone hideNone hideNone s t s.byteAt)

/-- R25, R125: an instruction that finds nothing to go on with blocks its thread, with no effect. That a load which
overlaps the hart's own buffered ordered operation blocks until that is performed is the model's choice, since the spec lets
an agent read such a value early (log entry 52). -/
def Obligations.WaitingInstructionsBlock : Prop :=
  ∀ (s : State) (i : Instr) (op : Nat) (w : WaitFor) (ends : Option Nat) (addr : Word), WaitOp s i op w ends addr →
    s.live → (if s.atS then s.me.sup.wait else s.me.wait) = none →
    ∃ t, exec i s = .next t ∧ Blocks s t op w ends addr

/-- R194: `SPLOCK` of a free lock word writes the thread's own value, counts the lock, invalidates the scalar cache and
returns 0; of a taken one, it returns what the word holds and changes nothing else.
R195: `SPUNLOCK` of a lock of its own writes 0, uncounts the lock, and sets the event registers of the gang; of a
lock that is not its own, it raises PROT, whose DETAIL 1 is the model's reading (log entry 17). -/
def Obligations.LocksAreTakenOnceAndReleased : Prop :=
  (∀ (s : State) (d a : GOp), s.live → Mem.wf s.myGang.sp = true → (s.rg a).toNat < s.myGang.spsize →
     (s.rg a).toNat % 4 = 0 → s.myGang.spPoisoned (s.rg a).toNat 4 = false →
     (natOfBytes (s.myGang.spRead (s.rg a).toNat 4) ≠ 0 →
       ∃ t, exec (.splock d a) s = .next t ∧
         RegStep s t d (word (natOfBytes (s.myGang.spRead (s.rg a).toNat 4))) 0 (s.pcv + 8)) ∧
     (natOfBytes (s.myGang.spRead (s.rg a).toNat 4) = 0 → s.myGang.diverged = false →
       ∃ t, exec (.splock d a) s = .next t ∧
         RegsStep Hart.sansLocks hideNone Gang.sansSp hideNone s t (oneReg d 0) 0 (s.pcv + 8) s.byteAt ∧
         (∀ x, Mem.get t.myGang.sp x = s.myGang.spWith (s.rg a).toNat
           (bytesOfNat 4 ((if s.atS then 17 else 1) + s.cur.rank.val)) x) ∧
         t.me.cache = [] ∧
         (if s.atS then t.me.sup.locks = min 15 (s.me.sup.locks + 1) ∧ t.me.locks = s.me.locks
          else t.me.locks = min 15 (s.me.locks + 1) ∧ t.me.lockAddr = s.rg a ∧ t.me.sup.locks = s.me.sup.locks))) ∧
  (∀ (s : State) (a : GOp), s.live → Mem.wf s.myGang.sp = true → s.me.stores = [] →
     (s.rg a).toNat < s.myGang.spsize → (s.rg a).toNat % 4 = 0 → s.myGang.spPoisoned (s.rg a).toNat 4 = false →
     (natOfBytes (s.myGang.spRead (s.rg a).toNat 4) = (if s.atS then 17 else 1) + s.cur.rank.val →
       s.myGang.diverged = false →
       ∃ t, exec (.spunlock a) s = .next t ∧
         StepBut (fun h => h.sansLocks.sansEvt) Hart.sansEvt Gang.sansSp hideNone s t s.byteAt ∧
         (∀ x, Mem.get t.myGang.sp x = s.myGang.spWith (s.rg a).toNat (bytesOfNat 4 0) x) ∧
         (∀ r : Fin 4, t.myGang.harts[r].evt = true) ∧
         (if s.atS then t.me.sup.locks = s.me.sup.locks - 1 ∧ t.me.locks = s.me.locks
          else t.me.locks = s.me.locks - 1 ∧ t.me.sup.locks = s.me.sup.locks)) ∧
     (natOfBytes (s.myGang.spRead (s.rg a).toNat 4) ≠ (if s.atS then 17 else 1) + s.cur.rank.val →
       s.atS = false → s.me.sup.svec ≠ 0 →
       ∃ t, exec (.spunlock a) s = .next t ∧ TrapEntry s t 0x1E 0x0C 1 0 s.me.pc 0 (s.rg a)))

/-- R191, R319 to R323: `ERET` resumes the user hart at `sepc` and `sei`, with its event register set.
R324: `SVC` in the supervisor thread is a Hearth call, and the thread blocks for its answer; the call is numbered by a
counter of its partition, which goes up by 1 (the model's choice, log entry 26: the spec gives no number); one whose
number Hearth does not know is answered with status 1 in `g1` when its turn comes. -/
def Obligations.SupervisorReturnsAndCalls : Prop :=
  (∀ (s : State), s.live → s.atS = true → s.me.stores = [] →
     ∃ t, exec .eret s = .next t ∧ t.atS = false ∧ t.me.st = .running ∧ t.me.pc = s.me.sup.sepc ∧
       t.me.ei = s.me.sup.sei.toNat ∧ t.me.evt = true ∧ t.me.stepArm = s.me.sup.sstep ∧ t.me.bpExempt = true ∧
       t.me.sup.st = .idle ∧ t.me.sup.inh = false ∧ t.me.cache = [] ∧ (∀ l, t.byteAt l = s.byteAt l) ∧
       Machine.Frame Hart.sansReturn hideNone hideNone hideNone s t) ∧
  (∀ (s : State) (n : BitVec 16), s.live → s.atS = true → s.me.stores = [] →
     ∃ t, exec (.svc n) s = .next t ∧ t.me.sup.st = .blocked ∧
       t.me.sup.call = some { n := n.toNat, seq := (s.prt s.myGang.p).nextSeq, taken := false, ends := none } ∧
       t.pcv = s.pcv ∧ (t.prt s.myGang.p).nextSeq = (s.prt s.myGang.p).nextSeq + 1 ∧
       (∀ l, t.byteAt l = s.byteAt l) ∧
       Machine.Frame Hart.sansWait hideNone hideNone (fun u => u.modPart s.myGang.p fun q => { q with nextSeq := 0 }) s t) ∧
  (∀ (s : State) (h : HartId) (c : Call), CallReady s h c.n c → ¬ (1 ≤ c.n ∧ c.n ≤ 5) →
     ∃ t, exec (.blockedHartResume h) s = .next t ∧ Answered hideNone s t h (statusIs 1))

/-- R197: a `TLBINV` whose translations no token, engine or buffered operation holds performs the stores of the
partition's harts, which may have translated its pages, forgets the translations, and retires. -/
def Obligations.InvalidationForgetsTranslations : Prop :=
  ∀ (s : State) (kind : InvKind) (a b : GOp) (f : Fin 64) (i : Inval), s.live → s.atS = true → s.me.sup.wait = none → (s.rg b).toNat = f.val → (kind = .page → (s.rg a).toNat < 2 ^ 56) →
    i = { id := s.nextInval, p := s.myGang.p, vf := if kind = .every then none else some f,
          va := if kind = .page then some (s.rg a).toNat else none, since := s.dtime } →
    (∀ q ∈ s.allPins, i.covers q = false) → (∀ q ∈ s.allPins, s.nextInval ∉ q.mark) →
    (∀ j ∈ s.invals, j.id < s.nextInval) →
    ∃ t, exec (.tlbinv kind a b) s = .next t ∧ t.tlb = (s.tlb.filter fun l => !i.covers l.pin) ∧
      t.walks = (s.walks.filter fun b => !i.covers b.pin) ∧ t.pcv = s.pcv + 8 ∧
      (∀ g ∈ t.gangs, g.p = s.myGang.p → ∀ r : Fin 4, r.val < g.hn → g.harts[r].stores = []) ∧
      (∀ l, t.byteAt l = ((s.gangs.filter fun g => g.p == s.myGang.p).foldl State.drainGang s.release).byteAt l) ∧
      ((∀ g ∈ s.gangs, ∀ r : Fin 4, g.harts[r].stores = []) →
        StepBut hideNone hideNone hideNone (fun u => { u with tlb := [], walks := [], nextInval := 0 }) s t s.byteAt)

/-- R198: `VSAVE` writes the 129 quadwords of a save block, each on its page, and no other byte; `VREST` puts a block into
its register, the tag `none` too.
R45, R196: `CKPT` outside a PAIRED gang, or in the supervisor thread, only retires; in a PAIRED gang whose copies
agree it takes the recovery point, the gang's harts as they stand when it has retired. -/
def Obligations.SaveBlocksAndCheckpoints : Prop :=
  (∀ (s : State) (tk : Fin 8) (a : GOp) (vm : Fin 48) (at_ : Nat → Loc) (v : VReg), s.live → s.memWf → s.calm →
     s.atS = true → v = s.me.v[(⟨vm.val, by omega⟩ : Fin 60)] →
     (SaveAccess s tk (s.rg a) true at_ → s.myGang.diverged = false → (∀ k, k < 129 → s.writeRefused (at_ k) 8 = false) →
       ∃ t, exec (.vsave tk a vm) s = .next t ∧
         StepBut Hart.sansCache hideNone hideNone State.sansMem s t
           ((List.range 129).foldl (fun m k => putAt m (at_ k) (bytesOfNat 8 (saveQuad v k).toNat)) s.byteAt)) ∧
     (∀ w : VReg, SaveAccess s tk (s.rg a) false at_ → s.me.bound vm.val = none →
       (∀ k, k < 129 → (at_ k).kind ≠ .io ∧ s.readPoison (at_ k) 8 = false ∧
         numAt s.byteAt (at_ k) 8 = (saveQuad w k).toNat) →
       ∃ t, exec (.vrest tk vm a) s = .next t ∧
         (∀ k : Fin 60, t.me.v[k] = if k.val = vm.val then { el := w.el, tag := w.tag, vln := 128, dirty := true } else s.me.v[k]) ∧
         StepBut (fun h => { h.sansCache with v := Vector.replicate 60 VReg.empty, fillV := [] }) hideNone hideNone
           State.sansReads s t s.byteAt)) ∧
  (∀ (s : State), s.live →
     ((s.atS = true ∨ s.myJob.rcd.paired = false) →
       ∃ t, exec .ckpt s = .next t ∧ StepBut hideNone hideNone hideNone hideNone s t s.byteAt) ∧
     (s.atS = false → s.myJob.rcd.paired = true → s.myGang.diverged = false →
       ∃ t, exec .ckpt s = .next t ∧
         StepBut hideNone hideNone (fun g => { g with recov := none }) hideNone s t s.byteAt ∧
         t.myGang.recov = some { harts := t.myGang.harts, used := false, entry := s.nextEntry }))

/-- R38, R246: `TSEAL` seals the hart's ticket.
R43, R247: `TWAIT` on a lower ticket that the commit right has passed invalidates the scalar cache and retires; on the
hart's own ticket, or a higher one, it raises TICKET.
R39: after the ticket is sealed, an ordered scalar operation raises TICKET before any effect. -/
def Obligations.TicketsAreSealedAndAwaited : Prop :=
  (∀ (s : State) (j : Job), s.live → s.atS = false → s.job? s.myGang.p s.myGang.job = some j →
     ∃ t, exec .tseal s = .next t ∧ t.me.sealed = true ∧
       (∃ j', t.job? s.myGang.p s.myGang.job = some j' ∧ s.ticket s.cur ∈ j'.sealedT ∧
         { j' with sealedT := [] } = { j with sealedT := [] } ∧ ∀ k ∈ j.sealedT, k ∈ j'.sealedT) ∧
       StepBut (fun h => { h with sealed := false }) hideNone hideNone (fun u => { u with jobs := [] }) s t s.byteAt) ∧
  (∀ (s : State) (a b : GOp), s.live → s.atS = false → (s.rg a).toNat < s.ticket s.cur →
     s.passed s.myGang.p s.myGang.job (s.rg a).toNat = true →
     ∃ t, exec (.twait .tj a b) s = .next t ∧ t.me.cache = [] ∧
       StepBut Hart.sansCache hideNone hideNone hideNone s t s.byteAt) ∧
  (∀ (s : State) (a b : GOp), s.live → s.atS = false → s.me.sup.svec ≠ 0 → s.ticket s.cur ≤ (s.rg a).toNat →
     ∃ t, exec (.twait .tj a b) s = .next t ∧ TrapEntry s t 0x54 0x10 0 0 s.me.pc 0 0) ∧
  (∀ (s : State) (i : Instr) (op : Nat) (tk : Tick) (ord : MOrd) (ea : Word) (n : Nat) (ok : PageKind → Bool) (o : OrdOp)
     (f : Fill), OrderedOp s i op tk ord ea n ok o f → s.live → s.atS = false → s.me.sup.svec ≠ 0 → tk ≠ .no →
     s.me.sealed = true → ∃ t, exec i s = .next t ∧ TrapEntry s t op 0x10 0 0 s.me.pc 0 ea)

/-- R293: the channel instructions change their channel's entry and nothing else.
R106, R294: `ABUMP` takes bytes from an arena by one atomic on its header's NEXT, or returns 0 when they do not fit.
That it is performed on HOSTN and TWIN pages as well (log entry 36), and that the hart's S agent makes it, which waits
for its own ordered operations that it meets (log entries 52 and 53), are the model's choices. -/
def Obligations.ChannelsAndArenasChange : Prop :=
  (∀ (s : State) (i : Instr) (c : Fin 256) (f : TaskEntry → TaskEntry), ChannelOp s i c f → s.live → s.me.stores = [] →
     (s.prt s.myGang.p).tasks[c].valid = true → (s.prt s.myGang.p).tasks[c].perm.getLsbD s.myVf.val = true →
     ∃ t, exec i s = .next t ∧ (t.prt s.myGang.p).tasks[c] = f (s.prt s.myGang.p).tasks[c] ∧
       StepBut hideNone hideNone hideNone (State.sansTask s.myGang.p c) s t s.byteAt) ∧
  (∀ (s : State) (d a : GOp) (n : Fin 4) (al : BitVec 5) (l : Loc) (pin : Pin) (nx : Nat), s.live → s.memWf → s.calm →
     s.arena s.myJob n ≠ 0 → s.reaches .write (s.arena s.myJob n) 8 l pin → l.kind ≠ .io → s.readPoison l 16 = false →
     s.writeRefused l 8 = false → s.myGang.diverged = false → s.waitsOwn false false [(l, 16)] = false →
     nx = (natOfBytes (s.readHome l 8) + 2 ^ al.toNat - 1) / 2 ^ al.toNat * 2 ^ al.toNat →
     (nx + (s.rg a).toNat ≤ natOfBytes (s.readHome { l with pa := l.pa + 8 } 8) →
       ∃ t, exec (.abump d a n al) s = .next t ∧
         RegsStep Hart.sansCache hideNone hideNone State.sansMem s t (oneReg d (s.arena s.myJob n + word nx)) 0 (s.pcv + 8)
           (s.bytesWith l (bytesOfNat 8 (nx + (s.rg a).toNat)))) ∧
     (natOfBytes (s.readHome { l with pa := l.pa + 8 } 8) < nx + (s.rg a).toNat →
       ∃ t, exec (.abump d a n al) s = .next t ∧
         RegsStep Hart.sansCache hideNone hideNone State.sansMem s t (oneReg d 0) 0 (s.pcv + 8) s.byteAt))

/-- R29, R37, R291: an accepted `JSPAWN` launches a child of the hart's job, with the earlier deadline, the parent's
vintage and the parent's id, under the next key of the hart's ticket; its id is the result.
R26, R292: `JEND` ends the hart, releases its tokens at both levels, and seals its ticket. -/
def Obligations.HartsSpawnAndEnd : Prop :=
  (∀ (s : State) (d : GOp) (vm : Fin 48) (r : LaunchRec), s.live → s.atS = false → s.me.stores = [] → s.me.vl ≠ 0 →
     s.recUntyped vm = none → s.recType vm = none → s.me.sealed = false → s.myGang.diverged = false →
     r = (launchOf (s.record vm 8)).child s.myJob → r.refused true r.ddl = false →
     r.amask &&& (15 - s.myJob.rcd.amask) = 0 → s.admits s.myJob.p = true → r.cosched = false →
     ∃ t, exec (.jspawn d vm) s = .next t ∧ ∃ child, t.jobs = s.jobs ++ [child] ∧
       child.id = (s.prt s.myJob.p).nextJob ∧ child.p = s.myJob.p ∧ child.vf = s.myJob.vf ∧
       child.parent = s.myJob.id ∧ child.source = .spawn ∧ child.st = .accepted ∧ child.cause = none ∧
       child.rcd = { launchOf (s.record vm 8) with
         q3 := (let a := nth (s.record vm 8) 3
                let b := s.myJob.rcd.q3
                if b = 0 ∨ (a ≠ 0 ∧ a.toNat ≤ b.toNat) then a else b)
         q4 := word s.myJob.rcd.vint, q7 := word s.myJob.id } ∧
       child.spawnKey = some (s.ticket s.cur, s.nextSpawn s.myJob.p s.myJob.id (s.ticket s.cur)) ∧
       RegsStep hideNone hideNone hideNone State.sansJobs s t (oneReg d (word (s.prt s.myJob.p).nextJob)) 0 (s.pcv + 8)
         s.byteAt) ∧
  (∀ (s : State) (j : Job), s.live → s.atS = false → s.me.stores = [] → s.myGang.diverged = false →
     s.job? s.myGang.p s.myGang.job = some j →
     ∃ t, exec .jend s = .next t ∧ t.me.st = .ended ∧ t.me.sealed = true ∧ t.me.ei = 0 ∧ t.me.wait = none ∧
       (∀ k : Fin 8, t.me.tk[k] = Token.empty ∧ t.me.sup.tk[k] = Token.empty ∧ t.me.str[k] = Stream.empty) ∧
       (∃ j', t.job? s.myGang.p s.myGang.job = some j' ∧ s.ticket s.cur ∈ j'.sealedT) ∧
       (∀ l, t.byteAt l = s.byteAt l) ∧
       Machine.Frame Hart.sansEnd (fun h => { h with acc := Vector.replicate 4 none }) (fun g => { g with phase := .placed })
         (fun u => { u with jobs := [], sweeps := Vector.replicate 4 Sweep.empty }) s t)

/-- R276: `BINIT` starts a barrier that nothing refers to, at phase 0 for every hart of the gang.
R276: `BARRIVE` counts an arrival, and the last one, with no byte pending, completes the phase.
R276: `BEXPECT` adds bytes to those the phase waits for.
R275, R277, Table 12-3: `BWAIT` of a phase that is complete, and `BTEST`, consume one phase; `BTEST` returns the
barrier's state, and 0 for one that is not started.
R63, R276, R277: a barrier that the gang does not have, one not started, and a count or bytes out of range raise BARRIER.
That the release of `BARRIVE` completes beside the hart's own buffered ordered operations is the model's reading (log entry
47). -/
def Obligations.BarriersCountPhases : Prop :=
  (∀ (s : State) (n : Fin 32) (a b : GOp), s.live → n.val < 8 * s.myGang.hn → 1 ≤ (s.rg a).toNat →
     (s.rg a).toNat ≤ 65535 → (s.rg b).toNat < 2 ^ 55 → s.barRefs s.cur.gang n = false → s.myGang.waitsBar n = false →
     ∃ t, exec (.binit n a b) s = .next t ∧
       t.myGang.bars[n] = { init := true, ph := 0, cnt := 0, exp := (s.rg a).toNat, expb := (s.rg b).toNat,
                            pend := (s.rg b).toNat } ∧
       (∀ r : Fin 4, t.myGang.harts[r].wph[n] = 0) ∧
       StepBut (fun h => { h with wph := vput h.wph n 0 }) (fun h => { h with wph := vput h.wph n 0 }) (Gang.sansBar n)
         hideNone s t s.byteAt) ∧
  (∀ (s : State) (n : Fin 32), s.live → n.val < 8 * s.myGang.hn → s.myGang.bars[n].init = true →
     s.myGang.bars[n].cnt ≠ s.myGang.bars[n].exp → s.me.stores = [] → s.myGang.diverged = false →
     ∃ t, exec (.barrive n) s = .next t ∧
       BarStep hideNone s t n { s.myGang.bars[n] with cnt := s.myGang.bars[n].cnt + 1 }) ∧
  (∀ (s : State) (n : Fin 32) (a : GOp), s.live → n.val < 8 * s.myGang.hn → s.myGang.bars[n].init = true →
     (s.rg a).toNat < 2 ^ 55 → s.myGang.bars[n].pend + (s.rg a).toNat < 2 ^ 55 →
     ∃ t, exec (.bexpect n a) s = .next t ∧
       BarStep hideNone s t n { s.myGang.bars[n] with pend := s.myGang.bars[n].pend + (s.rg a).toNat }) ∧
  (∀ (s : State) (n : Fin 32) (d : GOp) (x : Barrier), s.live → n.val < 8 * s.myGang.hn → x = s.myGang.bars[n] →
     (x.init = true → aheadOf x.ph s.me.wph[n] →
       (∃ t, exec (.bwait n) s = .next t ∧ t.me.wph[n] = s.me.wph[n] + 1 ∧ t.me.cache = [] ∧
         StepBut (Hart.sansWph n) hideNone hideNone hideNone s t s.byteAt) ∧
       ∃ t, exec (.btest d n) s = .next t ∧ t.me.wph[n] = s.me.wph[n] + 1 ∧ t.me.cache = [] ∧
         RegsStep (Hart.sansWph n) hideNone hideNone hideNone s t
           (oneReg d (word (2 ^ 63 + 2 ^ 62 + x.cnt * 2 ^ 32 + x.ph.toNat))) 0 (s.pcv + 8) s.byteAt) ∧
     (x.init = true → ¬ aheadOf x.ph s.me.wph[n] →
       ∃ t, exec (.btest d n) s = .next t ∧
         RegStep s t d (word (2 ^ 62 + x.cnt * 2 ^ 32 + x.ph.toNat)) 0 (s.pcv + 8)) ∧
     (x.init = false → ∃ t, exec (.btest d n) s = .next t ∧ RegStep s t d 0 0 (s.pcv + 8))) ∧
  (∀ (s : State) (n : Fin 32) (i : Instr) (op : Nat), BarrierBad s n i op → s.live → s.atS = false → s.me.sup.svec ≠ 0 →
     ∃ t, exec i s = .next t ∧ TrapEntry s t op 0x0E n.val 0 s.me.pc 0 0)

/-- R120, R282: `RINGCFG` with a word that is not refused configures the ring, empty.
R121 to R124, R283: `RCOMMIT` issues a stage with its byte quota, `RRELEASE` counts a consumer's release of the
oldest stage, and `RWAIT` of a ring that is not empty retires.
R284: `RSTAT` reads a ring's counters and its configuration, and 0 for a ring that is not configured.
R193: a change of FILL or DRN sets the event registers of the gang; that the reset of the counters by `RINGCFG` is such a
change is the model's reading (log entry 20).
R63, R283: a ring that the gang does not have, one not configured or in error, a refused configuration, a quota that does
not suit the ring's kind, and the release of an empty ring raise RING.
That the releases of `RCOMMIT` and `RRELEASE` complete beside the hart's own buffered ordered operations is the model's
reading (log entry 47). -/
def Obligations.RingsMoveTheirStages : Prop :=
  (∀ (s : State) (r : Fin 8) (a : GOp), s.live → s.atS = false → r.val < 2 * s.myGang.hn →
     s.ringRefused r (s.rg a) = false →
     ∃ t, exec (.ringcfg r a) s = .next t ∧
       RingStep s t r { cfg := true, base := bits (s.rg a) 20 0, size := 128 * (bits (s.rg a) 29 21 + 1),
                        n := bits (s.rg a) 33 30 + 1, c := bits (s.rg a) 37 34 + 1,
                        kind := (s.rg a).extractLsb' 38 2, iss := 0, fill := 0, drn := 0, err := false,
                        stages := Vector.replicate 16 Stage.empty, lk := none }) ∧
  (∀ (s : State) (r : Fin 8) (a : GOp) (q : Ring), s.live → s.atS = false → s.ringLive r → q = s.myGang.rings[r] →
     (q.kind = 1 ∨ q.kind = 0 ∧ s.rg a = 0 → (s.rg a).toNat < 2 ^ 55 → (q.iss - q.drn).toNat < q.n →
       s.myGang.diverged = false → s.me.stores = [] →
       ∃ t, exec (.rcommit r a) s = .next t ∧ RingStep s t r (q.commit (s.rg a).toNat none)) ∧
     (q.fill ≠ q.drn → s.myGang.diverged = false → s.me.stores = [] →
       ∃ t, exec (.rrelease r) s = .next t ∧ RingStep s t r q.release) ∧
     (q.fill ≠ q.drn → ∃ t, exec (.rwait r) s = .next t ∧ t.me.cache = [] ∧
       StepBut Hart.sansCache hideNone hideNone hideNone s t s.byteAt)) ∧
  (∀ (s : State) (d : GOp) (r : Fin 8) (which : Fin 4) (q : Ring), s.live → r.val < 2 * s.myGang.hn →
     q = s.myGang.rings[r] →
     ∃ t, exec (.rstat d r which) s = .next t ∧
       RegStep s t d
         (if q.cfg = false then 0
          else if which = 0 then q.iss.setWidth 64 else if which = 1 then q.fill.setWidth 64
          else if which = 2 then q.drn.setWidth 64 else q.word) 0 (s.pcv + 8)) ∧
  (∀ (s : State) (r : Fin 8) (i : Instr) (op : Nat), RingBad s r i op → s.live → s.atS = false → s.me.sup.svec ≠ 0 →
     ∃ t, exec i s = .next t ∧ TrapEntry s t op 0x0F r.val 0 s.me.pc 0 0)

/-- R222, Table 9-10: a mask instruction writes the bits of its mask and nothing else; `_` discards.
R222, R223, R205, Table 9-10: what the mask instructions and `VGETTAG` return; with `vl` = 0 a count or a search
leaves its destination as it is. -/
def Obligations.MaskInstructionsWriteTheirMask : Prop :=
  (∀ (s : State) (i : Instr) (d : MOp) (f : Nat → Bool), MaskOp s i d f → s.live → s.atS = false →
     ∃ t, exec i s = .next t ∧
       (∀ (m : Fin 16) (e : Nat), e < 128 →
         t.me.m[m].getLsbD e = if d = some m then f e else s.me.m[m].getLsbD e) ∧
       StepBut (fun h => { h with m := Vector.replicate 16 0 }) hideNone hideNone hideNone s t s.byteAt) ∧
  ((∀ (s : State) (i : Instr) (d : GOp) (v : Word), MaskReadOp s i d v → s.live → s.atS = false →
     ∃ t, exec i s = .next t ∧ RegStep s t d v 0 (s.pcv + 8)) ∧
   ∀ (s : State) (d : GOp) (a : MOp), s.live → s.atS = false → s.me.vl = 0 →
     (∃ t, exec (.mpopc d a) s = .next t ∧ StepBut hideNone hideNone hideNone hideNone s t s.byteAt) ∧
     ∃ t, exec (.mfirst d a) s = .next t ∧ StepBut hideNone hideNone hideNone hideNone s t s.byteAt)

/-- R203: `VSETL`, with a scalar destination and a scalar source, sets `vl` to at most 128, and to 0 for the source
`_`, and returns it.
R54, R204: `VTAG` sets the tag and clears every element, `VRETAG` keeps every bit; a bound stream register traps, and
`_` changes nothing. Their tag code is X[4:0], and every other field but D is zero; codes 20 to 31 raise ILLEGAL. -/
def Obligations.VectorLengthAndTagsAreSet : Prop :=
  (∀ (s : State) (d a : GOp), s.live → s.atS = false →
     ∃ t, exec (.vsetl d a) s = .next t ∧ t.me.vl = min (s.rg a).toNat 128 ∧
       RegsStep (fun h => { h with vl := 0 }) hideNone hideNone hideNone s t
         (oneReg d (word (min (s.rg a).toNat 128))) 0 (s.pcv + 8) s.byteAt) ∧
  ((∀ (s : State) (u : Tag), s.live → s.atS = false →
     (∃ t, exec (.vtag none u) s = .next t ∧ StepBut hideNone hideNone hideNone hideNone s t s.byteAt) ∧
     ∃ t, exec (.vretag none u) s = .next t ∧ StepBut hideNone hideNone hideNone hideNone s t s.byteAt) ∧
   ∀ (s : State) (i : Instr) (d : Fin 56) (f : VReg → VReg), TagOp i d f → s.live → s.atS = false →
     (s.me.bound d.val = none →
       ∃ t, exec i s = .next t ∧
         (∀ k : Fin 60, t.me.v[k] = if k.val = d.val then f s.me.v[k] else s.me.v[k]) ∧
         StepBut (fun h => { h with v := Vector.replicate 60 VReg.empty, fillV := [] }) hideNone hideNone hideNone s t
           s.byteAt) ∧
     (s.me.bound d.val ≠ none → s.me.sup.svec ≠ 0 →
       ∃ t, exec i s = .next t ∧ TrapEntry s t 0x30 0x04 d.val 0 s.me.pc 0 0)) ∧
  (∀ (w : BitVec 64) (i : Instr), w.extractLsb' 57 7 = 0x30 → decodeWord w = some i →
     (w.extractLsb' 50 7 = 0 → ∃ d a, i = .vsetl d a) ∧
     (w.extractLsb' 50 7 = 1 ∨ w.extractLsb' 50 7 = 2 → w.extractLsb' 5 38 = 0 ∧
       ∃ (d : VdOp) (u : Tag), u.code = (w.extractLsb' 0 5).toNat ∧
         w.extractLsb' 43 7 = (d.map fun r => BitVec.ofNat 7 r.val).getD 0x7F ∧
         i = if w.extractLsb' 50 7 = 1 then .vtag d u else .vretag d u)) ∧
  ∀ (s u t : State) (w : Word), u = s.tick → u.tickDue = false → u.agenda = [] → u.duty = .instr → u.fetch = (.ok w, t) →
    w.extractLsb' 57 7 = 0x30 → w.extractLsb' 50 7 = 1 ∨ w.extractLsb' 50 7 = 2 → 20 ≤ (w.extractLsb' 0 5).toNat →
    t.live → t.atS = false → t.me.sup.svec ≠ 0 → ∃ v, step s = .next v ∧ TrapEntry t v 0x30 0x01 0 0 t.me.pc 0 0

/-! ### Vector instructions -/

/-- R46 to R56, R72 to R84, R200, R207, Tables 9-2, 9-5, 9-6: an element-wise instruction writes each active element,
with 0 or the old bits elsewhere as R52 says, sets the tag, and ORs the flags of its active elements. -/
def Obligations.ElementInstructionsWriteTheirRow : Prop :=
  ∀ (s : State) (i : Instr) (q : VMod) (d : VdOp) (srcs : List VsOp) (ok : Tag → Bool)
    (f : Tag → Nat → (Nat → Word) → Word × Flags) (u : Tag), ElementOp s i q d srcs ok f → s.live →
    VecRuns s srcs d → Tagged s srcs u → ok u = true →
    ∃ t, exec i s = .next t ∧
      VecStep s t { d := d, last := some (vaLast q.p), tag := u,
                    put := s.under q fun e => (f u e fun k => s.vel (srcs.getD k .zero) e).1,
                    fl := s.flagsOn q fun e => (f u e fun k => s.vel (srcs.getD k .zero) e).2, mask := none }

/-- R206, R208 to R211: moves, carries, comparison and conversion write their row.
R85 to R89, R214 to R217: butterflies, Gauss-Jordan steps and block-float conversions write their row, and raise BADVL
at a `vl` that does not suit them.
R218, R219, Table 9-8: the permutes move elements, write `l3`, and raise no flag.
R90, R91, R220, R221: the reductions and the scan write their row.
That a conversion between floats of equal width rounds what its target cannot hold (log entry 45), and that moves,
permutes, reductions and the scan with D = `_` write `l3` (log entry 68), are the model's readings. -/
def Obligations.RowInstructionsWriteTheirRow : Prop :=
  (∀ (s : State) (i : Instr) (srcs : List VsOp) (r : VRow), MoveOp s i srcs r → s.live → VecRuns s srcs r.d →
     ∃ t, exec i s = .next t ∧ VecStep s t r) ∧
  (∀ (s : State) (i : Instr) (srcs : List VsOp) (r : VRow), SignalOp s i srcs r → s.live → VecRuns s srcs r.d →
     ∃ t, exec i s = .next t ∧ VecStep s t r) ∧
  (∀ (s : State) (i : Instr) (srcs : List VsOp) (r : VRow), PermuteOp s i srcs r → s.live → VecRuns s srcs r.d →
     ∃ t, exec i s = .next t ∧ VecStep s t r) ∧
  (∀ (s : State) (i : Instr) (srcs : List VsOp) (r : VRow), ReduceOp s i srcs r → s.live → VecRuns s srcs r.d →
     ∃ t, exec i s = .next t ∧ VecStep s t r) ∧
  (∀ (s : State) (i : Instr) (srcs : List VsOp) (d : VdOp), BadLength s i srcs d → s.live → VecRuns s srcs d →
     s.me.vl ≤ 128 → s.me.sup.svec ≠ 0 →
     ∃ t, exec i s = .next t ∧ TrapEntry s t 0x36 0x05 s.me.vl 0 s.me.pc 0 0)

/-- R50, R51, R23: a source tagged `none` raises UNTYPED, sources of two tags raise TYPE, and with `vl` = 0 an
instruction whose operands pass changes nothing. -/
def Obligations.VectorOperandChecksCome : Prop :=
  ∀ (s : State) (i : Instr) (q : VMod) (d : VdOp) (srcs : List VsOp) (ok : Tag → Bool)
    (f : Tag → Nat → (Nat → Word) → Word × Flags), ElementOp s i q d srcs ok f → s.live → s.atS = false →
    (∀ r, VsOp.vec r ∈ srcs → s.me.bound r.val = none) → (∀ r, d = some r → s.me.bound r.val = none) →
    (∀ r, s.me.sup.svec ≠ 0 → VsOp.vec r ∈ srcs → s.me.v[r].tag = .none →
      ∃ t, exec i s = .next t ∧ ∃ c, VsOp.vec c ∈ srcs ∧ s.me.v[c].tag = .none ∧ t.me.sup.scause = 0x03 ∧
        t.me.sup.infoDetail.toNat = c.val ∧ t.me.st = .trapped ∧ t.me.sup.sepc = s.me.pc) ∧
    (∀ a b, s.me.sup.svec ≠ 0 → VsOp.vec a ∈ srcs → VsOp.vec b ∈ srcs → (∀ r, VsOp.vec r ∈ srcs → s.me.v[r].tag ≠ .none) →
      s.me.v[a].tag ≠ s.me.v[b].tag →
      ∃ t, exec i s = .next t ∧ t.me.sup.scause = 0x04 ∧ t.me.st = .trapped ∧ t.me.sup.sepc = s.me.pc) ∧
    (∀ u, Tagged s srcs u → ok u = true → s.me.vl = 0 →
      ∃ t, exec i s = .next t ∧ StepBut hideNone hideNone hideNone hideNone s t s.byteAt)

/-! ### Vector memory, streams and tiles -/

/-- R226 to R228, R312: `VPROBE` of a range whose pages all translate gives a valid token of the range, with their
pins; `VRELEASE` takes it away. They act on the user hart's token, or in the supervisor thread with UTK clear on its
own.
R312, R361: a probe of one page that permits the access pins it, a page with SUP only for the supervisor thread's own
token; a probe of the user hart's token at S that meets a page with SUP kills the hart with PROT. That the groups
tested are those of the first and the last byte, and not that of the leaf's PA, is the model's reading (log entry 16).
-/
def Obligations.ProbesMakeTokens : Prop :=
  (∀ (s : State) (own wr : Bool) (tk : Fin 8) (a b : GOp) (pins : List Pin), s.live →
     own = (s.atS && !s.me.sup.utk) →
     (s.probeRange s.myGang.p s.myVf own wr (s.rg a).toNat (s.rg b).toNat = .ok pins →
       s.me.pinsBut own tk + pins.length ≤ 64 →
       ∃ t, exec (.vprobe wr tk a b) s = .next t ∧
         TokenSet s t own tk { st := .valid, base := (s.rg a).toNat, len := (s.rg b).toNat, wr := wr, pins := pins } ∧
         StepBut Hart.sansTokens hideNone hideNone
           (if s.serves.head? = some true then fun u => { u with tlb := [], walks := [] } else hideNone) s t s.byteAt) ∧
     ∃ t, exec (.vrelease tk) s = .next t ∧ TokenSet s t own tk Token.empty ∧
       StepBut Hart.sansTokens hideNone hideNone hideNone s t s.byteAt) ∧
  (∀ (s : State) (own wr : Bool) (a n : Nat) (l : Leaf), OnePage s a n l → (l.sup = true → own = true) → l.pin.r = true →
     (wr = true → l.pin.w = true) →
     (l.pin.kind = .dev → s.granted s.myGang.p (l.pin.pa + (a - l.pin.va)) = true ∧
       s.granted s.myGang.p (l.pin.pa + (a + n - 1 - l.pin.va)) = true) →
     s.probeRange s.myGang.p s.myVf own wr a n = .ok [{ l.pin with w := l.pin.w && wr }]) ∧
  (∀ (s : State) (wr : Bool) (tk : Fin 8) (a b : GOp) (l : Leaf), s.live → s.atS = true → s.me.sup.utk = true →
     s.me.stores = [] → OnePage s (s.rg a).toNat (s.rg b).toNat l → l.sup = true →
     ∃ t, exec (.vprobe wr tk a b) s = .next t ∧ Killed s t 0x0C)

/-- R53, R56, R231, Table 10-1: a vector load whose elements can all be read writes them to its destination and to
`l2`, extended, with the tag of raw bits, and stores nothing. With D = `_`, which the spec does not settle, `l2` keeps its
own tag, and takes that of raw bits only where it has none (log entry 19).
R230: `VLDS2` puts bytes 0 to 7 of each pair into D and `l2`, and bytes 8 to 15 into C. -/
def Obligations.VectorLoadsWriteTheirElements : Prop :=
  (∀ (s : State) (i : Instr) (f : VAcc) (d : VdOp) (offs : Option VrOp) (rf : PageKind → Option Cause) (at_ : Nat → VPlace),
     VLoadOp s i f d offs rf → s.live → s.me.stores = [] → VecAccess s f [] [d] offs rf at_ →
     (∀ e ∈ s.todo f.x, (at_ e).readable s f.n) →
     ∃ t, exec i s = .next t ∧
       VecStepBut Hart.sansCache hideNone State.sansReads s t
         { d := d, last := some 58, tag := tagOfRaw (s.me.v[(d.map vdReg).getD 58].tag) f.n f.x.sx, fl := 0, mask := none,
           put := s.loaded f.x fun e =>
             if f.n = 4 then extendN 4 f.x.sx ((at_ e).value s f.n) else word ((at_ e).value s f.n) } s.byteAt) ∧
  (∀ (s : State) (x : MemX) (d c : Fin 56) (a b : GOp) (f : VAcc) (at_ : Nat → VPlace), s.live → s.me.stores = [] → d ≠ c →
     f = { op := 0x4A, x := x, n := 16, wr := false, sp := true, addr := fun e => s.rg a + word e * s.rg b } →
     VecAccess s f [] [some d, some c] none anyKind at_ → (∀ e ∈ s.todo x, (at_ e).readable s 16) →
     ∃ t, exec (.vlds2 x (some d) a b (some c)) s = .next t ∧
       (∀ (k : Fin 60) (e : Fin 128), t.me.v[k].el[e] =
         if k = vdReg d ∨ k = 58 then
           (s.loaded x (fun e => word ((at_ e).value s 16)) e.val).getD (s.me.v[vdReg d].el[e])
         else if k = vdReg c then
           (s.loaded x (fun e => word ((at_ e).value s 16 / 2 ^ 64)) e.val).getD (s.me.v[k].el[e])
         else s.me.v[k].el[e]) ∧
       t.me.v[vdReg d].tag = tagOfRaw s.me.v[vdReg d].tag 16 x.sx ∧ t.me.v[vdReg c].tag = tagOfRaw s.me.v[vdReg c].tag 16 x.sx ∧
       t.me.m = s.me.m ∧ t.me.fcsr = s.me.fcsr ∧
       StepBut (fun h => h.sansV.sansCache) hideNone hideNone State.sansReads s t s.byteAt)

/-- R116, R117, R231, Table 5-5: a load that meets the end of its range after its first element trims `vl` there and keeps
the elements before it; any other condition at an element, POISON among them, traps with that element in `ei`, and its
address in `seaddr`. -/
def Obligations.LoadsTrimOrTrapAtTheElement : Prop :=
  ∀ (s : State) (i : Instr) (f : VAcc) (d : VdOp) (offs : Option VrOp) (rf : PageKind → Option Cause) (at_ : Nat → VPlace)
    (pre post : List Nat) (e : Nat) (x : TrapInfo), VLoadOp s i f d offs rf → s.live → s.atS = false → s.me.stores = [] →
    s.me.vl ≠ 0 → s.me.vl ≤ 128 → s.vmTags [] [d] offs = none → s.ticketCheck f.x.t = none →
    s.vIssue f rf (s.todo f.x) = none → s.vStall f (s.todo f.x) = none →
    (f.x.t = .no → s.waitsOwn true (releases f.x.ord) (s.vLocs f (s.todo f.x)) = false) → s.todo f.x = pre ++ e :: post →
    (∀ k ∈ pre, s.vPlace f k = .ok (at_ k) ∧ (at_ k).readable s f.n) → ElemStop s f e x →
    ((x.c = .tkrange ∨ x.c = .sprange) → pre ≠ [] →
      ∃ t, exec i s = .next t ∧ t.me.vl = e ∧ t.me.pc = s.me.pc + 8 ∧ (∀ l, t.byteAt l = s.byteAt l) ∧
        ∀ (r : Fin 56) (k : Fin 128), d = some r → t.me.v[vdReg r].el[k] =
          if k.val ∈ pre then
            (if f.n = 4 then extendN 4 f.x.sx ((at_ k.val).value s f.n) else word ((at_ k.val).value s f.n))
          else if s.me.ei ≤ k.val ∧ k.val < e ∧ s.onMem f.x k.val = false ∧ f.x.kz = true then 0
          else s.me.v[vdReg r].el[k]) ∧
    (¬ ((x.c = .tkrange ∨ x.c = .sprange) ∧ pre ≠ []) → s.me.sup.svec ≠ 0 →
      ∃ t, exec i s = .next t ∧ t.me.st = .trapped ∧ t.me.sup.scause.toNat = x.c.code ∧ t.me.sup.sei.toNat = e ∧
        t.me.sup.seaddr = f.addr e ∧ t.me.sup.sepc = s.me.pc)

/-- R231, R233, Table 10-1: a vector store whose elements can all be written, unordered or with the commit right, writes
their bytes in ascending order and no other byte, in memory or in scratchpad.
R40, R233: an ordered one without the right performs nothing: its elements enter the commit buffer, one entry for each
element group, and it retires.
Table 5-5: an element that has no place stops the store: the elements before it are written, `ei` names it, and the hart
traps at its address.
R234: so does an element of an ordered store that is performed in flight and meets a poisoned line; one performed later is
not performed, the line stays poisoned, and its job fails (what counts as meeting poison is the model's reading, log entry
75).
R113, R401: no poisoned line of memory is cleared by these stores, and a poisoned word of the scratchpad is cleared by an
element that writes all four bytes. -/
def Obligations.VectorStoresWriteTheirElements : Prop :=
  (∀ (s : State) (i : Instr) (f : VAcc) (data : Nat → Nat) (srcs : List VsOp) (offs : Option VrOp)
    (rf : PageKind → Option Cause) (at_ : Nat → VPlace), VStoreOp s i f data srcs offs rf → s.live → s.memWf →
    Mem.wf s.myGang.sp = true → s.me.stores = [] → s.myGang.diverged = false → VecAccess s f srcs [] offs rf at_ →
    (f.x.t = .no ∨ f.sp = false ∧ s.direct (f.x.t == .tt) = true ∧ s.me.redo = [] ∧
        (∀ e ∈ s.todo f.x, ¬ (at_ e).dirty s f.n) →
      (∀ e ∈ s.todo f.x, (at_ e).writable s f.n) →
      ∃ t, exec i s = .next t ∧
        StepBut Hart.sansCache hideNone (if f.x.t = .no then Gang.sansSp else Gang.sansLog) State.sansMem s t
          (storedBytes s.byteAt f.n at_ data (s.todo f.x)) ∧
        (∀ x, t.spByte x = storedSp s.myGang f.n at_ data (s.todo f.x) x) ∧ (∀ k, t.poisonOf k = s.poisonOf k) ∧
        ∀ w, w ∈ t.myGang.spPoison ↔ w ∈ s.myGang.spPoison ∧ ∀ e ∈ s.todo f.x, ∀ k, at_ e = .sp k →
          ¬ (s.myGang.spMap k ≤ 4 * w ∧ 4 * w + 4 ≤ s.myGang.spMap k + f.n)) ∧
    (f.sp = false → Buffers s f.x →
      ∃ t, exec i s = .next t ∧
        VecBuffered s t f.x at_ (fun e => { e := e, loc := (at_ e).loc, n := f.n, op := .store (bytesOfNat f.n (data e)) })
          .none ∧
        StepBut Hart.sansCache hideNone hideNone State.sansEntries s t s.byteAt)) ∧
  (∀ (s : State) (i : Instr) (f : VAcc) (data : Nat → Nat) (srcs : List VsOp) (offs : Option VrOp)
     (rf : PageKind → Option Cause) (at_ : Nat → VPlace) (pre post : List Nat) (e : Nat) (c : Cause),
     VStoreOp s i f data srcs offs rf → s.live → s.memWf → Mem.wf s.myGang.sp = true → s.me.stores = [] →
     s.myGang.diverged = false → s.atS = false → s.me.vl ≠ 0 → s.me.vl ≤ 128 → s.vmTags srcs [] offs = none →
     s.ticketCheck f.x.t = none → s.vIssue f rf (s.todo f.x) = none → s.vStall f (s.todo f.x) = none →
     (f.x.t = .no → s.waitsOwn true (releases f.x.ord) (s.vLocs f (s.todo f.x)) = false) → s.todo f.x = pre ++ e :: post →
     (∀ k ∈ pre, s.vPlace f k = .ok (at_ k) ∧ (at_ k).writable s f.n ∧ (f.x.t ≠ .no → ¬ (at_ k).dirty s f.n)) →
     f.x.t = .no ∨ f.sp = false ∧ s.direct (f.x.t == .tt) = true ∧ s.me.redo = [] → StoreStop s f e c →
     s.me.sup.svec ≠ 0 →
     ∃ t, exec i s = .next t ∧ t.me.st = .trapped ∧ t.me.sup.scause.toNat = c.code ∧ t.me.sup.sei.toNat = e ∧
       t.me.sup.seaddr = f.addr e ∧ t.me.sup.sepc = s.me.pc ∧ (∀ l, t.byteAt l = storedBytes s.byteAt f.n at_ data pre l) ∧
       ∀ x, t.spByte x = storedSp s.myGang f.n at_ data pre x) ∧
  ∀ (s : State) (e : Entry) (j : Job) (x : OrdElem) (bs : List Byte), s.memWf → s.entries = [e] →
    s.job? e.p e.job = some j → j.right < j.tickets → (j.right ∈ j.sealedT ∨ j.right ∈ j.voidedT) →
    e.ticket = j.right + 1 → e.tree = false → e.vec = true → e.fill = .none → e.elems = [x] → x.op = .store bs →
    x.n = bs.length → (s.gang? e.h.gang).isSome → (s.gang e.h.gang).frames = none → (s.hart e.h).redo = [] →
    (linePoisoned (s.poisonOf x.loc.kind) x.loc.pa x.n = true →
      ∃ t, exec (.commitRightPass e.p e.job false) s = .next t ∧ t.entries = [] ∧ (∀ l, t.byteAt l = s.byteAt l) ∧
        (∀ k, t.poisonOf k = s.poisonOf k) ∧
        ∃ j', t.job? e.p e.job = some j' ∧ j'.right = j.right + 1 ∧ j'.cause = some (j.cause.getD 0x0D)) ∧
    (linePoisoned (s.poisonOf x.loc.kind) x.loc.pa x.n = false → s.writeRefused x.loc x.n = false →
      ∃ t, exec (.commitRightPass e.p e.job false) s = .next t ∧ t.entries = [] ∧
        (∀ l, t.byteAt l = s.bytesWith x.loc bs l) ∧
        ∃ j', t.job? e.p e.job = some j' ∧ j'.right = j.right + 1 ∧ j'.cause = j.cause)

/-- R242, R148: a vector atomic, unordered or with the commit right, performs its elements in ascending order, each
one read-modify-write; the old values go to its destination and to `l2`.
R40, R41, R242: an ordered `VAMO` without the right performs nothing: its elements enter the commit buffer, one entry
for each element group, its destination and `l2` keep their elements until those entries fill them, and it retires.
R243: the elements of an unordered `VSTA` are accepted, to be performed later at their homes; an ordered one performs
or buffers them like a store.
R38, R41: when the commit right comes to a ticket, its entry is performed, and fills the registers that wait for it.
With D = `_`, which the spec does not settle, `l2` keeps its own tag, and takes that of raw bits only where it has
none (log entry 19). R53 gives i64 to a 4-byte load with SX = 1 and n64 otherwise, so a returning `VAMO` gives a register
without a tag n64 whatever its SX is. -/
def Obligations.VectorAtomicsRunInElementOrder : Prop :=
  (∀ (s : State) (op : AmoOp) (x : MemX) (d : VdOp) (a : GOp) (b : VrOp) (c : VsOp) (at_ : Nat → VPlace)
     (n : Nat) (z : List (Nat × Nat) × (Loc → Byte)), s.live → s.memWf → s.me.stores = [] → s.myGang.diverged = false →
     n = Sz.bytes x.sz → (n = 4 ∨ n = 8) →
     VecAccess s (s.amoAcc 0x50 x a b) [c] [d] (some b) (notTaken fun k => PageKind.takes k op) at_ →
     (x.t = .no ∨ s.direct (x.t == .tt) = true ∧ s.me.redo = [] →
       (∀ e ∈ s.todo x, s.readPoison (at_ e).loc n = false ∧ s.writeRefused (at_ e).loc n = false) →
       z = amoRun op n (fun e => (at_ e).loc) (fun e => (s.vel c e).toNat % 2 ^ (8 * n)) (s.todo x) s.byteAt →
       ∃ t, exec (.vamo op x d a b c) s = .next t ∧
         VecStepBut Hart.sansCache Gang.sansLog State.sansMem s t
           { d := d, last := some 58, tag := tagOfRaw (s.me.v[(d.map vdReg).getD 58].tag) n false, fl := 0, mask := none,
             put := s.loaded x fun e =>
               let v := ((z.1.find? fun q => q.1 == e).map Prod.snd).getD 0
               if n = 4 then extendN 4 x.sx v else word v } z.2) ∧
     (Buffers s x → s.todo x ≠ [] →
       ∃ t, exec (.vamo op x d a b c) s = .next t ∧
         VecBuffered s t x at_ (fun e => { e := e, loc := (at_ e).loc, n := n, op := .amo op (s.vel c e) }) (.v d x.sx) ∧
         (∀ k, k < (groupsOf (s.todo x)).length →
           (58, s.nextEntry + k) ∈ t.me.fillV ∧ ∀ r, d = some r → (vdReg r, s.nextEntry + k) ∈ t.me.fillV) ∧
         VecStepBut Hart.sansCache hideNone State.sansEntries s t
           { d := d, last := some 58, tag := tagOfRaw (s.me.v[(d.map vdReg).getD 58].tag) n false, fl := 0, mask := none,
             put := fun e => if s.me.ei ≤ e ∧ e < s.me.vl ∧ s.onMem x e = false ∧ x.kz = true then some 0 else none }
           s.byteAt)) ∧
  (∀ (s : State) (op : AmoOp) (x : MemX) (a : GOp) (b c : VrOp) (at_ : Nat → VPlace) (n : Nat), s.live → s.me.stores = [] →
     s.myGang.diverged = false → n = Sz.bytes x.sz → (n = 4 ∨ n = 8) →
     VecAccess s (s.amoAcc 0x51 x a b) [.vec c] [] (some b) (notTaken (postable op)) at_ →
     (x.t = .no →
       ∃ t, exec (.vsta op x a b c) s = .next t ∧
         t.posted = s.posted ++ (s.todo x).map (fun e =>
           { p := s.myGang.p, job := s.myGang.job,
             elem := { e := e, loc := (at_ e).loc, n := Sz.bytes x.sz, op := .amo op (s.vel (.vec c) e) } }) ∧
         StepBut Hart.sansCache hideNone hideNone (fun u => { u with posted := [] }) s t s.byteAt) ∧
     (x.t ≠ .no → s.direct (x.t == .tt) = true → s.me.redo = [] → s.memWf →
       (∀ e ∈ s.todo x, s.readPoison (at_ e).loc n = false ∧ s.writeRefused (at_ e).loc n = false) →
       ∃ t, exec (.vsta op x a b c) s = .next t ∧
         StepBut Hart.sansCache hideNone Gang.sansLog State.sansMem s t
           (amoRun op n (fun e => (at_ e).loc) (fun e => (s.vel (.vec c) e).toNat % 2 ^ (8 * n)) (s.todo x) s.byteAt).2) ∧
     (Buffers s x →
       ∃ t, exec (.vsta op x a b c) s = .next t ∧
         VecBuffered s t x at_ (fun e => { e := e, loc := (at_ e).loc, n := n, op := .amo op (s.vel (.vec c) e) }) .none ∧
         StepBut Hart.sansCache hideNone hideNone State.sansEntries s t s.byteAt)) ∧
  (∀ (s : State) (e : Entry) (j : Job) (op : AmoOp) (d : VdOp) (sx : Bool) (n : Nat) (es : List Nat) (at_ : Nat → Loc)
     (x : Nat → Word) (z : List (Nat × Nat) × (Loc → Byte)), s.memWf → s.entries = [e] → s.job? e.p e.job = some j →
     j.right < j.tickets → (j.right ∈ j.sealedT ∨ j.right ∈ j.voidedT) → e.ticket = j.right + 1 → e.tree = false →
     e.vec = true → e.fill = .v d sx → es ≠ [] → (n = 4 ∨ n = 8) →
     e.elems = es.map (fun k => { e := k, loc := at_ k, n := n, op := .amo op (x k) }) →
     (s.gang? e.h.gang).isSome → (s.gang e.h.gang).frames = none → (s.hart e.h).redo = [] →
     (∀ k ∈ es, s.readPoison (at_ k) n = false ∧ s.writeRefused (at_ k) n = false ∧ (at_ k).kind ≠ .io) →
     z = amoRun op n at_ (fun k => (x k).toNat % 2 ^ (8 * n)) es s.byteAt →
     ∃ t, exec (.commitRightPass e.p e.job false) s = .next t ∧ t.entries = [] ∧ (∀ l, t.byteAt l = z.2 l) ∧
       (∀ (r : Fin 60) (k : Fin 128), ((t.hart e.h).v[r]).el[k] =
         if (r = 58 ∨ d.map vdReg = some r) ∧ (r, e.num) ∈ (s.hart e.h).fillV then
           ((z.1.find? fun q => q.1 == k.val).map fun q => if n = 4 then extendN 4 sx q.2 else word q.2).getD
             ((s.hart e.h).v[r]).el[k]
         else ((s.hart e.h).v[r]).el[k]) ∧
       ∀ q, q ∈ (t.hart e.h).fillV ↔ q ∈ (s.hart e.h).fillV ∧ ¬ (q.2 = e.num ∧ (q.1 = 58 ∨ d.map vdReg = some q.1)))

/-- R244: `VWAITC` whose active elements all meet the condition writes their bits to its mask; while one does not, the
hart blocks, with the time-out that g[B] gives. -/
def Obligations.ConditionalWaitsTestEveryElement : Prop :=
  ∀ (s : State) (cc : FCond) (x : MemX) (d : MOp) (a b : GOp) (c : VsOp) (at_ : Nat → VPlace) (ok : Nat → Bool), s.live →
    (s.vtag c = none ∨ s.vtag c = some .n64 ∨ s.vtag c = some .i64) → s.me.wait = none →
    VecAccess s (s.waitAcc x a) [c] [] none notIo at_ → (releases x.ord = true → s.me.stores = []) →
    (∀ e ∈ s.todo x, (at_ e).readable s (Sz.bytes x.sz)) →
    (ok = fun e => FCond.words cc (s.vtag c == some .i64)
      (if Sz.bytes x.sz = 4 then extendN 4 x.sx ((at_ e).value s 4) else word ((at_ e).value s (Sz.bytes x.sz))) (s.vel c e)) →
    ((∀ e ∈ s.todo x, ok e = true) →
      ∃ t, exec (.vwaitc cc x d a b c) s = .next t ∧
        (∀ (m : Fin 16) (e : Nat), e < 128 → t.me.m[m].getLsbD e =
          if d = some m ∧ e ∈ s.todo x then true else s.me.m[m].getLsbD e) ∧
        StepBut (fun h => { h.sansCache with m := Vector.replicate 16 0 }) hideNone hideNone State.sansReads s t s.byteAt) ∧
    ((∃ e ∈ s.todo x, ok e = false) → (b = none ∨ (s.rg b).toNat ≠ 0) →
      ∃ t, exec (.vwaitc cc x d a b c) s = .next t ∧ t.me.st = .blocked ∧ t.me.pc = s.me.pc ∧
        t.me.wait = some { what := .vwaitc, op := 0x52, since := s.cyc,
                           ends := b.map fun _ => s.dtime + (s.rg b).toNat, expired := false } ∧
        (∀ l, t.byteAt l = s.byteAt l) ∧ Machine.Frame Hart.sansWait hideNone hideNone State.sansReads s t)

/-- R236, R241: `SBIND` of a legal record binds the register at position 0 under the tag of raw bits, `SUNBIND` unbinds
it, and `SSTAT` reads Table 10-3.
R235, R237, R239: an instruction of opcodes 0x30 to 0x38 that reads registers bound to load streams pops one strip of
each: at most `vl` elements, no more than any of the streams has left, and fewer where one or several of them end their
tokens' ranges; it
delivers them, sets `vl` to the strip's length, advances the streams, and does on that state what it does without streams.
With a stream that has none left, it sets `vl` to 0 and does nothing else, once its token has passed its test (log
entry 19).
R238: such an instruction that writes a register bound to a store stream of its result's tag also appends the first `vl`
elements of the value that it writes, in order, and advances the stream.
That moves, permutes, reductions and the scan with D = `_` write `l3` (log entry 68), and that a conversion between floats
of equal width rounds (log entry 45), are the model's readings, which the rows of these instructions rest on. -/
def Obligations.StreamsPopAndAppendStrips : Prop :=
  (∀ (s : State) (d : VbOp) (a : Fin 48) (g : GOp) (q : List Word) (u : Stream) (r : Fin 60), s.live → s.atS = false →
     q = s.record a 4 → r.val = d.val + 40 →
     u = { bound := true, q0 := nth q 0, q1 := nth q 1, q2 := nth q 2, q3 := nth q 3, pos := 0,
           tag := tagOfRaw s.me.v[r].tag (if bits (nth q 3) 5 4 = 0 then 4 else 8) (bit (nth q 3) 6) } →
     (StreamRecord q → s.me.str[d].bound = false → s.recUntyped a = none → s.recType a = none →
       ¬ (bit (nth q 3) 0 = true ∧ s.me.v[r].tag = .none) → (s.me.tk[u.tk]).st = .valid →
       ∃ t, exec (.sbind d a) s = .next t ∧ (∀ k : Fin 8, t.me.str[k] = if k = d then u else s.me.str[k]) ∧
         t.me.v[r].tag = u.tag ∧ t.me.v[r].el = s.me.v[r].el ∧ (∀ k, k ≠ r → t.me.v[k] = s.me.v[k]) ∧
         StepBut (fun h => { h with str := Vector.replicate 8 Stream.empty, v := Vector.replicate 60 VReg.empty })
           hideNone hideNone hideNone s t s.byteAt) ∧
     (∃ t, exec (.sunbind d) s = .next t ∧ (∀ k : Fin 8, t.me.str[k] = if k = d then Stream.empty else s.me.str[k]) ∧
       StepBut (fun h => { h with str := Vector.replicate 8 Stream.empty }) hideNone hideNone hideNone s t s.byteAt) ∧
     ∃ t, exec (.sstat g d) s = .next t ∧
       RegStep s t g
         (if s.me.str[d].bound = false then 0
          else word (2 ^ 63 + (if bit s.me.str[d].q3 0 then 2 ^ 62 else 0)
            + (if s.me.str[d].pos = bits s.me.str[d].q2 47 0 then 2 ^ 61 else 0) + s.me.str[d].pos)) 0 (s.pcv + 8)) ∧
  (∀ (s u : State) (i : Instr) (srcs : List VsOp) (r : VRow) (ps : List (Fin 8)) (n : Nat) (at_ : Fin 8 → Nat → Loc),
     s.live → s.memWf → s.atS = false → s.me.vl ≠ 0 → s.me.vl ≤ 128 → Pops s srcs ps → Strips s ps n at_ →
     u = s.delivered ps n at_ → RowOp u i srcs r →
     ((∀ d, r.d = some d → s.me.bound d.val = none) →
       s.waitsOwn true false ((ps.map fun k => s.stripLocs (s.stripOf ps) s.me.str[k]).flatten) = false →
       ∃ t, exec i s = .next t ∧ VecStepBut hideNone hideNone State.sansReads u t r s.byteAt) ∧
     ∀ (d : Fin 56) (k : Fin 8) (w : Stream) (al : Nat → Loc), r.d = some d → d.val = k.val + 40 → w = s.me.str[k] →
       w.bound = true → bit w.q3 0 = true → w.tag = r.tag → (s.me.tk[w.tk]).st = .valid → s.myGang.diverged = false →
       s.waitsOwn true false
         (((ps.map fun k => s.stripLocs (s.stripOf ps) s.me.str[k]) ++ [s.stripLocs (s.stripOf ps) w]).flatten) = false →
       (∀ e, e < n → w.pos + e < bits w.q2 47 0 ∧ (∃ pin, s.streamAt w true (w.pos + e) (al e) pin) ∧
         s.writeRefused (al e) w.bytes = false ∧ (al e).kind ≠ .io) →
       ∃ t, exec i s = .next t ∧ t.me.str[k] = { w with pos := w.pos + n } ∧ (∀ j, j ≠ k → t.me.str[j] = u.me.str[j]) ∧
         VecStepBut (fun h => { h with str := Vector.replicate 8 Stream.empty }) hideNone State.sansMem u t r fun l =>
           (List.range n).foldl
             (fun m e => putAt m (al e) (bytesOfNat w.bytes ((r.put e).getD (vget u.me.v[vdReg d].el e 0)).toNat)) s.byteAt l) ∧
  (∀ (s : State) (i : Instr) (srcs : List VsOp) (r : VRow) (ps : List (Fin 8)), s.live → s.atS = false → s.me.vl ≠ 0 →
     Pops s srcs ps → ps ≠ [] → s.stripOf ps = 0 → RowOp s i srcs r → (∀ d, r.d = some d → s.me.bound d.val = none) →
     s.waitsOwn true false [] = false →
     ∃ t, exec i s = .next t ∧ t.me.vl = 0 ∧
       StepBut (fun h => { h with vl := 0 }) hideNone hideNone hideNone s t s.byteAt)

/-- R251 to R253: `MACQ` takes a free tile, all zeros, and returns 0, or returns 1 when none is free; `MZERO` clears a
tile that the hart holds, and `MREL` gives it back.
R257: `MRD` reads four rows or columns of a tile as raw bits into D and `l3`, and `MWR` writes the elements below
`vl` to them. With D = `_` the model writes `l3` all the same (log entry 68), with its own tag, or that of raw bits where
it has none (log entry 19).
R94, R259: `MSCALE` multiplies every entry by its row's and its column's factor in one rounding.
R60: `MACQ` of a tile that the hart holds, and `MREL` and `MZERO` of one that it does not hold, raise TILE. -/
def Obligations.TilesAreHeldMovedAndScaled : Prop :=
  (∀ (s : State) (d : GOp) (n : Fin 4), s.live → s.atS = false →
     (s.me.acc[n] = none → s.tileFree s.myGang = true →
       ∃ t, exec (.macq d n) s = .next t ∧ (∀ k, t.me.acc[k] = s.withAcc n (some zeroTile) k) ∧
         RegsStep Hart.sansAcc hideNone hideNone hideNone s t (oneReg d 0) 0 (s.pcv + 8) s.byteAt) ∧
     (s.me.acc[n] = none → s.tileFree s.myGang = false →
       ∃ t, exec (.macq d n) s = .next t ∧ RegStep s t d 1 0 (s.pcv + 8)) ∧
     (s.me.acc[n] ≠ none →
       (∃ t, exec (.mzero n) s = .next t ∧ TileStep hideNone s t (s.withAcc n (some zeroTile)) 0 s.byteAt) ∧
       ∃ t, exec (.mrel n) s = .next t ∧ TileStep hideNone s t (s.withAcc n none) 0 s.byteAt)) ∧
  (∀ (s : State) (q : VMod) (col : Bool) (n : Fin 4) (d : VdOp) (a : VrOp) (b : GOp) (x y : VsOp) (z : Tile), s.live →
     s.atS = false → s.me.vl ≠ 0 → s.me.vl ≤ 128 → s.me.acc[n] = some z →
     (s.vmTags [] [d] none = none → (s.rg b).toNat ≤ 15 →
       ∃ t, exec (.mrd col d n b) s = .next t ∧
         VecStep s t { d := d, last := some 59, tag := tagOfRaw (s.me.v[(d.map vdReg).getD 59].tag) 8 false, fl := 0,
                       mask := none,
                       put := fun e => if e < s.me.vl then
                         some (ofLanes 32 fun l =>
                           let r := 4 * (s.rg b).toNat + e / 32
                           let c := 2 * (e % 32) + l
                           (vget z.data (if col then 64 * c + r else 64 * r + c) 0).toNat) else none }) ∧
     (s.vmTags [.vec a] [] none = none → (s.rg b).toNat ≤ 15 →
       ∃ t, exec (.mwr q col n a b) s = .next t ∧
         TileStep hideNone s t
           (s.withAcc n (some (tileOf fun k =>
             let r := if col then k % 64 else k / 64
             let c := if col then k / 64 else k % 64
             let e := 32 * (r - 4 * (s.rg b).toNat) + c / 2
             if 4 * (s.rg b).toNat ≤ r ∧ r < 4 * (s.rg b).toNat + 4 ∧ e < s.me.vl then
               BitVec.ofNat 32 (lane 32 (s.vel (.vec a) e) (c % 2)) else vget z.data k 0))) 0 s.byteAt) ∧
     (s.vmTags [x, y] [] none = none → Tagged s [x, y] .f32x2 →
       ∃ t, exec (.mscale q n x y) s = .next t ∧
         let r := fun k => fmt32.sum .rne
           [{ neg := false, fs := [fmt32.read (vget z.data k 0).toNat, fmt32.read (lane 32 (s.vel x (k / 64 / 2)) (k / 64 % 2)),
                                  fmt32.read (lane 32 (s.vel y (k % 64 / 2)) (k % 64 % 2))] }]
         TileStep hideNone s t (s.withAcc n (some (tileOf fun k => BitVec.ofNat 32 (r k).1))) (tileFlags fun k => (r k).2)
           s.byteAt)) ∧
  (∀ (s : State) (d : GOp) (n : Fin 4), s.live → s.atS = false → s.me.sup.svec ≠ 0 →
     (s.me.acc[n] ≠ none → ∃ t, exec (.macq d n) s = .next t ∧ TrapEntry s t 0x58 0x11 n.val 0 s.me.pc 0 0) ∧
     (s.me.acc[n] = none →
       (∃ t, exec (.mrel n) s = .next t ∧ TrapEntry s t 0x59 0x11 n.val 0 s.me.pc 0 0) ∧
       ∃ t, exec (.mzero n) s = .next t ∧ TrapEntry s t 0x5A 0x11 n.val 0 s.me.pc 0 0))

/-- R92, R93, R254, R255: `MOPA` adds the products of its panels to every entry, group by group from `ei` up, with one
rounding a group; a complex one adds the imaginary parts to the next tile.
A group whose exact sum has no product leaves the entry as it is (log entry 12). -/
def Obligations.OuterProductsAddGroupByGroup : Prop :=
  ∀ (s : State) (q : VMod) (cj : Bool) (n : Fin 4) (a b : VrOp) (u : Tag) (per gs : Nat) (m : Mopa) (re : Tile), s.live →
    s.atS = false → s.mopaTags cj n a b = .ok (u, per) → m = s.mopaOf q cj u per a b → gs = (s.me.vl / per + 3) / 4 →
    s.me.vl ≠ 0 → s.me.vl % per = 0 → s.me.ei < gs → s.me.acc[n] = some re →
    (u ≠ .cbf16x2 →
      ∃ t, exec (.mopa q cj n a b) s = .next t ∧
        TileStep hideNone s t
          (s.withAcc n (some (tileOf fun x =>
            BitVec.ofNat 32 (mopaRun m false x (gs - s.me.ei) s.me.ei (vget re.data x 0).toNat).1)))
          (tileFlags fun x => (mopaRun m false x (gs - s.me.ei) s.me.ei (vget re.data x 0).toNat).2) s.byteAt) ∧
    ∀ im, u = .cbf16x2 → s.me.acc[n + 1] = some im →
      ∃ t, exec (.mopa q cj n a b) s = .next t ∧
        TileStep hideNone s t
          (fun k =>
            if k = n then some (tileOf fun x =>
              BitVec.ofNat 32 (mopaRun m false x (gs - s.me.ei) s.me.ei (vget re.data x 0).toNat).1)
            else if k = n + 1 then some (tileOf fun x =>
              BitVec.ofNat 32 (mopaRun m true x (gs - s.me.ei) s.me.ei (vget im.data x 0).toNat).1)
            else s.me.acc[k])
          ((tileFlags fun x => (mopaRun m false x (gs - s.me.ei) s.me.ei (vget re.data x 0).toNat).2) |||
            tileFlags fun x => (mopaRun m true x (gs - s.me.ei) s.me.ei (vget im.data x 0).toNat).2) s.byteAt

/-- R258: `MST` writes the 4,096 words of a tile in ascending order and no other byte, and `MLDT` reads them into it. -/
def Obligations.WholeTilesAreStoredAndLoaded : Prop :=
  ∀ (s : State) (x : MemX) (sp : Bool) (n : Fin 4) (a b : GOp) (at_ : Nat → VPlace) (z : Tile), s.live → s.memWf →
    Mem.wf s.myGang.sp = true → s.me.stores = [] → s.me.acc[n] = some z →
    (TileAccess s (s.tileAccess 0x5E x sp true a b) at_ → s.myGang.diverged = false →
      (∀ e, e < 4096 → (at_ e).writable s 4) →
      ∃ t, exec (.mst x sp n a b) s = .next t ∧
        StepBut hideNone hideNone Gang.sansSp State.sansMem s t
          (storedBytes s.byteAt 4 at_ (fun e => (vget z.data e 0).toNat) (List.range 4096)) ∧
        ∀ k, t.spByte k = storedSp s.myGang 4 at_ (fun e => (vget z.data e 0).toNat) (List.range 4096) k) ∧
    (TileAccess s (s.tileAccess 0x5F x sp false a b) at_ → (∀ e, e < 4096 → (at_ e).readable s 4) →
      ∃ t, exec (.mldt x sp n a b) s = .next t ∧
        TileStep State.sansReads s t
          (s.withAcc n (some (tileOf fun e => BitVec.ofNat 32 ((at_ e).value s 4)))) 0 s.byteAt)

/-! ### The engines -/

/-- R260 to R262: `PGOPEN` of a legal layer record opens the lowest free context under the next handle, and returns it,
or 2^63 + 1 when all are open.
R263, R264, R267, Table 11-7: `PGSUB` to a sweep that refuses it returns its status and counts the refusal; an
accepted one enters the subscription, and returns the pages that it missed and its handle.
R316: a `PGSUB` that traps for its ring, its token or its output ranges leaves 0 in `seaddr`.
That the releases of `PGOPEN` and `PGSUB` complete beside the hart's own buffered ordered operations is the model's reading
(log entry 47). The lowest free context and
index, and the numbers of first handles, are the model's choice (log entry 4). -/
def Obligations.SweepsOpenAndTakeSubscriptions : Prop :=
  (∀ (s : State) (d : GOp) (a : Fin 48) (q : List Word), s.live → s.recordReady a → s.ppse = true → q = s.record a 8 →
     badLayer q = false → (s.me.tk[Fin.ofNat 8 (layerTkt q)]).st = .valid → (s.me.tk[Fin.ofNat 8 (layerTkp q)]).st = .valid →
     s.me.stores = [] → s.myGang.diverged = false →
     ((∀ k : Fin 4, (s.sweeps[k]).open_ = true) →
       ∃ t, exec (.pgopen d a) s = .next t ∧ RegStep s t d 0x8000000000000001 0 (s.pcv + 8)) ∧
     ∀ k : Fin 4, (s.sweeps[k]).open_ = false → (∀ j : Fin 4, j < k → (s.sweeps[j]).open_ = true) →
       ∃ t, exec (.pgopen d a) s = .next t ∧
         t.sweeps[k] = { Sweep.empty with
           gen := (s.sweeps[k]).gen + 1, st := .opened, p := s.myGang.p, job := s.myGang.job, rcd := q,
           tblPins := (s.me.tk[Fin.ofNat 8 (layerTkt q)]).pins, pagePins := (s.me.tk[Fin.ofNat 8 (layerTkp q)]).pins,
           openedAt := s.dtime } ∧
         (∀ j, j ≠ k → t.sweeps[j] = s.sweeps[j]) ∧
         RegsStep hideNone hideNone hideNone State.sansSweeps s t
           (oneReg d (word (((s.sweeps[k]).gen + 1).toNat * 4 + k.val))) 0 (s.pcv + 8) s.byteAt) ∧
  (∀ (s : State) (m : VMod) (d c : GOp) (a : VrOp) (b : Fin 48) (q : List Word) (ids : List Nat) (k : Fin 4), s.live →
     s.recordReady b → s.ppse = true → q = s.record b 10 → badSub q = false → s.me.v[a].tag = .n32x2 →
     s.me.bound a.val = none → ids = s.pageList a (subPages q) → s.subChecks q ids = none → s.me.stores = [] →
     s.myGang.diverged = false →
     (s.sweep? s.myGang.p (s.rg c) false = none → (s.me.tk[subTko q]).st = .valid →
       ∃ t, exec (.pgsub m d a b c) s = .next t ∧ RegStep s t d (word (2 * 2 ^ 56)) 0 (s.pcv + 8)) ∧
     (∀ x, s.sweep? s.myGang.p (s.rg c) false = some k → s.subTraps q s.sweeps[k] = some x → s.me.sup.svec ≠ 0 →
       ∃ t, exec (.pgsub m d a b c) s = .next t ∧ t.me.st = .trapped ∧ t.me.sup.scause.toNat = x.c.code ∧
         t.me.sup.seaddr = 0 ∧ t.me.sup.sepc = s.me.pc) ∧
     (s.sweep? s.myGang.p (s.rg c) false = some k → s.subTraps q s.sweeps[k] = none →
       (s.subStatus s.sweeps[k] ids (subQueries q) ≠ 0 →
         ∃ t, exec (.pgsub m d a b c) s = .next t ∧
           t.sweeps[k] = { s.sweeps[k] with refused := (s.sweeps[k]).refused + 1 } ∧
           RegsStep hideNone hideNone hideNone (State.sansSweep k) s t
             (oneReg d (word (s.subStatus s.sweeps[k] ids (subQueries q) * 2 ^ 56))) 0 (s.pcv + 8) s.byteAt) ∧
       (s.subStatus s.sweeps[k] ids (subQueries q) = 0 →
         ∃ t, exec (.pgsub m d a b c) s = .next t ∧ ∃ x, x = s.newSub q s.sweeps[k] ids ∧
           (t.sweeps[k]).subs = (s.sweeps[k]).subs ++ [x] ∧ (t.sweeps[k]).accepted = (s.sweeps[k]).accepted + 1 ∧
           (t.sweeps[k]).union = ((s.sweeps[k]).union ++ ids).dedup ∧
           (t.sweeps[k]).st = (if (s.sweeps[k]).st = .opened ∧ bits (nth (s.sweeps[k]).rcd 2) 3 2 = 0 then .main
             else (s.sweeps[k]).st) ∧
           RegsStep hideNone hideNone hideNone
             (fun u => { State.sansSweep k u with subReuse := Vector.replicate 2048 0 }) s t
             (oneReg d (word (x.passed.length * 65536 + (x.reuse.toNat * 2048 + x.idx)))) 0 (s.pcv + 8) s.byteAt)))

/-- R271, R272: `PGCLOSE` closes an open sweep of the partition, and `PGSTAT` reads a counter of a sweep that its handle
names, ended ones too, and all ones for none.
R101, R268, R269: a partial for the next position merges into its query's head; one for a later position waits in a
Cask entry.
R102, R270: the partial for the last position ends its query: the query's bfloat16 values are written to its output
address, and counted on the subscription's barrier.
R260, R271: `PGCLOSE` raises SWEEP for a handle that names no open sweep, and ENGINE in a partition without the sweep
engine. That the release of `PGMERGE` completes beside the hart's own buffered ordered operations is the model's reading
(log entry 47). -/
def Obligations.SweepsCloseAndMergePartials : Prop :=
  (∀ (s : State) (d a : GOp) (w : Fin 9) (k : Fin 4), s.live → s.atS = false → s.ppse = true →
     (s.sweep? s.myGang.p (s.rg a) false = some k →
       ∃ t, exec (.pgclose a) s = .next t ∧ t.sweeps[k] = (s.sweeps[k]).close ∧
         ((s.sweeps[k]).st = .opened ∨ (s.sweeps[k]).st = .main →
           (t.sweeps[k]).st = .closedMain ∨ (t.sweeps[k]).st = .tail ∨ (t.sweeps[k]).st = .done) ∧
         StepBut hideNone hideNone hideNone (State.sansSweep k) s t s.byteAt) ∧
     (s.sweep? s.myGang.p (s.rg a) true = some k →
       ∃ t, exec (.pgstat d a w) s = .next t ∧ RegStep s t d (word ((s.sweeps[k]).counter w)) 0 (s.pcv + 8)) ∧
     (s.sweep? s.myGang.p (s.rg a) true = none →
       ∃ t, exec (.pgstat d a w) s = .next t ∧ RegStep s t d 0xFFFFFFFFFFFFFFFF 0 (s.pcv + 8))) ∧
  (∀ (s : State) (a : GOp), s.live → s.atS = false → s.me.sup.svec ≠ 0 →
     (s.ppse = true → s.sweep? s.myGang.p (s.rg a) false = none →
       ∃ t, exec (.pgclose a) s = .next t ∧ TrapEntry s t 0x64 0x12 0 0 s.me.pc 0 0) ∧
     (s.ppse = false → ∃ t, exec (.pgclose a) s = .next t ∧ TrapEntry s t 0x64 0x17 2 0 s.me.pc 0 0)) ∧
  (∀ (s : State) (m : VMod) (a : VrOp) (b c : GOp) (k : Fin 4) (x : Sub) (q : Query) (y : Partial), s.live → s.atS = false →
     s.ppse = true → s.me.vl ≠ 0 → s.me.v[a].tag = .f32x2 → s.me.bound a.val = none →
     s.subOf? (s.rg c).toNat = some (k, x) → x.queries[(s.rg c).toNat % 8]? = some q → x.p = s.myGang.p →
     x.job = s.myGang.job → (s.rg b).toNat < x.pages.length → q.handed.contains (s.rg b).toNat = false → q.written = false →
     y = s.partialIn a (s.sweeps[k]).hd → s.me.stores = [] → s.myGang.diverged = false →
     ((s.rg b).toNat = q.next → q.next + 1 < x.pages.length → q.waiting = [] → q.overflow = [] →
       ∃ t, exec (.pgmerge m a b c) s = .next t ∧
         (∃ x' ∈ (t.sweeps[k]).subs, x'.idx = x.idx ∧ x'.queries[(s.rg c).toNat % 8]? = some
           { q with handed := q.next :: q.handed, next := q.next + 1,
                    head := some (match q.head with | some h => h.merge y | none => y) }) ∧
         (t.sweeps[k]).merged = (s.sweeps[k]).merged + 1 ∧
         StepBut hideNone hideNone hideNone (State.sansSweep k) s t s.byteAt) ∧
     ((s.rg b).toNat ≠ q.next → s.caskUsed < 8192 →
       ∃ t, exec (.pgmerge m a b c) s = .next t ∧
         (∃ x' ∈ (t.sweeps[k]).subs, x'.idx = x.idx ∧ x'.queries[(s.rg c).toNat % 8]? = some
           { q with handed := (s.rg b).toNat :: q.handed, waiting := q.waiting ++ [((s.rg b).toNat, y)] }) ∧
         StepBut hideNone hideNone hideNone (State.sansSweep k) s t s.byteAt) ∧
     ∀ (z : Partial) (bs : List Byte) (pin : Pin) (r : Barrier), (s.rg b).toNat = q.next → q.next + 1 = x.pages.length →
       q.waiting = [] → q.overflow = [] → z = (match q.head with | some h => h.merge y | none => y) →
       bs = (z.output.map fun v => bytesOfNat 2 v.toNat).flatten → bs ≠ [] → s.memWf → pin.kind ≠ .io →
       (∀ i, i < bs.length → findPin x.pins (q.out + i) = some pin ∧
         ∀ n, n ≤ 128 → s.writeRefused (pin.loc (q.out + i)) n = false) →
       (s.gang? x.gang).isSome → r = (s.gang x.gang).bars[x.bar] → r.init = true → (bs.length : Int) ≤ r.pend →
       r.pend < 2 ^ 55 →
       ∃ t, exec (.pgmerge m a b c) s = .next t ∧ t.pcv = s.pcv + 8 ∧
         (∀ l, t.byteAt l = putAt s.byteAt (pin.loc q.out) bs l) ∧
         (t.gang x.gang).bars[x.bar] = Barrier.after { r with pend := r.pend - bs.length } ∧
         (∃ x' ∈ (t.sweeps[k]).subs, x'.idx = x.idx ∧ (x'.ended = true ∨ x'.queries[(s.rg c).toNat % 8]? = some
           { q with handed := q.next :: q.handed, next := q.next + 1, head := none, written := true })) ∧
         (t.sweeps[k]).merged = (s.sweeps[k]).merged + 1 ∧ (t.me.sansEvt).sans false = (s.me.sansEvt).sans false ∧
         (∀ u, u ≠ x.gang → u ≠ s.cur.gang → t.gang? u = s.gang? u) ∧
         (t.sansGangs k).sansMem = (s.sansGangs k).sansMem)

/-- R265 to R267, R271, R301, R302, Table 11-8: the steps of the sweep engine: a sweep starts; it fetches its next
page for every subscription that wants it, with the key and value blocks that the table's entry names; it delivers a
held page as a stage of the subscriber's ring, with header, keys and values at the stage's place, and changes nothing
else of the subscriber's gang; and it ends, and posts its handle on its channel.
R106, R107, R269: a hart that has stalled 2,048 cycles on a full Cask goes on once its job has a place in an overflow
segment, a further one taken from the spill arena when the last is full; with no segment to take, its job is abandoned
with status SPILL. The bytes of the entry written into the segment are free (log entry 43). -/
def Obligations.SweepEngineSteps : Prop :=
  (∀ (s : State) (k : Fin 4) (w : Sweep), w = s.sweeps[k] →
     (w.st = .opened → bits (nth w.rcd 2) 3 2 = 2 ∧ w.openedAt + bits (nth w.rcd 4) 31 0 ≤ s.dtime ∨
         bits (nth w.rcd 2) 3 2 = 0 ∧ w.subs ≠ [] →
       ∃ t, exec (.sweepStart k) s = .next t ∧ t.sweeps[k] = { w with st := .main } ∧
         State.sansSweep k t = State.sansSweep k s) ∧
     (∀ (id e : Nat), w.nextPage = some id → w.held.length < 4 → e = bits (nth w.rcd 0) 55 0 + 8 * id →
       ∃ t, exec (.pageFetch k) s = .next t ∧ ∃ h, (t.sweeps[k]).held = w.held ++ [h] ∧ h.id = id ∧
         h.tail = (w.st == .tail) ∧ h.todo = (w.subs.filter fun b => b.wants h.tail id).map Sub.idx ∧
         (h.err, h.keys, h.values) = (s.readPage w id).1 ∧
         (e % 8 = 0 → findPin w.tblPins e = none →
           h.err = true ∧ h.keys = List.replicate w.kb 0 ∧ h.values = List.replicate w.kb 0) ∧
         (∀ (p0 p1 : Pin) (x : Word) (ka vo : Nat), e % 8 = 0 → findPin w.tblPins e = some p0 → s.engineReads p0 e 8 →
           x = word (numAt s.byteAt (p0.loc e) 8) → bits x 63 56 = 0 → bits x 55 0 % 128 = 0 →
           ka = bits x 55 0 + bits (nth w.rcd 1) 31 0 → vo = bits x 55 0 + bits (nth w.rcd 1) 63 32 → ka % 128 = 0 →
           vo % 128 = 0 →
           (∀ i, i < w.kb → findPin w.pagePins (ka + i) = some p1 ∧ findPin w.pagePins (vo + i) = some p1 ∧
             s.engineReads p1 (ka + i) 1 ∧ s.engineReads p1 (vo + i) 1) →
           h.err = false ∧ h.keys = (List.range w.kb).map (fun i => s.byteAt (p1.loc (ka + i))) ∧
           h.values = (List.range w.kb).map fun i => s.byteAt (p1.loc (vo + i))) ∧
         (t.sweeps[k]).subs = w.subs ∧
         (t.sweeps[k]).mainFetches = w.mainFetches + (if w.st = .tail then 0 else 1) ∧
         (t.sweeps[k]).tailFetches = w.tailFetches + (if w.st = .tail then 1 else 0) ∧
         (∀ l, t.byteAt l = s.byteAt l) ∧ (State.sansSweep k t).sansReads = (State.sansSweep k s).sansReads) ∧
     (∀ (h : HeldPage) (b : Sub) (q : Ring) (bs : List Byte) (at_ : Nat), w.held.find? (fun x => x.todo.contains b.idx) = some h →
       w.live.find? (fun x => x.idx == b.idx) = some b → q = s.ring b.gang b.ring → q.cfg = true → q.full = false →
       (s.gang? b.gang).isSome → Mem.wf (s.gang b.gang).sp = true → bs = stageHeader b h ++ h.keys ++ h.values →
       at_ = q.base + (q.stageNo q.iss).val * q.size →
       ∃ t, exec (.pageDelivery k h.id b.idx) s = .next t ∧
         (∀ x, Mem.get (t.gang b.gang).sp x = spPut (fun x => Mem.get (s.gang b.gang).sp x) at_ bs x) ∧
         t.ring b.gang b.ring = (q.commit bs.length none).landTogether q.iss bs.length ∧
         ((t.gang b.gang).sansSp.sansRing b.ring).sansHarts = ((s.gang b.gang).sansSp.sansRing b.ring).sansHarts ∧
         (∀ r : Fin 4, ((t.gang b.gang).harts[r]).sansEvt = ((s.gang b.gang).harts[r]).sansEvt ∧
           (((s.gang b.gang).harts[r]).evt = true → ((t.gang b.gang).harts[r]).evt = true) ∧
           ((t.ring b.gang b.ring).fill ≠ q.fill → ((t.gang b.gang).harts[r]).evt = true)) ∧
         (t.sweeps[k]).committed = w.committed + 1 ∧
         (∃ b' ∈ (t.sweeps[k]).subs, b'.idx = b.idx ∧ (b'.ended = true ∨ b'.delivered = b.delivered ++ [h.id])) ∧
         (∀ l, t.byteAt l = s.byteAt l) ∧ (∀ u, u ≠ b.gang → t.gang? u = s.gang? u) ∧ t.sansGangs k = s.sansGangs k) ∧
     (w.st = .done → w.live = [] →
       (bits (nth w.rcd 2) 15 8 = 255 →
         ∃ t, exec (.sweepEnd k) s = .next t ∧
           t.sweeps[k] = { w with st := .ended, tblPins := [], pagePins := [], held := [] } ∧
           State.sansSweep k t = State.sansSweep k s) ∧
       ∀ c : Fin 256, bits (nth w.rcd 2) 15 8 = c.val → c.val ≠ 255 → Postable s w.p c →
         ∃ t, exec (.sweepEnd k) s = .next t ∧
           t.sweeps[k] = { w with st := .ended, tblPins := [], pagePins := [], held := [] } ∧
           (t.prt w.p).tasks[c] = s.posted_ w.p (s.prt w.p).tasks[c] (word (w.gen.toNat * 4 + k.val)) ∧
           State.sansSweep k (State.sansTask w.p c t) = State.sansSweep k (State.sansTask w.p c s))) ∧
  (∀ (s : State) (h : HartId) (j : Job) (w : Wait), (s.gang? h.gang).isSome → s.job? (s.gang h.gang).p (s.gang h.gang).job = some j →
     (s.hart h).wait = some w → (s.hart h).st = .blocked → w.what = .caskFull → w.since + 2048 ≤ s.cyc →
     (s.gang h.gang).phase = .placed → (s.prt (s.gang h.gang).p).switch = none →
     (0 < j.ovfFree →
       ∃ t, exec (.caskOverflow h) s = .next t ∧ (t.hart h).st = .running ∧
         (t.hart h).wait = some { w with expired := true } ∧ (t.hart h).sansWait = (s.hart h).sansWait ∧
         { t with gangs := [] } = { s with gangs := [] }) ∧
     (∀ (a : Nat) (u : State), j.ovfFree = 0 → s.takeSegment j = some (a, u) →
       ∃ t, exec (.caskOverflow h) s = .next t ∧ (t.hart h).st = .running ∧
         (t.hart h).wait = some { w with expired := true } ∧
         (∀ y, u.job? j.p j.id = some y → t.job? j.p j.id = some { y with ovfFree := 124, ovfBase := a }) ∧
         { t with gangs := [], jobs := [] } = { u with gangs := [], jobs := [] }) ∧
     (j.ovfFree = 0 → s.takeSegment j = none → j.st ≠ .abandoning →
       ∃ t, exec (.caskOverflow h) s = .next t ∧ Abandons t j.p j.id .spill s.dtime)) ∧
  (∀ (s : State) (j : Job) (n : Fin 4) (base nx size : Nat) (l : Leaf), s.memWf → j.rcd.amask.testBit n.val = true →
     (∀ k : Fin 4, k < n → j.rcd.amask.testBit k.val = false) → base = (s.arena j n).toNat → s.walk j.p j.vf base = .ok l →
     s.leafCheck j.p false .read l base (base + 63) = none → s.leafCheck j.p false .write l base (base + 63) = none →
     s.readPoison (l.pin.loc base) 64 = false → l.pin.kind = .dev → s.groupFailed (l.pin.loc base).pa = false →
     numAt s.byteAt (l.pin.loc (base + 16)) 8 % 2 = 1 → l.pin.va ≤ base →
     nx = (numAt s.byteAt (l.pin.loc base) 8 + 65535) / 65536 * 65536 + 65536 → size = numAt s.byteAt (l.pin.loc (base + 8)) 8 →
     (size < nx → s.takeSegment j = none) ∧
     (nx ≤ size → ∃ t, s.takeSegment j = some (base + nx - 65536, t) ∧
       (∀ m, t.byteAt m = putAt s.byteAt (l.pin.loc base) (bytesOfNat 8 nx) m) ∧ t.sansMem = s.sansMem))

/-- R278, R279: `TCOPY` of a legal record that meets the checks of R279 enters the cluster's queue.
R121, R276, R280, Tables 12-4 to 12-6: the next element of a copy, whose source and destination each lie in memory or in
scratchpad, is read at its source, converted, and written at its destination, and its bytes are counted to the barrier or
the ring stage that the copy names; no other byte of memory or scratchpad, and no other barrier or ring, changes.
R281: a copy that meets poison writes no further element and fails its job, and counts its bytes all the same.
R280, R281: a copy whose elements have all landed leaves the queue, and posts PAY on its channel where it names one; a
cancelled one leaves and posts nothing; one still at work stays. That the release of `TCOPY` completes beside the hart's
own buffered ordered operations is the model's reading (log entry 47). -/
def Obligations.CopiesMoveTheirElements : Prop :=
  (∀ (s : State) (a : Fin 48) (q : List Word), s.live → s.recordReady a → q = s.record a 20 → badCopy q = false →
     s.copyChecks q = none → s.copyStall q = none → s.myGang.diverged = false → s.me.stores = [] →
     ∃ t, exec (.tcopy a) s = .next t ∧ ∃ c, t.copies = s.copies ++ [c] ∧ c.id = s.nextWork ∧ c.p = s.myGang.p ∧
       c.job = s.myGang.job ∧ c.gang = s.myGang.uid ∧ c.cluster = s.myGang.core / 8 ∧ c.rcd = q ∧ c.pos = 0 ∧
       c.total = ((List.range 6).map (copyExt q)).prod ∧ c.poisoned = false ∧ c.cancelled = false ∧
       (copyCmpl q = 1 → c.iss = (s.myGang.rings[Fin.ofNat 8 (copyCtgt q)]).iss) ∧
       StepBut hideNone hideNone hideNone (fun u => { u with copies := [], nextWork := 0 }) s t s.byteAt) ∧
  (∀ (s : State) (c : Copy), c ∈ s.copies → (∀ e ∈ s.copies, e.id = c.id → e = c) → (s.gang? c.gang).isSome →
     c.cancelled = false → c.pos < c.total → s.memWf → s.spWf → s.expects c →
     (∀ (v : Nat) (bs : List Byte) (mem : Loc → Byte) (spm : Nat → Byte), c.poisoned = false → CopyIn s c v →
       bs = bytesOfNat (copyDsz c.rcd) (copyConvert c.rcd v) → CopyOut s c bs mem spm →
       ∃ t, exec (.copyBytesLand c.id 1) s = .next t ∧ (∀ l, t.byteAt l = mem l) ∧
         (∀ y, Mem.get (t.gang c.gang).sp y = spm y) ∧ CopyCounted s t c ∧
         (∃ d ∈ t.copies, d.id = c.id ∧ d.pos = c.pos + 1 ∧ d.poisoned = false) ∧ t.jobs = s.jobs) ∧
     (c.poisoned = true ∨ CopyBad s c →
       ∃ t, exec (.copyBytesLand c.id 1) s = .next t ∧ (∀ l, t.byteAt l = s.byteAt l) ∧
         (t.gang c.gang).sp = (s.gang c.gang).sp ∧ CopyCounted s t c ∧
         (∃ d ∈ t.copies, d.id = c.id ∧ d.pos = c.pos + 1 ∧ d.poisoned = true) ∧
         ∀ j, s.job? c.p c.job = some j → t.job? c.p c.job =
           some (if c.poisoned then j else { j with cause := some (j.cause.getD 0x0D) }))) ∧
  (∀ (s : State) (c : Copy), s.copies.find? (fun x => x.id == c.id) = some c →
     (c.cancelled = true ∨ (c.pos = c.total ∧ copyCmpl c.rcd ≠ 2) →
       exec (.copyComplete c.id) s = .next { s with copies := s.copies.filter fun x => x.id != c.id }) ∧
     (∀ n : Fin 256, c.cancelled = false → c.pos = c.total → copyCmpl c.rcd = 2 → copyCtgt c.rcd = n.val → Postable s c.p n →
       ∃ t, exec (.copyComplete c.id) s = .next t ∧ t.copies = (s.copies.filter fun x => x.id != c.id) ∧
         (t.prt c.p).tasks[n] = s.posted_ c.p (s.prt c.p).tasks[n] (nth c.rcd 3) ∧
         State.sansTask c.p n { t with copies := [] } = State.sansTask c.p n { s with copies := [] }) ∧
     (c.cancelled = false → c.pos < c.total → exec (.copyComplete c.id) s = .next s))

/-- R285, R289: `CSUBMIT` and `FHTX` of a legal record that passes its checks enter the queue of their engine or port.
R285, R316: `CSUBMIT` raises ENGINE where the partition has no engine of the class, and a check that fails leaves 0 in
`seaddr`.
R286 to R288, Table 12-11: a started command without a HARQ buffer, whose input has no poison and whose ranges lie in
one page each, writes its output and its status record, and no other byte, and leaves the queue.
R290, R382, R385: a transmit record whose window has opened leaves as one packet with the flow's next sequence number,
counted as sent, or, after its window, is dropped and counted; either way it leaves its port's queue.
R380, R381, R388, Table 18-8: an arriving frame is counted; one for the host goes to the receive queue, as one entry
where it fits, or is counted where the queue is full; the next released transmit entry is sent and stamped.
R381, R383 to R385, Table 18-7: the U-plane section of a frame that carries one is dropped and counted where no entry
matches it, where it is cut off, UNSUP or MISMATCH, where its entry has no target, and where it is DUP, LATE or
RINGFULL; a section taken is placed at its entry's offset in the stage of its key, counted, and its vintage posted
once for its key and entry (POST 01), or with the stage (POST 10). The fields that the status record leaves without a
meaning, and what comes from outside documents, are the model's (log entries 11, 23, 24 and 25), as are that the 32
commands that may wait for their engines are counted for each partition (log entry 44), that a polar encoder takes the
payload without its CRC (log entry 56), that a numPrbu of 256 to 272 is sent modulo 256 (log entry 57), and that the start time of a key uses the MU of the
entry (log entry 71), that T of a record is evaluated at the send (log entry 81), and that the releases of `CSUBMIT` and
`FHTX` complete beside the hart's own buffered ordered operations (log entry 47). -/
def Obligations.CodingAndFronthaulDeliver : Prop :=
  (∀ (s : State) (a : Fin 48), s.live → s.recordReady a → s.myGang.diverged = false → s.me.stores = [] →
     (∀ (cls : Fin 3) (q : List Word), q = s.record a 16 → badCodeHead q = false → badParam cls q = false →
       s.codeEngines cls ≠ 0 → s.codeChecks cls q = none →
       (s.codings.filter fun c => c.p == s.myGang.p && c.cls == cls && !c.started).length < 32 →
       ∃ t, exec (.csubmit cls a) s = .next t ∧ ∃ c, t.codings = s.codings ++ [c] ∧ c.id = s.nextWork ∧ c.p = s.myGang.p ∧
         c.job = s.myGang.job ∧ c.gang = s.myGang.uid ∧ c.cls = cls ∧ c.rcd = q ∧ c.started = false ∧ c.stale = false ∧
         StepBut hideNone hideNone hideNone (fun u => { u with codings := [], nextWork := 0 }) s t s.byteAt) ∧
     (∀ (cls : Fin 3) (q : List Word), q = s.record a 16 → badCodeHead q = false → badParam cls q = false →
       s.me.sup.svec ≠ 0 →
       (s.codeEngines cls = 0 → ∃ t, exec (.csubmit cls a) s = .next t ∧ TrapEntry s t 0x75 0x17 0 0 s.me.pc 0 0) ∧
       ∀ x, s.codeEngines cls ≠ 0 → s.codeChecks cls q = some x →
         ∃ t, exec (.csubmit cls a) s = .next t ∧ t.me.st = .trapped ∧ t.me.sup.scause.toNat = x.c.code ∧
           t.me.sup.seaddr = 0 ∧ t.me.sup.sepc = s.me.pc) ∧
     ∀ q : List Word, q = s.record a 8 → badTx q = false → bit (s.prt s.myGang.p).cap1 (40 + (txPort q).val) = true →
       s.txChecks q = none → (s.txs.filter fun t => txPort t.rcd == txPort q).length < 256 →
       ∃ t, exec (.fhtx a) s = .next t ∧ ∃ x, t.txs = s.txs ++ [x] ∧ x.id = s.nextWork ∧ x.p = s.myGang.p ∧
         x.job = s.myGang.job ∧ x.gang = s.myGang.uid ∧ x.rcd = q ∧
         StepBut hideNone hideNone hideNone (fun u => { u with txs := [], nextWork := 0 }) s t s.byteAt) ∧
  (∀ (s : State) (c : Coding) (o st pin : Pin) (r : CodeRes) (inp harq : List Byte), s.memWf → s.codings = [c] →
     c.started = true → c.stale = false → 0 < codeIn c.cls c.rcd → codeCk c.rcd = 1 → usesHarq c.cls c.rcd = false →
     c.inPins = [pin] → pin.va ≤ (nth c.rcd 0).toNat → (nth c.rcd 0).toNat + codeIn c.cls c.rcd ≤ pin.va + pin.size →
     pin.kind = .dev → (∀ k, k < codeIn c.cls c.rcd → s.engineReads pin ((nth c.rcd 0).toNat + k) 1) →
     inp = (List.range (codeIn c.cls c.rcd)).map (fun k => s.byteAt (pin.loc ((nth c.rcd 0).toNat + k))) → harq = [] →
     c.outPins = [o] → o.kind = .dev → o.va ≤ (nth c.rcd 1).toNat →
     (nth c.rcd 1).toNat + codeOut c.cls c.rcd ≤ o.va + o.size →
     c.statPins = [st] → st.kind = .dev → st.va ≤ (nth c.rcd 3).toNat → (nth c.rcd 3).toNat + 32 ≤ st.va + st.size →
     (nth c.rcd 3).toNat % 32 = 0 → (∀ a, s.groupFailed a = false) →
     r = codeResult c.cls c.rcd s.freeCtr inp harq → r.out.length = codeOut c.cls c.rcd →
     ∃ t, exec (.codingCommandComplete c.id) s = .next t ∧ t.codings = [] ∧
       (∀ l, t.byteAt l = putAt (putAt s.byteAt (o.loc (nth c.rcd 1).toNat) r.out) (st.loc (nth c.rcd 3).toNat)
         (bytesOfNat 8 (r.path % 8 * 2 ^ 15 + (if r.crcok then 2 ^ 14 else 0) + (if r.sz then 2 ^ 13 else 0)
           + r.iter % 32 * 256 + r.st) ++ bytesOfNat 8 s.dtime ++ bytesOfNat 8 r.pm ++ bytesOfNat 8 0) l) ∧
       t.gangs = s.gangs ∧ t.jobs = s.jobs) ∧
  (∀ (s : State) (x : Tx) (n : Fin 8) (f : Flow), s.txs = [x] → n = txPort x.rcd →
     f = (s.ports[n]).flows[Fin.ofNat 512 (txEaxc x.rcd)] →
     ((s.dtime : Int) < (s.txWindow x).1 → exec (.fronthaulSend x.id) s = .next s) ∧
     ((s.txWindow x).1 ≤ s.dtime → s.portUp n = true → bit f.q2 17 = true → bits f.q2 63 48 = txEaxc x.rcd →
       bits (nth x.rcd 6) 7 0 = 255 →
       ((s.txWindow x).2 < s.dtime →
         ∃ t, exec (.fronthaulSend x.id) s = .next t ∧ t.txs = [] ∧ t.out = s.out ∧
           (t.ports[n]).cnt[(13 : Fin 15)] = (s.ports[n]).cnt[(13 : Fin 15)] + 1) ∧
       (∀ bs, (s.dtime : Int) ≤ (s.txWindow x).2 → (s.txData x).1 = (bs, false) →
         (txPayload x.rcd bs).length + Config.packetOverhead (txMt x.rcd) (bit f.q2 16) (bit (nth x.rcd 2) 8) ≤
           (s.ports[n]).mtu.toNat →
         ∃ t, exec (.fronthaulSend x.id) s = .next t ∧ ∃ y, t.txs = [] ∧ t.out.getLast? = some (.packet y) ∧ y.port = n ∧
           y.seq = f.seq ∧ y.dmac = f.q0.setWidth 48 ∧ y.smac = f.q1.setWidth 48 ∧ y.payload = txPayload x.rcd bs ∧
           y.time = s.dtime ∧ y.cplane = txMt x.rcd ∧ y.eaxc.toNat = txEaxc x.rcd ∧ ((t.ports[n]).flows[Fin.ofNat 512 (txEaxc x.rcd)]).seq = f.seq + 1 ∧
           (t.ports[n]).cnt[(12 : Fin 15)] = (s.ports[n]).cnt[(12 : Fin 15)] + 1 ∧
           t.gangs = s.gangs ∧ t.jobs = s.jobs)) ∧
     ((s.txWindow x).1 ≤ s.dtime → s.portUp n = false → bits (nth x.rcd 6) 7 0 = 255 →
       exec (.fronthaulSend x.id) s = .next { s with txs := [] })) ∧
  (∀ (s : State) (p : Fin 3) (n : Fin 8) (q : Port), s.portOwner n = some p → s.portUp n = true → q = s.ports[n] → s.memWf →
     (∀ f : Sys2Proof.Frame, f.ethertype = 0x88F7 → f.raw.length ≤ 2032 → q.rxn ≠ 0 →
       (∀ a, s.groupFailed a = false) →
       ((q.rxt - q.rxh).toNat < 2 ^ q.rxn.toNat →
         ∃ t, exec (.frameReceive n f) s = .next t ∧ (t.ports[n]).rxt = q.rxt + 1 ∧
           (t.ports[n]).cnt[(0 : Fin 15)] = q.cnt[(0 : Fin 15)] + 1 ∧
           ∀ l, t.byteAt l = putAt s.byteAt { kind := .dev, pa := q.rxb.toNat * 4096 + 2048 * (q.rxt.toNat % 2 ^ q.rxn.toNat) }
             (bytesOfNat 8 (f.raw.length + 16384) ++ bytesOfNat 8 s.dtime ++ f.raw) l) ∧
       (2 ^ q.rxn.toNat ≤ (q.rxt - q.rxh).toNat →
         ∃ t, exec (.frameReceive n f) s = .next t ∧ (t.ports[n]).rxt = q.rxt ∧
           (t.ports[n]).cnt[(11 : Fin 15)] = q.cnt[(11 : Fin 15)] + 1 ∧ ∀ l, t.byteAt l = s.byteAt l)) ∧
     (∀ a q0 m, q.txh ≠ q.txt → a = q.txb.toNat * 4096 + 2048 * (q.txh.toNat % 2 ^ q.txn.toNat) →
       q0 = word (numAt s.byteAt { kind := .dev, pa := a } 8) → m = bits q0 13 0 →
       s.readPoison { kind := .dev, pa := a } (16 + m) = false → s.groupFailed (a + 8) = false → bit q0 15 = false → 0 < m → m ≤ 2032 →
       m ≤ q.mtu.toNat →
       ∃ t, exec (.hostQueueTransmit n) s = .next t ∧ ∃ bs, bs = (List.range m).map (fun k => s.byteAt { kind := .dev, pa := a + 16 + k }) ∧
         t.out.getLast? = some (.frame n bs s.dtime) ∧ (t.ports[n]).txh = q.txh + 1 ∧
         (t.ports[n]).cnt[(12 : Fin 15)] = q.cnt[(12 : Fin 15)] + 1 ∧
         numAt t.byteAt { kind := .dev, pa := a } 8 = (q0 ||| 0x4000).toNat ∧
         numAt t.byteAt { kind := .dev, pa := a + 8 } 8 = s.dtime % 2 ^ 64)) ∧
  (∀ (s : State) (p : Fin 3) (n : Fin 8) (f : Sys2Proof.Frame) (x : FhSection), s.portOwner n = some p → s.portUp n = true →
     (f.ethertype = 0xAEFE → f.uplane = true → f.sections = [x] → f.trailing = false →
       (f.cutAt = some 0 → exec (.frameReceive n f) s = .next ((s.countPort n 0).countPort n 9)) ∧
       (f.cutAt = none → (∀ i : Fin 1024, ((s.ports[n]).places[i]).matches_ f = false) → (s.ports[n]).hqen = false →
         exec (.frameReceive n f) s = .next ((s.countPort n 0).countPort n 2))) ∧
     ∀ (i : Fin 1024) (e : Place) (who : Nat), SectionFor s n f x i → e = (s.ports[n]).places[i] → who = n.val * 1024 + i.val →
       (x.unsupported = true → exec (.frameReceive n f) s = .next ((s.countPort n 0).countPort n 4)) ∧
       (x.unsupported = false → e.mismatch x = true →
         exec (.frameReceive n f) s = .next ((s.countPort n 0).countPort n 3)) ∧
       (x.unsupported = false → e.mismatch x = false →
         (∀ k, e.any = true ∨ e.job ≠ 0 → bits e.q0 9 8 ≠ 1 → SectionDrop s p e f who k →
           exec (.frameReceive n f) s = .next ((s.countPort n 0).countPort n k)) ∧
         (∀ g r c, e.any = true ∨ e.job ≠ 0 → bits e.q0 9 8 ≠ 1 → s.postTarget p e = some g → s.gang? g.uid = some g →
           Mem.wf g.sp = true → SectionStage s e f who g r c →
           ∃ t, exec (.frameReceive n f) s = .next t ∧ SectionPlaced s t n e f x who g r c ∧
             ((s.sectionRing e f who g r c).1 = [] → t.parts = s.parts) ∧
             ∀ (ch : Fin 256) (v : Word), (s.sectionRing e f who g r c).1 = [(ch.val, v)] → Postable s p ch →
               (t.prt p).tasks[ch] = s.posted_ p (s.prt p).tasks[ch] v) ∧
         ∀ ch : Fin 256, bits e.q0 9 8 = 1 → bits e.q0 7 0 = ch.val → e.any = false → e.job = 0 →
           (s.key e f ∈ e.posted → exec (.frameReceive n f) s = .next (s.countPort n 0)) ∧
           (s.key e f ∉ e.posted → Postable s p ch →
             ∃ t, exec (.frameReceive n f) s = .next t ∧
               (t.prt p).tasks[ch] = s.posted_ p (s.prt p).tasks[ch] (s.keyVint e f) ∧
               ((t.ports[n]).places[i]).posted = s.key e f :: e.posted ∧ t.gangs = s.gangs ∧ t.jobs = s.jobs)))

/-! ### The device's other agents -/

/-- R127, R147, R285 to R288, R329 to R333, R339, R369 to R391, R402 to R412, Tables 16-4, 18-2 to 18-9, 19-5: a step that
writes registers writes those fields and nothing else; one that its rule ignores changes nothing. The start of a coding
command, the clearing of a scratchpad, and a snoop of the host for a HOSTC line are such steps too. That the snoop filter
is empty where CXL 3.1 mode begins or ends (log entry 30), that a RETIRE of more than four ways is
ignored (log entry 29), the conditions on versions and what a snoop of the host takes away (log entry 30), the time of
the last servo write (log entry 31), TREM in units of 10^-4 ns (log entry 32), that a partition in FAULT ignores
writes of its registers as one in RESET does (log entry 49), and that a link trains at nothing but what Table 1-7
names (log entry 1), are the model's choices, as are a larger FQN stored as 12 and a larger MTU as 9,216 (log entry 70),
and that writing a placement entry clears the keys it has posted (log entry 71). -/
def Obligations.DeviceWritesSetTheirFields : Prop :=
  ∀ (s t : State) (i : Instr), DeviceWrite s i t → exec i s = .next t

/-- R33, R192, R244: a blocked hart goes on when what it waits for has come; a `TWAIT`, a `VWAITC`, a hart stalled on
Cask and one that waits for a queue go on at any time, and look anew for what they wait for (the model's reading, log
entry 20). A `WFE` that times out returns with the event register clear, and a `VWAITC` that times out is evaluated a last
time.
R125, R315, R321, R323: the events at a user hart's boundary trap as Table 15-4 says, and a handler that runs 2^26
cycles kills its hart. An address breakpoint saves the element index of the hart, with OP 0 (log entry 17).
R43: a hart that has run for 2^24 cycles with its ticket unsealed, below a higher key, traps with WATCHDOG when the device
finds that it spins; whether it does is the device's choice, and the model's reading (log entry 73). -/
def Obligations.HartEventsResumeOrTrap : Prop :=
  (∀ (s : State) (h : HartId) (x : Hart) (w : Wait), x = s.hart h → s.onCore h = true → x.st = .blocked → x.wait = some w →
     (WaitEnds s h w.what →
       exec (.blockedHartResume h) s = .next (s.modHart h fun x => { x with st := .running })) ∧
     (∀ e, w.what = .wfe → w.ends = some e → e ≤ s.dtime →
       exec (.wfeTimeout h) s = .next (s.modHart h fun x =>
         { x with pc := x.pc + 8, ei := 0, wait := none, bpExempt := false, stepDue := x.stepDue || x.stepArm,
                  stepArm := false, st := .running, evt := false })) ∧
     (∀ e, w.what = .vwaitc ∨ w.ofVwaitc = true → w.ends = some e → e ≤ s.dtime →
       exec (.vwaitcTimeout h) s = .next (s.modHart h fun x =>
         { x with st := .running, wait := x.wait.map fun w => { w with expired := true } }))) ∧
  (∀ (s : State) (h : HartId) (x : Hart), x = s.hart h → s.onCore h = true → x.stores = [] → x.ei < 128 →
     (x.sup.svec ≠ 0 →
       (∀ w, x.st = .blocked → x.wait = some w → w.watched = true → w.since + 2 ^ 24 ≤ s.cyc → w.op < 128 →
         w.late = true ∨ (s.gang h.gang).eventCame h.rank w = false →
         ∃ t, exec (.waitWatchdog h) s = .next t ∧ TrapEntry (s.at_ h) (t.at_ h) w.op 0x15 1 0 x.pc
           (if 0x42 ≤ w.op ∧ w.op ≤ 0x4B ∨ w.op = 0x50 ∨ w.op = 0x51 then x.ei else 0) w.addr) ∧
       (∀ w, x.st = .blocked → x.wait = some w → w.late = false → (s.gang h.gang).eventCame h.rank w = true →
         exec (.waitWatchdog h) s = .next s) ∧
       (x.st = .running → 2 ^ 24 ≤ x.spun → x.sealed = false →
         s.ticket h + 1 < (s.jobOf (s.gang h.gang)).tickets ∨ (s.jobOf (s.gang h.gang)).spawnKey.isSome = true →
         (∀ r, s.choices = 1 :: r →
           ∃ t, exec (.waitWatchdog h) s = .next t ∧
             TrapEntry ({ s with choices := r }.at_ h) (t.at_ h) 0 0x15 1 0 x.pc x.ei 0) ∧
         (s.choices = [] → exec (.waitWatchdog h) s = .next s)) ∧
       (x.st = .running → x.spun < 2 ^ 24 ∨ x.sealed = true → exec (.waitWatchdog h) s = .next s) ∧
       (x.st = .running ∨ x.st = .blocked → 2 ^ (12 + x.sup.lhl.toNat) ≤ x.hold →
         ∃ t, exec (.lockHoldWatchdog h) s = .next t ∧ TrapEntry (s.at_ h) (t.at_ h) 0 0x15 2 0 x.pc x.ei x.lockAddr) ∧
       (x.st = .running → x.sup.bpe = true → x.bpExempt = false → x.pc = x.sup.bpa.setWidth 64 →
         ∃ t, exec (.addressBreakpoint h) s = .next t ∧ TrapEntry (s.at_ h) (t.at_ h) 0 0x14 0 1 x.pc x.ei 0) ∧
       (x.st = .running → x.stepDue = true →
         ∃ t, exec (.singleStep h) s = .next t ∧ TrapEntry (s.at_ h) (t.at_ h) 0 0x14 0 2 x.pc 0 0)) ∧
     (x.st = .trapped → x.sup.st = .running → 2 ^ 26 ≤ x.sup.ran →
       ∃ t, exec (.handlerWatchdog h) s = .next t ∧ Killed (s.at_ h) (t.at_ h) 0x15))

/-- R324: the Hearth calls `KILL`, `INFO`, `LOG` and `ABANDON` have their effect once the firmware takes them, and a bad
argument, and an argument that cannot be read, answers 3 in `g1`.
R377: `HOSTQ` posts its message as the next entry of the function's fault queue and waits; the host's reply answers
it with status 0 and the reply in `g2`, its time-out with status 4, and a queue without room with status 2. The entry is
numbered by a counter of the partition (log entry 26), and its padding bytes are free (log entry 40). That
`ABANDON` with `g1` = 1 takes the descendants of a job of policy 00 follows R344 against Table 15-6 (log entry 41).
The choices of log entry 26 apply. -/
def Obligations.HearthCallsAreAnswered : Prop :=
  (∀ (s : State) (h : HartId) (c : Call) (g : Gang) (x : Hart), s.gang? h.gang = some g → x = s.hart h →
     (CallReady s h 1 c → x.stores = [] →
       ((x.sup.g[(1 : Fin 32)]).toNat % 256 = 0 →
         ∃ t, exec (.kill h) s = .next t ∧ Answered hideNone s t h (statusIs 3)) ∧
       ((x.sup.g[(1 : Fin 32)]).toNat % 256 ≠ 0 →
         ∃ t, exec (.kill h) s = .next t ∧ Killed (s.at_ h) (t.at_ h) ((x.sup.g[(1 : Fin 32)]).toNat % 256))) ∧
     (CallReady s h 5 c →
       ∃ t, exec (.info h) s = .next t ∧ Answered hideNone s t h fun r =>
         if r = 1 then some 0 else if r = 2 then some (x.sup.sver.setWidth 64)
         else if r = 3 then some (s.prt g.p).cap1 else none) ∧
     (CallReady s h 3 c →
       ((x.sup.g[(2 : Fin 32)]).toNat = 0 ∨ 256 < (x.sup.g[(2 : Fin 32)]).toNat →
         ∃ t, exec (.log h) s = .next t ∧ Answered hideNone s t h (statusIs 3)) ∧
       (1 ≤ (x.sup.g[(2 : Fin 32)]).toNat → (x.sup.g[(2 : Fin 32)]).toNat ≤ 256 →
         s.argBytes h (x.sup.g[(1 : Fin 32)]).toNat (x.sup.g[(2 : Fin 32)]).toNat = none →
         ∃ t, exec (.log h) s = .next t ∧ Answered State.sansReads s t h (statusIs 3)) ∧
       ∀ bs u, 1 ≤ (x.sup.g[(2 : Fin 32)]).toNat → (x.sup.g[(2 : Fin 32)]).toNat ≤ 256 →
         s.argBytes h (x.sup.g[(1 : Fin 32)]).toNat (x.sup.g[(2 : Fin 32)]).toNat = some (bs, u) →
         ∃ t, exec (.log h) s = .next t ∧ (t.func g.p (s.jobOf g).vf).log = (s.func g.p (s.jobOf g).vf).log ++ bs ∧
           Answered (fun u => (u.sansReads).modFunc g.p (s.jobOf g).vf fun f => { f with log := [] }) s t h (statusIs 0)) ∧
     (CallReady s h 4 c →
       (2 ≤ (x.sup.g[(1 : Fin 32)]).toNat → ∃ t, exec (.abandon h) s = .next t ∧ Answered hideNone s t h (statusIs 3)) ∧
       (∀ j, (x.sup.g[(1 : Fin 32)]).toNat ≤ 1 → s.job? g.p g.job = some j → j.st ≠ .abandoning →
         ∃ t, exec (.abandon h) s = .next t ∧ Abandons t g.p g.job .abandoned s.dtime) ∧
       ∀ j k d, (x.sup.g[(1 : Fin 32)]).toNat ≤ 1 → s.job? g.p g.job = some j → j.st ≠ .abandoning →
         (x.sup.g[(1 : Fin 32)] = 0 ∨ j.rcd.abp = 0) → k ∈ s.descendants g.p (s.families.length + 1) g.job →
         s.job? g.p k = some d → d.st ≠ .abandoning →
         ∃ t, exec (.abandon h) s = .next t ∧ Abandons t g.p k .abandoned s.dtime)) ∧
  (∀ (s : State) (h : HartId) (c : Call) (g : Gang) (x : Hart) (vf : Fin 64), s.gang? h.gang = some g → x = s.hart h →
     vf = (s.jobOf g).vf → (s.gangs.map Gang.uid).Nodup →
     (∀ bs u, CallReady s h 2 c → s.memWf → bs.length = (x.sup.g[(2 : Fin 32)]).toNat → 8 ≤ bs.length → bs.length ≤ 256 →
       bs.length % 8 = 0 → s.argBytes h (x.sup.g[(1 : Fin 32)]).toNat bs.length = some (bs, u) →
       ((s.func g.p vf).fqn = 0 ∨ ((s.func g.p vf).fqt - (s.func g.p vf).fqh).toNat = 2 ^ (s.func g.p vf).fqn.toNat →
         ∃ t, exec (.hostq h) s = .next t ∧ Answered State.sansReads s t h (statusIs 2)) ∧
       (∀ q, (s.func g.p vf).fqn ≠ 0 → ((s.func g.p vf).fqt - (s.func g.p vf).fqh).toNat ≠ 2 ^ (s.func g.p vf).fqn.toNat →
         q = (s.func g.p vf).fqb.toNat * 4096 + 320 * ((s.func g.p vf).fqt.toNat % 2 ^ (s.func g.p vf).fqn.toNat) →
         s.groupFailed q = false →
         ∃ t, exec (.hostq h) s = .next t ∧ (t.func g.p vf).fqt = (s.func g.p vf).fqt + 1 ∧
           (t.hart h).sup.call = some { c with
             taken := true, entry := some (s.func g.p vf).fqt,
             ends := if x.sup.g[(3 : Fin 32)] = 0 then none else some (s.dtime + (x.sup.g[(3 : Fin 32)]).toNat) } ∧
           (t.hart h).sup.st = .blocked ∧
           numAt t.byteAt { kind := .dev, pa := q } 8 = c.seq % 2 ^ 32 + bs.length * 2 ^ 32 ∧
           numAt t.byteAt { kind := .dev, pa := q + 8 } 8 = g.job % 2 ^ 64 ∧
           (∀ k, k < bs.length → t.byteAt { kind := .dev, pa := q + 32 + k } = bs.getD k 0) ∧
           ∀ a, a < q ∨ q + 320 ≤ a → t.byteAt { kind := .dev, pa := a } = s.byteAt { kind := .dev, pa := a })) ∧
     (∀ e, s.call? h = some c → c.n = 2 → c.taken = true → c.ends = some e → e ≤ s.dtime →
       ∃ t, exec (.hostqTimeout h) s = .next t ∧ Answered hideNone s t h (statusIs 4)) ∧
     (∀ seq, s.call? h = some c → c.n = 2 → c.taken = true → c.seq % 2 ^ 32 = seq.toNat → (s.prt g.p).st = .run →
       h.rank.val < g.hn →
       (∀ k d, s.call? k = some d → d.taken = true → d.seq % 2 ^ 32 = seq.toNat → k = h) →
       ∃ t, exec (.faultQueueReply g.p vf seq) s = .next t ∧
         Answered hideNone s t h fun r => if r = 1 then some 0 else if r = 2 then some (s.func g.p vf).fqrv else none))

/-- R28, R29, R332 to R337: Hearth takes the next record of a launch window, or the next message of a channel, and
launches its job; a record that R332 refuses makes no job.
R334, Table 16-2: a write of a task-table entry sets its fields, keeps its messages, and is valid only with a template
that Hearth can read and accepts.
That a channel job has parent 0, that an ARGS payload goes whole into Q1, that the vintage is evaluated at the take, and
that the template is checked with deadline 0, are the model's readings (log entry 27). -/
def Obligations.LaunchesMakeJobs : Prop :=
  (∀ (s : State) (p : Fin 3) (vf : Fin 64) (ch : Fin 256), (s.prt p).st = .run → s.admits p = true →
     (∀ r, (s.func p vf).lhead ≠ (s.func p vf).ltail →
       r = { (s.func p vf).slots[Fin.ofNat 64 (s.func p vf).lhead.toNat] with q7 := 0 } →
       (r.refused false r.ddl = false → s.ungranted p vf r = false → r.cosched = false →
         ∃ t, exec (.launchWindowTake p vf) s = .next t ∧ Launched s t p vf r .host none ∧
           (t.func p vf).lhead = (s.func p vf).lhead + 1) ∧
       (r.refused false r.ddl = true ∨ s.ungranted p vf r = true → r.crec = 0 →
         ∃ t, exec (.launchWindowTake p vf) s = .next t ∧ t.jobs = s.jobs ∧ (t.prt p).nextJob = (s.prt p).nextJob ∧
           (t.func p vf).lhead = (s.func p vf).lhead + 1)) ∧
     ∀ e m rest r, e = (s.prt p).tasks[ch] → e.msgs = m :: rest → e.valid = true → e.blk = false →
       m.taken = none → MessageRecord s e m r → r.refused false r.ddl = false → s.ungranted p (Fin.ofNat 64 e.vf.toNat) r = false →
       r.cosched = false →
       ∃ t, exec (.channelMessageTake p ch) s = .next t ∧
         Launched s t p (Fin.ofNat 64 e.vf.toNat) r (.channel ch)
           (if e.pin = true then some (8 * e.pcl.toNat + e.pcore.toNat, e.pslot.toNat) else none) ∧
         (t.prt p).tasks[ch] = { e with msgs := rest }) ∧
  (∀ (s : State) (p : Fin 3) (ch : Fin 256) (e : TaskEntry) (m : Msg) (rest : List Msg), (s.prt p).st = .run →
     e = (s.prt p).tasks[ch] → e.msgs = m :: rest →
     (∀ k r, m.taken = some k → k.rcd = some r → r.refused false r.ddl = false → s.ungranted p k.vf r = false →
       r.cosched = false →
       ∃ t, exec (.channelMessageTake p ch) s = .next t ∧ Launched s t p k.vf r (.channel ch) k.pin ∧
         (t.prt p).tasks[ch] = { e with msgs := rest }) ∧
     (m.taken = none ∧ e.valid = true ∧ e.blk = false ∧ s.admits p = true ∧
         (e.doff.toInt < 0 ∧ (e.pmode = 0 ∨ e.pmode = 1) ∨ e.pmode = 2 ∧ 2 ^ 40 ≤ m.payload.toNat) ∨
       (∃ k, m.taken = some k ∧ k.rcd = none) →
       ∃ t, exec (.channelMessageTake p ch) s = .next t ∧ t.jobs = s.jobs ∧ (t.prt p).rmcnt = (s.prt p).rmcnt + 1 ∧
         (t.prt p).tasks[ch] = { e with msgs := rest }) ∧
     (m.taken = none → e.valid = false ∨ e.blk = true ∨ s.admits p = false →
       exec (.channelMessageTake p ch) s = .next s)) ∧
  (∀ (s : State) (p : Fin 3) (ch : Fin 256) (q0 q1 q2 q3 : Word), (s.prt p).st = .run →
     ∃ t, exec (.taskTableWrite p ch q0 q1 q2 q3) s = .next t ∧ ∃ e, (t.prt p).tasks[ch] = e ∧
       (State.sansTask p ch t).sansReads = (State.sansTask p ch s).sansReads ∧ e.msgs = ((s.prt p).tasks[ch]).msgs ∧
       e.tmplVa = q0.setWidth 56 ∧ e.doff = q1.extractLsb' 32 32 ∧ e.vf = q1.extractLsb' 8 6 ∧
       e.pmode = q1.extractLsb' 2 2 ∧ e.blk = q1.getLsbD 1 ∧ e.perm = q2 ∧ e.rsv = q3.getLsbD 9 ∧ e.pin = q3.getLsbD 8 ∧
       e.pcl = q3.extractLsb' 5 3 ∧ e.pcore = q3.extractLsb' 2 3 ∧ e.pslot = q3.extractLsb' 0 2 ∧
       (q1.getLsbD 0 = false → e.valid = false) ∧
       ∀ r, q1.getLsbD 0 = true → s.readTemplate p (Fin.ofNat 64 (q1.extractLsb' 8 6).toNat) (q0.setWidth 56).toNat = some r →
         e.tmpl = r ∧ (e.valid = true ↔ r.refused false 0 = false ∧ (q0.setWidth 56).toNat % 64 = 0 ∧
           q1.extractLsb' 2 2 ≠ 3 ∧
           (q3.getLsbD 8 = true → r.gangs = 1 ∧ r.cosched = false ∧ r.paired = false ∧
             (q3.extractLsb' 0 2).toNat + r.harts ≤ 4 ∧ (s.prt p).cap1.getLsbD (56 + (q3.extractLsb' 5 3).toNat) = true)))

/-- R330, R343, R344, R376: a comparison tick abandons the jobs whose deadline has come, the host's KILL ends a job with
status KILLED, and an abandoned job whose copies have stopped leaves the device with its record written.
R30 to R32, R343: a job whose gangs are over ends when no work of R30 is left: DONE, with its continuation channel
posted, or FAILED with the cause of its first failure. R329: the job still counts where the launch of that post is
admitted.
R38, R40, R234, R371: the commit right passes a ticket that is sealed or voided and has nothing left to perform, in
its job or along the family; entries that have stalled their hart for 4,096 cycles move to a spill segment; and an
element that meets poison late, or a twin write that is refused, fails its job. That a spill counts the operation that
waits for room where the moved entries leave it none is the model's reading (log entry 32), and the records' bytes are
free (log entry 43).
The choices of log entry 27 apply. -/
def Obligations.JobsEndOrAreAbandoned : Prop :=
  ((∀ s : State, s.tickDue = true →
     ∃ t, exec .comparisonTick s = .next t ∧ t.lastTick = s.dtime ∧ t.dtime = s.dtime ∧
       ∀ j, s.job? j.p j.id = some j → j.rcd.ddl ≠ 0 → j.rcd.ddl ≤ s.dtime / 64 * 64 → j.st ≠ .abandoning →
         ∃ k, Abandons t j.p j.id .abandoned k ∧ k % 64 = 0 ∧ s.lastTick < k ∧ k ≤ s.dtime) ∧
   (∀ (s : State) (p : Fin 3) (vf : Fin 64) (job : BitVec 40) (j : Job), (s.prt p).st = .run →
     s.job? p job.toNat = some j → j.vf = vf → j.st ≠ .abandoning →
     ∃ t, exec (.jobKillRequest p vf job) s = .next t ∧ Abandons t p job.toNat .killed s.dtime) ∧
   ∀ (s : State) (p : Fin 3) (job e : Nat) (j : Job), s.memWf → s.job? p job = some j → j.st = .abandoning →
     (∀ c ∈ s.copies, ¬ (c.p = p ∧ c.job = job)) → j.endAt = some e → (s.prt p).aben = false → j.ending ≠ .done →
     ∃ t, exec (.abandonComplete p job) s = .next t ∧ t.job? p job = none ∧ t.gangs = s.gangs ∧
       RecordWritten s t p j.vf j.rcd.crec
         [job % 2 ^ 40 * 2 ^ 24 + (if j.ending = .killed then ((j.cause.map BitVec.toNat).getD 0) else 0) * 2 ^ 16
            + j.ending.code, e, (j.voidedT.dedup.min?).getD 0,
          (j.rcd.gangs - j.gangsEnded) * 2 ^ 24 + j.voidedT.dedup.length]) ∧
  (∀ (s : State) (p : Fin 3) (job : Nat) (j : Job), s.memWf → s.job? p job = some j → j.st = .ending →
     s.busyJob p job = false → (∀ k : Fin 4, (s.sweeps[k]).p = p → (s.sweeps[k]).job ≠ job) →
     j.voidedT = [] → j.gangsEnded = j.rcd.gangs →
     (∀ c, j.cause = some c → (s.prt p).aben = false →
       ∃ t, exec (.jobEnd p job) s = .next t ∧ t.job? p job = none ∧ t.gangs = s.gangs ∧
         RecordWritten s t p j.vf j.rcd.crec [job % 2 ^ 40 * 2 ^ 24 + c.toNat * 2 ^ 16 + JobStatus.failed.code, s.dtime, 0, 0]) ∧
     (j.cause = none → j.rcd.cont = 255 →
       ∃ t, exec (.jobEnd p job) s = .next t ∧ t.job? p job = none ∧ t.gangs = s.gangs ∧
         RecordWritten s t p j.vf j.rcd.crec [job % 2 ^ 40 * 2 ^ 24 + JobStatus.done.code, s.dtime, 0, 0]) ∧
     (j.cause = none → j.rcd.crec = 0 → ∀ c : Fin 256, j.rcd.cont = c.val → c.val ≠ 255 → Postable s p c →
       ∃ t, exec (.jobEnd p job) s = .next t ∧ t.job? p job = none ∧
         (t.prt p).tasks[c] = s.posted_ p (s.prt p).tasks[c]
           (if j.rcd.q5 ≠ 0 ∧ j.rcd.q5.toNat % 32 = 0 then j.rcd.q5 else word (2 ^ 63 + job)))) ∧
  ((∀ (s : State) (p : Fin 3) (job : Nat) (j : Job), s.job? p job = some j →
     (j.right < j.tickets → (j.right ∈ j.sealedT ∨ j.right ∈ j.voidedT) → s.pendingOps p job j.right false = false →
       ∃ t, exec (.commitRightPass p job false) s = .next t ∧ ∃ j', t.job? p job = some j' ∧ j'.right = j.right + 1 ∧
         j'.sealedT = j.sealedT ∧ j'.voidedT = j.voidedT ∧ j'.st = j.st) ∧
     (j.tickets ≤ j.right ∨ (j.right ∉ j.sealedT ∧ j.right ∉ j.voidedT) ∨ s.pendingOps p job j.right false = true →
       exec (.commitRightPass p job false) s = .next s)) ∧
   (∀ (s : State) (p : Fin 3) (job : Nat) (f : Family) (k : Kid) (j : Job),
     s.families.find? (fun f => f.p == p && f.kids.any fun k => k.job == job) = some f →
     s.families.find? (fun x => x.p == p && x.parent == f.parent) = some f →
     f.kids.find? (fun x => x.ticket == f.pt && x.num == f.num) = some k → f.right + 1 < k.tickets → s.job? p k.job = some j →
     (f.right ∈ j.sealedT ∨ f.right ∈ j.voidedT) → s.pendingOps p k.job f.right true = false →
     ∃ t, exec (.commitRightPass p job true) s = .next t ∧
       t.families.find? (fun x => x.p == p && x.parent == f.parent) = some { f with right := f.right + 1 }) ∧
   (∀ (s u : State) (h : HartId) (n : Nat) (tree : Bool) (w : Wait) (j : Job) (k segs : Nat), (s.hart h).st = .blocked →
     (s.hart h).wait = some w → w.what = .commitFull n tree → w.since + 4096 ≤ s.cyc → (s.gang h.gang).phase = .placed →
     (s.prt (s.gang h.gang).p).switch = none → j = s.jobOf (s.gang h.gang) → s.job? j.p j.id = some j →
     k = (s.entries.filter fun e => e.h == h && e.place == 0).length →
     segs = (k + (if s.commitUsed (s.gang h.gang).core - k + n ≤ 1024 then 0 else n) - (s.hart h).spill.length + 63) / 64 →
     (s.hasRight j (s.ticket h) tree = true → exec (.commitSpill h) s = .next s) ∧
     (∀ as recs, s.hasRight j (s.ticket h) tree = false → s.takeSegments j segs = (some as, u) →
       recs = (s.hart h).spill ++ (as.map fun a => (List.range 64).map fun i => a + 1024 * i).flatten →
       ∃ t, exec (.commitSpill h) s = .next t ∧
         t.entries = s.entries.map (fun e => if e.h = h ∧ e.place = 0 then { e with place := 1 } else e) ∧
         (∀ l, t.byteAt l = ((recs.take k).foldl (fun s a => s.writeFree j a 1024) u).byteAt l) ∧
         ((s.gang? h.gang).isSome → (t.hart h).st = .running ∧ (t.hart h).spill = recs.drop k)) ∧
     (s.hasRight j (s.ticket h) tree = false → s.takeSegments j segs = (none, u) → j.st ≠ .abandoning →
       ∃ t, exec (.commitSpill h) s = .next t ∧ Abandons t j.p j.id .spill s.dtime)) ∧
   ∀ (s : State) (p : Fin 3) (job idx : Nat) (q : Posted),
     (∃ t, exec (.twinRefusedWrite p job) s = .next t ∧ { t with jobs := [] } = { s with jobs := [] } ∧
       ∀ j, s.job? p job = some j → t.job? p job = some { j with cause := some (j.cause.getD 0x0D) }) ∧
     (s.posted[idx]? = some q → q.p = p → q.job = job → q.met = true ∨ s.elemPoison q.elem = true →
       ∃ t, exec (.latePoison p job idx) s = .next t ∧
         { t.sansReads with jobs := [] } = { s.sansReads with jobs := [], posted := s.posted.eraseIdx idx } ∧
         (q.met = true → t.hostErr = s.hostErr) ∧
         ∀ j, s.job? p job = some j → t.job? p job = some { j with cause := some (j.cause.getD 0x0D) }))

/-- R26, R27, R70, R338, R339: a placement opportunity puts the one gang that waits into the seat that fits it, each hart
at the entry of its launch record with Q1 in `g1`; a gang that is over gives its slots and scratchpad back once no engine
touches it.
R342, R347, R348: light pre-emption stops the best-effort gangs on a core where a class-0 hart is short of time, a `MOPA`
perhaps between two of its groups (log entry 10), and they resume in place, with their event registers set, when no such
hart is left.
R349 to R357, Tables 17-2 to 17-5: the save engine writes a hart's frame, with its PC, `vl`, `ei`, `fcsr` and scalar
registers, and releases its pins; when every hart is saved and no engine touches the gang, it writes the gang's frame
with its barriers, its rings and its scratchpad, and the phases that each hart has consumed into the hart's frame, and no
other byte, and the gang is evicted. What a frame does not hold stays with the gang, and the order of placement among
equals is the model's reading (log entry 28). -/
def Obligations.GangsArePlacedAndEvicted : Prop :=
  ((∀ (s : State) (p : Fin 3) (j : Job) (a : Seat), (s.prt p).st = .run → s.readyJobs p = [j] → j.p = p → j ∈ s.jobs →
     (∀ x ∈ s.jobs, x.p = p → x.id = j.id → x = j) → j.rcd.cosched = false → j.skipped = [] →
     j.nextGang + 1 = j.rcd.gangs →
     (∀ g ∈ s.gangs, g.phase ≠ .evicted) → s.held j j.nextGang = none →
     s.findSeats p (j.need none) (s.cores p) = some (a, none) →
     ∃ t, exec (.gangPlace p) s = .next t ∧ ∃ g j', t.gangs = s.gangs ++ [g] ∧ g.uid = s.nextGang ∧ g.p = p ∧ g.job = j.id ∧
       g.index = j.nextGang ∧ g.hn = j.rcd.harts ∧ g.core = a.core ∧ g.slots = a.slots ∧ g.spBase = a.base ∧
       g.spsize = 1024 * j.rcd.spk ∧ g.phase = .placed ∧ g.sp = [] ∧
       (∀ r : Fin 4, (g.harts[r]).pc = word j.rcd.entry ∧ (g.harts[r]).g[(1 : Fin 32)] = j.rcd.q1 ∧
         (g.harts[r]).st = .running ∧ (g.harts[r]).vl = 128 ∧ (g.harts[r]).fcsr = 1 ∧
         (g.harts[r]).sup.svec = word ((s.func p j.vf).svec.toNat * 8) ∧ (g.harts[r]).sup.sver = (s.prt p).fwver) ∧
       t.job? p j.id = some j' ∧ j'.nextGang = j.nextGang + 1 ∧ j'.st = .placed) ∧
   ∀ (s : State) (u : Nat) (g : Gang), s.gang? u = some g → g.phase = .over →
     (s.touched u = false →
       exec (.gangRelease u) s = .next { s with
         gangs := s.gangs.filter fun x => x.uid ≠ u
         toClear := s.toClear ++ (g.core, g.spBase, g.spsize) ::
           ((g.core2.map fun c => (c, g.spBase2, g.spsize)).toList) }) ∧
     (s.touched u = true → exec (.gangRelease u) s = .next s)) ∧
  (∀ (s : State) (c : Fin 64),
     (s.urgent c = true → (s.gangs.map Gang.uid).Nodup →
       ∃ t, exec (.lightPreemption c) s = .next t ∧ { t.sansCut with gangs := [] } = { s.sansCut with gangs := [] } ∧
         (∀ l, t.byteAt l = s.byteAt l) ∧
         ∀ u g, s.gang? u = some g → ∃ g', t.gang? u = some g' ∧
           (g.phase = .placed ∧ (s.jobOf g).rcd.ddl = 0 ∧ s.together g (fun k => k == c.val) = true →
             g'.phase = .light ∧ { g' with phase := .placed, harts := g.harts } = g ∧
             ∀ r : Fin 4, (g'.harts[r]).wait = none ∧ (g'.harts[r]).sansCut = (g.harts[r]).sansCut ∧
               (s.choices = [] → (g'.harts[r]).ei = (g.harts[r]).ei ∧ (g'.harts[r]).acc = (g.harts[r]).acc)) ∧
           (¬ (g.phase = .placed ∧ (s.jobOf g).rcd.ddl = 0 ∧ s.together g (fun k => k == c.val) = true) → g' = g)) ∧
     (s.urgent c = false → exec (.lightPreemption c) s = .next s) ∧
     ∃ t, exec (.lightPreemptionResume c) s = .next t ∧ { t with gangs := [] } = { s with gangs := [] } ∧
       ∀ u g, s.gang? u = some g → ∃ g', t.gang? u = some g' ∧
         (g.phase = .light ∧ s.together g (fun k => k == c.val) = true ∧ s.together g s.urgent = false →
           g'.phase = .placed ∧ ∀ r : Fin 4, (g.harts[r]).st = .running ∨ (g.harts[r]).st = .blocked →
             (g'.harts[r]).st = .running ∧ (g'.harts[r]).evt = true ∧ (g'.harts[r]).pc = (g.harts[r]).pc) ∧
         (¬ (g.phase = .light ∧ s.together g (fun k => k == c.val) = true ∧ s.together g s.urgent = false) → g' = g)) ∧
  ((∀ (s : State) (h : HartId) (g : Gang) (hs : List Nat) (f base : Nat) (x : Hart), s.gang? h.gang = some g → s.memWf →
     x = s.hart h → g.phase = .evict3 → g.frames = some (hs, f) → h.rank.val < g.hn → h.rank ∉ g.saved →
     x.sup.call = none → x.stores = [] → base = hs.getD h.rank.val 0 → (∀ v : Fin 60, (x.v[v]).vln ≤ 128) →
     (∀ k, k < 131072 → s.groupFailed (base + k) = false) →
     ∃ t, exec (.hartFrameSave h) s = .next t ∧ h.rank ∈ (t.gang h.gang).saved ∧
       numAt t.byteAt { kind := .dev, pa := base } 8 = x.pc.toNat ∧
       numAt t.byteAt { kind := .dev, pa := base + 8 } 8 = x.vl % 2 ^ 64 ∧
       numAt t.byteAt { kind := .dev, pa := base + 16 } 8 = x.ei % 2 ^ 64 ∧
       numAt t.byteAt { kind := .dev, pa := base + 24 } 8 = x.fcsr.toNat ∧
       (∀ r : Fin 32, numAt t.byteAt { kind := .dev, pa := base + 256 + 8 * r.val } 8 = (x.g[r]).toNat) ∧
       (∀ k, 368 ≤ k → k < 512 → numAt t.byteAt { kind := .dev, pa := base + 8 * k } 8 = 0) ∧
       (∀ (v : Fin 60) (e : Fin 128), (x.v[v]).dirty = true → e.val < (x.v[v]).vln →
         numAt t.byteAt { kind := .dev, pa := base + 4096 + 1024 * v.val + 8 * e.val } 8 = ((x.v[v]).el[e]).toNat) ∧
       (∀ a, a < base ∨ base + 131072 ≤ a →
         (∀ r ∈ g.chainRecords h.rank.val (s.entries.filter fun e => e.h == h && e.place == 0).length,
           a < r ∨ r + 1024 ≤ a) →
         t.byteAt { kind := .dev, pa := a } = s.byteAt { kind := .dev, pa := a }) ∧
       ∀ k : Fin 8, (((t.hart h).tk[k]).pins = [] ∧ ((t.hart h).tk[k]).st = (x.tk[k]).st)) ∧
   ∀ (s : State) (u f : Nat) (g : Gang) (hs : List Nat), s.gang? u = some g → g.phase = .evict4 →
     g.frames = some (hs, f) →
     (s.touched u = true → exec (.gangFrameSave u) s = .next s) ∧
     (s.touched u = false →
       ∃ t, exec (.gangFrameSave u) s = .next t ∧ t.gang? u = some { g with phase := .evicted } ∧
         t.toClear = s.toClear ++ (g.core, g.spBase, g.spsize) :: ((g.core2.map fun c => (c, g.spBase2, g.spsize)).toList) ∧
         t.jobs = s.jobs ∧ (∀ v, v ≠ u → t.gang? v = s.gang? v) ∧
         (s.memWf → FramesApart s g hs f →
           (∀ k w, GangQuad g k w → numAt t.byteAt { kind := .dev, pa := f + 8 * k } 8 = w.toNat) ∧
           (∀ k, k < g.spsize → t.byteAt { kind := .dev, pa := f + 8192 + k } = Mem.get g.sp k) ∧
           (∀ (r : Fin 4) (k : Fin 16), r.val < g.hn →
             numAt t.byteAt { kind := .dev, pa := hs.getD r.val 0 + 8 * (352 + k.val) } 8 =
               ((g.harts[r]).wph[2 * k.val]).toNat + 2 ^ 32 * ((g.harts[r]).wph[2 * k.val + 1]).toNat) ∧
           ∀ l, (l.kind = .dev → l.pa < f ∨ f + 8192 + g.spsize ≤ l.pa) →
             (l.kind = .dev → ∀ r : Fin 4, r.val < g.hn →
               l.pa < hs.getD r.val 0 + 2816 ∨ hs.getD r.val 0 + 2944 ≤ l.pa) → t.byteAt l = s.byteAt l)))

/-- R391, R395, R407: GO puts a partition whose entry and firmware pass into RUN, with its grant in `cap1`; a refused
one stays in RESET with its error bit. R397, R398: RST and the function-level resets leave no job of what they reset.
R328, R399: a firmware switch begins with an image that verifies, and ends when no call that the old firmware has
taken is left, or after 1 ms; then the partition and its harts have the new version.
R391, R412, Table 19-1: a housekeeping write reaches the quadword of the partition entry that its offset names, and a
write of Q4 carries out RST, GO and FWGO; the write is answered once it is performed.
That a partition whose reserve lies in a failed group goes to FAULT (log entry 48), which functions exist for their
resets (log entry 49), that a switch takes the entry of a call out of its fault queue and moves the later ones down
(log entry 42), and what RST keeps and the order of the bits of Q4 (log entry 29), are the model's readings. -/
def Obligations.PartitionsStartAndStop : Prop :=
  (∀ (s : State) (p : Fin 3) (vf : Fin 64) (q : Part), q = s.prt p → s.memWf →
     (∀ x ∈ s.jobs, ∀ y ∈ s.jobs, x.p = y.p → x.id = y.id → x = y) →
     (q.st = .reset → s.goOk p = false →
       exec (.partitionGo p) s = .next (s.modPart p fun q => { q with err := q.err ||| 1 })) ∧
     (q.st = .reset → s.goOk p = true → s.verifyAt q.fwa.toNat = none →
       ∃ t, exec (.partitionGo p) s = .next t ∧
         t.sansReads = (s.modPart p fun q => { q with err := q.err ||| 2 }).sansReads) ∧
     (∀ i, q.st = .reset → s.goOk p = true → s.verifyAt q.fwa.toNat = some i →
       ∃ t, exec (.partitionGo p) s = .next t ∧
         t.prt p = { q with st := if s.reserveFailed q then .fault else .run, cap1 := q.q0, fwver := i.svn } ∧
         t.hearthImage[p] = some i ∧ (∀ k, k ≠ p → t.prt k = s.prt k) ∧
         (∀ a, s.lastOwner[Fin.ofNat 8 (a / 2 ^ 35)] = some p ∨ s.lastOwner[Fin.ofNat 8 (a / 2 ^ 35)] = none → a < 2 ^ 38 →
           t.byteAt { kind := .dev, pa := a } = s.byteAt { kind := .dev, pa := a }) ∧
         ∀ (k : Fin 8) a, bit q.q0 (48 + k.val) = true → s.lastOwner[k] ≠ none → s.lastOwner[k] ≠ some p → a / 2 ^ 35 = k.val →
           t.byteAt { kind := .dev, pa := a } = 0) ∧
     (q.st ≠ .reset → exec (.partitionGo p) s = .next s) ∧
     (q.st = .run ∨ q.st = .fault →
       ∃ t, exec (.partitionRst p) s = .next t ∧ (t.prt p).st = (if bits q.q0 63 30 = 0 then .off else .reset) ∧
         (t.prt p).tasks = Vector.replicate 256 TaskEntry.empty ∧ (t.prt p).funcs = Vector.replicate 64 Func.empty ∧
         (t.prt p).q0 = q.q0 ∧ (∀ j ∈ t.jobs, j.p ≠ p) ∧ (∀ g ∈ t.gangs, g.p ≠ p) ∧ (∀ f ∈ t.families, f.p ≠ p) ∧
         (∀ l ∈ t.tlb, l.pin.p ≠ p) ∧ (∀ b ∈ t.walks, b.pin.p ≠ p) ∧ (∀ c ∈ t.codings, c.p ≠ p) ∧
         ∀ k, k ≠ p → t.prt k = s.prt k) ∧
     (q.st = .off ∨ s.hearthImage[p] = none →
       exec (.flrPhysicalFunction p) s = .next s ∧ exec (.flrVirtualFunction p vf) s = .next s) ∧
     (q.st = .run ∨ q.st = .fault → (s.hearthImage[p]).isSome →
       (∃ t, exec (.flrPhysicalFunction p) s = .next t ∧ (∀ j ∈ t.jobs, j.p ≠ p) ∧ (∀ g ∈ t.gangs, g.p ≠ p) ∧
         (t.prt p).q0 = q.q0 ∧ (t.prt p).funcs = Vector.replicate 64 Func.empty ∧
         (s.reserveFailed q = false → (t.prt p).st ≠ .fault)) ∧
       (vf ≠ 0 →
         ∃ t, exec (.flrVirtualFunction p vf) s = .next t ∧ t.func p vf = Func.empty ∧
           (∀ j ∈ t.jobs, ¬ (j.p = p ∧ j.vf = vf)) ∧ (∀ k, k ≠ vf → t.func p k = s.func p k) ∧
           (∀ j ∈ s.jobs, ¬ (j.p = p ∧ j.vf = vf) → j ∈ t.jobs)))) ∧
  (∀ (s : State) (p : Fin 3) (i : Image), (s.prt p).st = .run →
     ((s.prt p).switch = none →
       (s.verifyAt (s.prt p).fwa.toNat = some i →
         ∃ t, exec (.firmwareSwitch p) s = .next t ∧
           t.sansReads = (s.modPart p fun q => { q with switch := some (i, s.dtime) }).sansReads) ∧
       (s.verifyAt (s.prt p).fwa.toNat = none →
         ∃ t, exec (.firmwareSwitch p) s = .next t ∧
           t.sansReads = (s.modPart p fun q => { q with err := q.err ||| 4 }).sansReads)) ∧
     ∀ since, (s.prt p).switch = some (i, since) →
       ((∃ c ∈ s.calls p, c.taken = true) ∧ s.dtime < since + 1000000 → exec (.firmwareSwitchComplete p) s = .next s) ∧
       (¬ ((∃ c ∈ s.calls p, c.taken = true) ∧ s.dtime < since + 1000000) →
         ∃ t, exec (.firmwareSwitchComplete p) s = .next t ∧
           { t.prt p with funcs := (s.prt p).funcs } = { s.prt p with switch := none, fwver := i.svn } ∧
           t.hearthImage[p] = some i ∧
           ((∀ c ∈ s.calls p, c.taken = true → c.entry = none) → (t.prt p).funcs = (s.prt p).funcs) ∧
           (∀ h g c k f, s.gang? h.gang = some g → s.call? h = some c → c.taken = true → c.n = 2 → g.p = p →
             h.rank.val < g.hn → (s.gangs.map Gang.uid).Nodup → f = s.func p (s.jobOf g).vf → c.entry = some k →
             (k - f.fqh).toNat < (f.fqt - f.fqh).toNat → (f.fqt - f.fqh).toNat ≤ 2 ^ f.fqn.toNat →
             (∀ x ∈ s.gangs, x.p = p → ∀ r : Fin 4, ({ gang := x.uid, rank := r } : HartId) ≠ h →
               ∀ d, ((x.harts[r]).sup.call = some d → d.entry = none)) →
             s.memWf → (∀ a, s.groupFailed a = false) →
             (t.func p (s.jobOf g).vf).fqt = f.fqt - 1 ∧
             ∀ y i, y < 320 → i + 1 < (f.fqt - k).toNat →
               t.byteAt { f.entryLoc (k + BitVec.ofNat 32 i) with pa := (f.entryLoc (k + BitVec.ofNat 32 i)).pa + y } =
                 s.byteAt { f.entryLoc (k + BitVec.ofNat 32 (i + 1)) with
                   pa := (f.entryLoc (k + BitVec.ofNat 32 (i + 1))).pa + y }) ∧
           ∀ h g, s.gang? h.gang = some g → g.p = p → (t.hart h).sup.sver = i.svn ∧
             (∀ c, (s.hart h).sup.st = .blocked → (s.hart h).sup.call = some c → c.taken = true →
               (t.hart h).sup.st = .running ∧ (t.hart h).sup.g[(1 : Fin 32)] = 2 ∧
               (t.hart h).sup.pc = (s.hart h).sup.pc + 8))) ∧
  (∀ (s : State) (p : Fin 3) (v : Word) (off : Nat), off = 0x100 + 0x40 * p.val →
     ((s.prt p).st = .off ∨ (s.prt p).st = .reset →
       exec (.housekeepingWrite (BitVec.ofNat 16 off) v) s =
         .next ((s.modPart p fun q => { q with q0 := v &&& 0xFFFFFFFFC0000000 }).replied off) ∧
       exec (.housekeepingWrite (BitVec.ofNat 16 (off + 8)) v) s =
         .next ((s.modPart p fun q => { q with town := v.getLsbD 16, ways := v.extractLsb' 0 16 }).replied (off + 8)) ∧
       exec (.housekeepingWrite (BitVec.ofNat 16 (off + 16)) v) s =
         .next ((s.modPart p fun q => { q with hrb := v.extractLsb' 16 36 }).replied (off + 16)) ∧
       exec (.housekeepingWrite (BitVec.ofNat 16 (off + 24)) v) s =
         .next ((s.modPart p fun q => { q with hrs := v.extractLsb' 0 32 }).replied (off + 24)) ∧
       exec (.housekeepingWrite (BitVec.ofNat 16 (off + 40)) v) s =
         .next ((s.modPart p fun q => { q with fwa := v.setWidth 52 }).replied (off + 40))) ∧
     (v.getLsbD 8 = false → v.getLsbD 9 = false → v.getLsbD 10 = false →
       exec (.housekeepingWrite (BitVec.ofNat 16 (off + 32)) v) s =
         .next ((s.modPart p fun q => { q with err := q.err &&& ~~~ (v.extractLsb' 4 4) }).replied (off + 32))) ∧
     (∃ t, exec (.partitionRst p) s = .next t ∧
       exec (.housekeepingWrite (BitVec.ofNat 16 (off + 32)) 0x200) s = .next (t.replied (off + 32))) ∧
     (∃ t, exec (.partitionGo p) s = .next t ∧
       exec (.housekeepingWrite (BitVec.ofNat 16 (off + 32)) 0x100) s = .next (t.replied (off + 32))) ∧
     ∃ t, exec (.firmwareSwitch p) s = .next t ∧
       exec (.housekeepingWrite (BitVec.ofNat 16 (off + 32)) 0x400) s = .next (t.replied (off + 32)))

/-- R400 to R404: what patrol scrub finds is logged, and a line that cannot be corrected is poisoned; a failed channel
makes its group read as poison; a line that fills the L2 takes a way of its partition.
R403, R404: an uncorrected error kills the hart, fails, abandons or drops what its unit served; a corrected one is
only logged, but for one in an instruction cache or a scalar data cache, which drops what it hit, to be fetched again.
R411: with power or temperature above its limit the clock does not rise, and goes down to its floor where no choice of
the device is given; how far it goes down else is the device's choice (log entries 8 and 10); power above PLIM at the
floor sets PLIMX, and the onset is logged.
R406, R407, R410, R411: reset leaves every partition Off with memory, jobs and links at reset and the fuses as they
were; the boot ROM starts an image that verifies, and otherwise waits for one; at 110 °C the device trips. The numbers
of sources and units in the error log (log entry 15), and that only errors of DRAM lines count to the 256 in an hour
that fail a channel (log entry 48), are the model's choices, as are the values at power-on and a bring-up in one step
(log entries 8 and 9). That reset leaves the cycle count at 0 is the model's choice too, and `dtime` at 0 its reading of the reset value of
TNOW in Table 18-9 (log entry 5). That a Cask error ends the job with one of the causes 0x01 to 0x17, of which R403 names none, is
the model's reading (log entry 18). -/
def Obligations.ErrorsPowerAndBringUp : Prop :=
  (∀ (s : State) (line : Nat) (p : Fin 3), s.ownerOf (line * 128) = some p →
     (∀ ch, ch = 4 * (line / 2 ^ 28) + line % 4 →
       (∃ t, exec (.patrolScrub line (some false)) s = .next t ∧ Logged s t 1 ch (some p) true ∧ t.devPoison = s.devPoison ∧
         line ∉ t.snoop ∧ ∀ l, t.byteAt l = s.byteAt l) ∧
       ∀ i : Instr, i = .patrolScrub line (some true) ∨ i = .registerError (.dramLine line) →
         ((s.chErrs.filter fun e => e.1 = ch ∧ s.dtime < e.2 + 3600000000000).length < 256 →
           ∃ t, exec i s = .next t ∧ Logged s t 1 ch (some p) false ∧ line ∈ t.devPoison ∧
             (∀ l, t.byteAt l = s.byteAt l) ∧ t.readPoison { kind := .dev, pa := line * 128 } 1 = true ∧
             t.failedCh = s.failedCh) ∧
         (256 ≤ (s.chErrs.filter fun e => e.1 = ch ∧ s.dtime < e.2 + 3600000000000).length →
           s.failedCh.getLsbD ch = false →
           ∃ t, exec i s = .next t ∧ t.failedCh = s.failedCh ||| 1 <<< ch)) ∧
     (∃ t, exec (.patrolScrub line none) s = .next t ∧ line ∉ t.snoop ∧
       { t with snoop := [], out := [] } = { s with snoop := [], out := [] }) ∧
     (∀ way : Fin 16, s.l2.find? (fun x => x.1 == line) = some (line, way) →
       ∃ t, exec (.registerError (.l2Data false line)) s = .next t ∧ Logged s t 11 way.val (some p) false ∧
         line ∈ t.devPoison ∧ ∀ l, t.byteAt l = s.byteAt l) ∧
     (∃ t, exec (.registerError (.snoopEntry line)) s = .next t ∧ Logged s t 12 0 (some p) false ∧
       ((s.prt p).st = .run → (t.prt p).st = .fault ∧ ∀ j ∈ t.jobs, j.p ≠ p)) ∧
     (∀ way : Fin 16, (s.prt p).st = .run → (s.prt p).ways.getLsbD way.val = true →
       ∃ t, exec (.l2Fill line way) s = .next t ∧ (line, way) ∈ t.l2 ∧ (∀ w, (line, w) ∈ t.l2 → w = way) ∧
         { t with l2 := [] } = { s with l2 := [] }) ∧
     (∀ way : Fin 16, (s.prt p).st ≠ .run ∨ (s.prt p).ways.getLsbD way.val = false →
       exec (.l2Fill line way) s = .next s) ∧
     ∀ (ch : Fin 32), ∃ t, exec (.channelFail ch) s = .next t ∧ t.failedCh = s.failedCh ||| 1 <<< ch.val ∧
       (∀ a n, a / 2 ^ 35 = ch.val / 4 → t.readPoison { kind := .dev, pa := a } n = true) ∧
       ∀ q, (s.prt q).st = .run → (s.prt q).reserveIn (ch.val / 4) = true →
         (t.prt q).st = .fault ∧ ∀ j ∈ t.jobs, j.p ≠ q) ∧
  (∀ (s : State),
     (∀ (h : HartId) (g : Gang), s.gang? h.gang = some g → (s.hart h).stores = [] → (s.hart h).over = false →
       ((s.jobOf g).rcd.paired = false →
         ∃ t, exec (.registerError (.regOrTile h)) s = .next t ∧ (t.hart h).st = .voided ∧
           ∀ j, s.job? g.p g.job = some j → ∃ j', t.job? g.p g.job = some j' ∧ j'.cause = some (j.cause.getD 0x0D)) ∧
       ((s.jobOf g).rcd.paired = true →
         ∃ t, exec (.registerError (.regOrTile h)) s = .next t ∧ (t.gang h.gang).diverged = true ∧ t.jobs = s.jobs)) ∧
     (∀ u g, s.gang? u = some g →
       exec (.registerError (.pairDiffers u)) s = .next (s.modGang u fun g => { g with diverged := g.core2.isSome })) ∧
     (∀ u g w, s.gang? u = some g → w * 4 < g.spsize →
       ∃ t, exec (.registerError (.scratchpad u w)) s = .next t ∧ Logged s t 10 g.core (some g.p) false ∧
         w ∈ (t.gang u).spPoison ∧ (t.gang u).sp = g.sp ∧ (t.gang u).harts = g.harts ∧ (∀ l, t.byteAt l = s.byteAt l) ∧
         t.jobs = s.jobs ∧ ∀ v, v ≠ u → t.gang? v = s.gang? v) ∧
     (∀ line, ∃ t, exec (.registerError (.l2Data true line)) s = .next t ∧ Logged s t 11 0 none false ∧
       line ∈ t.hostPoison ∧ (∀ l, t.byteAt l = s.byteAt l) ∧ t.gangs = s.gangs ∧ t.jobs = s.jobs) ∧
     (∀ p job, ∃ t, exec (.registerError (.commitBuffer p job)) s = .next t ∧
       Logged s t 4 (s.bufferUnit p job) (some p) false ∧
       ∀ j, s.job? p job = some j → t.job? p job = some { j with cause := some (j.cause.getD 0x0D) }) ∧
     (∀ (query : Nat) (k : Fin 4) (b : Sub), s.subOf? query = some (k, b) →
       ∃ t, exec (.registerError (.cask query)) s = .next t ∧ Logged s t 5 k.val (some b.p) false ∧
         ∀ j, s.job? b.p b.job = some j → ∃ c : BitVec 8, 1 ≤ c.toNat ∧ c.toNat ≤ 0x17 ∧
           t.job? b.p b.job = some { j with cause := some (j.cause.getD c) }) ∧
     (∀ p job j, s.job? p job = some j → j.st ≠ .abandoning →
       ∃ t, exec (.registerError (.deadlineTable p job)) s = .next t ∧ Abandons t p job .abandoned s.dtime) ∧
     (∀ p (ch : Fin 256), ∃ t, exec (.registerError (.taskTable p ch)) s = .next t ∧
       (t.prt p).tasks[ch] = { (s.prt p).tasks[ch] with valid := false } ∧
       (t.prt p).dropPosts = (s.prt p).dropPosts + 1 ∧ Logged s t 7 ch.val (some p) false) ∧
     (∀ core pa, ∃ t, exec (.registerError (.instrCache core pa)) s = .next t ∧
       (∀ g ∈ t.gangs, g.usesCore core = true → ∀ r : Fin 4, ∀ k ∈ (g.harts[r]).icache, k.at_.pa / 8 ≠ pa / 8) ∧
       t.jobs = s.jobs ∧ (∀ l, t.byteAt l = s.byteAt l) ∧
       ∀ p, (s.prt p).st = .run → (s.prt p).cap1.getLsbD (56 + core / 8) = true →
         (∀ q, q ≠ p → (s.prt q).cap1.getLsbD (56 + core / 8) = false) → core < 64 → Logged s t 13 core (some p) true) ∧
     (∀ (h : HartId) (g : Gang) (pa : Nat), s.gang? h.gang = some g → ∃ t, exec (.registerError (.dataCache h pa)) s = .next t ∧
       (t.hart h).cache = (s.hart h).cache.filter (fun c => c.at_.pa ≠ pa / 128 * 128) ∧
       Logged s t 14 g.core (some g.p) true ∧ t.jobs = s.jobs ∧ (∀ l, t.byteAt l = s.byteAt l) ∧
       ∀ v, v ≠ h.gang → t.gang? v = s.gang? v) ∧
     (∀ src (unit : BitVec 16) addr p, ∃ t, exec (.registerError (.corrected src unit addr p)) s = .next t ∧
       Logged s t src unit.toNat p true ∧
       { t with errLog := [], errHead := 0, out := [] } = { s with errLog := [], errHead := 0, out := [] }) ∧
     ∀ (way : Fin 16), ∃ t, exec (.registerError (.l2Tags way)) s = .next t ∧
       ((∀ p, (s.prt p).st ≠ .off → (s.prt p).ways.getLsbD way.val = false) → Logged s t 8 way.val none false) ∧
       ∀ p, (s.prt p).st ≠ .off → (s.prt p).ways.getLsbD way.val = true →
         (∀ k, (s.prt k).st ≠ .off → (s.prt k).ways.getLsbD way.val = true → k = p) →
         Logged s t 8 way.val (some p) false ∧
         ((s.prt p).st = .run → (t.prt p).st = .fault ∧ ∀ j ∈ t.jobs, j.p ≠ p)) ∧
  (∀ s : State,
     (∀ watts temp, ∃ t, exec (.powerLimitThrottle watts temp) s = .next t ∧ t.watts = watts ∧ t.temp = temp ∧
       1600 ≤ t.clkMHz ∧ t.clkMHz ≤ max 2600 s.clkMHz ∧
       (s.plim < watts ∨ 1600 ≤ temp.toNat → t.clkMHz ≤ max 1600 s.clkMHz ∧ (s.choices = [] → t.clkMHz = 1600)) ∧
       (s.plim < watts → s.clkMHz = 1600 → s.plimx = false → Logged s t 9 0 none false) ∧
       (t.plimx = true ↔ s.plim < watts ∧ s.clkMHz = 1600)) ∧
     (∃ t, exec .deviceReset s = .next t ∧ t.gangs = [] ∧ t.jobs = [] ∧ t.dev = [] ∧ t.dtime = 0 ∧ t.cyc = 0 ∧
       (∀ p, t.prt p = Part.empty) ∧ t.tgen = 0 ∧ t.hgen = 0 ∧ t.host = s.host ∧ t.twin = s.twin ∧
       t.retireQ0 = s.retirePend ∧ t.ksRevoked = s.ksRevoked ∧ t.minSvn = s.minSvn ∧ t.bootStage = 0) ∧
     (s.temp.toNat < 1760 → exec .thermalTrip s = .next s) ∧
     (1760 ≤ s.temp.toNat → ∃ t, exec .thermalTrip s = .next t ∧ t.tripped = true ∧ t.gangs = [] ∧ t.jobs = [] ∧
       (∀ p, t.prt p = Part.empty) ∧ t.out.getLast? = some .thermalTrip) ∧
     (s.bootStage = 0 →
       (s.verify 1 (s.flashImage.take 1536) ((s.flashImage.drop 1536).take (headLen s.flashImage)) = none →
         exec .powerOnReset s = .next { s with tripped := false, recovery := true, bootStage := 1 }) ∧
       ∀ i, s.verify 1 (s.flashImage.take 1536) ((s.flashImage.drop 1536).take (headLen s.flashImage)) = some i →
         ∃ t, exec .powerOnReset s = .next t ∧ t.bootStage = 3 ∧ t.recovery = false ∧ t.bootImage = some i ∧
           t.tripped = false ∧ t.devPoison = [] ∧
           ∀ p, (t.prt p).st = .off ↔ bits (s.flashTable[p]).1 63 30 = 0) ∧
     ∀ img, s.recovery = true →
       (s.verify 1 (img.take 1536) ((img.drop 1536).take (headLen img)) = none →
         exec (.recoveryImageDelivery img) s = .next { s with bootStage := 1 }) ∧
       ∀ i, s.verify 1 (img.take 1536) ((img.drop 1536).take (headLen img)) = some i →
         ∃ t, exec (.recoveryImageDelivery img) s = .next t ∧ t.bootStage = 3 ∧ t.recovery = false ∧ t.bootImage = some i)

/-- R197, R363, R375: the host's invalidation forgets the cached translations it names and stays busy until nothing
holds one; a second one meanwhile is ignored with CERR; after 100,000 ns the tokens that still hold one are revoked.
R370, R372, R378: an access of the host within one line of its partition's memory, or of the twin where TWGRANT lets
it, is performed at the home, and a write of the host clears the poison of its line when it covers all 128 bytes (R401); a
refused access of the twin is counted and answers with poison. That the TWDROP of the
partition that holds the group counts it, one in RESET or FAULT too, is the model's reading (log entry 30).
R4, R6, R372: a read of the host at BAR0 returns what the launch, invalidation, fault-queue and error registers, the
drop counters, the device time and the port counters hold, and zero at a register that is only written, at a misaligned
offset, beyond a virtual function's registers, and at a port that the partition does not hold. R397: outside RUN every
register reads as zero, as long as its function exists (log entry 49).
R409: an SPDM request over a connection that is up is answered once, with the response that its code, its fields,
the negotiated version and the measurements determine; `GET_VERSION` begins the connection anew, and
`NEGOTIATE_ALGORITHMS` fixes version 1.2 or 1.3. A physical function exists once its partition has been in RUN since
reset (log entry 49). A token of a hart inside an instruction stays until that instruction ends (log entry 38).
The bytes of an SPDM response are left open (log entry 11). That a misaligned offset reads zero, and RATE 110 and 111 as
000, are the model's choices (log entry 70). -/
def Obligations.OutsideRequestsAreAnswered : Prop :=
  (∀ (s : State) (p : Fin 3) (vf : Fin 64) (va : BitVec 56) (id : Nat), (s.prt p).st = .run →
     ((s.func p vf).ibusy = none →
       (∃ t, exec (.invalidatePage p vf va) s = .next t ∧ (t.func p vf).ibusy = some s.nextInval ∧
         t.invals = s.invals ++ [{ id := s.nextInval, p := p, vf := some vf, va := some (va.toNat / 65536 * 65536),
                                   since := s.dtime }] ∧
         (∀ l, l ∈ t.tlb ↔ l ∈ s.tlb ∧ ¬ (l.pin.p = p ∧ l.pin.vf = vf ∧ l.pin.va ≤ va.toNat / 65536 * 65536 ∧
           va.toNat / 65536 * 65536 < l.pin.va + l.pin.size)) ∧
         (∀ b, b ∈ t.walks ↔ b ∈ s.walks ∧ ¬ (b.pin.p = p ∧ b.pin.vf = vf ∧ b.pin.va ≤ va.toNat / 65536 * 65536 ∧
           va.toNat / 65536 * 65536 < b.pin.va + b.pin.size)) ∧ ∀ l, t.byteAt l = s.byteAt l) ∧
       ∃ t, exec (.invalidateFunction p vf) s = .next t ∧ (t.func p vf).ibusy = some s.nextInval ∧
         (∀ l, l ∈ t.tlb ↔ l ∈ s.tlb ∧ ¬ (l.pin.p = p ∧ l.pin.vf = vf)) ∧
         (∀ b, b ∈ t.walks ↔ b ∈ s.walks ∧ ¬ (b.pin.p = p ∧ b.pin.vf = vf)) ∧ ∀ l, t.byteAt l = s.byteAt l) ∧
     ((s.func p vf).ibusy ≠ none →
       ∃ t, exec (.invalidateFunction p vf) s = .next t ∧ (t.func p vf).cerr = (s.func p vf).cerr ||| 2 ∧
         (t.func p vf).ibusy = (s.func p vf).ibusy ∧ t.tlb = s.tlb ∧ t.invals = s.invals) ∧
     ((s.func p vf).ibusy = some id →
       ((∀ q ∈ s.allPins, id ∉ q.mark) →
         ∃ t, exec (.invalidationComplete p vf) s = .next t ∧ (t.func p vf).ibusy = none ∧
           t.invals = (s.invals.filter fun i => i.id ≠ id) ∧
           ∀ i, (s.invals.filter fun i => i.id == id) = [i] → i.p = p →
             (∀ l, t.byteAt l = ((s.gangs.filter fun g => g.p == p).foldl State.drainGang s).byteAt l) ∧
             t.tlb = (s.tlb.filter fun l => !i.covers l.pin) ∧ t.walks = s.walks.filter fun b => !i.covers b.pin) ∧
       ((∃ q ∈ s.allPins, id ∈ q.mark) → exec (.invalidationComplete p vf) s = .next s)) ∧
     ∀ i, s.invals.find? (fun x => x.id == id) = some i → i.since + 100000 ≤ s.dtime →
       ∃ t, exec (.pinGraceExpiry id) s = .next t ∧
         { t with gangs := [], sweeps := s.sweeps, invals := [] } = { s with gangs := [], invals := [] } ∧
         t.invals = (s.invals.map fun j => if j.id = id then { j with expired := true } else j) ∧
         ∀ h (k : Fin 8), (s.gang? h.gang).isSome → ((s.hart h).tk[k]).st = .valid →
           ((∃ w, (s.hart h).wait = some w ∧ w.what ≠ .fill) → (t.hart h).tk[k] = (s.hart h).tk[k]) ∧
           ((∀ w, (s.hart h).wait = some w → w.what = .fill) →
             (((t.hart h).tk[k]).st = .revoked ↔ ∃ q ∈ ((s.hart h).tk[k]).pins, id ∈ q.mark) ∧
             (((t.hart h).tk[k]).st ≠ .revoked → (t.hart h).tk[k] = (s.hart h).tk[k]))) ∧
  (∀ (s : State) (p : Fin 3) (a n pa : Nat), s.memWf → 0 < n → a % 128 + n ≤ 128 → pa % 128 = a % 128 →
     s.groupFailed pa = false →
     ((s.prt p).st = .run → s.rangePa p a = some pa →
       (∃ t, exec (.hostMemoryAccess p (.read a n)) s = .next t ∧ (∀ l, t.byteAt l = s.byteAt l) ∧
         t.out.getLast? = some (.hostData (s.readHome { kind := .dev, pa := pa } n)
           (s.readPoison { kind := .dev, pa := pa } n))) ∧
       ∀ bs, bs.length = n → ∃ t, exec (.hostMemoryAccess p (.write a bs)) s = .next t ∧
         (∀ k, k ∈ t.devPoison ↔ k ∈ s.devPoison ∧ ¬ (k = pa / 128 ∧ n = 128)) ∧
         ∀ l, t.byteAt l = putAt s.byteAt { kind := .dev, pa := pa } bs l) ∧
     ((s.prt p).st = .run → s.rangePa p a = none →
       (∃ t, exec (.hostMemoryAccess p (.read a n)) s = .next t ∧ (∀ l, t.byteAt l = s.byteAt l) ∧
         t.out.getLast? = some (.hostData (List.replicate n 0) false)) ∧
       ∀ bs, bs.length = n → ∃ t, exec (.hostMemoryAccess p (.write a bs)) s = .next t ∧ ∀ l, t.byteAt l = s.byteAt l) ∧
     (s.tgen ≠ 0 → s.ownerOf a = some p → s.groupFailed a = false →
       (s.twinMay a = true → s.twinMay (a + n - 1) = true →
         (∃ t, exec (.twinAccess (.read a n)) s = .next t ∧ (∀ l, t.byteAt l = s.byteAt l) ∧
           t.out.getLast? = some (.twinData (s.readHome { kind := .dev, pa := a } n)
             (s.readPoison { kind := .dev, pa := a } n))) ∧
         ∀ bs, bs.length = n → ∃ t, exec (.twinAccess (.write a bs)) s = .next t ∧
           ∀ l, t.byteAt l = putAt s.byteAt { kind := .dev, pa := a } bs l) ∧
       (s.twinMay a = false →
         ∃ t, exec (.twinAccess (.read a n)) s = .next t ∧ (t.prt p).twdrop = (s.prt p).twdrop + 1 ∧
           t.out.getLast? = some (.twinData (List.replicate n 0) true) ∧ ∀ l, t.byteAt l = s.byteAt l))) ∧
  (∀ (s : State) (p : Fin 3) (vf : Fin 64) (off : BitVec 25) (v : Word), (s.prt p).st = .run → RegisterValue s p vf off.toNat v →
     exec (.hostMemoryAccess p (.register vf off)) s =
       .next { s with out := s.out ++ [.hostData (bytesOfNat 8 v.toNat) false] }) ∧
  (∀ (s : State) (p : Fin 3) (vf : Fin 64) (off : BitVec 25), (s.prt p).st = .reset ∨ (s.prt p).st = .fault →
     (s.hearthImage[p]).isSome → exec (.hostMemoryAccess p (.register vf off)) s =
       .next { s with out := s.out ++ [.hostData (bytesOfNat 8 0) false] }) ∧
  (∀ (s : State) (via : SpdmPort), (∀ p, via = .doe p → (s.prt p).st ≠ .off ∧ (s.hearthImage[p]).isSome) →
     (∀ i code params, SpdmRequest s i via code params →
       exec i s = .next { s with out := s.out ++
         [.spdm via code (Config.spdmBytes code (((s.spdmVersion[spdmSlot via]).map BitVec.toNat).getD 0 :: params))] }) ∧
     exec (.getVersion via) s = .next { s with
       spdmVersion := vput s.spdmVersion (spdmSlot via) none
       out := s.out ++ [.spdm via 0 (Config.spdmBytes 0 [0, 0x12, 0x13])] } ∧
     ∀ ver asym hash, ver = 0x12 ∨ ver = 0x13 →
       exec (.negotiateAlgorithms via ver asym hash) s = .next { s with
         spdmVersion := vput s.spdmVersion (spdmSlot via) (some ver)
         out := s.out ++ [.spdm via 2 (Config.spdmBytes 2 [ver.toNat, ver.toNat, asym.toNat, hash.toNat])] })
end

