-- ==== Sys2Proof/Laws/Encode.lean ====
section
/-!
SUPPORT. The encoder and the decoder undo each other field by field: specifiers, codes, control fields and words.
-/

set_option Elab.async false

namespace Sys2Proof

/-! ### Bounds of fields -/

theorem bn_lt (b : Bool) : bn b < 2 := by cases b <;> decide
theorem encG_lt (r : GOp) : encG r < 128 := by cases r <;> simp [encG]; omega
theorem encVd_lt (r : VdOp) : encVd r < 128 := by cases r <;> simp [encVd]; omega
theorem encVr_lt (r : VrOp) : encVr r < 128 := by have := r.isLt; simp only [encVr]; omega
theorem encVs_lt (r : VsOp) : encVs r < 128 := by cases r <;> simp [encVs] <;> omega
theorem encM_lt (r : MOp) : encM r < 128 := by cases r <;> simp [encM]; omega
theorem encVm_lt (r : Fin 48) : encVm r < 128 := by have := r.isLt; simp only [encVm]; omega
theorem encVb_lt (r : VbOp) : encVb r < 128 := by have := r.isLt; simp only [encVb]; omega
theorem Tag.code_lt (t : Tag) : t.code < 32 := by cases t <;> decide
theorem Cond.code_lt (t : Cond) : t.code < 8 := by cases t <;> decide
theorem MCond.code_lt (t : MCond) : t.code < 4 := by cases t <;> decide
theorem FCond.code_lt (t : FCond) : t.code < 16 := by cases t <;> decide
theorem Rm.code_lt (t : Rm) : t.code < 8 := by cases t <;> decide
theorem FcvtKind.code_lt (t : FcvtKind) : t.code < 8 := by cases t <;> decide
theorem AmoOp.code_lt (t : AmoOp) : t.code < 32 := by cases t <;> decide
theorem Scope.code_lt (t : Scope) : t.code < 8 := by cases t <;> decide
theorem MOrd.code_lt (t : MOrd) : t.code < 4 := by cases t <;> decide
theorem Sz.code_lt (t : Sz) : t.code < 4 := by cases t <;> decide
theorem Tick.code_lt (t : Tick) : t.code < 4 := by cases t <;> decide
theorem FenceDir.code_lt (t : FenceDir) : t.code < 8 := by cases t <;> decide
theorem InvKind.code_lt (t : InvKind) : t.code < 8 := by cases t <;> decide

/-! ### Decoding an encoded field -/

theorem finF_val {m : Nat} (r : Fin m) : finF m r.val = some r := by simp [finF]
theorem fin3_val (r : Fin 3) : fin3 r.val = some r := finF_val r
theorem fin4_val (r : Fin 4) : fin4 r.val = some r := finF_val r
theorem fin7_val (r : Fin 7) : fin7 r.val = some r := finF_val r
theorem fin8_val (r : Fin 8) : fin8 r.val = some r := finF_val r
theorem fin9_val (r : Fin 9) : fin9 r.val = some r := finF_val r
theorem fin16_val (r : Fin 16) : fin16 r.val = some r := finF_val r
theorem fin32_val (r : Fin 32) : fin32 r.val = some r := finF_val r
theorem boolF_bn (b : Bool) : boolF (bn b) = some b := by cases b <;> rfl
theorem decG_encG (r : GOp) : decG (encG r) = some r := by
  cases r with
  | none => rfl
  | some k => simp [decG, encG, finF_val]; omega
theorem decVd_encVd (r : VdOp) : decVd (encVd r) = some r := by
  cases r with
  | none => rfl
  | some k => simp [decVd, encVd, finF_val]; omega
theorem decVr_encVr (r : VrOp) : decVr (encVr r) = some r := finF_val r
theorem decVs_encVs (r : VsOp) : decVs (encVs r) = some r := by
  cases r with
  | zero => rfl
  | g k => simp [decVs, encVs, finF_val]; omega
  | vec k =>
    have h : k.val ≠ 127 ∧ ¬ 64 ≤ k.val := by omega
    simp [decVs, encVs, h, finF_val]
theorem decM_encM (r : MOp) : decM (encM r) = some r := by
  cases r with
  | none => rfl
  | some k => simp [decM, encM, finF_val]; omega
theorem decVm_encVm (r : Fin 48) : decVm (encVm r) = some r := finF_val r
theorem decVb_encVb (r : VbOp) : decVb (encVb r) = some r := by simp [decVb, encVb, fin8_val]
theorem Tag.ofCode_code (t : Tag) : Tag.ofCode t.code = some t := by cases t <;> rfl
theorem Cond.ofCode_code (t : Cond) : Cond.ofCode t.code = some t := by cases t <;> rfl
theorem MCond.ofCode_code (t : MCond) : MCond.ofCode t.code = some t := by cases t <;> rfl
theorem FCond.ofCode_code (t : FCond) : FCond.ofCode t.code = some t := by cases t <;> rfl
theorem Rm.ofCode_code (t : Rm) : Rm.ofCode t.code = some t := by cases t <;> rfl
theorem FcvtKind.ofCode_code (t : FcvtKind) : FcvtKind.ofCode t.code = some t := by cases t <;> rfl
theorem AmoOp.ofCode_code (t : AmoOp) : AmoOp.ofCode t.code = some t := by cases t <;> rfl
theorem Scope.ofCode_code (t : Scope) : Scope.ofCode t.code = some t := by cases t <;> rfl
theorem MOrd.ofCode_code (t : MOrd) : MOrd.ofCode t.code = some t := by cases t <;> rfl
theorem Sz.ofCode_code (t : Sz) : Sz.ofCode t.code = some t := by cases t <;> rfl
theorem Tick.ofCode_code (t : Tick) : Tick.ofCode t.code = some t := by cases t <;> rfl
theorem FenceDir.ofCode_code (t : FenceDir) : FenceDir.ofCode t.code = some t := by cases t <;> rfl
theorem InvKind.ofCode_code (t : InvKind) : InvKind.ofCode t.code = some t := by cases t <;> rfl

/-! ### Words and their fields -/

/-- The fields that a format R word is read into, from those that `rword` lays out. -/
def RF.of (fn d a b c x : Nat) : RF :=
  { fn := fn, d := d, a := a, b := b, c := c, k := x / 2 ^ 18, ke := x / 2 ^ 17 % 2, kz := x / 2 ^ 16 % 2,
    ca := x / 2 ^ 15 % 2, cb := x / 2 ^ 14 % 2, cc := x / 2 ^ 13 % 2, p := x / 2 ^ 12 % 2, x := x % 2 ^ 12 }
/-- Fields of format R within their widths. -/
def RFits (op fn d a b c x : Nat) : Prop :=
  op < 128 ∧ fn < 128 ∧ d < 128 ∧ a < 128 ∧ b < 128 ∧ c < 128 ∧ x < 2 ^ 22
theorem rword_lt {op fn d a b c x : Nat} (h : RFits op fn d a b c x) : rword op fn d a b c x < 2 ^ 64 := by
  obtain ⟨_, _, _, _, _, _, _⟩ := h; simp only [rword]; omega
theorem rword_op {op fn d a b c x : Nat} (h : RFits op fn d a b c x) : rword op fn d a b c x / 2 ^ 57 = op := by
  obtain ⟨_, _, _, _, _, _, _⟩ := h; simp only [rword]; omega
theorem ofWord_rword {op fn d a b c x : Nat} (h : RFits op fn d a b c x) :
    RF.ofWord (rword op fn d a b c x) = RF.of fn d a b c x := by
  obtain ⟨_, _, _, _, _, _, _⟩ := h
  simp only [RF.ofWord, RF.of, fieldN, rword, RF.mk.injEq]
  and_intros <;> omega
/-- Fields of format I within their widths. -/
def IFits (op fn d a imm : Nat) : Prop := op < 128 ∧ fn < 128 ∧ d < 128 ∧ a < 128 ∧ imm < 2 ^ 36
theorem iword_lt {op fn d a imm : Nat} (h : IFits op fn d a imm) : iword op fn d a imm < 2 ^ 64 := by
  obtain ⟨_, _, _, _, _⟩ := h; simp only [iword]; omega
theorem iword_op {op fn d a imm : Nat} (h : IFits op fn d a imm) : iword op fn d a imm / 2 ^ 57 = op := by
  obtain ⟨_, _, _, _, _⟩ := h; simp only [iword]; omega
theorem ofWord_iword {op fn d a imm : Nat} (h : IFits op fn d a imm) :
    IF.ofWord (iword op fn d a imm) = { fn := fn, d := d, a := a, imm := imm } := by
  obtain ⟨_, _, _, _, _⟩ := h
  simp only [IF.ofWord, fieldN, iword, IF.mk.injEq]
  refine ⟨?_, ?_, ?_, ?_⟩ <;> omega
/-- Fields of format J within their widths. -/
def JFits (op cnd a b off : Nat) : Prop := op < 128 ∧ cnd < 16 ∧ a < 128 ∧ b < 128 ∧ off < 2 ^ 39
theorem jword_lt {op cnd a b off : Nat} (h : JFits op cnd a b off) : jword op cnd a b off < 2 ^ 64 := by
  obtain ⟨_, _, _, _, _⟩ := h; simp only [jword]; omega
theorem jword_op {op cnd a b off : Nat} (h : JFits op cnd a b off) : jword op cnd a b off / 2 ^ 57 = op := by
  obtain ⟨_, _, _, _, _⟩ := h; simp only [jword]; omega
theorem ofWord_jword {op cnd a b off : Nat} (h : JFits op cnd a b off) :
    JF.ofWord (jword op cnd a b off) = { cnd := cnd, a := a, b := b, off := off } := by
  obtain ⟨_, _, _, _, _⟩ := h
  simp only [JF.ofWord, fieldN, jword, JF.mk.injEq]
  refine ⟨?_, ?_, ?_, ?_⟩ <;> omega

/-! ### Control fields -/

theorem VMod.ctl_lt (q : VMod) : q.ctl < 1024 := by
  have := bn_lt q.p; have := bn_lt q.cc; have := bn_lt q.cb; have := bn_lt q.ca; have := bn_lt q.kz; have := bn_lt q.ke
  have := q.k.isLt; simp only [VMod.ctl]; omega
theorem VMod.xbits_lt (q : VMod) : q.xbits < 4096 ∧ q.xbits % 256 = 0 := by
  have := Rm.code_lt q.rm; have := bn_lt q.sat; simp only [VMod.xbits]; omega
theorem VMod.ofR_of (q : VMod) (fn d a b c r x : Nat) (hr : r < 256) (hx : x = q.xbits + r + 2 ^ 12 * q.ctl) :
    VMod.ofR (RF.of fn d a b c x) = some q := by
  have := Rm.code_lt q.rm; have := bn_lt q.sat; have := bn_lt q.p; have := bn_lt q.cc; have := bn_lt q.cb
  have := bn_lt q.ca; have := bn_lt q.kz; have := bn_lt q.ke; have := q.k.isLt
  simp only [VMod.ctl, VMod.xbits] at hx
  have h0 : x / 2 ^ 18 = q.k.val := by omega
  have h1 : x / 2 ^ 17 % 2 = bn q.ke := by omega
  have h2 : x / 2 ^ 16 % 2 = bn q.kz := by omega
  have h3 : x / 2 ^ 15 % 2 = bn q.ca := by omega
  have h4 : x / 2 ^ 14 % 2 = bn q.cb := by omega
  have h5 : x / 2 ^ 13 % 2 = bn q.cc := by omega
  have h6 : x / 2 ^ 12 % 2 = bn q.p := by omega
  have h7 : x % 2 ^ 12 / 512 = q.rm.code := by omega
  have h8 : x % 2 ^ 12 / 256 % 2 = bn q.sat := by omega
  simp only [VMod.ofR, RF.of, h0, h1, h2, h3, h4, h5, h6, h7, h8, fin16_val, boolF_bn, Rm.ofCode_code]
  rfl
theorem MemX.ctl_lt (x : MemX) : x.ctl < 1024 := by
  have := bn_lt x.cc; have := bn_lt x.cb; have := bn_lt x.ca; have := bn_lt x.kz; have := bn_lt x.ke
  have := x.k.isLt; simp only [MemX.ctl]; omega
theorem MemX.xbits_lt (x : MemX) : x.xbits < 4096 := by
  have := x.tk.isLt; have := Sz.code_lt x.sz; have := bn_lt x.sx; have := MOrd.code_lt x.ord; have := Scope.code_lt x.scope
  simp only [MemX.xbits]; omega
theorem MemX.ofR_of (q : MemX) (fn d a b c : Nat) (hf : fn / 32 = q.t.code) :
    MemX.ofR (RF.of fn d a b c (q.xbits + 2 ^ 12 * q.ctl)) = some q := by
  have := bn_lt q.cc; have := bn_lt q.cb
  have := bn_lt q.ca; have := bn_lt q.kz; have := bn_lt q.ke; have := q.k.isLt
  have := q.tk.isLt; have := Sz.code_lt q.sz; have := bn_lt q.sx; have := MOrd.code_lt q.ord; have := Scope.code_lt q.scope
  generalize hx : q.xbits + 2 ^ 12 * q.ctl = x
  simp only [MemX.ctl, MemX.xbits] at hx
  have h0 : x / 2 ^ 18 = q.k.val := by omega
  have h1 : x / 2 ^ 17 % 2 = bn q.ke := by omega
  have h2 : x / 2 ^ 16 % 2 = bn q.kz := by omega
  have h3 : x / 2 ^ 15 % 2 = bn q.ca := by omega
  have h4 : x / 2 ^ 14 % 2 = bn q.cb := by omega
  have h5 : x / 2 ^ 13 % 2 = bn q.cc := by omega
  have h6 : x % 2 ^ 12 / 512 = q.tk.val := by omega
  have h7 : x % 2 ^ 12 / 128 % 4 = q.sz.code := by omega
  have h8 : x % 2 ^ 12 / 64 % 2 = bn q.sx := by omega
  have h9 : x % 2 ^ 12 / 16 % 4 = q.ord.code := by omega
  have h10 : x % 2 ^ 12 / 2 % 8 = q.scope.code := by omega
  simp only [MemX.ofR, RF.of, h0, h1, h2, h3, h4, h5, h6, h7, h8, h9, h10, hf, fin16_val, fin8_val, boolF_bn, Sz.ofCode_code,
    MOrd.ofCode_code, Scope.ofCode_code, Tick.ofCode_code]
  rfl
theorem LdSt.fn_lt (q : LdSt) : q.fn < 128 := by
  have := MOrd.code_lt q.ord; have := bn_lt q.sp; have := bn_lt q.sx; have := q.size.isLt; simp only [LdSt.fn]; omega
theorem LdSt.imm_lt (q : LdSt) : q.imm < 2 ^ 36 := by
  have := Tick.code_lt q.t; have := Scope.code_lt q.scope; have := q.off.isLt; simp only [LdSt.imm]; omega
theorem LdSt.ofFields_of (q : LdSt) : LdSt.ofFields q.fn q.imm = some q := by
  have := MOrd.code_lt q.ord; have := bn_lt q.sp; have := bn_lt q.sx; have := q.size.isLt
  have := Tick.code_lt q.t; have := Scope.code_lt q.scope; have := q.off.isLt
  have h1 : q.fn / 16 = q.ord.code := by simp only [LdSt.fn]; omega
  have h2 : q.fn / 8 % 2 = bn q.sp := by simp only [LdSt.fn]; omega
  have h3 : q.fn / 4 % 2 = bn q.sx := by simp only [LdSt.fn]; omega
  have h4 : q.fn % 4 = q.size.val := by simp only [LdSt.fn]; omega
  have h5 : q.imm / 2 ^ 34 = q.t.code := by simp only [LdSt.imm]; omega
  have h6 : q.imm / 2 ^ 31 % 8 = q.scope.code := by simp only [LdSt.imm]; omega
  have h7 : q.imm % 2 ^ 31 = q.off.toNat := by simp only [LdSt.imm]; omega
  simp only [LdSt.ofFields, h1, h2, h3, h4, h5, h6, h7, fin4_val, boolF_bn, MOrd.ofCode_code, Scope.ofCode_code,
    Tick.ofCode_code, BitVec.ofNat_toNat, BitVec.setWidth_eq]
  rfl

/-! ### One instruction -/

theorem round_r {i : Instr} {op fn d a b c x : Nat} {g : RF → Option Instr} (he : encodeNat i = rword op fn d a b c x)
    (hb : RFits op fn d a b c x) (hg : ∀ w, w / 2 ^ 57 = op → decodeRaw w = g (RF.ofWord w))
    (hd : g (RF.of fn d a b c x) = some i) : encodeNat i < 2 ^ 64 ∧ decodeRaw (encodeNat i) = some i := by
  rw [he]; exact ⟨rword_lt hb, by rw [hg _ (rword_op hb), ofWord_rword hb, hd]⟩
theorem round_i {i : Instr} {op fn d a imm : Nat} {g : IF → Option Instr} (he : encodeNat i = iword op fn d a imm)
    (hb : IFits op fn d a imm) (hg : ∀ w, w / 2 ^ 57 = op → decodeRaw w = g (IF.ofWord w))
    (hd : g { fn := fn, d := d, a := a, imm := imm } = some i) :
    encodeNat i < 2 ^ 64 ∧ decodeRaw (encodeNat i) = some i := by
  rw [he]; exact ⟨iword_lt hb, by rw [hg _ (iword_op hb), ofWord_iword hb, hd]⟩
theorem round_j {i : Instr} {op cnd a b off : Nat} {g : JF → Option Instr} (he : encodeNat i = jword op cnd a b off)
    (hb : JFits op cnd a b off) (hg : ∀ w, w / 2 ^ 57 = op → decodeRaw w = g (JF.ofWord w))
    (hd : g { cnd := cnd, a := a, b := b, off := off } = some i) :
    encodeNat i < 2 ^ 64 ∧ decodeRaw (encodeNat i) = some i := by
  rw [he]; exact ⟨jword_lt hb, by rw [hg _ (jword_op hb), ofWord_jword hb, hd]⟩
/-- A memory instruction without T has its code 0. -/
theorem MemX.no_tick {x : MemX} {a b c d : Bool} (h : x.ok a b c d false = true) : x.t = .no := by
  simp only [MemX.ok, Bool.and_eq_true, Bool.false_or, beq_iff_eq] at h; exact h.1.1.2
/-- An instruction without rounding and saturation has both fields 0. -/
theorem VMod.no_xbits {q : VMod} {a b c d e f : Bool} (h : q.ok a b c d e f false false = true) : q.xbits = 0 := by
  simp only [VMod.ok, Bool.and_eq_true, Bool.false_or, beq_iff_eq, Bool.not_eq_true'] at h
  simp [VMod.xbits, h.1.2, h.2, Rm.code, bn]

end Sys2Proof
end

