-- ==== Sys2Proof/Laws/Exec.lean ====
section
/-!
SUPPORT. The meaning that each instruction dispatches to.
-/

set_option Elab.async false

namespace Sys2Proof.Machine


theorem exec_add d a b (s : State) : exec (.add d a b) s = execAdd d a b s := rfl
theorem exec_sub d a b (s : State) : exec (.sub d a b) s = execSub d a b s := rfl
theorem exec_mul d a b (s : State) : exec (.mul d a b) s = execMul d a b s := rfl
theorem exec_mulhi u d a b (s : State) : exec (.mulhi u d a b) s = execMulhi u d a b s := rfl
theorem exec_div u d a b (s : State) : exec (.div u d a b) s = execDiv u d a b s := rfl
theorem exec_rem u d a b (s : State) : exec (.rem u d a b) s = execRem u d a b s := rfl
theorem exec_and d a b (s : State) : exec (.and d a b) s = execAnd d a b s := rfl
theorem exec_or d a b (s : State) : exec (.or d a b) s = execOr d a b s := rfl
theorem exec_xor d a b (s : State) : exec (.xor d a b) s = execXor d a b s := rfl
theorem exec_andn d a b (s : State) : exec (.andn d a b) s = execAndn d a b s := rfl
theorem exec_shl d a b (s : State) : exec (.shl d a b) s = execShl d a b s := rfl
theorem exec_shr d a b (s : State) : exec (.shr d a b) s = execShr d a b s := rfl
theorem exec_sar d a b (s : State) : exec (.sar d a b) s = execSar d a b s := rfl
theorem exec_min u d a b (s : State) : exec (.min u d a b) s = execMin u d a b s := rfl
theorem exec_max u d a b (s : State) : exec (.max u d a b) s = execMax u d a b s := rfl
theorem exec_clz d a (s : State) : exec (.clz d a) s = execClz d a s := rfl
theorem exec_popc d a (s : State) : exec (.popc d a) s = execPopc d a s := rfl
theorem exec_sel d a b c (s : State) : exec (.sel d a b c) s = execSel d a b c s := rfl
theorem exec_setcc cc d a b (s : State) : exec (.setcc cc d a b) s = execSetcc cc d a b s := rfl
theorem exec_aluiAdd d a imm (s : State) : exec (.aluiAdd d a imm) s = execAluiAdd d a imm s := rfl
theorem exec_aluiAnd d a imm (s : State) : exec (.aluiAnd d a imm) s = execAluiAnd d a imm s := rfl
theorem exec_aluiOr d a imm (s : State) : exec (.aluiOr d a imm) s = execAluiOr d a imm s := rfl
theorem exec_aluiXor d a imm (s : State) : exec (.aluiXor d a imm) s = execAluiXor d a imm s := rfl
theorem exec_aluiShl d a imm (s : State) : exec (.aluiShl d a imm) s = execAluiShl d a imm s := rfl
theorem exec_aluiShr d a imm (s : State) : exec (.aluiShr d a imm) s = execAluiShr d a imm s := rfl
theorem exec_aluiSar d a imm (s : State) : exec (.aluiSar d a imm) s = execAluiSar d a imm s := rfl
theorem exec_aluiMin d a imm (s : State) : exec (.aluiMin d a imm) s = execAluiMin d a imm s := rfl
theorem exec_aluiMax d a imm (s : State) : exec (.aluiMax d a imm) s = execAluiMax d a imm s := rfl
theorem exec_li d imm (s : State) : exec (.li d imm) s = execLi d imm s := rfl
theorem exec_lih d imm (s : State) : exec (.lih d imm) s = execLih d imm s := rfl
theorem exec_fadd f64 rm d a b (s : State) : exec (.fadd f64 rm d a b) s = execFadd f64 rm d a b s := rfl
theorem exec_fsub f64 rm d a b (s : State) : exec (.fsub f64 rm d a b) s = execFsub f64 rm d a b s := rfl
theorem exec_fmul f64 rm d a b (s : State) : exec (.fmul f64 rm d a b) s = execFmul f64 rm d a b s := rfl
theorem exec_fma f64 rm d a b c (s : State) : exec (.fma f64 rm d a b c) s = execFma f64 rm d a b c s := rfl
theorem exec_fcvt kind f64 rm d a (s : State) : exec (.fcvt kind f64 rm d a) s = execFcvt kind f64 rm d a s := rfl
theorem exec_fcmp cc f64 d a b (s : State) : exec (.fcmp cc f64 d a b) s = execFcmp cc f64 d a b s := rfl
theorem exec_ld q d a (s : State) : exec (.ld q d a) s = execLd q d a s := rfl
theorem exec_st q d a (s : State) : exec (.st q d a) s = execSt q d a s := rfl
theorem exec_amo op x d a b (s : State) : exec (.amo op x d a b) s = execAmo op x d a b s := rfl
theorem exec_cas x d a b c (s : State) : exec (.cas x d a b c) s = execCas x d a b c s := rfl
theorem exec_br cc a b off (s : State) : exec (.br cc a b off) s = execBr cc a b off s := rfl
theorem exec_jal a off (s : State) : exec (.jal a off) s = execJal a off s := rfl
theorem exec_jalr d a imm (s : State) : exec (.jalr d a imm) s = execJalr d a imm s := rfl
theorem exec_loop a off (s : State) : exec (.loop a off) s = execLoop a off s := rfl
theorem exec_bm cc a off (s : State) : exec (.bm cc a off) s = execBm cc a off s := rfl
theorem exec_nop (s : State) : exec (.nop) s = execNop s := rfl
theorem exec_csrr d num (s : State) : exec (.csrr d num) s = execCsrr d num s := rfl
theorem exec_csrw a num (s : State) : exec (.csrw a num) s = execCsrw a num s := rfl
theorem exec_csrset d a num (s : State) : exec (.csrset d a num) s = execCsrset d a num s := rfl
theorem exec_csrclr d a num (s : State) : exec (.csrclr d a num) s = execCsrclr d a num s := rfl
theorem exec_svc n (s : State) : exec (.svc n) s = execSvc n s := rfl
theorem exec_trapi n (s : State) : exec (.trapi n) s = execTrapi n s := rfl
theorem exec_eret (s : State) : exec (.eret) s = execEret s := rfl
theorem exec_fence dir sc (s : State) : exec (.fence dir sc) s = execFence dir sc s := rfl
theorem exec_wfe a (s : State) : exec (.wfe a) s = execWfe a s := rfl
theorem exec_splock d a (s : State) : exec (.splock d a) s = execSplock d a s := rfl
theorem exec_spunlock a (s : State) : exec (.spunlock a) s = execSpunlock a s := rfl
theorem exec_tlbinv kind a b (s : State) : exec (.tlbinv kind a b) s = execTlbinv kind a b s := rfl
theorem exec_ckpt (s : State) : exec (.ckpt) s = execCkpt s := rfl
theorem exec_vsave tk a vm (s : State) : exec (.vsave tk a vm) s = execVsave tk a vm s := rfl
theorem exec_vrest tk vm a (s : State) : exec (.vrest tk vm a) s = execVrest tk vm a s := rfl
theorem exec_hmsg a b (s : State) : exec (.hmsg a b) s = execHmsg a b s := rfl
theorem exec_jspawn d vm (s : State) : exec (.jspawn d vm) s = execJspawn d vm s := rfl
theorem exec_jend (s : State) : exec (.jend) s = execJend s := rfl
theorem exec_chblock a (s : State) : exec (.chblock a) s = execChblock a s := rfl
theorem exec_chunblock a (s : State) : exec (.chunblock a) s = execChunblock a s := rfl
theorem exec_abump d a n al (s : State) : exec (.abump d a n al) s = execAbump d a n al s := rfl
theorem exec_vsetl d a (s : State) : exec (.vsetl d a) s = execVsetl d a s := rfl
theorem exec_vtag d t (s : State) : exec (.vtag d t) s = execVtag d t s := rfl
theorem exec_vretag d t (s : State) : exec (.vretag d t) s = execVretag d t s := rfl
theorem exec_vgettag d a (s : State) : exec (.vgettag d a) s = execVgettag d a s := rfl
theorem exec_vmov d a (s : State) : exec (.vmov d a) s = execVmov d a s := rfl
theorem exec_vadd q d a b (s : State) : exec (.vadd q d a b) s = execVadd q d a b s := rfl
theorem exec_vsub q d a b (s : State) : exec (.vsub q d a b) s = execVsub q d a b s := rfl
theorem exec_vmul q d a b (s : State) : exec (.vmul q d a b) s = execVmul q d a b s := rfl
theorem exec_vmulh q d a b (s : State) : exec (.vmulh q d a b) s = execVmulh q d a b s := rfl
theorem exec_vfma q d a b c (s : State) : exec (.vfma q d a b c) s = execVfma q d a b c s := rfl
theorem exec_vfms q d a b c (s : State) : exec (.vfms q d a b c) s = execVfms q d a b c s := rfl
theorem exec_vfnma q d a b c (s : State) : exec (.vfnma q d a b c) s = execVfnma q d a b c s := rfl
theorem exec_vmin q d a b (s : State) : exec (.vmin q d a b) s = execVmin q d a b s := rfl
theorem exec_vmax q d a b (s : State) : exec (.vmax q d a b) s = execVmax q d a b s := rfl
theorem exec_vabs q d a (s : State) : exec (.vabs q d a) s = execVabs q d a s := rfl
theorem exec_vneg q d a (s : State) : exec (.vneg q d a) s = execVneg q d a s := rfl
theorem exec_vand q d a b (s : State) : exec (.vand q d a b) s = execVand q d a b s := rfl
theorem exec_vor q d a b (s : State) : exec (.vor q d a b) s = execVor q d a b s := rfl
theorem exec_vxor q d a b (s : State) : exec (.vxor q d a b) s = execVxor q d a b s := rfl
theorem exec_vshl q d a b (s : State) : exec (.vshl q d a b) s = execVshl q d a b s := rfl
theorem exec_vshr q d a b (s : State) : exec (.vshr q d a b) s = execVshr q d a b s := rfl
theorem exec_vsar q d a b (s : State) : exec (.vsar q d a b) s = execVsar q d a b s := rfl
theorem exec_vclz q d a (s : State) : exec (.vclz q d a) s = execVclz q d a s := rfl
theorem exec_vpopc q d a (s : State) : exec (.vpopc q d a) s = execVpopc q d a s := rfl
theorem exec_vsel q d a b c (s : State) : exec (.vsel q d a b c) s = execVsel q d a b c s := rfl
theorem exec_vaddc q d a b c (s : State) : exec (.vaddc q d a b c) s = execVaddc q d a b c s := rfl
theorem exec_vsubb q d a b c (s : State) : exec (.vsubb q d a b c) s = execVsubb q d a b c s := rfl
theorem exec_vcmp q cc d a b (s : State) : exec (.vcmp q cc d a b) s = execVcmp q cc d a b s := rfl
theorem exec_vcvt q t part d a (s : State) : exec (.vcvt q t part d a) s = execVcvt q t part d a s := rfl
theorem exec_vrcp q d a (s : State) : exec (.vrcp q d a) s = execVrcp q d a s := rfl
theorem exec_vrsqrt q d a (s : State) : exec (.vrsqrt q d a) s = execVrsqrt q d a s := rfl
theorem exec_vsqrt q d a (s : State) : exec (.vsqrt q d a) s = execVsqrt q d a s := rfl
theorem exec_vdiv q d a b (s : State) : exec (.vdiv q d a b) s = execVdiv q d a b s := rfl
theorem exec_vexp2 q d a (s : State) : exec (.vexp2 q d a) s = execVexp2 q d a s := rfl
theorem exec_vlog2 q d a (s : State) : exec (.vlog2 q d a) s = execVlog2 q d a s := rfl
theorem exec_vcmul q d a b (s : State) : exec (.vcmul q d a b) s = execVcmul q d a b s := rfl
theorem exec_vcmac q d a b c (s : State) : exec (.vcmac q d a b c) s = execVcmac q d a b c s := rfl
theorem exec_vconj q d a (s : State) : exec (.vconj q d a) s = execVconj q d a s := rfl
theorem exec_vcabs2 q d a (s : State) : exec (.vcabs2 q d a) s = execVcabs2 q d a s := rfl
theorem exec_vcrot q k d a (s : State) : exec (.vcrot q k d a) s = execVcrot q k d a s := rfl
theorem exec_vbfly q h d a b (s : State) : exec (.vbfly q h d a b) s = execVbfly q h d a b s := rfl
theorem exec_vgjstep q n p d a (s : State) : exec (.vgjstep q n p d a) s = execVgjstep q n p d a s := rfl
theorem exec_vbfpexp q w d a (s : State) : exec (.vbfpexp q w d a) s = execVbfpexp q w d a s := rfl
theorem exec_vbfpcmp q w d a (s : State) : exec (.vbfpcmp q w d a) s = execVbfpcmp q w d a s := rfl
theorem exec_vslideup q d a b (s : State) : exec (.vslideup q d a b) s = execVslideup q d a b s := rfl
theorem exec_vslidedn q d a b (s : State) : exec (.vslidedn q d a b) s = execVslidedn q d a b s := rfl
theorem exec_vperm q d a b (s : State) : exec (.vperm q d a b) s = execVperm q d a b s := rfl
theorem exec_vbcast q d a b (s : State) : exec (.vbcast q d a b) s = execVbcast q d a b s := rfl
theorem exec_vcompress q d a c (s : State) : exec (.vcompress q d a c) s = execVcompress q d a c s := rfl
theorem exec_vexpand q d a c (s : State) : exec (.vexpand q d a c) s = execVexpand q d a c s := rfl
theorem exec_viota q d c (s : State) : exec (.viota q d c) s = execViota q d c s := rfl
theorem exec_vzip q d a b (s : State) : exec (.vzip q d a b) s = execVzip q d a b s := rfl
theorem exec_vunzip q d a b (s : State) : exec (.vunzip q d a b) s = execVunzip q d a b s := rfl
theorem exec_vredsum q d a (s : State) : exec (.vredsum q d a) s = execVredsum q d a s := rfl
theorem exec_vredmax q d a (s : State) : exec (.vredmax q d a) s = execVredmax q d a s := rfl
theorem exec_vredmin q d a (s : State) : exec (.vredmin q d a) s = execVredmin q d a s := rfl
theorem exec_vscan q d a (s : State) : exec (.vscan q d a) s = execVscan q d a s := rfl
theorem exec_mand d a b (s : State) : exec (.mand d a b) s = execMand d a b s := rfl
theorem exec_mor d a b (s : State) : exec (.mor d a b) s = execMor d a b s := rfl
theorem exec_mxor d a b (s : State) : exec (.mxor d a b) s = execMxor d a b s := rfl
theorem exec_mandn d a b (s : State) : exec (.mandn d a b) s = execMandn d a b s := rfl
theorem exec_mshl d a b (s : State) : exec (.mshl d a b) s = execMshl d a b s := rfl
theorem exec_mpopc d a (s : State) : exec (.mpopc d a) s = execMpopc d a s := rfl
theorem exec_mfirst d a (s : State) : exec (.mfirst d a) s = execMfirst d a s := rfl
theorem exec_mset h d a (s : State) : exec (.mset h d a) s = execMset h d a s := rfl
theorem exec_mget h d a (s : State) : exec (.mget h d a) s = execMget h d a s := rfl
theorem exec_vprobe wr tk a b (s : State) : exec (.vprobe wr tk a b) s = execVprobe wr tk a b s := rfl
theorem exec_vrelease tk (s : State) : exec (.vrelease tk) s = execVrelease tk s := rfl
theorem exec_vld x d a b (s : State) : exec (.vld x d a b) s = execVld x d a b s := rfl
theorem exec_vst x d a b (s : State) : exec (.vst x d a b) s = execVst x d a b s := rfl
theorem exec_vldx x d a b (s : State) : exec (.vldx x d a b) s = execVldx x d a b s := rfl
theorem exec_vstx x d a b (s : State) : exec (.vstx x d a b) s = execVstx x d a b s := rfl
theorem exec_vlds x d a b (s : State) : exec (.vlds x d a b) s = execVlds x d a b s := rfl
theorem exec_vsts x d a b (s : State) : exec (.vsts x d a b) s = execVsts x d a b s := rfl
theorem exec_vldsx x d a b (s : State) : exec (.vldsx x d a b) s = execVldsx x d a b s := rfl
theorem exec_vstsx x d a b (s : State) : exec (.vstsx x d a b) s = execVstsx x d a b s := rfl
theorem exec_vlds2 x d a b c (s : State) : exec (.vlds2 x d a b c) s = execVlds2 x d a b c s := rfl
theorem exec_vsts2 x d a b c (s : State) : exec (.vsts2 x d a b c) s = execVsts2 x d a b c s := rfl
theorem exec_sbind d a (s : State) : exec (.sbind d a) s = execSbind d a s := rfl
theorem exec_sunbind d (s : State) : exec (.sunbind d) s = execSunbind d s := rfl
theorem exec_sstat d a (s : State) : exec (.sstat d a) s = execSstat d a s := rfl
theorem exec_vamo op x d a b c (s : State) : exec (.vamo op x d a b c) s = execVamo op x d a b c s := rfl
theorem exec_vsta op x a b c (s : State) : exec (.vsta op x a b c) s = execVsta op x a b c s := rfl
theorem exec_vwaitc cc x d a b c (s : State) : exec (.vwaitc cc x d a b c) s = execVwaitc cc x d a b c s := rfl
theorem exec_tseal (s : State) : exec (.tseal) s = execTseal s := rfl
theorem exec_twait t a b (s : State) : exec (.twait t a b) s = execTwait t a b s := rfl
theorem exec_macq d n (s : State) : exec (.macq d n) s = execMacq d n s := rfl
theorem exec_mrel n (s : State) : exec (.mrel n) s = execMrel n s := rfl
theorem exec_mzero n (s : State) : exec (.mzero n) s = execMzero n s := rfl
theorem exec_mopa q cj n a b (s : State) : exec (.mopa q cj n a b) s = execMopa q cj n a b s := rfl
theorem exec_mrd col d n a (s : State) : exec (.mrd col d n a) s = execMrd col d n a s := rfl
theorem exec_mwr q col n a b (s : State) : exec (.mwr q col n a b) s = execMwr q col n a b s := rfl
theorem exec_mst x sp n a b (s : State) : exec (.mst x sp n a b) s = execMst x sp n a b s := rfl
theorem exec_mldt x sp n a b (s : State) : exec (.mldt x sp n a b) s = execMldt x sp n a b s := rfl
theorem exec_mscale q n a b (s : State) : exec (.mscale q n a b) s = execMscale q n a b s := rfl
theorem exec_pgopen d a (s : State) : exec (.pgopen d a) s = execPgopen d a s := rfl
theorem exec_pgsub q d a b c (s : State) : exec (.pgsub q d a b c) s = execPgsub q d a b c s := rfl
theorem exec_pgclose a (s : State) : exec (.pgclose a) s = execPgclose a s := rfl
theorem exec_pgmerge q a b c (s : State) : exec (.pgmerge q a b c) s = execPgmerge q a b c s := rfl
theorem exec_pgstat d a which (s : State) : exec (.pgstat d a which) s = execPgstat d a which s := rfl
theorem exec_binit n a b (s : State) : exec (.binit n a b) s = execBinit n a b s := rfl
theorem exec_barrive n (s : State) : exec (.barrive n) s = execBarrive n s := rfl
theorem exec_bexpect n a (s : State) : exec (.bexpect n a) s = execBexpect n a s := rfl
theorem exec_bwait n (s : State) : exec (.bwait n) s = execBwait n s := rfl
theorem exec_btest d n (s : State) : exec (.btest d n) s = execBtest d n s := rfl
theorem exec_tcopy a (s : State) : exec (.tcopy a) s = execTcopy a s := rfl
theorem exec_ringcfg r a (s : State) : exec (.ringcfg r a) s = execRingcfg r a s := rfl
theorem exec_rcommit r a (s : State) : exec (.rcommit r a) s = execRcommit r a s := rfl
theorem exec_rwait r (s : State) : exec (.rwait r) s = execRwait r s := rfl
theorem exec_rrelease r (s : State) : exec (.rrelease r) s = execRrelease r s := rfl
theorem exec_rstat d r which (s : State) : exec (.rstat d r which) s = execRstat d r which s := rfl
theorem exec_csubmit cls a (s : State) : exec (.csubmit cls a) s = execCsubmit cls a s := rfl
theorem exec_fhtx a (s : State) : exec (.fhtx a) s = execFhtx a s := rfl
theorem exec_copyBytesLand copy n (s : State) : exec (.copyBytesLand copy n) s = execCopyBytesLand copy n s := rfl
theorem exec_copyComplete copy (s : State) : exec (.copyComplete copy) s = execCopyComplete copy s := rfl
theorem exec_codingCommandStart cmd (s : State) : exec (.codingCommandStart cmd) s = execCodingCommandStart cmd s := rfl
theorem exec_codingCommandComplete cmd (s : State) : exec (.codingCommandComplete cmd) s = execCodingCommandComplete cmd s := rfl
theorem exec_fronthaulSend tx (s : State) : exec (.fronthaulSend tx) s = execFronthaulSend tx s := rfl
theorem exec_frameReceive port fr (s : State) : exec (.frameReceive port fr) s = execFrameReceive port fr s := rfl
theorem exec_hostQueueTransmit port (s : State) : exec (.hostQueueTransmit port) s = execHostQueueTransmit port s := rfl
theorem exec_sweepStart ctx (s : State) : exec (.sweepStart ctx) s = execSweepStart ctx s := rfl
theorem exec_pageFetch ctx (s : State) : exec (.pageFetch ctx) s = execPageFetch ctx s := rfl
theorem exec_pageDelivery ctx page sb (s : State) : exec (.pageDelivery ctx page sb) s = execPageDelivery ctx page sb s := rfl
theorem exec_caskOverflow h (s : State) : exec (.caskOverflow h) s = execCaskOverflow h s := rfl
theorem exec_sweepEnd ctx (s : State) : exec (.sweepEnd ctx) s = execSweepEnd ctx s := rfl
theorem exec_launchTailWrite p vf tail (s : State) : exec (.launchTailWrite p vf tail) s = execLaunchTailWrite p vf tail s := rfl
theorem exec_launchWindowTake p vf (s : State) : exec (.launchWindowTake p vf) s = execLaunchWindowTake p vf s := rfl
theorem exec_channelMessageTake p ch (s : State) : exec (.channelMessageTake p ch) s = execChannelMessageTake p ch s := rfl
theorem exec_taskTableWrite p ch q0 q1 q2 q3 (s : State) : exec (.taskTableWrite p ch q0 q1 q2 q3) s = execTaskTableWrite p ch q0 q1 q2 q3 s := rfl
theorem exec_gangPlace p (s : State) : exec (.gangPlace p) s = execGangPlace p s := rfl
theorem exec_hartFrameSave h (s : State) : exec (.hartFrameSave h) s = execHartFrameSave h s := rfl
theorem exec_gangFrameSave gang (s : State) : exec (.gangFrameSave gang) s = execGangFrameSave gang s := rfl
theorem exec_lightPreemption core (s : State) : exec (.lightPreemption core) s = execLightPreemption core s := rfl
theorem exec_lightPreemptionResume core (s : State) : exec (.lightPreemptionResume core) s = execLightPreemptionResume core s := rfl
theorem exec_scratchpadClear core (s : State) : exec (.scratchpadClear core) s = execScratchpadClear core s := rfl
theorem exec_gangRelease gang (s : State) : exec (.gangRelease gang) s = execGangRelease gang s := rfl
theorem exec_comparisonTick (s : State) : exec (.comparisonTick) s = execComparisonTick s := rfl
theorem exec_abandonComplete p job (s : State) : exec (.abandonComplete p job) s = execAbandonComplete p job s := rfl
theorem exec_jobEnd p job (s : State) : exec (.jobEnd p job) s = execJobEnd p job s := rfl
theorem exec_commitRightPass p job tree (s : State) : exec (.commitRightPass p job tree) s = execCommitRightPass p job tree s := rfl
theorem exec_commitSpill h (s : State) : exec (.commitSpill h) s = execCommitSpill h s := rfl
theorem exec_blockedHartResume h (s : State) : exec (.blockedHartResume h) s = execBlockedHartResume h s := rfl
theorem exec_waitWatchdog h (s : State) : exec (.waitWatchdog h) s = execWaitWatchdog h s := rfl
theorem exec_wfeTimeout h (s : State) : exec (.wfeTimeout h) s = execWfeTimeout h s := rfl
theorem exec_vwaitcTimeout h (s : State) : exec (.vwaitcTimeout h) s = execVwaitcTimeout h s := rfl
theorem exec_lockHoldWatchdog h (s : State) : exec (.lockHoldWatchdog h) s = execLockHoldWatchdog h s := rfl
theorem exec_handlerWatchdog h (s : State) : exec (.handlerWatchdog h) s = execHandlerWatchdog h s := rfl
theorem exec_addressBreakpoint h (s : State) : exec (.addressBreakpoint h) s = execAddressBreakpoint h s := rfl
theorem exec_singleStep h (s : State) : exec (.singleStep h) s = execSingleStep h s := rfl
theorem exec_pinGraceExpiry inv (s : State) : exec (.pinGraceExpiry inv) s = execPinGraceExpiry inv s := rfl
theorem exec_kill h (s : State) : exec (.kill h) s = execKill h s := rfl
theorem exec_hostq h (s : State) : exec (.hostq h) s = execHostq h s := rfl
theorem exec_hostqTimeout h (s : State) : exec (.hostqTimeout h) s = execHostqTimeout h s := rfl
theorem exec_log h (s : State) : exec (.log h) s = execLog h s := rfl
theorem exec_abandon h (s : State) : exec (.abandon h) s = execAbandon h s := rfl
theorem exec_info h (s : State) : exec (.info h) s = execInfo h s := rfl
theorem exec_faultQueueReply p vf seq (s : State) : exec (.faultQueueReply p vf seq) s = execFaultQueueReply p vf seq s := rfl
theorem exec_invalidatePage p vf va (s : State) : exec (.invalidatePage p vf va) s = execInvalidatePage p vf va s := rfl
theorem exec_invalidateFunction p vf (s : State) : exec (.invalidateFunction p vf) s = execInvalidateFunction p vf s := rfl
theorem exec_invalidationComplete p vf (s : State) : exec (.invalidationComplete p vf) s = execInvalidationComplete p vf s := rfl
theorem exec_jobKillRequest p vf job (s : State) : exec (.jobKillRequest p vf job) s = execJobKillRequest p vf job s := rfl
theorem exec_functionConfigWrite p vf off v (s : State) : exec (.functionConfigWrite p vf off v) s = execFunctionConfigWrite p vf off v s := rfl
theorem exec_arenaGrant p vf n v (s : State) : exec (.arenaGrant p vf n v) s = execArenaGrant p vf n v s := rfl
theorem exec_placementEntryWrite p port i q0 q1 q2 q3 (s : State) : exec (.placementEntryWrite p port i q0 q1 q2 q3) s = execPlacementEntryWrite p port i q0 q1 q2 q3 s := rfl
theorem exec_flowEntryWrite p port i q0 q1 q2 q3 (s : State) : exec (.flowEntryWrite p port i q0 q1 q2 q3) s = execFlowEntryWrite p port i q0 q1 q2 q3 s := rfl
theorem exec_portConfigWrite p port off v (s : State) : exec (.portConfigWrite p port off v) s = execPortConfigWrite p port off v s := rfl
theorem exec_tset p v (s : State) : exec (.tset p v) s = execTset p v s := rfl
theorem exec_toff p v (s : State) : exec (.toff p v) s = execToff p v s := rfl
theorem exec_holdoverTimeout (s : State) : exec (.holdoverTimeout) s = execHoldoverTimeout s := rfl
theorem exec_hostMemoryAccess p acc (s : State) : exec (.hostMemoryAccess p acc) s = execHostMemoryAccess p acc s := rfl
theorem exec_hostErrorCompletion wr pa (s : State) : exec (.hostErrorCompletion wr pa) s = execHostErrorCompletion wr pa s := rfl
theorem exec_twinAccess acc (s : State) : exec (.twinAccess acc) s = execTwinAccess acc s := rfl
theorem exec_hostLinkTrain gen width cxl hostc (s : State) : exec (.hostLinkTrain gen width cxl hostc) s = execHostLinkTrain gen width cxl hostc s := rfl
theorem exec_twinLinkTrain gen width (s : State) : exec (.twinLinkTrain gen width) s = execTwinLinkTrain gen width s := rfl
theorem exec_portLinkChange port up (s : State) : exec (.portLinkChange port up) s = execPortLinkChange port up s := rfl
theorem exec_l2Fill line way (s : State) : exec (.l2Fill line way) s = execL2Fill line way s := rfl
theorem exec_partitionGo p (s : State) : exec (.partitionGo p) s = execPartitionGo p s := rfl
theorem exec_partitionRst p (s : State) : exec (.partitionRst p) s = execPartitionRst p s := rfl
theorem exec_firmwareSwitch p (s : State) : exec (.firmwareSwitch p) s = execFirmwareSwitch p s := rfl
theorem exec_firmwareSwitchComplete p (s : State) : exec (.firmwareSwitchComplete p) s = execFirmwareSwitchComplete p s := rfl
theorem exec_flrPhysicalFunction p (s : State) : exec (.flrPhysicalFunction p) s = execFlrPhysicalFunction p s := rfl
theorem exec_flrVirtualFunction p vf (s : State) : exec (.flrVirtualFunction p vf) s = execFlrVirtualFunction p vf s := rfl
theorem exec_patrolScrub line bad (s : State) : exec (.patrolScrub line bad) s = execPatrolScrub line bad s := rfl
theorem exec_channelFail ch (s : State) : exec (.channelFail ch) s = execChannelFail ch s := rfl
theorem exec_registerError e (s : State) : exec (.registerError e) s = execRegisterError e s := rfl
theorem exec_unitRetire units (s : State) : exec (.unitRetire units) s = execUnitRetire units s := rfl
theorem exec_coreFence cores (s : State) : exec (.coreFence cores) s = execCoreFence cores s := rfl
theorem exec_plimWrite v (s : State) : exec (.plimWrite v) s = execPlimWrite v s := rfl
theorem exec_powerLimitThrottle watts temp (s : State) : exec (.powerLimitThrottle watts temp) s = execPowerLimitThrottle watts temp s := rfl
theorem exec_thermalTrip (s : State) : exec (.thermalTrip) s = execThermalTrip s := rfl
theorem exec_powerOnReset (s : State) : exec (.powerOnReset) s = execPowerOnReset s := rfl
theorem exec_housekeepingRead off (s : State) : exec (.housekeepingRead off) s = execHousekeepingRead off s := rfl
theorem exec_housekeepingWrite off v (s : State) : exec (.housekeepingWrite off v) s = execHousekeepingWrite off v s := rfl
theorem exec_keySlotRevoke ks (s : State) : exec (.keySlotRevoke ks) s = execKeySlotRevoke ks s := rfl
theorem exec_minimumSvnRaise hearth svn (s : State) : exec (.minimumSvnRaise hearth svn) s = execMinimumSvnRaise hearth svn s := rfl
theorem exec_getVersion via (s : State) : exec (.getVersion via) s = execGetVersion via s := rfl
theorem exec_getCapabilities via (s : State) : exec (.getCapabilities via) s = execGetCapabilities via s := rfl
theorem exec_negotiateAlgorithms via ver asym hash (s : State) : exec (.negotiateAlgorithms via ver asym hash) s = execNegotiateAlgorithms via ver asym hash s := rfl
theorem exec_getDigests via (s : State) : exec (.getDigests via) s = execGetDigests via s := rfl
theorem exec_getCertificate via slot off len (s : State) : exec (.getCertificate via slot off len) s = execGetCertificate via slot off len s := rfl
theorem exec_challenge via slot nonce (s : State) : exec (.challenge via slot nonce) s = execChallenge via slot nonce s := rfl
theorem exec_getMeasurements via index sign nonce (s : State) : exec (.getMeasurements via index sign nonce) s = execGetMeasurements via index sign nonce s := rfl
theorem exec_registerWrite p vf off v (s : State) : exec (.registerWrite p vf off v) s = execRegisterWrite p vf off v s := rfl
theorem exec_synceLockChange up (s : State) : exec (.synceLockChange up) s = execSynceLockChange up s := rfl
theorem exec_deviceReset (s : State) : exec (.deviceReset) s = execDeviceReset s := rfl
theorem exec_twinRefusedWrite p job (s : State) : exec (.twinRefusedWrite p job) s = execTwinRefusedWrite p job s := rfl
theorem exec_latePoison p job idx (s : State) : exec (.latePoison p job idx) s = execLatePoison p job idx s := rfl
theorem exec_recoveryImageDelivery img (s : State) : exec (.recoveryImageDelivery img) s = execRecoveryImageDelivery img s := rfl
theorem exec_configurationRequest (s : State) : exec (.configurationRequest) s = execConfigurationRequest s := rfl
theorem exec_cxlCacheSnoop pa inval (s : State) : exec (.cxlCacheSnoop pa inval) s = execCxlCacheSnoop pa inval s := rfl

end Sys2Proof.Machine
end

