-- ==== Sys2Proof/Laws/State.lean ====
section
/-!
SUPPORT. What each named update of the state leaves alone, one lemma per field.
-/

set_option Elab.async false

namespace Sys2Proof.Machine

/-! ### `State.modGang` changes `gangs` only -/

@[simp] theorem State.modGang_agenda (s : State) (u : Nat) (f : Gang → Gang) : (s.modGang u f).agenda = s.agenda := rfl
@[simp] theorem State.modGang_cur (s : State) (u : Nat) (f : Gang → Gang) : (s.modGang u f).cur = s.cur := rfl
@[simp] theorem State.modGang_freeCtr (s : State) (u : Nat) (f : Gang → Gang) : (s.modGang u f).freeCtr = s.freeCtr := rfl
@[simp] theorem State.modGang_choices (s : State) (u : Nat) (f : Gang → Gang) : (s.modGang u f).choices = s.choices := rfl
@[simp] theorem State.modGang_gaps (s : State) (u : Nat) (f : Gang → Gang) : (s.modGang u f).gaps = s.gaps := rfl
@[simp] theorem State.modGang_part (s : State) (u : Nat) (f : Gang → Gang) : (s.modGang u f).part = s.part := rfl
@[simp] theorem State.modGang_stepping (s : State) (u : Nat) (f : Gang → Gang) : (s.modGang u f).stepping = s.stepping := rfl
@[simp] theorem State.modGang_cyc (s : State) (u : Nat) (f : Gang → Gang) : (s.modGang u f).cyc = s.cyc := rfl
@[simp] theorem State.modGang_oscRem (s : State) (u : Nat) (f : Gang → Gang) : (s.modGang u f).oscRem = s.oscRem := rfl
@[simp] theorem State.modGang_dtime (s : State) (u : Nat) (f : Gang → Gang) : (s.modGang u f).dtime = s.dtime := rfl
@[simp] theorem State.modGang_dfrac (s : State) (u : Nat) (f : Gang → Gang) : (s.modGang u f).dfrac = s.dfrac := rfl
@[simp] theorem State.modGang_lastTick (s : State) (u : Nat) (f : Gang → Gang) : (s.modGang u f).lastTick = s.lastTick := rfl
@[simp] theorem State.modGang_tfadj (s : State) (u : Nat) (f : Gang → Gang) : (s.modGang u f).tfadj = s.tfadj := rfl
@[simp] theorem State.modGang_trem (s : State) (u : Nat) (f : Gang → Gang) : (s.modGang u f).trem = s.trem := rfl
@[simp] theorem State.modGang_tfoff (s : State) (u : Nat) (f : Gang → Gang) : (s.modGang u f).tfoff = s.tfoff := rfl
@[simp] theorem State.modGang_sen (s : State) (u : Nat) (f : Gang → Gang) : (s.modGang u f).sen = s.sen := rfl
@[simp] theorem State.modGang_sport (s : State) (u : Nat) (f : Gang → Gang) : (s.modGang u f).sport = s.sport := rfl
@[simp] theorem State.modGang_terr (s : State) (u : Nat) (f : Gang → Gang) : (s.modGang u f).terr = s.terr := rfl
@[simp] theorem State.modGang_tstate (s : State) (u : Nat) (f : Gang → Gang) : (s.modGang u f).tstate = s.tstate := rfl
@[simp] theorem State.modGang_lastServo (s : State) (u : Nat) (f : Gang → Gang) : (s.modGang u f).lastServo = s.lastServo := rfl
@[simp] theorem State.modGang_synceLock (s : State) (u : Nat) (f : Gang → Gang) : (s.modGang u f).synceLock = s.synceLock := rfl
@[simp] theorem State.modGang_hgen (s : State) (u : Nat) (f : Gang → Gang) : (s.modGang u f).hgen = s.hgen := rfl
@[simp] theorem State.modGang_cxlv (s : State) (u : Nat) (f : Gang → Gang) : (s.modGang u f).cxlv = s.cxlv := rfl
@[simp] theorem State.modGang_hwid (s : State) (u : Nat) (f : Gang → Gang) : (s.modGang u f).hwid = s.hwid := rfl
@[simp] theorem State.modGang_hostc (s : State) (u : Nat) (f : Gang → Gang) : (s.modGang u f).hostc = s.hostc := rfl
@[simp] theorem State.modGang_tgen (s : State) (u : Nat) (f : Gang → Gang) : (s.modGang u f).tgen = s.tgen := rfl
@[simp] theorem State.modGang_twid (s : State) (u : Nat) (f : Gang → Gang) : (s.modGang u f).twid = s.twid := rfl
@[simp] theorem State.modGang_dev (s : State) (u : Nat) (f : Gang → Gang) : (s.modGang u f).dev = s.dev := rfl
@[simp] theorem State.modGang_host (s : State) (u : Nat) (f : Gang → Gang) : (s.modGang u f).host = s.host := rfl
@[simp] theorem State.modGang_twin (s : State) (u : Nat) (f : Gang → Gang) : (s.modGang u f).twin = s.twin := rfl
@[simp] theorem State.modGang_devPoison (s : State) (u : Nat) (f : Gang → Gang) : (s.modGang u f).devPoison = s.devPoison := rfl
@[simp] theorem State.modGang_hostPoison (s : State) (u : Nat) (f : Gang → Gang) : (s.modGang u f).hostPoison = s.hostPoison := rfl
@[simp] theorem State.modGang_twinPoison (s : State) (u : Nat) (f : Gang → Gang) : (s.modGang u f).twinPoison = s.twinPoison := rfl
@[simp] theorem State.modGang_hostErr (s : State) (u : Nat) (f : Gang → Gang) : (s.modGang u f).hostErr = s.hostErr := rfl
@[simp] theorem State.modGang_l2 (s : State) (u : Nat) (f : Gang → Gang) : (s.modGang u f).l2 = s.l2 := rfl
@[simp] theorem State.modGang_snoop (s : State) (u : Nat) (f : Gang → Gang) : (s.modGang u f).snoop = s.snoop := rfl
@[simp] theorem State.modGang_owned (s : State) (u : Nat) (f : Gang → Gang) : (s.modGang u f).owned = s.owned := rfl
@[simp] theorem State.modGang_tlb (s : State) (u : Nat) (f : Gang → Gang) : (s.modGang u f).tlb = s.tlb := rfl
@[simp] theorem State.modGang_walks (s : State) (u : Nat) (f : Gang → Gang) : (s.modGang u f).walks = s.walks := rfl
@[simp] theorem State.modGang_serves (s : State) (u : Nat) (f : Gang → Gang) : (s.modGang u f).serves = s.serves := rfl
@[simp] theorem State.modGang_invals (s : State) (u : Nat) (f : Gang → Gang) : (s.modGang u f).invals = s.invals := rfl
@[simp] theorem State.modGang_nextInval (s : State) (u : Nat) (f : Gang → Gang) : (s.modGang u f).nextInval = s.nextInval := rfl
@[simp] theorem State.modGang_nextGang (s : State) (u : Nat) (f : Gang → Gang) : (s.modGang u f).nextGang = s.nextGang := rfl
@[simp] theorem State.modGang_toClear (s : State) (u : Nat) (f : Gang → Gang) : (s.modGang u f).toClear = s.toClear := rfl
@[simp] theorem State.modGang_holds (s : State) (u : Nat) (f : Gang → Gang) : (s.modGang u f).holds = s.holds := rfl
@[simp] theorem State.modGang_jobs (s : State) (u : Nat) (f : Gang → Gang) : (s.modGang u f).jobs = s.jobs := rfl
@[simp] theorem State.modGang_families (s : State) (u : Nat) (f : Gang → Gang) : (s.modGang u f).families = s.families := rfl
@[simp] theorem State.modGang_entries (s : State) (u : Nat) (f : Gang → Gang) : (s.modGang u f).entries = s.entries := rfl
@[simp] theorem State.modGang_nextEntry (s : State) (u : Nat) (f : Gang → Gang) : (s.modGang u f).nextEntry = s.nextEntry := rfl
@[simp] theorem State.modGang_posted (s : State) (u : Nat) (f : Gang → Gang) : (s.modGang u f).posted = s.posted := rfl
@[simp] theorem State.modGang_copies (s : State) (u : Nat) (f : Gang → Gang) : (s.modGang u f).copies = s.copies := rfl
@[simp] theorem State.modGang_codings (s : State) (u : Nat) (f : Gang → Gang) : (s.modGang u f).codings = s.codings := rfl
@[simp] theorem State.modGang_txs (s : State) (u : Nat) (f : Gang → Gang) : (s.modGang u f).txs = s.txs := rfl
@[simp] theorem State.modGang_nextWork (s : State) (u : Nat) (f : Gang → Gang) : (s.modGang u f).nextWork = s.nextWork := rfl
@[simp] theorem State.modGang_sweeps (s : State) (u : Nat) (f : Gang → Gang) : (s.modGang u f).sweeps = s.sweeps := rfl
@[simp] theorem State.modGang_subReuse (s : State) (u : Nat) (f : Gang → Gang) : (s.modGang u f).subReuse = s.subReuse := rfl
@[simp] theorem State.modGang_parts (s : State) (u : Nat) (f : Gang → Gang) : (s.modGang u f).parts = s.parts := rfl
@[simp] theorem State.modGang_ports (s : State) (u : Nat) (f : Gang → Gang) : (s.modGang u f).ports = s.ports := rfl
@[simp] theorem State.modGang_out (s : State) (u : Nat) (f : Gang → Gang) : (s.modGang u f).out = s.out := rfl
@[simp] theorem State.modGang_bootStage (s : State) (u : Nat) (f : Gang → Gang) : (s.modGang u f).bootStage = s.bootStage := rfl
@[simp] theorem State.modGang_tripped (s : State) (u : Nat) (f : Gang → Gang) : (s.modGang u f).tripped = s.tripped := rfl
@[simp] theorem State.modGang_recovery (s : State) (u : Nat) (f : Gang → Gang) : (s.modGang u f).recovery = s.recovery := rfl
@[simp] theorem State.modGang_plimx (s : State) (u : Nat) (f : Gang → Gang) : (s.modGang u f).plimx = s.plimx := rfl
@[simp] theorem State.modGang_plim (s : State) (u : Nat) (f : Gang → Gang) : (s.modGang u f).plim = s.plim := rfl
@[simp] theorem State.modGang_watts (s : State) (u : Nat) (f : Gang → Gang) : (s.modGang u f).watts = s.watts := rfl
@[simp] theorem State.modGang_temp (s : State) (u : Nat) (f : Gang → Gang) : (s.modGang u f).temp = s.temp := rfl
@[simp] theorem State.modGang_clkMHz (s : State) (u : Nat) (f : Gang → Gang) : (s.modGang u f).clkMHz = s.clkMHz := rfl
@[simp] theorem State.modGang_retireQ0 (s : State) (u : Nat) (f : Gang → Gang) : (s.modGang u f).retireQ0 = s.retireQ0 := rfl
@[simp] theorem State.modGang_retirePend (s : State) (u : Nat) (f : Gang → Gang) : (s.modGang u f).retirePend = s.retirePend := rfl
@[simp] theorem State.modGang_fence (s : State) (u : Nat) (f : Gang → Gang) : (s.modGang u f).fence = s.fence := rfl
@[simp] theorem State.modGang_lockstepCnt (s : State) (u : Nat) (f : Gang → Gang) : (s.modGang u f).lockstepCnt = s.lockstepCnt := rfl
@[simp] theorem State.modGang_failedCh (s : State) (u : Nat) (f : Gang → Gang) : (s.modGang u f).failedCh = s.failedCh := rfl
@[simp] theorem State.modGang_chErrs (s : State) (u : Nat) (f : Gang → Gang) : (s.modGang u f).chErrs = s.chErrs := rfl
@[simp] theorem State.modGang_errLog (s : State) (u : Nat) (f : Gang → Gang) : (s.modGang u f).errLog = s.errLog := rfl
@[simp] theorem State.modGang_errHead (s : State) (u : Nat) (f : Gang → Gang) : (s.modGang u f).errHead = s.errHead := rfl
@[simp] theorem State.modGang_lastOwner (s : State) (u : Nat) (f : Gang → Gang) : (s.modGang u f).lastOwner = s.lastOwner := rfl
@[simp] theorem State.modGang_ksRevoked (s : State) (u : Nat) (f : Gang → Gang) : (s.modGang u f).ksRevoked = s.ksRevoked := rfl
@[simp] theorem State.modGang_minSvn (s : State) (u : Nat) (f : Gang → Gang) : (s.modGang u f).minSvn = s.minSvn := rfl
@[simp] theorem State.modGang_bootImage (s : State) (u : Nat) (f : Gang → Gang) : (s.modGang u f).bootImage = s.bootImage := rfl
@[simp] theorem State.modGang_hearthImage (s : State) (u : Nat) (f : Gang → Gang) : (s.modGang u f).hearthImage = s.hearthImage := rfl
@[simp] theorem State.modGang_flashImage (s : State) (u : Nat) (f : Gang → Gang) : (s.modGang u f).flashImage = s.flashImage := rfl
@[simp] theorem State.modGang_flashTable (s : State) (u : Nat) (f : Gang → Gang) : (s.modGang u f).flashTable = s.flashTable := rfl
@[simp] theorem State.modGang_flashBlobs (s : State) (u : Nat) (f : Gang → Gang) : (s.modGang u f).flashBlobs = s.flashBlobs := rfl
@[simp] theorem State.modGang_goTable (s : State) (u : Nat) (f : Gang → Gang) : (s.modGang u f).goTable = s.goTable := rfl
@[simp] theorem State.modGang_spdmVersion (s : State) (u : Nat) (f : Gang → Gang) : (s.modGang u f).spdmVersion = s.spdmVersion := rfl

/-! ### `State.modJob` changes `jobs` only -/

@[simp] theorem State.modJob_agenda (s : State) (p : Fin 3) (id : Nat) (f : Job → Job) : (s.modJob p id f).agenda = s.agenda := rfl
@[simp] theorem State.modJob_cur (s : State) (p : Fin 3) (id : Nat) (f : Job → Job) : (s.modJob p id f).cur = s.cur := rfl
@[simp] theorem State.modJob_freeCtr (s : State) (p : Fin 3) (id : Nat) (f : Job → Job) : (s.modJob p id f).freeCtr = s.freeCtr := rfl
@[simp] theorem State.modJob_choices (s : State) (p : Fin 3) (id : Nat) (f : Job → Job) : (s.modJob p id f).choices = s.choices := rfl
@[simp] theorem State.modJob_gaps (s : State) (p : Fin 3) (id : Nat) (f : Job → Job) : (s.modJob p id f).gaps = s.gaps := rfl
@[simp] theorem State.modJob_part (s : State) (p : Fin 3) (id : Nat) (f : Job → Job) : (s.modJob p id f).part = s.part := rfl
@[simp] theorem State.modJob_stepping (s : State) (p : Fin 3) (id : Nat) (f : Job → Job) : (s.modJob p id f).stepping = s.stepping := rfl
@[simp] theorem State.modJob_cyc (s : State) (p : Fin 3) (id : Nat) (f : Job → Job) : (s.modJob p id f).cyc = s.cyc := rfl
@[simp] theorem State.modJob_oscRem (s : State) (p : Fin 3) (id : Nat) (f : Job → Job) : (s.modJob p id f).oscRem = s.oscRem := rfl
@[simp] theorem State.modJob_dtime (s : State) (p : Fin 3) (id : Nat) (f : Job → Job) : (s.modJob p id f).dtime = s.dtime := rfl
@[simp] theorem State.modJob_dfrac (s : State) (p : Fin 3) (id : Nat) (f : Job → Job) : (s.modJob p id f).dfrac = s.dfrac := rfl
@[simp] theorem State.modJob_lastTick (s : State) (p : Fin 3) (id : Nat) (f : Job → Job) : (s.modJob p id f).lastTick = s.lastTick := rfl
@[simp] theorem State.modJob_tfadj (s : State) (p : Fin 3) (id : Nat) (f : Job → Job) : (s.modJob p id f).tfadj = s.tfadj := rfl
@[simp] theorem State.modJob_trem (s : State) (p : Fin 3) (id : Nat) (f : Job → Job) : (s.modJob p id f).trem = s.trem := rfl
@[simp] theorem State.modJob_tfoff (s : State) (p : Fin 3) (id : Nat) (f : Job → Job) : (s.modJob p id f).tfoff = s.tfoff := rfl
@[simp] theorem State.modJob_sen (s : State) (p : Fin 3) (id : Nat) (f : Job → Job) : (s.modJob p id f).sen = s.sen := rfl
@[simp] theorem State.modJob_sport (s : State) (p : Fin 3) (id : Nat) (f : Job → Job) : (s.modJob p id f).sport = s.sport := rfl
@[simp] theorem State.modJob_terr (s : State) (p : Fin 3) (id : Nat) (f : Job → Job) : (s.modJob p id f).terr = s.terr := rfl
@[simp] theorem State.modJob_tstate (s : State) (p : Fin 3) (id : Nat) (f : Job → Job) : (s.modJob p id f).tstate = s.tstate := rfl
@[simp] theorem State.modJob_lastServo (s : State) (p : Fin 3) (id : Nat) (f : Job → Job) : (s.modJob p id f).lastServo = s.lastServo := rfl
@[simp] theorem State.modJob_synceLock (s : State) (p : Fin 3) (id : Nat) (f : Job → Job) : (s.modJob p id f).synceLock = s.synceLock := rfl
@[simp] theorem State.modJob_hgen (s : State) (p : Fin 3) (id : Nat) (f : Job → Job) : (s.modJob p id f).hgen = s.hgen := rfl
@[simp] theorem State.modJob_cxlv (s : State) (p : Fin 3) (id : Nat) (f : Job → Job) : (s.modJob p id f).cxlv = s.cxlv := rfl
@[simp] theorem State.modJob_hwid (s : State) (p : Fin 3) (id : Nat) (f : Job → Job) : (s.modJob p id f).hwid = s.hwid := rfl
@[simp] theorem State.modJob_hostc (s : State) (p : Fin 3) (id : Nat) (f : Job → Job) : (s.modJob p id f).hostc = s.hostc := rfl
@[simp] theorem State.modJob_tgen (s : State) (p : Fin 3) (id : Nat) (f : Job → Job) : (s.modJob p id f).tgen = s.tgen := rfl
@[simp] theorem State.modJob_twid (s : State) (p : Fin 3) (id : Nat) (f : Job → Job) : (s.modJob p id f).twid = s.twid := rfl
@[simp] theorem State.modJob_dev (s : State) (p : Fin 3) (id : Nat) (f : Job → Job) : (s.modJob p id f).dev = s.dev := rfl
@[simp] theorem State.modJob_host (s : State) (p : Fin 3) (id : Nat) (f : Job → Job) : (s.modJob p id f).host = s.host := rfl
@[simp] theorem State.modJob_twin (s : State) (p : Fin 3) (id : Nat) (f : Job → Job) : (s.modJob p id f).twin = s.twin := rfl
@[simp] theorem State.modJob_devPoison (s : State) (p : Fin 3) (id : Nat) (f : Job → Job) : (s.modJob p id f).devPoison = s.devPoison := rfl
@[simp] theorem State.modJob_hostPoison (s : State) (p : Fin 3) (id : Nat) (f : Job → Job) : (s.modJob p id f).hostPoison = s.hostPoison := rfl
@[simp] theorem State.modJob_twinPoison (s : State) (p : Fin 3) (id : Nat) (f : Job → Job) : (s.modJob p id f).twinPoison = s.twinPoison := rfl
@[simp] theorem State.modJob_hostErr (s : State) (p : Fin 3) (id : Nat) (f : Job → Job) : (s.modJob p id f).hostErr = s.hostErr := rfl
@[simp] theorem State.modJob_l2 (s : State) (p : Fin 3) (id : Nat) (f : Job → Job) : (s.modJob p id f).l2 = s.l2 := rfl
@[simp] theorem State.modJob_snoop (s : State) (p : Fin 3) (id : Nat) (f : Job → Job) : (s.modJob p id f).snoop = s.snoop := rfl
@[simp] theorem State.modJob_owned (s : State) (p : Fin 3) (id : Nat) (f : Job → Job) : (s.modJob p id f).owned = s.owned := rfl
@[simp] theorem State.modJob_tlb (s : State) (p : Fin 3) (id : Nat) (f : Job → Job) : (s.modJob p id f).tlb = s.tlb := rfl
@[simp] theorem State.modJob_walks (s : State) (p : Fin 3) (id : Nat) (f : Job → Job) : (s.modJob p id f).walks = s.walks := rfl
@[simp] theorem State.modJob_serves (s : State) (p : Fin 3) (id : Nat) (f : Job → Job) : (s.modJob p id f).serves = s.serves := rfl
@[simp] theorem State.modJob_invals (s : State) (p : Fin 3) (id : Nat) (f : Job → Job) : (s.modJob p id f).invals = s.invals := rfl
@[simp] theorem State.modJob_nextInval (s : State) (p : Fin 3) (id : Nat) (f : Job → Job) : (s.modJob p id f).nextInval = s.nextInval := rfl
@[simp] theorem State.modJob_gangs (s : State) (p : Fin 3) (id : Nat) (f : Job → Job) : (s.modJob p id f).gangs = s.gangs := rfl
@[simp] theorem State.modJob_nextGang (s : State) (p : Fin 3) (id : Nat) (f : Job → Job) : (s.modJob p id f).nextGang = s.nextGang := rfl
@[simp] theorem State.modJob_toClear (s : State) (p : Fin 3) (id : Nat) (f : Job → Job) : (s.modJob p id f).toClear = s.toClear := rfl
@[simp] theorem State.modJob_holds (s : State) (p : Fin 3) (id : Nat) (f : Job → Job) : (s.modJob p id f).holds = s.holds := rfl
@[simp] theorem State.modJob_families (s : State) (p : Fin 3) (id : Nat) (f : Job → Job) : (s.modJob p id f).families = s.families := rfl
@[simp] theorem State.modJob_entries (s : State) (p : Fin 3) (id : Nat) (f : Job → Job) : (s.modJob p id f).entries = s.entries := rfl
@[simp] theorem State.modJob_nextEntry (s : State) (p : Fin 3) (id : Nat) (f : Job → Job) : (s.modJob p id f).nextEntry = s.nextEntry := rfl
@[simp] theorem State.modJob_posted (s : State) (p : Fin 3) (id : Nat) (f : Job → Job) : (s.modJob p id f).posted = s.posted := rfl
@[simp] theorem State.modJob_copies (s : State) (p : Fin 3) (id : Nat) (f : Job → Job) : (s.modJob p id f).copies = s.copies := rfl
@[simp] theorem State.modJob_codings (s : State) (p : Fin 3) (id : Nat) (f : Job → Job) : (s.modJob p id f).codings = s.codings := rfl
@[simp] theorem State.modJob_txs (s : State) (p : Fin 3) (id : Nat) (f : Job → Job) : (s.modJob p id f).txs = s.txs := rfl
@[simp] theorem State.modJob_nextWork (s : State) (p : Fin 3) (id : Nat) (f : Job → Job) : (s.modJob p id f).nextWork = s.nextWork := rfl
@[simp] theorem State.modJob_sweeps (s : State) (p : Fin 3) (id : Nat) (f : Job → Job) : (s.modJob p id f).sweeps = s.sweeps := rfl
@[simp] theorem State.modJob_subReuse (s : State) (p : Fin 3) (id : Nat) (f : Job → Job) : (s.modJob p id f).subReuse = s.subReuse := rfl
@[simp] theorem State.modJob_parts (s : State) (p : Fin 3) (id : Nat) (f : Job → Job) : (s.modJob p id f).parts = s.parts := rfl
@[simp] theorem State.modJob_ports (s : State) (p : Fin 3) (id : Nat) (f : Job → Job) : (s.modJob p id f).ports = s.ports := rfl
@[simp] theorem State.modJob_out (s : State) (p : Fin 3) (id : Nat) (f : Job → Job) : (s.modJob p id f).out = s.out := rfl
@[simp] theorem State.modJob_bootStage (s : State) (p : Fin 3) (id : Nat) (f : Job → Job) : (s.modJob p id f).bootStage = s.bootStage := rfl
@[simp] theorem State.modJob_tripped (s : State) (p : Fin 3) (id : Nat) (f : Job → Job) : (s.modJob p id f).tripped = s.tripped := rfl
@[simp] theorem State.modJob_recovery (s : State) (p : Fin 3) (id : Nat) (f : Job → Job) : (s.modJob p id f).recovery = s.recovery := rfl
@[simp] theorem State.modJob_plimx (s : State) (p : Fin 3) (id : Nat) (f : Job → Job) : (s.modJob p id f).plimx = s.plimx := rfl
@[simp] theorem State.modJob_plim (s : State) (p : Fin 3) (id : Nat) (f : Job → Job) : (s.modJob p id f).plim = s.plim := rfl
@[simp] theorem State.modJob_watts (s : State) (p : Fin 3) (id : Nat) (f : Job → Job) : (s.modJob p id f).watts = s.watts := rfl
@[simp] theorem State.modJob_temp (s : State) (p : Fin 3) (id : Nat) (f : Job → Job) : (s.modJob p id f).temp = s.temp := rfl
@[simp] theorem State.modJob_clkMHz (s : State) (p : Fin 3) (id : Nat) (f : Job → Job) : (s.modJob p id f).clkMHz = s.clkMHz := rfl
@[simp] theorem State.modJob_retireQ0 (s : State) (p : Fin 3) (id : Nat) (f : Job → Job) : (s.modJob p id f).retireQ0 = s.retireQ0 := rfl
@[simp] theorem State.modJob_retirePend (s : State) (p : Fin 3) (id : Nat) (f : Job → Job) : (s.modJob p id f).retirePend = s.retirePend := rfl
@[simp] theorem State.modJob_fence (s : State) (p : Fin 3) (id : Nat) (f : Job → Job) : (s.modJob p id f).fence = s.fence := rfl
@[simp] theorem State.modJob_lockstepCnt (s : State) (p : Fin 3) (id : Nat) (f : Job → Job) : (s.modJob p id f).lockstepCnt = s.lockstepCnt := rfl
@[simp] theorem State.modJob_failedCh (s : State) (p : Fin 3) (id : Nat) (f : Job → Job) : (s.modJob p id f).failedCh = s.failedCh := rfl
@[simp] theorem State.modJob_chErrs (s : State) (p : Fin 3) (id : Nat) (f : Job → Job) : (s.modJob p id f).chErrs = s.chErrs := rfl
@[simp] theorem State.modJob_errLog (s : State) (p : Fin 3) (id : Nat) (f : Job → Job) : (s.modJob p id f).errLog = s.errLog := rfl
@[simp] theorem State.modJob_errHead (s : State) (p : Fin 3) (id : Nat) (f : Job → Job) : (s.modJob p id f).errHead = s.errHead := rfl
@[simp] theorem State.modJob_lastOwner (s : State) (p : Fin 3) (id : Nat) (f : Job → Job) : (s.modJob p id f).lastOwner = s.lastOwner := rfl
@[simp] theorem State.modJob_ksRevoked (s : State) (p : Fin 3) (id : Nat) (f : Job → Job) : (s.modJob p id f).ksRevoked = s.ksRevoked := rfl
@[simp] theorem State.modJob_minSvn (s : State) (p : Fin 3) (id : Nat) (f : Job → Job) : (s.modJob p id f).minSvn = s.minSvn := rfl
@[simp] theorem State.modJob_bootImage (s : State) (p : Fin 3) (id : Nat) (f : Job → Job) : (s.modJob p id f).bootImage = s.bootImage := rfl
@[simp] theorem State.modJob_hearthImage (s : State) (p : Fin 3) (id : Nat) (f : Job → Job) : (s.modJob p id f).hearthImage = s.hearthImage := rfl
@[simp] theorem State.modJob_flashImage (s : State) (p : Fin 3) (id : Nat) (f : Job → Job) : (s.modJob p id f).flashImage = s.flashImage := rfl
@[simp] theorem State.modJob_flashTable (s : State) (p : Fin 3) (id : Nat) (f : Job → Job) : (s.modJob p id f).flashTable = s.flashTable := rfl
@[simp] theorem State.modJob_flashBlobs (s : State) (p : Fin 3) (id : Nat) (f : Job → Job) : (s.modJob p id f).flashBlobs = s.flashBlobs := rfl
@[simp] theorem State.modJob_goTable (s : State) (p : Fin 3) (id : Nat) (f : Job → Job) : (s.modJob p id f).goTable = s.goTable := rfl
@[simp] theorem State.modJob_spdmVersion (s : State) (p : Fin 3) (id : Nat) (f : Job → Job) : (s.modJob p id f).spdmVersion = s.spdmVersion := rfl

/-! ### `State.modPart` changes `parts` only -/

@[simp] theorem State.modPart_agenda (s : State) (p : Fin 3) (f : Part → Part) : (s.modPart p f).agenda = s.agenda := rfl
@[simp] theorem State.modPart_cur (s : State) (p : Fin 3) (f : Part → Part) : (s.modPart p f).cur = s.cur := rfl
@[simp] theorem State.modPart_freeCtr (s : State) (p : Fin 3) (f : Part → Part) : (s.modPart p f).freeCtr = s.freeCtr := rfl
@[simp] theorem State.modPart_choices (s : State) (p : Fin 3) (f : Part → Part) : (s.modPart p f).choices = s.choices := rfl
@[simp] theorem State.modPart_gaps (s : State) (p : Fin 3) (f : Part → Part) : (s.modPart p f).gaps = s.gaps := rfl
@[simp] theorem State.modPart_part (s : State) (p : Fin 3) (f : Part → Part) : (s.modPart p f).part = s.part := rfl
@[simp] theorem State.modPart_stepping (s : State) (p : Fin 3) (f : Part → Part) : (s.modPart p f).stepping = s.stepping := rfl
@[simp] theorem State.modPart_cyc (s : State) (p : Fin 3) (f : Part → Part) : (s.modPart p f).cyc = s.cyc := rfl
@[simp] theorem State.modPart_oscRem (s : State) (p : Fin 3) (f : Part → Part) : (s.modPart p f).oscRem = s.oscRem := rfl
@[simp] theorem State.modPart_dtime (s : State) (p : Fin 3) (f : Part → Part) : (s.modPart p f).dtime = s.dtime := rfl
@[simp] theorem State.modPart_dfrac (s : State) (p : Fin 3) (f : Part → Part) : (s.modPart p f).dfrac = s.dfrac := rfl
@[simp] theorem State.modPart_lastTick (s : State) (p : Fin 3) (f : Part → Part) : (s.modPart p f).lastTick = s.lastTick := rfl
@[simp] theorem State.modPart_tfadj (s : State) (p : Fin 3) (f : Part → Part) : (s.modPart p f).tfadj = s.tfadj := rfl
@[simp] theorem State.modPart_trem (s : State) (p : Fin 3) (f : Part → Part) : (s.modPart p f).trem = s.trem := rfl
@[simp] theorem State.modPart_tfoff (s : State) (p : Fin 3) (f : Part → Part) : (s.modPart p f).tfoff = s.tfoff := rfl
@[simp] theorem State.modPart_sen (s : State) (p : Fin 3) (f : Part → Part) : (s.modPart p f).sen = s.sen := rfl
@[simp] theorem State.modPart_sport (s : State) (p : Fin 3) (f : Part → Part) : (s.modPart p f).sport = s.sport := rfl
@[simp] theorem State.modPart_terr (s : State) (p : Fin 3) (f : Part → Part) : (s.modPart p f).terr = s.terr := rfl
@[simp] theorem State.modPart_tstate (s : State) (p : Fin 3) (f : Part → Part) : (s.modPart p f).tstate = s.tstate := rfl
@[simp] theorem State.modPart_lastServo (s : State) (p : Fin 3) (f : Part → Part) : (s.modPart p f).lastServo = s.lastServo := rfl
@[simp] theorem State.modPart_synceLock (s : State) (p : Fin 3) (f : Part → Part) : (s.modPart p f).synceLock = s.synceLock := rfl
@[simp] theorem State.modPart_hgen (s : State) (p : Fin 3) (f : Part → Part) : (s.modPart p f).hgen = s.hgen := rfl
@[simp] theorem State.modPart_cxlv (s : State) (p : Fin 3) (f : Part → Part) : (s.modPart p f).cxlv = s.cxlv := rfl
@[simp] theorem State.modPart_hwid (s : State) (p : Fin 3) (f : Part → Part) : (s.modPart p f).hwid = s.hwid := rfl
@[simp] theorem State.modPart_hostc (s : State) (p : Fin 3) (f : Part → Part) : (s.modPart p f).hostc = s.hostc := rfl
@[simp] theorem State.modPart_tgen (s : State) (p : Fin 3) (f : Part → Part) : (s.modPart p f).tgen = s.tgen := rfl
@[simp] theorem State.modPart_twid (s : State) (p : Fin 3) (f : Part → Part) : (s.modPart p f).twid = s.twid := rfl
@[simp] theorem State.modPart_dev (s : State) (p : Fin 3) (f : Part → Part) : (s.modPart p f).dev = s.dev := rfl
@[simp] theorem State.modPart_host (s : State) (p : Fin 3) (f : Part → Part) : (s.modPart p f).host = s.host := rfl
@[simp] theorem State.modPart_twin (s : State) (p : Fin 3) (f : Part → Part) : (s.modPart p f).twin = s.twin := rfl
@[simp] theorem State.modPart_devPoison (s : State) (p : Fin 3) (f : Part → Part) : (s.modPart p f).devPoison = s.devPoison := rfl
@[simp] theorem State.modPart_hostPoison (s : State) (p : Fin 3) (f : Part → Part) : (s.modPart p f).hostPoison = s.hostPoison := rfl
@[simp] theorem State.modPart_twinPoison (s : State) (p : Fin 3) (f : Part → Part) : (s.modPart p f).twinPoison = s.twinPoison := rfl
@[simp] theorem State.modPart_hostErr (s : State) (p : Fin 3) (f : Part → Part) : (s.modPart p f).hostErr = s.hostErr := rfl
@[simp] theorem State.modPart_l2 (s : State) (p : Fin 3) (f : Part → Part) : (s.modPart p f).l2 = s.l2 := rfl
@[simp] theorem State.modPart_snoop (s : State) (p : Fin 3) (f : Part → Part) : (s.modPart p f).snoop = s.snoop := rfl
@[simp] theorem State.modPart_owned (s : State) (p : Fin 3) (f : Part → Part) : (s.modPart p f).owned = s.owned := rfl
@[simp] theorem State.modPart_tlb (s : State) (p : Fin 3) (f : Part → Part) : (s.modPart p f).tlb = s.tlb := rfl
@[simp] theorem State.modPart_walks (s : State) (p : Fin 3) (f : Part → Part) : (s.modPart p f).walks = s.walks := rfl
@[simp] theorem State.modPart_serves (s : State) (p : Fin 3) (f : Part → Part) : (s.modPart p f).serves = s.serves := rfl
@[simp] theorem State.modPart_invals (s : State) (p : Fin 3) (f : Part → Part) : (s.modPart p f).invals = s.invals := rfl
@[simp] theorem State.modPart_nextInval (s : State) (p : Fin 3) (f : Part → Part) : (s.modPart p f).nextInval = s.nextInval := rfl
@[simp] theorem State.modPart_gangs (s : State) (p : Fin 3) (f : Part → Part) : (s.modPart p f).gangs = s.gangs := rfl
@[simp] theorem State.modPart_nextGang (s : State) (p : Fin 3) (f : Part → Part) : (s.modPart p f).nextGang = s.nextGang := rfl
@[simp] theorem State.modPart_toClear (s : State) (p : Fin 3) (f : Part → Part) : (s.modPart p f).toClear = s.toClear := rfl
@[simp] theorem State.modPart_holds (s : State) (p : Fin 3) (f : Part → Part) : (s.modPart p f).holds = s.holds := rfl
@[simp] theorem State.modPart_jobs (s : State) (p : Fin 3) (f : Part → Part) : (s.modPart p f).jobs = s.jobs := rfl
@[simp] theorem State.modPart_families (s : State) (p : Fin 3) (f : Part → Part) : (s.modPart p f).families = s.families := rfl
@[simp] theorem State.modPart_entries (s : State) (p : Fin 3) (f : Part → Part) : (s.modPart p f).entries = s.entries := rfl
@[simp] theorem State.modPart_nextEntry (s : State) (p : Fin 3) (f : Part → Part) : (s.modPart p f).nextEntry = s.nextEntry := rfl
@[simp] theorem State.modPart_posted (s : State) (p : Fin 3) (f : Part → Part) : (s.modPart p f).posted = s.posted := rfl
@[simp] theorem State.modPart_copies (s : State) (p : Fin 3) (f : Part → Part) : (s.modPart p f).copies = s.copies := rfl
@[simp] theorem State.modPart_codings (s : State) (p : Fin 3) (f : Part → Part) : (s.modPart p f).codings = s.codings := rfl
@[simp] theorem State.modPart_txs (s : State) (p : Fin 3) (f : Part → Part) : (s.modPart p f).txs = s.txs := rfl
@[simp] theorem State.modPart_nextWork (s : State) (p : Fin 3) (f : Part → Part) : (s.modPart p f).nextWork = s.nextWork := rfl
@[simp] theorem State.modPart_sweeps (s : State) (p : Fin 3) (f : Part → Part) : (s.modPart p f).sweeps = s.sweeps := rfl
@[simp] theorem State.modPart_subReuse (s : State) (p : Fin 3) (f : Part → Part) : (s.modPart p f).subReuse = s.subReuse := rfl
@[simp] theorem State.modPart_ports (s : State) (p : Fin 3) (f : Part → Part) : (s.modPart p f).ports = s.ports := rfl
@[simp] theorem State.modPart_out (s : State) (p : Fin 3) (f : Part → Part) : (s.modPart p f).out = s.out := rfl
@[simp] theorem State.modPart_bootStage (s : State) (p : Fin 3) (f : Part → Part) : (s.modPart p f).bootStage = s.bootStage := rfl
@[simp] theorem State.modPart_tripped (s : State) (p : Fin 3) (f : Part → Part) : (s.modPart p f).tripped = s.tripped := rfl
@[simp] theorem State.modPart_recovery (s : State) (p : Fin 3) (f : Part → Part) : (s.modPart p f).recovery = s.recovery := rfl
@[simp] theorem State.modPart_plimx (s : State) (p : Fin 3) (f : Part → Part) : (s.modPart p f).plimx = s.plimx := rfl
@[simp] theorem State.modPart_plim (s : State) (p : Fin 3) (f : Part → Part) : (s.modPart p f).plim = s.plim := rfl
@[simp] theorem State.modPart_watts (s : State) (p : Fin 3) (f : Part → Part) : (s.modPart p f).watts = s.watts := rfl
@[simp] theorem State.modPart_temp (s : State) (p : Fin 3) (f : Part → Part) : (s.modPart p f).temp = s.temp := rfl
@[simp] theorem State.modPart_clkMHz (s : State) (p : Fin 3) (f : Part → Part) : (s.modPart p f).clkMHz = s.clkMHz := rfl
@[simp] theorem State.modPart_retireQ0 (s : State) (p : Fin 3) (f : Part → Part) : (s.modPart p f).retireQ0 = s.retireQ0 := rfl
@[simp] theorem State.modPart_retirePend (s : State) (p : Fin 3) (f : Part → Part) : (s.modPart p f).retirePend = s.retirePend := rfl
@[simp] theorem State.modPart_fence (s : State) (p : Fin 3) (f : Part → Part) : (s.modPart p f).fence = s.fence := rfl
@[simp] theorem State.modPart_lockstepCnt (s : State) (p : Fin 3) (f : Part → Part) : (s.modPart p f).lockstepCnt = s.lockstepCnt := rfl
@[simp] theorem State.modPart_failedCh (s : State) (p : Fin 3) (f : Part → Part) : (s.modPart p f).failedCh = s.failedCh := rfl
@[simp] theorem State.modPart_chErrs (s : State) (p : Fin 3) (f : Part → Part) : (s.modPart p f).chErrs = s.chErrs := rfl
@[simp] theorem State.modPart_errLog (s : State) (p : Fin 3) (f : Part → Part) : (s.modPart p f).errLog = s.errLog := rfl
@[simp] theorem State.modPart_errHead (s : State) (p : Fin 3) (f : Part → Part) : (s.modPart p f).errHead = s.errHead := rfl
@[simp] theorem State.modPart_lastOwner (s : State) (p : Fin 3) (f : Part → Part) : (s.modPart p f).lastOwner = s.lastOwner := rfl
@[simp] theorem State.modPart_ksRevoked (s : State) (p : Fin 3) (f : Part → Part) : (s.modPart p f).ksRevoked = s.ksRevoked := rfl
@[simp] theorem State.modPart_minSvn (s : State) (p : Fin 3) (f : Part → Part) : (s.modPart p f).minSvn = s.minSvn := rfl
@[simp] theorem State.modPart_bootImage (s : State) (p : Fin 3) (f : Part → Part) : (s.modPart p f).bootImage = s.bootImage := rfl
@[simp] theorem State.modPart_hearthImage (s : State) (p : Fin 3) (f : Part → Part) : (s.modPart p f).hearthImage = s.hearthImage := rfl
@[simp] theorem State.modPart_flashImage (s : State) (p : Fin 3) (f : Part → Part) : (s.modPart p f).flashImage = s.flashImage := rfl
@[simp] theorem State.modPart_flashTable (s : State) (p : Fin 3) (f : Part → Part) : (s.modPart p f).flashTable = s.flashTable := rfl
@[simp] theorem State.modPart_flashBlobs (s : State) (p : Fin 3) (f : Part → Part) : (s.modPart p f).flashBlobs = s.flashBlobs := rfl
@[simp] theorem State.modPart_goTable (s : State) (p : Fin 3) (f : Part → Part) : (s.modPart p f).goTable = s.goTable := rfl
@[simp] theorem State.modPart_spdmVersion (s : State) (p : Fin 3) (f : Part → Part) : (s.modPart p f).spdmVersion = s.spdmVersion := rfl

/-! ### `State.modPort` changes `ports` only -/

@[simp] theorem State.modPort_agenda (s : State) (n : Fin 8) (f : Port → Port) : (s.modPort n f).agenda = s.agenda := rfl
@[simp] theorem State.modPort_cur (s : State) (n : Fin 8) (f : Port → Port) : (s.modPort n f).cur = s.cur := rfl
@[simp] theorem State.modPort_freeCtr (s : State) (n : Fin 8) (f : Port → Port) : (s.modPort n f).freeCtr = s.freeCtr := rfl
@[simp] theorem State.modPort_choices (s : State) (n : Fin 8) (f : Port → Port) : (s.modPort n f).choices = s.choices := rfl
@[simp] theorem State.modPort_gaps (s : State) (n : Fin 8) (f : Port → Port) : (s.modPort n f).gaps = s.gaps := rfl
@[simp] theorem State.modPort_part (s : State) (n : Fin 8) (f : Port → Port) : (s.modPort n f).part = s.part := rfl
@[simp] theorem State.modPort_stepping (s : State) (n : Fin 8) (f : Port → Port) : (s.modPort n f).stepping = s.stepping := rfl
@[simp] theorem State.modPort_cyc (s : State) (n : Fin 8) (f : Port → Port) : (s.modPort n f).cyc = s.cyc := rfl
@[simp] theorem State.modPort_oscRem (s : State) (n : Fin 8) (f : Port → Port) : (s.modPort n f).oscRem = s.oscRem := rfl
@[simp] theorem State.modPort_dtime (s : State) (n : Fin 8) (f : Port → Port) : (s.modPort n f).dtime = s.dtime := rfl
@[simp] theorem State.modPort_dfrac (s : State) (n : Fin 8) (f : Port → Port) : (s.modPort n f).dfrac = s.dfrac := rfl
@[simp] theorem State.modPort_lastTick (s : State) (n : Fin 8) (f : Port → Port) : (s.modPort n f).lastTick = s.lastTick := rfl
@[simp] theorem State.modPort_tfadj (s : State) (n : Fin 8) (f : Port → Port) : (s.modPort n f).tfadj = s.tfadj := rfl
@[simp] theorem State.modPort_trem (s : State) (n : Fin 8) (f : Port → Port) : (s.modPort n f).trem = s.trem := rfl
@[simp] theorem State.modPort_tfoff (s : State) (n : Fin 8) (f : Port → Port) : (s.modPort n f).tfoff = s.tfoff := rfl
@[simp] theorem State.modPort_sen (s : State) (n : Fin 8) (f : Port → Port) : (s.modPort n f).sen = s.sen := rfl
@[simp] theorem State.modPort_sport (s : State) (n : Fin 8) (f : Port → Port) : (s.modPort n f).sport = s.sport := rfl
@[simp] theorem State.modPort_terr (s : State) (n : Fin 8) (f : Port → Port) : (s.modPort n f).terr = s.terr := rfl
@[simp] theorem State.modPort_tstate (s : State) (n : Fin 8) (f : Port → Port) : (s.modPort n f).tstate = s.tstate := rfl
@[simp] theorem State.modPort_lastServo (s : State) (n : Fin 8) (f : Port → Port) : (s.modPort n f).lastServo = s.lastServo := rfl
@[simp] theorem State.modPort_synceLock (s : State) (n : Fin 8) (f : Port → Port) : (s.modPort n f).synceLock = s.synceLock := rfl
@[simp] theorem State.modPort_hgen (s : State) (n : Fin 8) (f : Port → Port) : (s.modPort n f).hgen = s.hgen := rfl
@[simp] theorem State.modPort_cxlv (s : State) (n : Fin 8) (f : Port → Port) : (s.modPort n f).cxlv = s.cxlv := rfl
@[simp] theorem State.modPort_hwid (s : State) (n : Fin 8) (f : Port → Port) : (s.modPort n f).hwid = s.hwid := rfl
@[simp] theorem State.modPort_hostc (s : State) (n : Fin 8) (f : Port → Port) : (s.modPort n f).hostc = s.hostc := rfl
@[simp] theorem State.modPort_tgen (s : State) (n : Fin 8) (f : Port → Port) : (s.modPort n f).tgen = s.tgen := rfl
@[simp] theorem State.modPort_twid (s : State) (n : Fin 8) (f : Port → Port) : (s.modPort n f).twid = s.twid := rfl
@[simp] theorem State.modPort_dev (s : State) (n : Fin 8) (f : Port → Port) : (s.modPort n f).dev = s.dev := rfl
@[simp] theorem State.modPort_host (s : State) (n : Fin 8) (f : Port → Port) : (s.modPort n f).host = s.host := rfl
@[simp] theorem State.modPort_twin (s : State) (n : Fin 8) (f : Port → Port) : (s.modPort n f).twin = s.twin := rfl
@[simp] theorem State.modPort_devPoison (s : State) (n : Fin 8) (f : Port → Port) : (s.modPort n f).devPoison = s.devPoison := rfl
@[simp] theorem State.modPort_hostPoison (s : State) (n : Fin 8) (f : Port → Port) : (s.modPort n f).hostPoison = s.hostPoison := rfl
@[simp] theorem State.modPort_twinPoison (s : State) (n : Fin 8) (f : Port → Port) : (s.modPort n f).twinPoison = s.twinPoison := rfl
@[simp] theorem State.modPort_hostErr (s : State) (n : Fin 8) (f : Port → Port) : (s.modPort n f).hostErr = s.hostErr := rfl
@[simp] theorem State.modPort_l2 (s : State) (n : Fin 8) (f : Port → Port) : (s.modPort n f).l2 = s.l2 := rfl
@[simp] theorem State.modPort_snoop (s : State) (n : Fin 8) (f : Port → Port) : (s.modPort n f).snoop = s.snoop := rfl
@[simp] theorem State.modPort_owned (s : State) (n : Fin 8) (f : Port → Port) : (s.modPort n f).owned = s.owned := rfl
@[simp] theorem State.modPort_tlb (s : State) (n : Fin 8) (f : Port → Port) : (s.modPort n f).tlb = s.tlb := rfl
@[simp] theorem State.modPort_walks (s : State) (n : Fin 8) (f : Port → Port) : (s.modPort n f).walks = s.walks := rfl
@[simp] theorem State.modPort_serves (s : State) (n : Fin 8) (f : Port → Port) : (s.modPort n f).serves = s.serves := rfl
@[simp] theorem State.modPort_invals (s : State) (n : Fin 8) (f : Port → Port) : (s.modPort n f).invals = s.invals := rfl
@[simp] theorem State.modPort_nextInval (s : State) (n : Fin 8) (f : Port → Port) : (s.modPort n f).nextInval = s.nextInval := rfl
@[simp] theorem State.modPort_gangs (s : State) (n : Fin 8) (f : Port → Port) : (s.modPort n f).gangs = s.gangs := rfl
@[simp] theorem State.modPort_nextGang (s : State) (n : Fin 8) (f : Port → Port) : (s.modPort n f).nextGang = s.nextGang := rfl
@[simp] theorem State.modPort_toClear (s : State) (n : Fin 8) (f : Port → Port) : (s.modPort n f).toClear = s.toClear := rfl
@[simp] theorem State.modPort_holds (s : State) (n : Fin 8) (f : Port → Port) : (s.modPort n f).holds = s.holds := rfl
@[simp] theorem State.modPort_jobs (s : State) (n : Fin 8) (f : Port → Port) : (s.modPort n f).jobs = s.jobs := rfl
@[simp] theorem State.modPort_families (s : State) (n : Fin 8) (f : Port → Port) : (s.modPort n f).families = s.families := rfl
@[simp] theorem State.modPort_entries (s : State) (n : Fin 8) (f : Port → Port) : (s.modPort n f).entries = s.entries := rfl
@[simp] theorem State.modPort_nextEntry (s : State) (n : Fin 8) (f : Port → Port) : (s.modPort n f).nextEntry = s.nextEntry := rfl
@[simp] theorem State.modPort_posted (s : State) (n : Fin 8) (f : Port → Port) : (s.modPort n f).posted = s.posted := rfl
@[simp] theorem State.modPort_copies (s : State) (n : Fin 8) (f : Port → Port) : (s.modPort n f).copies = s.copies := rfl
@[simp] theorem State.modPort_codings (s : State) (n : Fin 8) (f : Port → Port) : (s.modPort n f).codings = s.codings := rfl
@[simp] theorem State.modPort_txs (s : State) (n : Fin 8) (f : Port → Port) : (s.modPort n f).txs = s.txs := rfl
@[simp] theorem State.modPort_nextWork (s : State) (n : Fin 8) (f : Port → Port) : (s.modPort n f).nextWork = s.nextWork := rfl
@[simp] theorem State.modPort_sweeps (s : State) (n : Fin 8) (f : Port → Port) : (s.modPort n f).sweeps = s.sweeps := rfl
@[simp] theorem State.modPort_subReuse (s : State) (n : Fin 8) (f : Port → Port) : (s.modPort n f).subReuse = s.subReuse := rfl
@[simp] theorem State.modPort_parts (s : State) (n : Fin 8) (f : Port → Port) : (s.modPort n f).parts = s.parts := rfl
@[simp] theorem State.modPort_out (s : State) (n : Fin 8) (f : Port → Port) : (s.modPort n f).out = s.out := rfl
@[simp] theorem State.modPort_bootStage (s : State) (n : Fin 8) (f : Port → Port) : (s.modPort n f).bootStage = s.bootStage := rfl
@[simp] theorem State.modPort_tripped (s : State) (n : Fin 8) (f : Port → Port) : (s.modPort n f).tripped = s.tripped := rfl
@[simp] theorem State.modPort_recovery (s : State) (n : Fin 8) (f : Port → Port) : (s.modPort n f).recovery = s.recovery := rfl
@[simp] theorem State.modPort_plimx (s : State) (n : Fin 8) (f : Port → Port) : (s.modPort n f).plimx = s.plimx := rfl
@[simp] theorem State.modPort_plim (s : State) (n : Fin 8) (f : Port → Port) : (s.modPort n f).plim = s.plim := rfl
@[simp] theorem State.modPort_watts (s : State) (n : Fin 8) (f : Port → Port) : (s.modPort n f).watts = s.watts := rfl
@[simp] theorem State.modPort_temp (s : State) (n : Fin 8) (f : Port → Port) : (s.modPort n f).temp = s.temp := rfl
@[simp] theorem State.modPort_clkMHz (s : State) (n : Fin 8) (f : Port → Port) : (s.modPort n f).clkMHz = s.clkMHz := rfl
@[simp] theorem State.modPort_retireQ0 (s : State) (n : Fin 8) (f : Port → Port) : (s.modPort n f).retireQ0 = s.retireQ0 := rfl
@[simp] theorem State.modPort_retirePend (s : State) (n : Fin 8) (f : Port → Port) : (s.modPort n f).retirePend = s.retirePend := rfl
@[simp] theorem State.modPort_fence (s : State) (n : Fin 8) (f : Port → Port) : (s.modPort n f).fence = s.fence := rfl
@[simp] theorem State.modPort_lockstepCnt (s : State) (n : Fin 8) (f : Port → Port) : (s.modPort n f).lockstepCnt = s.lockstepCnt := rfl
@[simp] theorem State.modPort_failedCh (s : State) (n : Fin 8) (f : Port → Port) : (s.modPort n f).failedCh = s.failedCh := rfl
@[simp] theorem State.modPort_chErrs (s : State) (n : Fin 8) (f : Port → Port) : (s.modPort n f).chErrs = s.chErrs := rfl
@[simp] theorem State.modPort_errLog (s : State) (n : Fin 8) (f : Port → Port) : (s.modPort n f).errLog = s.errLog := rfl
@[simp] theorem State.modPort_errHead (s : State) (n : Fin 8) (f : Port → Port) : (s.modPort n f).errHead = s.errHead := rfl
@[simp] theorem State.modPort_lastOwner (s : State) (n : Fin 8) (f : Port → Port) : (s.modPort n f).lastOwner = s.lastOwner := rfl
@[simp] theorem State.modPort_ksRevoked (s : State) (n : Fin 8) (f : Port → Port) : (s.modPort n f).ksRevoked = s.ksRevoked := rfl
@[simp] theorem State.modPort_minSvn (s : State) (n : Fin 8) (f : Port → Port) : (s.modPort n f).minSvn = s.minSvn := rfl
@[simp] theorem State.modPort_bootImage (s : State) (n : Fin 8) (f : Port → Port) : (s.modPort n f).bootImage = s.bootImage := rfl
@[simp] theorem State.modPort_hearthImage (s : State) (n : Fin 8) (f : Port → Port) : (s.modPort n f).hearthImage = s.hearthImage := rfl
@[simp] theorem State.modPort_flashImage (s : State) (n : Fin 8) (f : Port → Port) : (s.modPort n f).flashImage = s.flashImage := rfl
@[simp] theorem State.modPort_flashTable (s : State) (n : Fin 8) (f : Port → Port) : (s.modPort n f).flashTable = s.flashTable := rfl
@[simp] theorem State.modPort_flashBlobs (s : State) (n : Fin 8) (f : Port → Port) : (s.modPort n f).flashBlobs = s.flashBlobs := rfl
@[simp] theorem State.modPort_goTable (s : State) (n : Fin 8) (f : Port → Port) : (s.modPort n f).goTable = s.goTable := rfl
@[simp] theorem State.modPort_spdmVersion (s : State) (n : Fin 8) (f : Port → Port) : (s.modPort n f).spdmVersion = s.spdmVersion := rfl

/-! ### `State.modMe` changes `gangs` only -/

@[simp] theorem State.modMe_agenda (s : State) (f : Hart → Hart) : (s.modMe f).agenda = s.agenda := rfl
@[simp] theorem State.modMe_cur (s : State) (f : Hart → Hart) : (s.modMe f).cur = s.cur := rfl
@[simp] theorem State.modMe_freeCtr (s : State) (f : Hart → Hart) : (s.modMe f).freeCtr = s.freeCtr := rfl
@[simp] theorem State.modMe_choices (s : State) (f : Hart → Hart) : (s.modMe f).choices = s.choices := rfl
@[simp] theorem State.modMe_gaps (s : State) (f : Hart → Hart) : (s.modMe f).gaps = s.gaps := rfl
@[simp] theorem State.modMe_part (s : State) (f : Hart → Hart) : (s.modMe f).part = s.part := rfl
@[simp] theorem State.modMe_stepping (s : State) (f : Hart → Hart) : (s.modMe f).stepping = s.stepping := rfl
@[simp] theorem State.modMe_cyc (s : State) (f : Hart → Hart) : (s.modMe f).cyc = s.cyc := rfl
@[simp] theorem State.modMe_oscRem (s : State) (f : Hart → Hart) : (s.modMe f).oscRem = s.oscRem := rfl
@[simp] theorem State.modMe_dtime (s : State) (f : Hart → Hart) : (s.modMe f).dtime = s.dtime := rfl
@[simp] theorem State.modMe_dfrac (s : State) (f : Hart → Hart) : (s.modMe f).dfrac = s.dfrac := rfl
@[simp] theorem State.modMe_lastTick (s : State) (f : Hart → Hart) : (s.modMe f).lastTick = s.lastTick := rfl
@[simp] theorem State.modMe_tfadj (s : State) (f : Hart → Hart) : (s.modMe f).tfadj = s.tfadj := rfl
@[simp] theorem State.modMe_trem (s : State) (f : Hart → Hart) : (s.modMe f).trem = s.trem := rfl
@[simp] theorem State.modMe_tfoff (s : State) (f : Hart → Hart) : (s.modMe f).tfoff = s.tfoff := rfl
@[simp] theorem State.modMe_sen (s : State) (f : Hart → Hart) : (s.modMe f).sen = s.sen := rfl
@[simp] theorem State.modMe_sport (s : State) (f : Hart → Hart) : (s.modMe f).sport = s.sport := rfl
@[simp] theorem State.modMe_terr (s : State) (f : Hart → Hart) : (s.modMe f).terr = s.terr := rfl
@[simp] theorem State.modMe_tstate (s : State) (f : Hart → Hart) : (s.modMe f).tstate = s.tstate := rfl
@[simp] theorem State.modMe_lastServo (s : State) (f : Hart → Hart) : (s.modMe f).lastServo = s.lastServo := rfl
@[simp] theorem State.modMe_synceLock (s : State) (f : Hart → Hart) : (s.modMe f).synceLock = s.synceLock := rfl
@[simp] theorem State.modMe_hgen (s : State) (f : Hart → Hart) : (s.modMe f).hgen = s.hgen := rfl
@[simp] theorem State.modMe_cxlv (s : State) (f : Hart → Hart) : (s.modMe f).cxlv = s.cxlv := rfl
@[simp] theorem State.modMe_hwid (s : State) (f : Hart → Hart) : (s.modMe f).hwid = s.hwid := rfl
@[simp] theorem State.modMe_hostc (s : State) (f : Hart → Hart) : (s.modMe f).hostc = s.hostc := rfl
@[simp] theorem State.modMe_tgen (s : State) (f : Hart → Hart) : (s.modMe f).tgen = s.tgen := rfl
@[simp] theorem State.modMe_twid (s : State) (f : Hart → Hart) : (s.modMe f).twid = s.twid := rfl
@[simp] theorem State.modMe_dev (s : State) (f : Hart → Hart) : (s.modMe f).dev = s.dev := rfl
@[simp] theorem State.modMe_host (s : State) (f : Hart → Hart) : (s.modMe f).host = s.host := rfl
@[simp] theorem State.modMe_twin (s : State) (f : Hart → Hart) : (s.modMe f).twin = s.twin := rfl
@[simp] theorem State.modMe_devPoison (s : State) (f : Hart → Hart) : (s.modMe f).devPoison = s.devPoison := rfl
@[simp] theorem State.modMe_hostPoison (s : State) (f : Hart → Hart) : (s.modMe f).hostPoison = s.hostPoison := rfl
@[simp] theorem State.modMe_twinPoison (s : State) (f : Hart → Hart) : (s.modMe f).twinPoison = s.twinPoison := rfl
@[simp] theorem State.modMe_hostErr (s : State) (f : Hart → Hart) : (s.modMe f).hostErr = s.hostErr := rfl
@[simp] theorem State.modMe_l2 (s : State) (f : Hart → Hart) : (s.modMe f).l2 = s.l2 := rfl
@[simp] theorem State.modMe_snoop (s : State) (f : Hart → Hart) : (s.modMe f).snoop = s.snoop := rfl
@[simp] theorem State.modMe_owned (s : State) (f : Hart → Hart) : (s.modMe f).owned = s.owned := rfl
@[simp] theorem State.modMe_tlb (s : State) (f : Hart → Hart) : (s.modMe f).tlb = s.tlb := rfl
@[simp] theorem State.modMe_walks (s : State) (f : Hart → Hart) : (s.modMe f).walks = s.walks := rfl
@[simp] theorem State.modMe_serves (s : State) (f : Hart → Hart) : (s.modMe f).serves = s.serves := rfl
@[simp] theorem State.modMe_invals (s : State) (f : Hart → Hart) : (s.modMe f).invals = s.invals := rfl
@[simp] theorem State.modMe_nextInval (s : State) (f : Hart → Hart) : (s.modMe f).nextInval = s.nextInval := rfl
@[simp] theorem State.modMe_nextGang (s : State) (f : Hart → Hart) : (s.modMe f).nextGang = s.nextGang := rfl
@[simp] theorem State.modMe_toClear (s : State) (f : Hart → Hart) : (s.modMe f).toClear = s.toClear := rfl
@[simp] theorem State.modMe_holds (s : State) (f : Hart → Hart) : (s.modMe f).holds = s.holds := rfl
@[simp] theorem State.modMe_jobs (s : State) (f : Hart → Hart) : (s.modMe f).jobs = s.jobs := rfl
@[simp] theorem State.modMe_families (s : State) (f : Hart → Hart) : (s.modMe f).families = s.families := rfl
@[simp] theorem State.modMe_entries (s : State) (f : Hart → Hart) : (s.modMe f).entries = s.entries := rfl
@[simp] theorem State.modMe_nextEntry (s : State) (f : Hart → Hart) : (s.modMe f).nextEntry = s.nextEntry := rfl
@[simp] theorem State.modMe_posted (s : State) (f : Hart → Hart) : (s.modMe f).posted = s.posted := rfl
@[simp] theorem State.modMe_copies (s : State) (f : Hart → Hart) : (s.modMe f).copies = s.copies := rfl
@[simp] theorem State.modMe_codings (s : State) (f : Hart → Hart) : (s.modMe f).codings = s.codings := rfl
@[simp] theorem State.modMe_txs (s : State) (f : Hart → Hart) : (s.modMe f).txs = s.txs := rfl
@[simp] theorem State.modMe_nextWork (s : State) (f : Hart → Hart) : (s.modMe f).nextWork = s.nextWork := rfl
@[simp] theorem State.modMe_sweeps (s : State) (f : Hart → Hart) : (s.modMe f).sweeps = s.sweeps := rfl
@[simp] theorem State.modMe_subReuse (s : State) (f : Hart → Hart) : (s.modMe f).subReuse = s.subReuse := rfl
@[simp] theorem State.modMe_parts (s : State) (f : Hart → Hart) : (s.modMe f).parts = s.parts := rfl
@[simp] theorem State.modMe_ports (s : State) (f : Hart → Hart) : (s.modMe f).ports = s.ports := rfl
@[simp] theorem State.modMe_out (s : State) (f : Hart → Hart) : (s.modMe f).out = s.out := rfl
@[simp] theorem State.modMe_bootStage (s : State) (f : Hart → Hart) : (s.modMe f).bootStage = s.bootStage := rfl
@[simp] theorem State.modMe_tripped (s : State) (f : Hart → Hart) : (s.modMe f).tripped = s.tripped := rfl
@[simp] theorem State.modMe_recovery (s : State) (f : Hart → Hart) : (s.modMe f).recovery = s.recovery := rfl
@[simp] theorem State.modMe_plimx (s : State) (f : Hart → Hart) : (s.modMe f).plimx = s.plimx := rfl
@[simp] theorem State.modMe_plim (s : State) (f : Hart → Hart) : (s.modMe f).plim = s.plim := rfl
@[simp] theorem State.modMe_watts (s : State) (f : Hart → Hart) : (s.modMe f).watts = s.watts := rfl
@[simp] theorem State.modMe_temp (s : State) (f : Hart → Hart) : (s.modMe f).temp = s.temp := rfl
@[simp] theorem State.modMe_clkMHz (s : State) (f : Hart → Hart) : (s.modMe f).clkMHz = s.clkMHz := rfl
@[simp] theorem State.modMe_retireQ0 (s : State) (f : Hart → Hart) : (s.modMe f).retireQ0 = s.retireQ0 := rfl
@[simp] theorem State.modMe_retirePend (s : State) (f : Hart → Hart) : (s.modMe f).retirePend = s.retirePend := rfl
@[simp] theorem State.modMe_fence (s : State) (f : Hart → Hart) : (s.modMe f).fence = s.fence := rfl
@[simp] theorem State.modMe_lockstepCnt (s : State) (f : Hart → Hart) : (s.modMe f).lockstepCnt = s.lockstepCnt := rfl
@[simp] theorem State.modMe_failedCh (s : State) (f : Hart → Hart) : (s.modMe f).failedCh = s.failedCh := rfl
@[simp] theorem State.modMe_chErrs (s : State) (f : Hart → Hart) : (s.modMe f).chErrs = s.chErrs := rfl
@[simp] theorem State.modMe_errLog (s : State) (f : Hart → Hart) : (s.modMe f).errLog = s.errLog := rfl
@[simp] theorem State.modMe_errHead (s : State) (f : Hart → Hart) : (s.modMe f).errHead = s.errHead := rfl
@[simp] theorem State.modMe_lastOwner (s : State) (f : Hart → Hart) : (s.modMe f).lastOwner = s.lastOwner := rfl
@[simp] theorem State.modMe_ksRevoked (s : State) (f : Hart → Hart) : (s.modMe f).ksRevoked = s.ksRevoked := rfl
@[simp] theorem State.modMe_minSvn (s : State) (f : Hart → Hart) : (s.modMe f).minSvn = s.minSvn := rfl
@[simp] theorem State.modMe_bootImage (s : State) (f : Hart → Hart) : (s.modMe f).bootImage = s.bootImage := rfl
@[simp] theorem State.modMe_hearthImage (s : State) (f : Hart → Hart) : (s.modMe f).hearthImage = s.hearthImage := rfl
@[simp] theorem State.modMe_flashImage (s : State) (f : Hart → Hart) : (s.modMe f).flashImage = s.flashImage := rfl
@[simp] theorem State.modMe_flashTable (s : State) (f : Hart → Hart) : (s.modMe f).flashTable = s.flashTable := rfl
@[simp] theorem State.modMe_flashBlobs (s : State) (f : Hart → Hart) : (s.modMe f).flashBlobs = s.flashBlobs := rfl
@[simp] theorem State.modMe_goTable (s : State) (f : Hart → Hart) : (s.modMe f).goTable = s.goTable := rfl
@[simp] theorem State.modMe_spdmVersion (s : State) (f : Hart → Hart) : (s.modMe f).spdmVersion = s.spdmVersion := rfl

/-! ### `State.modSup` changes `gangs` only -/

@[simp] theorem State.modSup_agenda (s : State) (f : Sup → Sup) : (s.modSup f).agenda = s.agenda := rfl
@[simp] theorem State.modSup_cur (s : State) (f : Sup → Sup) : (s.modSup f).cur = s.cur := rfl
@[simp] theorem State.modSup_freeCtr (s : State) (f : Sup → Sup) : (s.modSup f).freeCtr = s.freeCtr := rfl
@[simp] theorem State.modSup_choices (s : State) (f : Sup → Sup) : (s.modSup f).choices = s.choices := rfl
@[simp] theorem State.modSup_gaps (s : State) (f : Sup → Sup) : (s.modSup f).gaps = s.gaps := rfl
@[simp] theorem State.modSup_part (s : State) (f : Sup → Sup) : (s.modSup f).part = s.part := rfl
@[simp] theorem State.modSup_stepping (s : State) (f : Sup → Sup) : (s.modSup f).stepping = s.stepping := rfl
@[simp] theorem State.modSup_cyc (s : State) (f : Sup → Sup) : (s.modSup f).cyc = s.cyc := rfl
@[simp] theorem State.modSup_oscRem (s : State) (f : Sup → Sup) : (s.modSup f).oscRem = s.oscRem := rfl
@[simp] theorem State.modSup_dtime (s : State) (f : Sup → Sup) : (s.modSup f).dtime = s.dtime := rfl
@[simp] theorem State.modSup_dfrac (s : State) (f : Sup → Sup) : (s.modSup f).dfrac = s.dfrac := rfl
@[simp] theorem State.modSup_lastTick (s : State) (f : Sup → Sup) : (s.modSup f).lastTick = s.lastTick := rfl
@[simp] theorem State.modSup_tfadj (s : State) (f : Sup → Sup) : (s.modSup f).tfadj = s.tfadj := rfl
@[simp] theorem State.modSup_trem (s : State) (f : Sup → Sup) : (s.modSup f).trem = s.trem := rfl
@[simp] theorem State.modSup_tfoff (s : State) (f : Sup → Sup) : (s.modSup f).tfoff = s.tfoff := rfl
@[simp] theorem State.modSup_sen (s : State) (f : Sup → Sup) : (s.modSup f).sen = s.sen := rfl
@[simp] theorem State.modSup_sport (s : State) (f : Sup → Sup) : (s.modSup f).sport = s.sport := rfl
@[simp] theorem State.modSup_terr (s : State) (f : Sup → Sup) : (s.modSup f).terr = s.terr := rfl
@[simp] theorem State.modSup_tstate (s : State) (f : Sup → Sup) : (s.modSup f).tstate = s.tstate := rfl
@[simp] theorem State.modSup_lastServo (s : State) (f : Sup → Sup) : (s.modSup f).lastServo = s.lastServo := rfl
@[simp] theorem State.modSup_synceLock (s : State) (f : Sup → Sup) : (s.modSup f).synceLock = s.synceLock := rfl
@[simp] theorem State.modSup_hgen (s : State) (f : Sup → Sup) : (s.modSup f).hgen = s.hgen := rfl
@[simp] theorem State.modSup_cxlv (s : State) (f : Sup → Sup) : (s.modSup f).cxlv = s.cxlv := rfl
@[simp] theorem State.modSup_hwid (s : State) (f : Sup → Sup) : (s.modSup f).hwid = s.hwid := rfl
@[simp] theorem State.modSup_hostc (s : State) (f : Sup → Sup) : (s.modSup f).hostc = s.hostc := rfl
@[simp] theorem State.modSup_tgen (s : State) (f : Sup → Sup) : (s.modSup f).tgen = s.tgen := rfl
@[simp] theorem State.modSup_twid (s : State) (f : Sup → Sup) : (s.modSup f).twid = s.twid := rfl
@[simp] theorem State.modSup_dev (s : State) (f : Sup → Sup) : (s.modSup f).dev = s.dev := rfl
@[simp] theorem State.modSup_host (s : State) (f : Sup → Sup) : (s.modSup f).host = s.host := rfl
@[simp] theorem State.modSup_twin (s : State) (f : Sup → Sup) : (s.modSup f).twin = s.twin := rfl
@[simp] theorem State.modSup_devPoison (s : State) (f : Sup → Sup) : (s.modSup f).devPoison = s.devPoison := rfl
@[simp] theorem State.modSup_hostPoison (s : State) (f : Sup → Sup) : (s.modSup f).hostPoison = s.hostPoison := rfl
@[simp] theorem State.modSup_twinPoison (s : State) (f : Sup → Sup) : (s.modSup f).twinPoison = s.twinPoison := rfl
@[simp] theorem State.modSup_hostErr (s : State) (f : Sup → Sup) : (s.modSup f).hostErr = s.hostErr := rfl
@[simp] theorem State.modSup_l2 (s : State) (f : Sup → Sup) : (s.modSup f).l2 = s.l2 := rfl
@[simp] theorem State.modSup_snoop (s : State) (f : Sup → Sup) : (s.modSup f).snoop = s.snoop := rfl
@[simp] theorem State.modSup_owned (s : State) (f : Sup → Sup) : (s.modSup f).owned = s.owned := rfl
@[simp] theorem State.modSup_tlb (s : State) (f : Sup → Sup) : (s.modSup f).tlb = s.tlb := rfl
@[simp] theorem State.modSup_walks (s : State) (f : Sup → Sup) : (s.modSup f).walks = s.walks := rfl
@[simp] theorem State.modSup_serves (s : State) (f : Sup → Sup) : (s.modSup f).serves = s.serves := rfl
@[simp] theorem State.modSup_invals (s : State) (f : Sup → Sup) : (s.modSup f).invals = s.invals := rfl
@[simp] theorem State.modSup_nextInval (s : State) (f : Sup → Sup) : (s.modSup f).nextInval = s.nextInval := rfl
@[simp] theorem State.modSup_nextGang (s : State) (f : Sup → Sup) : (s.modSup f).nextGang = s.nextGang := rfl
@[simp] theorem State.modSup_toClear (s : State) (f : Sup → Sup) : (s.modSup f).toClear = s.toClear := rfl
@[simp] theorem State.modSup_holds (s : State) (f : Sup → Sup) : (s.modSup f).holds = s.holds := rfl
@[simp] theorem State.modSup_jobs (s : State) (f : Sup → Sup) : (s.modSup f).jobs = s.jobs := rfl
@[simp] theorem State.modSup_families (s : State) (f : Sup → Sup) : (s.modSup f).families = s.families := rfl
@[simp] theorem State.modSup_entries (s : State) (f : Sup → Sup) : (s.modSup f).entries = s.entries := rfl
@[simp] theorem State.modSup_nextEntry (s : State) (f : Sup → Sup) : (s.modSup f).nextEntry = s.nextEntry := rfl
@[simp] theorem State.modSup_posted (s : State) (f : Sup → Sup) : (s.modSup f).posted = s.posted := rfl
@[simp] theorem State.modSup_copies (s : State) (f : Sup → Sup) : (s.modSup f).copies = s.copies := rfl
@[simp] theorem State.modSup_codings (s : State) (f : Sup → Sup) : (s.modSup f).codings = s.codings := rfl
@[simp] theorem State.modSup_txs (s : State) (f : Sup → Sup) : (s.modSup f).txs = s.txs := rfl
@[simp] theorem State.modSup_nextWork (s : State) (f : Sup → Sup) : (s.modSup f).nextWork = s.nextWork := rfl
@[simp] theorem State.modSup_sweeps (s : State) (f : Sup → Sup) : (s.modSup f).sweeps = s.sweeps := rfl
@[simp] theorem State.modSup_subReuse (s : State) (f : Sup → Sup) : (s.modSup f).subReuse = s.subReuse := rfl
@[simp] theorem State.modSup_parts (s : State) (f : Sup → Sup) : (s.modSup f).parts = s.parts := rfl
@[simp] theorem State.modSup_ports (s : State) (f : Sup → Sup) : (s.modSup f).ports = s.ports := rfl
@[simp] theorem State.modSup_out (s : State) (f : Sup → Sup) : (s.modSup f).out = s.out := rfl
@[simp] theorem State.modSup_bootStage (s : State) (f : Sup → Sup) : (s.modSup f).bootStage = s.bootStage := rfl
@[simp] theorem State.modSup_tripped (s : State) (f : Sup → Sup) : (s.modSup f).tripped = s.tripped := rfl
@[simp] theorem State.modSup_recovery (s : State) (f : Sup → Sup) : (s.modSup f).recovery = s.recovery := rfl
@[simp] theorem State.modSup_plimx (s : State) (f : Sup → Sup) : (s.modSup f).plimx = s.plimx := rfl
@[simp] theorem State.modSup_plim (s : State) (f : Sup → Sup) : (s.modSup f).plim = s.plim := rfl
@[simp] theorem State.modSup_watts (s : State) (f : Sup → Sup) : (s.modSup f).watts = s.watts := rfl
@[simp] theorem State.modSup_temp (s : State) (f : Sup → Sup) : (s.modSup f).temp = s.temp := rfl
@[simp] theorem State.modSup_clkMHz (s : State) (f : Sup → Sup) : (s.modSup f).clkMHz = s.clkMHz := rfl
@[simp] theorem State.modSup_retireQ0 (s : State) (f : Sup → Sup) : (s.modSup f).retireQ0 = s.retireQ0 := rfl
@[simp] theorem State.modSup_retirePend (s : State) (f : Sup → Sup) : (s.modSup f).retirePend = s.retirePend := rfl
@[simp] theorem State.modSup_fence (s : State) (f : Sup → Sup) : (s.modSup f).fence = s.fence := rfl
@[simp] theorem State.modSup_lockstepCnt (s : State) (f : Sup → Sup) : (s.modSup f).lockstepCnt = s.lockstepCnt := rfl
@[simp] theorem State.modSup_failedCh (s : State) (f : Sup → Sup) : (s.modSup f).failedCh = s.failedCh := rfl
@[simp] theorem State.modSup_chErrs (s : State) (f : Sup → Sup) : (s.modSup f).chErrs = s.chErrs := rfl
@[simp] theorem State.modSup_errLog (s : State) (f : Sup → Sup) : (s.modSup f).errLog = s.errLog := rfl
@[simp] theorem State.modSup_errHead (s : State) (f : Sup → Sup) : (s.modSup f).errHead = s.errHead := rfl
@[simp] theorem State.modSup_lastOwner (s : State) (f : Sup → Sup) : (s.modSup f).lastOwner = s.lastOwner := rfl
@[simp] theorem State.modSup_ksRevoked (s : State) (f : Sup → Sup) : (s.modSup f).ksRevoked = s.ksRevoked := rfl
@[simp] theorem State.modSup_minSvn (s : State) (f : Sup → Sup) : (s.modSup f).minSvn = s.minSvn := rfl
@[simp] theorem State.modSup_bootImage (s : State) (f : Sup → Sup) : (s.modSup f).bootImage = s.bootImage := rfl
@[simp] theorem State.modSup_hearthImage (s : State) (f : Sup → Sup) : (s.modSup f).hearthImage = s.hearthImage := rfl
@[simp] theorem State.modSup_flashImage (s : State) (f : Sup → Sup) : (s.modSup f).flashImage = s.flashImage := rfl
@[simp] theorem State.modSup_flashTable (s : State) (f : Sup → Sup) : (s.modSup f).flashTable = s.flashTable := rfl
@[simp] theorem State.modSup_flashBlobs (s : State) (f : Sup → Sup) : (s.modSup f).flashBlobs = s.flashBlobs := rfl
@[simp] theorem State.modSup_goTable (s : State) (f : Sup → Sup) : (s.modSup f).goTable = s.goTable := rfl
@[simp] theorem State.modSup_spdmVersion (s : State) (f : Sup → Sup) : (s.modSup f).spdmVersion = s.spdmVersion := rfl

end Sys2Proof.Machine
end

