-- ==== Sys2Proof/Laws/Ops.lean ====
section
/-!
SUPPORT. What the shared operations of `Machine/Ops.lean` do: the hart that runs after a change of it, registers after a
write, and retirement.
-/

set_option Elab.async false

namespace Sys2Proof.Machine

/-! ### Vectors -/

@[simp] theorem vput_getElem_same {α : Type} {n : Nat} (v : Vector α n) (i : Fin n) (x : α) : (vput v i x)[i] = x := by
  simp [vput]
theorem vput_getElem {α : Type} {n : Nat} (v : Vector α n) (i j : Fin n) (x : α) :
    (vput v i x)[j] = if i = j then x else v[j] := by
  by_cases h : i = j
  · subst h; simp [vput]
  · have : i.val ≠ j.val := fun e => h (Fin.ext e)
    simp [vput, Vector.getElem_set, h, this]
@[simp] theorem vmod_getElem_same {α : Type} {n : Nat} (v : Vector α n) (i : Fin n) (f : α → α) :
    (vmod v i f)[i] = f v[i] := by simp [vmod, vput]
theorem vput_self {α : Type} {n : Nat} (v : Vector α n) (i : Fin n) : vput v i v[i] = v := by simp [vput]
theorem vput_vput {α : Type} {n : Nat} (v : Vector α n) (i : Fin n) (x y : α) : vput (vput v i x) i y = vput v i y := by
  simp [vput]
theorem vmod_vmod {α : Type} {n : Nat} (v : Vector α n) (i : Fin n) (f g : α → α) :
    vmod (vmod v i f) i g = vmod v i (g ∘ f) := by simp [vmod, vput]

/-! ### Gangs -/

theorem State.modGang_modGang (s : State) (u : Nat) (f g : Gang → Gang) (hf : ∀ x, (f x).uid = x.uid) :
    (s.modGang u f).modGang u g = s.modGang u (g ∘ f) := by
  simp only [State.modGang, List.map_map]
  congr 1
  apply List.map_congr_left
  intro x _
  by_cases h : x.uid = u <;> simp [h, hf]

theorem State.gang?_modGang (s : State) (u : Nat) (f : Gang → Gang) (hf : ∀ x, (f x).uid = x.uid) :
    (s.modGang u f).gang? u = (s.gang? u).map f := by
  simp only [State.gang?, State.modGang]
  induction s.gangs with
  | nil => rfl
  | cons g r ih =>
    by_cases h : g.uid = u
    · simp [h, hf]
    · simp [h, ih]

theorem State.gang?_modGang_other (s : State) (u v : Nat) (f : Gang → Gang) (hf : ∀ x, (f x).uid = x.uid) (hv : v ≠ u) :
    (s.modGang u f).gang? v = s.gang? v := by
  simp only [State.gang?, State.modGang]
  induction s.gangs with
  | nil => rfl
  | cons g r ih =>
    by_cases h : g.uid = u
    · have h2 : ¬ u = v := fun e => hv e.symm
      simp [h, hf, h2, ih]
    · by_cases h2 : g.uid = v
      · simp [h2, hv]
      · simp [h, h2, ih]

theorem State.gang_of_live {s : State} (h : s.live) : s.gang? s.cur.gang = some s.myGang := by
  obtain ⟨g, hg⟩ := h; simp [State.myGang, State.gang, hg]

theorem State.myGang_modGang {s : State} (h : s.live) (f : Gang → Gang) (hf : ∀ x, (f x).uid = x.uid) :
    (s.modGang s.cur.gang f).myGang = f s.myGang := by
  show ((s.modGang s.cur.gang f).gang? s.cur.gang).getD Gang.blank = f s.myGang
  rw [State.gang?_modGang _ _ _ hf, State.gang_of_live h]; rfl

/-! ### The hart that runs -/

theorem State.modMe_modMe (s : State) (f g : Hart → Hart) : (s.modMe f).modMe g = s.modMe (g ∘ f) := by
  refine (State.modGang_modGang s s.cur.gang (fun x => { x with harts := vmod x.harts s.cur.rank f }) _
    (fun _ => rfl)).trans ?_
  unfold State.modMe State.modHart
  congr 1
  funext x
  show ({ x with harts := vmod (vmod x.harts s.cur.rank f) s.cur.rank g } : Gang) = _
  rw [vmod_vmod]

/-- A change that changes nothing. -/
theorem State.modMe_id (s : State) : (s.modMe fun x => x) = s := by
  have e : (fun g : Gang => if g.uid = s.cur.gang then
      ({ g with harts := vmod g.harts s.cur.rank fun x => x } : Gang) else g) = id := by
    funext g
    have : vmod g.harts s.cur.rank (fun x => x) = g.harts := vput_self g.harts s.cur.rank
    rw [this]; split <;> rfl
  show ({ s with gangs := s.gangs.map _ } : State) = s
  rw [e, List.map_id]

theorem State.myGang_modMe {s : State} (h : s.live) (f : Hart → Hart) :
    (s.modMe f).myGang = { s.myGang with harts := vmod s.myGang.harts s.cur.rank f } :=
  State.myGang_modGang h (fun x => { x with harts := vmod x.harts s.cur.rank f }) (fun _ => rfl)

theorem State.live_modMe {s : State} (h : s.live) (f : Hart → Hart) : (s.modMe f).live := by
  refine ⟨{ s.myGang with harts := vmod s.myGang.harts s.cur.rank f }, ?_⟩
  refine (State.gang?_modGang s s.cur.gang (fun x => { x with harts := vmod x.harts s.cur.rank f })
    (fun _ => rfl)).trans ?_
  rw [State.gang_of_live h]; rfl

theorem State.me_eq (s : State) : s.me = s.myGang.harts[s.cur.rank] := rfl

theorem State.me_modMe {s : State} (h : s.live) (f : Hart → Hart) : (s.modMe f).me = f s.me := by
  rw [State.me_eq, State.myGang_modMe h]
  exact vmod_getElem_same s.myGang.harts s.cur.rank f

theorem State.modSup_eq (s : State) (f : Sup → Sup) : s.modSup f = s.modMe fun h => { h with sup := f h.sup } := rfl
theorem State.me_modSup {s : State} (h : s.live) (f : Sup → Sup) : (s.modSup f).me = { s.me with sup := f s.me.sup } :=
  State.me_modMe h _
theorem State.live_modSup {s : State} (h : s.live) (f : Sup → Sup) : (s.modSup f).live := State.live_modMe h _
theorem State.atS_modSup {s : State} (h : s.live) (f : Sup → Sup) : (s.modSup f).atS = s.atS := by
  simp [State.atS, State.me_modSup h]
theorem State.atS_modMe {s : State} (h : s.live) (f : Hart → Hart) (hf : ∀ x, (f x).st = x.st) :
    (s.modMe f).atS = s.atS := by
  simp [State.atS, State.me_modMe h, hf]

theorem State.byteAt_modMe (s : State) (f : Hart → Hart) (l : Loc) : (s.modMe f).byteAt l = s.byteAt l := by
  cases l with | mk k a => cases k <;> rfl

/-! ### Scalar registers, flags and retirement -/

theorem State.live_wg {s : State} (h : s.live) (d : GOp) (v : Word) : (s.wg d v).live := by
  unfold State.wg; split
  · exact h
  · split
    · exact State.live_modSup h _
    · exact State.live_modMe h _
theorem State.atS_wg {s : State} (h : s.live) (d : GOp) (v : Word) : (s.wg d v).atS = s.atS := by
  unfold State.wg; split
  · rfl
  · split
    · exact State.atS_modSup h _
    · exact State.atS_modMe h _ (fun _ => rfl)
theorem State.live_flag {s : State} (h : s.live) (f : Flags) : (s.flag f).live := by
  unfold State.flag; split
  · exact h
  · exact State.live_modMe h _
theorem State.atS_flag {s : State} (h : s.live) (f : Flags) : (s.flag f).atS = s.atS := by
  unfold State.flag; split
  · rfl
  · exact State.atS_modMe h _ (fun _ => rfl)

/-- At U a register write changes the hart that runs only. -/
theorem State.wg_user {s : State} (h : s.atS = false) (d : GOp) (v : Word) :
    s.wg d v = s.modMe fun x => match d with
      | none => x
      | some r => { x with g := vput x.g r v, fillG := x.fillG.filter fun q => q.1 ≠ r } := by
  cases d with
  | none => exact (State.modMe_id s).symm
  | some r => simp [State.wg, h]
/-- At S a register write changes the supervisor thread only. -/
theorem State.wg_sup {s : State} (h : s.atS = true) (d : GOp) (v : Word) :
    s.wg d v = s.modSup fun x => match d with
      | none => x
      | some r => { x with g := vput x.g r v } := by
  cases d with
  | none => exact (State.modMe_id s).symm
  | some r => simp [State.wg, h]
theorem State.flag_user {s : State} (h : s.atS = false) (f : Flags) :
    s.flag f = s.modMe fun x => { x with fcsr := x.fcsr ||| f } := by simp [State.flag, h]
theorem State.flag_sup {s : State} (h : s.atS = true) (f : Flags) : s.flag f = s := by simp [State.flag, h]
theorem State.goto_user {s : State} (h : s.atS = false) (t : Word) : s.goto t = s.modMe fun x => x.retire t := by
  simp [State.goto, h]
theorem State.goto_sup {s : State} (h : s.atS = true) (t : Word) :
    s.goto t = s.modSup fun x => { x with pc := t, wait := none } := by simp [State.goto, h]
theorem State.pcv_user {s : State} (h : s.atS = false) : s.pcv = s.me.pc := by simp [State.pcv, h]
theorem State.pcv_sup {s : State} (h : s.atS = true) : s.pcv = s.me.sup.pc := by simp [State.pcv, h]
theorem State.pcv_wg {s : State} (h : s.live) (d : GOp) (v : Word) : (s.wg d v).pcv = s.pcv := by
  have ha := State.atS_wg h d v
  cases hs : s.atS
  · rw [State.pcv_user (ha.trans hs), State.pcv_user hs, State.wg_user hs, State.me_modMe h]; cases d <;> rfl
  · rw [State.pcv_sup (ha.trans hs), State.pcv_sup hs, State.wg_sup hs, State.me_modSup h]; cases d <;> rfl
theorem State.pcv_flag {s : State} (h : s.live) (f : Flags) : (s.flag f).pcv = s.pcv := by
  have ha := State.atS_flag h f
  cases hs : s.atS
  · rw [State.pcv_user (ha.trans hs), State.pcv_user hs, State.flag_user hs, State.me_modMe h]
  · rw [State.flag_sup hs]

/-- A user hart that retires with control at `t` reads `t` as its PC, and its `ei` is 0. -/
theorem State.pcv_goto {s : State} (h : s.live) (t : Word) : (s.goto t).pcv = t := by
  cases hs : s.atS
  · have ha : (s.goto t).atS = false := by rw [State.goto_user hs, State.atS_modMe h (fun x => x.retire t) (fun _ => rfl), hs]
    rw [State.pcv_user ha, State.goto_user hs, State.me_modMe h]; rfl
  · have ha : (s.goto t).atS = true := by rw [State.goto_sup hs, State.atS_modSup h, hs]
    rw [State.pcv_sup ha, State.goto_sup hs, State.me_modSup h]

/-- A write of a scalar register, flags, and control to `t`, at U: one change of the hart that runs. -/
theorem State.wg_flag_goto_user {s : State} (h : s.live) (hs : s.atS = false) (d : GOp) (v : Word) (f : Flags) (t : Word) :
    ((s.wg d v).flag f).goto t = s.modMe fun x =>
      { (match d with
          | none => x
          | some r => { x with g := vput x.g r v, fillG := x.fillG.filter fun q => q.1 ≠ r }).retire t with
        fcsr := x.fcsr ||| f } := by
  have h1 : (s.wg d v).atS = false := (State.atS_wg h d v).trans hs
  have h2 : ((s.wg d v).flag f).atS = false := (State.atS_flag (State.live_wg h d v) f).trans h1
  rw [State.goto_user h2, State.flag_user h1, State.wg_user hs, State.modMe_modMe, State.modMe_modMe]
  congr 1
  funext x
  cases d <;> rfl
/-- The same at S, where flags are discarded. -/
theorem State.wg_flag_goto_sup {s : State} (h : s.live) (hs : s.atS = true) (d : GOp) (v : Word) (f : Flags) (t : Word) :
    ((s.wg d v).flag f).goto t = s.modSup fun x =>
      { (match d with
          | none => x
          | some r => { x with g := vput x.g r v }) with pc := t, wait := none } := by
  have h1 : (s.wg d v).atS = true := (State.atS_wg h d v).trans hs
  rw [State.flag_sup h1, State.goto_sup h1, State.wg_sup hs]
  simp only [State.modSup_eq, State.modMe_modMe]
  congr 1
/-- Without flags. -/
theorem State.wg_goto_flag_zero {s : State} (h : s.live) (d : GOp) (v t : Word) :
    (s.wg d v).goto t = ((s.wg d v).flag 0).goto t := by
  cases hs : s.atS
  · have h1 : (s.wg d v).atS = false := (State.atS_wg h d v).trans hs
    rw [State.wg_flag_goto_user h hs, State.goto_user h1, State.wg_user hs, State.modMe_modMe]
    congr 1
    funext x
    cases d <;> simp [Hart.retire]
  · rw [State.flag_sup ((State.atS_wg h d v).trans hs)]

end Sys2Proof.Machine
end

