-- ==== Sys2Proof/Laws/Frame.lean ====
section
/-!
SUPPORT. What a change of the hart that runs leaves unchanged, and the step of an instruction that writes a scalar
register and flags.
-/

set_option Elab.async false

namespace Sys2Proof.Machine

theorem State.gang?_modMe_other (s : State) (f : Hart → Hart) {u : Nat} (hu : u ≠ s.cur.gang) :
    (s.modMe f).gang? u = s.gang? u :=
  State.gang?_modGang_other s s.cur.gang u (fun g => { g with harts := vmod g.harts s.cur.rank f }) (fun _ => rfl) hu

theorem vmod_getElem_other {α : Type} {n : Nat} (v : Vector α n) (i j : Fin n) (f : α → α) (h : j ≠ i) :
    (vmod v i f)[j] = v[j] := by
  unfold vmod
  rw [vput_getElem, if_neg (fun e => h e.symm)]

/-- A change of the hart that runs leaves everything but that hart. -/
theorem Frame.of_modMe {s : State} (h : s.live) {f eh : Hart → Hart}
    (he : eh ((f s.me).sans s.atS) = eh (s.me.sans s.atS)) :
    Frame eh hideNone hideNone hideNone s (s.modMe f) where
  me := by rw [State.me_modMe h]; exact he
  mates r hr := by
    rw [State.myGang_modMe h]
    exact congrArg hideNone (vmod_getElem_other _ _ _ _ hr)
  gang := by rw [State.myGang_modMe h]
  others u hu := State.gang?_modMe_other s f hu
  device := rfl

theorem Frame.trans {eh eo : Hart → Hart} {eg : Gang → Gang} {es : State → State} {s t u : State}
    (h1 : Frame eh eo eg es s t) (h2 : Frame eh eo eg es t u) (hc : t.cur = s.cur) (ha : t.atS = s.atS) :
    Frame eh eo eg es s u where
  me := by have := h2.me; rw [ha] at this; exact this.trans h1.me
  mates r hr := (h2.mates r (by rw [hc]; exact hr)).trans (h1.mates r hr)
  gang := h2.gang.trans h1.gang
  others v hv := (h2.others v (by rw [hc]; exact hv)).trans (h1.others v hv)
  device := h2.device.trans h1.device
/-- Hiding more keeps a frame. -/
theorem Frame.weaken {eh eo eh' eo' : Hart → Hart} {eg eg' : Gang → Gang} {es es' : State → State} {s t : State}
    (h : Frame eh eo eg es s t) (h1 : ∀ x y, eh x = eh y → eh' x = eh' y) (h2 : ∀ x y, eo x = eo y → eo' x = eo' y)
    (h3 : ∀ x y, eg x = eg y → eg' x = eg' y) (h4 : ∀ x y, es x = es y → es' x = es' y) : Frame eh' eo' eg' es' s t where
  me := h1 _ _ h.me
  mates r hr := h2 _ _ (h.mates r hr)
  gang := h3 _ _ h.gang
  others := h.others
  device := h4 _ _ h.device
theorem Frame.refl (eh eo : Hart → Hart) (eg : Gang → Gang) (es : State → State) (s : State) : Frame eh eo eg es s s :=
  ⟨rfl, fun _ _ => rfl, rfl, fun _ _ => rfl, rfl⟩

theorem RegStep.of_goto {s : State} (h : s.live) (d : GOp) (v : Word) (f : Flags) (t : Word) :
    RegStep s (((s.wg d v).flag f).goto t) d v f t := by
  cases hs : s.atS
  · have e := State.wg_flag_goto_user h hs d v f t
    have hx : (((s.wg d v).flag f).goto t).atS = false := by
      rw [e, State.atS_modMe h _ (by intro x; cases d <;> rfl), hs]
    refine ⟨?_, ?_, ?_, ?_, ?_, ?_, ?_⟩
    · intro r
      rw [State.rg, State.rg]
      simp only [hx, hs]
      rw [e, State.me_modMe h]
      cases d with
      | none => rfl
      | some q =>
        show (vput s.me.g q v)[r] = _
        rw [vput_getElem]
        by_cases hq : q = r <;> simp [oneReg, hq]
    · exact State.pcv_goto (State.live_flag (State.live_wg h d v) f) t
    · intro _; rw [e, State.me_modMe h]; cases d <;> rfl
    · rw [e, State.me_modMe h]; simp [hs]
    · rw [hx, hs]
    · rw [e]
      refine Frame.of_modMe h ?_
      cases d <;> simp [hs, Hart.sans, Hart.sansG, Hart.retire]
    · intro l; rw [e]; exact State.byteAt_modMe s _ l
  · have e := State.wg_flag_goto_sup h hs d v f t
    have hx : (((s.wg d v).flag f).goto t).atS = true := by
      rw [e, State.atS_modSup h, hs]
    refine ⟨?_, ?_, ?_, ?_, ?_, ?_, ?_⟩
    · intro r
      rw [State.rg, State.rg]
      simp only [hx, hs]
      rw [e, State.me_modSup h]
      cases d with
      | none => rfl
      | some q =>
        show (vput s.me.sup.g q v)[r] = _
        rw [vput_getElem]
        by_cases hq : q = r <;> simp [oneReg, hq]
    · exact State.pcv_goto (State.live_flag (State.live_wg h d v) f) t
    · intro hc; simp [hs] at hc
    · rw [e, State.me_modSup h]; simp [hs]
    · rw [hx, hs]
    · rw [e]
      refine Frame.of_modMe h ?_
      cases d <;> simp [hs, Hart.sans, Hart.sansG]
    · intro l; rw [e]; exact State.byteAt_modMe s _ l

/-- An instruction that writes a scalar register and retires. -/
theorem RegStep.of_retire {s : State} (h : s.live) (d : GOp) (v : Word) :
    ∃ t, (s.wg d v).retire = .next t ∧ RegStep s t d v 0 (s.pcv + 8) := by
  refine ⟨_, rfl, ?_⟩
  rw [State.retired, State.pcv_wg h, State.wg_goto_flag_zero h]
  exact RegStep.of_goto h d v 0 _
/-- An instruction that writes a scalar register and flags and retires. -/
theorem RegStep.of_retire_flag {s : State} (h : s.live) (d : GOp) (v : Word) (f : Flags) :
    ∃ t, ((s.wg d v).flag f).retire = .next t ∧ RegStep s t d v f (s.pcv + 8) := by
  refine ⟨_, rfl, ?_⟩
  rw [State.retired, State.pcv_flag (State.live_wg h d v), State.pcv_wg h]
  exact RegStep.of_goto h d v f _
/-- An instruction that writes a scalar register and transfers control. -/
theorem RegStep.of_jump {s : State} (h : s.live) (d : GOp) (v t : Word) : RegStep s ((s.wg d v).goto t) d v 0 t := by
  rw [State.wg_goto_flag_zero h]
  exact RegStep.of_goto h d v 0 t

end Sys2Proof.Machine
end

