-- ==== Sys2Proof/Laws/Mem.lean ====
section
/-!
SUPPORT. Memory: a read after a write, what a write leaves alone, and that every memory operation keeps the canonical form.
-/

set_option Elab.async false

namespace Sys2Proof.Machine

/-! ### One byte -/

theorem Mem.get_set_same (m : Mem) (a : Nat) (b : Byte) (h : Mem.wf m = true) : Mem.get (Mem.set m a b) a = b := by
  induction m with
  | nil => by_cases hb : b = 0#8 <;> simp [Mem.set, Mem.get, hb]
  | cons x r ih =>
    obtain ⟨k, c⟩ := x
    have hr : Mem.wf r = true := by
      cases r with
      | nil => rfl
      | cons y t => simp only [Mem.wf, Bool.and_eq_true] at h; exact h.2
    unfold Mem.set
    by_cases h1 : a < k
    · by_cases hb : b = 0#8
      · have h2 : ¬ k = a := by omega
        simp [h1, hb, Mem.get, h2]
      · simp [h1, hb, Mem.get]
    · by_cases h2 : a = k
      · subst h2
        by_cases hb : b = 0#8
        · simp only [lt_irrefl, if_false, if_true, hb, BitVec.ofNat_eq_ofNat]
          cases r with
          | nil => simp [Mem.get]
          | cons y t =>
            obtain ⟨k', c'⟩ := y
            simp only [Mem.wf, Bool.and_eq_true, decide_eq_true_eq] at h
            have h3 : ¬ k' = a := by omega
            simp [Mem.get, h3, h.1.2]
        · simp [hb, Mem.get]
      · have h3 : ¬ k = a := fun h => h2 h.symm
        simp [h1, h2, Mem.get, h3, ih hr]

theorem Mem.get_set_other (m : Mem) (a c : Nat) (b : Byte) (h : Mem.wf m = true) (hne : c ≠ a) :
    Mem.get (Mem.set m a b) c = Mem.get m c := by
  induction m with
  | nil =>
    by_cases hb : b = 0#8
    · simp [Mem.set, Mem.get, hb]
    · have : ¬ a = c := fun e => hne e.symm
      simp [Mem.set, Mem.get, hb, this]
  | cons x r ih =>
    obtain ⟨k, d⟩ := x
    have hr : Mem.wf r = true := by
      cases r with
      | nil => rfl
      | cons y t => simp only [Mem.wf, Bool.and_eq_true] at h; exact h.2
    unfold Mem.set
    have hac : ¬ a = c := fun e => hne e.symm
    by_cases h1 : a < k
    · by_cases hb : b = 0#8
      · simp [h1, hb]
      · simp only [h1, if_true, hb, if_false, BitVec.ofNat_eq_ofNat]
        by_cases h4 : c < a
        · have h5 : ¬ k = c := by omega
          have h6 : c < k := by omega
          simp [Mem.get, hac, h4, h5, h6]
        · simp [Mem.get, hac, h4]
    · by_cases h2 : a = k
      · subst h2
        by_cases hb : b = 0#8
        · simp only [lt_irrefl, if_false, if_true, hb, BitVec.ofNat_eq_ofNat]
          by_cases h4 : c < a
          · cases r with
            | nil => simp [Mem.get, hac]
            | cons y t =>
              obtain ⟨k', c'⟩ := y
              simp only [Mem.wf, Bool.and_eq_true, decide_eq_true_eq] at h
              have h5 : ¬ k' = c := by omega
              have h6 : c < k' := by omega
              simp [Mem.get, hac, h4, h5, h6]
          · simp [Mem.get, hac, h4]
        · simp [hb, Mem.get, hac]
      · simp [h1, h2, Mem.get, ih hr]

/-- The first address of a list, or a bound below it. -/
def Mem.above (n : Nat) : Mem → Prop
  | [] => True
  | (k, _) :: _ => n < k

theorem Mem.wf_cons (k : Nat) (b : Byte) (r : Mem) :
    Mem.wf ((k, b) :: r) = true ↔ b ≠ 0 ∧ Mem.above k r ∧ Mem.wf r = true := by
  cases r with
  | nil => simp [Mem.wf, Mem.above]
  | cons y t =>
    obtain ⟨k', b'⟩ := y
    simp [Mem.wf, Mem.above, and_assoc]

theorem Mem.above_set (n : Nat) (m : Mem) (a : Nat) (b : Byte) (h : Mem.above n m) (hn : n < a)
    (hw : Mem.wf m = true) : Mem.above n (Mem.set m a b) := by
  cases m with
  | nil => by_cases hb : b = 0#8 <;> simp [Mem.set, Mem.above, hb, hn]
  | cons x r =>
    obtain ⟨k, c⟩ := x
    simp only [Mem.above] at h
    unfold Mem.set
    by_cases h1 : a < k
    · by_cases hb : b = 0#8 <;> simp [h1, hb, Mem.above, h, hn]
    · by_cases h2 : a = k
      · by_cases hb : b = 0#8
        · simp only [h1, if_false, h2, if_true, hb, BitVec.ofNat_eq_ofNat]
          cases r with
          | nil => simp [Mem.above]
          | cons y t =>
            obtain ⟨k', c'⟩ := y
            have := ((Mem.wf_cons _ _ _).1 hw).2.1
            simp only [Mem.above] at this
            simp [Mem.above]; omega
        · simp [h1, h2, hb, Mem.above, h]
      · simp [h1, h2, Mem.above, h]

/-- A write of one byte keeps the canonical form. -/
theorem Mem.wf_set (m : Mem) (a : Nat) (b : Byte) (h : Mem.wf m = true) : Mem.wf (Mem.set m a b) = true := by
  induction m with
  | nil => by_cases hb : b = 0#8 <;> simp [Mem.set, Mem.wf, hb]
  | cons x r ih =>
    obtain ⟨k, c⟩ := x
    obtain ⟨hc, ha, hr⟩ := (Mem.wf_cons _ _ _).1 h
    unfold Mem.set
    by_cases h1 : a < k
    · by_cases hb : b = 0#8
      · simp only [h1, if_true, hb, BitVec.ofNat_eq_ofNat]; exact h
      · simp only [h1, if_true, hb, if_false, BitVec.ofNat_eq_ofNat]
        exact (Mem.wf_cons _ _ _).2 ⟨hb, by simp [Mem.above, h1], h⟩
    · by_cases h2 : a = k
      · subst h2
        by_cases hb : b = 0#8
        · simp only [lt_irrefl, if_false, if_true, hb, BitVec.ofNat_eq_ofNat]; exact hr
        · simp only [lt_irrefl, if_false, if_true, hb, BitVec.ofNat_eq_ofNat]
          exact (Mem.wf_cons _ _ _).2 ⟨hb, ha, hr⟩
      · simp only [h1, if_false, h2]
        exact (Mem.wf_cons _ _ _).2 ⟨hc, Mem.above_set _ _ _ _ ha (by omega) hr, ih hr⟩

/-! ### Runs of bytes -/

/-- A write of bytes keeps the canonical form. -/
theorem Mem.wf_write (m : Mem) (a : Nat) (bs : List Byte) (h : Mem.wf m = true) : Mem.wf (Mem.write m a bs) = true := by
  induction bs generalizing m a with
  | nil => exact h
  | cons b r ih => exact ih _ _ (Mem.wf_set _ _ _ h)

/-- A byte outside the written run reads as before. -/
theorem Mem.get_write_other (m : Mem) (a c : Nat) (bs : List Byte) (h : Mem.wf m = true)
    (hc : c < a ∨ a + bs.length ≤ c) : Mem.get (Mem.write m a bs) c = Mem.get m c := by
  induction bs generalizing m a with
  | nil => rfl
  | cons b r ih =>
    simp only [List.length_cons] at hc
    have := ih (Mem.set m a b) (a + 1) (Mem.wf_set _ _ _ h) (by omega)
    rw [Mem.write, this, Mem.get_set_other _ _ _ _ h (by omega)]

/-- A byte of the written run reads as it was written. -/
theorem Mem.get_write_in (m : Mem) (a i : Nat) (bs : List Byte) (h : Mem.wf m = true) (hi : i < bs.length) :
    Mem.get (Mem.write m a bs) (a + i) = bs[i] := by
  induction bs generalizing m a i with
  | nil => simp at hi
  | cons b r ih =>
    have hw := Mem.wf_set m a b h
    cases i with
    | zero =>
      have := Mem.get_write_other (Mem.set m a b) (a + 1) a r hw (by omega)
      simp [Mem.write, this, Mem.get_set_same _ _ _ h]
    | succ k =>
      have := ih (Mem.set m a b) (a + 1) k hw (by simpa using hi)
      have e : a + (k + 1) = a + 1 + k := by omega
      simp [Mem.write, e, this]

theorem Mem.length_bytes (m : Mem) (a n : Nat) : (Mem.bytes m a n).length = n := by
  induction n generalizing a with
  | zero => rfl
  | succ n ih => simp [Mem.bytes, ih]

theorem Mem.getElem_bytes (m : Mem) (a n i : Nat) (h : i < n) :
    (Mem.bytes m a n)[i]'(by rw [Mem.length_bytes]; exact h) = Mem.get m (a + i) := by
  induction n generalizing a i with
  | zero => omega
  | succ n ih =>
    cases i with
    | zero => simp [Mem.bytes]
    | succ k =>
      have := ih (a + 1) k (by omega)
      have e : a + (k + 1) = a + 1 + k := by omega
      simp [Mem.bytes, e, this]

/-- A read of exactly the bytes written gives them. -/
theorem Mem.bytes_write_same (m : Mem) (a : Nat) (bs : List Byte) (h : Mem.wf m = true) :
    Mem.bytes (Mem.write m a bs) a bs.length = bs := by
  apply List.ext_getElem
  · simp [Mem.length_bytes]
  · intro i h1 h2
    rw [Mem.getElem_bytes _ _ _ _ h2, Mem.get_write_in _ _ _ _ h h2]

/-! ### Homes -/

theorem State.memWf_reset : State.reset.memWf := ⟨rfl, rfl, rfl⟩

theorem State.memWf_failJob {s : State} (h : s.memWf) (p : Fin 3) (job c : Nat) : (s.failJob p job c).memWf := h
theorem State.memWf_afterRead {s : State} (h : s.memWf) (l : Loc) (n : Nat) : (s.afterRead l n).memWf := by
  unfold State.afterRead; split <;> exact h
/-- A write at a home keeps the canonical form. -/
theorem State.memWf_writeHome {s : State} (h : s.memWf) (p : Fin 3) (job : Nat) (l : Loc) (bs : List Byte) :
    (s.writeHome p job l bs).memWf := by
  obtain ⟨h1, h2, h3⟩ := h
  unfold State.writeHome
  split
  · split <;> exact ⟨h1, h2, h3⟩
  · split
    · exact ⟨Mem.wf_write _ _ _ h1, h2, h3⟩
    · exact ⟨h1, Mem.wf_write _ _ _ h2, h3⟩
    · exact ⟨h1, Mem.wf_write _ _ _ h2, h3⟩
    · exact ⟨h1, h2, Mem.wf_write _ _ _ h3⟩
    · exact ⟨h1, h2, h3⟩

/-- Every byte that a write at a home does not cover reads as before. -/
theorem State.byteAt_writeHome_other {s : State} (h : s.memWf) (p : Fin 3) (job : Nat) (l m : Loc) (bs : List Byte)
    (hm : m.pa < l.pa ∨ l.pa + bs.length ≤ m.pa) : (s.writeHome p job l bs).byteAt m = s.byteAt m := by
  obtain ⟨h1, h2, h3⟩ := h
  obtain ⟨lk, lp⟩ := l
  obtain ⟨mk, mp⟩ := m
  unfold State.writeHome
  split
  · split <;> rfl
  · split
    all_goals (dsimp only at *)
    · cases mk <;> simp [State.byteAt, State.memOf, State.takeBack, Mem.get_write_other _ _ _ _ h1 hm]
    · cases mk <;> simp [State.byteAt, State.memOf, Mem.get_write_other _ _ _ _ h2 hm]
    · cases mk <;> simp [State.byteAt, State.memOf, Mem.get_write_other _ _ _ _ h2 hm]
    · cases mk <;> simp [State.byteAt, State.memOf, Mem.get_write_other _ _ _ _ h3 hm]
    · cases mk <;> simp [State.byteAt, State.memOf]

end Sys2Proof.Machine
end

