-- ==== Sys2Proof/Laws/PerInstr.lean ====
section
/-!
SUPPORT. The family `RoundTrip`: the word of every well-formed instruction fits 64 bits and is read back as that
instruction (R153 to R165), one lemma for each constructor.
-/

set_option Elab.async false

namespace Sys2Proof.Laws.RoundTrip

/-- A well-formed instruction, other than a step of the device, has a word of 64 bits that reads back as it. -/
def Statement (i : Instr) : Prop :=
  i.wf = true → Machine.Instr.isStep i = false → encodeNat i < 2 ^ 64 ∧ decodeRaw (encodeNat i) = some i

theorem raw_1 (w : Nat) (h : w / 2 ^ 57 = 1) : decodeRaw w = decodeOp01 (RF.ofWord w) := by
  unfold decodeRaw; rw [h]; rfl
theorem raw_2 (w : Nat) (h : w / 2 ^ 57 = 2) : decodeRaw w = decodeOp02 (IF.ofWord w) := by
  unfold decodeRaw; rw [h]; rfl
theorem raw_3 (w : Nat) (h : w / 2 ^ 57 = 3) : decodeRaw w = decodeOp03 (IF.ofWord w) := by
  unfold decodeRaw; rw [h]; rfl
theorem raw_4 (w : Nat) (h : w / 2 ^ 57 = 4) : decodeRaw w = decodeOp04 (IF.ofWord w) := by
  unfold decodeRaw; rw [h]; rfl
theorem raw_5 (w : Nat) (h : w / 2 ^ 57 = 5) : decodeRaw w = decodeOp05 (RF.ofWord w) := by
  unfold decodeRaw; rw [h]; rfl
theorem raw_6 (w : Nat) (h : w / 2 ^ 57 = 6) : decodeRaw w = decodeOp06 (IF.ofWord w) := by
  unfold decodeRaw; rw [h]; rfl
theorem raw_7 (w : Nat) (h : w / 2 ^ 57 = 7) : decodeRaw w = decodeOp07 (IF.ofWord w) := by
  unfold decodeRaw; rw [h]; rfl
theorem raw_8 (w : Nat) (h : w / 2 ^ 57 = 8) : decodeRaw w = decodeOp08 (RF.ofWord w) := by
  unfold decodeRaw; rw [h]; rfl
theorem raw_9 (w : Nat) (h : w / 2 ^ 57 = 9) : decodeRaw w = decodeOp09 (RF.ofWord w) := by
  unfold decodeRaw; rw [h]; rfl
theorem raw_16 (w : Nat) (h : w / 2 ^ 57 = 16) : decodeRaw w = decodeOp10 (JF.ofWord w) := by
  unfold decodeRaw; rw [h]; rfl
theorem raw_17 (w : Nat) (h : w / 2 ^ 57 = 17) : decodeRaw w = decodeOp11 (JF.ofWord w) := by
  unfold decodeRaw; rw [h]; rfl
theorem raw_18 (w : Nat) (h : w / 2 ^ 57 = 18) : decodeRaw w = decodeOp12 (IF.ofWord w) := by
  unfold decodeRaw; rw [h]; rfl
theorem raw_19 (w : Nat) (h : w / 2 ^ 57 = 19) : decodeRaw w = decodeOp13 (JF.ofWord w) := by
  unfold decodeRaw; rw [h]; rfl
theorem raw_20 (w : Nat) (h : w / 2 ^ 57 = 20) : decodeRaw w = decodeOp14 (JF.ofWord w) := by
  unfold decodeRaw; rw [h]; rfl
theorem raw_21 (w : Nat) (h : w / 2 ^ 57 = 21) : decodeRaw w = decodeOp15 (RF.ofWord w) := by
  unfold decodeRaw; rw [h]; rfl
theorem raw_24 (w : Nat) (h : w / 2 ^ 57 = 24) : decodeRaw w = decodeOp18 (IF.ofWord w) := by
  unfold decodeRaw; rw [h]; rfl
theorem raw_25 (w : Nat) (h : w / 2 ^ 57 = 25) : decodeRaw w = decodeOp19 (IF.ofWord w) := by
  unfold decodeRaw; rw [h]; rfl
theorem raw_26 (w : Nat) (h : w / 2 ^ 57 = 26) : decodeRaw w = decodeOp1A (IF.ofWord w) := by
  unfold decodeRaw; rw [h]; rfl
theorem raw_27 (w : Nat) (h : w / 2 ^ 57 = 27) : decodeRaw w = decodeOp1B (RF.ofWord w) := by
  unfold decodeRaw; rw [h]; rfl
theorem raw_28 (w : Nat) (h : w / 2 ^ 57 = 28) : decodeRaw w = decodeOp1C (RF.ofWord w) := by
  unfold decodeRaw; rw [h]; rfl
theorem raw_29 (w : Nat) (h : w / 2 ^ 57 = 29) : decodeRaw w = decodeOp1D (RF.ofWord w) := by
  unfold decodeRaw; rw [h]; rfl
theorem raw_30 (w : Nat) (h : w / 2 ^ 57 = 30) : decodeRaw w = decodeOp1E (RF.ofWord w) := by
  unfold decodeRaw; rw [h]; rfl
theorem raw_31 (w : Nat) (h : w / 2 ^ 57 = 31) : decodeRaw w = decodeOp1F (RF.ofWord w) := by
  unfold decodeRaw; rw [h]; rfl
theorem raw_32 (w : Nat) (h : w / 2 ^ 57 = 32) : decodeRaw w = decodeOp20 (RF.ofWord w) := by
  unfold decodeRaw; rw [h]; rfl
theorem raw_33 (w : Nat) (h : w / 2 ^ 57 = 33) : decodeRaw w = decodeOp21 (RF.ofWord w) := by
  unfold decodeRaw; rw [h]; rfl
theorem raw_34 (w : Nat) (h : w / 2 ^ 57 = 34) : decodeRaw w = decodeOp22 (RF.ofWord w) := by
  unfold decodeRaw; rw [h]; rfl
theorem raw_35 (w : Nat) (h : w / 2 ^ 57 = 35) : decodeRaw w = decodeOp23 (RF.ofWord w) := by
  unfold decodeRaw; rw [h]; rfl
theorem raw_36 (w : Nat) (h : w / 2 ^ 57 = 36) : decodeRaw w = decodeOp24 (RF.ofWord w) := by
  unfold decodeRaw; rw [h]; rfl
theorem raw_37 (w : Nat) (h : w / 2 ^ 57 = 37) : decodeRaw w = decodeOp25 (RF.ofWord w) := by
  unfold decodeRaw; rw [h]; rfl
theorem raw_38 (w : Nat) (h : w / 2 ^ 57 = 38) : decodeRaw w = decodeOp26 (RF.ofWord w) := by
  unfold decodeRaw; rw [h]; rfl
theorem raw_39 (w : Nat) (h : w / 2 ^ 57 = 39) : decodeRaw w = decodeOp27 (RF.ofWord w) := by
  unfold decodeRaw; rw [h]; rfl
theorem raw_48 (w : Nat) (h : w / 2 ^ 57 = 48) : decodeRaw w = decodeOp30 (RF.ofWord w) := by
  unfold decodeRaw; rw [h]; rfl
theorem raw_49 (w : Nat) (h : w / 2 ^ 57 = 49) : decodeRaw w = decodeOp31 (RF.ofWord w) := by
  unfold decodeRaw; rw [h]; rfl
theorem raw_50 (w : Nat) (h : w / 2 ^ 57 = 50) : decodeRaw w = decodeOp32 (RF.ofWord w) := by
  unfold decodeRaw; rw [h]; rfl
theorem raw_51 (w : Nat) (h : w / 2 ^ 57 = 51) : decodeRaw w = decodeOp33 (RF.ofWord w) := by
  unfold decodeRaw; rw [h]; rfl
theorem raw_52 (w : Nat) (h : w / 2 ^ 57 = 52) : decodeRaw w = decodeOp34 (RF.ofWord w) := by
  unfold decodeRaw; rw [h]; rfl
theorem raw_53 (w : Nat) (h : w / 2 ^ 57 = 53) : decodeRaw w = decodeOp35 (RF.ofWord w) := by
  unfold decodeRaw; rw [h]; rfl
theorem raw_54 (w : Nat) (h : w / 2 ^ 57 = 54) : decodeRaw w = decodeOp36 (RF.ofWord w) := by
  unfold decodeRaw; rw [h]; rfl
theorem raw_55 (w : Nat) (h : w / 2 ^ 57 = 55) : decodeRaw w = decodeOp37 (RF.ofWord w) := by
  unfold decodeRaw; rw [h]; rfl
theorem raw_56 (w : Nat) (h : w / 2 ^ 57 = 56) : decodeRaw w = decodeOp38 (RF.ofWord w) := by
  unfold decodeRaw; rw [h]; rfl
theorem raw_57 (w : Nat) (h : w / 2 ^ 57 = 57) : decodeRaw w = decodeOp39 (RF.ofWord w) := by
  unfold decodeRaw; rw [h]; rfl
theorem raw_64 (w : Nat) (h : w / 2 ^ 57 = 64) : decodeRaw w = decodeOp40 (RF.ofWord w) := by
  unfold decodeRaw; rw [h]; rfl
theorem raw_65 (w : Nat) (h : w / 2 ^ 57 = 65) : decodeRaw w = decodeOp41 (RF.ofWord w) := by
  unfold decodeRaw; rw [h]; rfl
theorem raw_66 (w : Nat) (h : w / 2 ^ 57 = 66) : decodeRaw w = decodeOp42 (RF.ofWord w) := by
  unfold decodeRaw; rw [h]; rfl
theorem raw_67 (w : Nat) (h : w / 2 ^ 57 = 67) : decodeRaw w = decodeOp43 (RF.ofWord w) := by
  unfold decodeRaw; rw [h]; rfl
theorem raw_68 (w : Nat) (h : w / 2 ^ 57 = 68) : decodeRaw w = decodeOp44 (RF.ofWord w) := by
  unfold decodeRaw; rw [h]; rfl
theorem raw_69 (w : Nat) (h : w / 2 ^ 57 = 69) : decodeRaw w = decodeOp45 (RF.ofWord w) := by
  unfold decodeRaw; rw [h]; rfl
theorem raw_70 (w : Nat) (h : w / 2 ^ 57 = 70) : decodeRaw w = decodeOp46 (RF.ofWord w) := by
  unfold decodeRaw; rw [h]; rfl
theorem raw_71 (w : Nat) (h : w / 2 ^ 57 = 71) : decodeRaw w = decodeOp47 (RF.ofWord w) := by
  unfold decodeRaw; rw [h]; rfl
theorem raw_72 (w : Nat) (h : w / 2 ^ 57 = 72) : decodeRaw w = decodeOp48 (RF.ofWord w) := by
  unfold decodeRaw; rw [h]; rfl
theorem raw_73 (w : Nat) (h : w / 2 ^ 57 = 73) : decodeRaw w = decodeOp49 (RF.ofWord w) := by
  unfold decodeRaw; rw [h]; rfl
theorem raw_74 (w : Nat) (h : w / 2 ^ 57 = 74) : decodeRaw w = decodeOp4A (RF.ofWord w) := by
  unfold decodeRaw; rw [h]; rfl
theorem raw_75 (w : Nat) (h : w / 2 ^ 57 = 75) : decodeRaw w = decodeOp4B (RF.ofWord w) := by
  unfold decodeRaw; rw [h]; rfl
theorem raw_76 (w : Nat) (h : w / 2 ^ 57 = 76) : decodeRaw w = decodeOp4C (RF.ofWord w) := by
  unfold decodeRaw; rw [h]; rfl
theorem raw_77 (w : Nat) (h : w / 2 ^ 57 = 77) : decodeRaw w = decodeOp4D (RF.ofWord w) := by
  unfold decodeRaw; rw [h]; rfl
theorem raw_78 (w : Nat) (h : w / 2 ^ 57 = 78) : decodeRaw w = decodeOp4E (RF.ofWord w) := by
  unfold decodeRaw; rw [h]; rfl
theorem raw_80 (w : Nat) (h : w / 2 ^ 57 = 80) : decodeRaw w = decodeOp50 (RF.ofWord w) := by
  unfold decodeRaw; rw [h]; rfl
theorem raw_81 (w : Nat) (h : w / 2 ^ 57 = 81) : decodeRaw w = decodeOp51 (RF.ofWord w) := by
  unfold decodeRaw; rw [h]; rfl
theorem raw_82 (w : Nat) (h : w / 2 ^ 57 = 82) : decodeRaw w = decodeOp52 (RF.ofWord w) := by
  unfold decodeRaw; rw [h]; rfl
theorem raw_83 (w : Nat) (h : w / 2 ^ 57 = 83) : decodeRaw w = decodeOp53 (RF.ofWord w) := by
  unfold decodeRaw; rw [h]; rfl
theorem raw_84 (w : Nat) (h : w / 2 ^ 57 = 84) : decodeRaw w = decodeOp54 (RF.ofWord w) := by
  unfold decodeRaw; rw [h]; rfl
theorem raw_88 (w : Nat) (h : w / 2 ^ 57 = 88) : decodeRaw w = decodeOp58 (RF.ofWord w) := by
  unfold decodeRaw; rw [h]; rfl
theorem raw_89 (w : Nat) (h : w / 2 ^ 57 = 89) : decodeRaw w = decodeOp59 (RF.ofWord w) := by
  unfold decodeRaw; rw [h]; rfl
theorem raw_90 (w : Nat) (h : w / 2 ^ 57 = 90) : decodeRaw w = decodeOp5A (RF.ofWord w) := by
  unfold decodeRaw; rw [h]; rfl
theorem raw_91 (w : Nat) (h : w / 2 ^ 57 = 91) : decodeRaw w = decodeOp5B (RF.ofWord w) := by
  unfold decodeRaw; rw [h]; rfl
theorem raw_92 (w : Nat) (h : w / 2 ^ 57 = 92) : decodeRaw w = decodeOp5C (RF.ofWord w) := by
  unfold decodeRaw; rw [h]; rfl
theorem raw_93 (w : Nat) (h : w / 2 ^ 57 = 93) : decodeRaw w = decodeOp5D (RF.ofWord w) := by
  unfold decodeRaw; rw [h]; rfl
theorem raw_94 (w : Nat) (h : w / 2 ^ 57 = 94) : decodeRaw w = decodeOp5E (RF.ofWord w) := by
  unfold decodeRaw; rw [h]; rfl
theorem raw_95 (w : Nat) (h : w / 2 ^ 57 = 95) : decodeRaw w = decodeOp5F (RF.ofWord w) := by
  unfold decodeRaw; rw [h]; rfl
theorem raw_96 (w : Nat) (h : w / 2 ^ 57 = 96) : decodeRaw w = decodeOp60 (RF.ofWord w) := by
  unfold decodeRaw; rw [h]; rfl
theorem raw_98 (w : Nat) (h : w / 2 ^ 57 = 98) : decodeRaw w = decodeOp62 (RF.ofWord w) := by
  unfold decodeRaw; rw [h]; rfl
theorem raw_99 (w : Nat) (h : w / 2 ^ 57 = 99) : decodeRaw w = decodeOp63 (RF.ofWord w) := by
  unfold decodeRaw; rw [h]; rfl
theorem raw_100 (w : Nat) (h : w / 2 ^ 57 = 100) : decodeRaw w = decodeOp64 (RF.ofWord w) := by
  unfold decodeRaw; rw [h]; rfl
theorem raw_101 (w : Nat) (h : w / 2 ^ 57 = 101) : decodeRaw w = decodeOp65 (RF.ofWord w) := by
  unfold decodeRaw; rw [h]; rfl
theorem raw_102 (w : Nat) (h : w / 2 ^ 57 = 102) : decodeRaw w = decodeOp66 (RF.ofWord w) := by
  unfold decodeRaw; rw [h]; rfl
theorem raw_104 (w : Nat) (h : w / 2 ^ 57 = 104) : decodeRaw w = decodeOp68 (RF.ofWord w) := by
  unfold decodeRaw; rw [h]; rfl
theorem raw_105 (w : Nat) (h : w / 2 ^ 57 = 105) : decodeRaw w = decodeOp69 (RF.ofWord w) := by
  unfold decodeRaw; rw [h]; rfl
theorem raw_106 (w : Nat) (h : w / 2 ^ 57 = 106) : decodeRaw w = decodeOp6A (RF.ofWord w) := by
  unfold decodeRaw; rw [h]; rfl
theorem raw_107 (w : Nat) (h : w / 2 ^ 57 = 107) : decodeRaw w = decodeOp6B (RF.ofWord w) := by
  unfold decodeRaw; rw [h]; rfl
theorem raw_108 (w : Nat) (h : w / 2 ^ 57 = 108) : decodeRaw w = decodeOp6C (RF.ofWord w) := by
  unfold decodeRaw; rw [h]; rfl
theorem raw_109 (w : Nat) (h : w / 2 ^ 57 = 109) : decodeRaw w = decodeOp6D (RF.ofWord w) := by
  unfold decodeRaw; rw [h]; rfl
theorem raw_112 (w : Nat) (h : w / 2 ^ 57 = 112) : decodeRaw w = decodeOp70 (RF.ofWord w) := by
  unfold decodeRaw; rw [h]; rfl
theorem raw_113 (w : Nat) (h : w / 2 ^ 57 = 113) : decodeRaw w = decodeOp71 (RF.ofWord w) := by
  unfold decodeRaw; rw [h]; rfl
theorem raw_114 (w : Nat) (h : w / 2 ^ 57 = 114) : decodeRaw w = decodeOp72 (RF.ofWord w) := by
  unfold decodeRaw; rw [h]; rfl
theorem raw_115 (w : Nat) (h : w / 2 ^ 57 = 115) : decodeRaw w = decodeOp73 (RF.ofWord w) := by
  unfold decodeRaw; rw [h]; rfl
theorem raw_116 (w : Nat) (h : w / 2 ^ 57 = 116) : decodeRaw w = decodeOp74 (RF.ofWord w) := by
  unfold decodeRaw; rw [h]; rfl
theorem raw_117 (w : Nat) (h : w / 2 ^ 57 = 117) : decodeRaw w = decodeOp75 (RF.ofWord w) := by
  unfold decodeRaw; rw [h]; rfl
theorem raw_118 (w : Nat) (h : w / 2 ^ 57 = 118) : decodeRaw w = decodeOp76 (RF.ofWord w) := by
  unfold decodeRaw; rw [h]; rfl

theorem add (d : GOp) (a : GOp) (b : GOp) : Statement (.add d a b) := fun _ _ => by
  exact round_r rfl ⟨by decide, by decide, encG_lt d, encG_lt a, encG_lt b, by decide, by decide⟩ raw_1 (by simp only [decodeOp01, RF.of, decG_encG, Option.bind_eq_bind, Option.bind_some])
theorem sub (d : GOp) (a : GOp) (b : GOp) : Statement (.sub d a b) := fun _ _ => by
  exact round_r rfl ⟨by decide, by decide, encG_lt d, encG_lt a, encG_lt b, by decide, by decide⟩ raw_1 (by simp only [decodeOp01, RF.of, decG_encG, Option.bind_eq_bind, Option.bind_some])
theorem mul (d : GOp) (a : GOp) (b : GOp) : Statement (.mul d a b) := fun _ _ => by
  exact round_r rfl ⟨by decide, by decide, encG_lt d, encG_lt a, encG_lt b, by decide, by decide⟩ raw_1 (by simp only [decodeOp01, RF.of, decG_encG, Option.bind_eq_bind, Option.bind_some])
theorem mulhi (u : Bool) (d : GOp) (a : GOp) (b : GOp) : Statement (.mulhi u d a b) := fun _ _ => by
  have h0 : ((bn u) % 2 ^ 12) % 2 = bn u := by have := bn_lt u; omega
  exact round_r rfl ⟨by decide, by decide, encG_lt d, encG_lt a, encG_lt b, by decide, by have := bn_lt u; omega⟩ raw_1 (by simp only [decodeOp01, RF.of, boolF_bn, h0, decG_encG, Option.bind_eq_bind, Option.bind_some])
theorem div (u : Bool) (d : GOp) (a : GOp) (b : GOp) : Statement (.div u d a b) := fun _ _ => by
  have h0 : ((bn u) % 2 ^ 12) % 2 = bn u := by have := bn_lt u; omega
  exact round_r rfl ⟨by decide, by decide, encG_lt d, encG_lt a, encG_lt b, by decide, by have := bn_lt u; omega⟩ raw_1 (by simp only [decodeOp01, RF.of, boolF_bn, h0, decG_encG, Option.bind_eq_bind, Option.bind_some])
theorem rem (u : Bool) (d : GOp) (a : GOp) (b : GOp) : Statement (.rem u d a b) := fun _ _ => by
  have h0 : ((bn u) % 2 ^ 12) % 2 = bn u := by have := bn_lt u; omega
  exact round_r rfl ⟨by decide, by decide, encG_lt d, encG_lt a, encG_lt b, by decide, by have := bn_lt u; omega⟩ raw_1 (by simp only [decodeOp01, RF.of, boolF_bn, h0, decG_encG, Option.bind_eq_bind, Option.bind_some])
theorem and (d : GOp) (a : GOp) (b : GOp) : Statement (.and d a b) := fun _ _ => by
  exact round_r rfl ⟨by decide, by decide, encG_lt d, encG_lt a, encG_lt b, by decide, by decide⟩ raw_1 (by simp only [decodeOp01, RF.of, decG_encG, Option.bind_eq_bind, Option.bind_some])
theorem or (d : GOp) (a : GOp) (b : GOp) : Statement (.or d a b) := fun _ _ => by
  exact round_r rfl ⟨by decide, by decide, encG_lt d, encG_lt a, encG_lt b, by decide, by decide⟩ raw_1 (by simp only [decodeOp01, RF.of, decG_encG, Option.bind_eq_bind, Option.bind_some])
theorem xor (d : GOp) (a : GOp) (b : GOp) : Statement (.xor d a b) := fun _ _ => by
  exact round_r rfl ⟨by decide, by decide, encG_lt d, encG_lt a, encG_lt b, by decide, by decide⟩ raw_1 (by simp only [decodeOp01, RF.of, decG_encG, Option.bind_eq_bind, Option.bind_some])
theorem andn (d : GOp) (a : GOp) (b : GOp) : Statement (.andn d a b) := fun _ _ => by
  exact round_r rfl ⟨by decide, by decide, encG_lt d, encG_lt a, encG_lt b, by decide, by decide⟩ raw_1 (by simp only [decodeOp01, RF.of, decG_encG, Option.bind_eq_bind, Option.bind_some])
theorem shl (d : GOp) (a : GOp) (b : GOp) : Statement (.shl d a b) := fun _ _ => by
  exact round_r rfl ⟨by decide, by decide, encG_lt d, encG_lt a, encG_lt b, by decide, by decide⟩ raw_1 (by simp only [decodeOp01, RF.of, decG_encG, Option.bind_eq_bind, Option.bind_some])
theorem shr (d : GOp) (a : GOp) (b : GOp) : Statement (.shr d a b) := fun _ _ => by
  exact round_r rfl ⟨by decide, by decide, encG_lt d, encG_lt a, encG_lt b, by decide, by decide⟩ raw_1 (by simp only [decodeOp01, RF.of, decG_encG, Option.bind_eq_bind, Option.bind_some])
theorem sar (d : GOp) (a : GOp) (b : GOp) : Statement (.sar d a b) := fun _ _ => by
  exact round_r rfl ⟨by decide, by decide, encG_lt d, encG_lt a, encG_lt b, by decide, by decide⟩ raw_1 (by simp only [decodeOp01, RF.of, decG_encG, Option.bind_eq_bind, Option.bind_some])
theorem min (u : Bool) (d : GOp) (a : GOp) (b : GOp) : Statement (.min u d a b) := fun _ _ => by
  have h0 : ((bn u) % 2 ^ 12) % 2 = bn u := by have := bn_lt u; omega
  exact round_r rfl ⟨by decide, by decide, encG_lt d, encG_lt a, encG_lt b, by decide, by have := bn_lt u; omega⟩ raw_1 (by simp only [decodeOp01, RF.of, boolF_bn, h0, decG_encG, Option.bind_eq_bind, Option.bind_some])
theorem max (u : Bool) (d : GOp) (a : GOp) (b : GOp) : Statement (.max u d a b) := fun _ _ => by
  have h0 : ((bn u) % 2 ^ 12) % 2 = bn u := by have := bn_lt u; omega
  exact round_r rfl ⟨by decide, by decide, encG_lt d, encG_lt a, encG_lt b, by decide, by have := bn_lt u; omega⟩ raw_1 (by simp only [decodeOp01, RF.of, boolF_bn, h0, decG_encG, Option.bind_eq_bind, Option.bind_some])
theorem clz (d : GOp) (a : GOp) : Statement (.clz d a) := fun _ _ => by
  exact round_r rfl ⟨by decide, by decide, encG_lt d, encG_lt a, by decide, by decide, by decide⟩ raw_1 (by simp only [decodeOp01, RF.of, decG_encG, Option.bind_eq_bind, Option.bind_some])
theorem popc (d : GOp) (a : GOp) : Statement (.popc d a) := fun _ _ => by
  exact round_r rfl ⟨by decide, by decide, encG_lt d, encG_lt a, by decide, by decide, by decide⟩ raw_1 (by simp only [decodeOp01, RF.of, decG_encG, Option.bind_eq_bind, Option.bind_some])
theorem sel (d : GOp) (a : GOp) (b : GOp) (c : GOp) : Statement (.sel d a b c) := fun _ _ => by
  exact round_r rfl ⟨by decide, by decide, encG_lt d, encG_lt a, encG_lt b, encG_lt c, by decide⟩ raw_1 (by simp only [decodeOp01, RF.of, decG_encG, Option.bind_eq_bind, Option.bind_some])
theorem setcc (cc : Cond) (d : GOp) (a : GOp) (b : GOp) : Statement (.setcc cc d a b) := fun _ _ => by
  have h0 : ((2 * cc.code) % 2 ^ 12) / 2 = cc.code := by have := Cond.code_lt cc; omega
  exact round_r rfl ⟨by decide, by decide, encG_lt d, encG_lt a, encG_lt b, by decide, by have := Cond.code_lt cc; omega⟩ raw_1 (by simp only [decodeOp01, RF.of, Cond.ofCode_code, h0, decG_encG, Option.bind_eq_bind, Option.bind_some])
theorem aluiAdd (d : GOp) (a : GOp) (imm : BitVec 36) : Statement (.aluiAdd d a imm) := fun _ _ => by
  exact round_i rfl ⟨by decide, by decide, encG_lt d, encG_lt a, by have := imm.isLt; omega⟩ raw_2 (by simp only [decodeOp02, decG_encG, BitVec.ofNat_toNat, BitVec.setWidth_eq, Option.bind_eq_bind, Option.bind_some])
theorem aluiAnd (d : GOp) (a : GOp) (imm : BitVec 36) : Statement (.aluiAnd d a imm) := fun _ _ => by
  exact round_i rfl ⟨by decide, by decide, encG_lt d, encG_lt a, by have := imm.isLt; omega⟩ raw_2 (by simp only [decodeOp02, decG_encG, BitVec.ofNat_toNat, BitVec.setWidth_eq, Option.bind_eq_bind, Option.bind_some])
theorem aluiOr (d : GOp) (a : GOp) (imm : BitVec 36) : Statement (.aluiOr d a imm) := fun _ _ => by
  exact round_i rfl ⟨by decide, by decide, encG_lt d, encG_lt a, by have := imm.isLt; omega⟩ raw_2 (by simp only [decodeOp02, decG_encG, BitVec.ofNat_toNat, BitVec.setWidth_eq, Option.bind_eq_bind, Option.bind_some])
theorem aluiXor (d : GOp) (a : GOp) (imm : BitVec 36) : Statement (.aluiXor d a imm) := fun _ _ => by
  exact round_i rfl ⟨by decide, by decide, encG_lt d, encG_lt a, by have := imm.isLt; omega⟩ raw_2 (by simp only [decodeOp02, decG_encG, BitVec.ofNat_toNat, BitVec.setWidth_eq, Option.bind_eq_bind, Option.bind_some])
theorem aluiShl (d : GOp) (a : GOp) (imm : BitVec 36) : Statement (.aluiShl d a imm) := fun _ _ => by
  exact round_i rfl ⟨by decide, by decide, encG_lt d, encG_lt a, by have := imm.isLt; omega⟩ raw_2 (by simp only [decodeOp02, decG_encG, BitVec.ofNat_toNat, BitVec.setWidth_eq, Option.bind_eq_bind, Option.bind_some])
theorem aluiShr (d : GOp) (a : GOp) (imm : BitVec 36) : Statement (.aluiShr d a imm) := fun _ _ => by
  exact round_i rfl ⟨by decide, by decide, encG_lt d, encG_lt a, by have := imm.isLt; omega⟩ raw_2 (by simp only [decodeOp02, decG_encG, BitVec.ofNat_toNat, BitVec.setWidth_eq, Option.bind_eq_bind, Option.bind_some])
theorem aluiSar (d : GOp) (a : GOp) (imm : BitVec 36) : Statement (.aluiSar d a imm) := fun _ _ => by
  exact round_i rfl ⟨by decide, by decide, encG_lt d, encG_lt a, by have := imm.isLt; omega⟩ raw_2 (by simp only [decodeOp02, decG_encG, BitVec.ofNat_toNat, BitVec.setWidth_eq, Option.bind_eq_bind, Option.bind_some])
theorem aluiMin (d : GOp) (a : GOp) (imm : BitVec 36) : Statement (.aluiMin d a imm) := fun _ _ => by
  exact round_i rfl ⟨by decide, by decide, encG_lt d, encG_lt a, by have := imm.isLt; omega⟩ raw_2 (by simp only [decodeOp02, decG_encG, BitVec.ofNat_toNat, BitVec.setWidth_eq, Option.bind_eq_bind, Option.bind_some])
theorem aluiMax (d : GOp) (a : GOp) (imm : BitVec 36) : Statement (.aluiMax d a imm) := fun _ _ => by
  exact round_i rfl ⟨by decide, by decide, encG_lt d, encG_lt a, by have := imm.isLt; omega⟩ raw_2 (by simp only [decodeOp02, decG_encG, BitVec.ofNat_toNat, BitVec.setWidth_eq, Option.bind_eq_bind, Option.bind_some])
theorem li (d : GOp) (imm : BitVec 36) : Statement (.li d imm) := fun _ _ => by
  exact round_i rfl ⟨by decide, by decide, encG_lt d, by decide, by have := imm.isLt; omega⟩ raw_3 (by simp only [decodeOp03, decG_encG, BitVec.ofNat_toNat, BitVec.setWidth_eq, Option.bind_eq_bind, Option.bind_some])
theorem lih (d : GOp) (imm : BitVec 28) : Statement (.lih d imm) := fun _ _ => by
  exact round_i rfl ⟨by decide, by decide, encG_lt d, by decide, by have := imm.isLt; omega⟩ raw_4 (by simp only [decodeOp04, decG_encG, BitVec.ofNat_toNat, BitVec.setWidth_eq, Option.bind_eq_bind, Option.bind_some])
theorem fadd (f64 : Bool) (rm : Rm) (d : GOp) (a : GOp) (b : GOp) : Statement (.fadd f64 rm d a b) := fun _ _ => by
  have h0 : ((bn f64 + 2 * rm.code) % 2 ^ 12) % 2 = bn f64 := by have := bn_lt f64; have := Rm.code_lt rm; omega
  have h1 : ((bn f64 + 2 * rm.code) % 2 ^ 12) / 2 % 8 = rm.code := by have := bn_lt f64; have := Rm.code_lt rm; omega
  exact round_r rfl ⟨by decide, by decide, encG_lt d, encG_lt a, encG_lt b, by decide, by have := bn_lt f64; have := Rm.code_lt rm; omega⟩ raw_5 (by simp only [decodeOp05, RF.of, boolF_bn, h0, Rm.ofCode_code, h1, decG_encG, Option.bind_eq_bind, Option.bind_some])
theorem fsub (f64 : Bool) (rm : Rm) (d : GOp) (a : GOp) (b : GOp) : Statement (.fsub f64 rm d a b) := fun _ _ => by
  have h0 : ((bn f64 + 2 * rm.code) % 2 ^ 12) % 2 = bn f64 := by have := bn_lt f64; have := Rm.code_lt rm; omega
  have h1 : ((bn f64 + 2 * rm.code) % 2 ^ 12) / 2 % 8 = rm.code := by have := bn_lt f64; have := Rm.code_lt rm; omega
  exact round_r rfl ⟨by decide, by decide, encG_lt d, encG_lt a, encG_lt b, by decide, by have := bn_lt f64; have := Rm.code_lt rm; omega⟩ raw_5 (by simp only [decodeOp05, RF.of, boolF_bn, h0, Rm.ofCode_code, h1, decG_encG, Option.bind_eq_bind, Option.bind_some])
theorem fmul (f64 : Bool) (rm : Rm) (d : GOp) (a : GOp) (b : GOp) : Statement (.fmul f64 rm d a b) := fun _ _ => by
  have h0 : ((bn f64 + 2 * rm.code) % 2 ^ 12) % 2 = bn f64 := by have := bn_lt f64; have := Rm.code_lt rm; omega
  have h1 : ((bn f64 + 2 * rm.code) % 2 ^ 12) / 2 % 8 = rm.code := by have := bn_lt f64; have := Rm.code_lt rm; omega
  exact round_r rfl ⟨by decide, by decide, encG_lt d, encG_lt a, encG_lt b, by decide, by have := bn_lt f64; have := Rm.code_lt rm; omega⟩ raw_5 (by simp only [decodeOp05, RF.of, boolF_bn, h0, Rm.ofCode_code, h1, decG_encG, Option.bind_eq_bind, Option.bind_some])
theorem fma (f64 : Bool) (rm : Rm) (d : GOp) (a : GOp) (b : GOp) (c : GOp) : Statement (.fma f64 rm d a b c) := fun _ _ => by
  have h0 : ((bn f64 + 2 * rm.code) % 2 ^ 12) % 2 = bn f64 := by have := bn_lt f64; have := Rm.code_lt rm; omega
  have h1 : ((bn f64 + 2 * rm.code) % 2 ^ 12) / 2 % 8 = rm.code := by have := bn_lt f64; have := Rm.code_lt rm; omega
  exact round_r rfl ⟨by decide, by decide, encG_lt d, encG_lt a, encG_lt b, encG_lt c, by have := bn_lt f64; have := Rm.code_lt rm; omega⟩ raw_5 (by simp only [decodeOp05, RF.of, boolF_bn, h0, Rm.ofCode_code, h1, decG_encG, Option.bind_eq_bind, Option.bind_some])
theorem fcvt (kind : FcvtKind) (f64 : Bool) (rm : Rm) (d : GOp) (a : GOp) : Statement (.fcvt kind f64 rm d a) := fun _ _ => by
  have h0 : ((bn f64 + 2 * rm.code + 16 * kind.code) % 2 ^ 12) / 16 = kind.code := by have := bn_lt f64; have := Rm.code_lt rm; have := FcvtKind.code_lt kind; omega
  have h1 : ((bn f64 + 2 * rm.code + 16 * kind.code) % 2 ^ 12) % 2 = bn f64 := by have := bn_lt f64; have := Rm.code_lt rm; have := FcvtKind.code_lt kind; omega
  have h2 : ((bn f64 + 2 * rm.code + 16 * kind.code) % 2 ^ 12) / 2 % 8 = rm.code := by have := bn_lt f64; have := Rm.code_lt rm; have := FcvtKind.code_lt kind; omega
  exact round_r rfl ⟨by decide, by decide, encG_lt d, encG_lt a, by decide, by decide, by have := bn_lt f64; have := Rm.code_lt rm; have := FcvtKind.code_lt kind; omega⟩ raw_5 (by simp only [decodeOp05, RF.of, FcvtKind.ofCode_code, h0, boolF_bn, h1, Rm.ofCode_code, h2, decG_encG, Option.bind_eq_bind, Option.bind_some])
theorem fcmp (cc : FCond) (f64 : Bool) (d : GOp) (a : GOp) (b : GOp) : Statement (.fcmp cc f64 d a b) := fun _ _ => by
  have h0 : ((bn f64 + 16 * cc.code) % 2 ^ 12) / 16 = cc.code := by have := bn_lt f64; have := FCond.code_lt cc; omega
  have h1 : ((bn f64 + 16 * cc.code) % 2 ^ 12) % 2 = bn f64 := by have := bn_lt f64; have := FCond.code_lt cc; omega
  exact round_r rfl ⟨by decide, by decide, encG_lt d, encG_lt a, encG_lt b, by decide, by have := bn_lt f64; have := FCond.code_lt cc; omega⟩ raw_5 (by simp only [decodeOp05, RF.of, FCond.ofCode_code, h0, boolF_bn, h1, decG_encG, Option.bind_eq_bind, Option.bind_some])
theorem ld (q : LdSt) (d : GOp) (a : GOp) : Statement (.ld q d a) := fun _ _ => by
  exact round_i rfl ⟨by decide, LdSt.fn_lt q, encG_lt d, encG_lt a, LdSt.imm_lt q⟩ raw_6 (by simp only [decodeOp06, decG_encG, LdSt.ofFields_of, Option.bind_eq_bind, Option.bind_some])
theorem st (q : LdSt) (d : GOp) (a : GOp) : Statement (.st q d a) := fun _ _ => by
  exact round_i rfl ⟨by decide, LdSt.fn_lt q, encG_lt d, encG_lt a, LdSt.imm_lt q⟩ raw_7 (by simp only [decodeOp07, decG_encG, LdSt.ofFields_of, Option.bind_eq_bind, Option.bind_some])
theorem amo (op : AmoOp) (x : MemX) (d : GOp) (a : GOp) (b : GOp) : Statement (.amo op x d a b) := fun _ _ => by
  have hx := MemX.ofR_of x ((op.code) + 32 * x.t.code) (encG d) (encG a) (encG b) (0) (by have := AmoOp.code_lt op; have := Tick.code_lt x.t; omega)
  have h0 : ((op.code) + 32 * x.t.code) % 32 = op.code := by have := AmoOp.code_lt op; have := Tick.code_lt x.t; omega
  exact round_r rfl ⟨by decide, by have := AmoOp.code_lt op; have := Tick.code_lt x.t; omega, encG_lt d, encG_lt a, encG_lt b, by decide, by have := MemX.xbits_lt x; have := MemX.ctl_lt x; omega⟩ raw_8 (by simp only [decodeOp08, RF.of] at hx ⊢; simp only [hx, AmoOp.ofCode_code, h0, decG_encG, Option.bind_eq_bind, Option.bind_some])
theorem cas (x : MemX) (d : GOp) (a : GOp) (b : GOp) (c : GOp) : Statement (.cas x d a b c) := fun _ _ => by
  have hx := MemX.ofR_of x ((0) + 32 * x.t.code) (encG d) (encG a) (encG b) (encG c) (by have := Tick.code_lt x.t; omega)
  exact round_r rfl ⟨by decide, by have := Tick.code_lt x.t; omega, encG_lt d, encG_lt a, encG_lt b, encG_lt c, by have := MemX.xbits_lt x; have := MemX.ctl_lt x; omega⟩ raw_9 (by simp only [decodeOp09, RF.of] at hx ⊢; simp only [hx, decG_encG, Option.bind_eq_bind, Option.bind_some])
theorem br (cc : Cond) (a : GOp) (b : GOp) (off : BitVec 39) : Statement (.br cc a b off) := fun _ _ => by
  exact round_j rfl ⟨by decide, by have := Cond.code_lt cc; omega, encG_lt a, encG_lt b, by have := off.isLt; omega⟩ raw_16 (by simp only [decodeOp10, Cond.ofCode_code, decG_encG, BitVec.ofNat_toNat, BitVec.setWidth_eq, Option.bind_eq_bind, Option.bind_some])
theorem jal (a : GOp) (off : BitVec 39) : Statement (.jal a off) := fun _ _ => by
  exact round_j rfl ⟨by decide, by decide, encG_lt a, by decide, by have := off.isLt; omega⟩ raw_17 (by simp only [decodeOp11, decG_encG, BitVec.ofNat_toNat, BitVec.setWidth_eq, Option.bind_eq_bind, Option.bind_some])
theorem jalr (d : GOp) (a : GOp) (imm : BitVec 36) : Statement (.jalr d a imm) := fun _ _ => by
  exact round_i rfl ⟨by decide, by decide, encG_lt d, encG_lt a, by have := imm.isLt; omega⟩ raw_18 (by simp only [decodeOp12, decG_encG, BitVec.ofNat_toNat, BitVec.setWidth_eq, Option.bind_eq_bind, Option.bind_some])
theorem loop (a : GOp) (off : BitVec 39) : Statement (.loop a off) := fun _ _ => by
  exact round_j rfl ⟨by decide, by decide, encG_lt a, by decide, by have := off.isLt; omega⟩ raw_19 (by simp only [decodeOp13, decG_encG, BitVec.ofNat_toNat, BitVec.setWidth_eq, Option.bind_eq_bind, Option.bind_some])
theorem bm (cc : MCond) (a : MOp) (off : BitVec 39) : Statement (.bm cc a off) := fun _ _ => by
  exact round_j rfl ⟨by decide, by have := MCond.code_lt cc; omega, encM_lt a, by decide, by have := off.isLt; omega⟩ raw_20 (by simp only [decodeOp14, MCond.ofCode_code, decM_encM, BitVec.ofNat_toNat, BitVec.setWidth_eq, Option.bind_eq_bind, Option.bind_some])
theorem nop : Statement (.nop) := fun _ _ => by
  exact round_r rfl ⟨by decide, by decide, by decide, by decide, by decide, by decide, by decide⟩ raw_21 (by rfl)
theorem csrr (d : GOp) (num : BitVec 12) : Statement (.csrr d num) := fun _ _ => by
  exact round_i rfl ⟨by decide, by decide, encG_lt d, by decide, by have := num.isLt; omega⟩ raw_24 (by simp only [decodeOp18, decG_encG, BitVec.ofNat_toNat, BitVec.setWidth_eq, Option.bind_eq_bind, Option.bind_some])
theorem csrw (a : GOp) (num : BitVec 12) : Statement (.csrw a num) := fun _ _ => by
  exact round_i rfl ⟨by decide, by decide, by decide, encG_lt a, by have := num.isLt; omega⟩ raw_24 (by simp only [decodeOp18, decG_encG, BitVec.ofNat_toNat, BitVec.setWidth_eq, Option.bind_eq_bind, Option.bind_some])
theorem csrset (d : GOp) (a : GOp) (num : BitVec 12) : Statement (.csrset d a num) := fun _ _ => by
  exact round_i rfl ⟨by decide, by decide, encG_lt d, encG_lt a, by have := num.isLt; omega⟩ raw_24 (by simp only [decodeOp18, decG_encG, BitVec.ofNat_toNat, BitVec.setWidth_eq, Option.bind_eq_bind, Option.bind_some])
theorem csrclr (d : GOp) (a : GOp) (num : BitVec 12) : Statement (.csrclr d a num) := fun _ _ => by
  exact round_i rfl ⟨by decide, by decide, encG_lt d, encG_lt a, by have := num.isLt; omega⟩ raw_24 (by simp only [decodeOp18, decG_encG, BitVec.ofNat_toNat, BitVec.setWidth_eq, Option.bind_eq_bind, Option.bind_some])
theorem svc (n : BitVec 16) : Statement (.svc n) := fun _ _ => by
  exact round_i rfl ⟨by decide, by decide, by decide, by decide, by have := n.isLt; omega⟩ raw_25 (by simp only [decodeOp19, BitVec.ofNat_toNat, BitVec.setWidth_eq, Option.bind_eq_bind, Option.bind_some])
theorem trapi (n : BitVec 16) : Statement (.trapi n) := fun _ _ => by
  exact round_i rfl ⟨by decide, by decide, by decide, by decide, by have := n.isLt; omega⟩ raw_26 (by simp only [decodeOp1A, BitVec.ofNat_toNat, BitVec.setWidth_eq, Option.bind_eq_bind, Option.bind_some])
theorem eret : Statement (.eret) := fun _ _ => by
  exact round_r rfl ⟨by decide, by decide, by decide, by decide, by decide, by decide, by decide⟩ raw_27 (by rfl)
theorem fence (dir : FenceDir) (sc : Scope) : Statement (.fence dir sc) := fun _ _ => by
  have h0 : ((2 * sc.code) % 2 ^ 12) / 2 = sc.code := by have := Scope.code_lt sc; omega
  exact round_r rfl ⟨by decide, by have := FenceDir.code_lt dir; omega, by decide, by decide, by decide, by decide, by have := Scope.code_lt sc; omega⟩ raw_28 (by simp only [decodeOp1C, RF.of, FenceDir.ofCode_code, Scope.ofCode_code, h0, Option.bind_eq_bind, Option.bind_some])
theorem wfe (a : GOp) : Statement (.wfe a) := fun _ _ => by
  exact round_r rfl ⟨by decide, by decide, by decide, encG_lt a, by decide, by decide, by decide⟩ raw_29 (by simp only [decodeOp1D, RF.of, decG_encG, Option.bind_eq_bind, Option.bind_some])
theorem splock (d : GOp) (a : GOp) : Statement (.splock d a) := fun _ _ => by
  exact round_r rfl ⟨by decide, by decide, encG_lt d, encG_lt a, by decide, by decide, by decide⟩ raw_30 (by simp only [decodeOp1E, RF.of, decG_encG, Option.bind_eq_bind, Option.bind_some])
theorem spunlock (a : GOp) : Statement (.spunlock a) := fun _ _ => by
  exact round_r rfl ⟨by decide, by decide, by decide, encG_lt a, by decide, by decide, by decide⟩ raw_30 (by simp only [decodeOp1E, RF.of, decG_encG, Option.bind_eq_bind, Option.bind_some])
theorem tlbinv (kind : InvKind) (a : GOp) (b : GOp) : Statement (.tlbinv kind a b) := fun _ _ => by
  have h0 : ((kind.code) % 2 ^ 12) = kind.code := by have := InvKind.code_lt kind; omega
  exact round_r rfl ⟨by decide, by decide, by decide, encG_lt a, encG_lt b, by decide, by have := InvKind.code_lt kind; omega⟩ raw_31 (by simp only [decodeOp1F, RF.of, InvKind.ofCode_code, h0, decG_encG, Option.bind_eq_bind, Option.bind_some])
theorem ckpt : Statement (.ckpt) := fun _ _ => by
  exact round_r rfl ⟨by decide, by decide, by decide, by decide, by decide, by decide, by decide⟩ raw_32 (by rfl)
theorem vsave (tk : Fin 8) (a : GOp) (vm : Fin 48) : Statement (.vsave tk a vm) := fun _ _ => by
  have h0 : ((512 * tk.val) % 2 ^ 12) / 512 = tk.val := by have := tk.isLt; omega
  exact round_r rfl ⟨by decide, by decide, by decide, encG_lt a, encVm_lt vm, by decide, by have := tk.isLt; omega⟩ raw_33 (by simp only [decodeOp21, RF.of, fin8_val, h0, decG_encG, decVm_encVm, Option.bind_eq_bind, Option.bind_some])
theorem vrest (tk : Fin 8) (vm : Fin 48) (a : GOp) : Statement (.vrest tk vm a) := fun _ _ => by
  have h0 : ((512 * tk.val) % 2 ^ 12) / 512 = tk.val := by have := tk.isLt; omega
  exact round_r rfl ⟨by decide, by decide, encVm_lt vm, encG_lt a, by decide, by decide, by have := tk.isLt; omega⟩ raw_34 (by simp only [decodeOp22, RF.of, fin8_val, h0, decVm_encVm, decG_encG, Option.bind_eq_bind, Option.bind_some])
theorem hmsg (a : GOp) (b : GOp) : Statement (.hmsg a b) := fun _ _ => by
  exact round_r rfl ⟨by decide, by decide, by decide, encG_lt a, encG_lt b, by decide, by decide⟩ raw_35 (by simp only [decodeOp23, RF.of, decG_encG, Option.bind_eq_bind, Option.bind_some])
theorem jspawn (d : GOp) (vm : Fin 48) : Statement (.jspawn d vm) := fun _ _ => by
  exact round_r rfl ⟨by decide, by decide, encG_lt d, encVm_lt vm, by decide, by decide, by decide⟩ raw_36 (by simp only [decodeOp24, RF.of, decG_encG, decVm_encVm, Option.bind_eq_bind, Option.bind_some])
theorem jend : Statement (.jend) := fun _ _ => by
  exact round_r rfl ⟨by decide, by decide, by decide, by decide, by decide, by decide, by decide⟩ raw_37 (by rfl)
theorem chblock (a : GOp) : Statement (.chblock a) := fun _ _ => by
  exact round_r rfl ⟨by decide, by decide, by decide, encG_lt a, by decide, by decide, by decide⟩ raw_38 (by simp only [decodeOp26, RF.of, decG_encG, Option.bind_eq_bind, Option.bind_some])
theorem chunblock (a : GOp) : Statement (.chunblock a) := fun _ _ => by
  exact round_r rfl ⟨by decide, by decide, by decide, encG_lt a, by decide, by decide, by decide⟩ raw_38 (by simp only [decodeOp26, RF.of, decG_encG, Option.bind_eq_bind, Option.bind_some])
theorem abump (d : GOp) (a : GOp) (n : Fin 4) (al : BitVec 5) : Statement (.abump d a n al) := fun _ _ => by
  have h0 : ((n.val + 4 * al.toNat) % 2 ^ 12) % 4 = n.val := by have := n.isLt; have := al.isLt; omega
  have h1 : ((n.val + 4 * al.toNat) % 2 ^ 12) / 4 = al.toNat := by have := n.isLt; have := al.isLt; omega
  exact round_r rfl ⟨by decide, by decide, encG_lt d, encG_lt a, by decide, by decide, by have := n.isLt; have := al.isLt; omega⟩ raw_39 (by simp only [decodeOp27, RF.of, decG_encG, fin4_val, h0, BitVec.ofNat_toNat, BitVec.setWidth_eq, h1, Option.bind_eq_bind, Option.bind_some])
theorem vsetl (d : GOp) (a : GOp) : Statement (.vsetl d a) := fun _ _ => by
  exact round_r rfl ⟨by decide, by decide, encG_lt d, encG_lt a, by decide, by decide, by decide⟩ raw_48 (by simp only [decodeOp30, RF.of, decG_encG, Option.bind_eq_bind, Option.bind_some])
theorem vtag (d : VdOp) (t : Tag) : Statement (.vtag d t) := fun _ _ => by
  have h0 : ((t.code) % 2 ^ 12) = t.code := by have := Tag.code_lt t; omega
  exact round_r rfl ⟨by decide, by decide, encVd_lt d, by decide, by decide, by decide, by have := Tag.code_lt t; omega⟩ raw_48 (by simp only [decodeOp30, RF.of, decVd_encVd, Tag.ofCode_code, h0, Option.bind_eq_bind, Option.bind_some])
theorem vretag (d : VdOp) (t : Tag) : Statement (.vretag d t) := fun _ _ => by
  have h0 : ((t.code) % 2 ^ 12) = t.code := by have := Tag.code_lt t; omega
  exact round_r rfl ⟨by decide, by decide, encVd_lt d, by decide, by decide, by decide, by have := Tag.code_lt t; omega⟩ raw_48 (by simp only [decodeOp30, RF.of, decVd_encVd, Tag.ofCode_code, h0, Option.bind_eq_bind, Option.bind_some])
theorem vgettag (d : GOp) (a : VrOp) : Statement (.vgettag d a) := fun _ _ => by
  exact round_r rfl ⟨by decide, by decide, encG_lt d, encVr_lt a, by decide, by decide, by decide⟩ raw_48 (by simp only [decodeOp30, RF.of, decG_encG, decVr_encVr, Option.bind_eq_bind, Option.bind_some])
theorem vmov (d : VdOp) (a : VsOp) : Statement (.vmov d a) := fun _ _ => by
  exact round_r rfl ⟨by decide, by decide, encVd_lt d, encVs_lt a, by decide, by decide, by decide⟩ raw_48 (by simp only [decodeOp30, RF.of, decVd_encVd, decVs_encVs, Option.bind_eq_bind, Option.bind_some])
theorem vadd (q : VMod) (d : VdOp) (a : VsOp) (b : VsOp) : Statement (.vadd q d a b) := fun _ _ => by
  have hv := VMod.ofR_of q (0) (encVd d) (encVs a) (encVs b) (0) (0) (q.xbits + (0) + 2 ^ 12 * q.ctl) (by decide) (by omega)
  exact round_r rfl ⟨by decide, by decide, encVd_lt d, encVs_lt a, encVs_lt b, by decide, by have := VMod.xbits_lt q; have := VMod.ctl_lt q; omega⟩ raw_49 (by simp only [decodeOp31, RF.of] at hv ⊢; simp only [hv, decVd_encVd, decVs_encVs, Option.bind_eq_bind, Option.bind_some])
theorem vsub (q : VMod) (d : VdOp) (a : VsOp) (b : VsOp) : Statement (.vsub q d a b) := fun _ _ => by
  have hv := VMod.ofR_of q (1) (encVd d) (encVs a) (encVs b) (0) (0) (q.xbits + (0) + 2 ^ 12 * q.ctl) (by decide) (by omega)
  exact round_r rfl ⟨by decide, by decide, encVd_lt d, encVs_lt a, encVs_lt b, by decide, by have := VMod.xbits_lt q; have := VMod.ctl_lt q; omega⟩ raw_49 (by simp only [decodeOp31, RF.of] at hv ⊢; simp only [hv, decVd_encVd, decVs_encVs, Option.bind_eq_bind, Option.bind_some])
theorem vmul (q : VMod) (d : VdOp) (a : VsOp) (b : VsOp) : Statement (.vmul q d a b) := fun _ _ => by
  have hv := VMod.ofR_of q (2) (encVd d) (encVs a) (encVs b) (0) (0) (q.xbits + (0) + 2 ^ 12 * q.ctl) (by decide) (by omega)
  exact round_r rfl ⟨by decide, by decide, encVd_lt d, encVs_lt a, encVs_lt b, by decide, by have := VMod.xbits_lt q; have := VMod.ctl_lt q; omega⟩ raw_49 (by simp only [decodeOp31, RF.of] at hv ⊢; simp only [hv, decVd_encVd, decVs_encVs, Option.bind_eq_bind, Option.bind_some])
theorem vmulh (q : VMod) (d : VdOp) (a : VsOp) (b : VsOp) : Statement (.vmulh q d a b) := fun _ _ => by
  have hv := VMod.ofR_of q (3) (encVd d) (encVs a) (encVs b) (0) (0) (q.xbits + (0) + 2 ^ 12 * q.ctl) (by decide) (by omega)
  exact round_r rfl ⟨by decide, by decide, encVd_lt d, encVs_lt a, encVs_lt b, by decide, by have := VMod.xbits_lt q; have := VMod.ctl_lt q; omega⟩ raw_49 (by simp only [decodeOp31, RF.of] at hv ⊢; simp only [hv, decVd_encVd, decVs_encVs, Option.bind_eq_bind, Option.bind_some])
theorem vfma (q : VMod) (d : VdOp) (a : VsOp) (b : VsOp) (c : VsOp) : Statement (.vfma q d a b c) := fun _ _ => by
  have hv := VMod.ofR_of q (4) (encVd d) (encVs a) (encVs b) (encVs c) (0) (q.xbits + (0) + 2 ^ 12 * q.ctl) (by decide) (by omega)
  exact round_r rfl ⟨by decide, by decide, encVd_lt d, encVs_lt a, encVs_lt b, encVs_lt c, by have := VMod.xbits_lt q; have := VMod.ctl_lt q; omega⟩ raw_49 (by simp only [decodeOp31, RF.of] at hv ⊢; simp only [hv, decVd_encVd, decVs_encVs, Option.bind_eq_bind, Option.bind_some])
theorem vfms (q : VMod) (d : VdOp) (a : VsOp) (b : VsOp) (c : VsOp) : Statement (.vfms q d a b c) := fun _ _ => by
  have hv := VMod.ofR_of q (5) (encVd d) (encVs a) (encVs b) (encVs c) (0) (q.xbits + (0) + 2 ^ 12 * q.ctl) (by decide) (by omega)
  exact round_r rfl ⟨by decide, by decide, encVd_lt d, encVs_lt a, encVs_lt b, encVs_lt c, by have := VMod.xbits_lt q; have := VMod.ctl_lt q; omega⟩ raw_49 (by simp only [decodeOp31, RF.of] at hv ⊢; simp only [hv, decVd_encVd, decVs_encVs, Option.bind_eq_bind, Option.bind_some])
theorem vfnma (q : VMod) (d : VdOp) (a : VsOp) (b : VsOp) (c : VsOp) : Statement (.vfnma q d a b c) := fun _ _ => by
  have hv := VMod.ofR_of q (6) (encVd d) (encVs a) (encVs b) (encVs c) (0) (q.xbits + (0) + 2 ^ 12 * q.ctl) (by decide) (by omega)
  exact round_r rfl ⟨by decide, by decide, encVd_lt d, encVs_lt a, encVs_lt b, encVs_lt c, by have := VMod.xbits_lt q; have := VMod.ctl_lt q; omega⟩ raw_49 (by simp only [decodeOp31, RF.of] at hv ⊢; simp only [hv, decVd_encVd, decVs_encVs, Option.bind_eq_bind, Option.bind_some])
theorem vmin (q : VMod) (d : VdOp) (a : VsOp) (b : VsOp) : Statement (.vmin q d a b) := fun _ _ => by
  have hv := VMod.ofR_of q (7) (encVd d) (encVs a) (encVs b) (0) (0) (q.xbits + (0) + 2 ^ 12 * q.ctl) (by decide) (by omega)
  exact round_r rfl ⟨by decide, by decide, encVd_lt d, encVs_lt a, encVs_lt b, by decide, by have := VMod.xbits_lt q; have := VMod.ctl_lt q; omega⟩ raw_49 (by simp only [decodeOp31, RF.of] at hv ⊢; simp only [hv, decVd_encVd, decVs_encVs, Option.bind_eq_bind, Option.bind_some])
theorem vmax (q : VMod) (d : VdOp) (a : VsOp) (b : VsOp) : Statement (.vmax q d a b) := fun _ _ => by
  have hv := VMod.ofR_of q (8) (encVd d) (encVs a) (encVs b) (0) (0) (q.xbits + (0) + 2 ^ 12 * q.ctl) (by decide) (by omega)
  exact round_r rfl ⟨by decide, by decide, encVd_lt d, encVs_lt a, encVs_lt b, by decide, by have := VMod.xbits_lt q; have := VMod.ctl_lt q; omega⟩ raw_49 (by simp only [decodeOp31, RF.of] at hv ⊢; simp only [hv, decVd_encVd, decVs_encVs, Option.bind_eq_bind, Option.bind_some])
theorem vabs (q : VMod) (d : VdOp) (a : VsOp) : Statement (.vabs q d a) := fun _ _ => by
  have hv := VMod.ofR_of q (9) (encVd d) (encVs a) (0) (0) (0) (q.xbits + (0) + 2 ^ 12 * q.ctl) (by decide) (by omega)
  exact round_r rfl ⟨by decide, by decide, encVd_lt d, encVs_lt a, by decide, by decide, by have := VMod.xbits_lt q; have := VMod.ctl_lt q; omega⟩ raw_49 (by simp only [decodeOp31, RF.of] at hv ⊢; simp only [hv, decVd_encVd, decVs_encVs, Option.bind_eq_bind, Option.bind_some])
theorem vneg (q : VMod) (d : VdOp) (a : VsOp) : Statement (.vneg q d a) := fun _ _ => by
  have hv := VMod.ofR_of q (10) (encVd d) (encVs a) (0) (0) (0) (q.xbits + (0) + 2 ^ 12 * q.ctl) (by decide) (by omega)
  exact round_r rfl ⟨by decide, by decide, encVd_lt d, encVs_lt a, by decide, by decide, by have := VMod.xbits_lt q; have := VMod.ctl_lt q; omega⟩ raw_49 (by simp only [decodeOp31, RF.of] at hv ⊢; simp only [hv, decVd_encVd, decVs_encVs, Option.bind_eq_bind, Option.bind_some])
theorem vand (q : VMod) (d : VdOp) (a : VsOp) (b : VsOp) : Statement (.vand q d a b) := fun _ _ => by
  have hv := VMod.ofR_of q (11) (encVd d) (encVs a) (encVs b) (0) (0) (q.xbits + (0) + 2 ^ 12 * q.ctl) (by decide) (by omega)
  exact round_r rfl ⟨by decide, by decide, encVd_lt d, encVs_lt a, encVs_lt b, by decide, by have := VMod.xbits_lt q; have := VMod.ctl_lt q; omega⟩ raw_49 (by simp only [decodeOp31, RF.of] at hv ⊢; simp only [hv, decVd_encVd, decVs_encVs, Option.bind_eq_bind, Option.bind_some])
theorem vor (q : VMod) (d : VdOp) (a : VsOp) (b : VsOp) : Statement (.vor q d a b) := fun _ _ => by
  have hv := VMod.ofR_of q (12) (encVd d) (encVs a) (encVs b) (0) (0) (q.xbits + (0) + 2 ^ 12 * q.ctl) (by decide) (by omega)
  exact round_r rfl ⟨by decide, by decide, encVd_lt d, encVs_lt a, encVs_lt b, by decide, by have := VMod.xbits_lt q; have := VMod.ctl_lt q; omega⟩ raw_49 (by simp only [decodeOp31, RF.of] at hv ⊢; simp only [hv, decVd_encVd, decVs_encVs, Option.bind_eq_bind, Option.bind_some])
theorem vxor (q : VMod) (d : VdOp) (a : VsOp) (b : VsOp) : Statement (.vxor q d a b) := fun _ _ => by
  have hv := VMod.ofR_of q (13) (encVd d) (encVs a) (encVs b) (0) (0) (q.xbits + (0) + 2 ^ 12 * q.ctl) (by decide) (by omega)
  exact round_r rfl ⟨by decide, by decide, encVd_lt d, encVs_lt a, encVs_lt b, by decide, by have := VMod.xbits_lt q; have := VMod.ctl_lt q; omega⟩ raw_49 (by simp only [decodeOp31, RF.of] at hv ⊢; simp only [hv, decVd_encVd, decVs_encVs, Option.bind_eq_bind, Option.bind_some])
theorem vshl (q : VMod) (d : VdOp) (a : VsOp) (b : VsOp) : Statement (.vshl q d a b) := fun _ _ => by
  have hv := VMod.ofR_of q (14) (encVd d) (encVs a) (encVs b) (0) (0) (q.xbits + (0) + 2 ^ 12 * q.ctl) (by decide) (by omega)
  exact round_r rfl ⟨by decide, by decide, encVd_lt d, encVs_lt a, encVs_lt b, by decide, by have := VMod.xbits_lt q; have := VMod.ctl_lt q; omega⟩ raw_49 (by simp only [decodeOp31, RF.of] at hv ⊢; simp only [hv, decVd_encVd, decVs_encVs, Option.bind_eq_bind, Option.bind_some])
theorem vshr (q : VMod) (d : VdOp) (a : VsOp) (b : VsOp) : Statement (.vshr q d a b) := fun _ _ => by
  have hv := VMod.ofR_of q (15) (encVd d) (encVs a) (encVs b) (0) (0) (q.xbits + (0) + 2 ^ 12 * q.ctl) (by decide) (by omega)
  exact round_r rfl ⟨by decide, by decide, encVd_lt d, encVs_lt a, encVs_lt b, by decide, by have := VMod.xbits_lt q; have := VMod.ctl_lt q; omega⟩ raw_49 (by simp only [decodeOp31, RF.of] at hv ⊢; simp only [hv, decVd_encVd, decVs_encVs, Option.bind_eq_bind, Option.bind_some])
theorem vsar (q : VMod) (d : VdOp) (a : VsOp) (b : VsOp) : Statement (.vsar q d a b) := fun _ _ => by
  have hv := VMod.ofR_of q (16) (encVd d) (encVs a) (encVs b) (0) (0) (q.xbits + (0) + 2 ^ 12 * q.ctl) (by decide) (by omega)
  exact round_r rfl ⟨by decide, by decide, encVd_lt d, encVs_lt a, encVs_lt b, by decide, by have := VMod.xbits_lt q; have := VMod.ctl_lt q; omega⟩ raw_49 (by simp only [decodeOp31, RF.of] at hv ⊢; simp only [hv, decVd_encVd, decVs_encVs, Option.bind_eq_bind, Option.bind_some])
theorem vclz (q : VMod) (d : VdOp) (a : VsOp) : Statement (.vclz q d a) := fun _ _ => by
  have hv := VMod.ofR_of q (17) (encVd d) (encVs a) (0) (0) (0) (q.xbits + (0) + 2 ^ 12 * q.ctl) (by decide) (by omega)
  exact round_r rfl ⟨by decide, by decide, encVd_lt d, encVs_lt a, by decide, by decide, by have := VMod.xbits_lt q; have := VMod.ctl_lt q; omega⟩ raw_49 (by simp only [decodeOp31, RF.of] at hv ⊢; simp only [hv, decVd_encVd, decVs_encVs, Option.bind_eq_bind, Option.bind_some])
theorem vpopc (q : VMod) (d : VdOp) (a : VsOp) : Statement (.vpopc q d a) := fun _ _ => by
  have hv := VMod.ofR_of q (18) (encVd d) (encVs a) (0) (0) (0) (q.xbits + (0) + 2 ^ 12 * q.ctl) (by decide) (by omega)
  exact round_r rfl ⟨by decide, by decide, encVd_lt d, encVs_lt a, by decide, by decide, by have := VMod.xbits_lt q; have := VMod.ctl_lt q; omega⟩ raw_49 (by simp only [decodeOp31, RF.of] at hv ⊢; simp only [hv, decVd_encVd, decVs_encVs, Option.bind_eq_bind, Option.bind_some])
theorem vsel (q : VMod) (d : VdOp) (a : VsOp) (b : VsOp) (c : MOp) : Statement (.vsel q d a b c) := fun _ _ => by
  have hv := VMod.ofR_of q (19) (encVd d) (encVs a) (encVs b) (encM c) (0) (q.xbits + (0) + 2 ^ 12 * q.ctl) (by decide) (by omega)
  exact round_r rfl ⟨by decide, by decide, encVd_lt d, encVs_lt a, encVs_lt b, encM_lt c, by have := VMod.xbits_lt q; have := VMod.ctl_lt q; omega⟩ raw_49 (by simp only [decodeOp31, RF.of] at hv ⊢; simp only [hv, decVd_encVd, decVs_encVs, decM_encM, Option.bind_eq_bind, Option.bind_some])
theorem vaddc (q : VMod) (d : VdOp) (a : VsOp) (b : VsOp) (c : MOp) : Statement (.vaddc q d a b c) := fun _ _ => by
  have hv := VMod.ofR_of q (20) (encVd d) (encVs a) (encVs b) (encM c) (0) (q.xbits + (0) + 2 ^ 12 * q.ctl) (by decide) (by omega)
  exact round_r rfl ⟨by decide, by decide, encVd_lt d, encVs_lt a, encVs_lt b, encM_lt c, by have := VMod.xbits_lt q; have := VMod.ctl_lt q; omega⟩ raw_49 (by simp only [decodeOp31, RF.of] at hv ⊢; simp only [hv, decVd_encVd, decVs_encVs, decM_encM, Option.bind_eq_bind, Option.bind_some])
theorem vsubb (q : VMod) (d : VdOp) (a : VsOp) (b : VsOp) (c : MOp) : Statement (.vsubb q d a b c) := fun _ _ => by
  have hv := VMod.ofR_of q (21) (encVd d) (encVs a) (encVs b) (encM c) (0) (q.xbits + (0) + 2 ^ 12 * q.ctl) (by decide) (by omega)
  exact round_r rfl ⟨by decide, by decide, encVd_lt d, encVs_lt a, encVs_lt b, encM_lt c, by have := VMod.xbits_lt q; have := VMod.ctl_lt q; omega⟩ raw_49 (by simp only [decodeOp31, RF.of] at hv ⊢; simp only [hv, decVd_encVd, decVs_encVs, decM_encM, Option.bind_eq_bind, Option.bind_some])
theorem vcmp (q : VMod) (cc : FCond) (d : MOp) (a : VsOp) (b : VsOp) : Statement (.vcmp q cc d a b) := fun hw _ => by
  have hv := VMod.ofR_of q (0) (encM d) (encVs a) (encVs b) (0) (cc.code) (q.xbits + (cc.code) + 2 ^ 12 * q.ctl) (by have := FCond.code_lt cc; omega) (by omega)
  have h0 : ((q.xbits + (cc.code) + 2 ^ 12 * q.ctl) % 2 ^ 12) = cc.code := by have := FCond.code_lt cc; have := VMod.xbits_lt q; have := VMod.ctl_lt q; have := VMod.no_xbits hw; omega
  exact round_r rfl ⟨by decide, by decide, encM_lt d, encVs_lt a, encVs_lt b, by decide, by have := FCond.code_lt cc; have := VMod.xbits_lt q; have := VMod.ctl_lt q; omega⟩ raw_50 (by simp only [decodeOp32, RF.of] at hv ⊢; simp only [h0] at hv; simp only [hv, FCond.ofCode_code, h0, decM_encM, decVs_encVs, Option.bind_eq_bind, Option.bind_some])
theorem vcvt (q : VMod) (t : Tag) (part : Fin 8) (d : VdOp) (a : VsOp) : Statement (.vcvt q t part d a) := fun _ _ => by
  have hv := VMod.ofR_of q (t.code) (encVd d) (encVs a) (0) (0) (part.val) (q.xbits + (part.val) + 2 ^ 12 * q.ctl) (by have := part.isLt; omega) (by omega)
  have h0 : ((q.xbits + (part.val) + 2 ^ 12 * q.ctl) % 2 ^ 12) % 256 = part.val := by have := part.isLt; have := VMod.xbits_lt q; have := VMod.ctl_lt q; omega
  exact round_r rfl ⟨by decide, by have := Tag.code_lt t; omega, encVd_lt d, encVs_lt a, by decide, by decide, by have := part.isLt; have := VMod.xbits_lt q; have := VMod.ctl_lt q; omega⟩ raw_51 (by simp only [decodeOp33, RF.of] at hv ⊢; simp only [hv, Tag.ofCode_code, fin8_val, h0, decVd_encVd, decVs_encVs, Option.bind_eq_bind, Option.bind_some])
theorem vrcp (q : VMod) (d : VdOp) (a : VsOp) : Statement (.vrcp q d a) := fun _ _ => by
  have hv := VMod.ofR_of q (0) (encVd d) (encVs a) (0) (0) (0) (q.xbits + (0) + 2 ^ 12 * q.ctl) (by decide) (by omega)
  exact round_r rfl ⟨by decide, by decide, encVd_lt d, encVs_lt a, by decide, by decide, by have := VMod.xbits_lt q; have := VMod.ctl_lt q; omega⟩ raw_52 (by simp only [decodeOp34, RF.of] at hv ⊢; simp only [hv, decVd_encVd, decVs_encVs, Option.bind_eq_bind, Option.bind_some])
theorem vrsqrt (q : VMod) (d : VdOp) (a : VsOp) : Statement (.vrsqrt q d a) := fun _ _ => by
  have hv := VMod.ofR_of q (1) (encVd d) (encVs a) (0) (0) (0) (q.xbits + (0) + 2 ^ 12 * q.ctl) (by decide) (by omega)
  exact round_r rfl ⟨by decide, by decide, encVd_lt d, encVs_lt a, by decide, by decide, by have := VMod.xbits_lt q; have := VMod.ctl_lt q; omega⟩ raw_52 (by simp only [decodeOp34, RF.of] at hv ⊢; simp only [hv, decVd_encVd, decVs_encVs, Option.bind_eq_bind, Option.bind_some])
theorem vsqrt (q : VMod) (d : VdOp) (a : VsOp) : Statement (.vsqrt q d a) := fun _ _ => by
  have hv := VMod.ofR_of q (2) (encVd d) (encVs a) (0) (0) (0) (q.xbits + (0) + 2 ^ 12 * q.ctl) (by decide) (by omega)
  exact round_r rfl ⟨by decide, by decide, encVd_lt d, encVs_lt a, by decide, by decide, by have := VMod.xbits_lt q; have := VMod.ctl_lt q; omega⟩ raw_52 (by simp only [decodeOp34, RF.of] at hv ⊢; simp only [hv, decVd_encVd, decVs_encVs, Option.bind_eq_bind, Option.bind_some])
theorem vdiv (q : VMod) (d : VdOp) (a : VsOp) (b : VsOp) : Statement (.vdiv q d a b) := fun _ _ => by
  have hv := VMod.ofR_of q (3) (encVd d) (encVs a) (encVs b) (0) (0) (q.xbits + (0) + 2 ^ 12 * q.ctl) (by decide) (by omega)
  exact round_r rfl ⟨by decide, by decide, encVd_lt d, encVs_lt a, encVs_lt b, by decide, by have := VMod.xbits_lt q; have := VMod.ctl_lt q; omega⟩ raw_52 (by simp only [decodeOp34, RF.of] at hv ⊢; simp only [hv, decVd_encVd, decVs_encVs, Option.bind_eq_bind, Option.bind_some])
theorem vexp2 (q : VMod) (d : VdOp) (a : VsOp) : Statement (.vexp2 q d a) := fun _ _ => by
  have hv := VMod.ofR_of q (4) (encVd d) (encVs a) (0) (0) (0) (q.xbits + (0) + 2 ^ 12 * q.ctl) (by decide) (by omega)
  exact round_r rfl ⟨by decide, by decide, encVd_lt d, encVs_lt a, by decide, by decide, by have := VMod.xbits_lt q; have := VMod.ctl_lt q; omega⟩ raw_52 (by simp only [decodeOp34, RF.of] at hv ⊢; simp only [hv, decVd_encVd, decVs_encVs, Option.bind_eq_bind, Option.bind_some])
theorem vlog2 (q : VMod) (d : VdOp) (a : VsOp) : Statement (.vlog2 q d a) := fun _ _ => by
  have hv := VMod.ofR_of q (5) (encVd d) (encVs a) (0) (0) (0) (q.xbits + (0) + 2 ^ 12 * q.ctl) (by decide) (by omega)
  exact round_r rfl ⟨by decide, by decide, encVd_lt d, encVs_lt a, by decide, by decide, by have := VMod.xbits_lt q; have := VMod.ctl_lt q; omega⟩ raw_52 (by simp only [decodeOp34, RF.of] at hv ⊢; simp only [hv, decVd_encVd, decVs_encVs, Option.bind_eq_bind, Option.bind_some])
theorem vcmul (q : VMod) (d : VdOp) (a : VsOp) (b : VsOp) : Statement (.vcmul q d a b) := fun _ _ => by
  have hv := VMod.ofR_of q (0) (encVd d) (encVs a) (encVs b) (0) (0) (q.xbits + (0) + 2 ^ 12 * q.ctl) (by decide) (by omega)
  exact round_r rfl ⟨by decide, by decide, encVd_lt d, encVs_lt a, encVs_lt b, by decide, by have := VMod.xbits_lt q; have := VMod.ctl_lt q; omega⟩ raw_53 (by simp only [decodeOp35, RF.of] at hv ⊢; simp only [hv, decVd_encVd, decVs_encVs, Option.bind_eq_bind, Option.bind_some])
theorem vcmac (q : VMod) (d : VdOp) (a : VsOp) (b : VsOp) (c : VsOp) : Statement (.vcmac q d a b c) := fun _ _ => by
  have hv := VMod.ofR_of q (1) (encVd d) (encVs a) (encVs b) (encVs c) (0) (q.xbits + (0) + 2 ^ 12 * q.ctl) (by decide) (by omega)
  exact round_r rfl ⟨by decide, by decide, encVd_lt d, encVs_lt a, encVs_lt b, encVs_lt c, by have := VMod.xbits_lt q; have := VMod.ctl_lt q; omega⟩ raw_53 (by simp only [decodeOp35, RF.of] at hv ⊢; simp only [hv, decVd_encVd, decVs_encVs, Option.bind_eq_bind, Option.bind_some])
theorem vconj (q : VMod) (d : VdOp) (a : VsOp) : Statement (.vconj q d a) := fun _ _ => by
  have hv := VMod.ofR_of q (2) (encVd d) (encVs a) (0) (0) (0) (q.xbits + (0) + 2 ^ 12 * q.ctl) (by decide) (by omega)
  exact round_r rfl ⟨by decide, by decide, encVd_lt d, encVs_lt a, by decide, by decide, by have := VMod.xbits_lt q; have := VMod.ctl_lt q; omega⟩ raw_53 (by simp only [decodeOp35, RF.of] at hv ⊢; simp only [hv, decVd_encVd, decVs_encVs, Option.bind_eq_bind, Option.bind_some])
theorem vcabs2 (q : VMod) (d : VdOp) (a : VsOp) : Statement (.vcabs2 q d a) := fun _ _ => by
  have hv := VMod.ofR_of q (3) (encVd d) (encVs a) (0) (0) (0) (q.xbits + (0) + 2 ^ 12 * q.ctl) (by decide) (by omega)
  exact round_r rfl ⟨by decide, by decide, encVd_lt d, encVs_lt a, by decide, by decide, by have := VMod.xbits_lt q; have := VMod.ctl_lt q; omega⟩ raw_53 (by simp only [decodeOp35, RF.of] at hv ⊢; simp only [hv, decVd_encVd, decVs_encVs, Option.bind_eq_bind, Option.bind_some])
theorem vcrot (q : VMod) (k : Fin 4) (d : VdOp) (a : VsOp) : Statement (.vcrot q k d a) := fun _ _ => by
  have hv := VMod.ofR_of q (4) (encVd d) (encVs a) (0) (0) (k.val) (q.xbits + (k.val) + 2 ^ 12 * q.ctl) (by have := k.isLt; omega) (by omega)
  have h0 : ((q.xbits + (k.val) + 2 ^ 12 * q.ctl) % 2 ^ 12) % 256 = k.val := by have := k.isLt; have := VMod.xbits_lt q; have := VMod.ctl_lt q; omega
  exact round_r rfl ⟨by decide, by decide, encVd_lt d, encVs_lt a, by decide, by decide, by have := k.isLt; have := VMod.xbits_lt q; have := VMod.ctl_lt q; omega⟩ raw_53 (by simp only [decodeOp35, RF.of] at hv ⊢; simp only [hv, fin4_val, h0, decVd_encVd, decVs_encVs, Option.bind_eq_bind, Option.bind_some])
theorem vbfly (q : VMod) (h : Fin 7) (d : VdOp) (a : VsOp) (b : VsOp) : Statement (.vbfly q h d a b) := fun _ _ => by
  have hv := VMod.ofR_of q (0) (encVd d) (encVs a) (encVs b) (0) (h.val) (q.xbits + (h.val) + 2 ^ 12 * q.ctl) (by have := h.isLt; omega) (by omega)
  have h0 : ((q.xbits + (h.val) + 2 ^ 12 * q.ctl) % 2 ^ 12) % 256 = h.val := by have := h.isLt; have := VMod.xbits_lt q; have := VMod.ctl_lt q; omega
  exact round_r rfl ⟨by decide, by decide, encVd_lt d, encVs_lt a, encVs_lt b, by decide, by have := h.isLt; have := VMod.xbits_lt q; have := VMod.ctl_lt q; omega⟩ raw_54 (by simp only [decodeOp36, RF.of] at hv ⊢; simp only [hv, fin7_val, h0, decVd_encVd, decVs_encVs, Option.bind_eq_bind, Option.bind_some])
theorem vgjstep (q : VMod) (n : Fin 3) (p : Fin 8) (d : VdOp) (a : VrOp) : Statement (.vgjstep q n p d a) := fun _ _ => by
  have hv := VMod.ofR_of q (1) (encVd d) (encVr a) (0) (0) (n.val + 4 * p.val) (q.xbits + (n.val + 4 * p.val) + 2 ^ 12 * q.ctl) (by have := n.isLt; have := p.isLt; omega) (by omega)
  have h0 : ((q.xbits + (n.val + 4 * p.val) + 2 ^ 12 * q.ctl) % 2 ^ 12) % 4 = n.val := by have := n.isLt; have := p.isLt; have := VMod.xbits_lt q; have := VMod.ctl_lt q; omega
  have h1 : ((q.xbits + (n.val + 4 * p.val) + 2 ^ 12 * q.ctl) % 2 ^ 12) % 256 / 4 = p.val := by have := n.isLt; have := p.isLt; have := VMod.xbits_lt q; have := VMod.ctl_lt q; omega
  exact round_r rfl ⟨by decide, by decide, encVd_lt d, encVr_lt a, by decide, by decide, by have := n.isLt; have := p.isLt; have := VMod.xbits_lt q; have := VMod.ctl_lt q; omega⟩ raw_54 (by simp only [decodeOp36, RF.of] at hv ⊢; simp only [hv, fin3_val, h0, fin8_val, h1, decVd_encVd, decVr_encVr, Option.bind_eq_bind, Option.bind_some])
theorem vbfpexp (q : VMod) (w : Fin 16) (d : VdOp) (a : VrOp) : Statement (.vbfpexp q w d a) := fun _ _ => by
  have hv := VMod.ofR_of q (2) (encVd d) (encVr a) (0) (0) (w.val) (q.xbits + (w.val) + 2 ^ 12 * q.ctl) (by have := w.isLt; omega) (by omega)
  have h0 : ((q.xbits + (w.val) + 2 ^ 12 * q.ctl) % 2 ^ 12) % 256 = w.val := by have := w.isLt; have := VMod.xbits_lt q; have := VMod.ctl_lt q; omega
  exact round_r rfl ⟨by decide, by decide, encVd_lt d, encVr_lt a, by decide, by decide, by have := w.isLt; have := VMod.xbits_lt q; have := VMod.ctl_lt q; omega⟩ raw_54 (by simp only [decodeOp36, RF.of] at hv ⊢; simp only [hv, fin16_val, h0, decVd_encVd, decVr_encVr, Option.bind_eq_bind, Option.bind_some])
theorem vbfpcmp (q : VMod) (w : Fin 16) (d : VdOp) (a : VrOp) : Statement (.vbfpcmp q w d a) := fun _ _ => by
  have hv := VMod.ofR_of q (3) (encVd d) (encVr a) (0) (0) (w.val) (q.xbits + (w.val) + 2 ^ 12 * q.ctl) (by have := w.isLt; omega) (by omega)
  have h0 : ((q.xbits + (w.val) + 2 ^ 12 * q.ctl) % 2 ^ 12) % 256 = w.val := by have := w.isLt; have := VMod.xbits_lt q; have := VMod.ctl_lt q; omega
  exact round_r rfl ⟨by decide, by decide, encVd_lt d, encVr_lt a, by decide, by decide, by have := w.isLt; have := VMod.xbits_lt q; have := VMod.ctl_lt q; omega⟩ raw_54 (by simp only [decodeOp36, RF.of] at hv ⊢; simp only [hv, fin16_val, h0, decVd_encVd, decVr_encVr, Option.bind_eq_bind, Option.bind_some])
theorem vslideup (q : VMod) (d : VdOp) (a : VrOp) (b : GOp) : Statement (.vslideup q d a b) := fun _ _ => by
  have hv := VMod.ofR_of q (0) (encVd d) (encVr a) (encG b) (0) (0) (q.xbits + (0) + 2 ^ 12 * q.ctl) (by decide) (by omega)
  exact round_r rfl ⟨by decide, by decide, encVd_lt d, encVr_lt a, encG_lt b, by decide, by have := VMod.xbits_lt q; have := VMod.ctl_lt q; omega⟩ raw_55 (by simp only [decodeOp37, RF.of] at hv ⊢; simp only [hv, decVd_encVd, decVr_encVr, decG_encG, Option.bind_eq_bind, Option.bind_some])
theorem vslidedn (q : VMod) (d : VdOp) (a : VrOp) (b : GOp) : Statement (.vslidedn q d a b) := fun _ _ => by
  have hv := VMod.ofR_of q (1) (encVd d) (encVr a) (encG b) (0) (0) (q.xbits + (0) + 2 ^ 12 * q.ctl) (by decide) (by omega)
  exact round_r rfl ⟨by decide, by decide, encVd_lt d, encVr_lt a, encG_lt b, by decide, by have := VMod.xbits_lt q; have := VMod.ctl_lt q; omega⟩ raw_55 (by simp only [decodeOp37, RF.of] at hv ⊢; simp only [hv, decVd_encVd, decVr_encVr, decG_encG, Option.bind_eq_bind, Option.bind_some])
theorem vperm (q : VMod) (d : VdOp) (a : VrOp) (b : VrOp) : Statement (.vperm q d a b) := fun _ _ => by
  have hv := VMod.ofR_of q (2) (encVd d) (encVr a) (encVr b) (0) (0) (q.xbits + (0) + 2 ^ 12 * q.ctl) (by decide) (by omega)
  exact round_r rfl ⟨by decide, by decide, encVd_lt d, encVr_lt a, encVr_lt b, by decide, by have := VMod.xbits_lt q; have := VMod.ctl_lt q; omega⟩ raw_55 (by simp only [decodeOp37, RF.of] at hv ⊢; simp only [hv, decVd_encVd, decVr_encVr, Option.bind_eq_bind, Option.bind_some])
theorem vbcast (q : VMod) (d : VdOp) (a : VrOp) (b : GOp) : Statement (.vbcast q d a b) := fun _ _ => by
  have hv := VMod.ofR_of q (3) (encVd d) (encVr a) (encG b) (0) (0) (q.xbits + (0) + 2 ^ 12 * q.ctl) (by decide) (by omega)
  exact round_r rfl ⟨by decide, by decide, encVd_lt d, encVr_lt a, encG_lt b, by decide, by have := VMod.xbits_lt q; have := VMod.ctl_lt q; omega⟩ raw_55 (by simp only [decodeOp37, RF.of] at hv ⊢; simp only [hv, decVd_encVd, decVr_encVr, decG_encG, Option.bind_eq_bind, Option.bind_some])
theorem vcompress (q : VMod) (d : VdOp) (a : VrOp) (c : MOp) : Statement (.vcompress q d a c) := fun _ _ => by
  have hv := VMod.ofR_of q (4) (encVd d) (encVr a) (0) (encM c) (0) (q.xbits + (0) + 2 ^ 12 * q.ctl) (by decide) (by omega)
  exact round_r rfl ⟨by decide, by decide, encVd_lt d, encVr_lt a, by decide, encM_lt c, by have := VMod.xbits_lt q; have := VMod.ctl_lt q; omega⟩ raw_55 (by simp only [decodeOp37, RF.of] at hv ⊢; simp only [hv, decVd_encVd, decVr_encVr, decM_encM, Option.bind_eq_bind, Option.bind_some])
theorem vexpand (q : VMod) (d : VdOp) (a : VrOp) (c : MOp) : Statement (.vexpand q d a c) := fun _ _ => by
  have hv := VMod.ofR_of q (5) (encVd d) (encVr a) (0) (encM c) (0) (q.xbits + (0) + 2 ^ 12 * q.ctl) (by decide) (by omega)
  exact round_r rfl ⟨by decide, by decide, encVd_lt d, encVr_lt a, by decide, encM_lt c, by have := VMod.xbits_lt q; have := VMod.ctl_lt q; omega⟩ raw_55 (by simp only [decodeOp37, RF.of] at hv ⊢; simp only [hv, decVd_encVd, decVr_encVr, decM_encM, Option.bind_eq_bind, Option.bind_some])
theorem viota (q : VMod) (d : VdOp) (c : MOp) : Statement (.viota q d c) := fun _ _ => by
  have hv := VMod.ofR_of q (6) (encVd d) (0) (0) (encM c) (0) (q.xbits + (0) + 2 ^ 12 * q.ctl) (by decide) (by omega)
  exact round_r rfl ⟨by decide, by decide, encVd_lt d, by decide, by decide, encM_lt c, by have := VMod.xbits_lt q; have := VMod.ctl_lt q; omega⟩ raw_55 (by simp only [decodeOp37, RF.of] at hv ⊢; simp only [hv, decVd_encVd, decM_encM, Option.bind_eq_bind, Option.bind_some])
theorem vzip (q : VMod) (d : VdOp) (a : VrOp) (b : VrOp) : Statement (.vzip q d a b) := fun _ _ => by
  have hv := VMod.ofR_of q (7) (encVd d) (encVr a) (encVr b) (0) (0) (q.xbits + (0) + 2 ^ 12 * q.ctl) (by decide) (by omega)
  exact round_r rfl ⟨by decide, by decide, encVd_lt d, encVr_lt a, encVr_lt b, by decide, by have := VMod.xbits_lt q; have := VMod.ctl_lt q; omega⟩ raw_55 (by simp only [decodeOp37, RF.of] at hv ⊢; simp only [hv, decVd_encVd, decVr_encVr, Option.bind_eq_bind, Option.bind_some])
theorem vunzip (q : VMod) (d : VdOp) (a : VrOp) (b : VrOp) : Statement (.vunzip q d a b) := fun _ _ => by
  have hv := VMod.ofR_of q (8) (encVd d) (encVr a) (encVr b) (0) (0) (q.xbits + (0) + 2 ^ 12 * q.ctl) (by decide) (by omega)
  exact round_r rfl ⟨by decide, by decide, encVd_lt d, encVr_lt a, encVr_lt b, by decide, by have := VMod.xbits_lt q; have := VMod.ctl_lt q; omega⟩ raw_55 (by simp only [decodeOp37, RF.of] at hv ⊢; simp only [hv, decVd_encVd, decVr_encVr, Option.bind_eq_bind, Option.bind_some])
theorem vredsum (q : VMod) (d : VdOp) (a : VrOp) : Statement (.vredsum q d a) := fun _ _ => by
  have hv := VMod.ofR_of q (0) (encVd d) (encVr a) (0) (0) (0) (q.xbits + (0) + 2 ^ 12 * q.ctl) (by decide) (by omega)
  exact round_r rfl ⟨by decide, by decide, encVd_lt d, encVr_lt a, by decide, by decide, by have := VMod.xbits_lt q; have := VMod.ctl_lt q; omega⟩ raw_56 (by simp only [decodeOp38, RF.of] at hv ⊢; simp only [hv, decVd_encVd, decVr_encVr, Option.bind_eq_bind, Option.bind_some])
theorem vredmax (q : VMod) (d : VdOp) (a : VrOp) : Statement (.vredmax q d a) := fun _ _ => by
  have hv := VMod.ofR_of q (1) (encVd d) (encVr a) (0) (0) (0) (q.xbits + (0) + 2 ^ 12 * q.ctl) (by decide) (by omega)
  exact round_r rfl ⟨by decide, by decide, encVd_lt d, encVr_lt a, by decide, by decide, by have := VMod.xbits_lt q; have := VMod.ctl_lt q; omega⟩ raw_56 (by simp only [decodeOp38, RF.of] at hv ⊢; simp only [hv, decVd_encVd, decVr_encVr, Option.bind_eq_bind, Option.bind_some])
theorem vredmin (q : VMod) (d : VdOp) (a : VrOp) : Statement (.vredmin q d a) := fun _ _ => by
  have hv := VMod.ofR_of q (2) (encVd d) (encVr a) (0) (0) (0) (q.xbits + (0) + 2 ^ 12 * q.ctl) (by decide) (by omega)
  exact round_r rfl ⟨by decide, by decide, encVd_lt d, encVr_lt a, by decide, by decide, by have := VMod.xbits_lt q; have := VMod.ctl_lt q; omega⟩ raw_56 (by simp only [decodeOp38, RF.of] at hv ⊢; simp only [hv, decVd_encVd, decVr_encVr, Option.bind_eq_bind, Option.bind_some])
theorem vscan (q : VMod) (d : VdOp) (a : VrOp) : Statement (.vscan q d a) := fun _ _ => by
  have hv := VMod.ofR_of q (3) (encVd d) (encVr a) (0) (0) (0) (q.xbits + (0) + 2 ^ 12 * q.ctl) (by decide) (by omega)
  exact round_r rfl ⟨by decide, by decide, encVd_lt d, encVr_lt a, by decide, by decide, by have := VMod.xbits_lt q; have := VMod.ctl_lt q; omega⟩ raw_56 (by simp only [decodeOp38, RF.of] at hv ⊢; simp only [hv, decVd_encVd, decVr_encVr, Option.bind_eq_bind, Option.bind_some])
theorem mand (d : MOp) (a : MOp) (b : MOp) : Statement (.mand d a b) := fun _ _ => by
  exact round_r rfl ⟨by decide, by decide, encM_lt d, encM_lt a, encM_lt b, by decide, by decide⟩ raw_57 (by simp only [decodeOp39, RF.of, decM_encM, Option.bind_eq_bind, Option.bind_some])
theorem mor (d : MOp) (a : MOp) (b : MOp) : Statement (.mor d a b) := fun _ _ => by
  exact round_r rfl ⟨by decide, by decide, encM_lt d, encM_lt a, encM_lt b, by decide, by decide⟩ raw_57 (by simp only [decodeOp39, RF.of, decM_encM, Option.bind_eq_bind, Option.bind_some])
theorem mxor (d : MOp) (a : MOp) (b : MOp) : Statement (.mxor d a b) := fun _ _ => by
  exact round_r rfl ⟨by decide, by decide, encM_lt d, encM_lt a, encM_lt b, by decide, by decide⟩ raw_57 (by simp only [decodeOp39, RF.of, decM_encM, Option.bind_eq_bind, Option.bind_some])
theorem mandn (d : MOp) (a : MOp) (b : MOp) : Statement (.mandn d a b) := fun _ _ => by
  exact round_r rfl ⟨by decide, by decide, encM_lt d, encM_lt a, encM_lt b, by decide, by decide⟩ raw_57 (by simp only [decodeOp39, RF.of, decM_encM, Option.bind_eq_bind, Option.bind_some])
theorem mshl (d : MOp) (a : MOp) (b : GOp) : Statement (.mshl d a b) := fun _ _ => by
  exact round_r rfl ⟨by decide, by decide, encM_lt d, encM_lt a, encG_lt b, by decide, by decide⟩ raw_57 (by simp only [decodeOp39, RF.of, decM_encM, decG_encG, Option.bind_eq_bind, Option.bind_some])
theorem mpopc (d : GOp) (a : MOp) : Statement (.mpopc d a) := fun _ _ => by
  exact round_r rfl ⟨by decide, by decide, encG_lt d, encM_lt a, by decide, by decide, by decide⟩ raw_57 (by simp only [decodeOp39, RF.of, decG_encG, decM_encM, Option.bind_eq_bind, Option.bind_some])
theorem mfirst (d : GOp) (a : MOp) : Statement (.mfirst d a) := fun _ _ => by
  exact round_r rfl ⟨by decide, by decide, encG_lt d, encM_lt a, by decide, by decide, by decide⟩ raw_57 (by simp only [decodeOp39, RF.of, decG_encG, decM_encM, Option.bind_eq_bind, Option.bind_some])
theorem mset (h : Bool) (d : MOp) (a : GOp) : Statement (.mset h d a) := fun _ _ => by
  have h0 : ((bn h) % 2 ^ 12) = bn h := by have := bn_lt h; omega
  exact round_r rfl ⟨by decide, by decide, encM_lt d, encG_lt a, by decide, by decide, by have := bn_lt h; omega⟩ raw_57 (by simp only [decodeOp39, RF.of, boolF_bn, h0, decM_encM, decG_encG, Option.bind_eq_bind, Option.bind_some])
theorem mget (h : Bool) (d : GOp) (a : MOp) : Statement (.mget h d a) := fun _ _ => by
  have h0 : ((bn h) % 2 ^ 12) = bn h := by have := bn_lt h; omega
  exact round_r rfl ⟨by decide, by decide, encG_lt d, encM_lt a, by decide, by decide, by have := bn_lt h; omega⟩ raw_57 (by simp only [decodeOp39, RF.of, boolF_bn, h0, decG_encG, decM_encM, Option.bind_eq_bind, Option.bind_some])
theorem vprobe (wr : Bool) (tk : Fin 8) (a : GOp) (b : GOp) : Statement (.vprobe wr tk a b) := fun _ _ => by
  have h0 : ((256 * bn wr + 512 * tk.val) % 2 ^ 12) / 256 % 2 = bn wr := by have := bn_lt wr; have := tk.isLt; omega
  have h1 : ((256 * bn wr + 512 * tk.val) % 2 ^ 12) / 512 = tk.val := by have := bn_lt wr; have := tk.isLt; omega
  exact round_r rfl ⟨by decide, by decide, by decide, encG_lt a, encG_lt b, by decide, by have := bn_lt wr; have := tk.isLt; omega⟩ raw_64 (by simp only [decodeOp40, RF.of, boolF_bn, h0, fin8_val, h1, decG_encG, Option.bind_eq_bind, Option.bind_some])
theorem vrelease (tk : Fin 8) : Statement (.vrelease tk) := fun _ _ => by
  have h0 : ((512 * tk.val) % 2 ^ 12) / 512 = tk.val := by have := tk.isLt; omega
  exact round_r rfl ⟨by decide, by decide, by decide, by decide, by decide, by decide, by have := tk.isLt; omega⟩ raw_65 (by simp only [decodeOp41, RF.of, fin8_val, h0, Option.bind_eq_bind, Option.bind_some])
theorem vld (x : MemX) (d : VdOp) (a : GOp) (b : GOp) : Statement (.vld x d a b) := fun _ _ => by
  have hx := MemX.ofR_of x ((0) + 32 * x.t.code) (encVd d) (encG a) (encG b) (0) (by have := Tick.code_lt x.t; omega)
  exact round_r rfl ⟨by decide, by have := Tick.code_lt x.t; omega, encVd_lt d, encG_lt a, encG_lt b, by decide, by have := MemX.xbits_lt x; have := MemX.ctl_lt x; omega⟩ raw_66 (by simp only [decodeOp42, RF.of] at hx ⊢; simp only [hx, decVd_encVd, decG_encG, Option.bind_eq_bind, Option.bind_some])
theorem vst (x : MemX) (d : VrOp) (a : GOp) (b : GOp) : Statement (.vst x d a b) := fun _ _ => by
  have hx := MemX.ofR_of x ((0) + 32 * x.t.code) (encVr d) (encG a) (encG b) (0) (by have := Tick.code_lt x.t; omega)
  exact round_r rfl ⟨by decide, by have := Tick.code_lt x.t; omega, encVr_lt d, encG_lt a, encG_lt b, by decide, by have := MemX.xbits_lt x; have := MemX.ctl_lt x; omega⟩ raw_67 (by simp only [decodeOp43, RF.of] at hx ⊢; simp only [hx, decVr_encVr, decG_encG, Option.bind_eq_bind, Option.bind_some])
theorem vldx (x : MemX) (d : VdOp) (a : GOp) (b : VrOp) : Statement (.vldx x d a b) := fun _ _ => by
  have hx := MemX.ofR_of x ((0) + 32 * x.t.code) (encVd d) (encG a) (encVr b) (0) (by have := Tick.code_lt x.t; omega)
  exact round_r rfl ⟨by decide, by have := Tick.code_lt x.t; omega, encVd_lt d, encG_lt a, encVr_lt b, by decide, by have := MemX.xbits_lt x; have := MemX.ctl_lt x; omega⟩ raw_68 (by simp only [decodeOp44, RF.of] at hx ⊢; simp only [hx, decVd_encVd, decG_encG, decVr_encVr, Option.bind_eq_bind, Option.bind_some])
theorem vstx (x : MemX) (d : VrOp) (a : GOp) (b : VrOp) : Statement (.vstx x d a b) := fun _ _ => by
  have hx := MemX.ofR_of x ((0) + 32 * x.t.code) (encVr d) (encG a) (encVr b) (0) (by have := Tick.code_lt x.t; omega)
  exact round_r rfl ⟨by decide, by have := Tick.code_lt x.t; omega, encVr_lt d, encG_lt a, encVr_lt b, by decide, by have := MemX.xbits_lt x; have := MemX.ctl_lt x; omega⟩ raw_69 (by simp only [decodeOp45, RF.of] at hx ⊢; simp only [hx, decVr_encVr, decG_encG, Option.bind_eq_bind, Option.bind_some])
theorem vlds (x : MemX) (d : VdOp) (a : GOp) (b : GOp) : Statement (.vlds x d a b) := fun _ _ => by
  have hx := MemX.ofR_of x ((0) + 32 * x.t.code) (encVd d) (encG a) (encG b) (0) (by have := Tick.code_lt x.t; omega)
  exact round_r rfl ⟨by decide, by have := Tick.code_lt x.t; omega, encVd_lt d, encG_lt a, encG_lt b, by decide, by have := MemX.xbits_lt x; have := MemX.ctl_lt x; omega⟩ raw_70 (by simp only [decodeOp46, RF.of] at hx ⊢; simp only [hx, decVd_encVd, decG_encG, Option.bind_eq_bind, Option.bind_some])
theorem vsts (x : MemX) (d : VrOp) (a : GOp) (b : GOp) : Statement (.vsts x d a b) := fun _ _ => by
  have hx := MemX.ofR_of x ((0) + 32 * x.t.code) (encVr d) (encG a) (encG b) (0) (by have := Tick.code_lt x.t; omega)
  exact round_r rfl ⟨by decide, by have := Tick.code_lt x.t; omega, encVr_lt d, encG_lt a, encG_lt b, by decide, by have := MemX.xbits_lt x; have := MemX.ctl_lt x; omega⟩ raw_71 (by simp only [decodeOp47, RF.of] at hx ⊢; simp only [hx, decVr_encVr, decG_encG, Option.bind_eq_bind, Option.bind_some])
theorem vldsx (x : MemX) (d : VdOp) (a : GOp) (b : VrOp) : Statement (.vldsx x d a b) := fun _ _ => by
  have hx := MemX.ofR_of x ((0) + 32 * x.t.code) (encVd d) (encG a) (encVr b) (0) (by have := Tick.code_lt x.t; omega)
  exact round_r rfl ⟨by decide, by have := Tick.code_lt x.t; omega, encVd_lt d, encG_lt a, encVr_lt b, by decide, by have := MemX.xbits_lt x; have := MemX.ctl_lt x; omega⟩ raw_72 (by simp only [decodeOp48, RF.of] at hx ⊢; simp only [hx, decVd_encVd, decG_encG, decVr_encVr, Option.bind_eq_bind, Option.bind_some])
theorem vstsx (x : MemX) (d : VrOp) (a : GOp) (b : VrOp) : Statement (.vstsx x d a b) := fun _ _ => by
  have hx := MemX.ofR_of x ((0) + 32 * x.t.code) (encVr d) (encG a) (encVr b) (0) (by have := Tick.code_lt x.t; omega)
  exact round_r rfl ⟨by decide, by have := Tick.code_lt x.t; omega, encVr_lt d, encG_lt a, encVr_lt b, by decide, by have := MemX.xbits_lt x; have := MemX.ctl_lt x; omega⟩ raw_73 (by simp only [decodeOp49, RF.of] at hx ⊢; simp only [hx, decVr_encVr, decG_encG, Option.bind_eq_bind, Option.bind_some])
theorem vlds2 (x : MemX) (d : VdOp) (a : GOp) (b : GOp) (c : VdOp) : Statement (.vlds2 x d a b c) := fun _ _ => by
  have hx := MemX.ofR_of x ((0) + 32 * x.t.code) (encVd d) (encG a) (encG b) (encVd c) (by have := Tick.code_lt x.t; omega)
  exact round_r rfl ⟨by decide, by have := Tick.code_lt x.t; omega, encVd_lt d, encG_lt a, encG_lt b, encVd_lt c, by have := MemX.xbits_lt x; have := MemX.ctl_lt x; omega⟩ raw_74 (by simp only [decodeOp4A, RF.of] at hx ⊢; simp only [hx, decVd_encVd, decG_encG, Option.bind_eq_bind, Option.bind_some])
theorem vsts2 (x : MemX) (d : VrOp) (a : GOp) (b : GOp) (c : VrOp) : Statement (.vsts2 x d a b c) := fun _ _ => by
  have hx := MemX.ofR_of x ((0) + 32 * x.t.code) (encVr d) (encG a) (encG b) (encVr c) (by have := Tick.code_lt x.t; omega)
  exact round_r rfl ⟨by decide, by have := Tick.code_lt x.t; omega, encVr_lt d, encG_lt a, encG_lt b, encVr_lt c, by have := MemX.xbits_lt x; have := MemX.ctl_lt x; omega⟩ raw_75 (by simp only [decodeOp4B, RF.of] at hx ⊢; simp only [hx, decVr_encVr, decG_encG, Option.bind_eq_bind, Option.bind_some])
theorem sbind (d : VbOp) (a : Fin 48) : Statement (.sbind d a) := fun _ _ => by
  exact round_r rfl ⟨by decide, by decide, encVb_lt d, encVm_lt a, by decide, by decide, by decide⟩ raw_76 (by simp only [decodeOp4C, RF.of, decVb_encVb, decVm_encVm, Option.bind_eq_bind, Option.bind_some])
theorem sunbind (d : VbOp) : Statement (.sunbind d) := fun _ _ => by
  exact round_r rfl ⟨by decide, by decide, encVb_lt d, by decide, by decide, by decide, by decide⟩ raw_77 (by simp only [decodeOp4D, RF.of, decVb_encVb, Option.bind_eq_bind, Option.bind_some])
theorem sstat (d : GOp) (a : VbOp) : Statement (.sstat d a) := fun _ _ => by
  exact round_r rfl ⟨by decide, by decide, encG_lt d, encVb_lt a, by decide, by decide, by decide⟩ raw_78 (by simp only [decodeOp4E, RF.of, decG_encG, decVb_encVb, Option.bind_eq_bind, Option.bind_some])
theorem vamo (op : AmoOp) (x : MemX) (d : VdOp) (a : GOp) (b : VrOp) (c : VsOp) : Statement (.vamo op x d a b c) := fun _ _ => by
  have hx := MemX.ofR_of x ((op.code) + 32 * x.t.code) (encVd d) (encG a) (encVr b) (encVs c) (by have := AmoOp.code_lt op; have := Tick.code_lt x.t; omega)
  have h0 : ((op.code) + 32 * x.t.code) % 32 = op.code := by have := AmoOp.code_lt op; have := Tick.code_lt x.t; omega
  exact round_r rfl ⟨by decide, by have := AmoOp.code_lt op; have := Tick.code_lt x.t; omega, encVd_lt d, encG_lt a, encVr_lt b, encVs_lt c, by have := MemX.xbits_lt x; have := MemX.ctl_lt x; omega⟩ raw_80 (by simp only [decodeOp50, RF.of] at hx ⊢; simp only [hx, AmoOp.ofCode_code, h0, decVd_encVd, decG_encG, decVr_encVr, decVs_encVs, Option.bind_eq_bind, Option.bind_some])
theorem vsta (op : AmoOp) (x : MemX) (a : GOp) (b : VrOp) (c : VrOp) : Statement (.vsta op x a b c) := fun _ _ => by
  have hx := MemX.ofR_of x ((op.code) + 32 * x.t.code) (0) (encG a) (encVr b) (encVr c) (by have := AmoOp.code_lt op; have := Tick.code_lt x.t; omega)
  have h0 : ((op.code) + 32 * x.t.code) % 32 = op.code := by have := AmoOp.code_lt op; have := Tick.code_lt x.t; omega
  exact round_r rfl ⟨by decide, by have := AmoOp.code_lt op; have := Tick.code_lt x.t; omega, by decide, encG_lt a, encVr_lt b, encVr_lt c, by have := MemX.xbits_lt x; have := MemX.ctl_lt x; omega⟩ raw_81 (by simp only [decodeOp51, RF.of] at hx ⊢; simp only [hx, AmoOp.ofCode_code, h0, decG_encG, decVr_encVr, Option.bind_eq_bind, Option.bind_some])
theorem vwaitc (cc : FCond) (x : MemX) (d : MOp) (a : GOp) (b : GOp) (c : VsOp) : Statement (.vwaitc cc x d a b c) := fun _ _ => by
  have hx := MemX.ofR_of x ((cc.code) + 32 * x.t.code) (encM d) (encG a) (encG b) (encVs c) (by have := FCond.code_lt cc; have := Tick.code_lt x.t; omega)
  have h0 : ((cc.code) + 32 * x.t.code) % 32 = cc.code := by have := FCond.code_lt cc; have := Tick.code_lt x.t; omega
  exact round_r rfl ⟨by decide, by have := FCond.code_lt cc; have := Tick.code_lt x.t; omega, encM_lt d, encG_lt a, encG_lt b, encVs_lt c, by have := MemX.xbits_lt x; have := MemX.ctl_lt x; omega⟩ raw_82 (by simp only [decodeOp52, RF.of] at hx ⊢; simp only [hx, FCond.ofCode_code, h0, decM_encM, decG_encG, decVs_encVs, Option.bind_eq_bind, Option.bind_some])
theorem tseal : Statement (.tseal) := fun _ _ => by
  exact round_r rfl ⟨by decide, by decide, by decide, by decide, by decide, by decide, by decide⟩ raw_83 (by rfl)
theorem twait (t : Tick) (a : GOp) (b : GOp) : Statement (.twait t a b) := fun hw _ => by
  have h0 : (32 * t.code) / 32 = t.code := by have := Tick.code_lt t; omega
  exact round_r rfl ⟨by decide, by have := Tick.code_lt t; omega, by decide, encG_lt a, by split; exacts [encG_lt b, by decide], by decide, by decide⟩ raw_84 (by simp only [decodeOp54, RF.of, h0, Tick.ofCode_code, decG_encG, Option.bind_eq_bind, Option.bind_some]; by_cases ht : t = .tt <;> simp [Instr.wf, ht] at hw <;> simp_all [decG_encG])
theorem macq (d : GOp) (n : Fin 4) : Statement (.macq d n) := fun _ _ => by
  have h0 : (n.val) % 4 = n.val := by have := n.isLt; omega
  exact round_r rfl ⟨by decide, by have := n.isLt; omega, encG_lt d, by decide, by decide, by decide, by decide⟩ raw_88 (by simp only [decodeOp58, RF.of, decG_encG, fin4_val, h0, Option.bind_eq_bind, Option.bind_some])
theorem mrel (n : Fin 4) : Statement (.mrel n) := fun _ _ => by
  have h0 : (n.val) % 4 = n.val := by have := n.isLt; omega
  exact round_r rfl ⟨by decide, by have := n.isLt; omega, by decide, by decide, by decide, by decide, by decide⟩ raw_89 (by simp only [decodeOp59, RF.of, fin4_val, h0, Option.bind_eq_bind, Option.bind_some])
theorem mzero (n : Fin 4) : Statement (.mzero n) := fun _ _ => by
  have h0 : (n.val) % 4 = n.val := by have := n.isLt; omega
  exact round_r rfl ⟨by decide, by have := n.isLt; omega, by decide, by decide, by decide, by decide, by decide⟩ raw_90 (by simp only [decodeOp5A, RF.of, fin4_val, h0, Option.bind_eq_bind, Option.bind_some])
theorem mopa (q : VMod) (cj : Bool) (n : Fin 4) (a : VrOp) (b : VrOp) : Statement (.mopa q cj n a b) := fun _ _ => by
  have hv := VMod.ofR_of q (n.val + 4 * bn cj) (0) (encVr a) (encVr b) (0) (0) (q.xbits + 2 ^ 12 * q.ctl) (by decide) (by omega)
  have h0 : (n.val + 4 * bn cj) / 4 = bn cj := by have := bn_lt cj; have := n.isLt; omega
  have h1 : (n.val + 4 * bn cj) % 4 = n.val := by have := bn_lt cj; have := n.isLt; omega
  exact round_r rfl ⟨by decide, by have := bn_lt cj; have := n.isLt; omega, by decide, encVr_lt a, encVr_lt b, by decide, by have := VMod.xbits_lt q; have := VMod.ctl_lt q; omega⟩ raw_91 (by simp only [decodeOp5B, RF.of] at hv ⊢; simp only [hv, boolF_bn, h0, fin4_val, h1, decVr_encVr, Option.bind_eq_bind, Option.bind_some])
theorem mrd (col : Bool) (d : VdOp) (n : Fin 4) (a : GOp) : Statement (.mrd col d n a) := fun _ _ => by
  have h0 : (n.val + 4 * bn col) / 4 = bn col := by have := bn_lt col; have := n.isLt; omega
  have h1 : (n.val + 4 * bn col) % 4 = n.val := by have := bn_lt col; have := n.isLt; omega
  exact round_r rfl ⟨by decide, by have := bn_lt col; have := n.isLt; omega, encVd_lt d, encG_lt a, by decide, by decide, by decide⟩ raw_92 (by simp only [decodeOp5C, RF.of, boolF_bn, h0, decVd_encVd, fin4_val, h1, decG_encG, Option.bind_eq_bind, Option.bind_some])
theorem mwr (q : VMod) (col : Bool) (n : Fin 4) (a : VrOp) (b : GOp) : Statement (.mwr q col n a b) := fun _ _ => by
  have hv := VMod.ofR_of q (n.val + 4 * bn col) (0) (encVr a) (encG b) (0) (0) (q.xbits + 2 ^ 12 * q.ctl) (by decide) (by omega)
  have h0 : (n.val + 4 * bn col) / 4 = bn col := by have := bn_lt col; have := n.isLt; omega
  have h1 : (n.val + 4 * bn col) % 4 = n.val := by have := bn_lt col; have := n.isLt; omega
  exact round_r rfl ⟨by decide, by have := bn_lt col; have := n.isLt; omega, by decide, encVr_lt a, encG_lt b, by decide, by have := VMod.xbits_lt q; have := VMod.ctl_lt q; omega⟩ raw_93 (by simp only [decodeOp5D, RF.of] at hv ⊢; simp only [hv, boolF_bn, h0, fin4_val, h1, decVr_encVr, decG_encG, Option.bind_eq_bind, Option.bind_some])
theorem mst (x : MemX) (sp : Bool) (n : Fin 4) (a : GOp) (b : GOp) : Statement (.mst x sp n a b) := fun hw _ => by
  have ht : x.t = .no := MemX.no_tick (by first | exact hw | (simp only [Instr.wf, Bool.and_eq_true] at hw; exact hw.1.1.1.1))
  have hx := MemX.ofR_of x 0 (0) (encG a) (encG b) (0) (by rw [ht]; rfl)
  have h0 : (n.val + 4 * bn sp) / 4 = bn sp := by have := bn_lt sp; have := n.isLt; omega
  have h1 : (n.val + 4 * bn sp) % 4 = n.val := by have := bn_lt sp; have := n.isLt; omega
  exact round_r rfl ⟨by decide, by have := bn_lt sp; have := n.isLt; omega, by decide, encG_lt a, encG_lt b, by decide, by have := MemX.xbits_lt x; have := MemX.ctl_lt x; omega⟩ raw_94 (by simp only [decodeOp5E, RF.setFn, RF.of] at hx ⊢; simp only [hx, boolF_bn, h0, fin4_val, h1, decG_encG, Option.bind_eq_bind, Option.bind_some])
theorem mldt (x : MemX) (sp : Bool) (n : Fin 4) (a : GOp) (b : GOp) : Statement (.mldt x sp n a b) := fun hw _ => by
  have ht : x.t = .no := MemX.no_tick (by first | exact hw | (simp only [Instr.wf, Bool.and_eq_true] at hw; exact hw.1.1.1.1))
  have hx := MemX.ofR_of x 0 (0) (encG a) (encG b) (0) (by rw [ht]; rfl)
  have h0 : (n.val + 4 * bn sp) / 4 = bn sp := by have := bn_lt sp; have := n.isLt; omega
  have h1 : (n.val + 4 * bn sp) % 4 = n.val := by have := bn_lt sp; have := n.isLt; omega
  exact round_r rfl ⟨by decide, by have := bn_lt sp; have := n.isLt; omega, by decide, encG_lt a, encG_lt b, by decide, by have := MemX.xbits_lt x; have := MemX.ctl_lt x; omega⟩ raw_95 (by simp only [decodeOp5F, RF.setFn, RF.of] at hx ⊢; simp only [hx, boolF_bn, h0, fin4_val, h1, decG_encG, Option.bind_eq_bind, Option.bind_some])
theorem mscale (q : VMod) (n : Fin 4) (a : VsOp) (b : VsOp) : Statement (.mscale q n a b) := fun _ _ => by
  have hv := VMod.ofR_of q (n.val) (0) (encVs a) (encVs b) (0) (0) (q.xbits + 2 ^ 12 * q.ctl) (by decide) (by omega)
  have h0 : (n.val) % 4 = n.val := by have := n.isLt; omega
  exact round_r rfl ⟨by decide, by have := n.isLt; omega, by decide, encVs_lt a, encVs_lt b, by decide, by have := VMod.xbits_lt q; have := VMod.ctl_lt q; omega⟩ raw_96 (by simp only [decodeOp60, RF.of] at hv ⊢; simp only [hv, fin4_val, h0, decVs_encVs, Option.bind_eq_bind, Option.bind_some])
theorem pgopen (d : GOp) (a : Fin 48) : Statement (.pgopen d a) := fun _ _ => by
  exact round_r rfl ⟨by decide, by decide, encG_lt d, encVm_lt a, by decide, by decide, by decide⟩ raw_98 (by simp only [decodeOp62, RF.of, decG_encG, decVm_encVm, Option.bind_eq_bind, Option.bind_some])
theorem pgsub (q : VMod) (d : GOp) (a : VrOp) (b : Fin 48) (c : GOp) : Statement (.pgsub q d a b c) := fun _ _ => by
  have hv := VMod.ofR_of q (0) (encG d) (encVr a) (encVm b) (encG c) (0) (q.xbits + 2 ^ 12 * q.ctl) (by decide) (by omega)
  exact round_r rfl ⟨by decide, by decide, encG_lt d, encVr_lt a, encVm_lt b, encG_lt c, by have := VMod.xbits_lt q; have := VMod.ctl_lt q; omega⟩ raw_99 (by simp only [decodeOp63, RF.of] at hv ⊢; simp only [hv, decG_encG, decVr_encVr, decVm_encVm, Option.bind_eq_bind, Option.bind_some])
theorem pgclose (a : GOp) : Statement (.pgclose a) := fun _ _ => by
  exact round_r rfl ⟨by decide, by decide, by decide, encG_lt a, by decide, by decide, by decide⟩ raw_100 (by simp only [decodeOp64, RF.of, decG_encG, Option.bind_eq_bind, Option.bind_some])
theorem pgmerge (q : VMod) (a : VrOp) (b : GOp) (c : GOp) : Statement (.pgmerge q a b c) := fun _ _ => by
  have hv := VMod.ofR_of q (0) (0) (encVr a) (encG b) (encG c) (0) (q.xbits + 2 ^ 12 * q.ctl) (by decide) (by omega)
  exact round_r rfl ⟨by decide, by decide, by decide, encVr_lt a, encG_lt b, encG_lt c, by have := VMod.xbits_lt q; have := VMod.ctl_lt q; omega⟩ raw_101 (by simp only [decodeOp65, RF.of] at hv ⊢; simp only [hv, decVr_encVr, decG_encG, Option.bind_eq_bind, Option.bind_some])
theorem pgstat (d : GOp) (a : GOp) (which : Fin 9) : Statement (.pgstat d a which) := fun _ _ => by
  have h0 : ((which.val) % 2 ^ 12) = which.val := by have := which.isLt; omega
  exact round_r rfl ⟨by decide, by decide, encG_lt d, encG_lt a, by decide, by decide, by have := which.isLt; omega⟩ raw_102 (by simp only [decodeOp66, RF.of, decG_encG, fin9_val, h0, Option.bind_eq_bind, Option.bind_some])
theorem binit (n : Fin 32) (a : GOp) (b : GOp) : Statement (.binit n a b) := fun _ _ => by
  have h0 : ((n.val) % 2 ^ 12) = n.val := by have := n.isLt; omega
  exact round_r rfl ⟨by decide, by decide, by decide, encG_lt a, encG_lt b, by decide, by have := n.isLt; omega⟩ raw_104 (by simp only [decodeOp68, RF.of, fin32_val, h0, decG_encG, Option.bind_eq_bind, Option.bind_some])
theorem barrive (n : Fin 32) : Statement (.barrive n) := fun _ _ => by
  have h0 : ((n.val) % 2 ^ 12) = n.val := by have := n.isLt; omega
  exact round_r rfl ⟨by decide, by decide, by decide, by decide, by decide, by decide, by have := n.isLt; omega⟩ raw_105 (by simp only [decodeOp69, RF.of, fin32_val, h0, Option.bind_eq_bind, Option.bind_some])
theorem bexpect (n : Fin 32) (a : GOp) : Statement (.bexpect n a) := fun _ _ => by
  have h0 : ((n.val) % 2 ^ 12) = n.val := by have := n.isLt; omega
  exact round_r rfl ⟨by decide, by decide, by decide, encG_lt a, by decide, by decide, by have := n.isLt; omega⟩ raw_106 (by simp only [decodeOp6A, RF.of, fin32_val, h0, decG_encG, Option.bind_eq_bind, Option.bind_some])
theorem bwait (n : Fin 32) : Statement (.bwait n) := fun _ _ => by
  have h0 : ((n.val) % 2 ^ 12) = n.val := by have := n.isLt; omega
  exact round_r rfl ⟨by decide, by decide, by decide, by decide, by decide, by decide, by have := n.isLt; omega⟩ raw_107 (by simp only [decodeOp6B, RF.of, fin32_val, h0, Option.bind_eq_bind, Option.bind_some])
theorem btest (d : GOp) (n : Fin 32) : Statement (.btest d n) := fun _ _ => by
  have h0 : ((n.val) % 2 ^ 12) = n.val := by have := n.isLt; omega
  exact round_r rfl ⟨by decide, by decide, encG_lt d, by decide, by decide, by decide, by have := n.isLt; omega⟩ raw_108 (by simp only [decodeOp6C, RF.of, decG_encG, fin32_val, h0, Option.bind_eq_bind, Option.bind_some])
theorem tcopy (a : Fin 48) : Statement (.tcopy a) := fun _ _ => by
  exact round_r rfl ⟨by decide, by decide, by decide, encVm_lt a, by decide, by decide, by decide⟩ raw_109 (by simp only [decodeOp6D, RF.of, decVm_encVm, Option.bind_eq_bind, Option.bind_some])
theorem ringcfg (r : Fin 8) (a : GOp) : Statement (.ringcfg r a) := fun _ _ => by
  have h0 : ((r.val) % 2 ^ 12) = r.val := by have := r.isLt; omega
  exact round_r rfl ⟨by decide, by decide, by decide, encG_lt a, by decide, by decide, by have := r.isLt; omega⟩ raw_112 (by simp only [decodeOp70, RF.of, fin8_val, h0, decG_encG, Option.bind_eq_bind, Option.bind_some])
theorem rcommit (r : Fin 8) (a : GOp) : Statement (.rcommit r a) := fun _ _ => by
  have h0 : ((r.val) % 2 ^ 12) = r.val := by have := r.isLt; omega
  exact round_r rfl ⟨by decide, by decide, by decide, encG_lt a, by decide, by decide, by have := r.isLt; omega⟩ raw_113 (by simp only [decodeOp71, RF.of, fin8_val, h0, decG_encG, Option.bind_eq_bind, Option.bind_some])
theorem rwait (r : Fin 8) : Statement (.rwait r) := fun _ _ => by
  have h0 : ((r.val) % 2 ^ 12) = r.val := by have := r.isLt; omega
  exact round_r rfl ⟨by decide, by decide, by decide, by decide, by decide, by decide, by have := r.isLt; omega⟩ raw_114 (by simp only [decodeOp72, RF.of, fin8_val, h0, Option.bind_eq_bind, Option.bind_some])
theorem rrelease (r : Fin 8) : Statement (.rrelease r) := fun _ _ => by
  have h0 : ((r.val) % 2 ^ 12) = r.val := by have := r.isLt; omega
  exact round_r rfl ⟨by decide, by decide, by decide, by decide, by decide, by decide, by have := r.isLt; omega⟩ raw_115 (by simp only [decodeOp73, RF.of, fin8_val, h0, Option.bind_eq_bind, Option.bind_some])
theorem rstat (d : GOp) (r : Fin 8) (which : Fin 4) : Statement (.rstat d r which) := fun _ _ => by
  have h0 : ((r.val + 8 * which.val) % 2 ^ 12) % 8 = r.val := by have := r.isLt; have := which.isLt; omega
  have h1 : ((r.val + 8 * which.val) % 2 ^ 12) / 8 = which.val := by have := r.isLt; have := which.isLt; omega
  exact round_r rfl ⟨by decide, by decide, encG_lt d, by decide, by decide, by decide, by have := r.isLt; have := which.isLt; omega⟩ raw_116 (by simp only [decodeOp74, RF.of, decG_encG, fin8_val, h0, fin4_val, h1, Option.bind_eq_bind, Option.bind_some])
theorem csubmit (cls : Fin 3) (a : Fin 48) : Statement (.csubmit cls a) := fun _ _ => by
  exact round_r rfl ⟨by decide, by have := cls.isLt; omega, by decide, encVm_lt a, by decide, by decide, by decide⟩ raw_117 (by simp only [decodeOp75, RF.of, fin3_val, decVm_encVm, Option.bind_eq_bind, Option.bind_some])
theorem fhtx (a : Fin 48) : Statement (.fhtx a) := fun _ _ => by
  exact round_r rfl ⟨by decide, by decide, by decide, encVm_lt a, by decide, by decide, by decide⟩ raw_118 (by simp only [decodeOp76, RF.of, decVm_encVm, Option.bind_eq_bind, Option.bind_some])
theorem copyBytesLand (copy : Nat) (n : Nat) : Statement (.copyBytesLand copy n) := fun _ h => nomatch h
theorem copyComplete (copy : Nat) : Statement (.copyComplete copy) := fun _ h => nomatch h
theorem codingCommandStart (cmd : Nat) : Statement (.codingCommandStart cmd) := fun _ h => nomatch h
theorem codingCommandComplete (cmd : Nat) : Statement (.codingCommandComplete cmd) := fun _ h => nomatch h
theorem fronthaulSend (tx : Nat) : Statement (.fronthaulSend tx) := fun _ h => nomatch h
theorem frameReceive (port : Fin 8) (fr : Frame) : Statement (.frameReceive port fr) := fun _ h => nomatch h
theorem hostQueueTransmit (port : Fin 8) : Statement (.hostQueueTransmit port) := fun _ h => nomatch h
theorem sweepStart (ctx : Fin 4) : Statement (.sweepStart ctx) := fun _ h => nomatch h
theorem pageFetch (ctx : Fin 4) : Statement (.pageFetch ctx) := fun _ h => nomatch h
theorem pageDelivery (ctx : Fin 4) (page : Nat) (sb : Nat) : Statement (.pageDelivery ctx page sb) := fun _ h => nomatch h
theorem caskOverflow (h : HartId) : Statement (.caskOverflow h) := fun _ h => nomatch h
theorem sweepEnd (ctx : Fin 4) : Statement (.sweepEnd ctx) := fun _ h => nomatch h
theorem launchTailWrite (p : Fin 3) (vf : Fin 64) (tail : BitVec 32) : Statement (.launchTailWrite p vf tail) := fun _ h => nomatch h
theorem launchWindowTake (p : Fin 3) (vf : Fin 64) : Statement (.launchWindowTake p vf) := fun _ h => nomatch h
theorem channelMessageTake (p : Fin 3) (ch : Fin 256) : Statement (.channelMessageTake p ch) := fun _ h => nomatch h
theorem taskTableWrite (p : Fin 3) (ch : Fin 256) (q0 : BitVec 64) (q1 : BitVec 64) (q2 : BitVec 64) (q3 : BitVec 64) : Statement (.taskTableWrite p ch q0 q1 q2 q3) := fun _ h => nomatch h
theorem gangPlace (p : Fin 3) : Statement (.gangPlace p) := fun _ h => nomatch h
theorem hartFrameSave (h : HartId) : Statement (.hartFrameSave h) := fun _ h => nomatch h
theorem gangFrameSave (gang : Nat) : Statement (.gangFrameSave gang) := fun _ h => nomatch h
theorem lightPreemption (core : Fin 64) : Statement (.lightPreemption core) := fun _ h => nomatch h
theorem lightPreemptionResume (core : Fin 64) : Statement (.lightPreemptionResume core) := fun _ h => nomatch h
theorem scratchpadClear (core : Fin 64) : Statement (.scratchpadClear core) := fun _ h => nomatch h
theorem gangRelease (gang : Nat) : Statement (.gangRelease gang) := fun _ h => nomatch h
theorem comparisonTick : Statement (.comparisonTick) := fun _ h => nomatch h
theorem abandonComplete (p : Fin 3) (job : Nat) : Statement (.abandonComplete p job) := fun _ h => nomatch h
theorem jobEnd (p : Fin 3) (job : Nat) : Statement (.jobEnd p job) := fun _ h => nomatch h
theorem commitRightPass (p : Fin 3) (job : Nat) (tree : Bool) : Statement (.commitRightPass p job tree) := fun _ h => nomatch h
theorem commitSpill (h : HartId) : Statement (.commitSpill h) := fun _ h => nomatch h
theorem blockedHartResume (h : HartId) : Statement (.blockedHartResume h) := fun _ h => nomatch h
theorem waitWatchdog (h : HartId) : Statement (.waitWatchdog h) := fun _ h => nomatch h
theorem wfeTimeout (h : HartId) : Statement (.wfeTimeout h) := fun _ h => nomatch h
theorem vwaitcTimeout (h : HartId) : Statement (.vwaitcTimeout h) := fun _ h => nomatch h
theorem lockHoldWatchdog (h : HartId) : Statement (.lockHoldWatchdog h) := fun _ h => nomatch h
theorem handlerWatchdog (h : HartId) : Statement (.handlerWatchdog h) := fun _ h => nomatch h
theorem addressBreakpoint (h : HartId) : Statement (.addressBreakpoint h) := fun _ h => nomatch h
theorem singleStep (h : HartId) : Statement (.singleStep h) := fun _ h => nomatch h
theorem pinGraceExpiry (inv : Nat) : Statement (.pinGraceExpiry inv) := fun _ h => nomatch h
theorem kill (h : HartId) : Statement (.kill h) := fun _ h => nomatch h
theorem hostq (h : HartId) : Statement (.hostq h) := fun _ h => nomatch h
theorem hostqTimeout (h : HartId) : Statement (.hostqTimeout h) := fun _ h => nomatch h
theorem log (h : HartId) : Statement (.log h) := fun _ h => nomatch h
theorem abandon (h : HartId) : Statement (.abandon h) := fun _ h => nomatch h
theorem info (h : HartId) : Statement (.info h) := fun _ h => nomatch h
theorem faultQueueReply (p : Fin 3) (vf : Fin 64) (seq : BitVec 32) : Statement (.faultQueueReply p vf seq) := fun _ h => nomatch h
theorem invalidatePage (p : Fin 3) (vf : Fin 64) (va : BitVec 56) : Statement (.invalidatePage p vf va) := fun _ h => nomatch h
theorem invalidateFunction (p : Fin 3) (vf : Fin 64) : Statement (.invalidateFunction p vf) := fun _ h => nomatch h
theorem invalidationComplete (p : Fin 3) (vf : Fin 64) : Statement (.invalidationComplete p vf) := fun _ h => nomatch h
theorem jobKillRequest (p : Fin 3) (vf : Fin 64) (job : BitVec 40) : Statement (.jobKillRequest p vf job) := fun _ h => nomatch h
theorem functionConfigWrite (p : Fin 3) (vf : Fin 64) (off : BitVec 16) (v : BitVec 64) : Statement (.functionConfigWrite p vf off v) := fun _ h => nomatch h
theorem arenaGrant (p : Fin 3) (vf : Fin 64) (n : Fin 4) (v : BitVec 64) : Statement (.arenaGrant p vf n v) := fun _ h => nomatch h
theorem placementEntryWrite (p : Fin 3) (port : Fin 8) (n : Fin 1024) (q0 : BitVec 64) (q1 : BitVec 64) (q2 : BitVec 64) (q3 : BitVec 64) : Statement (.placementEntryWrite p port n q0 q1 q2 q3) := fun _ h => nomatch h
theorem flowEntryWrite (p : Fin 3) (port : Fin 8) (n : Fin 512) (q0 : BitVec 64) (q1 : BitVec 64) (q2 : BitVec 64) (q3 : BitVec 64) : Statement (.flowEntryWrite p port n q0 q1 q2 q3) := fun _ h => nomatch h
theorem portConfigWrite (p : Fin 3) (port : Fin 8) (off : BitVec 16) (v : BitVec 64) : Statement (.portConfigWrite p port off v) := fun _ h => nomatch h
theorem tset (p : Fin 3) (v : BitVec 64) : Statement (.tset p v) := fun _ h => nomatch h
theorem toff (p : Fin 3) (v : BitVec 64) : Statement (.toff p v) := fun _ h => nomatch h
theorem holdoverTimeout : Statement (.holdoverTimeout) := fun _ h => nomatch h
theorem hostMemoryAccess (p : Fin 3) (acc : ExtAcc) : Statement (.hostMemoryAccess p acc) := fun _ h => nomatch h
theorem hostErrorCompletion (wr : Bool) (pa : Nat) : Statement (.hostErrorCompletion wr pa) := fun _ h => nomatch h
theorem twinAccess (acc : ExtAcc) : Statement (.twinAccess acc) := fun _ h => nomatch h
theorem hostLinkTrain (gen : BitVec 4) (width : BitVec 5) (cxl : BitVec 4) (hostc : Bool) : Statement (.hostLinkTrain gen width cxl hostc) := fun _ h => nomatch h
theorem twinLinkTrain (gen : BitVec 4) (width : BitVec 4) : Statement (.twinLinkTrain gen width) := fun _ h => nomatch h
theorem portLinkChange (port : Fin 8) (up : Bool) : Statement (.portLinkChange port up) := fun _ h => nomatch h
theorem l2Fill (line : Nat) (way : Fin 16) : Statement (.l2Fill line way) := fun _ h => nomatch h
theorem partitionGo (p : Fin 3) : Statement (.partitionGo p) := fun _ h => nomatch h
theorem partitionRst (p : Fin 3) : Statement (.partitionRst p) := fun _ h => nomatch h
theorem firmwareSwitch (p : Fin 3) : Statement (.firmwareSwitch p) := fun _ h => nomatch h
theorem firmwareSwitchComplete (p : Fin 3) : Statement (.firmwareSwitchComplete p) := fun _ h => nomatch h
theorem flrPhysicalFunction (p : Fin 3) : Statement (.flrPhysicalFunction p) := fun _ h => nomatch h
theorem flrVirtualFunction (p : Fin 3) (vf : Fin 64) : Statement (.flrVirtualFunction p vf) := fun _ h => nomatch h
theorem patrolScrub (line : Nat) (bad : Option Bool) : Statement (.patrolScrub line bad) := fun _ h => nomatch h
theorem channelFail (ch : Fin 32) : Statement (.channelFail ch) := fun _ h => nomatch h
theorem registerError (e : UnitError) : Statement (.registerError e) := fun _ h => nomatch h
theorem unitRetire (units : BitVec 40) : Statement (.unitRetire units) := fun _ h => nomatch h
theorem coreFence (cores : BitVec 64) : Statement (.coreFence cores) := fun _ h => nomatch h
theorem plimWrite (v : BitVec 64) : Statement (.plimWrite v) := fun _ h => nomatch h
theorem powerLimitThrottle (watts : BitVec 10) (temp : BitVec 16) : Statement (.powerLimitThrottle watts temp) := fun _ h => nomatch h
theorem thermalTrip : Statement (.thermalTrip) := fun _ h => nomatch h
theorem powerOnReset : Statement (.powerOnReset) := fun _ h => nomatch h
theorem housekeepingRead (off : BitVec 16) : Statement (.housekeepingRead off) := fun _ h => nomatch h
theorem housekeepingWrite (off : BitVec 16) (v : BitVec 64) : Statement (.housekeepingWrite off v) := fun _ h => nomatch h
theorem keySlotRevoke (ks : Fin 4) : Statement (.keySlotRevoke ks) := fun _ h => nomatch h
theorem minimumSvnRaise (hearth : Bool) (svn : BitVec 8) : Statement (.minimumSvnRaise hearth svn) := fun _ h => nomatch h
theorem getVersion (via : SpdmPort) : Statement (.getVersion via) := fun _ h => nomatch h
theorem getCapabilities (via : SpdmPort) : Statement (.getCapabilities via) := fun _ h => nomatch h
theorem negotiateAlgorithms (via : SpdmPort) (ver : BitVec 8) (asym : BitVec 32) (hash : BitVec 32) : Statement (.negotiateAlgorithms via ver asym hash) := fun _ h => nomatch h
theorem getDigests (via : SpdmPort) : Statement (.getDigests via) := fun _ h => nomatch h
theorem getCertificate (via : SpdmPort) (slot : BitVec 4) (off : BitVec 16) (len : BitVec 16) : Statement (.getCertificate via slot off len) := fun _ h => nomatch h
theorem challenge (via : SpdmPort) (slot : BitVec 4) (nonce : BitVec 256) : Statement (.challenge via slot nonce) := fun _ h => nomatch h
theorem getMeasurements (via : SpdmPort) (index : BitVec 8) (sign : Bool) (nonce : BitVec 256) : Statement (.getMeasurements via index sign nonce) := fun _ h => nomatch h
theorem registerWrite (p : Fin 3) (vf : Fin 64) (off : BitVec 25) (v : BitVec 64) : Statement (.registerWrite p vf off v) := fun _ h => nomatch h
theorem synceLockChange (up : Bool) : Statement (.synceLockChange up) := fun _ h => nomatch h
theorem deviceReset : Statement (.deviceReset) := fun _ h => nomatch h
theorem twinRefusedWrite (p : Fin 3) (job : Nat) : Statement (.twinRefusedWrite p job) := fun _ h => nomatch h
theorem latePoison (p : Fin 3) (job : Nat) (idx : Nat) : Statement (.latePoison p job idx) := fun _ h => nomatch h
theorem recoveryImageDelivery (img : List (BitVec 8)) : Statement (.recoveryImageDelivery img) := fun _ h => nomatch h
theorem configurationRequest : Statement (.configurationRequest) := fun _ h => nomatch h
theorem cxlCacheSnoop (pa : Nat) (inval : Bool) : Statement (.cxlCacheSnoop pa inval) := fun _ h => nomatch h

end Sys2Proof.Laws.RoundTrip
end

