-- ==== Sys2Proof/Laws/Trap.lean ====
section
/-!
SUPPORT. Entering the supervisor thread, and killing a hart.
-/

set_option Elab.async false

namespace Sys2Proof.Machine

/-- Performing stores changes no gang. -/
theorem State.failJob_gangs (s : State) (p job c) : (s.failJob p job c).gangs = s.gangs := rfl
theorem State.writeHome_gangs (s : State) (p job l bs) : (s.writeHome p job l bs).gangs = s.gangs := by
  unfold State.writeHome; split <;> split <;> rfl
theorem State.writeHome_cur (s : State) (p job l bs) : (s.writeHome p job l bs).cur = s.cur := by
  unfold State.writeHome; split <;> split <;> rfl
theorem State.writes_gangs (p job) (l : List BufStore) (s : State) :
    (l.foldl (fun t b => t.writeHome p job b.loc b.bytes) s).gangs = s.gangs := by
  induction l generalizing s with
  | nil => rfl
  | cons b r ih => rw [List.foldl_cons, ih, State.writeHome_gangs]
theorem State.writes_cur (p job) (l : List BufStore) (s : State) :
    (l.foldl (fun t b => t.writeHome p job b.loc b.bytes) s).cur = s.cur := by
  induction l generalizing s with
  | nil => rfl
  | cons b r ih => rw [List.foldl_cons, ih, State.writeHome_cur]

theorem State.gang?_gangs {s t : State} (h : s.gangs = t.gangs) (u : Nat) : s.gang? u = t.gang? u := by
  unfold State.gang?; rw [h]
theorem State.me_of_gangs {s t : State} (h : s.gangs = t.gangs) (hc : s.cur = t.cur) : s.me = t.me := by
  unfold State.me State.hart State.gang; rw [State.gang?_gangs h, hc]
theorem State.live_of_gangs {s t : State} (h : s.gangs = t.gangs) (hc : s.cur = t.cur) (hl : s.live) : t.live := by
  obtain ⟨g, hg⟩ := hl; exact ⟨g, by rw [← State.gang?_gangs h, ← hc]; exact hg⟩

/-- The hart that runs after its stores are performed. -/
theorem State.me_drain {s : State} (h : s.live) : (s.drain s.cur).me = { s.me with stores := [] } := by
  have e : (s.drain s.cur).me = (s.modMe fun x => { x with stores := [] }).me :=
    State.me_of_gangs (State.writes_gangs _ _ _ _) (State.writes_cur _ _ _ _)
  rw [e, State.me_modMe h]
theorem State.cur_drain (s : State) (k : HartId) : (s.drain k).cur = s.cur := State.writes_cur _ _ _ _
theorem State.live_drain {s : State} (h : s.live) : (s.drain s.cur).live :=
  State.live_of_gangs (s := s.modMe fun x => { x with stores := [] }) (State.writes_gangs _ _ _ _).symm
    (State.writes_cur _ _ _ _).symm (State.live_modMe h _)
/-- With no store on its way, nothing is performed. -/
theorem State.drain_none {s : State} (h : s.me.stores = []) :
    s.drain s.cur = s.modMe fun x => { x with stores := [] } := by
  unfold State.drain
  have : (s.hart s.cur).stores = [] := h
  rw [this]; rfl

/-- Entering the supervisor thread (R316). -/
theorem TrapEntry.of_enter {s : State} (h : s.live) (op c d src : Nat) (epc : Word) (ei : Nat) (addr : Word)
    (h1 : op < 128) (h2 : c < 256) (h3 : d < 65536) (h4 : src < 4) (h5 : ei < 128) :
    TrapEntry s (s.enter s.cur op c d src epc ei addr) op c d src epc ei addr := by
  have hld := State.live_drain h
  have hme : (s.enter s.cur op c d src epc ei addr).me = { s.me with
      stores := [], st := .trapped, wait := none, cache := [], stepArm := false, stepDue := false, ei := ei,
      sup := s.me.sup.enter op c d src epc ei addr } := by
    unfold State.enter
    have e := State.me_modMe hld (fun x => { x with
      st := .trapped, wait := none, cache := [], stepArm := false, stepDue := false, ei := ei,
      sup := x.sup.enter op c d src epc ei addr })
    unfold State.modMe at e
    rw [State.cur_drain] at e
    rw [e, State.me_drain h]
  have ofN : ∀ n k : Nat, k < 2 ^ n → (BitVec.ofNat n k).toNat = k := fun n k hk => by
    rw [BitVec.toNat_ofNat, Nat.mod_eq_of_lt hk]
  refine ⟨⟨?_, ?_, ?_⟩, ?_, ?_, ?_, ?_, ?_, ⟨?_, ?_, ?_⟩, ?_, ?_, ?_⟩
  · rw [hme]
  · rw [hme]; rfl
  · rw [State.atS, hme]; rfl
  · rw [hme]; rfl
  · rw [hme]; exact ofN 8 c h2
  · rw [hme]; rfl
  · rw [hme]; exact ofN 7 ei h5
  · rw [hme]; rfl
  · rw [hme]; exact ofN 7 op h1
  · rw [hme]; exact ofN 2 src h4
  · rw [hme]; exact ofN 16 d h3
  · rw [hme]; rfl
  · rw [hme]
  · intro hs
    have e : s.enter s.cur op c d src epc ei addr = s.modMe fun x =>
        { x with
          stores := [], st := .trapped, wait := none, cache := [], stepArm := false, stepDue := false, ei := ei,
          sup := x.sup.enter op c d src epc ei addr } := by
      unfold State.enter
      rw [State.drain_none hs]
      exact State.modMe_modMe s _ _
    rw [e]
    refine ⟨fun l => State.byteAt_modMe s _ l, Frame.of_modMe h ?_⟩
    unfold Hart.sans
    split <;> rfl

/-- A trap of a user hart that has a supervisor image. -/
theorem State.raise_user {s : State} (h : s.live) (hu : s.atS = false) (hv : s.me.sup.svec ≠ 0) (op : Nat) (t : TrapInfo)
    (h1 : op < 128) (h3 : t.detail < 65536) (h4 : t.src < 4) (h5 : t.ei < 128) :
    ∃ u, s.raise op t = .next u ∧ TrapEntry s u op t.c.code t.detail t.src s.me.pc t.ei t.addr := by
  refine ⟨s.enter s.cur op t.c.code t.detail t.src s.me.pc t.ei t.addr, ?_, ?_⟩
  · unfold State.raise State.trapAt
    have : (s.hart s.cur).sup.svec ≠ 0 := hv
    rw [hu, if_neg (by simp), if_neg this]
  · exact TrapEntry.of_enter h op _ _ _ _ _ _ h1 (by cases t.c <;> decide) h3 h4 h5

end Sys2Proof.Machine
end

