-- ==== Sys2Proof/Laws/Spill.lean ====
section
/-!
SUPPORT. What a write of free values into a job's segments can do, and where ordered operations that do not hold the
right go.
-/

set_option Elab.async false

namespace Sys2Proof.Machine

theorem State.afterPoison_gangs (s : State) (l : Loc) (n : Nat) : (s.afterPoison l n).gangs = s.gangs := by
  unfold State.afterPoison State.afterRead; repeat' split
  all_goals rfl
theorem State.memWf_afterPoison {s : State} (h : s.memWf) (l : Loc) (n : Nat) : (s.afterPoison l n).memWf := by
  unfold State.afterPoison; split
  · exact h
  · exact State.memWf_afterRead h _ _
/-- A translation that fails uses an error completion of the host up, or changes nothing. -/
theorem State.untranslated_cases (s : State) (p : Fin 3) (vf : Fin 64) (va : Nat) (c : Cause) :
    s.untranslated p vf va c = s ∨ ∃ l, s.untranslated p vf va c = s.afterPoison l 8 := by
  unfold State.untranslated State.walked
  split
  · dsimp only
    split
    · exact .inr ⟨_, rfl⟩
    · exact .inl rfl
  · exact .inl rfl

/-- All that a write of free values into a job's segment can do: nothing, a failed translation, or n bytes at the place
that the address translates to. -/
theorem State.writeFree_cases (s : State) (j : Job) (va n : Nat) :
    s.writeFree j va n = s ∨ (∃ l, s.writeFree j va n = s.afterPoison l 8) ∨
      ∃ l, s.walk j.p j.vf va = .ok l ∧ s.leafCheck j.p false .write l va (va + n - 1) = none ∧
        s.writeFree j va n =
          { s.writeHome j.p j.id (l.pin.loc va) (freeBytes s.freeCtr n) with freeCtr := s.freeCtr + n } := by
  unfold State.writeFree
  split
  · split
    · exact .inl rfl
    · next l hl hn => exact .inr (.inr ⟨l, hl, Option.not_isSome_iff_eq_none.mp hn, rfl⟩)
  · exact (State.untranslated_cases s _ _ _ _).imp id .inl
theorem State.writeFree_gangs (s : State) (j : Job) (va n : Nat) : (s.writeFree j va n).gangs = s.gangs := by
  obtain h | ⟨l, h⟩ | ⟨l, _, _, h⟩ := State.writeFree_cases s j va n
  · rw [h]
  · rw [h, State.afterPoison_gangs]
  · rw [h]; exact State.writeHome_gangs _ _ _ _ _
theorem State.memWf_writeFree {s : State} (h : s.memWf) (j : Job) (va n : Nat) : (s.writeFree j va n).memWf := by
  obtain e | ⟨l, e⟩ | ⟨l, _, _, e⟩ := State.writeFree_cases s j va n
  · rwa [e]
  · rw [e]; exact State.memWf_afterPoison h _ _
  · rw [e]; exact State.memWf_writeHome h _ _ _ _
/-- Records of entries change no gang, and keep the memory's form. -/
theorem State.writeRecords_gangs (s : State) (j : Job) (vas : List Nat) : (s.writeRecords j vas).gangs = s.gangs := by
  unfold State.writeRecords
  induction vas generalizing s with
  | nil => rfl
  | cons a r ih => rw [List.foldl_cons, ih, State.writeFree_gangs]
theorem State.memWf_writeRecords {s : State} (h : s.memWf) (j : Job) (vas : List Nat) : (s.writeRecords j vas).memWf := by
  unfold State.writeRecords
  induction vas generalizing s with
  | nil => exact h
  | cons a r ih => exact ih (State.memWf_writeFree h _ _ _)

/-- Where ordered element groups without the right go (R40): into the core's buffer, which has room for all of them, or,
after the stall of an operation that the moved entries left no room, into the hart's linked segments. -/
theorem State.buffer_cases {s u : State} {tree vec acq em : Bool} {pins : List Pin} {gs : List (List OrdElem × Fill)}
    (h : s.buffer tree vec acq em pins gs = some u) :
    (s.commitUsed s.myGang.core + gs.length ≤ commitEntries ∧ u = s.addEntries tree vec acq em 0 pins gs) ∨
    (commitEntries < s.commitUsed s.myGang.core + gs.length ∧ s.spills = true ∧ gs.length ≤ s.me.spillFree ∧
      u = ((s.addEntries tree vec acq em 1 pins gs).writeRecords s.myJob (s.me.spill.take gs.length)).modMe fun h =>
        { h with spill := h.spill.drop gs.length }) := by
  unfold State.buffer at h
  dsimp only at h
  split at h
  · exact .inl ⟨‹_›, (Option.some.inj h).symm⟩
  · split at h
    · next hn hs => exact .inr ⟨by omega, hs.1, hs.2, (Option.some.inj h).symm⟩
    · cases h

end Sys2Proof.Machine
end

