-- ==== Sys2Proof/Laws/Steps.lean ====
section
/-!
SUPPORT. Steps that change a state and then retire, with or without writing a scalar register.
-/

set_option Elab.async false

namespace Sys2Proof.Machine

/-- A retirement changes nothing that a frame shows. -/
theorem Frame.of_goto {u : State} (h : u.live) (pc : Word) :
    Frame hideNone hideNone hideNone hideNone u (u.goto pc) ∧ (u.goto pc).cur = u.cur ∧ (u.goto pc).atS = u.atS ∧
      (∀ l, (u.goto pc).byteAt l = u.byteAt l) ∧ (u.atS = false → (u.goto pc).me.ei = 0) ∧ (u.goto pc).me.fcsr = u.me.fcsr ∧
      ∀ r, (u.goto pc).rg (some r) = u.rg (some r) := by
  cases hs : u.atS
  · rw [State.goto_user hs]
    have ha : (u.modMe fun x => x.retire pc).atS = false := by rw [State.atS_modMe h (fun x => x.retire pc) (fun _ => rfl), hs]
    refine ⟨Frame.of_modMe h ?_, rfl, ha, fun l => State.byteAt_modMe _ _ l, fun _ => ?_, ?_, fun r => ?_⟩
    · rw [hs]; rfl
    · rw [State.me_modMe h]; rfl
    · rw [State.me_modMe h]; rfl
    · simp only [State.rg, ha, hs]; rw [State.me_modMe h]; rfl
  · rw [State.goto_sup hs]
    have ha := State.atS_modSup h (fun v => { v with pc := pc, wait := none })
    rw [hs] at ha
    refine ⟨Frame.of_modMe h ?_, rfl, ha, fun l => State.byteAt_modMe _ _ l, fun hc => (by simp at hc), ?_, fun r => ?_⟩
    · rw [hs]; rfl
    · rw [State.me_modSup h]
    · simp only [State.rg, ha, hs]; rw [State.me_modSup h]

/-- A change that keeps the PC, then retirement. -/
theorem StepBut.of_retire {eh eo : Hart → Hart} {eg : Gang → Gang} {es : State → State} {s u : State} {mem : Loc → Byte}
    (h : u.live) (hc : u.cur = s.cur) (ha : u.atS = s.atS) (hp : u.pcv = s.pcv) (hf : Frame eh eo eg es s u)
    (hm : ∀ l, u.byteAt l = mem l) : StepBut eh eo eg es s u.retired mem := by
  obtain ⟨h1, h2, h3, h4, h5, -, -⟩ := Frame.of_goto h (u.pcv + 8)
  refine ⟨?_, ?_, ?_, ?_, ?_⟩
  · rw [State.retired, State.pcv_goto h, hp]
  · intro hs; exact h5 (by rw [ha, hs])
  · rw [State.retired, h3, ha]
  · exact hf.trans (h1.weaken (fun _ _ e => congrArg eh e) (fun _ _ e => congrArg eo e) (fun _ _ e => congrArg eg e)
      (fun _ _ e => congrArg es e)) hc ha
  · intro l; rw [State.retired, h4, hm]
/-- A change of the hart that runs, then retirement. -/
theorem StepBut.of_modMe {eh : Hart → Hart} {s : State} (h : s.live) (f : Hart → Hart)
    (he : eh ((f s.me).sans s.atS) = eh (s.me.sans s.atS)) (hst : (f s.me).st = s.me.st) (hpc : (f s.me).pc = s.me.pc)
    (hsp : (f s.me).sup.pc = s.me.sup.pc) :
    StepBut eh hideNone hideNone hideNone s (s.modMe f).retired s.byteAt := by
  have ha : (s.modMe f).atS = s.atS := by simp only [State.atS]; rw [State.me_modMe h, hst]
  refine StepBut.of_retire (State.live_modMe h f) rfl ha ?_ (Frame.of_modMe h he) fun l => State.byteAt_modMe _ _ l
  simp only [State.pcv, ha]; rw [State.me_modMe h, hpc, hsp]
/-- Nothing but retirement. -/
theorem StepBut.of_nothing {s : State} (h : s.live) : StepBut hideNone hideNone hideNone hideNone s s.retired s.byteAt :=
  StepBut.of_retire h rfl rfl rfl (Frame.refl _ _ _ _ s) fun _ => rfl

/-- A change that keeps the PC, the scalar registers and the flags, then a register write and retirement. -/
theorem RegsStep.of_retire {eh eo : Hart → Hart} {eg : Gang → Gang} {es : State → State} {s u : State} {mem : Loc → Byte}
    (h : u.live) (hc : u.cur = s.cur) (ha : u.atS = s.atS) (hp : u.pcv = s.pcv) (hf : Frame eh eo eg es s u)
    (hm : ∀ l, u.byteAt l = mem l) (hr : ∀ r, u.rg (some r) = s.rg (some r)) (hfl : u.me.fcsr = s.me.fcsr)
    (hcm : ∀ (b : Bool) x y, eh x = eh y → eh (x.sansG b) = eh (y.sansG b)) (d : GOp) (v : Word) :
    RegsStep eh eo eg es s (u.wg d v).retired (oneReg d v) 0 (s.pcv + 8) mem := by
  obtain ⟨w, h1, h2⟩ := RegStep.of_retire h d v
  have h1 : (u.wg d v).retired = w := by injection h1
  subst h1
  refine ⟨?_, ?_, ?_, ?_, ?_, ?_, ?_⟩
  · intro r; rw [h2.dest, hr]
  · rw [h2.pc, hp]
  · intro hs; exact h2.ei (by rw [ha, hs])
  · rw [h2.flags, ha, hfl]
  · rw [h2.level, ha]
  · refine Frame.trans (hf.weaken (hcm s.atS) (fun _ _ e => e) (fun _ _ e => e) (fun _ _ e => e)) ?_ hc ha
    rw [← ha]
    exact h2.frame.weaken (fun _ _ e => congrArg eh e) (fun _ _ e => congrArg eo e)
      (fun _ _ e => congrArg eg e) (fun _ _ e => congrArg es e)
  · intro l; rw [h2.memory, hm]

/-- Dropping no stores is no change that a frame shows. -/
theorem State.release_none {s : State} (h : s.me.stores = []) :
    s.release = s.modMe fun x => { x with stores := [] } := by
  unfold State.release State.drain
  have : (s.hart s.cur).stores = [] := h
  rw [this]; rfl

/-! ### Chains of changes -/

theorem State.choose_none {s : State} (h : s.choices = []) : s.choose = (0, s) := by
  unfold State.choose; rw [h]
theorem State.lookup_none {s : State} (h : s.choices = []) (p vf va) : s.lookup p vf va = (s.walk p vf va, s) := by
  unfold State.lookup; rw [State.choose_none h]
  cases s.remembered p vf va <;> rfl
theorem State.translate_snd {s : State} (h : s.choices = []) {u : Use} {va : Word} {q : Loc × Pin}
    (hr : (s.translate u va).1 = .ok q) : (s.translate u va).2 = s := by
  unfold State.translate at hr ⊢; simp only [State.lookup_none h] at hr ⊢
  split at hr
  · cases hr
  · rename_i heq; injection heq with _ e; subst e
    split at hr
    · cases hr
    · rename_i hc; simp [hc]
theorem State.genCheck_ok {s : State} (h : s.choices = []) {u ea n l pin} (hr : s.reaches u ea n l pin) :
    s.genCheck u ea n = (.ok (l, pin), s) := by
  obtain ⟨h1, h2⟩ := hr
  have h3 := State.translate_snd h h1
  unfold State.genCheck
  rcases hx : s.translate u ea with ⟨r, t⟩
  rw [hx] at h1 h3; subst h1; subst h3
  simp [h2]

theorem State.afterRead_gangs (s : State) (l n) : (s.afterRead l n).gangs = s.gangs := by
  unfold State.afterRead; split <;> rfl
theorem State.afterRead_cur (s : State) (l n) : (s.afterRead l n).cur = s.cur := by
  unfold State.afterRead; split <;> rfl
theorem State.afterRead_byteAt (s : State) (l n m) : (s.afterRead l n).byteAt m = s.byteAt m := by
  unfold State.afterRead; split <;> rfl
theorem State.afterRead_sans (s : State) (l n) : State.sansReads (s.afterRead l n) = State.sansReads s := by
  unfold State.afterRead; split <;> rfl

/-- A change outside the gangs. -/
theorem Frame.of_device {eh eo : Hart → Hart} {eg : Gang → Gang} {es : State → State} {s t : State} (hg : t.gangs = s.gangs) (hc : t.cur = s.cur)
    (he : es { t with gangs := [] } = es { s with gangs := [] }) : Frame eh eo eg es s t := by
  have hq := fun u => State.gang?_gangs hg u
  have hm : t.myGang = s.myGang := by unfold State.myGang State.gang; rw [hq, hc]
  refine ⟨?_, ?_, ?_, ?_, he⟩
  · rw [State.me_of_gangs hg hc]
  · intro r _; rw [hm]
  · rw [hm]
  · intro u _; exact hq u
theorem overlay_nil (l bs) : overlay [] l bs = bs := by
  unfold overlay; simp only [List.foldl_nil]; exact List.ext_getElem (by simp) (by simp)

/-- What agrees in the gangs and in the hart that runs agrees at its level. -/
structure Same (s t : State) : Prop where
  live : t.live
  cur : t.cur = s.cur
  atS : t.atS = s.atS
  pcv : t.pcv = s.pcv
  rg : ∀ r, t.rg (some r) = s.rg (some r)
  fcsr : t.me.fcsr = s.me.fcsr
theorem Same.refl {s : State} (h : s.live) : Same s s := ⟨h, rfl, rfl, rfl, fun _ => rfl, rfl⟩
theorem Same.trans {s t u : State} (h : Same s t) (k : Same t u) : Same s u :=
  ⟨k.live, k.cur.trans h.cur, k.atS.trans h.atS, k.pcv.trans h.pcv, fun r => (k.rg r).trans (h.rg r), k.fcsr.trans h.fcsr⟩
theorem Same.of_modMe {s : State} (h : s.live) (f : Hart → Hart) (hst : (f s.me).st = s.me.st) (hpc : (f s.me).pc = s.me.pc)
    (hsp : (f s.me).sup.pc = s.me.sup.pc) (hg : (f s.me).g = s.me.g) (hsg : (f s.me).sup.g = s.me.sup.g)
    (hf : (f s.me).fcsr = s.me.fcsr) : Same s (s.modMe f) := by
  have ha : (s.modMe f).atS = s.atS := by simp only [State.atS]; rw [State.me_modMe h, hst]
  refine ⟨State.live_modMe h f, rfl, ha, ?_, fun r => ?_, ?_⟩
  · simp only [State.pcv, ha]; rw [State.me_modMe h, hpc, hsp]
  · simp only [State.rg, ha]; rw [State.me_modMe h, hg, hsg]
  · rw [State.me_modMe h, hf]
theorem Same.of_device {s t : State} (h : s.live) (hg : t.gangs = s.gangs) (hc : t.cur = s.cur) : Same s t := by
  have hm := State.me_of_gangs hg hc
  have ha : t.atS = s.atS := by simp only [State.atS, hm]
  exact ⟨State.live_of_gangs hg.symm hc.symm h, hc, ha, by simp only [State.pcv, ha, hm],
    fun r => by simp only [State.rg, ha, hm], by rw [hm]⟩

/-- A change so far: what the hart reads is the same, the frame holds, and memory is `mem`. -/
structure Moved (eh eo : Hart → Hart) (eg : Gang → Gang) (es : State → State) (s u : State) (mem : Loc → Byte) : Prop where
  same : Same s u
  frame : Frame eh eo eg es s u
  memory : ∀ l, u.byteAt l = mem l
theorem Moved.refl {eh eo eg es} {s : State} (h : s.live) : Moved eh eo eg es s s s.byteAt := ⟨Same.refl h, Frame.refl _ _ _ _ s, fun _ => rfl⟩
theorem Moved.modMe {eh eo eg es s u mem} (h : Moved eh eo eg es s u mem) (f : Hart → Hart)
    (he : ∀ x : Hart, ∀ b, eh ((f x).sans b) = eh (x.sans b))
    (hst : ∀ x, (f x).st = x.st) (hpc : ∀ x, (f x).pc = x.pc)
    (hsp : ∀ x, (f x).sup.pc = x.sup.pc) (hg : ∀ x, (f x).g = x.g) (hsg : ∀ x, (f x).sup.g = x.sup.g)
    (hf : ∀ x, (f x).fcsr = x.fcsr) : Moved eh eo eg es s (u.modMe f) mem := by
  refine ⟨h.same.trans (Same.of_modMe h.same.live f (hst _) (hpc _) (hsp _) (hg _) (hsg _) (hf _)), ?_,
    fun l => (State.byteAt_modMe _ _ l).trans (h.memory l)⟩
  exact h.frame.trans ((Frame.of_modMe h.same.live (he _ _)).weaken (fun _ _ e => e) (fun _ _ e => congrArg eo e)
    (fun _ _ e => congrArg eg e) fun _ _ e => congrArg es e) h.same.cur h.same.atS
theorem Moved.device {eh eo eg es s u mem} (h : Moved eh eo eg es s u mem) {t : State} {mem' : Loc → Byte} (hg : t.gangs = u.gangs)
    (hc : t.cur = u.cur) (he : es { t with gangs := [] } = es { u with gangs := [] }) (hm : ∀ l, t.byteAt l = mem' l) :
    Moved eh eo eg es s t mem' :=
  ⟨h.same.trans (Same.of_device h.same.live hg hc), h.frame.trans (Frame.of_device hg hc he) h.same.cur h.same.atS, hm⟩
theorem Moved.retire {eh eo eg es s u mem} (h : Moved eh eo eg es s u mem) : StepBut eh eo eg es s u.retired mem :=
  StepBut.of_retire h.same.live h.same.cur h.same.atS h.same.pcv h.frame h.memory
theorem Moved.wg {eh eo eg es s u mem} (h : Moved eh eo eg es s u mem) (hcm : ∀ (b : Bool) x y, eh x = eh y → eh (x.sansG b) = eh (y.sansG b))
    (d : GOp) (v : Word) : RegsStep eh eo eg es s (u.wg d v).retired (oneReg d v) 0 (s.pcv + 8) mem :=
  RegsStep.of_retire h.same.live h.same.cur h.same.atS h.same.pcv h.frame h.memory h.same.rg h.same.fcsr hcm d v
theorem Moved.weaken {eh eo eg es eh' eo' eg' es' s u mem} (h : Moved eh eo eg es s u mem) (h1 : ∀ x y, eh x = eh y → eh' x = eh' y) (h2 : ∀ x y, eo x = eo y → eo' x = eo' y)
    (h3 : ∀ x y, eg x = eg y → eg' x = eg' y) (h4 : ∀ x y, es x = es y → es' x = es' y) : Moved eh' eo' eg' es' s u mem :=
  ⟨h.same, h.frame.weaken h1 h2 h3 h4, h.memory⟩

theorem sansG_congr (b : Bool) (x y : Hart) (h : Hart.sansCache x = Hart.sansCache y) :
    Hart.sansCache (x.sansG b) = Hart.sansCache (y.sansG b) := by
  have h' := congrArg (Hart.sansG b) h
  cases b <;> exact h'

theorem Moved.release {eg es s u mem eh eo} (h : Moved eh eo eg es s u mem) (hs : u.me.stores = []) :
    Moved eh eo eg es s u.release mem := by
  rw [State.release_none hs]
  have : u.modMe (fun x => { x with stores := [] }) = u.modMe (fun x => { x with stores := [] }) := rfl
  refine ⟨h.same.trans (Same.of_modMe h.same.live _ rfl rfl rfl rfl rfl rfl), ?_, fun l => (State.byteAt_modMe _ _ l).trans (h.memory l)⟩
  have e : ({ u.me with stores := [] } : Hart) = u.me := by rw [← hs]
  refine h.frame.trans ((Frame.of_modMe h.same.live (eh := hideNone) ?_).weaken (fun _ _ e => congrArg eh e) (fun _ _ e => congrArg eo e)
    (fun _ _ e => congrArg eg e) fun _ _ e => congrArg es e) h.same.cur h.same.atS
  rw [e]
theorem Moved.acquire {eg es s u mem eo} (h : Moved Hart.sansCache eo eg es s u mem) : Moved Hart.sansCache eo eg es s u.acquire mem :=
  h.modMe (fun x => { x with cache := [] }) (fun x b => by cases b <;> rfl) (fun _ => rfl) (fun _ => rfl) (fun _ => rfl) (fun _ => rfl) (fun _ => rfl) fun _ => rfl
theorem Moved.cachePut {eg es s u mem eo} (h : Moved Hart.sansCache eo eg es s u mem) (l bs) :
    Moved Hart.sansCache eo eg es s (u.modMe fun x => x.cachePut l bs) mem :=
  h.modMe _ (fun x b => by cases b <;> rfl) (fun _ => rfl) (fun _ => rfl) (fun _ => rfl) (fun _ => rfl) (fun _ => rfl) fun _ => rfl
theorem me_release {s : State} (h : s.live) : s.release.me = { s.me with stores := [] } := State.me_drain h
theorem State.release_dev {s : State} (h : s.me.stores = []) : s.release.choices = s.choices ∧
    (∀ l n, s.release.readHome l n = s.readHome l n) ∧ (∀ l n, s.release.readPoison l n = s.readPoison l n) ∧ s.release.cur = s.cur ∧ s.release.out = s.out := by
  rw [State.release_none h]
  exact ⟨rfl, fun _ _ => rfl, fun _ _ => rfl, rfl, rfl⟩

theorem State.scalarRead_home {s : State} (h : s.choices = []) (hs : s.me.stores = []) (l n b) :
    s.scalarRead l n b = (s.readHome l n, (s.afterRead l n).modMe fun x => x.cachePut l (s.readHome l n)) := by
  unfold State.scalarRead
  rw [State.choose_none h]
  simp only [hs, overlay_nil]
  cases b with
  | false => rfl
  | true => cases s.me.line? l <;> rfl


end Sys2Proof.Machine
end

