-- ==== Sys2Proof/Laws/Vec.lean ====
section
/-!
SUPPORT. What a vector instruction of opcodes 0x30 to 0x38 does on operands that are not bound to streams: its checks,
its result, and what it leaves.
-/

set_option Elab.async false

namespace Sys2Proof.Machine

theorem vget_eq {α : Type} {n : Nat} (v : Vector α n) (i : Fin n) (d : α) : vget v i.val d = v[i] := by
  simp [vget]
theorem vgen_getElem {α : Type} (n : Nat) (f : Nat → α) (i : Fin n) : (vgen n f)[i] = f i.val := by
  simp [vgen]

theorem State.sink_none {s : State} {d : VdOp} (h : ∀ r, d = some r → s.me.bound r.val = none) : s.sink d = none := by
  cases d with
  | none => rfl
  | some r => exact h r rfl
theorem State.tap_none {s : State} {l : List VsOp} (h : ∀ r, VsOp.vec r ∈ l → s.me.bound r.val = none) :
    ∀ x ∈ l, s.tap x = none := by
  intro x hx
  cases x with
  | vec r => exact h r hx
  | g _ => rfl
  | zero => rfl
theorem State.pops_nil {s : State} {l : List VsOp} (h : ∀ r, VsOp.vec r ∈ l → s.me.bound r.val = none) : s.pops l = [] := by
  unfold State.pops
  rw [List.filterMap_eq_nil_iff.2 (State.tap_none h)]; rfl
theorem State.streamType_none {s : State} {l : List VsOp} {d : VdOp} (h : ∀ r, VsOp.vec r ∈ l → s.me.bound r.val = none)
    (hd : ∀ r, d = some r → s.me.bound r.val = none) : s.streamType l d = none := by
  have : (l.find? fun x => (s.tap x).any fun q => q.2.stores) = none := by
    rw [List.find?_eq_none]
    intro x hx
    simp [State.tap_none h x hx]
  unfold State.streamType
  rw [this, State.sink_none hd]; rfl
theorem State.sinkType_none {s : State} {d : VdOp} (t : Tag) (hd : ∀ r, d = some r → s.me.bound r.val = none) :
    s.sinkType d t = none := by
  unfold State.sinkType
  rw [State.sink_none hd]; rfl

theorem State.me_flag {s : State} (h : s.live) (f : Flags) :
    (s.flag f).me = if s.atS then s.me else { s.me with fcsr := s.me.fcsr ||| f } := by
  unfold State.flag
  split
  · rfl
  · rw [State.me_modMe h]

/-- The hart after a vector instruction has written its result and retired at `pc`. -/
def Hart.afterRow (h : Hart) (d : VdOp) (last : Option (Fin 60)) (x : VReg) (mask : Option (Fin 16 × MaskReg)) (fl : Flags)
    (pc : Word) : Hart :=
  { ((h.setV? (d.map vdReg) x).setV? last x).setM? mask with fcsr := h.fcsr ||| fl }.retire pc

theorem Hart.afterRow_st (h : Hart) (d last x mask fl pc) : (h.afterRow d last x mask fl pc).st = h.st := by
  cases d <;> cases last <;> cases mask <;> rfl
theorem Hart.afterRow_v (h : Hart) (d last x mask fl pc) : (h.afterRow d last x mask fl pc).v = (match last with
    | some l => vput (match d with | some k => vput h.v (vdReg k) x | none => h.v) l x
    | none => match d with | some k => vput h.v (vdReg k) x | none => h.v) := by
  cases d <;> cases last <;> cases mask <;> rfl
theorem Hart.afterRow_m (h : Hart) (d last x mask fl pc) : (h.afterRow d last x mask fl pc).m = (match mask with
    | some (k, w) => vput h.m k w
    | none => h.m) := by
  cases d <;> cases last <;> cases mask <;> rfl
theorem Hart.afterRow_frame (h : Hart) (d last x mask fl pc) :
    ((h.afterRow d last x mask fl pc).sans false).sansV = (h.sans false).sansV := by
  cases d <;> cases last <;> cases mask <;> rfl
theorem Hart.setV?_keeps (h : Hart) (r x) : (h.setV? r x).st = h.st ∧ (h.setV? r x).pc = h.pc ∧ (h.setV? r x).str = h.str ∧
    (h.setV? r x).fcsr = h.fcsr := by cases r <;> exact ⟨rfl, rfl, rfl, rfl⟩
theorem Hart.setM?_keeps (h : Hart) (m) : (h.setM? m).st = h.st ∧ (h.setM? m).pc = h.pc ∧ (h.setM? m).str = h.str ∧
    (h.setM? m).fcsr = h.fcsr := by rcases m with _ | ⟨_, _⟩ <;> exact ⟨rfl, rfl, rfl, rfl⟩
theorem Hart.row_keeps (h : Hart) (a b x m) : (((h.setV? a x).setV? b x).setM? m).st = h.st ∧
    (((h.setV? a x).setV? b x).setM? m).pc = h.pc ∧ (((h.setV? a x).setV? b x).setM? m).str = h.str ∧
    (((h.setV? a x).setV? b x).setM? m).fcsr = h.fcsr := by
  obtain ⟨a1, a2, a3, a4⟩ := Hart.setV?_keeps h a x
  obtain ⟨b1, b2, b3, b4⟩ := Hart.setV?_keeps (h.setV? a x) b x
  obtain ⟨c1, c2, c3, c4⟩ := Hart.setM?_keeps ((h.setV? a x).setV? b x) m
  exact ⟨c1.trans (b1.trans a1), c2.trans (b2.trans a2), c3.trans (b3.trans a3), c4.trans (b4.trans a4)⟩

theorem Hart.bound_eq {h h' : Hart} (e : h.str = h'.str) (k : Nat) : h.bound k = h'.bound k := by
  simp only [Hart.bound, e]

/-- A row written to the hart that runs is a vector step. -/
theorem VecStep.of_row {s : State} (h : s.live) (hu : s.atS = false) (r : VRow) (x : VReg)
    (hx : ∀ e : Fin 128, x.el[e] = (r.put e.val).getD (s.me.v[r.base].el[e])) (ht : x.tag = r.tag) :
    VecStep s (s.modMe fun y => y.afterRow r.d r.last x r.mask r.fl (s.me.pc + 8)) r := by
  have hme : (s.modMe fun y => y.afterRow r.d r.last x r.mask r.fl (s.me.pc + 8)).me =
      s.me.afterRow r.d r.last x r.mask r.fl (s.me.pc + 8) := State.me_modMe h _
  have hat : (s.modMe fun y => y.afterRow r.d r.last x r.mask r.fl (s.me.pc + 8)).atS = false :=
    (State.atS_modMe h _ (fun y => Hart.afterRow_st y _ _ _ _ _ _)).trans hu
  have step : ∀ (v : Vector VReg 60) (j k : Fin 60), j ≠ k → (vput v j x)[k] = v[k] := by
    intro v j k hj; rw [vput_getElem, if_neg hj]
  have hit : ∀ (v : Vector VReg 60) (k : Fin 60), (vput v k x)[k] = x := by
    intro v k; rw [vput_getElem, if_pos rfl]
  have hhit : ∀ k, r.hits k → (s.me.afterRow r.d r.last x r.mask r.fl (s.me.pc + 8)).v[k] = x := by
    intro k hk
    rw [Hart.afterRow_v]
    rcases hk with ⟨d, hd, rfl⟩ | hl
    · rw [hd]
      cases r.last with
      | none => exact hit _ _
      | some l =>
        show (vput (vput s.me.v (vdReg d) x) l x)[vdReg d] = x
        by_cases e : l = vdReg d
        · rw [e]; exact hit _ _
        · rw [step _ _ _ e]; exact hit _ _
    · rw [hl]; exact hit _ _
  refine ⟨?_, ?_, ?_, ?_, ?_, ?_, ?_, fun l => State.byteAt_modMe s _ l, hat.trans hu.symm, ?_⟩
  · intro k hk e; rw [hme, hhit k hk]; exact hx e
  · intro k hk; rw [hme, hhit k hk]; exact ht
  · intro k hk
    rw [hme, Hart.afterRow_v]
    simp only [VRow.hits, not_or, not_exists, not_and] at hk
    obtain ⟨h1, h2⟩ := hk
    cases hd : r.d with
    | none =>
      cases hl : r.last with
      | none => rfl
      | some l => exact step _ _ _ (fun e => h2 (by rw [hl, e]))
    | some d =>
      have n1 : vdReg d ≠ k := fun e => h1 d hd e.symm
      cases hl : r.last with
      | none => exact step _ _ _ n1
      | some l => exact (step _ _ _ (fun e => h2 (by rw [hl, e]))).trans (step _ _ _ n1)
  · intro m
    rw [hme, Hart.afterRow_m]
    cases r.mask with
    | none => rfl
    | some p =>
      obtain ⟨k, w⟩ := p
      show (vput s.me.m k w)[m] = _
      rw [vput_getElem]
      by_cases hkm : k = m
      · rw [if_pos hkm]; exact (if_pos hkm.symm).symm
      · rw [if_neg hkm]; exact (if_neg (fun e => hkm e.symm)).symm
  · rw [hme]; rfl
  · rw [hme]; rfl
  · rw [hme]; rfl
  · refine Frame.of_modMe h ?_
    rw [hu]; exact Hart.afterRow_frame _ _ _ _ _ _ _

/-- With no operand bound, the result is written at once. -/
theorem State.vecWrite_runs {s : State} (h : s.live) (hu : s.atS = false) (f : VForm) (t r : Tag) (n : Nat)
    (hd : ∀ r, f.d = some r → s.me.bound r.val = none) :
    s.vecWrite f t r n [] = .next (s.modMe fun y => y.afterRow f.d f.last (s.formed f.d (f.last.getD 0) r (f.res s t n).put)
      (f.res s t n).mask (f.res s t n).fl (s.me.pc + 8)) := by
  generalize hx : s.formed f.d (f.last.getD 0) r (f.res s t n).put = x
  generalize hW : (fun h : Hart => ((h.setV? (f.d.map vdReg) x).setV? f.last x).setM? (f.res s t n).mask) = W
  have hk : ∀ y, (W y).st = y.st ∧ (W y).pc = y.pc ∧ (W y).str = y.str ∧ (W y).fcsr = y.fcsr := by
    intro y; rw [← hW]; exact Hart.row_keeps _ _ _ _ _
  have e0 : s.writeV f.d f.last x (f.res s t n).mask = s.modMe W := by rw [← hW]; rfl
  have a1 : (s.modMe W).atS = false := (State.atS_modMe h W (fun y => (hk y).1)).trans hu
  have l1 : (s.modMe W).live := State.live_modMe h W
  have a2 : ((s.modMe W).flag (f.res s t n).fl).atS = false := (State.atS_flag l1 _).trans a1
  have hme : ((s.modMe W).flag (f.res s t n).fl).me = { W s.me with fcsr := (W s.me).fcsr ||| (f.res s t n).fl } := by
    rw [State.flag_user a1, State.me_modMe l1, State.me_modMe h]
  have hsink : ((s.modMe W).flag (f.res s t n).fl).sink f.d = none := by
    refine State.sink_none ?_
    intro k hk2
    rw [hme, ← hd k hk2]
    exact Hart.bound_eq (hk s.me).2.2.1 _
  have hpc : ((s.modMe W).flag (f.res s t n).fl).pcv = s.me.pc := by
    rw [State.pcv_user a2, hme]; exact (hk s.me).2.1
  have e3 : s.vecWrite f t r n [] = ((s.modMe W).flag (f.res s t n).fl).retire := by
    simp only [State.vecWrite]
    rw [hx, e0, hsink]
  rw [e3, State.retire, State.retired, State.goto_user a2, hpc, State.flag_user a1, State.modMe_modMe, State.modMe_modMe]
  congr 2
  funext y
  show ({ W y with fcsr := (W y).fcsr ||| (f.res s t n).fl } : Hart).retire _ = _
  rw [(hk y).2.2.2, ← hW]; rfl

theorem State.streamToken_nil (s : State) (n : Nat) : s.streamToken n [] = none := rfl
/-- A vector instruction whose operands pass their checks, with none bound to a stream, writes its result and
retires. -/
theorem State.vec_runs {s : State} {f : VForm} {t r : Tag} (h : s.live) (hr : VecRuns s f.srcs f.d)
    (ht : s.vecTags f = .ok (t, r)) (hb : f.badvl t s.me.vl = false) :
    ∃ s', s.vec f = .next s' ∧ VecStep s s'
      { d := f.d, last := f.last, tag := r, put := (f.res s t s.me.vl).put, fl := (f.res s t s.me.vl).fl,
        mask := (f.res s t s.me.vl).mask } := by
  obtain ⟨hu, hv, hs, hd⟩ := hr
  have hk : s.sink f.d = none := State.sink_none hd
  have e1 : s.vec f = s.vecWrite f t r s.me.vl [] := by
    simp only [State.vec, State.userOnly, hu, Bool.false_eq_true, if_false, ht, if_neg hv, State.vecStreams,
      State.pops_nil hs, hk, State.streamToken_nil, Option.toList, List.append_nil, List.foldl, State.popAll, hb,
      List.isEmpty, if_true, Option.map_none, Option.getD_none, and_false, Bool.not_true, Bool.false_and]
  refine ⟨_, e1.trans (State.vecWrite_runs h hu f t r _ hd), ?_⟩
  refine VecStep.of_row h hu
    { d := f.d, last := f.last, tag := r, put := (f.res s t s.me.vl).put, fl := (f.res s t s.me.vl).fl,
      mask := (f.res s t s.me.vl).mask } _ ?_ rfl
  intro e
  show (VReg.put _ _ _).el[e] = _
  unfold VReg.put
  show (vgen 128 _)[e] = _
  rw [vgen_getElem, vget_eq]; rfl

/-- Sources of one tag pass the check of a class. -/
theorem State.vecTags_class {s : State} {f : VForm} {t : Tag} {cls satOk : Tag → Bool} {sat : Bool}
    (hr : VecRuns s f.srcs f.d) (ht : Tagged s f.srcs t) (hc : f.check = classCheck f.srcs cls satOk sat)
    (h1 : cls t = true) (h2 : (sat && !satOk t) = false) : s.vecTags f = .ok (t, t) := by
  obtain ⟨_, _, hs, hd⟩ := hr
  obtain ⟨hn, ⟨r0, hr0⟩, ha⟩ := ht
  have hu : s.untypedIn f.srcs = none := by
    unfold State.untypedIn
    rw [Option.map_eq_none_iff, List.find?_eq_none]
    intro x hx
    cases x with
    | vec r => 
      have : s.vtag (.vec r) = some t := congrArg some (ha r hx)
      simp [this, hn]
    | g _ => simp [State.vtag]
    | zero => simp [State.vtag]
  have hcom : commonTag f.srcs (f.srcs.map s.vtag) = .ok t := by
    have hz : f.srcs.zip (f.srcs.map s.vtag) = f.srcs.map fun x => (x, s.vtag x) := by
      have := List.zip_map' (f := id) (g := s.vtag) (l := f.srcs)
      rwa [List.map_id] at this
    have k2 : ∀ y ∈ (f.srcs.zip (f.srcs.map s.vtag)).filterMap (fun q => q.2.map fun t => (q.1, t)), y.2 = t := by
      intro y hy
      rw [hz, List.mem_filterMap] at hy
      obtain ⟨q, hm, hb⟩ := hy
      obtain ⟨x, hx, rfl⟩ := List.mem_map.1 hm
      cases x with
      | vec r =>
        have e : y = (VsOp.vec r, s.me.v[r].tag) := (Option.some.inj hb).symm
        rw [e]; exact ha r hx
      | g _ => cases hb
      | zero => cases hb
    have ne : (f.srcs.zip (f.srcs.map s.vtag)).filterMap (fun q => q.2.map fun t => (q.1, t)) ≠ [] := by
      intro e
      rw [hz, List.filterMap_eq_nil_iff] at e
      have := e (VsOp.vec r0, s.vtag (VsOp.vec r0)) (List.mem_map.2 ⟨_, hr0, rfl⟩)
      cases this
    unfold commonTag
    generalize (f.srcs.zip (f.srcs.map s.vtag)).filterMap (fun q => q.2.map fun t => (q.1, t)) = L at ne k2 ⊢
    cases L with
    | nil => exact absurd rfl ne
    | cons y ys =>
      obtain ⟨y1, y2⟩ := y
      have e0 : y2 = t := k2 (y1, y2) (by simp)
      subst e0
      have : (ys.find? fun q => q.2 != y2) = none := by
        rw [List.find?_eq_none]
        intro z hz
        have := k2 z (by simp [hz])
        simp [this]
      simp only [this]
  unfold State.vecTags
  rw [hu, State.streamType_none hs hd, hc]
  simp only [classCheck, hcom, h1, h2, Bool.not_true, Bool.false_eq_true, if_false, State.sinkType_none t hd]

end Sys2Proof.Machine
end

