-- ==== Sys2Proof/Laws/Waits.lean ====
section
/-!
SUPPORT. What a thread's wait keeps when its instruction comes from one wait to another, and what a lockstep restoration
takes from a recovery point.
-/

set_option Elab.async false

namespace Sys2Proof.Machine

/-! ### Waits -/

@[simp] theorem Wait.enter_none (new : Wait) : Wait.enter none new = new := rfl
/-- A thread that blocks waits for what it blocks on, whatever it waited for before. -/
@[simp] theorem Wait.enter_what (old : Option Wait) (new : Wait) : (Wait.enter old new).what = new.what := by
  unfold Wait.enter
  repeat' split
  all_goals simp_all
/-- The opcode of a wait is that of the instruction that blocks. -/
@[simp] theorem Wait.enter_op (old : Option Wait) (new : Wait) : (Wait.enter old new).op = new.op := by
  unfold Wait.enter
  repeat' split
  all_goals simp_all
/-- An instruction that waits on keeps the rings it has stalled on (R232). -/
theorem Wait.enter_passed (o new : Wait) (h : o.op = new.op) (r : Fin 8) (hr : r ∈ o.passed) :
    r ∈ (Wait.enter (some o) new).passed := by
  have key (w : Wait) (hw : w.stalled = o.passed) : r ∈ w.passed := by
    unfold Wait.passed
    split <;> simp [hw, hr]
  unfold Wait.enter
  simp only [h, ne_eq, not_true_eq_false, if_false]
  split_ifs
  · exact hr
  · exact key _ rfl
  · exact key _ rfl

/-! ### Recovery points -/

/-- A restored token has the state that its recovery point recorded. -/
@[simp] theorem Token.recalled_st (old now : Token) : (old.recalled now).st = old.st := by
  unfold Token.recalled
  split_ifs with h
  · exact h.2.1.trans h.1.symm
  · rfl
/-- A restored token brings no pin of its own: what it pins before it is walked again, the hart pins now (R363). -/
theorem Token.recalled_pins (old now : Token) (q : Pin) (h : q ∈ (old.recalled now).pins) : q ∈ now.pins := by
  unfold Token.recalled at h
  split_ifs at h
  · exact h
  · simp at h
/-- Every register of a restored hart counts as changed since its last save (R356). -/
theorem Hart.recalled_dirty (old now : Hart) (l : List Nat) (r : Fin 60) : ((old.recalled now l).v[r]).dirty = true := by
  simp [Hart.recalled]
/-- A gang with no recovery point left is killed (R45). -/
theorem State.lockstep_killed (s : State) (u : Nat) (h : ∀ r, (s.gang u).recov = some r → r.used = true) :
    s.lockstep u = (s.gang u).ranks.foldl (fun s k => s.killOutside { gang := u, rank := k } Cause.lockstep.code)
      (((s.drainGang (s.gang u)).countLockstep (s.gang u)).modGang u fun g => { g with diverged := false }) := by
  have hn : (s.gang u).recov.filter (fun r => !r.used) = none := by
    cases hr : (s.gang u).recov with
    | none => rfl
    | some r => simp [h r hr]
  unfold State.lockstep
  simp only [hn]

end Sys2Proof.Machine
end

