-- ==== Sys2Proof/Tests/Slice0.lean ====
section
/-!
SUPPORT. Tests: the words of Tables 7-8, 8-3, 9-12, 10-6, 11-11 and 13-4 and words written out from Tables 7-1 to 7-7
decode; ill-formed terms are refused; the spec's worked examples; and for every statement with hypotheses, states and
operands that meet them together, clause by clause (`hyps_<statement>_<clause>`).
-/

set_option linter.unusedVariables false
set_option Elab.async false

open Sys2Proof Sys2Proof.Machine

namespace Sys2Proof.Tests

/-! ### Small states -/

/-- The state after reset with one user hart of one job, whose page at address 0 begins with `NOP`, changed by `h`. -/
def withHart (h : Hart → Hart) : State := (State.reset.placeWord 0x2A00000000000000).modMe h
/-- Scalar registers set. -/
def regs (l : List (Nat × Nat)) (h : Hart) : Hart :=
  { h with g := l.foldl (fun g x => vput g (Fin.ofNat 32 x.1) (word x.2)) h.g }
/-- A user hart with a supervisor image at 0x8000 and some values in its registers. -/
def u0 : State := withHart fun h => regs
  [(1, 0x1000), (2, 5), (3, 2 ^ 64 - 3), (4, 0x2008), (5, 64), (6, 2 ^ 63), (7, 2 ^ 64 - 1), (8, 0x40), (9, 3), (13, 0x20000)]
  { h with sup := { h.sup with svec := 0x8000 } }
/-- The same with bytes at address 0x1000. -/
def u1 : State := { u0 with dev := Mem.write u0.dev 0x1000 ((List.range 24).map fun i => BitVec.ofNat 8 (i * 7 + 131)) }
/-- The same in its supervisor thread. -/
def s0 : State := u1.modMe fun h =>
  { h with st := .trapped, sup := { h.sup with st := .running, pc := 0x8000, g := h.g, sepc := 0x48, sei := 7, sstep := true } }
/-- The one page of the hart. -/
def page : Pin :=
  { p := 0, vf := 0, va := 0, size := 0x10000, pa := 0, kind := .dev, r := true, w := true, mark := [] }
def dl (a : Nat) : Loc := { kind := .dev, pa := a }
def ld4 : LdSt := { ord := .none, sp := false, sx := true, size := 2, t := .no, scope := .hart, off := 8 }
def mx4 : MemX :=
  { k := 0, ke := false, kz := false, ca := false, cb := false, cc := false, tk := 0, sz := .w, sx := true, ord := .none,
    scope := .hart, t := .no }
def vm0 : VMod :=
  { k := 0, ke := false, kz := false, ca := false, cb := false, cc := false, p := false, rm := .dyn, sat := false }
def onGang (f : Gang → Gang) (s : State) : State := { s with gangs := s.gangs.map f }
def onJob (f : Job → Job) (s : State) : State := { s with jobs := s.jobs.map f }
/-- The state after an instruction. -/
def after (i : Instr) (s : State) : State := match exec i s with | .next t => t | _ => s
/-- The state that an outcome goes to. -/
def nextOf (d : State) : Host.Outcome State Fault Refusal → State
  | .next t => t
  | _ => d
theorem eq_next {o : Host.Outcome State Fault Refusal} {d : State}
    (h : (match o with | .next _ => true | _ => false) = true) : o = .next (nextOf d o) := by
  cases o with
  | next s => rfl
  | fault _ => cases h
  | refused _ => cases h
/-- A vector register. -/
def vreg (t : Tag) (f : Nat → Nat) : VReg := { el := vgen 128 fun e => word (f e), tag := t, vln := 128, dirty := true }
/-- A record register. -/
def recReg (l : List Nat) : VReg := vreg .n64 fun e => l.getD e 0
/-- Vector registers set. -/
def vregs (l : List (Nat × VReg)) (h : Hart) : Hart :=
  { h with v := l.foldl (fun v x => vput v (Fin.ofNat 60 x.1) x.2) h.v }
def h0 : HartId := { gang := 1, rank := 0 }
def theJob (s : State) : Job := s.jobs.head?.getD Job.blank
/-- The places of the elements of an access. -/
def placeOf (s : State) (f : VAcc) (e : Nat) : VPlace :=
  match s.vPlace f e with | .ok p => p | .error _ => .gen { kind := .io, pa := 0 } page
def canRead (s : State) (n : Nat) : VPlace → Bool
  | .gen l _ => l.kind != .io && !s.readPoison l n
  | .sp k => !s.myGang.spPoisoned (s.myGang.spMap k) n
def canWrite (s : State) (n : Nat) : VPlace → Bool
  | .gen l _ => !s.writeRefused l n
  | .sp _ => true
theorem readable_all {s : State} {n : Nat} {f : Nat → VPlace} {es : List Nat}
    (h : (es.all fun e => canRead s n (f e)) = true) : ∀ e ∈ es, (f e).readable s n := fun e he => by
  have := List.all_eq_true.mp h e he
  cases hf : f e <;> simp_all [canRead, VPlace.readable]
theorem writable_all {s : State} {n : Nat} {f : Nat → VPlace} {es : List Nat}
    (h : (es.all fun e => canWrite s n (f e)) = true) : ∀ e ∈ es, (f e).writable s n := fun e he => by
  have := List.all_eq_true.mp h e he
  cases hf : f e <;> simp_all [canWrite, VPlace.writable]
def isDirty (s : State) (n : Nat) : VPlace → Bool
  | .gen l _ => linePoisoned (s.poisonOf l.kind) l.pa n
  | .sp _ => false
theorem dirty_of {s : State} {n : Nat} {p : VPlace} (h : isDirty s n p = true) : p.dirty s n := by
  cases p <;> simp_all [isDirty, VPlace.dirty]
theorem clean_all {s : State} {n : Nat} {f : Nat → VPlace} {es : List Nat}
    (h : (es.all fun e => !isDirty s n (f e)) = true) : ∀ e ∈ es, ¬ (f e).dirty s n := fun e he hd => by
  have := List.all_eq_true.mp h e he
  cases hf : f e <;> simp_all [isDirty, VPlace.dirty]
theorem below {n : Nat} {p : Nat → Prop} [DecidablePred p] (h : ((List.range n).all fun e => decide (p e)) = true) :
    ∀ e, e < n → p e := fun e he => of_decide_eq_true (List.all_eq_true.mp h e (List.mem_range.mpr he))
def readCsr (s : State) (n : Nat) : Word := (s.csrRead n).toOption.getD 0
theorem no_group_failed {s : State} (h : s.failedCh = 0) (a : Nat) : s.groupFailed a = false := by
  simp [State.groupFailed, h]
theorem eq_some {α β : Type} {o : Option (α × β)} {d : α × β} (h : o.isSome = true) :
    o = some ((o.getD d).1, (o.getD d).2) := by
  cases o with
  | none => cases h
  | some x => rfl
def noCopy : Copy :=
  { id := 0, p := 0, job := 1, gang := 1, cluster := 0, rcd := [], srcPins := [], dstPins := [], stage := none, pos := 0,
    total := 1, poisoned := false, cancelled := false }
theorem pair_eq {α β : Type} {p : α × β} {a : α} (h : p.1 = a) : p = (a, p.2) := by cases p; cases h; rfl
def theGang (s : State) : Gang := s.gangs.head?.getD Gang.blank

/-! ### Decoding -/

theorem test_decode_alu_1 :
    decodeWord 0x02024C4960000000 = some (.add (some 9) (some 4) (some 11)) ∧
    decodeWord 0x02064C4960000000 = some (.sub (some 9) (some 4) (some 11)) ∧
    decodeWord 0x020A4C4960000000 = some (.mul (some 9) (some 4) (some 11)) ∧
    decodeWord 0x021A4C4960000000 = some (.and (some 9) (some 4) (some 11)) ∧
    decodeWord 0x021E4C4960000000 = some (.or (some 9) (some 4) (some 11)) ∧
    decodeWord 0x02224C4960000000 = some (.xor (some 9) (some 4) (some 11)) ∧
    decodeWord 0x02264C4960000000 = some (.andn (some 9) (some 4) (some 11)) ∧
    decodeWord 0x022A4C4960000000 = some (.shl (some 9) (some 4) (some 11)) ∧
    decodeWord 0x022E4C4960000000 = some (.shr (some 9) (some 4) (some 11)) ∧
    decodeWord 0x02324C4960000000 = some (.sar (some 9) (some 4) (some 11)) ∧
    decodeWord 0x020E4C4960000001 = some (.mulhi true (some 9) (some 4) (some 11)) ∧
    decodeWord 0x02124C4960000000 = some (.div false (some 9) (some 4) (some 11)) := by
  decide +kernel
theorem test_decode_alu_2 :
    decodeWord 0x02164C4960000001 = some (.rem true (some 9) (some 4) (some 11)) ∧
    decodeWord 0x02364C4960000001 = some (.min true (some 9) (some 4) (some 11)) ∧
    decodeWord 0x023A4C4960000000 = some (.max false (some 9) (some 4) (some 11)) ∧
    decodeWord 0x023E4C4000000000 = some (.clz (some 9) (some 4)) ∧
    decodeWord 0x02424C4000000000 = some (.popc (some 9) (some 4)) ∧
    decodeWord 0x02464C4FF7800000 = some (.sel (some 9) (some 4) none (some 30)) ∧
    decodeWord 0x024A4C4960000008 = some (.setcc .ltu (some 9) (some 4) (some 11)) := by
  decide +kernel
theorem test_decode_immediate :
    decodeWord 0x04024C4FFFFFFFFD = some (.aluiAdd (some 9) (some 4) (BitVec.ofInt 36 (-3))) ∧
    decodeWord 0x041A4C4FFFFFFFFD = some (.aluiAnd (some 9) (some 4) (BitVec.ofInt 36 (-3))) ∧
    decodeWord 0x041E4C4FFFFFFFFD = some (.aluiOr (some 9) (some 4) (BitVec.ofInt 36 (-3))) ∧
    decodeWord 0x04224C4FFFFFFFFD = some (.aluiXor (some 9) (some 4) (BitVec.ofInt 36 (-3))) ∧
    decodeWord 0x04364C4FFFFFFFFD = some (.aluiMin (some 9) (some 4) (BitVec.ofInt 36 (-3))) ∧
    decodeWord 0x043A4C4FFFFFFFFD = some (.aluiMax (some 9) (some 4) (BitVec.ofInt 36 (-3))) ∧
    decodeWord 0x042A4C400000003F = some (.aluiShl (some 9) (some 4) 63) ∧
    decodeWord 0x042E4C400000003F = some (.aluiShr (some 9) (some 4) 63) ∧
    decodeWord 0x04324C400000003F = some (.aluiSar (some 9) (some 4) 63) ∧
    decodeWord 0x0602480FFFFF24A8 = some (.li (some 9) (BitVec.ofInt 36 (-56152))) ∧
    decodeWord 0x080248000714010F = some (.lih (some 9) 0x714010F) := by
  decide +kernel
theorem test_decode_float :
    decodeWord 0x0A024C4960000005 = some (.fadd true .rtz (some 9) (some 4) (some 11)) ∧
    decodeWord 0x0A064C4960000005 = some (.fsub true .rtz (some 9) (some 4) (some 11)) ∧
    decodeWord 0x0A0A4C4960000005 = some (.fmul true .rtz (some 9) (some 4) (some 11)) ∧
    decodeWord 0x0A0E4C4977800000 = some (.fma false .dyn (some 9) (some 4) (some 11) (some 30)) ∧
    decodeWord 0x0A124C400000004B = some (.fcvt .fromN true .rna (some 9) (some 4)) ∧
    decodeWord 0x0A164C49600000B0 = some (.fcmp .ule false (some 9) (some 4) (some 11)) := by
  decide +kernel
theorem test_decode_scalar_memory :
    decodeWord 0x0C5A4C427FFFFFF8 = some
    (.ld { ord := .acq, sp := false, sx := true, size := 2, t := .no, scope := .system, off := BitVec.ofInt 31 (-8) } (some 9) (some 4)) ∧
    decodeWord 0x0E8E4C4880000018 = some
    (.st { ord := .rel, sp := false, sx := false, size := 3, t := .tt, scope := .core, off := 24 } (some 9) (some 4))
    ∧
    decodeWord 0x10A6544960000080 = some
    (.amo .fadd { k := 0, ke := false, kz := false, ca := false, cb := false, cc := false, tk := 0, sz := .q, sx := false, ord := .none, scope := .hart, t := .tj } (some 10) (some 4) (some 11)) ∧
    decodeWord 0x1302444997800136 = some
    (.cas { k := 0, ke := false, kz := false, ca := false, cb := false, cc := false, tk := 0, sz := .p, sx := false, ord := .ar, scope := .device, t := .tt } (some 8) (some 4) (some 12) (some 30)) := by
  decide +kernel
theorem test_decode_transfer :
    decodeWord 0x20B125FFFFFFFFF9 = some (.br .geu (some 4) (some 11) (BitVec.ofInt 39 (-7))) ∧
    decodeWord 0x22124000000003E8 = some (.jal (some 9) 1000) ∧
    decodeWord 0x24024C4FFFFFFFF0 = some (.jalr (some 9) (some 4) (BitVec.ofInt 36 (-16))) ∧
    decodeWord 0x2612407FFFFFFFFE = some (.loop (some 9) (BitVec.ofInt 39 (-2))) ∧
    decodeWord 0x2879800000000005 = some (.bm .nall (some 6) 5) ∧
    decodeWord 0x2A00000000000000 = some (.nop) := by
  decide +kernel
theorem test_decode_system_1 :
    decodeWord 0x3002480000000030 = some (.csrr (some 9) 0x030) ∧
    decodeWord 0x3004044000000107 = some (.csrw (some 4) 0x107) ∧
    decodeWord 0x300A4C4000000002 = some (.csrset (some 9) (some 4) 0x002) ∧
    decodeWord 0x300FFC4000000002 = some (.csrclr none (some 4) 0x002) ∧
    decodeWord 0x320000000000BEEF = some (.svc 0xBEEF) ∧
    decodeWord 0x3400000000001234 = some (.trapi 0x1234) ∧
    decodeWord 0x3600000000000000 = some (.eret) ∧
    decodeWord 0x3808000000000004 = some (.fence .vv .cluster) ∧
    decodeWord 0x3A00044000000000 = some (.wfe (some 4)) ∧
    decodeWord 0x3C024C4000000000 = some (.splock (some 9) (some 4)) ∧
    decodeWord 0x3C04044000000000 = some (.spunlock (some 4)) ∧
    decodeWord 0x3E00044960000001 = some (.tlbinv .vf (some 4) (some 11)) := by
  decide +kernel
theorem test_decode_system_2 :
    decodeWord 0x4000000000000000 = some (.ckpt) ∧
    decodeWord 0x4200044420000A00 = some (.vsave 5 (some 4) 33) ∧
    decodeWord 0x44010C4000000A00 = some (.vrest 5 33 (some 4)) := by
  decide +kernel
theorem test_decode_job :
    decodeWord 0x4600044960000000 = some (.hmsg (some 4) (some 11)) ∧
    decodeWord 0x48024A1000000000 = some (.jspawn (some 9) 33) ∧
    decodeWord 0x4A00000000000000 = some (.jend) ∧
    decodeWord 0x4C00044000000000 = some (.chblock (some 4)) ∧
    decodeWord 0x4C04044000000000 = some (.chunblock (some 4)) ∧
    decodeWord 0x4E024C4000000042 = some (.abump (some 9) (some 4) 2 16) := by
  decide +kernel
theorem test_decode_vector_configuration :
    decodeWord 0x60024C4000000000 = some (.vsetl (some 9) (some 4)) ∧
    decodeWord 0x6004880000000013 = some (.vtag (some 17) .cbf16x2) ∧
    decodeWord 0x6009A00000000005 = some (.vretag (some 52) .n16x4) ∧
    decodeWord 0x600E4BA000000000 = some (.vgettag (some 9) 58) ∧
    decodeWord 0x60108CC000000000 = some (.vmov (some 17) (.g 12)) := by
  decide +kernel
theorem test_decode_vector_arithmetic_1 :
    decodeWord 0x6200883980279900 = some
    (.vadd { k := 9, ke := true, kz := true, ca := true, cb := false, cc := false, p := true, rm := .rup, sat := true } (some 17) (.vec 3) (.g 12)) ∧
    decodeWord 0x6204883980279800 = some
    (.vsub { k := 9, ke := true, kz := true, ca := true, cb := false, cc := false, p := true, rm := .rup, sat := false } (some 17) (.vec 3) (.g 12)) ∧
    decodeWord 0x6208883980279800 = some
    (.vmul { k := 9, ke := true, kz := true, ca := true, cb := false, cc := false, p := true, rm := .rup, sat := false } (some 17) (.vec 3) (.g 12)) ∧
    decodeWord 0x620C883980279800 = some
    (.vmulh { k := 9, ke := true, kz := true, ca := true, cb := false, cc := false, p := true, rm := .rup, sat := false } (some 17) (.vec 3) (.g 12)) ∧
    decodeWord 0x621088399FE79800 = some
    (.vfma { k := 9, ke := true, kz := true, ca := true, cb := false, cc := false, p := true, rm := .rup, sat := false } (some 17) (.vec 3) (.g 12) .zero) ∧
    decodeWord 0x621488399FE79800 = some
    (.vfms { k := 9, ke := true, kz := true, ca := true, cb := false, cc := false, p := true, rm := .rup, sat := false } (some 17) (.vec 3) (.g 12) .zero) ∧
    decodeWord 0x621888399FE79900 = some
    (.vfnma { k := 9, ke := true, kz := true, ca := true, cb := false, cc := false, p := true, rm := .rup, sat := true } (some 17) (.vec 3) (.g 12) .zero) ∧
    decodeWord 0x621C883980279800 = some
    (.vmin { k := 9, ke := true, kz := true, ca := true, cb := false, cc := false, p := true, rm := .rup, sat := false } (some 17) (.vec 3) (.g 12)) ∧
    decodeWord 0x6220883980279800 = some
    (.vmax { k := 9, ke := true, kz := true, ca := true, cb := false, cc := false, p := true, rm := .rup, sat := false } (some 17) (.vec 3) (.g 12)) ∧
    decodeWord 0x6224883000279800 = some
    (.vabs { k := 9, ke := true, kz := true, ca := true, cb := false, cc := false, p := true, rm := .rup, sat := false } (some 17) (.vec 3)) ∧
    decodeWord 0x6228883000279900 = some
    (.vneg { k := 9, ke := true, kz := true, ca := true, cb := false, cc := false, p := true, rm := .rup, sat := true } (some 17) (.vec 3)) ∧
    decodeWord 0x622C883980279800 = some
    (.vand { k := 9, ke := true, kz := true, ca := true, cb := false, cc := false, p := true, rm := .rup, sat := false } (some 17) (.vec 3) (.g 12)) := by
  decide +kernel
theorem test_decode_vector_arithmetic_2 :
    decodeWord 0x6230883980279800 = some
    (.vor { k := 9, ke := true, kz := true, ca := true, cb := false, cc := false, p := true, rm := .rup, sat := false } (some 17) (.vec 3) (.g 12)) ∧
    decodeWord 0x6234883980279800 = some
    (.vxor { k := 9, ke := true, kz := true, ca := true, cb := false, cc := false, p := true, rm := .rup, sat := false } (some 17) (.vec 3) (.g 12)) ∧
    decodeWord 0x6238883980279800 = some
    (.vshl { k := 9, ke := true, kz := true, ca := true, cb := false, cc := false, p := true, rm := .rup, sat := false } (some 17) (.vec 3) (.g 12)) ∧
    decodeWord 0x623C883980279800 = some
    (.vshr { k := 9, ke := true, kz := true, ca := true, cb := false, cc := false, p := true, rm := .rup, sat := false } (some 17) (.vec 3) (.g 12)) ∧
    decodeWord 0x6240883980279800 = some
    (.vsar { k := 9, ke := true, kz := true, ca := true, cb := false, cc := false, p := true, rm := .rup, sat := false } (some 17) (.vec 3) (.g 12)) ∧
    decodeWord 0x6244883000279800 = some
    (.vclz { k := 9, ke := true, kz := true, ca := true, cb := false, cc := false, p := true, rm := .rup, sat := false } (some 17) (.vec 3)) ∧
    decodeWord 0x6248883000279800 = some
    (.vpopc { k := 9, ke := true, kz := true, ca := true, cb := false, cc := false, p := true, rm := .rup, sat := false } (some 17) (.vec 3)) ∧
    decodeWord 0x624C88399BE79800 = some
    (.vsel { k := 9, ke := true, kz := true, ca := true, cb := false, cc := false, p := true, rm := .rup, sat := false } (some 17) (.vec 3) (.g 12) (some 15)) ∧
    decodeWord 0x625088399BE79800 = some
    (.vaddc { k := 9, ke := true, kz := true, ca := true, cb := false, cc := false, p := true, rm := .rup, sat := false } (some 17) (.vec 3) (.g 12) (some 15)) ∧
    decodeWord 0x625488399BE79800 = some
    (.vsubb { k := 9, ke := true, kz := true, ca := true, cb := false, cc := false, p := true, rm := .rup, sat := false } (some 17) (.vec 3) (.g 12) (some 15)) ∧
    decodeWord 0x64032CC0600A500D = some
    (.vcmp { k := 2, ke := true, kz := false, ca := false, cb := true, cc := false, p := true, rm := .dyn, sat := false } .uge (some 5) (.g 12) (.vec 3)) := by
  decide +kernel
theorem test_decode_vector_conversion :
    decodeWord 0x662C883000008A03 = some
    (.vcvt { k := 0, ke := false, kz := false, ca := true, cb := false, cc := false, p := false, rm := .rna, sat := false } .f16x4 3 (some 17) (.vec 3)) ∧
    decodeWord 0x6800883000061200 = some
    (.vrcp { k := 1, ke := true, kz := false, ca := false, cb := false, cc := false, p := true, rm := .rne, sat := false } (some 17) (.vec 3)) ∧
    decodeWord 0x6804883000061200 = some
    (.vrsqrt { k := 1, ke := true, kz := false, ca := false, cb := false, cc := false, p := true, rm := .rne, sat := false } (some 17) (.vec 3)) ∧
    decodeWord 0x6808883000061200 = some
    (.vsqrt { k := 1, ke := true, kz := false, ca := false, cb := false, cc := false, p := true, rm := .rne, sat := false } (some 17) (.vec 3)) ∧
    decodeWord 0x6810883000061200 = some
    (.vexp2 { k := 1, ke := true, kz := false, ca := false, cb := false, cc := false, p := true, rm := .rne, sat := false } (some 17) (.vec 3)) ∧
    decodeWord 0x6814883000061200 = some
    (.vlog2 { k := 1, ke := true, kz := false, ca := false, cb := false, cc := false, p := true, rm := .rne, sat := false } (some 17) (.vec 3)) ∧
    decodeWord 0x680C8CC740004600 = some
    (.vdiv { k := 0, ke := false, kz := false, ca := false, cb := true, cc := false, p := false, rm := .rdn, sat := false } (some 17) (.g 12) (.vec 58)) := by
  decide +kernel
theorem test_decode_complex :
    decodeWord 0x6A00883980000100 = some
    (.vcmul { k := 0, ke := false, kz := false, ca := false, cb := false, cc := false, p := false, rm := .dyn, sat := true } (some 17) (.vec 3) (.g 12)) ∧
    decodeWord 0x6A0488398EC02000 = some
    (.vcmac { k := 0, ke := false, kz := false, ca := false, cb := false, cc := true, p := false, rm := .dyn, sat := false } (some 17) (.vec 3) (.g 12) (.vec 59)) ∧
    decodeWord 0x6A08883000000000 = some
    (.vconj { k := 0, ke := false, kz := false, ca := false, cb := false, cc := false, p := false, rm := .dyn, sat := false } (some 17) (.vec 3)) ∧
    decodeWord 0x6A0C883000000000 = some
    (.vcabs2 { k := 0, ke := false, kz := false, ca := false, cb := false, cc := false, p := false, rm := .dyn, sat := false } (some 17) (.vec 3)) ∧
    decodeWord 0x6A10883000000003 = some
    (.vcrot { k := 0, ke := false, kz := false, ca := false, cb := false, cc := false, p := false, rm := .dyn, sat := false } 3 (some 17) (.vec 3)) ∧
    decodeWord 0x6C00883980000006 = some
    (.vbfly { k := 0, ke := false, kz := false, ca := false, cb := false, cc := false, p := false, rm := .dyn, sat := false } 6 (some 17) (.vec 3) (.g 12)) ∧
    decodeWord 0x6C048B1000000016 = some
    (.vgjstep { k := 0, ke := false, kz := false, ca := false, cb := false, cc := false, p := false, rm := .dyn, sat := false } 2 5 (some 17) 49) ∧
    decodeWord 0x6C088B100000000D = some
    (.vbfpexp { k := 0, ke := false, kz := false, ca := false, cb := false, cc := false, p := false, rm := .dyn, sat := false } 13 (some 17) 49) ∧
    decodeWord 0x6C0C8B100000000D = some
    (.vbfpcmp { k := 0, ke := false, kz := false, ca := false, cb := false, cc := false, p := false, rm := .dyn, sat := false } 13 (some 17) 49) := by
  decide +kernel
theorem test_decode_permute_1 :
    decodeWord 0x6E008B1960130000 = some
    (.vslideup { k := 4, ke := true, kz := true, ca := false, cb := false, cc := false, p := false, rm := .dyn, sat := false } (some 17) 49 (some 11)) ∧
    decodeWord 0x6E048B1960130000 = some
    (.vslidedn { k := 4, ke := true, kz := true, ca := false, cb := false, cc := false, p := false, rm := .dyn, sat := false } (some 17) 49 (some 11)) ∧
    decodeWord 0x6E0C8B1960130000 = some
    (.vbcast { k := 4, ke := true, kz := true, ca := false, cb := false, cc := false, p := false, rm := .dyn, sat := false } (some 17) 49 (some 11)) ∧
    decodeWord 0x6E088B1740004000 = some
    (.vperm { k := 0, ke := false, kz := false, ca := false, cb := true, cc := false, p := false, rm := .dyn, sat := false } (some 17) 49 58) ∧
    decodeWord 0x6E1C8B1740004000 = some
    (.vzip { k := 0, ke := false, kz := false, ca := false, cb := true, cc := false, p := false, rm := .dyn, sat := false } (some 17) 49 58) ∧
    decodeWord 0x6E208B1740004000 = some
    (.vunzip { k := 0, ke := false, kz := false, ca := false, cb := true, cc := false, p := false, rm := .dyn, sat := false } (some 17) 49 58) ∧
    decodeWord 0x6E108B101BC08000 = some
    (.vcompress { k := 0, ke := false, kz := false, ca := true, cb := false, cc := false, p := false, rm := .dyn, sat := false } (some 17) 49 (some 15)) ∧
    decodeWord 0x6E148B101BC08000 = some
    (.vexpand { k := 0, ke := false, kz := false, ca := true, cb := false, cc := false, p := false, rm := .dyn, sat := false } (some 17) 49 (some 15)) ∧
    decodeWord 0x6E1BF8001BC00000 = some
    (.viota { k := 0, ke := false, kz := false, ca := false, cb := false, cc := false, p := false, rm := .dyn, sat := false } none (some 15)) ∧
    decodeWord 0x70008B1000120500 = some
    (.vredsum { k := 4, ke := true, kz := false, ca := false, cb := false, cc := false, p := false, rm := .rtz, sat := true } (some 17) 49) ∧
    decodeWord 0x70048B1000120400 = some
    (.vredmax { k := 4, ke := true, kz := false, ca := false, cb := false, cc := false, p := false, rm := .rtz, sat := false } (some 17) 49) ∧
    decodeWord 0x70088B1000120400 = some
    (.vredmin { k := 4, ke := true, kz := false, ca := false, cb := false, cc := false, p := false, rm := .rtz, sat := false } (some 17) 49) := by
  decide +kernel
theorem test_decode_permute_2 :
    decodeWord 0x700C8B1000120500 = some
    (.vscan { k := 4, ke := true, kz := false, ca := false, cb := false, cc := false, p := false, rm := .rtz, sat := true } (some 17) 49) := by
  decide +kernel
theorem test_decode_mask :
    decodeWord 0x72032E6CE0000000 = some (.mand (some 5) (some 6) (some 7)) ∧
    decodeWord 0x72072E6CE0000000 = some (.mor (some 5) (some 6) (some 7)) ∧
    decodeWord 0x720B2E6CE0000000 = some (.mxor (some 5) (some 6) (some 7)) ∧
    decodeWord 0x720F2E6CE0000000 = some (.mandn (some 5) (some 6) (some 7)) ∧
    decodeWord 0x72132E6960000000 = some (.mshl (some 5) (some 6) (some 11)) ∧
    decodeWord 0x72164E6000000000 = some (.mpopc (some 9) (some 6)) ∧
    decodeWord 0x721A4FF000000000 = some (.mfirst (some 9) none) ∧
    decodeWord 0x721F2C4000000001 = some (.mset true (some 5) (some 4)) ∧
    decodeWord 0x72224E6000000001 = some (.mget true (some 9) (some 6)) := by
  decide +kernel
theorem test_decode_vector_memory_1 :
    decodeWord 0x8000044960000B00 = some (.vprobe true 5 (some 4) (some 11)) ∧
    decodeWord 0x8200000000000A00 = some (.vrelease 5) ∧
    decodeWord 0x84008C49600F0A56 = some
    (.vld { k := 3, ke := true, kz := true, ca := false, cb := false, cc := false, tk := 5, sz := .w, sx := true, ord := .acq, scope := .device, t := .no } (some 17) (some 4) (some 11)) ∧
    decodeWord 0x86818C49600E0C80 = some
    (.vst { k := 3, ke := true, kz := false, ca := false, cb := false, cc := false, tk := 6, sz := .q, sx := false, ord := .none, scope := .hart, t := .tj } 49 (some 4) (some 11)) ∧
    decodeWord 0x88008C4740004A00 = some
    (.vldx { k := 0, ke := false, kz := false, ca := false, cb := true, cc := false, tk := 5, sz := .w, sx := false, ord := .none, scope := .hart, t := .no } (some 17) (some 4) 58) ∧
    decodeWord 0x8B018C4740000E24 = some
    (.vstx { k := 0, ke := false, kz := false, ca := false, cb := false, cc := false, tk := 7, sz := .w, sx := false, ord := .rel, scope := .cluster, t := .tt } 49 (some 4) 58) ∧
    decodeWord 0x8C008C4960000080 = some
    (.vlds { k := 0, ke := false, kz := false, ca := false, cb := false, cc := false, tk := 0, sz := .q, sx := false, ord := .none, scope := .hart, t := .no } (some 17) (some 4) (some 11)) ∧
    decodeWord 0x8E018C4960000080 = some
    (.vsts { k := 0, ke := false, kz := false, ca := false, cb := false, cc := false, tk := 0, sz := .q, sx := false, ord := .none, scope := .hart, t := .no } 49 (some 4) (some 11)) ∧
    decodeWord 0x90008C4740000080 = some
    (.vldsx { k := 0, ke := false, kz := false, ca := false, cb := false, cc := false, tk := 0, sz := .q, sx := false, ord := .none, scope := .hart, t := .no } (some 17) (some 4) 58) ∧
    decodeWord 0x92018C4740000080 = some
    (.vstsx { k := 0, ke := false, kz := false, ca := false, cb := false, cc := false, tk := 0, sz := .q, sx := false, ord := .none, scope := .hart, t := .no } 49 (some 4) 58) ∧
    decodeWord 0x94008C4964800100 = some
    (.vlds2 { k := 0, ke := false, kz := false, ca := false, cb := false, cc := false, tk := 0, sz := .p, sx := false, ord := .none, scope := .hart, t := .no } (some 17) (some 4) (some 11) (some 18)) ∧
    decodeWord 0x96018C496BC00100 = some
    (.vsts2 { k := 0, ke := false, kz := false, ca := false, cb := false, cc := false, tk := 0, sz := .p, sx := false, ord := .none, scope := .hart, t := .no } 49 (some 4) (some 11) 47) := by
  decide +kernel
theorem test_decode_vector_memory_2 :
    decodeWord 0x9801521000000000 = some (.sbind 2 33) ∧
    decodeWord 0x9A01500000000000 = some (.sunbind 2) ∧
    decodeWord 0x9C024AA000000000 = some (.sstat (some 9) 2) ∧
    decodeWord 0xA09C8C4740C02A80 = some
    (.vamo .maxu { k := 0, ke := false, kz := false, ca := false, cb := false, cc := true, tk := 5, sz := .q, sx := false, ord := .none, scope := .hart, t := .tj } (some 17) (some 4) 58 (.vec 3)) ∧
    decodeWord 0xA2AC04474BC00A22 = some
    (.vsta .fmax { k := 0, ke := false, kz := false, ca := false, cb := false, cc := false, tk := 5, sz := .w, sx := false, ord := .rel, scope := .core, t := .tj } (some 4) 58 47) ∧
    decodeWord 0xA4132C4FF3000A80 = some
    (.vwaitc .gt { k := 0, ke := false, kz := false, ca := false, cb := false, cc := false, tk := 5, sz := .q, sx := false, ord := .none, scope := .hart, t := .no } (some 5) (some 4) none (.g 12)) ∧
    decodeWord 0xA600000000000000 = some (.tseal) ∧
    decodeWord 0xA900044960000000 = some (.twait .tt (some 4) (some 11)) ∧
    decodeWord 0xA880044000000000 = some (.twait .tj (some 4) none) := by
  decide +kernel
theorem test_decode_matrix :
    decodeWord 0xB00E480000000000 = some (.macq (some 9) 3) ∧
    decodeWord 0xB208000000000000 = some (.mrel 2) ∧
    decodeWord 0xB404000000000000 = some (.mzero 1) ∧
    decodeWord 0xB6180317400EC000 = some
    (.mopa { k := 3, ke := true, kz := false, ca := true, cb := true, cc := false, p := false, rm := .dyn, sat := false } true 2 49 58) ∧
    decodeWord 0xB8188C4000000000 = some (.mrd true (some 17) 2 (some 4)) ∧
    decodeWord 0xBA14031960008000 = some
    (.mwr { k := 0, ke := false, kz := false, ca := true, cb := false, cc := false, p := false, rm := .dyn, sat := false } true 1 49 (some 11)) ∧
    decodeWord 0xBC0C044960000A26 = some
    (.mst { k := 0, ke := false, kz := false, ca := false, cb := false, cc := false, tk := 5, sz := .w, sx := false, ord := .rel, scope := .device, t := .no } false 3 (some 4) (some 11)) ∧
    decodeWord 0xBE1C044960000000 = some
    (.mldt { k := 0, ke := false, kz := false, ca := false, cb := false, cc := false, tk := 0, sz := .w, sx := false, ord := .none, scope := .hart, t := .no } true 3 (some 4) (some 11)) ∧
    decodeWord 0xC00804C060004000 = some
    (.mscale { k := 0, ke := false, kz := false, ca := false, cb := true, cc := false, p := false, rm := .dyn, sat := false } 2 (.g 12) (.vec 3)) := by
  decide +kernel
theorem test_decode_engine_1 :
    decodeWord 0xC4024A1000000000 = some (.pgopen (some 9) 33) ∧
    decodeWord 0xC6024B1437808000 = some
    (.pgsub { k := 0, ke := false, kz := false, ca := true, cb := false, cc := false, p := false, rm := .dyn, sat := false } (some 9) 49 33 (some 30)) ∧
    decodeWord 0xC800044000000000 = some (.pgclose (some 4)) ∧
    decodeWord 0xCA00031977800000 = some
    (.pgmerge { k := 0, ke := false, kz := false, ca := false, cb := false, cc := false, p := false, rm := .dyn, sat := false } 49 (some 11) (some 30)) ∧
    decodeWord 0xCC024C4000000008 = some (.pgstat (some 9) (some 4) 8) ∧
    decodeWord 0xD00004496000001F = some (.binit 31 (some 4) (some 11)) ∧
    decodeWord 0xD200000000000011 = some (.barrive 17) ∧
    decodeWord 0xD400044000000011 = some (.bexpect 17 (some 4)) ∧
    decodeWord 0xD600000000000011 = some (.bwait 17) ∧
    decodeWord 0xD802480000000011 = some (.btest (some 9) 17) ∧
    decodeWord 0xDA00021000000000 = some (.tcopy 33) ∧
    decodeWord 0xE000044000000007 = some (.ringcfg 7 (some 4)) := by
  decide +kernel
theorem test_decode_engine_2 :
    decodeWord 0xE200044000000007 = some (.rcommit 7 (some 4)) ∧
    decodeWord 0xE400000000000007 = some (.rwait 7) ∧
    decodeWord 0xE600000000000007 = some (.rrelease 7) ∧
    decodeWord 0xE802480000000017 = some (.rstat (some 9) 7 2) ∧
    decodeWord 0xEA08021000000000 = some (.csubmit 2 33) ∧
    decodeWord 0xEC00021000000000 = some (.fhtx 33) := by
  decide +kernel

/-! ### Ill-formed terms, one list for each check (R159 to R165) -/

theorem test_wf_plain_vector :
    ([fun q => .vadd q none .zero .zero, fun q => .vsub q none .zero .zero, fun q => .vmul q none .zero .zero,
     fun q => .vmulh q none .zero .zero, fun q => .vfma q none .zero .zero .zero,
     fun q => .vfms q none .zero .zero .zero,
     fun q => .vfnma q none .zero .zero .zero, fun q => .vmin q none .zero .zero, fun q => .vmax q none .zero .zero,
     fun q => .vabs q none .zero, fun q => .vneg q none .zero, fun q => .vand q none .zero .zero,
     fun q => .vor q none .zero .zero, fun q => .vxor q none .zero .zero, fun q => .vshl q none .zero .zero,
     fun q => .vshr q none .zero .zero, fun q => .vsar q none .zero .zero, fun q => .vclz q none .zero,
     fun q => .vpopc q none .zero, fun q => .vsel q none .zero .zero none, fun q => .vaddc q none .zero .zero none,
     fun q => .vsubb q none .zero .zero none, fun q => .vcmp q .eq none .zero .zero,
     fun q => .vcvt q .n64 0 none .zero,
     fun q => .vrcp q none .zero, fun q => .vrsqrt q none .zero, fun q => .vsqrt q none .zero,
     fun q => .vdiv q none .zero .zero, fun q => .vexp2 q none .zero, fun q => .vlog2 q none .zero,
     fun q => .vcmul q none .zero .zero, fun q => .vcmac q none .zero .zero .zero, fun q => .vconj q none .zero,
     fun q => .vcabs2 q none .zero, fun q => .vcrot q 0 none .zero, fun q => .vbfly q 0 none .zero .zero,
     fun q => .vgjstep q 0 0 none 0, fun q => .vbfpexp q 0 none 0, fun q => .vbfpcmp q 0 none 0,
     fun q => .vslideup q none 0 none, fun q => .vslidedn q none 0 none, fun q => .vperm q none 0 0,
     fun q => .vbcast q none 0 none, fun q => .vcompress q none 0 none, fun q => .vexpand q none 0 none,
     fun q => .viota q none none, fun q => .vzip q none 0 0, fun q => .vunzip q none 0 0,
     fun q => .vredsum q none 0, fun q => .vredmax q none 0, fun q => .vredmin q none 0,
     fun q => .vscan q none 0, fun q => .mopa q false 0 0 0, fun q => .mwr q false 0 0 none,
     fun q => .mscale q 0 .zero .zero, fun q => .pgsub q none 0 0 none, fun q => .pgmerge q 0 none none].all
    fun f : VMod → Instr => (f vm0).wf) = true := by decide +kernel
theorem test_wf_mask_without_ke :
    ([fun q => .vadd q none .zero .zero, fun q => .vsub q none .zero .zero, fun q => .vmul q none .zero .zero,
     fun q => .vmulh q none .zero .zero, fun q => .vfma q none .zero .zero .zero,
     fun q => .vfms q none .zero .zero .zero,
     fun q => .vfnma q none .zero .zero .zero, fun q => .vmin q none .zero .zero, fun q => .vmax q none .zero .zero,
     fun q => .vabs q none .zero, fun q => .vneg q none .zero, fun q => .vand q none .zero .zero,
     fun q => .vor q none .zero .zero, fun q => .vxor q none .zero .zero, fun q => .vshl q none .zero .zero,
     fun q => .vshr q none .zero .zero, fun q => .vsar q none .zero .zero, fun q => .vclz q none .zero,
     fun q => .vpopc q none .zero, fun q => .vsel q none .zero .zero none, fun q => .vaddc q none .zero .zero none,
     fun q => .vsubb q none .zero .zero none, fun q => .vcmp q .eq none .zero .zero,
     fun q => .vcvt q .n64 0 none .zero,
     fun q => .vrcp q none .zero, fun q => .vrsqrt q none .zero, fun q => .vsqrt q none .zero,
     fun q => .vdiv q none .zero .zero, fun q => .vexp2 q none .zero, fun q => .vlog2 q none .zero,
     fun q => .vcmul q none .zero .zero, fun q => .vcmac q none .zero .zero .zero, fun q => .vconj q none .zero,
     fun q => .vcabs2 q none .zero, fun q => .vcrot q 0 none .zero, fun q => .vbfly q 0 none .zero .zero,
     fun q => .vgjstep q 0 0 none 0, fun q => .vbfpexp q 0 none 0, fun q => .vbfpcmp q 0 none 0,
     fun q => .vslideup q none 0 none, fun q => .vslidedn q none 0 none, fun q => .vperm q none 0 0,
     fun q => .vbcast q none 0 none, fun q => .vcompress q none 0 none, fun q => .vexpand q none 0 none,
     fun q => .viota q none none, fun q => .vzip q none 0 0, fun q => .vunzip q none 0 0,
     fun q => .vredsum q none 0, fun q => .vredmax q none 0, fun q => .vredmin q none 0,
     fun q => .vscan q none 0, fun q => .mopa q false 0 0 0, fun q => .mwr q false 0 0 none,
     fun q => .mscale q 0 .zero .zero, fun q => .pgsub q none 0 0 none, fun q => .pgmerge q 0 none none].all
    fun f : VMod → Instr => !(f { vm0 with k := 3 }).wf) = true := by decide +kernel
theorem test_wf_vector_ke :
    ([fun q => .vbfpcmp q 0 none 0, fun q => .vcompress q none 0 none, fun q => .vexpand q none 0 none,
     fun q => .viota q none none, fun q => .mwr q false 0 0 none, fun q => .mscale q 0 .zero .zero,
     fun q => .pgsub q none 0 0 none, fun q => .pgmerge q 0 none none].all
    fun f : VMod → Instr => !(f { vm0 with ke := true }).wf) = true := by decide +kernel
theorem test_wf_vector_kz :
    ([fun q => .vbfpcmp q 0 none 0, fun q => .vcompress q none 0 none, fun q => .vexpand q none 0 none,
     fun q => .viota q none none, fun q => .vredsum q none 0, fun q => .vredmax q none 0,
     fun q => .vredmin q none 0, fun q => .mopa q false 0 0 0, fun q => .mwr q false 0 0 none,
     fun q => .mscale q 0 .zero .zero, fun q => .pgsub q none 0 0 none, fun q => .pgmerge q 0 none none].all
    fun f : VMod → Instr => !(f { vm0 with kz := true, ke := true }).wf) = true := by decide +kernel
theorem test_wf_vector_ca : ([fun q => .viota q none none].all
    fun f : VMod → Instr => !(f { vm0 with ca := true }).wf) = true := by decide +kernel
theorem test_wf_vector_cb : ([fun q => .vabs q none .zero, fun q => .vneg q none .zero, fun q => .vclz q none .zero,
     fun q => .vpopc q none .zero, fun q => .vcvt q .n64 0 none .zero, fun q => .vrcp q none .zero,
     fun q => .vrsqrt q none .zero, fun q => .vsqrt q none .zero, fun q => .vexp2 q none .zero,
     fun q => .vlog2 q none .zero, fun q => .vconj q none .zero, fun q => .vcabs2 q none .zero,
     fun q => .vcrot q 0 none .zero, fun q => .vgjstep q 0 0 none 0, fun q => .vbfpexp q 0 none 0,
     fun q => .vbfpcmp q 0 none 0, fun q => .vslideup q none 0 none, fun q => .vslidedn q none 0 none,
     fun q => .vbcast q none 0 none, fun q => .vcompress q none 0 none, fun q => .vexpand q none 0 none,
     fun q => .viota q none none, fun q => .vredsum q none 0, fun q => .vredmax q none 0,
     fun q => .vredmin q none 0, fun q => .vscan q none 0, fun q => .mwr q false 0 0 none,
     fun q => .pgsub q none 0 0 none, fun q => .pgmerge q 0 none none].all
    fun f : VMod → Instr => !(f { vm0 with cb := true }).wf) = true := by decide +kernel
theorem test_wf_vector_cc :
    ([fun q => .vadd q none .zero .zero, fun q => .vsub q none .zero .zero, fun q => .vmul q none .zero .zero,
     fun q => .vmulh q none .zero .zero, fun q => .vmin q none .zero .zero, fun q => .vmax q none .zero .zero,
     fun q => .vabs q none .zero, fun q => .vneg q none .zero, fun q => .vand q none .zero .zero,
     fun q => .vor q none .zero .zero, fun q => .vxor q none .zero .zero, fun q => .vshl q none .zero .zero,
     fun q => .vshr q none .zero .zero, fun q => .vsar q none .zero .zero, fun q => .vclz q none .zero,
     fun q => .vpopc q none .zero, fun q => .vsel q none .zero .zero none, fun q => .vaddc q none .zero .zero none,
     fun q => .vsubb q none .zero .zero none, fun q => .vcmp q .eq none .zero .zero,
     fun q => .vcvt q .n64 0 none .zero,
     fun q => .vrcp q none .zero, fun q => .vrsqrt q none .zero, fun q => .vsqrt q none .zero,
     fun q => .vdiv q none .zero .zero, fun q => .vexp2 q none .zero, fun q => .vlog2 q none .zero,
     fun q => .vcmul q none .zero .zero, fun q => .vconj q none .zero, fun q => .vcabs2 q none .zero,
     fun q => .vcrot q 0 none .zero, fun q => .vbfly q 0 none .zero .zero, fun q => .vgjstep q 0 0 none 0,
     fun q => .vbfpexp q 0 none 0, fun q => .vbfpcmp q 0 none 0, fun q => .vslideup q none 0 none,
     fun q => .vslidedn q none 0 none, fun q => .vperm q none 0 0, fun q => .vbcast q none 0 none,
     fun q => .vcompress q none 0 none, fun q => .vexpand q none 0 none, fun q => .viota q none none,
     fun q => .vzip q none 0 0, fun q => .vunzip q none 0 0, fun q => .vredsum q none 0,
     fun q => .vredmax q none 0, fun q => .vredmin q none 0, fun q => .vscan q none 0,
     fun q => .mopa q false 0 0 0, fun q => .mwr q false 0 0 none, fun q => .mscale q 0 .zero .zero,
     fun q => .pgsub q none 0 0 none, fun q => .pgmerge q 0 none none].all
    fun f : VMod → Instr => !(f { vm0 with cc := true }).wf) = true := by decide +kernel
theorem test_wf_vector_p :
    ([fun q => .vslideup q none 0 none, fun q => .vslidedn q none 0 none, fun q => .vperm q none 0 0,
     fun q => .vbcast q none 0 none, fun q => .vcompress q none 0 none, fun q => .vexpand q none 0 none,
     fun q => .viota q none none, fun q => .vzip q none 0 0, fun q => .vunzip q none 0 0,
     fun q => .vredsum q none 0, fun q => .vredmax q none 0, fun q => .vredmin q none 0,
     fun q => .vscan q none 0, fun q => .mopa q false 0 0 0, fun q => .mwr q false 0 0 none,
     fun q => .mscale q 0 .zero .zero, fun q => .pgsub q none 0 0 none, fun q => .pgmerge q 0 none none].all
    fun f : VMod → Instr => !(f { vm0 with p := true }).wf) = true := by decide +kernel
theorem test_wf_vector_rm :
    ([fun q => .vcmp q .eq none .zero .zero, fun q => .mopa q false 0 0 0, fun q => .mwr q false 0 0 none,
     fun q => .mscale q 0 .zero .zero, fun q => .pgsub q none 0 0 none, fun q => .pgmerge q 0 none none].all
    fun f : VMod → Instr => !(f { vm0 with rm := .rne }).wf) = true := by decide +kernel
theorem test_wf_vector_sat :
    ([fun q => .vmulh q none .zero .zero, fun q => .vmin q none .zero .zero, fun q => .vmax q none .zero .zero,
     fun q => .vand q none .zero .zero, fun q => .vor q none .zero .zero, fun q => .vxor q none .zero .zero,
     fun q => .vshl q none .zero .zero, fun q => .vshr q none .zero .zero, fun q => .vsar q none .zero .zero,
     fun q => .vclz q none .zero, fun q => .vpopc q none .zero, fun q => .vsel q none .zero .zero none,
     fun q => .vaddc q none .zero .zero none, fun q => .vsubb q none .zero .zero none,
     fun q => .vcmp q .eq none .zero .zero,
     fun q => .vrcp q none .zero, fun q => .vrsqrt q none .zero, fun q => .vsqrt q none .zero,
     fun q => .vdiv q none .zero .zero, fun q => .vexp2 q none .zero, fun q => .vlog2 q none .zero,
     fun q => .vgjstep q 0 0 none 0, fun q => .vbfpexp q 0 none 0, fun q => .vbfpcmp q 0 none 0,
     fun q => .vslideup q none 0 none, fun q => .vslidedn q none 0 none, fun q => .vperm q none 0 0,
     fun q => .vbcast q none 0 none, fun q => .vcompress q none 0 none, fun q => .vexpand q none 0 none,
     fun q => .viota q none none, fun q => .vzip q none 0 0, fun q => .vunzip q none 0 0,
     fun q => .vredmax q none 0, fun q => .vredmin q none 0, fun q => .mopa q false 0 0 0,
     fun q => .mwr q false 0 0 none, fun q => .mscale q 0 .zero .zero, fun q => .pgsub q none 0 0 none,
     fun q => .pgmerge q 0 none none].all
    fun f : VMod → Instr => !(f { vm0 with sat := true }).wf) = true := by decide +kernel
theorem test_wf_plain_memory :
    ([fun x => .amo .add x none none none, fun x => .cas x none none none none, fun x => .vld x none none none,
     fun x => .vst x 0 none none, fun x => .vldx x none none 0, fun x => .vstx x 0 none 0,
     fun x => .vlds x none none none, fun x => .vsts x 0 none none, fun x => .vldsx x none none 0,
     fun x => .vstsx x 0 none 0, fun x => .vlds2 { x with sz := .p } none none none none,
     fun x => .vsts2 { x with sz := .p } 0 none none 0,
     fun x => .vamo .add x none none 0 .zero, fun x => .vsta .add x none 0 0,
     fun x => .vwaitc .eq x none none none .zero,
     fun x => .mst x false 0 none none, fun x => .mldt x false 0 none none].all
    fun f : MemX → Instr => (f { mx4 with sx := false }).wf) = true := by decide +kernel
theorem test_wf_memory_mask_without_ke :
    ([fun x => .amo .add x none none none, fun x => .cas x none none none none, fun x => .vld x none none none,
     fun x => .vst x 0 none none, fun x => .vldx x none none 0, fun x => .vstx x 0 none 0,
     fun x => .vlds x none none none, fun x => .vsts x 0 none none, fun x => .vldsx x none none 0,
     fun x => .vstsx x 0 none 0, fun x => .vlds2 { x with sz := .p } none none none none,
     fun x => .vsts2 { x with sz := .p } 0 none none 0,
     fun x => .vamo .add x none none 0 .zero, fun x => .vsta .add x none 0 0,
     fun x => .vwaitc .eq x none none none .zero,
     fun x => .mst x false 0 none none, fun x => .mldt x false 0 none none].all
    fun f : MemX → Instr => !(f { mx4 with sx := false, k := 3 }).wf) = true := by decide +kernel
theorem test_wf_memory_ke :
    ([fun x => .amo .add x none none none, fun x => .cas x none none none none, fun x => .mst x false 0 none none,
     fun x => .mldt x false 0 none none].all
    fun f : MemX → Instr => !(f { mx4 with sx := false, ke := true }).wf) = true := by decide +kernel
theorem test_wf_memory_kz :
    ([fun x => .amo .add x none none none, fun x => .cas x none none none none, fun x => .vst x 0 none none,
     fun x => .vstx x 0 none 0, fun x => .vsts x 0 none none, fun x => .vstsx x 0 none 0,
     fun x => .vsts2 { x with sz := .p } 0 none none 0, fun x => .vsta .add x none 0 0,
     fun x => .vwaitc .eq x none none none .zero,
     fun x => .mst x false 0 none none, fun x => .mldt x false 0 none none].all
    fun f : MemX → Instr => !(f { mx4 with sx := false, kz := true, ke := true }).wf) = true := by decide +kernel
theorem test_wf_memory_cb :
    ([fun x => .amo .add x none none none, fun x => .cas x none none none none, fun x => .vld x none none none,
     fun x => .vst x 0 none none, fun x => .vlds x none none none, fun x => .vsts x 0 none none,
     fun x => .vlds2 { x with sz := .p } none none none none, fun x => .vsts2 { x with sz := .p } 0 none none 0,
     fun x => .vwaitc .eq x none none none .zero,
     fun x => .mst x false 0 none none, fun x => .mldt x false 0 none none].all
    fun f : MemX → Instr => !(f { mx4 with sx := false, cb := true }).wf) = true := by decide +kernel
theorem test_wf_memory_cc :
    ([fun x => .amo .add x none none none, fun x => .cas x none none none none, fun x => .vld x none none none,
     fun x => .vst x 0 none none, fun x => .vldx x none none 0, fun x => .vstx x 0 none 0,
     fun x => .vlds x none none none, fun x => .vsts x 0 none none, fun x => .vldsx x none none 0,
     fun x => .vstsx x 0 none 0, fun x => .vlds2 { x with sz := .p } none none none none,
     fun x => .mst x false 0 none none,
     fun x => .mldt x false 0 none none].all
    fun f : MemX → Instr => !(f { mx4 with sx := false, cc := true }).wf) = true := by decide +kernel
theorem test_wf_memory_tick :
    ([fun x => .vld x none none none, fun x => .vldx x none none 0, fun x => .vlds x none none none,
     fun x => .vsts x 0 none none, fun x => .vldsx x none none 0, fun x => .vstsx x 0 none 0,
     fun x => .vlds2 { x with sz := .p } none none none none, fun x => .vsts2 { x with sz := .p } 0 none none 0,
     fun x => .vwaitc .eq x none none none .zero,
     fun x => .mst x false 0 none none, fun x => .mldt x false 0 none none].all
    fun f : MemX → Instr => !(f { mx4 with sx := false, t := .tj }).wf) = true := by decide +kernel
theorem test_wf_memory_ca :
    ([fun x => .amo .add x none none none, fun x => .cas x none none none none, fun x => .vld x none none none,
     fun x => .vst x 0 none none, fun x => .vldx x none none 0, fun x => .vstx x 0 none 0,
     fun x => .vlds x none none none, fun x => .vsts x 0 none none, fun x => .vldsx x none none 0,
     fun x => .vstsx x 0 none 0, fun x => .vlds2 { x with sz := .p } none none none none,
     fun x => .vsts2 { x with sz := .p } 0 none none 0,
     fun x => .vamo .add x none none 0 .zero, fun x => .vsta .add x none 0 0,
     fun x => .vwaitc .eq x none none none .zero,
     fun x => .mst x false 0 none none, fun x => .mldt x false 0 none none].all
    fun f : MemX → Instr => !(f { mx4 with sx := false, ca := true }).wf) = true := by decide +kernel
theorem test_wf_memory_scope_without_ord :
    ([fun x => .amo .add x none none none, fun x => .cas x none none none none, fun x => .vld x none none none,
     fun x => .vst x 0 none none, fun x => .vldx x none none 0, fun x => .vstx x 0 none 0,
     fun x => .vlds x none none none, fun x => .vsts x 0 none none, fun x => .vldsx x none none 0,
     fun x => .vstsx x 0 none 0, fun x => .vlds2 { x with sz := .p } none none none none,
     fun x => .vsts2 { x with sz := .p } 0 none none 0,
     fun x => .vamo .add x none none 0 .zero, fun x => .vsta .add x none 0 0,
     fun x => .vwaitc .eq x none none none .zero,
     fun x => .mst x false 0 none none, fun x => .mldt x false 0 none none].all
    fun f : MemX → Instr => !(f { mx4 with sx := false, scope := .system }).wf) = true := by decide +kernel
theorem test_wf_memory_sx_with_8_bytes :
    ([fun x => .amo .add x none none none, fun x => .cas x none none none none, fun x => .vld x none none none,
     fun x => .vst x 0 none none, fun x => .vldx x none none 0, fun x => .vstx x 0 none 0,
     fun x => .vlds x none none none, fun x => .vsts x 0 none none, fun x => .vldsx x none none 0,
     fun x => .vstsx x 0 none 0, fun x => .vamo .add x none none 0 .zero, fun x => .vsta .add x none 0 0,
     fun x => .vwaitc .eq x none none none .zero, fun x => .mst x false 0 none none,
     fun x => .mldt x false 0 none none].all
    fun f : MemX → Instr => !(f { mx4 with sx := true, sz := .q }).wf) = true := by decide +kernel
theorem test_wf_memory_sx : ([fun x => .vst x 0 none none, fun x => .vstx x 0 none 0, fun x => .vsts x 0 none none,
     fun x => .vstsx x 0 none 0, fun x => .mst x false 0 none none, fun x => .mldt x false 0 none none].all
    fun f : MemX → Instr => !(f mx4).wf) = true := by decide +kernel
theorem test_wf_memory_sz_16 :
    ([fun x => .amo .add x none none none, fun x => .vld x none none none, fun x => .vst x 0 none none,
     fun x => .vldx x none none 0, fun x => .vstx x 0 none 0, fun x => .vlds x none none none,
     fun x => .vsts x 0 none none, fun x => .vldsx x none none 0, fun x => .vstsx x 0 none 0,
     fun x => .vamo .add x none none 0 .zero, fun x => .vsta .add x none 0 0,
     fun x => .vwaitc .eq x none none none .zero,
     fun x => .mst x false 0 none none, fun x => .mldt x false 0 none none].all
    fun f : MemX → Instr => !(f { mx4 with sx := false, sz := .p }).wf) = true := by decide +kernel
theorem test_wf_memory_sz_reserved :
    ([fun x => .amo .add x none none none, fun x => .cas x none none none none, fun x => .vld x none none none,
     fun x => .vst x 0 none none, fun x => .vldx x none none 0, fun x => .vstx x 0 none 0,
     fun x => .vlds x none none none, fun x => .vsts x 0 none none, fun x => .vldsx x none none 0,
     fun x => .vstsx x 0 none 0, fun x => .vamo .add x none none 0 .zero, fun x => .vsta .add x none 0 0,
     fun x => .vwaitc .eq x none none none .zero, fun x => .mst x false 0 none none,
     fun x => .mldt x false 0 none none].all
    fun f : MemX → Instr => !(f { mx4 with sx := false, sz := .rsv }).wf) = true := by decide +kernel
theorem test_wf_memory_token :
    ([fun x => .amo .add x none none none, fun x => .cas x none none none none, fun x => .vlds x none none none,
     fun x => .vsts x 0 none none, fun x => .vldsx x none none 0, fun x => .vstsx x 0 none 0,
     fun x => .vlds2 { x with sz := .p } none none none none, fun x => .vsts2 { x with sz := .p } 0 none none 0].all
    fun f : MemX → Instr => !(f { mx4 with sx := false, tk := 1 }).wf) = true := by decide +kernel
theorem test_wf_shift_amount : ([.aluiShl none none 64, .aluiShr none none 64, .aluiSar none none 64].all
    fun i : Instr => !i.wf) = true := by decide +kernel
theorem test_wf_shift_amount_63 : ([.aluiShl none none 63, .aluiShr none none 63, .aluiSar none none 63].all
    fun i : Instr => i.wf) = true := by decide +kernel
theorem test_wf_load :
    ([.ld { ld4 with t := .tj } none none, .ld { ld4 with sx := true, size := 3 } none none, .ld { ld4 with scope := .core } none none].all
    fun i : Instr => !i.wf) = true := by decide +kernel
theorem test_wf_store :
    ([.st ld4 none none, .st { ld4 with sx := false, sp := true, t := .tt } none none, .st { ld4 with sx := false, scope := .core } none none].all
    fun i : Instr => !i.wf) = true := by decide +kernel
theorem test_wf_cas_pair :
    ([.cas { mx4 with sx := false, sz := .p } (some 3) none none none, .cas { mx4 with sx := false, sz := .p } none none (some 5) none, .cas { mx4 with sx := false, sz := .p } none none none (some 7)].all
    fun i : Instr => !i.wf) = true := by decide +kernel
theorem test_wf_sz_16_only :
    ([.vlds2 { mx4 with sx := false } none none none none, .vsts2 { mx4 with sx := false } 0 none none 0].all
    fun i : Instr => !i.wf) = true := by decide +kernel
theorem test_wf_vlds2_same_register : ([.vlds2 { mx4 with sx := false, sz := .p } (some 3) none none (some 3)].all
    fun i : Instr => !i.wf) = true := by decide +kernel
theorem test_wf_vsta :
    ([.vsta .swap { mx4 with sx := false } none 0 0, .vsta .add { mx4 with sx := false, ord := .acq } none 0 0, .vsta .add { mx4 with sx := false, ord := .ar } none 0 0].all
    fun i : Instr => !i.wf) = true := by decide +kernel
theorem test_wf_vwaitc : ([.vwaitc .ult { mx4 with sx := false } none none none .zero].all
    fun i : Instr => !i.wf) = true := by decide +kernel
theorem test_wf_fence_at_hart_scope : ([.fence .all .hart].all
    fun i : Instr => !i.wf) = true := by decide +kernel
theorem test_wf_abump_alignment : ([.abump none none 0 17].all
    fun i : Instr => !i.wf) = true := by decide +kernel
theorem test_wf_abump_alignment_16 : ([.abump none none 0 16].all
    fun i : Instr => i.wf) = true := by decide +kernel
theorem test_wf_vgjstep_pivot : ([.vgjstep vm0 0 2 none 0, .vgjstep vm0 1 4 none 0].all
    fun i : Instr => !i.wf) = true := by decide +kernel
theorem test_wf_vgjstep_pivots : ([.vgjstep vm0 0 1 none 0, .vgjstep vm0 2 7 none 0].all
    fun i : Instr => i.wf) = true := by decide +kernel
theorem test_wf_vcvt : ([.vcvt vm0 .none 0 none .zero, .vcvt vm0 .f32x2 4 none .zero, .vcvt vm0 .cf32 2 none .zero,
     .vcvt { vm0 with sat := true } .f64 0 none .zero].all
    fun i : Instr => !i.wf) = true := by decide +kernel
theorem test_wf_twait : ([.twait .no none none, .twait .tj none (some 1)].all
    fun i : Instr => !i.wf) = true := by decide +kernel
theorem test_wf_tile_memory :
    ([.mst { mx4 with sx := false, ord := .acq } false 0 none none, .mldt { mx4 with sx := false, ord := .rel } false 0 none none, .mst { mx4 with sx := false, tk := 1 } true 0 none none,
     .mldt { mx4 with sx := false, tk := 1 } true 0 none none].all
    fun i : Instr => !i.wf) = true := by decide +kernel

/-! ### Worked examples of the spec -/

/-- Element `e` of vector register `v`, and register `g`. -/
def el (s : State) (v : Fin 60) (e : Fin 128) : Word := s.me.v[v].el[e]
def gr (s : State) (r : Fin 32) : Word := s.me.g[r]
/-- A user hart with vector registers and `vl`. -/
def vu (n : Nat) (l : List (Nat × VReg)) : State := u0.modMe fun h => vregs l { h with vl := n }
def lst (t : Tag) (l : List Nat) : VReg := vreg t fun e => l.getD e 0
/-- The constant of the example under Table 8-3: `LI`, then `LIH`. -/
theorem test_li_then_lih :
    gr (after (.li (some 9) 0xFFFFF24A8) u0) 9 = 0xFFFFFFFFFFFF24A8 ∧
    gr (after (.lih (some 9) 0x714010F) (u0.modMe (regs [(9, 0xFFFFFFFFFFFF24A8)]))) 9 = 0x714010FFFFFF24A8 := by decide +kernel
/-- R175: the most negative number by -1, and a divisor of 0. -/
theorem test_div :
    gr (after (.div false (some 3) (some 6) (some 7)) u0) 3 = 0x8000000000000000 ∧
    gr (after (.div true (some 3) (some 1) none) u0) 3 = 0xFFFFFFFFFFFFFFFF ∧
    gr (after (.rem true (some 3) (some 1) none) u0) 3 = 0x1000 := by decide +kernel
/-- A product of -3 and -1 is 3: its high half is 0 when signed, and 2^64 - 4 when not. -/
theorem test_mulhi :
    gr (after (.mulhi false (some 3) (some 3) (some 7)) u0) 3 = 0 ∧
    gr (after (.mulhi true (some 3) (some 3) (some 7)) u0) 3 = 0xFFFFFFFFFFFFFFFC := by decide +kernel
/-- 1 + 2^-24 lies halfway between two binary32 values: even under RNE, up under RUP. -/
theorem test_fadd_tie :
    gr (after (.fadd false .rne (some 3) (some 1) (some 2)) (u0.modMe (regs [(1, 0x3F800000), (2, 0x33800000)]))) 3 = 0x3F800000 ∧
    gr (after (.fadd false .rup (some 3) (some 1) (some 2)) (u0.modMe (regs [(1, 0x3F800000), (2, 0x33800000)]))) 3 = 0x3F800001 := by
  decide +kernel
/-- The example of R211: `VCVT` to bfloat16, part 0 and then part 1. -/
theorem test_vcvt_bf16 :
    el (after (.vcvt vm0 .bf16x4 0 (some 10) (.vec 8)) (vu 128 [(8, lst .f32x2 [0x404000003F000000]), (10, lst .bf16x4 [])])) 10 0 = 0x0000000040403F00 ∧
    el (after (.vcvt vm0 .bf16x4 1 (some 10) (.vec 9)) (vu 128
      [(9, lst .f32x2 [0xC00000003F800000, 0x3EAAAAAB]), (10, lst .bf16x4 [0x40403F00])])) 10 0 = 0xC0003F8040403F00 ∧
    el (after (.vcvt vm0 .bf16x4 1 (some 10) (.vec 9)) (vu 128
      [(9, lst .f32x2 [0xC00000003F800000, 0x3EAAAAAB]), (10, lst .bf16x4 [0x40403F00])])) 10 1 = 0x00003EAB00000000 := by decide +kernel
/-- The example of R80: 300, 460 and 470 to E4M3, and 470 with SAT. -/
theorem test_vcvt_e4m3 :
    el (after (.vcvt vm0 .e4m3x8 0 (some 10) (.vec 8)) (vu 2 [(8, lst .f32x2 [0x43E6000043960000, 0x43EB0000])])) 10 0 = 0x7E79 ∧
    el (after (.vcvt vm0 .e4m3x8 0 (some 10) (.vec 8)) (vu 2 [(8, lst .f32x2 [0x43E6000043960000, 0x43EB0000])])) 10 1 = 0x7F ∧
    el (after (.vcvt { vm0 with sat := true } .e4m3x8 0 (some 10) (.vec 8))
      (vu 2 [(8, lst .f32x2 [0x43E6000043960000, 0x43EB0000])])) 10 1 = 0x7E := by decide +kernel
/-- The example of R86: step 0 on [[1, 1], [1, -1]]. -/
theorem test_vgjstep :
    let t := after (.vgjstep vm0 0 0 (some 10) 8) (vu 4 [(8, lst .cf32 [0x3F800000, 0x3F800000, 0x3F800000, 0xBF800000])])
    el t 10 0 = 0x800000003F800000 ∧ el t 10 1 = 0x3F800000 ∧ el t 10 2 = 0xBF800000 ∧ el t 10 3 = 0xC0000000 := by decide +kernel
/-- The example of R97: `VRCP` of 3.0, with NX set. -/
theorem test_vrcp :
    let t := after (.vrcp vm0 (some 10) (.vec 8)) (vu 1 [(8, lst .f32x2 [0x4040000040400000])])
    el t 10 0 = 0x3EAAAAAA3EAAAAAA ∧ t.me.fcsr = 0x09 := by decide +kernel
/-- R90 with `vl` = 5: ((2^24 + 1) + (1 + 1)) + 1, each sum rounded, where a sum from the left would give 2^24. -/
theorem test_vredsum :
    el (after (.vredsum vm0 (some 10) 8) (vu 5 [(8, lst .f32x2 [0x4B800000, 0x3F800000, 0x3F800000, 0x3F800000, 0x3F800000])])) 10 0
      = 0x4B800002 := by decide +kernel
/-- The example of R89: the exponent of a PRB is 2, and 1,000 and -1,023 are sent as 250 and -256. -/
theorem test_vbfpcmp :
    let t := after (.vbfpcmp vm0 8 (some 10) 8) (vu 6 [(8, lst .ci16x2 [0xFC0103E8FC0103E8])])
    el t 10 0 % 2 ^ 8 = 2 := by decide +kernel
/-- The example of R101 and R102: two partials merge, and their output is 0x401A. -/
theorem test_partials :
    let a : Partial := { m := 0x40400000, l := 0x40000000, o := [0x40800000] }
    let b : Partial := { m := 0x3F800000, l := 0x40000000, o := [0x41000000] }
    a.merge b = { m := 0x40400000, l := 0x40200000, o := [0x40C00000] } := by decide +kernel
/-- The example under Table 1-7. -/
theorem test_cap3 : gr (after (.csrr (some 3) 0x033)
    { u0 with hgen := 6, cxlv := 3, hwid := 16, tgen := 6, twid := 8, hostc := true, tstate := 1, sen := true, synceLock := true }) 3 = 0x638068E000000000 := by decide +kernel

/-! ### Hypotheses met: Decoding, the step and translation -/

/-- A word of zeros at the PC, which is no instruction. -/
def u1bad : State := u1.modMe fun h => { h with pc := 0x2000 }
/-- A PC on a page that nothing maps. -/
def u1far : State := u1.modMe fun h => { h with pc := 0x10000 }
theorem hyps_DecodedWordsEncodeBack_0 : ∃ (w : BitVec 64) (i : Instr),
      decodeWord w = some i :=
  ⟨0x2A00000000000000, .nop, by decide +kernel⟩
theorem hyps_DecodedWordsEncodeBack_1 : ∃ (i j : Instr),
      i.wf = true ∧
      j.wf = true ∧
      Instr.isStep i = false ∧
      Instr.isStep j = false ∧
      encode i = encode j :=
  ⟨.nop, .nop, by decide +kernel⟩
theorem hyps_DecodeInvertsEncode : ∃ (i : Instr),
      i.wf = true ∧
      Instr.isStep i = false :=
  ⟨.csrr (some 31) 0xFFF, by decide +kernel⟩
theorem hyps_StepRunsTheDecodedInstruction : ∃ (s u t : State) (w : Word) (i : Instr),
      u = s.tick ∧
      (u.tickDue = false ∧ u.agenda = [] ∧ u.duty = .instr) ∧
      u.fetch = (.ok w, t) ∧
      decodeWord w = some i ∧
      t.unfilled i = false :=
  ⟨u1, _, (u1.tick).fetch.2, 0x2A00000000000000, .nop, rfl, by decide +kernel, Prod.ext (by decide +kernel) rfl,
    by decide +kernel⟩
theorem hyps_FetchesThatFailTrap_0 : ∃ (s u t : State) (w : Word),
      u = s.tick ∧
      (u.tickDue = false ∧ u.agenda = [] ∧ u.duty = .instr) ∧
      u.fetch = (.ok w, t) ∧
      decodeWord w = none ∧
      t.live ∧
      t.atS = false ∧
      t.me.sup.svec ≠ 0 :=
  ⟨(u1bad), _, (u1bad.tick).fetch.2, 0, rfl, by decide +kernel, Prod.ext (by decide +kernel) rfl, by decide +kernel,
    Option.isSome_iff_exists.mp (by decide +kernel), by decide +kernel⟩
theorem hyps_FetchesThatFailTrap_1 : ∃ (s u : State) (c : Cause),
      u = s.tick ∧
      (u.tickDue = false ∧ u.agenda = [] ∧ u.duty = .instr ∧ u.choices = [] ∧ (u.translate .fetch u.pcv).1 = .error c) ∧
      u.live ∧
      u.atS = false ∧
      u.me.sup.svec ≠ 0 ∧
      u.me.ei < 128 :=
  ⟨(u1far), _, .pagefault, rfl, by decide +kernel, Option.isSome_iff_exists.mp (by decide +kernel), by decide +kernel⟩
theorem hyps_TranslationChecksTheLeaf : ∃ (s : State) (u : Use) (va : Word) (l : Leaf),
      s.choices = [] ∧
      s.atS = false ∧
      s.walk s.myGang.p s.myVf va.toNat = .ok l :=
  ⟨u1, .read, 0xFFFF, { pin := page, x := true, sup := false }, by decide +kernel⟩
theorem hyps_StepsKeepMemoryCanonical : ∃ (s t : State),
      (s.memWf ∧ s.spWf) ∧
      step s = .next t :=
  ⟨u1, (nextOf u1 (step u1)), ⟨by unfold State.memWf; decide +kernel, by unfold State.spWf; decide +kernel⟩,
    eq_next (by decide +kernel)⟩

/-! ### Hypotheses met: Scalar instructions -/

theorem hyps_IntegerInstructionsWriteTheirResult : ∃ (s : State) (i : Instr) (d : GOp) (v : Word),
      IntegerOp s i d v ∧
      s.live :=
  ⟨u1, _, (some 3), _, .mulhi false (some 3) (some 6) (some 7), Option.isSome_iff_exists.mp (by decide +kernel)⟩
theorem hyps_DivisionNeverTraps_0 : ∃ (s : State) (u : Bool) (d a b : GOp),
      s.live ∧
      s.rg b = 0 :=
  ⟨u1, true, (some 3), (some 1), none, Option.isSome_iff_exists.mp (by decide +kernel), by decide +kernel⟩
theorem hyps_DivisionNeverTraps_1 : ∃ (s : State) (u : Bool) (d a b : GOp),
      s.live ∧
      s.rg a = 0x8000000000000000 ∧
      s.rg b = 0xFFFFFFFFFFFFFFFF :=
  ⟨u1, false, (some 3), (some 6), (some 7), Option.isSome_iff_exists.mp (by decide +kernel), by decide +kernel⟩
theorem hyps_DivisionNeverTraps_2 : ∃ (s : State) (u : Bool) (d a b : GOp),
      s.live :=
  ⟨u1, true, (some 3), (some 1), none, Option.isSome_iff_exists.mp (by decide +kernel)⟩
theorem hyps_FloatInstructionsRoundOnce : ∃ (s : State) (i : Instr) (d : GOp) (r : Nat × Flags),
      FloatOp s i d r ∧
      s.live :=
  ⟨u1, _, (some 3), _, .fadd true .rup (some 3) (some 1) (some 2), Option.isSome_iff_exists.mp (by decide +kernel)⟩
theorem hyps_TransfersGoToTheirTarget : ∃ (s : State) (i : Instr) (d : GOp) (v pc : Word),
      JumpOp s i d v pc ∧
      s.live :=
  ⟨u1, _, _, _, _, .jalr (some 3) (some 8) 8 (by decide +kernel), Option.isSome_iff_exists.mp (by decide +kernel)⟩

/-! ### Hypotheses met: Traps and control registers -/

/-- A user hart without a supervisor image. -/
def u2 : State := u1.modMe fun h => { h with sup := { h.sup with svec := 0 } }
theorem hyps_TrapsEnterTheSupervisorOrKill_0 : ∃ (s : State) (i : Instr) (op c d : Nat) (epc : Word),
      UserTrapOp s i op c d epc ∧
      s.live ∧
      s.atS = false ∧
      s.me.sup.svec ≠ 0 :=
  ⟨u1, _, _, _, _, _, .jalr (some 3) (some 2) 2 (by decide +kernel), Option.isSome_iff_exists.mp (by decide +kernel),
    by decide +kernel⟩
theorem hyps_TrapsEnterTheSupervisorOrKill_1 : ∃ (s : State) (i : Instr) (op c d : Nat) (epc : Word),
      UserTrapOp s i op c d epc ∧
      s.live ∧
      s.atS = false ∧
      s.me.sup.svec = 0 ∧
      s.me.over = false ∧
      s.me.stores = [] :=
  ⟨u2, _, _, _, _, _, .svc 0xFFFF, Option.isSome_iff_exists.mp (by decide +kernel), by decide +kernel⟩
theorem hyps_SupervisorMayNotRunUserInstructions_0 : ∃ (s : State) (i : Instr),
      SupIllegalOp i ∧
      s.live ∧
      s.atS = true ∧
      s.me.stores = [] :=
  ⟨s0, _, .jend, Option.isSome_iff_exists.mp (by decide +kernel), by decide +kernel⟩
theorem hyps_SupervisorMayNotRunUserInstructions_1 : ∃ (s : State) (n : BitVec 16),
      s.live ∧
      s.atS = true ∧
      s.me.stores = [] :=
  ⟨s0, 77, Option.isSome_iff_exists.mp (by decide +kernel), by decide +kernel⟩
theorem hyps_SupervisorMayNotRunUserInstructions_2 : ∃ (s : State) (i : Instr),
      SupTicketOp i ∧
      s.live ∧
      s.atS = true ∧
      s.me.stores = [] :=
  ⟨s0, _, .tseal, Option.isSome_iff_exists.mp (by decide +kernel), by decide +kernel⟩
theorem hyps_ControlRegistersAreReadAndWritten_0 : ∃ (s : State) (d : GOp) (num : BitVec 12) (v : Word),
      CsrValue s num.toNat v ∧
      s.live :=
  ⟨u1, (some 3), 0x031, _, .cap1, Option.isSome_iff_exists.mp (by decide +kernel)⟩
theorem hyps_ControlRegistersAreReadAndWritten_1 : ∃ (s : State) (i : Instr) (n : Nat) (d : GOp) (old w v : Word),
      CsrUpdateOp s old i n d w ∧
      s.live ∧
      s.csrRead n = .ok old ∧
      s.csrStored n old w = some v :=
  ⟨s0, _, 0x100, none, (readCsr s0 0x100), _, ((s0.csrStored 0x100 (readCsr s0 0x100) (s0.rg (some 7))).getD 0),
    .csrw (some 7) 0x100, Option.isSome_iff_exists.mp (by decide +kernel), by decide +kernel⟩
theorem hyps_ControlRegistersAreReadAndWritten_2 : ∃ (s : State) (i : Instr) (n : Nat) (d : GOp) (old w : Word),
      CsrUpdateOp s old i n d w ∧
      s.live ∧
      s.atS = false ∧
      s.me.sup.svec ≠ 0 ∧
      s.csrRead n = .ok old ∧
      s.me.vl ≤ 128 ∧
      (3 ≤ n ∨ n = 2 ∧ (bits w 2 0 = 0 ∨ 6 ≤ bits w 2 0)) :=
  ⟨u1, _, 2, none, (u1.me.fcsr.setWidth 64), (u1.rg (some 8)), .csrw (some 8) 2,
    Option.isSome_iff_exists.mp (by decide +kernel), by decide +kernel⟩
theorem hyps_ControlRegistersAreReadAndWritten_3 : ∃ (s : State) (i : Instr) (n : Nat) (d : GOp) (old w : Word),
      CsrUpdateOp s old i n d w ∧
      s.live ∧
      s.atS = false ∧
      s.me.sup.svec ≠ 0 ∧
      s.csrRead n = .ok old ∧
      s.me.vl ≤ 128 ∧
      n = 0 ∧
      128 < w.toNat :=
  ⟨u1, _, 0, none, (word u1.me.vl), (u1.rg (some 1)), .csrw (some 1) 0,
    Option.isSome_iff_exists.mp (by decide +kernel), by decide +kernel⟩
theorem hyps_ControlRegistersAreReadAndWritten_4 : ∃ (s : State) (i : Instr) (n : Nat) (d : GOp) (old w : Word),
      CsrUpdateOp s old i n d w ∧
      s.live ∧
      s.atS = true ∧
      s.me.stores = [] ∧
      s.csrRead n = .ok old ∧
      (3 ≤ n ∧ n < 0xC0 ∨ n = 2 ∧ (bits w 2 0 = 0 ∨ 6 ≤ bits w 2 0)) :=
  ⟨s0, _, 2, none, (s0.me.fcsr.setWidth 64), (s0.rg (some 8)), .csrw (some 8) 2,
    Option.isSome_iff_exists.mp (by decide +kernel), by decide +kernel⟩
theorem hyps_ControlRegistersAreReadAndWritten_5 : ∃ (s : State) (i : Instr) (n : Nat) (d : GOp) (old w : Word),
      CsrUpdateOp s old i n d w ∧
      s.live ∧
      s.atS = true ∧
      s.me.stores = [] ∧
      s.csrRead n = .ok old ∧
      n = 0 ∧
      128 < w.toNat :=
  ⟨s0, _, 0, none, (word s0.me.vl), (s0.rg (some 1)), .csrw (some 1) 0,
    Option.isSome_iff_exists.mp (by decide +kernel), by decide +kernel⟩

/-! ### Hypotheses met: Scalar memory -/

/-- A scratchpad with bytes. -/
def sp1 : State := onGang (fun g => { g with sp := Mem.write g.sp 0x1000 [1, 2, 3, 4, 0x85, 6, 7, 8, 9, 10] }) u1
/-- A gang of a later index, whose hart's ticket the commit right has not reached. -/
def noRight : State := onGang (fun g => { g with index := 9 }) u1

/-- A near page of the host at address 0x10000, whose address `g1` holds; the line at 0x1000 is poisoned. -/
def hostPage : State :=
  { u1 with dev := Mem.write u1.dev (fetchTables + 8192 * 3 + 8) (bytesOfNat 8 (0x10000 + 0x21F)) }.modMe (regs [(1, 0x10000)])
def badLine : State := { u1 with devPoison := [0x1000 / 128] }
theorem hyps_LoadsWriteTheirRegister_0 : ∃ (s : State) (q : LdSt) (d a : GOp) (l : Loc) (pin : Pin),
      s.live ∧
      s.calm ∧
      q.sp = false ∧
      s.reaches .read (LdSt.ea q (s.rg a)) (2 ^ q.size.val) l pin ∧
      s.readPoison l (2 ^ q.size.val) = false ∧
      s.waitsOwn false (releases q.ord) [(l, 2 ^ q.size.val)] = false :=
  ⟨u1, ld4, (some 3), (some 1), (dl 0x1008), page, Option.isSome_iff_exists.mp (by decide +kernel),
    ⟨by decide +kernel, by decide +kernel⟩, by decide +kernel, ⟨by decide +kernel, by decide +kernel⟩,
    by decide +kernel⟩
theorem hyps_LoadsWriteTheirRegister_1 : ∃ (s : State) (q : LdSt) (d a : GOp) (k : SpPlace),
      s.live ∧
      s.me.stores = [] ∧
      q.sp = true ∧
      s.myGang.spCheck .read (LdSt.ea q (s.rg a)) (2 ^ q.size.val) = .ok k ∧
      s.myGang.spStall false k = none ∧
      s.myGang.spPoisoned (s.myGang.spMap k) (2 ^ q.size.val) = false ∧
      s.waitsOwn false (releases q.ord) [] = false :=
  ⟨sp1, { ld4 with sp := true, off := 4 }, (some 3), (some 1), (.plain 0x1004),
    Option.isSome_iff_exists.mp (by decide +kernel), by decide +kernel⟩
theorem hyps_StoresWriteTheirBytesOnly_0 : ∃ (s : State) (q : LdSt) (d a : GOp) (l : Loc) (pin : Pin),
      s.live ∧
      s.memWf ∧
      s.calm ∧
      (q.sp = false ∧ s.ticketCheck q.t = none ∧ s.myGang.diverged = false ∧ (q.t = .no ∧ s.waitsOwn false (releases q.ord) [(l, 2 ^ q.size.val)] = false ∨ q.t ≠ .no ∧ s.direct (q.t == .tt) = true)) ∧
      s.reaches .write (LdSt.ea q (s.rg a)) (2 ^ q.size.val) l pin ∧
      (q.t = .no ∨ s.me.redo = []) ∧
      s.writeRefused l (2 ^ q.size.val) = false :=
  ⟨u1, { ld4 with t := .tj, size := 3, sx := false }, (some 3), (some 1), (dl 0x1008), page,
    Option.isSome_iff_exists.mp (by decide +kernel), by unfold State.memWf; decide +kernel,
    ⟨by decide +kernel, by decide +kernel⟩, by decide +kernel, ⟨by decide +kernel, by decide +kernel⟩,
    by decide +kernel⟩
theorem hyps_StoresWriteTheirBytesOnly_1 : ∃ (s : State) (q : LdSt) (d a : GOp) (l : Loc) (pin : Pin) (v : _) (r : _),
      s.live ∧
      s.memWf ∧
      s.calm ∧
      (q.sp = false ∧ s.ticketCheck q.t = none ∧ s.myGang.diverged = false ∧ (q.t = .no ∧ s.waitsOwn false (releases q.ord) [(l, 2 ^ q.size.val)] = false ∨ q.t ≠ .no ∧ s.direct (q.t == .tt) = true)) ∧
      s.reaches .write (LdSt.ea q (s.rg a)) (2 ^ q.size.val) l pin ∧
      q.t ≠ .no ∧
      s.me.redo = v :: r :=
  ⟨(u1.modMe fun h => { h with redo := [77] }), { ld4 with t := .tj, size := 3, sx := false }, (some 3), (some 1),
    (dl 0x1008), page, 77, [], Option.isSome_iff_exists.mp (by decide +kernel), by unfold State.memWf; decide +kernel,
    ⟨by decide +kernel, by decide +kernel⟩, by decide +kernel, ⟨by decide +kernel, by decide +kernel⟩,
    by decide +kernel⟩
theorem hyps_StoresWriteTheirBytesOnly_2 : ∃ (s : State) (q : LdSt) (d a : GOp) (k : SpPlace),
      s.live ∧
      s.me.stores = [] ∧
      Mem.wf s.myGang.sp = true ∧
      q.sp = true ∧
      s.myGang.diverged = false ∧
      s.myGang.spCheck .write (LdSt.ea q (s.rg a)) (2 ^ q.size.val) = .ok k ∧
      s.myGang.spStall true k = none ∧
      s.waitsOwn false (releases q.ord) [] = false :=
  ⟨sp1, { ld4 with sp := true, size := 0, off := 0xFFF }, (some 3), (some 1), (.plain 0x1FFF),
    Option.isSome_iff_exists.mp (by decide +kernel), by decide +kernel⟩
theorem hyps_AtomicsReadModifyWrite : ∃ (s : State) (i : Instr) (op : Nat) (x : MemX) (n : Nat) (d : GOp) (ea : Word)
    (ok : PageKind → Bool) (f : Nat → Option Nat) (o : OrdOp) (l : Loc) (pin : Pin),
      AtomOp s i op x n d ea ok f o ∧
      s.live ∧
      s.memWf ∧
      s.calm ∧
      (s.ticketCheck x.t = none ∧ (x.t = .no ∧ s.waitsOwn false (releases x.ord) [(l, n)] = false ∨ x.t ≠ .no ∧ s.direct (x.t == .tt) = true ∧ s.me.redo = []) ∧ s.myGang.diverged = false) ∧
      s.reaches .write ea n l pin ∧
      ok l.kind = true ∧
      s.readPoison l n = false ∧
      s.writeRefused l n = false :=
  ⟨u1, _, _, _, _, _, _, _, _, _, (dl 0x1000), page, AtomOp.amo .fadd mx4 (some 3) (some 1) (some 2),
    Option.isSome_iff_exists.mp (by decide +kernel), by unfold State.memWf; decide +kernel,
    ⟨by decide +kernel, by decide +kernel⟩, by decide +kernel, ⟨by decide +kernel, by decide +kernel⟩,
    by decide +kernel⟩
theorem hyps_OrderedScalarsWaitInTheCommitBuffer : ∃ (s : State) (i : Instr) (op : Nat) (tk : Tick) (ord : MOrd)
    (ea : Word) (n : Nat) (ok : PageKind → Bool) (o : OrdOp) (f : Fill) (l : Loc) (pin : Pin),
      OrderedOp s i op tk ord ea n ok o f ∧
      s.live ∧
      s.calm ∧
      (s.atS = false ∧ tk ≠ .no ∧ s.ticketCheck tk = none ∧ (∀ b, s.hasRight s.myJob (s.ticket s.cur) b = false) ∧ s.myGang.diverged = false) ∧
      s.reaches .write ea n l pin ∧
      ok l.kind = true ∧
      s.commitUsed s.myGang.core < 1024 :=
  ⟨noRight, _, _, _, _, _, _, _, _, _, (dl 0x1000), page,
    OrderedOp.atom _ _ _ _ _ _ _ _ _ (AtomOp.cas { mx4 with t := .tj, sz := .p, sx := false } (some 14) (some 1) (some 2) (some 4)), Option.isSome_iff_exists.mp (by decide +kernel), ⟨by decide +kernel, by decide +kernel⟩, by decide +kernel, ⟨by decide +kernel, by decide +kernel⟩, by decide +kernel⟩
theorem hyps_BadScalarAccessesTrap_1 : ∃ (s : State) (i : Instr) (op : Nat) (x : MemX) (n : Nat) (d : GOp)
    (ea : Word) (ok : PageKind → Bool) (f : Nat → Option Nat) (o : OrdOp) (l : Loc) (pin : Pin),
      AtomOp s i op x n d ea ok f o ∧
      s.live ∧
      s.calm ∧
      (s.atS = false ∧ s.me.sup.svec ≠ 0 ∧ s.ticketCheck x.t = none) ∧
      s.reaches .write ea n l pin ∧
      ok l.kind = false :=
  ⟨hostPage, _, _, _, _, _, _, _, _, _, { kind := .hostn, pa := 0x10000 },
    { page with va := 0x10000, pa := 0x10000, kind := .hostn }, AtomOp.amo .fadd mx4 (some 3) (some 1) (some 2),
    Option.isSome_iff_exists.mp (by decide +kernel), ⟨by decide +kernel, by decide +kernel⟩, by decide +kernel,
    ⟨by decide +kernel, by decide +kernel⟩, by decide +kernel⟩
theorem hyps_BadScalarAccessesTrap_2 : ∃ (s : State) (i : Instr) (op : Nat) (x : MemX) (n : Nat) (d : GOp)
    (ea : Word) (ok : PageKind → Bool) (f : Nat → Option Nat) (o : OrdOp) (l : Loc) (pin : Pin),
      AtomOp s i op x n d ea ok f o ∧
      s.live ∧
      s.calm ∧
      (s.atS = false ∧ s.me.sup.svec ≠ 0 ∧ s.ticketCheck x.t = none) ∧
      s.reaches .write ea n l pin ∧
      (ok l.kind = true ∧ s.myGang.diverged = false) ∧
      (x.t = .no ∧ s.waitsOwn false (releases x.ord) [(l, n)] = false ∨ x.t ≠ .no ∧ s.direct (x.t == .tt) = true ∧ s.me.redo = []) ∧
      s.readPoison l n = true :=
  ⟨badLine, _, _, _, _, _, _, _, _, _, (dl 0x1000), page, AtomOp.amo .fadd mx4 (some 3) (some 1) (some 2),
    Option.isSome_iff_exists.mp (by decide +kernel), ⟨by decide +kernel, by decide +kernel⟩, by decide +kernel,
    ⟨by decide +kernel, by decide +kernel⟩, by decide +kernel, .inl (by decide +kernel), by decide +kernel⟩
theorem hyps_BadScalarAccessesTrap_0 : ∃ (s : State) (i : Instr) (op n : Nat) (u : Use) (ea : Word) (c : Cause),
      ScalarAccess s i op u ea n ∧
      s.live ∧
      s.calm ∧
      (s.atS = false ∧ s.me.sup.svec ≠ 0) ∧
      BadAccess s u ea n c :=
  ⟨u1, _, _, _, _, _, .misalign, ScalarAccess.ld { ld4 with off := 1 } (some 3) (some 1) rfl,
    Option.isSome_iff_exists.mp (by decide +kernel), ⟨by decide +kernel, by decide +kernel⟩, by decide +kernel,
    BadAccess.alignment (dl 0x1001, page) (by decide +kernel) (by decide +kernel)⟩

/-! ### Hypotheses met: System instructions -/

/-- A lock word of the running hart in its scratchpad. -/
def locked : State := onGang (fun g => { g with sp := Mem.write g.sp 0x1000 [1] }) u1
def paired : State := onJob (fun j => { j with rcd := { j.rcd with q2 := j.rcd.q2 ||| 1 <<< 49 } }) u1
/-- A token of the supervisor thread over the page, and a save block at 0x1000. -/
def saveTok : Token := { st := .valid, base := 0x1000, len := 0x408, wr := true, pins := [page] }
def saver0 : State := s0.modMe fun h => { h with sup := { h.sup with tk := vput h.sup.tk 2 saveTok } }
def savedReg : VReg := vreg .n64 fun e => if e = 0 then 0x1234 else 0
def saver : State :=
  { saver0 with dev := Mem.write u0.dev 0x1000 ((List.range 129).flatMap fun k => bytesOfNat 8 (saveQuad savedReg k).toNat) }
/-- A gang of a later index, so that its ticket is not the lowest. -/
def later : State := onJob (fun j => { j with right := 9 }) (onGang (fun g => { g with index := 9 }) u1)
def channel : State := u1.modTask 0 5 fun t => { t with valid := true, perm := 1 }
/-- A launch record in a vector register. -/
def spawner : State := u1.modMe (vregs [(4, recReg [0x100, 7, 1 + 3 * 2 ^ 23, 0, 0, 0, 0xFF])])
/-- An arena at address 0x1000 that ends at 0x800 bytes, with the next byte `n`. -/
def arenaAt (n : Nat) : State :=
  onJob (fun j => { j with rcd := { j.rcd with q6 := 0xFFF } })
    { u0 with dev := Mem.write u0.dev 0x10000 (bytesOfNat 8 n ++ bytesOfNat 8 0x800)
              parts := vmod u0.parts 0 fun p =>
                { p with funcs := vmod p.funcs 0 fun f => { f with abase := vput f.abase 2 1, ag := vput f.ag 2 true } } }
/-- The same with the page at 0x10000 mapped too: the leaf of its page table. -/
def arena (n : Nat) : State :=
  { arenaAt n with dev := Mem.write (arenaAt n).dev (fetchTables + 8192 * 3 + 8) (bytesOfNat 8 (0x10000 + 0x1F)) }
theorem hyps_FencesAndEventsAreConsumed_0 : ∃ (s u : State) (dir : FenceDir) (sc : Scope),
      s.live ∧
      (u = (if dir = .sv ∨ dir = .all then s.me.stores.foldl (fun u b => u.writeHome s.myGang.p s.myGang.job b.loc b.bytes) s else s)) :=
  ⟨(u1.modMe fun h => { h with stores := [{ loc := dl 0x2000, bytes := [1, 2] }] }), _, .all, .system,
    Option.isSome_iff_exists.mp (by decide +kernel), rfl⟩
theorem hyps_FencesAndEventsAreConsumed_1 : ∃ (s : State) (a : GOp),
      s.live ∧
      s.atS = false ∧
      s.me.evt = true :=
  ⟨(u1.modMe fun h => { h with evt := true }), (some 1), Option.isSome_iff_exists.mp (by decide +kernel),
    by decide +kernel⟩
theorem hyps_WaitingInstructionsBlock : ∃ (s : State) (i : Instr) (op : Nat) (w : WaitFor) (ends : Option Nat)
    (addr : Word),
      WaitOp s i op w ends addr ∧
      s.live ∧
      (if s.atS then s.me.sup.wait else s.me.wait) = none :=
  ⟨u1, _, _, _, _, _, WaitOp.wfe (some 1) (by decide +kernel) (by decide +kernel),
    Option.isSome_iff_exists.mp (by decide +kernel), by decide +kernel⟩
theorem hyps_LocksAreTakenOnceAndReleased_0 : ∃ (s : State) (d a : GOp),
      s.live ∧
      Mem.wf s.myGang.sp = true ∧
      (s.rg a).toNat < s.myGang.spsize ∧
      (s.rg a).toNat % 4 = 0 ∧
      s.myGang.spPoisoned (s.rg a).toNat 4 = false ∧
      natOfBytes (s.myGang.spRead (s.rg a).toNat 4) ≠ 0 :=
  ⟨locked, (some 3), (some 1), Option.isSome_iff_exists.mp (by decide +kernel), by decide +kernel⟩
theorem hyps_LocksAreTakenOnceAndReleased_1 : ∃ (s : State) (d a : GOp),
      s.live ∧
      Mem.wf s.myGang.sp = true ∧
      (s.rg a).toNat < s.myGang.spsize ∧
      (s.rg a).toNat % 4 = 0 ∧
      s.myGang.spPoisoned (s.rg a).toNat 4 = false ∧
      natOfBytes (s.myGang.spRead (s.rg a).toNat 4) = 0 ∧
      s.myGang.diverged = false :=
  ⟨u1, (some 3), (some 1), Option.isSome_iff_exists.mp (by decide +kernel), by decide +kernel⟩
theorem hyps_LocksAreTakenOnceAndReleased_2 : ∃ (s : State) (a : GOp),
      s.live ∧
      Mem.wf s.myGang.sp = true ∧
      s.me.stores = [] ∧
      (s.rg a).toNat < s.myGang.spsize ∧
      (s.rg a).toNat % 4 = 0 ∧
      s.myGang.spPoisoned (s.rg a).toNat 4 = false ∧
      natOfBytes (s.myGang.spRead (s.rg a).toNat 4) = (if s.atS then 17 else 1) + s.cur.rank.val ∧
      s.myGang.diverged = false :=
  ⟨locked, (some 1), Option.isSome_iff_exists.mp (by decide +kernel), by decide +kernel⟩
theorem hyps_LocksAreTakenOnceAndReleased_3 : ∃ (s : State) (a : GOp),
      s.live ∧
      Mem.wf s.myGang.sp = true ∧
      s.me.stores = [] ∧
      (s.rg a).toNat < s.myGang.spsize ∧
      (s.rg a).toNat % 4 = 0 ∧
      s.myGang.spPoisoned (s.rg a).toNat 4 = false ∧
      natOfBytes (s.myGang.spRead (s.rg a).toNat 4) ≠ (if s.atS then 17 else 1) + s.cur.rank.val ∧
      s.atS = false ∧
      s.me.sup.svec ≠ 0 :=
  ⟨u1, (some 1), Option.isSome_iff_exists.mp (by decide +kernel), by decide +kernel⟩
theorem hyps_SupervisorReturnsAndCalls_0 : ∃ (s : State),
      s.live ∧
      s.atS = true ∧
      s.me.stores = [] :=
  ⟨s0, Option.isSome_iff_exists.mp (by decide +kernel), by decide +kernel⟩
theorem hyps_SupervisorReturnsAndCalls_1 : ∃ (s : State) (n : BitVec 16),
      s.live ∧
      s.atS = true ∧
      s.me.stores = [] :=
  ⟨s0, 5, Option.isSome_iff_exists.mp (by decide +kernel), by decide +kernel⟩
theorem hyps_InvalidationForgetsTranslations : ∃ (s : State) (kind : InvKind) (a b : GOp) (f : Fin 64) (i : Inval),
      s.live ∧
      (s.atS = true ∧ s.me.sup.wait = none ∧ (s.rg b).toNat = f.val ∧ (kind = .page → (s.rg a).toNat < 2 ^ 56)) ∧
      i = { id := s.nextInval, p := s.myGang.p, vf := if kind = .every then none else some f, va := if kind = .page then some (s.rg a).toNat else none, since := s.dtime } ∧
      (∀ q ∈ s.allPins, i.covers q = false) ∧
      (∀ q ∈ s.allPins, s.nextInval ∉ q.mark) ∧
      (∀ j ∈ s.invals, j.id < s.nextInval) :=
  ⟨s0, .page, (some 1), none, 0, _, Option.isSome_iff_exists.mp (by decide +kernel), by decide +kernel, rfl,
    by decide +kernel⟩
theorem hyps_SaveBlocksAndCheckpoints_0 : ∃ (s : State) (tk : Fin 8) (a : GOp) (vm : Fin 48) (at_ : Nat → Loc)
    (v : VReg),
      s.live ∧
      s.memWf ∧
      s.calm ∧
      s.atS = true ∧
      v = s.me.v[(⟨vm.val, by omega⟩ : Fin 60)] ∧
      SaveAccess s tk (s.rg a) true at_ ∧
      s.myGang.diverged = false ∧
      (∀ k, k < 129 → s.writeRefused (at_ k) 8 = false) :=
  ⟨saver, 2, (some 1), 47, (fun k => dl (0x1000 + 8 * k)), _, Option.isSome_iff_exists.mp (by decide +kernel),
    by unfold State.memWf; decide +kernel, ⟨by decide +kernel, by decide +kernel⟩, by decide +kernel, rfl,
    by constructor <;> decide +kernel, by decide +kernel,
    below (p := fun k => saver.writeRefused (dl (0x1000 + 8 * k)) 8 = false) (by decide +kernel)⟩
theorem hyps_SaveBlocksAndCheckpoints_1 : ∃ (s : State) (tk : Fin 8) (a : GOp) (vm : Fin 48) (at_ : Nat → Loc)
    (v : VReg) (w : VReg),
      s.live ∧
      s.memWf ∧
      s.calm ∧
      s.atS = true ∧
      v = s.me.v[(⟨vm.val, by omega⟩ : Fin 60)] ∧
      SaveAccess s tk (s.rg a) false at_ ∧
      s.me.bound vm.val = none ∧
      (∀ k, k < 129 → (at_ k).kind ≠ .io ∧ s.readPoison (at_ k) 8 = false ∧ numAt s.byteAt (at_ k) 8 = (saveQuad w k).toNat) :=
  ⟨saver, 2, (some 1), 0, (fun k => dl (0x1000 + 8 * k)), _, savedReg,
    Option.isSome_iff_exists.mp (by decide +kernel), by unfold State.memWf; decide +kernel,
    ⟨by decide +kernel, by decide +kernel⟩, by decide +kernel, rfl, by constructor <;> decide +kernel,
    by decide +kernel,
    below (p := fun k => (dl (0x1000 + 8 * k)).kind ≠ .io ∧ saver.readPoison (dl (0x1000 + 8 * k)) 8 = false ∧ numAt saver.byteAt (dl (0x1000 + 8 * k)) 8 = (saveQuad savedReg k).toNat) (by decide +kernel)⟩
theorem hyps_SaveBlocksAndCheckpoints_2 : ∃ (s : State),
      s.live ∧
      (s.atS = true ∨ s.myJob.rcd.paired = false) :=
  ⟨u1, Option.isSome_iff_exists.mp (by decide +kernel), by decide +kernel⟩
theorem hyps_SaveBlocksAndCheckpoints_3 : ∃ (s : State),
      s.live ∧
      s.atS = false ∧
      s.myJob.rcd.paired = true ∧
      s.myGang.diverged = false :=
  ⟨paired, Option.isSome_iff_exists.mp (by decide +kernel), by decide +kernel⟩
theorem hyps_TicketsAreSealedAndAwaited_0 : ∃ (s : State) (j : Job),
      s.live ∧
      s.atS = false ∧
      s.job? s.myGang.p s.myGang.job = some j :=
  ⟨u1, (theJob u1), Option.isSome_iff_exists.mp (by decide +kernel), by decide +kernel⟩
theorem hyps_TicketsAreSealedAndAwaited_1 : ∃ (s : State) (a b : GOp),
      s.live ∧
      s.atS = false ∧
      (s.rg a).toNat < s.ticket s.cur ∧
      s.passed s.myGang.p s.myGang.job (s.rg a).toNat = true :=
  ⟨later, (some 2), none, Option.isSome_iff_exists.mp (by decide +kernel), by decide +kernel⟩
theorem hyps_TicketsAreSealedAndAwaited_2 : ∃ (s : State) (a b : GOp),
      s.live ∧
      s.atS = false ∧
      s.me.sup.svec ≠ 0 ∧
      s.ticket s.cur ≤ (s.rg a).toNat :=
  ⟨u1, (some 8), none, Option.isSome_iff_exists.mp (by decide +kernel), by decide +kernel⟩
theorem hyps_TicketsAreSealedAndAwaited_3 : ∃ (s : State) (i : Instr) (op : Nat) (tk : Tick) (ord : MOrd) (ea : Word)
    (n : Nat) (ok : PageKind → Bool) (o : OrdOp) (f : Fill),
      OrderedOp s i op tk ord ea n ok o f ∧
      s.live ∧
      s.atS = false ∧
      s.me.sup.svec ≠ 0 ∧
      tk ≠ .no ∧
      s.me.sealed = true :=
  ⟨(u1.modMe fun h => { h with sealed := true }), _, _, _, _, _, _, _, _, _,
    OrderedOp.atom _ _ _ _ _ _ _ _ _ (AtomOp.cas { mx4 with t := .tj, sz := .p, sx := false } (some 14) (some 1) (some 2) (some 4)), Option.isSome_iff_exists.mp (by decide +kernel), by decide +kernel⟩
theorem hyps_ChannelsAndArenasChange_0 : ∃ (s : State) (i : Instr) (c : Fin 256) (f : TaskEntry → TaskEntry),
      ChannelOp s i c f ∧
      s.live ∧
      s.me.stores = [] ∧
      (s.prt s.myGang.p).tasks[c].valid = true ∧
      (s.prt s.myGang.p).tasks[c].perm.getLsbD s.myVf.val = true :=
  ⟨channel, _, _, _,
    ChannelOp.hmsg (some 2) (some 1) 5 (by decide +kernel) (by decide +kernel) (by decide +kernel) (.inr (by decide +kernel)) (by decide +kernel), Option.isSome_iff_exists.mp (by decide +kernel), by decide +kernel⟩
theorem hyps_ChannelsAndArenasChange_1 : ∃ (s : State) (d a : GOp) (n : Fin 4) (al : BitVec 5) (l : Loc) (pin : Pin)
    (nx : Nat),
      s.live ∧
      s.memWf ∧
      s.calm ∧
      s.arena s.myJob n ≠ 0 ∧
      s.reaches .write (s.arena s.myJob n) 8 l pin ∧
      (l.kind ≠ .io ∧ s.readPoison l 16 = false ∧ s.writeRefused l 8 = false ∧ s.myGang.diverged = false ∧ s.waitsOwn false false [(l, 16)] = false) ∧
      nx = (natOfBytes (s.readHome l 8) + 2 ^ al.toNat - 1) / 2 ^ al.toNat * 2 ^ al.toNat ∧
      nx + (s.rg a).toNat ≤ natOfBytes (s.readHome { l with pa := l.pa + 8 } 8) :=
  ⟨(arena 100), (some 3), (some 2), 2, 4, (dl 0x10000), { page with va := 0x10000, pa := 0x10000 }, _,
    Option.isSome_iff_exists.mp (by decide +kernel), by unfold State.memWf; decide +kernel,
    ⟨by decide +kernel, by decide +kernel⟩, by decide +kernel, ⟨by decide +kernel, by decide +kernel⟩,
    by decide +kernel, rfl, by decide +kernel⟩
theorem hyps_ChannelsAndArenasChange_2 : ∃ (s : State) (d a : GOp) (n : Fin 4) (al : BitVec 5) (l : Loc) (pin : Pin)
    (nx : Nat),
      s.live ∧
      s.memWf ∧
      s.calm ∧
      s.arena s.myJob n ≠ 0 ∧
      s.reaches .write (s.arena s.myJob n) 8 l pin ∧
      (l.kind ≠ .io ∧ s.readPoison l 16 = false ∧ s.writeRefused l 8 = false ∧ s.myGang.diverged = false ∧ s.waitsOwn false false [(l, 16)] = false) ∧
      nx = (natOfBytes (s.readHome l 8) + 2 ^ al.toNat - 1) / 2 ^ al.toNat * 2 ^ al.toNat ∧
      natOfBytes (s.readHome { l with pa := l.pa + 8 } 8) < nx + (s.rg a).toNat :=
  ⟨(arena 0x7FC), (some 3), (some 2), 2, 0, (dl 0x10000), { page with va := 0x10000, pa := 0x10000 }, _,
    Option.isSome_iff_exists.mp (by decide +kernel), by unfold State.memWf; decide +kernel,
    ⟨by decide +kernel, by decide +kernel⟩, by decide +kernel, ⟨by decide +kernel, by decide +kernel⟩,
    by decide +kernel, rfl, by decide +kernel⟩
theorem hyps_HartsSpawnAndEnd_0 : ∃ (s : State) (d : GOp) (vm : Fin 48) (r : LaunchRec),
      s.live ∧
      (s.atS = false ∧ s.me.stores = [] ∧ s.me.vl ≠ 0 ∧ s.recUntyped vm = none ∧ s.recType vm = none ∧ s.me.sealed = false ∧ s.myGang.diverged = false) ∧
      r = (launchOf (s.record vm 8)).child s.myJob ∧
      r.refused true r.ddl = false ∧
      r.amask &&& (15 - s.myJob.rcd.amask) = 0 ∧
      s.admits s.myJob.p = true ∧
      r.cosched = false :=
  ⟨spawner, (some 3), 4, _, Option.isSome_iff_exists.mp (by decide +kernel), by decide +kernel, rfl,
    by decide +kernel⟩
theorem hyps_HartsSpawnAndEnd_1 : ∃ (s : State) (j : Job),
      s.live ∧
      s.atS = false ∧
      s.me.stores = [] ∧
      s.myGang.diverged = false ∧
      s.job? s.myGang.p s.myGang.job = some j :=
  ⟨u1, (theJob u1), Option.isSome_iff_exists.mp (by decide +kernel), by decide +kernel⟩

/-! ### Hypotheses met: Masks -/

/-- A shorter `vl`, a mask and a tag. -/
def masked : State := u1.modMe fun h =>
  { h with m := vput h.m 1 0x0F0F0000000000000000000000001234, vl := 100, v := vput h.v 2 { VReg.empty with tag := .f32x2 } }
def bound1 : State := masked.modMe fun h => { h with str := vput h.str 1 { Stream.empty with bound := true } }

/-- A word of OP 0x30, FN 1, at the PC, whose tag code is reserved. -/
def badTag : State := u1.modMe fun h => { h with pc := 0x3000 }
def badTagCode : State := { badTag with dev := Mem.write badTag.dev 0x3000 (bytesOfNat 8 0x6004000000000014) }
theorem hyps_MaskInstructionsWriteTheirMask_0 : ∃ (s : State) (i : Instr) (d : MOp) (f : Nat → Bool),
      MaskOp s i d f ∧
      s.live ∧
      s.atS = false :=
  ⟨masked, _, _, _, MaskOp.mshl (some 3) (some 1) (some 2), Option.isSome_iff_exists.mp (by decide +kernel),
    by decide +kernel⟩
theorem hyps_MaskInstructionsWriteTheirMask_1 : ∃ (s : State) (i : Instr) (d : GOp) (v : Word),
      MaskReadOp s i d v ∧
      s.live ∧
      s.atS = false :=
  ⟨masked, _, _, _, MaskReadOp.mfirst (some 3) (some 1) (by decide +kernel),
    Option.isSome_iff_exists.mp (by decide +kernel), by decide +kernel⟩
theorem hyps_MaskInstructionsWriteTheirMask_2 : ∃ (s : State) (d : GOp) (a : MOp),
      s.live ∧
      s.atS = false ∧
      s.me.vl = 0 :=
  ⟨(masked.modMe fun h => { h with vl := 0 }), (some 3), (some 1), Option.isSome_iff_exists.mp (by decide +kernel),
    by decide +kernel⟩
theorem hyps_VectorLengthAndTagsAreSet_0 : ∃ (s : State) (d a : GOp),
      s.live ∧
      s.atS = false :=
  ⟨masked, (some 3), (some 7), Option.isSome_iff_exists.mp (by decide +kernel), by decide +kernel⟩
theorem hyps_VectorLengthAndTagsAreSet_1 : ∃ (s : State) (u : Tag),
      s.live ∧
      s.atS = false :=
  ⟨masked, .cbf16x2, Option.isSome_iff_exists.mp (by decide +kernel), by decide +kernel⟩
theorem hyps_VectorLengthAndTagsAreSet_2 : ∃ (s : State) (i : Instr) (d : Fin 56) (f : VReg → VReg),
      TagOp i d f ∧
      s.live ∧
      s.atS = false ∧
      s.me.bound d.val = none :=
  ⟨masked, _, _, _, TagOp.vretag 55 .n64, Option.isSome_iff_exists.mp (by decide +kernel), by decide +kernel⟩
theorem hyps_VectorLengthAndTagsAreSet_3 : ∃ (s : State) (i : Instr) (d : Fin 56) (f : VReg → VReg),
      TagOp i d f ∧
      s.live ∧
      s.atS = false ∧
      s.me.bound d.val ≠ none ∧
      s.me.sup.svec ≠ 0 :=
  ⟨bound1, _, _, _, TagOp.vtag 41 .n64, Option.isSome_iff_exists.mp (by decide +kernel), by decide +kernel⟩
theorem hyps_VectorLengthAndTagsAreSet_4 : ∃ (w : BitVec 64) (i : Instr),
      w.extractLsb' 57 7 = 0x30 ∧
      decodeWord w = some i ∧
      w.extractLsb' 50 7 = 0 :=
  ⟨(encode (.vsetl (some 3) (some 7))), (.vsetl (some 3) (some 7)), by decide +kernel⟩
theorem hyps_VectorLengthAndTagsAreSet_5 : ∃ (w : BitVec 64) (i : Instr),
      (w.extractLsb' 57 7 = 0x30 ∧ decodeWord w = some i) ∧
      (w.extractLsb' 50 7 = 1 ∨ w.extractLsb' 50 7 = 2) :=
  ⟨(encode (.vtag (some 2) .f32x2)), (.vtag (some 2) .f32x2), by decide +kernel, .inl (by decide +kernel)⟩
theorem hyps_VectorLengthAndTagsAreSet_6 : ∃ (s u t : State) (w : Word),
      u = s.tick ∧
      (u.tickDue = false ∧ u.agenda = [] ∧ u.duty = .instr) ∧
      u.fetch = (.ok w, t) ∧
      (w.extractLsb' 57 7 = 0x30 ∧ (w.extractLsb' 50 7 = 1 ∨ w.extractLsb' 50 7 = 2) ∧ 20 ≤ (w.extractLsb' 0 5).toNat) ∧
      t.live ∧
      t.atS = false ∧
      t.me.sup.svec ≠ 0 :=
  ⟨badTagCode, _, (badTagCode.tick).fetch.2, 0x6004000000000014, rfl, by decide +kernel,
    Prod.ext (by decide +kernel) rfl, by decide +kernel, Option.isSome_iff_exists.mp (by decide +kernel),
    by decide +kernel⟩

/-! ### Hypotheses met: Vector rows -/

/-- Vector registers of several tags, and `vl` 12. -/
def rows : State := u1.modMe fun h => vregs
  [(1, vreg .f32x2 fun e => 0x3F80000040000000 + e), (2, vreg .n64 fun e => e), (3, vreg .ci16x2 fun e => e * 0x10003),
   (4, vreg .none fun _ => 0), (5, vreg .n8x8 fun e => e)] { h with vl := 12 }
/-- The same with a `vl` that is no multiple of 6. -/
def rowsShort : State := rows.modMe fun h => { h with vl := 11 }
theorem hyps_ElementInstructionsWriteTheirRow : ∃ (s : State) (i : Instr) (q : VMod) (d : VdOp) (srcs : List VsOp)
    (ok : Tag → Bool) (f : Tag → Nat → (Nat → Word) → Word × Flags) (u : Tag),
      ElementOp s i q d srcs ok f ∧
      s.live ∧
      VecRuns s srcs d ∧
      Tagged s srcs u ∧
      ok u = true :=
  ⟨rows, _, _, _, _, _, _, .f32x2, ElementOp.vfma { vm0 with rm := .rdn, p := true } none (.vec 1) (.g 3) .zero,
    Option.isSome_iff_exists.mp (by decide +kernel), by constructor <;> decide +kernel,
    ⟨by decide +kernel, ⟨_, List.mem_cons_self⟩, by decide +kernel⟩, by decide +kernel⟩
theorem hyps_RowInstructionsWriteTheirRow_0 : ∃ (s : State) (i : Instr) (srcs : List VsOp) (r : VRow),
      MoveOp s i srcs r ∧
      s.live ∧
      VecRuns s srcs r.d :=
  ⟨rows, _, _, _,
    MoveOp.vaddc vm0 (some 9) (.vec 2) (.vec 2) (some 1) ⟨by decide +kernel, ⟨_, List.mem_cons_self⟩, by decide +kernel⟩ rfl, Option.isSome_iff_exists.mp (by decide +kernel), by constructor <;> decide +kernel⟩
theorem hyps_RowInstructionsWriteTheirRow_1 : ∃ (s : State) (i : Instr) (srcs : List VsOp) (r : VRow),
      SignalOp s i srcs r ∧
      s.live ∧
      VecRuns s srcs r.d :=
  ⟨rows, _, _, _, SignalOp.vbfpcmp vm0 8 (some 9) 3 (by decide +kernel) (by decide +kernel) (by decide +kernel),
    Option.isSome_iff_exists.mp (by decide +kernel), by constructor <;> decide +kernel⟩
theorem hyps_RowInstructionsWriteTheirRow_2 : ∃ (s : State) (i : Instr) (srcs : List VsOp) (r : VRow),
      PermuteOp s i srcs r ∧
      s.live ∧
      VecRuns s srcs r.d :=
  ⟨rows, _, _, _, PermuteOp.vperm vm0 (some 9) 1 2 (by decide +kernel) (by decide +kernel),
    Option.isSome_iff_exists.mp (by decide +kernel), by constructor <;> decide +kernel⟩
theorem hyps_RowInstructionsWriteTheirRow_3 : ∃ (s : State) (i : Instr) (srcs : List VsOp) (r : VRow),
      ReduceOp s i srcs r ∧
      s.live ∧
      VecRuns s srcs r.d :=
  ⟨rows, _, _, _, ReduceOp.vscan vm0 (some 9) 1 (by decide +kernel) (by decide +kernel),
    Option.isSome_iff_exists.mp (by decide +kernel), by constructor <;> decide +kernel⟩
theorem hyps_RowInstructionsWriteTheirRow_4 : ∃ (s : State) (i : Instr) (srcs : List VsOp) (d : VdOp),
      BadLength s i srcs d ∧
      s.live ∧
      VecRuns s srcs d ∧
      s.me.vl ≤ 128 ∧
      s.me.sup.svec ≠ 0 :=
  ⟨rowsShort, _, _, _, BadLength.vbfpexp vm0 8 (some 9) 5 (by decide +kernel) (.inl (by decide +kernel)),
    Option.isSome_iff_exists.mp (by decide +kernel), by constructor <;> decide +kernel, by decide +kernel⟩
theorem hyps_VectorOperandChecksCome_0 : ∃ (s : State) (i : Instr) (q : VMod) (d : VdOp) (srcs : List VsOp)
    (ok : Tag → Bool) (f : Tag → Nat → (Nat → Word) → Word × Flags) (r : _),
      ElementOp s i q d srcs ok f ∧
      s.live ∧
      s.atS = false ∧
      (∀ r, VsOp.vec r ∈ srcs → s.me.bound r.val = none) ∧
      (∀ r, d = some r → s.me.bound r.val = none) ∧
      s.me.sup.svec ≠ 0 ∧
      VsOp.vec r ∈ srcs ∧
      s.me.v[r].tag = .none :=
  ⟨rows, _, _, _, _, _, _, 4, ElementOp.vadd vm0 (some 9) (.vec 1) (.vec 4),
    Option.isSome_iff_exists.mp (by decide +kernel), by decide +kernel⟩
theorem hyps_VectorOperandChecksCome_1 : ∃ (s : State) (i : Instr) (q : VMod) (d : VdOp) (srcs : List VsOp)
    (ok : Tag → Bool) (f : Tag → Nat → (Nat → Word) → Word × Flags) (a : _) (b : _),
      ElementOp s i q d srcs ok f ∧
      s.live ∧
      s.atS = false ∧
      (∀ r, VsOp.vec r ∈ srcs → s.me.bound r.val = none) ∧
      (∀ r, d = some r → s.me.bound r.val = none) ∧
      s.me.sup.svec ≠ 0 ∧
      VsOp.vec a ∈ srcs ∧
      VsOp.vec b ∈ srcs ∧
      (∀ r, VsOp.vec r ∈ srcs → s.me.v[r].tag ≠ .none) ∧
      s.me.v[a].tag ≠ s.me.v[b].tag :=
  ⟨rows, _, _, _, _, _, _, 1, 2, ElementOp.vadd vm0 (some 9) (.vec 1) (.vec 2),
    Option.isSome_iff_exists.mp (by decide +kernel), by decide +kernel⟩
theorem hyps_VectorOperandChecksCome_2 : ∃ (s : State) (i : Instr) (q : VMod) (d : VdOp) (srcs : List VsOp)
    (ok : Tag → Bool) (f : Tag → Nat → (Nat → Word) → Word × Flags) (u : _),
      ElementOp s i q d srcs ok f ∧
      s.live ∧
      (s.atS = false ∧ (∀ r, VsOp.vec r ∈ srcs → s.me.bound r.val = none) ∧ (∀ r, d = some r → s.me.bound r.val = none)) ∧
      Tagged s srcs u ∧
      ok u = true ∧
      s.me.vl = 0 :=
  ⟨(rows.modMe fun h => { h with vl := 0 }), _, _, _, _, _, _, .f32x2, ElementOp.vadd vm0 (some 9) (.vec 1) (.g 3),
    Option.isSome_iff_exists.mp (by decide +kernel), by decide +kernel,
    ⟨by decide +kernel, ⟨_, List.mem_cons_self⟩, by decide +kernel⟩, by decide +kernel⟩

/-! ### Hypotheses met: Vector memory -/

def tok : Token := { st := .valid, base := 0x1000, len := 0x40, wr := true, pins := [page] }
/-- A token over 64 bytes, offsets and data in registers, and six elements. -/
def vecs : State := u1.modMe fun h => vregs
  [(3, vreg .n64 fun e => e * 0x0102030405060708), (4, vreg .n64 fun e => 8 * (e % 3)), (5, vreg .i64 fun e => 2 ^ 64 - e)]
  { h with tk := vput h.tk 2 tok, vl := 6, m := vput h.m 6 0x35, g := vput (vput h.g 2 8) 14 16 }
def mxq (t : Tick) : MemX := { mx4 with sz := .q, sx := false, ke := true, kz := true, k := 6, tk := 2, t := t }
def mxp : MemX := { mx4 with sz := .p, sx := false }
def vldAcc (s : State) (sp : Bool) (op n : Nat) (x : MemX) (a b : Fin 32) : VAcc :=
  { op := op, x := x, n := n, wr := false, sp := sp, addr := fun e => s.rg (some a) + word e * s.rg (some b) }
def vstAcc (s : State) (op n : Nat) (x : MemX) (a b : Fin 32) : VAcc := { vldAcc s false op n x a b with wr := true }
/-- The token ends four elements into the access. -/
def ending : State := vecs.modMe fun h => { h with g := vput h.g 1 0x1028 }
def endTrap : TrapInfo := match ending.vPlace (vldAcc ending false 0x42 8 (mxq .no) 1 2) 4 with | .error x => x | .ok _ => { c := .illegal }
/-- A hart in its supervisor thread, whose page is for the supervisor only: the leaf of its page table has SUP. -/
def supPage : State := { s0 with dev := Mem.write s0.dev (fetchTables + 8192 * 3) (bytesOfNat 8 0x3F) }
def supLeaf : Leaf := { pin := page, x := true, sup := true }
/-- The same vectors in a hart whose ticket the commit right has not reached. -/
def noRightVecs : State := onGang (fun g => { g with index := 9 }) vecs
/-- An ordered vector atomic of two elements waits for its ticket, which the right now comes to. -/
def vamoEntry : Machine.Entry :=
  { num := 3, p := 0, job := 1, tree := false, ticket := 1, h := h0, core := u1.myGang.core, place := 0,
    elems := [0, 2].map fun k => { e := k, loc := dl (0x1000 + 8 * k), n := 8, op := .amo .add 5 }, fill := .v (some 7) false,
    pins := [], vec := true }
def passing : State := onJob (fun j => { j with sealedT := [0] }) { vecs with entries := [vamoEntry] }
/-- A late ordered store of one element, over a good and over a poisoned line. -/
def lateStore : OrdElem := { e := 0, loc := dl 0x1000, n := 8, op := .store [1, 2, 3, 4, 5, 6, 7, 8] }
def storeEntry : Machine.Entry := { vamoEntry with elems := [lateStore], fill := .none }
def lateGood : State := { passing with entries := [storeEntry] }
def lateBad : State := { lateGood with devPoison := [0x1000 / 128] }
/-- Element 2 of the access lies in a poisoned line, element 0 before it. -/
def dirtyAt : State := { (vecs.modMe fun h => { h with tk := vput h.tk 2 { tok with len := 0x4000 }, g := vput h.g 1 0x1070 }) with devPoison := [0x1080 / 128] }
def odd : State := vecs.modMe fun h => { h with g := vput h.g 1 0x1001 }
def oddTrap : TrapInfo := match odd.vPlace (vldAcc odd false 0x42 8 (mxq .no) 1 2) 0 with | .error x => x | .ok _ => { c := .illegal }
theorem hyps_ProbesMakeTokens_0 : ∃ (s : State) (own wr : Bool) (tk : Fin 8) (a b : GOp) (pins : List Pin),
      s.live ∧
      own = (s.atS && !s.me.sup.utk) ∧
      s.probeRange s.myGang.p s.myVf own wr (s.rg a).toNat (s.rg b).toNat = .ok pins ∧
      s.me.pinsBut own tk + pins.length ≤ 64 :=
  ⟨u1, _, true, 7, (some 1), (some 8), [page], Option.isSome_iff_exists.mp (by decide +kernel), rfl,
    by decide +kernel⟩
theorem hyps_ProbesMakeTokens_1 : ∃ (s : State) (own wr : Bool) (tk : Fin 8) (a b : GOp) (pins : List Pin),
      s.live ∧
      own = (s.atS && !s.me.sup.utk) :=
  ⟨s0, _, true, 7, (some 1), (some 8), [], Option.isSome_iff_exists.mp (by decide +kernel), rfl⟩
theorem hyps_ProbesMakeTokens_2 : ∃ (s : State) (own wr : Bool) (a n : Nat) (l : Leaf),
      OnePage s a n l ∧
      (l.sup = true → own = true) ∧
      l.pin.r = true ∧
      (wr = true → l.pin.w = true) ∧
      (l.pin.kind = .dev → s.granted s.myGang.p (l.pin.pa + (a - l.pin.va)) = true ∧ s.granted s.myGang.p (l.pin.pa + (a + n - 1 - l.pin.va)) = true) :=
  ⟨supPage, true, true, 0x1000, 0x40, supLeaf, by constructor <;> decide +kernel, by decide +kernel⟩
theorem hyps_ProbesMakeTokens_3 : ∃ (s : State) (wr : Bool) (tk : Fin 8) (a b : GOp) (l : Leaf),
      s.live ∧
      (s.atS = true ∧ s.me.sup.utk = true ∧ s.me.stores = []) ∧
      OnePage s (s.rg a).toNat (s.rg b).toNat l ∧
      l.sup = true :=
  ⟨(supPage.modMe fun h => { h with sup := { h.sup with utk := true } }), true, 7, (some 1), (some 8), supLeaf,
    Option.isSome_iff_exists.mp (by decide +kernel), by decide +kernel, by constructor <;> decide +kernel,
    by decide +kernel⟩
theorem hyps_VectorLoadsWriteTheirElements_0 : ∃ (s : State) (i : Instr) (f : VAcc) (d : VdOp) (offs : Option VrOp)
    (rf : PageKind → Option Cause) (at_ : Nat → VPlace),
      VLoadOp s i f d offs rf ∧
      s.live ∧
      s.me.stores = [] ∧
      VecAccess s f [] [d] offs rf at_ ∧
      (∀ e ∈ s.todo f.x, (at_ e).readable s f.n) :=
  ⟨vecs, _, _, _, _, _, (placeOf vecs (vldAcc vecs false 0x42 8 (mxq .no) 1 2)),
    VLoadOp.vld (mxq .no) (some 7) (some 1) (some 2), Option.isSome_iff_exists.mp (by decide +kernel),
    by decide +kernel, by constructor <;> decide +kernel, readable_all (by decide +kernel)⟩
theorem hyps_VectorLoadsWriteTheirElements_1 : ∃ (s : State) (x : MemX) (d c : Fin 56) (a b : GOp) (f : VAcc)
    (at_ : Nat → VPlace),
      s.live ∧
      (s.me.stores = [] ∧ d ≠ c) ∧
      f = { op := 0x4A, x := x, n := 16, wr := false, sp := true, addr := fun e => s.rg a + word e * s.rg b } ∧
      VecAccess s f [] [some d, some c] none anyKind at_ ∧
      (∀ e ∈ s.todo x, (at_ e).readable s 16) :=
  ⟨vecs, mxp, 7, 8, (some 1), (some 14), _, (placeOf vecs (vldAcc vecs true 0x4A 16 mxp 1 14)),
    Option.isSome_iff_exists.mp (by decide +kernel), by decide +kernel, rfl, by constructor <;> decide +kernel,
    readable_all (by decide +kernel)⟩
theorem hyps_LoadsTrimOrTrapAtTheElement_0 : ∃ (s : State) (i : Instr) (f : VAcc) (d : VdOp) (offs : Option VrOp)
    (rf : PageKind → Option Cause) (at_ : Nat → VPlace) (pre post : List Nat) (e : Nat) (x : TrapInfo),
      VLoadOp s i f d offs rf ∧
      s.live ∧
      (s.atS = false ∧ s.me.stores = [] ∧ s.me.vl ≠ 0 ∧ s.me.vl ≤ 128 ∧ s.vmTags [] [d] offs = none ∧ s.ticketCheck f.x.t = none ∧ s.vIssue f rf (s.todo f.x) = none ∧ s.vStall f (s.todo f.x) = none ∧ (f.x.t = .no → s.waitsOwn true (releases f.x.ord) (s.vLocs f (s.todo f.x)) = false) ∧ s.todo f.x = pre ++ e :: post) ∧
      (∀ k ∈ pre, s.vPlace f k = .ok (at_ k) ∧ (at_ k).readable s f.n) ∧
      ElemStop s f e x ∧
      (x.c = .tkrange ∨ x.c = .sprange) ∧
      pre ≠ [] :=
  ⟨ending, _, _, _, _, _, (placeOf ending (vldAcc ending false 0x42 8 (mxq .no) 1 2)), [0, 2], [5], 4, endTrap,
    VLoadOp.vld (mxq .no) (some 7) (some 1) (some 2), Option.isSome_iff_exists.mp (by decide +kernel),
    by decide +kernel,
    fun k hk => ⟨(by decide +kernel : ∀ k ∈ [0, 2], ending.vPlace (vldAcc ending false 0x42 8 (mxq .no) 1 2) k = .ok (placeOf ending (vldAcc ending false 0x42 8 (mxq .no) 1 2) k)) k hk, readable_all (es := [0, 2]) (by decide +kernel) k hk⟩, .place _ (by decide +kernel), by decide +kernel⟩
theorem hyps_LoadsTrimOrTrapAtTheElement_1 : ∃ (s : State) (i : Instr) (f : VAcc) (d : VdOp) (offs : Option VrOp)
    (rf : PageKind → Option Cause) (at_ : Nat → VPlace) (pre post : List Nat) (e : Nat) (x : TrapInfo),
      VLoadOp s i f d offs rf ∧
      s.live ∧
      (s.atS = false ∧ s.me.stores = [] ∧ s.me.vl ≠ 0 ∧ s.me.vl ≤ 128 ∧ s.vmTags [] [d] offs = none ∧ s.ticketCheck f.x.t = none ∧ s.vIssue f rf (s.todo f.x) = none ∧ s.vStall f (s.todo f.x) = none ∧ (f.x.t = .no → s.waitsOwn true (releases f.x.ord) (s.vLocs f (s.todo f.x)) = false) ∧ s.todo f.x = pre ++ e :: post) ∧
      (∀ k ∈ pre, s.vPlace f k = .ok (at_ k) ∧ (at_ k).readable s f.n) ∧
      ElemStop s f e x ∧
      (¬ ((x.c = .tkrange ∨ x.c = .sprange) ∧ pre ≠ [])) ∧
      s.me.sup.svec ≠ 0 :=
  ⟨odd, _, _, _, _, _, (placeOf odd (vldAcc odd false 0x42 8 (mxq .no) 1 2)), [], [2, 4, 5], 0, oddTrap,
    VLoadOp.vld (mxq .no) (some 7) (some 1) (some 2), Option.isSome_iff_exists.mp (by decide +kernel),
    by decide +kernel, (fun _ hk => nomatch hk), .place _ (by decide +kernel), by decide +kernel⟩
theorem hyps_VectorStoresWriteTheirElements_0 : ∃ (s : State) (i : Instr) (f : VAcc) (data : Nat → Nat)
    (srcs : List VsOp) (offs : Option VrOp) (rf : PageKind → Option Cause) (at_ : Nat → VPlace),
      VStoreOp s i f data srcs offs rf ∧
      s.live ∧
      s.memWf ∧
      (Mem.wf s.myGang.sp = true ∧ s.me.stores = [] ∧ s.myGang.diverged = false) ∧
      VecAccess s f srcs [] offs rf at_ ∧
      (f.x.t = .no ∨ f.sp = false ∧ s.direct (f.x.t == .tt) = true ∧ s.me.redo = [] ∧ (∀ e ∈ s.todo f.x, ¬ (at_ e).dirty s f.n)) ∧
      (∀ e ∈ s.todo f.x, (at_ e).writable s f.n) :=
  ⟨vecs, _, _, _, _, _, _, (placeOf vecs (vstAcc vecs 0x43 8 (mxq .tj) 1 2)),
    VStoreOp.vst (mxq .tj) 3 (some 1) (some 2), Option.isSome_iff_exists.mp (by decide +kernel),
    by unfold State.memWf; decide +kernel, by decide +kernel, by constructor <;> decide +kernel,
    .inr ⟨rfl, by decide +kernel, by decide +kernel, clean_all (by decide +kernel)⟩, writable_all (by decide +kernel)⟩
theorem hyps_VectorStoresWriteTheirElements_1 : ∃ (s : State) (i : Instr) (f : VAcc) (data : Nat → Nat)
    (srcs : List VsOp) (offs : Option VrOp) (rf : PageKind → Option Cause) (at_ : Nat → VPlace),
      VStoreOp s i f data srcs offs rf ∧
      s.live ∧
      s.memWf ∧
      (Mem.wf s.myGang.sp = true ∧ s.me.stores = [] ∧ s.myGang.diverged = false) ∧
      VecAccess s f srcs [] offs rf at_ ∧
      f.sp = false ∧
      Buffers s f.x :=
  ⟨noRightVecs, _, _, _, _, _, _, (placeOf vecs (vstAcc vecs 0x43 8 (mxq .tj) 1 2)),
    VStoreOp.vst (mxq .tj) 3 (some 1) (some 2), Option.isSome_iff_exists.mp (by decide +kernel),
    by unfold State.memWf; decide +kernel, by decide +kernel, by constructor <;> decide +kernel, by decide +kernel,
    by constructor <;> decide +kernel⟩
theorem hyps_VectorStoresWriteTheirElements_2 : ∃ (s : State) (i : Instr) (f : VAcc) (data : Nat → Nat)
    (srcs : List VsOp) (offs : Option VrOp) (rf : PageKind → Option Cause) (at_ : Nat → VPlace) (pre post : List Nat)
    (e : Nat) (c : Cause),
      VStoreOp s i f data srcs offs rf ∧
      s.live ∧
      s.memWf ∧
      (Mem.wf s.myGang.sp = true ∧ s.me.stores = [] ∧ s.myGang.diverged = false ∧ s.atS = false ∧ s.me.vl ≠ 0 ∧ s.me.vl ≤ 128 ∧ s.vmTags srcs [] offs = none ∧ s.ticketCheck f.x.t = none ∧ s.vIssue f rf (s.todo f.x) = none ∧ s.vStall f (s.todo f.x) = none ∧ (f.x.t = .no → s.waitsOwn true (releases f.x.ord) (s.vLocs f (s.todo f.x)) = false) ∧ s.todo f.x = pre ++ e :: post) ∧
      (∀ k ∈ pre, s.vPlace f k = .ok (at_ k) ∧ (at_ k).writable s f.n ∧ (f.x.t ≠ .no → ¬ (at_ k).dirty s f.n)) ∧
      (f.x.t = .no ∨ f.sp = false ∧ s.direct (f.x.t == .tt) = true ∧ s.me.redo = []) ∧
      StoreStop s f e c ∧
      s.me.sup.svec ≠ 0 :=
  ⟨dirtyAt, _, _, _, _, _, _, (placeOf dirtyAt (vstAcc dirtyAt 0x43 8 (mxq .tj) 1 2)), [0], [4, 5], 2, _,
    VStoreOp.vst (mxq .tj) 3 (some 1) (some 2), Option.isSome_iff_exists.mp (by decide +kernel),
    by unfold State.memWf; decide +kernel, by decide +kernel,
    (by intro k hk; obtain rfl := List.mem_singleton.mp hk; exact ⟨by decide +kernel, writable_all (es := [0]) (by decide +kernel) 0 (by decide), fun _ => clean_all (es := [0]) (by decide +kernel) 0 (by decide)⟩), by decide +kernel, .poison (placeOf dirtyAt (vstAcc dirtyAt 0x43 8 (mxq .tj) 1 2) 2) (by decide +kernel) (by decide) (dirty_of (by decide +kernel)), by decide +kernel⟩
theorem hyps_VectorStoresWriteTheirElements_3 : ∃ (s : State) (e : Entry) (j : Job) (x : OrdElem) (bs : List Byte),
      s.memWf ∧
      s.entries = [e] ∧
      s.job? e.p e.job = some j ∧
      j.right < j.tickets ∧
      (j.right ∈ j.sealedT ∨ j.right ∈ j.voidedT) ∧
      e.ticket = j.right + 1 ∧
      e.tree = false ∧
      e.vec = true ∧
      e.fill = .none ∧
      e.elems = [x] ∧
      x.op = .store bs ∧
      x.n = bs.length ∧
      (s.gang? e.h.gang).isSome ∧
      (s.gang e.h.gang).frames = none ∧
      (s.hart e.h).redo = [] ∧
      linePoisoned (s.poisonOf x.loc.kind) x.loc.pa x.n = true :=
  ⟨lateBad, storeEntry, (theJob lateBad), lateStore, [1, 2, 3, 4, 5, 6, 7, 8], by unfold State.memWf; decide +kernel,
    by decide +kernel⟩
theorem hyps_VectorStoresWriteTheirElements_4 : ∃ (s : State) (e : Entry) (j : Job) (x : OrdElem) (bs : List Byte),
      s.memWf ∧
      s.entries = [e] ∧
      s.job? e.p e.job = some j ∧
      j.right < j.tickets ∧
      (j.right ∈ j.sealedT ∨ j.right ∈ j.voidedT) ∧
      e.ticket = j.right + 1 ∧
      e.tree = false ∧
      e.vec = true ∧
      e.fill = .none ∧
      e.elems = [x] ∧
      x.op = .store bs ∧
      x.n = bs.length ∧
      (s.gang? e.h.gang).isSome ∧
      (s.gang e.h.gang).frames = none ∧
      (s.hart e.h).redo = [] ∧
      linePoisoned (s.poisonOf x.loc.kind) x.loc.pa x.n = false ∧
      s.writeRefused x.loc x.n = false :=
  ⟨lateGood, storeEntry, (theJob lateGood), lateStore, [1, 2, 3, 4, 5, 6, 7, 8],
    by unfold State.memWf; decide +kernel, by decide +kernel⟩
theorem hyps_VectorAtomicsRunInElementOrder_0 : ∃ (s : State) (op : AmoOp) (x : MemX) (d : VdOp) (a : GOp) (b : VrOp)
    (c : VsOp) (at_ : Nat → VPlace) (n : Nat) (z : List (Nat × Nat) × (Loc → Byte)),
      s.live ∧
      s.memWf ∧
      (s.me.stores = [] ∧ s.myGang.diverged = false ∧ n = Sz.bytes x.sz ∧ (n = 4 ∨ n = 8)) ∧
      VecAccess s (s.amoAcc 0x50 x a b) [c] [d] (some b) (notTaken fun k => PageKind.takes k op) at_ ∧
      ((x.t = .no ∨ s.direct (x.t == .tt) = true ∧ s.me.redo = []) ∧ (∀ e ∈ s.todo x, s.readPoison (at_ e).loc n = false ∧ s.writeRefused (at_ e).loc n = false)) ∧
      z = amoRun op n (fun e => (at_ e).loc) (fun e => (s.vel c e).toNat % 2 ^ (8 * n)) (s.todo x) s.byteAt :=
  ⟨vecs, .maxu, (mxq .tj), none, (some 1), 4, (.vec 3), (placeOf vecs (vecs.amoAcc 0x50 (mxq .tj) (some 1) 4)), 8, _,
    Option.isSome_iff_exists.mp (by decide +kernel), by unfold State.memWf; decide +kernel, by decide +kernel,
    by constructor <;> decide +kernel, by decide +kernel, rfl⟩
theorem hyps_VectorAtomicsRunInElementOrder_1 : ∃ (s : State) (op : AmoOp) (x : MemX) (d : VdOp) (a : GOp) (b : VrOp)
    (c : VsOp) (at_ : Nat → VPlace) (n : Nat) (z : List (Nat × Nat) × (Loc → Byte)),
      s.live ∧
      s.memWf ∧
      (s.me.stores = [] ∧ s.myGang.diverged = false ∧ n = Sz.bytes x.sz ∧ (n = 4 ∨ n = 8)) ∧
      VecAccess s (s.amoAcc 0x50 x a b) [c] [d] (some b) (notTaken fun k => PageKind.takes k op) at_ ∧
      Buffers s x ∧
      s.todo x ≠ [] :=
  ⟨noRightVecs, .maxu, (mxq .tj), (some 7), (some 1), 4, (.vec 3),
    (placeOf vecs (vecs.amoAcc 0x50 (mxq .tj) (some 1) 4)), 8, ([], fun _ => 0),
    Option.isSome_iff_exists.mp (by decide +kernel), by unfold State.memWf; decide +kernel, by decide +kernel,
    by constructor <;> decide +kernel, by constructor <;> decide +kernel, by decide +kernel⟩
theorem hyps_VectorAtomicsRunInElementOrder_2 : ∃ (s : State) (op : AmoOp) (x : MemX) (a : GOp) (b c : VrOp)
    (at_ : Nat → VPlace) (n : Nat),
      s.live ∧
      (s.me.stores = [] ∧ s.myGang.diverged = false ∧ n = Sz.bytes x.sz ∧ (n = 4 ∨ n = 8)) ∧
      VecAccess s (s.amoAcc 0x51 x a b) [.vec c] [] (some b) (notTaken (postable op)) at_ ∧
      x.t = .no :=
  ⟨vecs, .add, (mxq .no), (some 1), 4, 3, (placeOf vecs (vecs.amoAcc 0x51 (mxq .no) (some 1) 4)), 8,
    Option.isSome_iff_exists.mp (by decide +kernel), by decide +kernel, by constructor <;> decide +kernel,
    by decide +kernel⟩
theorem hyps_VectorAtomicsRunInElementOrder_3 : ∃ (s : State) (op : AmoOp) (x : MemX) (a : GOp) (b c : VrOp)
    (at_ : Nat → VPlace) (n : Nat),
      s.live ∧
      (s.me.stores = [] ∧ s.myGang.diverged = false ∧ n = Sz.bytes x.sz ∧ (n = 4 ∨ n = 8)) ∧
      VecAccess s (s.amoAcc 0x51 x a b) [.vec c] [] (some b) (notTaken (postable op)) at_ ∧
      (x.t ≠ .no ∧ s.direct (x.t == .tt) = true ∧ s.me.redo = []) ∧
      s.memWf ∧
      (∀ e ∈ s.todo x, s.readPoison (at_ e).loc n = false ∧ s.writeRefused (at_ e).loc n = false) :=
  ⟨vecs, .add, (mxq .tj), (some 1), 4, 3, (placeOf vecs (vecs.amoAcc 0x51 (mxq .tj) (some 1) 4)), 8,
    Option.isSome_iff_exists.mp (by decide +kernel), by decide +kernel, by constructor <;> decide +kernel,
    by decide +kernel, by unfold State.memWf; decide +kernel, by decide +kernel⟩
theorem hyps_VectorAtomicsRunInElementOrder_4 : ∃ (s : State) (op : AmoOp) (x : MemX) (a : GOp) (b c : VrOp)
    (at_ : Nat → VPlace) (n : Nat),
      s.live ∧
      (s.me.stores = [] ∧ s.myGang.diverged = false ∧ n = Sz.bytes x.sz ∧ (n = 4 ∨ n = 8)) ∧
      VecAccess s (s.amoAcc 0x51 x a b) [.vec c] [] (some b) (notTaken (postable op)) at_ ∧
      Buffers s x :=
  ⟨noRightVecs, .add, (mxq .tj), (some 1), 4, 3, (placeOf vecs (vecs.amoAcc 0x51 (mxq .tj) (some 1) 4)), 8,
    Option.isSome_iff_exists.mp (by decide +kernel), by decide +kernel, by constructor <;> decide +kernel,
    by constructor <;> decide +kernel⟩
theorem hyps_VectorAtomicsRunInElementOrder_5 : ∃ (s : State) (e : Entry) (j : Job) (op : AmoOp) (d : VdOp)
    (sx : Bool) (n : Nat) (es : List Nat) (at_ : Nat → Loc) (x : Nat → Word) (z : List (Nat × Nat) × (Loc → Byte)),
      s.memWf ∧
      (s.entries = [e] ∧ s.job? e.p e.job = some j ∧ j.right < j.tickets ∧ (j.right ∈ j.sealedT ∨ j.right ∈ j.voidedT) ∧ e.ticket = j.right + 1 ∧ e.tree = false ∧ e.vec = true ∧ e.fill = .v d sx ∧ es ≠ [] ∧ (n = 4 ∨ n = 8) ∧ e.elems = es.map (fun k => { e := k, loc := at_ k, n := n, op := .amo op (x k) }) ∧ (s.gang? e.h.gang).isSome ∧ (s.gang e.h.gang).frames = none ∧ (s.hart e.h).redo = [] ∧ (∀ k ∈ es, s.readPoison (at_ k) n = false ∧ s.writeRefused (at_ k) n = false ∧ (at_ k).kind ≠ .io)) ∧
      z = amoRun op n at_ (fun k => (x k).toNat % 2 ^ (8 * n)) es s.byteAt :=
  ⟨passing, vamoEntry, (theJob passing), .add, (some 7), false, 8, [0, 2], (fun k => dl (0x1000 + 8 * k)),
    (fun _ => 5), _, by unfold State.memWf; decide +kernel, by decide +kernel, rfl⟩
theorem hyps_ConditionalWaitsTestEveryElement_0 : ∃ (s : State) (cc : FCond) (x : MemX) (d : MOp) (a b : GOp)
    (c : VsOp) (at_ : Nat → VPlace) (ok : Nat → Bool),
      s.live ∧
      ((s.vtag c = none ∨ s.vtag c = some .n64 ∨ s.vtag c = some .i64) ∧ s.me.wait = none) ∧
      VecAccess s (s.waitAcc x a) [c] [] none notIo at_ ∧
      (releases x.ord = true → s.me.stores = []) ∧
      (∀ e ∈ s.todo x, (at_ e).readable s (Sz.bytes x.sz)) ∧
      (ok = fun e => FCond.words cc (s.vtag c == some .i64) (if Sz.bytes x.sz = 4 then extendN 4 x.sx ((at_ e).value s 4) else word ((at_ e).value s (Sz.bytes x.sz))) (s.vel c e)) ∧
      (∀ e ∈ s.todo x, ok e = true) :=
  ⟨vecs, .ne, (mxq .no), (some 9), (some 1), none, (.vec 5), (placeOf vecs (vecs.waitAcc (mxq .no) (some 1))), _,
    Option.isSome_iff_exists.mp (by decide +kernel), by decide +kernel, by constructor <;> decide +kernel,
    by decide +kernel, readable_all (by decide +kernel), rfl, by decide +kernel⟩
theorem hyps_ConditionalWaitsTestEveryElement_1 : ∃ (s : State) (cc : FCond) (x : MemX) (d : MOp) (a b : GOp)
    (c : VsOp) (at_ : Nat → VPlace) (ok : Nat → Bool),
      s.live ∧
      ((s.vtag c = none ∨ s.vtag c = some .n64 ∨ s.vtag c = some .i64) ∧ s.me.wait = none) ∧
      VecAccess s (s.waitAcc x a) [c] [] none notIo at_ ∧
      (releases x.ord = true → s.me.stores = []) ∧
      (∀ e ∈ s.todo x, (at_ e).readable s (Sz.bytes x.sz)) ∧
      (ok = fun e => FCond.words cc (s.vtag c == some .i64) (if Sz.bytes x.sz = 4 then extendN 4 x.sx ((at_ e).value s 4) else word ((at_ e).value s (Sz.bytes x.sz))) (s.vel c e)) ∧
      (∃ e ∈ s.todo x, ok e = false) ∧
      (b = none ∨ (s.rg b).toNat ≠ 0) :=
  ⟨vecs, .eq, (mxq .no), (some 9), (some 1), (some 9), (.vec 5), (placeOf vecs (vecs.waitAcc (mxq .no) (some 1))), _,
    Option.isSome_iff_exists.mp (by decide +kernel), by decide +kernel, by constructor <;> decide +kernel,
    by decide +kernel, readable_all (by decide +kernel), rfl, by decide +kernel⟩

/-! ### Hypotheses met: Streams -/

/-- A stream of six elements of 8 bytes, two of them taken, bound to `v41`. -/
def strm (store : Bool) : Stream :=
  { bound := true, q0 := 0x1000, q1 := 8, q2 := 6, q3 := word ((if store then 1 else 0) + 2 * 2 + 16), pos := 2, tag := .n64 }
def streamed (store : Bool) : State := vecs.modMe fun h =>
  vregs [(41, vreg .n64 fun e => 1000 + e), (6, recReg [0x1000, 8, 6, 2 * 2 + 16])]
    { h with str := vput h.str 1 (strm store), vl := if store then 4 else 8 }
/-- A stream with no element left. -/
def exhausted : State := (streamed false).modMe fun h => { h with str := vmod h.str 1 fun q => { q with pos := 6 } }
/-- The place of an element of a stream. -/
def streamPlace (store : Bool) (e : Nat) : Loc := dl (0x1000 + 8 * (2 + e))
theorem hyps_StreamsPopAndAppendStrips_0 : ∃ (s : State) (d : VbOp) (a : Fin 48) (g : GOp) (q : List Word)
    (u : Stream) (r : Fin 60),
      s.live ∧
      s.atS = false ∧
      q = s.record a 4 ∧
      r.val = d.val + 40 ∧
      u = { bound := true, q0 := nth q 0, q1 := nth q 1, q2 := nth q 2, q3 := nth q 3, pos := 0, tag := tagOfRaw s.me.v[r].tag (if bits (nth q 3) 5 4 = 0 then 4 else 8) (bit (nth q 3) 6) } ∧
      StreamRecord q ∧
      s.me.str[d].bound = false ∧
      s.recUntyped a = none ∧
      s.recType a = none ∧
      (¬ (bit (nth q 3) 0 = true ∧ s.me.v[r].tag = .none)) ∧
      (s.me.tk[u.tk]).st = .valid :=
  ⟨(streamed false), 7, 6, (some 3), _, _, 47, Option.isSome_iff_exists.mp (by decide +kernel), by decide +kernel,
    rfl, by decide +kernel, rfl, by constructor <;> decide +kernel, by decide +kernel⟩
theorem hyps_StreamsPopAndAppendStrips_1 : ∃ (s : State) (d : VbOp) (a : Fin 48) (g : GOp) (q : List Word)
    (u : Stream) (r : Fin 60),
      s.live ∧
      s.atS = false ∧
      q = s.record a 4 ∧
      r.val = d.val + 40 ∧
      u = { bound := true, q0 := nth q 0, q1 := nth q 1, q2 := nth q 2, q3 := nth q 3, pos := 0, tag := tagOfRaw s.me.v[r].tag (if bits (nth q 3) 5 4 = 0 then 4 else 8) (bit (nth q 3) 6) } :=
  ⟨(streamed false), 1, 6, (some 3), _, _, 41, Option.isSome_iff_exists.mp (by decide +kernel), by decide +kernel,
    rfl, by decide +kernel, rfl⟩
theorem hyps_StreamsPopAndAppendStrips_2 : ∃ (s u : State) (i : Instr) (srcs : List VsOp) (r : VRow)
    (ps : List (Fin 8)) (n : Nat) (at_ : Fin 8 → Nat → Loc),
      s.live ∧
      s.memWf ∧
      (s.atS = false ∧ s.me.vl ≠ 0 ∧ s.me.vl ≤ 128) ∧
      Pops s srcs ps ∧
      Strips s ps n at_ ∧
      u = s.delivered ps n at_ ∧
      RowOp u i srcs r ∧
      (∀ d, r.d = some d → s.me.bound d.val = none) ∧
      s.waitsOwn true false ((ps.map fun k => s.stripLocs (s.stripOf ps) s.me.str[k]).flatten) = false :=
  ⟨(streamed false), _, _, [.vec 41], _, [1], 4, (fun _ => streamPlace false),
    Option.isSome_iff_exists.mp (by decide +kernel), by unfold State.memWf; decide +kernel, by decide +kernel,
    by constructor <;> decide +kernel,
    ⟨by decide +kernel, (by intro k hk; obtain rfl := List.mem_singleton.mp hk; exact ⟨4, by decide +kernel, by decide +kernel, (by intro e he; interval_cases e <;> exact ⟨⟨page, by unfold State.streamAt; decide +kernel⟩, by decide +kernel, by decide +kernel⟩), .inl (by decide +kernel)⟩), .inl (by decide +kernel)⟩, rfl, .move _ _ _ (.vmov (some 7) 41 (by decide +kernel)), by decide +kernel⟩
theorem hyps_StreamsPopAndAppendStrips_3 : ∃ (s u : State) (i : Instr) (srcs : List VsOp) (r : VRow)
    (ps : List (Fin 8)) (n : Nat) (at_ : Fin 8 → Nat → Loc) (d : Fin 56) (k : Fin 8) (w : Stream) (al : Nat → Loc),
      s.live ∧
      s.memWf ∧
      (s.atS = false ∧ s.me.vl ≠ 0 ∧ s.me.vl ≤ 128) ∧
      Pops s srcs ps ∧
      Strips s ps n at_ ∧
      u = s.delivered ps n at_ ∧
      RowOp u i srcs r ∧
      (r.d = some d ∧ d.val = k.val + 40) ∧
      w = s.me.str[k] ∧
      (w.bound = true ∧ bit w.q3 0 = true ∧ w.tag = r.tag ∧ (s.me.tk[w.tk]).st = .valid ∧ s.myGang.diverged = false ∧ s.waitsOwn true false (((ps.map fun k => s.stripLocs (s.stripOf ps) s.me.str[k]) ++ [s.stripLocs (s.stripOf ps) w]).flatten) = false) ∧
      (∀ e, e < n → w.pos + e < bits w.q2 47 0 ∧ (∃ pin, s.streamAt w true (w.pos + e) (al e) pin) ∧ s.writeRefused (al e) w.bytes = false ∧ (al e).kind ≠ .io) :=
  ⟨(streamed true), _, _, [.vec 3], _, [], 4, (fun _ => streamPlace true), 41, 1, _, (streamPlace true),
    Option.isSome_iff_exists.mp (by decide +kernel), by unfold State.memWf; decide +kernel, by decide +kernel,
    by constructor <;> decide +kernel, ⟨by decide +kernel, (fun _ h => nomatch h), .inl (by decide +kernel)⟩, rfl,
    .move _ _ _ (.vmov (some 41) 3 (by decide +kernel)), by decide +kernel, rfl, by decide +kernel,
    (by intro e he; interval_cases e <;> exact ⟨by decide +kernel, ⟨page, by unfold State.streamAt; decide +kernel⟩, by decide +kernel, by decide +kernel⟩)⟩
theorem hyps_StreamsPopAndAppendStrips_4 : ∃ (s : State) (i : Instr) (srcs : List VsOp) (r : VRow)
    (ps : List (Fin 8)),
      s.live ∧
      (s.atS = false ∧ s.me.vl ≠ 0) ∧
      Pops s srcs ps ∧
      (ps ≠ [] ∧ s.stripOf ps = 0) ∧
      RowOp s i srcs r ∧
      (∀ d, r.d = some d → s.me.bound d.val = none) ∧
      s.waitsOwn true false [] = false :=
  ⟨exhausted, _, [.vec 41], _, [1], Option.isSome_iff_exists.mp (by decide +kernel), by decide +kernel,
    by constructor <;> decide +kernel, by decide +kernel, .move _ _ _ (.vmov (some 7) 41 (by decide +kernel)),
    by decide +kernel⟩

/-! ### Hypotheses met: Tiles -/

/-- A tile held, and panels of two tags. -/
def tiled : State := vecs.modMe fun h => vregs
  [(8, vreg .f32x2 fun e => 0x3F80000040000000 + e), (9, vreg .bf16x4 fun e => 0x3F8040003F004100 + e),
   (10, vreg .cbf16x2 fun e => 0x3F8040003F004100 + e)]
  { h with acc := vput (vput (vput h.acc 1 (some Tile.empty)) 2 (some Tile.empty)) 3 (some Tile.empty), vl := 32 }
/-- Every tile of the core held by the two gangs on it. -/
def noTile : State :=
  let full := onGang (fun g => { g with harts := g.harts.map fun h => { h with acc := Vector.replicate 4 (some Tile.empty) } }) u1
  { full with gangs := (full.gangs.map fun g => { g with uid := 2, hn := 4 }) ++ u1.gangs }
theorem hyps_TilesAreHeldMovedAndScaled_0 : ∃ (s : State) (d : GOp) (n : Fin 4),
      s.live ∧
      s.atS = false ∧
      s.me.acc[n] = none ∧
      s.tileFree s.myGang = true :=
  ⟨vecs, (some 3), 3, Option.isSome_iff_exists.mp (by decide +kernel), by decide +kernel⟩
theorem hyps_TilesAreHeldMovedAndScaled_1 : ∃ (s : State) (d : GOp) (n : Fin 4),
      s.live ∧
      s.atS = false ∧
      s.me.acc[n] = none ∧
      s.tileFree s.myGang = false :=
  ⟨noTile, (some 3), 0, Option.isSome_iff_exists.mp (by decide +kernel), by decide +kernel⟩
theorem hyps_TilesAreHeldMovedAndScaled_2 : ∃ (s : State) (d : GOp) (n : Fin 4),
      s.live ∧
      s.atS = false ∧
      s.me.acc[n] ≠ none :=
  ⟨tiled, (some 3), 1, Option.isSome_iff_exists.mp (by decide +kernel), by decide +kernel,
    (fun h => nomatch (congrArg Option.isSome h : true = false))⟩
theorem hyps_TilesAreHeldMovedAndScaled_3 : ∃ (s : State) (q : VMod) (col : Bool) (n : Fin 4) (d : VdOp) (a : VrOp)
    (b : GOp) (x y : VsOp) (z : Tile),
      s.live ∧
      (s.atS = false ∧ s.me.vl ≠ 0 ∧ s.me.vl ≤ 128) ∧
      s.me.acc[n] = some z ∧
      s.vmTags [] [d] none = none ∧
      (s.rg b).toNat ≤ 15 :=
  ⟨tiled, vm0, true, 1, (some 7), 3, (some 9), (.vec 8), .zero, Tile.empty,
    Option.isSome_iff_exists.mp (by decide +kernel), by decide +kernel, (by with_unfolding_all rfl),
    by decide +kernel⟩
theorem hyps_TilesAreHeldMovedAndScaled_4 : ∃ (s : State) (q : VMod) (col : Bool) (n : Fin 4) (d : VdOp) (a : VrOp)
    (b : GOp) (x y : VsOp) (z : Tile),
      s.live ∧
      (s.atS = false ∧ s.me.vl ≠ 0 ∧ s.me.vl ≤ 128) ∧
      s.me.acc[n] = some z ∧
      s.vmTags [.vec a] [] none = none ∧
      (s.rg b).toNat ≤ 15 :=
  ⟨tiled, vm0, false, 1, none, 3, (some 9), (.vec 8), .zero, Tile.empty,
    Option.isSome_iff_exists.mp (by decide +kernel), by decide +kernel, (by with_unfolding_all rfl),
    by decide +kernel⟩
theorem hyps_TilesAreHeldMovedAndScaled_5 : ∃ (s : State) (q : VMod) (col : Bool) (n : Fin 4) (d : VdOp) (a : VrOp)
    (b : GOp) (x y : VsOp) (z : Tile),
      s.live ∧
      (s.atS = false ∧ s.me.vl ≠ 0 ∧ s.me.vl ≤ 128) ∧
      s.me.acc[n] = some z ∧
      s.vmTags [x, y] [] none = none ∧
      Tagged s [x, y] .f32x2 :=
  ⟨tiled, vm0, false, 1, none, 3, (some 9), (.vec 8), .zero, Tile.empty,
    Option.isSome_iff_exists.mp (by decide +kernel), by decide +kernel, (by with_unfolding_all rfl),
    by decide +kernel, ⟨by decide +kernel, ⟨_, List.mem_cons_self⟩, by decide +kernel⟩⟩
theorem hyps_TilesAreHeldMovedAndScaled_6 : ∃ (s : State) (d : GOp) (n : Fin 4),
      s.live ∧
      (s.atS = false ∧ s.me.sup.svec ≠ 0) ∧
      s.me.acc[n] ≠ none :=
  ⟨tiled, (some 3), 1, Option.isSome_iff_exists.mp (by decide +kernel), by decide +kernel,
    (fun h => nomatch (congrArg Option.isSome h : true = false))⟩
theorem hyps_TilesAreHeldMovedAndScaled_7 : ∃ (s : State) (d : GOp) (n : Fin 4),
      s.live ∧
      s.atS = false ∧
      s.me.sup.svec ≠ 0 ∧
      s.me.acc[n] = none :=
  ⟨vecs, none, 3, Option.isSome_iff_exists.mp (by decide +kernel), by decide +kernel⟩
theorem hyps_OuterProductsAddGroupByGroup_0 : ∃ (s : State) (q : VMod) (cj : Bool) (n : Fin 4) (a b : VrOp) (u : Tag)
    (per gs : Nat) (m : Mopa) (re : Tile),
      s.live ∧
      (s.atS = false ∧ s.mopaTags cj n a b = .ok (u, per)) ∧
      m = s.mopaOf q cj u per a b ∧
      (gs = (s.me.vl / per + 3) / 4 ∧ s.me.vl ≠ 0 ∧ s.me.vl % per = 0 ∧ s.me.ei < gs) ∧
      s.me.acc[n] = some re ∧
      u ≠ .cbf16x2 :=
  ⟨tiled, vm0, false, 1, 9, 9, .bf16x4, 16, 1, _, Tile.empty, Option.isSome_iff_exists.mp (by decide +kernel),
    by decide +kernel, rfl, by decide +kernel, (by with_unfolding_all rfl), by decide +kernel⟩
theorem hyps_OuterProductsAddGroupByGroup_1 : ∃ (s : State) (q : VMod) (cj : Bool) (n : Fin 4) (a b : VrOp) (u : Tag)
    (per gs : Nat) (m : Mopa) (re : Tile) (im : _),
      s.live ∧
      (s.atS = false ∧ s.mopaTags cj n a b = .ok (u, per)) ∧
      m = s.mopaOf q cj u per a b ∧
      (gs = (s.me.vl / per + 3) / 4 ∧ s.me.vl ≠ 0 ∧ s.me.vl % per = 0 ∧ s.me.ei < gs) ∧
      s.me.acc[n] = some re ∧
      u = .cbf16x2 ∧
      s.me.acc[n + 1] = some im :=
  ⟨tiled, vm0, true, 2, 10, 10, .cbf16x2, 32, 1, _, Tile.empty, Tile.empty,
    Option.isSome_iff_exists.mp (by decide +kernel), by decide +kernel, rfl, by decide +kernel,
    (by with_unfolding_all rfl), by decide +kernel, (by with_unfolding_all rfl)⟩
theorem hyps_WholeTilesAreStoredAndLoaded_0 : ∃ (s : State) (x : MemX) (sp : Bool) (n : Fin 4) (a b : GOp)
    (at_ : Nat → VPlace) (z : Tile),
      s.live ∧
      s.memWf ∧
      (Mem.wf s.myGang.sp = true ∧ s.me.stores = []) ∧
      s.me.acc[n] = some z ∧
      TileAccess s (s.tileAccess 0x5E x sp true a b) at_ ∧
      s.myGang.diverged = false ∧
      (∀ e, e < 4096 → (at_ e).writable s 4) :=
  ⟨tiled, mx4, true, 1, none, none, (fun e => .sp (.plain (4 * (e % 64)))), Tile.empty,
    Option.isSome_iff_exists.mp (by decide +kernel), by unfold State.memWf; decide +kernel, by decide +kernel,
    (by with_unfolding_all rfl),
    ⟨by decide +kernel, by decide, below (by decide +kernel), below (by decide +kernel), by decide +kernel, by decide +kernel⟩, by decide +kernel, (fun _ _ => trivial)⟩
theorem hyps_WholeTilesAreStoredAndLoaded_1 : ∃ (s : State) (x : MemX) (sp : Bool) (n : Fin 4) (a b : GOp)
    (at_ : Nat → VPlace) (z : Tile),
      s.live ∧
      s.memWf ∧
      (Mem.wf s.myGang.sp = true ∧ s.me.stores = []) ∧
      s.me.acc[n] = some z ∧
      TileAccess s (s.tileAccess 0x5F x sp false a b) at_ ∧
      (∀ e, e < 4096 → (at_ e).readable s 4) :=
  ⟨tiled, mx4, true, 1, none, none, (fun e => .sp (.plain (4 * (e % 64)))), Tile.empty,
    Option.isSome_iff_exists.mp (by decide +kernel), by unfold State.memWf; decide +kernel, by decide +kernel,
    (by with_unfolding_all rfl),
    ⟨by decide +kernel, by decide, below (by decide +kernel), below (by decide +kernel), by decide +kernel, by decide +kernel⟩, below (p := fun e => tiled.myGang.spPoisoned (tiled.myGang.spMap (.plain (4 * (e % 64)))) 4 = false) (by decide +kernel)⟩

/-! ### Hypotheses met: Barriers and rings -/

def barred (b : Barrier) : State := onGang (fun g => { g with bars := vput g.bars 3 b }) u1
def bar1 : Barrier := { init := true, ph := 0, cnt := 2, exp := 3, expb := 7, pend := 0 }
def ringed (q : Ring) : State := onGang (fun g => { g with rings := vput g.rings 1 q }) u1
def ring1 : Ring := { Ring.empty with cfg := true, base := 0x400, size := 512, n := 3, c := 2, kind := 1 }
/-- A ring configuration in `g1`. -/
def ringWord : State := u1.modMe (regs [(1, 0x400 + 3 * 2 ^ 21 + 2 * 2 ^ 30 + 1 * 2 ^ 34 + 2 ^ 38)])
theorem hyps_BarriersCountPhases_0 : ∃ (s : State) (n : Fin 32) (a b : GOp),
      s.live ∧
      n.val < 8 * s.myGang.hn ∧
      1 ≤ (s.rg a).toNat ∧
      (s.rg a).toNat ≤ 65535 ∧
      (s.rg b).toNat < 2 ^ 55 ∧
      s.barRefs s.cur.gang n = false ∧
      s.myGang.waitsBar n = false :=
  ⟨u1, 7, (some 2), (some 1), Option.isSome_iff_exists.mp (by decide +kernel), by decide +kernel⟩
theorem hyps_BarriersCountPhases_1 : ∃ (s : State) (n : Fin 32),
      s.live ∧
      n.val < 8 * s.myGang.hn ∧
      s.myGang.bars[n].init = true ∧
      s.myGang.bars[n].cnt ≠ s.myGang.bars[n].exp ∧
      s.me.stores = [] ∧
      s.myGang.diverged = false :=
  ⟨(barred bar1), 3, Option.isSome_iff_exists.mp (by decide +kernel), by decide +kernel⟩
theorem hyps_BarriersCountPhases_2 : ∃ (s : State) (n : Fin 32) (a : GOp),
      s.live ∧
      n.val < 8 * s.myGang.hn ∧
      s.myGang.bars[n].init = true ∧
      (s.rg a).toNat < 2 ^ 55 ∧
      s.myGang.bars[n].pend + (s.rg a).toNat < 2 ^ 55 :=
  ⟨(barred bar1), 3, (some 1), Option.isSome_iff_exists.mp (by decide +kernel), by decide +kernel⟩
theorem hyps_BarriersCountPhases_3 : ∃ (s : State) (n : Fin 32) (d : GOp) (x : Barrier),
      s.live ∧
      n.val < 8 * s.myGang.hn ∧
      x = s.myGang.bars[n] ∧
      x.init = true ∧
      aheadOf x.ph s.me.wph[n] :=
  ⟨(barred { bar1 with ph := 0x80000000 }), 3, none, _, Option.isSome_iff_exists.mp (by decide +kernel),
    by decide +kernel, rfl, by decide +kernel, ⟨by decide +kernel, by decide +kernel⟩⟩
theorem hyps_BarriersCountPhases_4 : ∃ (s : State) (n : Fin 32) (d : GOp) (x : Barrier),
      s.live ∧
      n.val < 8 * s.myGang.hn ∧
      x = s.myGang.bars[n] ∧
      x.init = true ∧
      ¬ aheadOf x.ph s.me.wph[n] :=
  ⟨(barred { bar1 with ph := 0x80000001 }), 3, none, _, Option.isSome_iff_exists.mp (by decide +kernel),
    by decide +kernel, rfl, by decide +kernel, (by unfold aheadOf; decide +kernel)⟩
theorem hyps_BarriersCountPhases_5 : ∃ (s : State) (n : Fin 32) (d : GOp) (x : Barrier),
      s.live ∧
      n.val < 8 * s.myGang.hn ∧
      x = s.myGang.bars[n] ∧
      x.init = false :=
  ⟨u1, 3, none, _, Option.isSome_iff_exists.mp (by decide +kernel), by decide +kernel, rfl, by decide +kernel⟩
theorem hyps_BarriersCountPhases_6 : ∃ (s : State) (n : Fin 32) (i : Instr) (op : Nat),
      BarrierBad s n i op ∧
      s.live ∧
      s.atS = false ∧
      s.me.sup.svec ≠ 0 :=
  ⟨u1, 3, _, _, BarrierBad.fresh _ _ (.bwait 3) (by decide +kernel) (by decide),
    Option.isSome_iff_exists.mp (by decide +kernel), by decide +kernel⟩
theorem hyps_RingsMoveTheirStages_5 : ∃ (s : State) (r : Fin 8) (i : Instr) (op : Nat),
      RingBad s r i op ∧
      s.live ∧
      s.atS = false ∧
      s.me.sup.svec ≠ 0 :=
  ⟨(ringed ring1), 1, _, _, RingBad.empty (by decide +kernel), Option.isSome_iff_exists.mp (by decide +kernel),
    by decide +kernel⟩
theorem hyps_RingsMoveTheirStages_0 : ∃ (s : State) (r : Fin 8) (a : GOp),
      s.live ∧
      s.atS = false ∧
      r.val < 2 * s.myGang.hn ∧
      s.ringRefused r (s.rg a) = false :=
  ⟨ringWord, 1, (some 1), Option.isSome_iff_exists.mp (by decide +kernel), by decide +kernel⟩
theorem hyps_RingsMoveTheirStages_1 : ∃ (s : State) (r : Fin 8) (a : GOp) (q : Ring),
      s.live ∧
      s.atS = false ∧
      s.ringLive r ∧
      q = s.myGang.rings[r] ∧
      (q.kind = 1 ∨ q.kind = 0 ∧ s.rg a = 0) ∧
      (s.rg a).toNat < 2 ^ 55 ∧
      (q.iss - q.drn).toNat < q.n ∧
      s.myGang.diverged = false ∧
      s.me.stores = [] :=
  ⟨(ringed { ring1 with iss := 2 }), 1, (some 2), _, Option.isSome_iff_exists.mp (by decide +kernel),
    by decide +kernel, by constructor <;> decide +kernel, rfl, by decide +kernel⟩
theorem hyps_RingsMoveTheirStages_2 : ∃ (s : State) (r : Fin 8) (a : GOp) (q : Ring),
      s.live ∧
      s.atS = false ∧
      s.ringLive r ∧
      q = s.myGang.rings[r] ∧
      q.fill ≠ q.drn ∧
      s.myGang.diverged = false ∧
      s.me.stores = [] :=
  ⟨(ringed { ring1 with iss := 3, fill := 1 }), 1, none, _, Option.isSome_iff_exists.mp (by decide +kernel),
    by decide +kernel, by constructor <;> decide +kernel, rfl, by decide +kernel⟩
theorem hyps_RingsMoveTheirStages_3 : ∃ (s : State) (r : Fin 8) (a : GOp) (q : Ring),
      s.live ∧
      s.atS = false ∧
      s.ringLive r ∧
      q = s.myGang.rings[r] ∧
      q.fill ≠ q.drn :=
  ⟨(ringed { ring1 with iss := 3, fill := 1 }), 1, none, _, Option.isSome_iff_exists.mp (by decide +kernel),
    by decide +kernel, by constructor <;> decide +kernel, rfl, by decide +kernel⟩
theorem hyps_RingsMoveTheirStages_4 : ∃ (s : State) (d : GOp) (r : Fin 8) (which : Fin 4) (q : Ring),
      s.live ∧
      r.val < 2 * s.myGang.hn ∧
      q = s.myGang.rings[r] :=
  ⟨(ringed ring1), (some 3), 1, 3, _, Option.isSome_iff_exists.mp (by decide +kernel), by decide +kernel, rfl⟩

/-! ### Hypotheses met: Sweeps -/

def tok4 : Token := { tok with len := 0x4000 }
/-- A layer record of 16 pages, and a subscription record for two pages and two queries. -/
def layer : VReg := recReg [0x1000, 2048 * 2 ^ 32, 2 * 2 ^ 16 + 2 * 2 ^ 20 + 16 * 2 ^ 24 + 255 * 256, 8192]
def subscription : VReg := recReg [2 * 2 ^ 4 + 3 * 2 ^ 8 + 2 * 2 ^ 16 + 1 * 2 ^ 24, 0, 0x1800, 0, 0, 0, 0, 0, 0, 0]
/-- A partition with sweeps, a page ring, a barrier and the records. -/
def sw0 : State :=
  let s := u1.modMe fun h => vregs
    [(3, layer), (4, subscription), (5, vreg .n32x2 fun e => if e = 0 then 3 * 2 ^ 32 else 0), (6, vreg .f32x2 fun _ => 0x3F8000003F800000)]
    (regs [(20, 4)] { h with tk := vput h.tk 2 tok4, vl := 20 })
  onGang (fun g => { g with rings := vput g.rings 2 { Ring.empty with cfg := true, kind := 3, base := 0, size := 8192, n := 2, c := 1 }
                            bars := vput g.bars 3 { Barrier.empty with init := true, exp := 1, expb := 100000, pend := 100000 }
                            hn := 4 })
    (s.modPart 0 fun q => { q with cap1 := 0x80000000 })
def sw1 : State := after (.pgopen (some 20) 3) sw0
def sw2 : State := after (.pgsub vm0 (some 21) 5 4 (some 20)) sw1
def mg : State := sw2.modMe fun h => regs [(22, 0), (23, (sw2.rg (some 21)).toNat % 65536 * 8), (24, 1)] h
def theSub (s : State) : Machine.Sub := ((s.sweeps[(0 : Fin 4)]).subs.head?).getD
  { idx := 0, reuse := 0, p := 0, job := 0, gang := 0, ring := 0, bar := 0, pages := [], passed := [], delivered := [],
    pins := [], queries := [], ended := true }
def queryIn (s : State) : Query := ((theSub s).queries[0]?).getD { out := 0, head := none, next := 0, waiting := [], overflow := [], handed := [], written := false }
def sw3 : State := after (.pageFetch 0) sw2
def theHeld : HeldPage := ((sw3.sweeps[(0 : Fin 4)]).held.head?).getD { id := 0, tail := false, err := false, keys := [], values := [], todo := [] }
def allOpen : State := { sw1 with sweeps := sw1.sweeps.map fun w => { w with st := .main } }
def swAt (f : Sweep → Sweep) (s : State) : State := { s with sweeps := vmod s.sweeps 0 f }
/-- The last position of the query is left. -/
def mgLast : State :=
  swAt (fun w => { w with subs := w.subs.map fun b =>
    { b with queries := b.queries.map fun q => { q with next := 1, handed := [0] } } }) (mg.modMe (regs [(22, 1)]))
/-- The ring that the subscription names is not configured. -/
def ringless : State := onGang (fun g => { g with rings := vput g.rings 2 Ring.empty }) sw1
/-- A sweep that is done, with completion channel 5. -/
def swDone : State :=
  (swAt (fun w => { w with st := .done, subs := [], rcd := w.rcd.set 2 (5 * 256) }) sw3).modTask 0 5 fun t =>
    { t with valid := true }
theorem hyps_SweepsOpenAndTakeSubscriptions_0 : ∃ (s : State) (d : GOp) (a : Fin 48) (q : List Word),
      s.live ∧
      s.recordReady a ∧
      s.ppse = true ∧
      q = s.record a 8 ∧
      badLayer q = false ∧
      (s.me.tk[Fin.ofNat 8 (layerTkt q)]).st = .valid ∧
      (s.me.tk[Fin.ofNat 8 (layerTkp q)]).st = .valid ∧
      s.me.stores = [] ∧
      s.myGang.diverged = false ∧
      (∀ k : Fin 4, (s.sweeps[k]).open_ = true) :=
  ⟨allOpen, (some 9), 3, _, Option.isSome_iff_exists.mp (by decide +kernel), by constructor <;> decide +kernel,
    by decide +kernel, rfl, by decide +kernel⟩
theorem hyps_SweepsOpenAndTakeSubscriptions_1 : ∃ (s : State) (d : GOp) (a : Fin 48) (q : List Word) (k : Fin 4),
      s.live ∧
      s.recordReady a ∧
      s.ppse = true ∧
      q = s.record a 8 ∧
      badLayer q = false ∧
      (s.me.tk[Fin.ofNat 8 (layerTkt q)]).st = .valid ∧
      (s.me.tk[Fin.ofNat 8 (layerTkp q)]).st = .valid ∧
      s.me.stores = [] ∧
      s.myGang.diverged = false ∧
      (s.sweeps[k]).open_ = false ∧
      (∀ j : Fin 4, j < k → (s.sweeps[j]).open_ = true) :=
  ⟨sw0, (some 9), 3, _, 0, Option.isSome_iff_exists.mp (by decide +kernel), by constructor <;> decide +kernel,
    by decide +kernel, rfl, by decide +kernel⟩
theorem hyps_SweepsOpenAndTakeSubscriptions_2 : ∃ (s : State) (m : VMod) (d c : GOp) (a : VrOp) (b : Fin 48)
    (q : List Word) (ids : List Nat) (k : Fin 4),
      s.live ∧
      s.recordReady b ∧
      s.ppse = true ∧
      q = s.record b 10 ∧
      (badSub q = false ∧ s.me.v[a].tag = .n32x2 ∧ s.me.bound a.val = none) ∧
      ids = s.pageList a (subPages q) ∧
      s.subChecks q ids = none ∧
      s.me.stores = [] ∧
      s.myGang.diverged = false ∧
      s.sweep? s.myGang.p (s.rg c) false = none ∧
      (s.me.tk[subTko q]).st = .valid :=
  ⟨sw1, vm0, (some 9), (some 1), 5, 4, _, _, 0, Option.isSome_iff_exists.mp (by decide +kernel),
    by constructor <;> decide +kernel, by decide +kernel, rfl, by decide +kernel, rfl, by decide +kernel⟩
theorem hyps_SweepsOpenAndTakeSubscriptions_3 : ∃ (s : State) (m : VMod) (d c : GOp) (a : VrOp) (b : Fin 48)
    (q : List Word) (ids : List Nat) (k : Fin 4) (x : _),
      s.live ∧
      s.recordReady b ∧
      s.ppse = true ∧
      q = s.record b 10 ∧
      (badSub q = false ∧ s.me.v[a].tag = .n32x2 ∧ s.me.bound a.val = none) ∧
      ids = s.pageList a (subPages q) ∧
      s.subChecks q ids = none ∧
      s.me.stores = [] ∧
      s.myGang.diverged = false ∧
      s.sweep? s.myGang.p (s.rg c) false = some k ∧
      s.subTraps q s.sweeps[k] = some x ∧
      s.me.sup.svec ≠ 0 :=
  ⟨ringless, vm0, (some 9), (some 20), 5, 4, _, _, 0, { c := .ring, detail := 2 },
    Option.isSome_iff_exists.mp (by decide +kernel), by constructor <;> decide +kernel, by decide +kernel, rfl,
    by decide +kernel, rfl, by decide +kernel⟩
theorem hyps_SweepsOpenAndTakeSubscriptions_4 : ∃ (s : State) (m : VMod) (d c : GOp) (a : VrOp) (b : Fin 48)
    (q : List Word) (ids : List Nat) (k : Fin 4),
      s.live ∧
      s.recordReady b ∧
      s.ppse = true ∧
      q = s.record b 10 ∧
      (badSub q = false ∧ s.me.v[a].tag = .n32x2 ∧ s.me.bound a.val = none) ∧
      ids = s.pageList a (subPages q) ∧
      s.subChecks q ids = none ∧
      s.me.stores = [] ∧
      s.myGang.diverged = false ∧
      s.sweep? s.myGang.p (s.rg c) false = some k ∧
      s.subTraps q s.sweeps[k] = none ∧
      s.subStatus s.sweeps[k] ids (subQueries q) ≠ 0 :=
  ⟨(swAt (fun w => { w with st := .closedMain }) sw1), vm0, (some 9), (some 20), 5, 4, _, _, 0,
    Option.isSome_iff_exists.mp (by decide +kernel), by constructor <;> decide +kernel, by decide +kernel, rfl,
    by decide +kernel, rfl, by decide +kernel⟩
theorem hyps_SweepsOpenAndTakeSubscriptions_5 : ∃ (s : State) (m : VMod) (d c : GOp) (a : VrOp) (b : Fin 48)
    (q : List Word) (ids : List Nat) (k : Fin 4),
      s.live ∧
      s.recordReady b ∧
      s.ppse = true ∧
      q = s.record b 10 ∧
      (badSub q = false ∧ s.me.v[a].tag = .n32x2 ∧ s.me.bound a.val = none) ∧
      ids = s.pageList a (subPages q) ∧
      s.subChecks q ids = none ∧
      s.me.stores = [] ∧
      s.myGang.diverged = false ∧
      s.sweep? s.myGang.p (s.rg c) false = some k ∧
      s.subTraps q s.sweeps[k] = none ∧
      s.subStatus s.sweeps[k] ids (subQueries q) = 0 :=
  ⟨sw1, vm0, (some 9), (some 20), 5, 4, _, _, 0, Option.isSome_iff_exists.mp (by decide +kernel),
    by constructor <;> decide +kernel, by decide +kernel, rfl, by decide +kernel, rfl, by decide +kernel⟩
theorem hyps_SweepsCloseAndMergePartials_0 : ∃ (s : State) (d a : GOp) (w : Fin 9) (k : Fin 4),
      s.live ∧
      s.atS = false ∧
      s.ppse = true ∧
      s.sweep? s.myGang.p (s.rg a) false = some k :=
  ⟨sw2, (some 9), (some 20), 3, 0, Option.isSome_iff_exists.mp (by decide +kernel), by decide +kernel⟩
theorem hyps_SweepsCloseAndMergePartials_1 : ∃ (s : State) (d a : GOp) (w : Fin 9) (k : Fin 4),
      s.live ∧
      s.atS = false ∧
      s.ppse = true ∧
      s.sweep? s.myGang.p (s.rg a) true = some k :=
  ⟨sw2, (some 9), (some 20), 3, 0, Option.isSome_iff_exists.mp (by decide +kernel), by decide +kernel⟩
theorem hyps_SweepsCloseAndMergePartials_2 : ∃ (s : State) (d a : GOp) (w : Fin 9) (k : Fin 4),
      s.live ∧
      s.atS = false ∧
      s.ppse = true ∧
      s.sweep? s.myGang.p (s.rg a) true = none :=
  ⟨sw2, (some 9), none, 3, 0, Option.isSome_iff_exists.mp (by decide +kernel), by decide +kernel⟩
theorem hyps_SweepsCloseAndMergePartials_3 : ∃ (s : State) (a : GOp),
      s.live ∧
      s.atS = false ∧
      s.me.sup.svec ≠ 0 ∧
      s.ppse = true ∧
      s.sweep? s.myGang.p (s.rg a) false = none :=
  ⟨sw2, none, Option.isSome_iff_exists.mp (by decide +kernel), by decide +kernel⟩
theorem hyps_SweepsCloseAndMergePartials_4 : ∃ (s : State) (a : GOp),
      s.live ∧
      s.atS = false ∧
      s.me.sup.svec ≠ 0 ∧
      s.ppse = false :=
  ⟨(u1.modPart 0 fun q => { q with cap1 := 0 }), (some 20), Option.isSome_iff_exists.mp (by decide +kernel),
    by decide +kernel⟩
theorem hyps_SweepsCloseAndMergePartials_5 : ∃ (s : State) (m : VMod) (a : VrOp) (b c : GOp) (k : Fin 4) (x : Sub)
    (q : Query) (y : Partial),
      s.live ∧
      (s.atS = false ∧ s.ppse = true ∧ s.me.vl ≠ 0 ∧ s.me.v[a].tag = .f32x2 ∧ s.me.bound a.val = none ∧ s.subOf? (s.rg c).toNat = some (k, x) ∧ x.queries[(s.rg c).toNat % 8]? = some q ∧ x.p = s.myGang.p ∧ x.job = s.myGang.job ∧ (s.rg b).toNat < x.pages.length ∧ q.handed.contains (s.rg b).toNat = false ∧ q.written = false) ∧
      y = s.partialIn a (s.sweeps[k]).hd ∧
      s.me.stores = [] ∧
      s.myGang.diverged = false ∧
      (s.rg b).toNat = q.next ∧
      q.next + 1 < x.pages.length ∧
      q.waiting = [] ∧
      q.overflow = [] :=
  ⟨mg, vm0, 6, (some 22), (some 23), 0, (theSub mg), (queryIn mg), _, Option.isSome_iff_exists.mp (by decide +kernel),
    by decide +kernel, rfl, by decide +kernel⟩
theorem hyps_SweepsCloseAndMergePartials_6 : ∃ (s : State) (m : VMod) (a : VrOp) (b c : GOp) (k : Fin 4) (x : Sub)
    (q : Query) (y : Partial),
      s.live ∧
      (s.atS = false ∧ s.ppse = true ∧ s.me.vl ≠ 0 ∧ s.me.v[a].tag = .f32x2 ∧ s.me.bound a.val = none ∧ s.subOf? (s.rg c).toNat = some (k, x) ∧ x.queries[(s.rg c).toNat % 8]? = some q ∧ x.p = s.myGang.p ∧ x.job = s.myGang.job ∧ (s.rg b).toNat < x.pages.length ∧ q.handed.contains (s.rg b).toNat = false ∧ q.written = false) ∧
      y = s.partialIn a (s.sweeps[k]).hd ∧
      s.me.stores = [] ∧
      s.myGang.diverged = false ∧
      (s.rg b).toNat ≠ q.next ∧
      s.caskUsed < 8192 :=
  ⟨mg, vm0, 6, (some 24), (some 23), 0, (theSub mg), (queryIn mg), _, Option.isSome_iff_exists.mp (by decide +kernel),
    by decide +kernel, rfl, by decide +kernel⟩
theorem hyps_SweepEngineSteps_0 : ∃ (s : State) (k : Fin 4) (w : Sweep),
      w = s.sweeps[k] ∧
      w.st = .opened ∧
      (bits (nth w.rcd 2) 3 2 = 2 ∧ w.openedAt + bits (nth w.rcd 4) 31 0 ≤ s.dtime ∨ bits (nth w.rcd 2) 3 2 = 0 ∧ w.subs ≠ []) :=
  ⟨(swAt (fun w => { w with rcd := [0, 0, 8] }) sw1), 0, _, rfl, by decide +kernel⟩
theorem hyps_SweepsCloseAndMergePartials_7 : ∃ (s : State) (m : VMod) (a : VrOp) (b c : GOp) (k : Fin 4) (x : Sub)
    (q : Query) (y : Partial) (z : Partial) (bs : List Byte) (pin : Pin) (r : Barrier),
      s.live ∧
      (s.atS = false ∧ s.ppse = true ∧ s.me.vl ≠ 0 ∧ s.me.v[a].tag = .f32x2 ∧ s.me.bound a.val = none ∧ s.subOf? (s.rg c).toNat = some (k, x) ∧ x.queries[(s.rg c).toNat % 8]? = some q ∧ x.p = s.myGang.p ∧ x.job = s.myGang.job ∧ (s.rg b).toNat < x.pages.length ∧ q.handed.contains (s.rg b).toNat = false ∧ q.written = false) ∧
      y = s.partialIn a (s.sweeps[k]).hd ∧
      (s.me.stores = [] ∧ s.myGang.diverged = false ∧ (s.rg b).toNat = q.next ∧ q.next + 1 = x.pages.length ∧ q.waiting = [] ∧ q.overflow = []) ∧
      z = (match q.head with | some h => h.merge y | none => y) ∧
      bs = (z.output.map fun v => bytesOfNat 2 v.toNat).flatten ∧
      bs ≠ [] ∧
      s.memWf ∧
      pin.kind ≠ .io ∧
      (∀ i, i < bs.length → findPin x.pins (q.out + i) = some pin ∧ ∀ n, n ≤ 128 → s.writeRefused (pin.loc (q.out + i)) n = false) ∧
      (s.gang? x.gang).isSome ∧
      r = (s.gang x.gang).bars[x.bar] ∧
      r.init = true ∧
      (bs.length : Int) ≤ r.pend ∧
      r.pend < 2 ^ 55 :=
  ⟨mgLast, vm0, 6, (some 22), (some 23), 0, (theSub mgLast), (queryIn mgLast), _, _, _, page, _,
    Option.isSome_iff_exists.mp (by decide +kernel), by decide +kernel, rfl, by decide +kernel, rfl, rfl,
    by decide +kernel, by unfold State.memWf; decide +kernel, by decide +kernel,
    (fun i hi => ⟨below (p := fun i => findPin (theSub mgLast).pins ((queryIn mgLast).out + i) = some page) (by decide +kernel) i hi, fun _ _ => by simp [State.writeRefused, State.groupFailed, Pin.loc, page, (by decide +kernel : mgLast.failedCh = 0)]⟩), by decide +kernel, rfl, by decide +kernel⟩
theorem hyps_SweepEngineSteps_1 : ∃ (s : State) (k : Fin 4) (w : Sweep) (id e : Nat),
      w = s.sweeps[k] ∧
      (w.nextPage = some id ∧ w.held.length < 4) ∧
      e = bits (nth w.rcd 0) 55 0 + 8 * id :=
  ⟨sw2, 0, _, (((sw2.sweeps[(0 : Fin 4)]).nextPage).getD 0), _, rfl, by decide +kernel, rfl⟩
theorem hyps_SweepEngineSteps_2 : ∃ (s : State) (k : Fin 4) (w : Sweep) (h : HeldPage) (b : Sub) (q : Ring)
    (bs : List Byte) (at_ : Nat),
      w = s.sweeps[k] ∧
      (w.held.find? (fun x => x.todo.contains b.idx) = some h ∧ w.live.find? (fun x => x.idx == b.idx) = some b) ∧
      q = s.ring b.gang b.ring ∧
      (q.cfg = true ∧ q.full = false ∧ (s.gang? b.gang).isSome ∧ Mem.wf (s.gang b.gang).sp = true) ∧
      bs = stageHeader b h ++ h.keys ++ h.values ∧
      at_ = q.base + (q.stageNo q.iss).val * q.size :=
  ⟨sw3, 0, _, theHeld, (theSub sw3), _, _, _, rfl, by decide +kernel, rfl, by decide +kernel, rfl, rfl⟩
theorem hyps_SweepEngineSteps_3 : ∃ (s : State) (k : Fin 4) (w : Sweep),
      w = s.sweeps[k] ∧
      w.st = .done ∧
      w.live = [] ∧
      bits (nth w.rcd 2) 15 8 = 255 :=
  ⟨(swAt (fun w => { w with st := .done, subs := [] }) sw3), 0, _, rfl, by decide +kernel⟩
theorem hyps_SweepEngineSteps_4 : ∃ (s : State) (k : Fin 4) (w : Sweep) (c : Fin 256),
      w = s.sweeps[k] ∧
      (w.st = .done ∧ w.live = [] ∧ bits (nth w.rcd 2) 15 8 = c.val ∧ c.val ≠ 255) ∧
      Postable s w.p c :=
  ⟨swDone, 0, _, 5, rfl, by decide +kernel, by constructor <;> decide +kernel⟩

/-! ### Hypotheses met: Copies -/

/-- A copy record of three dimensions of 4-byte elements converted to 2 bytes. -/
def copyRecord (ssp dsp : Bool) (a b cmpl : Nat) : VReg :=
  recReg ([a, b, 2 + 1 * 16 + (if ssp then 256 else 2 * 512) + (if dsp then 4096 else 2 * 8192) + cmpl * 65536, 0, 0, 0, 0, 0] ++
    [3 * 2 ^ 48 + 8, 4, 2 * 2 ^ 48 + 64, 32, 2 ^ 48, 0, 2 ^ 48, 0, 2 ^ 48, 0, 2 ^ 48, 0])
def copying (v : VReg) : State := sp1.modMe fun h => vregs [(3, v)] { h with tk := vput h.tk 2 { tok with len := 0x4000 }, vl := 20 }
def toSp : State := after (.tcopy 3) (copying (copyRecord false true 0x1000 0x400 2))
def toMem : State := after (.tcopy 3) (copying (copyRecord true false 0x1000 0x1800 2))
def theCopy (s : State) : Copy := match s.copies with | c :: _ => c | [] => noCopy
/-- The source is poisoned. -/
def badSource : State := { toSp with devPoison := [0x1000 / 128] }
/-- The last element has landed, and the copy posts on channel 0, which is valid. -/
def landedPost : State :=
  ({ toSp with copies := toSp.copies.map fun c => { c with pos := c.total } } : State).modTask 0 0 fun t => { t with valid := true }
/-- The last element has landed. -/
def landed : State := { toSp with copies := toSp.copies.map fun c => { c with pos := c.total, rcd := c.rcd.set 2 0 } }
theorem hyps_CopiesMoveTheirElements_0 : ∃ (s : State) (a : Fin 48) (q : List Word),
      s.live ∧
      s.recordReady a ∧
      q = s.record a 20 ∧
      badCopy q = false ∧
      s.copyChecks q = none ∧
      s.copyStall q = none ∧
      s.myGang.diverged = false ∧
      s.me.stores = [] :=
  ⟨(copying (copyRecord false true 0x1000 0x400 2)), 3, _, Option.isSome_iff_exists.mp (by decide +kernel),
    by constructor <;> decide +kernel, rfl, by decide +kernel⟩
theorem hyps_CopiesMoveTheirElements_1 : ∃ (s : State) (c : Copy) (v : Nat) (bs : List Byte) (mem : Loc → Byte)
    (spm : Nat → Byte),
      c ∈ s.copies ∧
      (∀ e ∈ s.copies, e.id = c.id → e = c) ∧
      ((s.gang? c.gang).isSome ∧ c.cancelled = false ∧ c.pos < c.total) ∧
      s.memWf ∧
      s.spWf ∧
      s.expects c ∧
      c.poisoned = false ∧
      CopyIn s c v ∧
      bs = bytesOfNat (copyDsz c.rcd) (copyConvert c.rcd v) ∧
      CopyOut s c bs mem spm :=
  ⟨toSp, (theCopy toSp), _, _, _, _, by decide +kernel,
    (by decide +kernel : ∀ e ∈ (toSp).copies, e.id = (theCopy toSp).id → e = theCopy toSp), by decide +kernel,
    by unfold State.memWf; decide +kernel, by unfold State.spWf; decide +kernel,
    by unfold State.expects; decide +kernel, by decide +kernel,
    .page _ page (by decide +kernel) rfl (by decide +kernel) (by decide +kernel) (by refine ⟨?_, ?_, ?_, ?_⟩ <;> decide +kernel), rfl, .sp (by decide +kernel) (by decide +kernel)⟩
theorem hyps_CopiesMoveTheirElements_2 : ∃ (s : State) (c : Copy),
      c ∈ s.copies ∧
      (∀ e ∈ s.copies, e.id = c.id → e = c) ∧
      ((s.gang? c.gang).isSome ∧ c.cancelled = false ∧ c.pos < c.total) ∧
      s.memWf ∧
      s.spWf ∧
      s.expects c ∧
      (c.poisoned = true ∨ CopyBad s c) :=
  ⟨badSource, (theCopy badSource), by decide +kernel,
    (by decide +kernel : ∀ e ∈ (badSource).copies, e.id = (theCopy badSource).id → e = theCopy badSource),
    by decide +kernel, by unfold State.memWf; decide +kernel, by unfold State.spWf; decide +kernel,
    by unfold State.expects; decide +kernel,
    .inr (.page _ page (by decide +kernel) rfl (by decide +kernel) (by decide +kernel) (by decide +kernel) (by decide +kernel))⟩
theorem hyps_CopiesMoveTheirElements_3 : ∃ (s : State) (c : Copy),
      s.copies.find? (fun x => x.id == c.id) = some c ∧
      (c.cancelled = true ∨ (c.pos = c.total ∧ copyCmpl c.rcd ≠ 2)) :=
  ⟨landed, (theCopy landed), by decide +kernel, .inr (by decide +kernel)⟩
theorem hyps_CopiesMoveTheirElements_4 : ∃ (s : State) (c : Copy) (n : Fin 256),
      (s.copies.find? (fun x => x.id == c.id) = some c ∧ c.cancelled = false ∧ c.pos = c.total ∧ copyCmpl c.rcd = 2 ∧ copyCtgt c.rcd = n.val) ∧
      Postable s c.p n :=
  ⟨landedPost, (theCopy landedPost), 0, by decide +kernel, by constructor <;> decide +kernel⟩
theorem hyps_CopiesMoveTheirElements_5 : ∃ (s : State) (c : Copy),
      s.copies.find? (fun x => x.id == c.id) = some c ∧
      c.cancelled = false ∧
      c.pos < c.total :=
  ⟨toSp, (theCopy toSp), by decide +kernel⟩

/-! ### Hypotheses met: Coding and fronthaul -/

/-- A coding record (LDPC encode), a transmit record, and a state that may submit them. -/
def codeRecord : List Nat :=
  [0x1000, 0x2000, 0, 0x2040, 0 + 2 * 2 + 1 * 2 ^ 10 + 2 * 2 ^ 20, 40 + 88 * 2 ^ 24, 2 + 2 * 16 + 2 * 4096, 1, 0, 0, 0, 0, 0, 0, 0, 0]
def txRecord : List Nat := [0x1000, 10, 3 + 2 * 8 + 1 * 2 ^ 17 + 5 * 2 ^ 48, 0x7FFFFFFF00000000, 0, 0, 255, 0]
def submitter (r : List Nat) : State :=
  (u1.modMe fun h => vregs [(3, recReg r)] { h with tk := vput h.tk 2 { tok with len := 0x4000 }, vl := 20 }).modPart 0
    fun q => { q with cap1 := 0xFF01FFFFFFFFFFFF }
/-- The same in a partition without an engine; and a record whose input lies beyond its token. -/
def noEngine (r : List Nat) : State := (submitter r).modPart 0 fun q => { q with cap1 := 0 }
def shortRecord : List Nat := 0x8000 :: codeRecord.tail
def submitted : State := after (.csubmit 0 3) (submitter codeRecord)
def theCoding : Coding :=
  { ((submitted.codings.head?).getD ⟨0, 0, 0, 0, 0, [], false, false, false, [], [], [], []⟩) with started := true }
def coding : State := { submitted with codings := [theCoding] }
def sent : State := after (.fhtx 3) (submitter txRecord)
def theFlow : Flow := { q0 := 0xABCD, q1 := 0x1234, q2 := 5 * 2 ^ 48 + 2 ^ 17, seq := 9 }
/-- The packet waits at device time `d`, with the port's link as given. -/
def sending (d : Nat) (up : Bool) : State :=
  { (sent.modPart 0 fun q => { q with st := .run }) with
    dtime := d,
    ports := vmod sent.ports 3 fun q => { q with mtu := 9000, rate := 1, link := up, flows := vput q.flows 5 theFlow } }
def theTx : Tx := (sent.txs.head?).getD ⟨0, 0, 0, 0, [], []⟩
def aFrame : Sys2Proof.Frame :=
  { ethertype := 0x88F7, uplane := false, eaxc := 0, frameId := 0, subframe := 0, slot := 0, symbol := 0, sections := [],
    cutAt := none, trailing := false, raw := (List.range 100).map fun i => BitVec.ofNat 8 i }
/-- Port 3 with host queues, the receive queue's indexes as given, and a frame of 60 bytes in the transmit queue. -/
def queues (t h : Nat) : State :=
  { (u1.modPart 0 fun q => { q with cap1 := 0xFF01FFFFFFFFFFFF, st := .run }) with
    ports := vmod u1.ports 3 fun q =>
      { q with mtu := 9000, rate := 1, link := true, rxb := 8, rxn := 2, rxt := BitVec.ofNat 32 t, rxh := BitVec.ofNat 32 h,
               txb := 1, txn := 2, txt := 1, txh := 0, hqen := true }
    dev := Mem.write u1.dev 0x1000 (bytesOfNat 8 60) }
/-- A section of one block, a frame that carries it, and a placement entry for it: POST and the job as given. -/
def aSection : FhSection :=
  { startPrb := 0, numPrb := 1, bfp := none, hdr := none, unsupported := false, data := (List.range 48).map fun i => BitVec.ofNat 8 i }
def secFrame (x : FhSection) : Sys2Proof.Frame :=
  { ethertype := 0xAEFE, uplane := true, eaxc := 7, frameId := 0, subframe := 0, slot := 0, symbol := 0, sections := [x],
    cutAt := none, trailing := false, raw := [] }
def secEntry (post job : Nat) : Place :=
  { q0 := word (7 * 2 ^ 48 + 2 ^ 34 + 2 ^ 15 + 15 * 2 ^ 11 + post * 256 + 5), q1 := word (2 ^ 40 + job), q2 := word (48 * 2 ^ 16),
    q3 := 0x100000, posted := [] }
/-- Port 3 with the entry, and a ring for its sections; channel 5 is valid. -/
def placing (e : Place) : State :=
  (onGang (fun g => { g with rings := vput g.rings 1 { Ring.empty with cfg := true, base := 0x400, size := 512, n := 3, c := 2, kind := 2 } })
    { u1.modPart 0 fun q => { q with cap1 := 0xFF01FFFFFFFFFFFF, st := .run } with
      ports := vmod u1.ports 3 fun q => { q with mtu := 9000, rate := 1, link := true, places := vput q.places 0 e } }).modTask 0 5
    fun t => { t with valid := true }
def wasPosted : Place := { secEntry 1 0 with posted := [(placing (secEntry 1 0)).key (secEntry 1 0) (secFrame aSection)] }
theorem places_none {v : Vector Place 1024} {f : Sys2Proof.Frame} (h : (v.toList.all fun e => !e.matches_ f) = true) (i : Fin 1024) :
    (v[i]).matches_ f = false := by
  have := List.all_eq_true.mp h v[i] (by simp)
  simpa using this
theorem only_gang {s : State} (h : s.gangs.length = 1) : s.gangs = [theGang s] := by
  match hs : s.gangs, h with
  | [g], _ => simp [theGang, hs]
theorem gang_is {s : State} (h : s.gangs.length = 1) : s.gang? (theGang s).uid = some (theGang s) := by
  simp [State.gang?, only_gang h]
theorem target_is {s : State} {p : Fin 3} {e : Place} (h : s.gangs.length = 1)
    (hg : ((theGang s).p == p && (theGang s).phase != .evicted && (((theGang s).core == e.core && (theGang s).slots.contains e.slot) ||
      ((theGang s).core2 == some e.core && (theGang s).slots2.contains e.slot))) = true)
    (hr : ((e.any || (theGang s).job == e.job) && ((theGang s).rings[e.ring]).cfg && ((theGang s).rings[e.ring]).kind == 2 &&
      decide (e.off + e.bytes ≤ ((theGang s).rings[e.ring]).size)) = true) : s.postTarget p e = some (theGang s) := by
  unfold State.postTarget State.slotGang
  rw [only_gang h]
  simp only [List.find?_cons, hg, Option.filter_some, hr, if_true]
theorem of_nil {α : Type} {P : α → Prop} {l : List α} (h : l.isEmpty = true) : ∀ c ∈ l, P c := by
  intro c hc
  rw [List.isEmpty_iff.mp h] at hc
  cases hc
theorem of_none {α : Type} {P : α → Prop} {o : Option α} (h : o.isNone = true) : ∀ l, o = some l → P l := by
  intro l hl
  subst hl
  cases h
theorem hyps_CodingAndFronthaulDeliver_0 : ∃ (s : State) (a : Fin 48) (cls : Fin 3) (q : List Word),
      s.live ∧
      s.recordReady a ∧
      (s.myGang.diverged = false ∧ s.me.stores = []) ∧
      q = s.record a 16 ∧
      badCodeHead q = false ∧
      badParam cls q = false ∧
      s.codeEngines cls ≠ 0 ∧
      s.codeChecks cls q = none ∧
      (s.codings.filter fun c => c.p == s.myGang.p && c.cls == cls && !c.started).length < 32 :=
  ⟨(submitter codeRecord), 3, 0, _, Option.isSome_iff_exists.mp (by decide +kernel),
    by constructor <;> decide +kernel, by decide +kernel, rfl, by decide +kernel⟩
theorem hyps_CodingAndFronthaulDeliver_1 : ∃ (s : State) (a : Fin 48) (cls : Fin 3) (q : List Word),
      s.live ∧
      s.recordReady a ∧
      (s.myGang.diverged = false ∧ s.me.stores = []) ∧
      q = s.record a 16 ∧
      badCodeHead q = false ∧
      badParam cls q = false ∧
      s.me.sup.svec ≠ 0 ∧
      s.codeEngines cls = 0 :=
  ⟨(noEngine codeRecord), 3, 0, _, Option.isSome_iff_exists.mp (by decide +kernel), by constructor <;> decide +kernel,
    by decide +kernel, rfl, by decide +kernel⟩
theorem hyps_CodingAndFronthaulDeliver_2 : ∃ (s : State) (a : Fin 48) (cls : Fin 3) (q : List Word) (x : _),
      s.live ∧
      s.recordReady a ∧
      (s.myGang.diverged = false ∧ s.me.stores = []) ∧
      q = s.record a 16 ∧
      badCodeHead q = false ∧
      badParam cls q = false ∧
      s.me.sup.svec ≠ 0 ∧
      s.codeEngines cls ≠ 0 ∧
      s.codeChecks cls q = some x :=
  ⟨(submitter shortRecord), 3, 0, _, { c := .tkrange, detail := 2 }, Option.isSome_iff_exists.mp (by decide +kernel),
    by constructor <;> decide +kernel, by decide +kernel, rfl, by decide +kernel⟩
theorem hyps_CodingAndFronthaulDeliver_3 : ∃ (s : State) (a : Fin 48) (q : List Word),
      s.live ∧
      s.recordReady a ∧
      (s.myGang.diverged = false ∧ s.me.stores = []) ∧
      q = s.record a 8 ∧
      badTx q = false ∧
      bit (s.prt s.myGang.p).cap1 (40 + (txPort q).val) = true ∧
      s.txChecks q = none ∧
      (s.txs.filter fun t => txPort t.rcd == txPort q).length < 256 :=
  ⟨(submitter txRecord), 3, _, Option.isSome_iff_exists.mp (by decide +kernel), by constructor <;> decide +kernel,
    by decide +kernel, rfl, by decide +kernel⟩
theorem hyps_CodingAndFronthaulDeliver_4 : ∃ (s : State) (c : Coding) (o st pin : Pin) (r : CodeRes)
    (inp harq : List Byte),
      s.memWf ∧
      s.codings = [c] ∧
      (c.started = true ∧ c.stale = false ∧ 0 < codeIn c.cls c.rcd ∧ codeCk c.rcd = 1 ∧ usesHarq c.cls c.rcd = false ∧ c.inPins = [pin] ∧ pin.va ≤ (nth c.rcd 0).toNat ∧ (nth c.rcd 0).toNat + codeIn c.cls c.rcd ≤ pin.va + pin.size ∧ pin.kind = .dev) ∧
      (∀ k, k < codeIn c.cls c.rcd → s.engineReads pin ((nth c.rcd 0).toNat + k) 1) ∧
      inp = (List.range (codeIn c.cls c.rcd)).map (fun k => s.byteAt (pin.loc ((nth c.rcd 0).toNat + k))) ∧
      harq = [] ∧
      (c.outPins = [o] ∧ o.kind = .dev ∧ o.va ≤ (nth c.rcd 1).toNat ∧ (nth c.rcd 1).toNat + codeOut c.cls c.rcd ≤ o.va + o.size ∧ c.statPins = [st] ∧ st.kind = .dev ∧ st.va ≤ (nth c.rcd 3).toNat ∧ (nth c.rcd 3).toNat + 32 ≤ st.va + st.size ∧ (nth c.rcd 3).toNat % 32 = 0) ∧
      (∀ a, s.groupFailed a = false) ∧
      r = codeResult c.cls c.rcd s.freeCtr inp harq ∧
      r.out.length = codeOut c.cls c.rcd :=
  ⟨coding, theCoding, page, page, page, _, _, _, by unfold State.memWf; decide +kernel, rfl, by decide +kernel,
    by unfold State.engineReads; decide +kernel, rfl, rfl, by decide +kernel,
    (fun a => no_group_failed (by decide +kernel) a), rfl, by decide +kernel⟩
theorem hyps_CodingAndFronthaulDeliver_5 : ∃ (s : State) (x : Tx) (n : Fin 8) (f : Flow),
      s.txs = [x] ∧
      n = txPort x.rcd ∧
      f = (s.ports[n]).flows[Fin.ofNat 512 (txEaxc x.rcd)] ∧
      (s.dtime : Int) < (s.txWindow x).1 :=
  ⟨(sending 1000 true), theTx, _, _, by decide +kernel, rfl, rfl, by decide +kernel⟩
theorem hyps_CodingAndFronthaulDeliver_6 : ∃ (s : State) (x : Tx) (n : Fin 8) (f : Flow),
      s.txs = [x] ∧
      n = txPort x.rcd ∧
      f = (s.ports[n]).flows[Fin.ofNat 512 (txEaxc x.rcd)] ∧
      (s.txWindow x).1 ≤ s.dtime ∧
      s.portUp n = true ∧
      bit f.q2 17 = true ∧
      bits f.q2 63 48 = txEaxc x.rcd ∧
      bits (nth x.rcd 6) 7 0 = 255 ∧
      (s.txWindow x).2 < s.dtime :=
  ⟨(sending 8589934592 true), theTx, _, _, by decide +kernel, rfl, rfl, by decide +kernel⟩
theorem hyps_CodingAndFronthaulDeliver_7
    (small : Config.packetOverhead (txMt theTx.rcd) (bit theFlow.q2 16) (bit (nth theTx.rcd 2) 8) ≤ 1000) : ∃
    (s : State) (x : Tx) (n : Fin 8) (f : Flow) (bs : _),
      s.txs = [x] ∧
      n = txPort x.rcd ∧
      (f = (s.ports[n]).flows[Fin.ofNat 512 (txEaxc x.rcd)] ∧ (s.txWindow x).1 ≤ s.dtime ∧ s.portUp n = true ∧ bit f.q2 17 = true ∧ bits f.q2 63 48 = txEaxc x.rcd ∧ bits (nth x.rcd 6) 7 0 = 255 ∧ (s.dtime : Int) ≤ (s.txWindow x).2 ∧ (s.txData x).1 = (bs, false)) ∧
      (txPayload x.rcd bs).length + Config.packetOverhead (txMt x.rcd) (bit f.q2 16) (bit (nth x.rcd 2) 8) ≤
      (s.ports[n]).mtu.toNat :=
  ⟨(sending 4000000000 true), theTx, _, theFlow, (((sending 4000000000 true).txData theTx).1.1), by decide +kernel,
    rfl, by decide +kernel, (Nat.le_trans (Nat.add_le_add_left small _) (by decide +kernel))⟩
theorem hyps_CodingAndFronthaulDeliver_8 : ∃ (s : State) (x : Tx) (n : Fin 8) (f : Flow),
      s.txs = [x] ∧
      n = txPort x.rcd ∧
      f = (s.ports[n]).flows[Fin.ofNat 512 (txEaxc x.rcd)] ∧
      (s.txWindow x).1 ≤ s.dtime ∧
      s.portUp n = false ∧
      bits (nth x.rcd 6) 7 0 = 255 :=
  ⟨(sending 4000000000 false), theTx, _, _, by decide +kernel, rfl, rfl, by decide +kernel⟩
theorem hyps_CodingAndFronthaulDeliver_9 : ∃ (s : State) (p : Fin 3) (n : Fin 8) (q : Port) (f : Sys2Proof.Frame),
      (s.portOwner n = some p ∧ s.portUp n = true) ∧
      q = s.ports[n] ∧
      s.memWf ∧
      (f.ethertype = 0x88F7 ∧ f.raw.length ≤ 2032 ∧ q.rxn ≠ 0) ∧
      (∀ a, s.groupFailed a = false) ∧
      (q.rxt - q.rxh).toNat < 2 ^ q.rxn.toNat :=
  ⟨(queues 0 0), 0, 3, _, aFrame, by decide +kernel, rfl, by unfold State.memWf; decide +kernel, by decide +kernel,
    (fun a => no_group_failed (by decide +kernel) a), by decide +kernel⟩
theorem hyps_CodingAndFronthaulDeliver_10 : ∃ (s : State) (p : Fin 3) (n : Fin 8) (q : Port) (f : Sys2Proof.Frame),
      (s.portOwner n = some p ∧ s.portUp n = true) ∧
      q = s.ports[n] ∧
      s.memWf ∧
      (f.ethertype = 0x88F7 ∧ f.raw.length ≤ 2032 ∧ q.rxn ≠ 0) ∧
      (∀ a, s.groupFailed a = false) ∧
      2 ^ q.rxn.toNat ≤ (q.rxt - q.rxh).toNat :=
  ⟨(queues 4 0), 0, 3, _, aFrame, by decide +kernel, rfl, by unfold State.memWf; decide +kernel, by decide +kernel,
    (fun a => no_group_failed (by decide +kernel) a), by decide +kernel⟩
theorem hyps_CodingAndFronthaulDeliver_11 : ∃ (s : State) (p : Fin 3) (n : Fin 8) (q : Port) (a : _) (q0 : _) (m : _),
      (s.portOwner n = some p ∧ s.portUp n = true) ∧
      q = s.ports[n] ∧
      s.memWf ∧
      q.txh ≠ q.txt ∧
      a = q.txb.toNat * 4096 + 2048 * (q.txh.toNat % 2 ^ q.txn.toNat) ∧
      q0 = word (numAt s.byteAt { kind := .dev, pa := a } 8) ∧
      m = bits q0 13 0 ∧
      s.readPoison { kind := .dev, pa := a } (16 + m) = false ∧
      s.groupFailed (a + 8) = false ∧
      bit q0 15 = false ∧
      0 < m ∧
      m ≤ 2032 ∧
      m ≤ q.mtu.toNat :=
  ⟨(queues 0 0), 0, 3, _, _, _, _, by decide +kernel, rfl, by unfold State.memWf; decide +kernel, by decide +kernel,
    rfl, rfl, rfl, by decide +kernel⟩
theorem hyps_CodingAndFronthaulDeliver_12 : ∃ (s : State) (p : Fin 3) (n : Fin 8) (f : Sys2Proof.Frame)
    (x : FhSection),
      s.portOwner n = some p ∧
      s.portUp n = true ∧
      f.ethertype = 0xAEFE ∧
      f.uplane = true ∧
      f.sections = [x] ∧
      f.trailing = false ∧
      f.cutAt = some 0 :=
  ⟨(placing (secEntry 0 1)), 0, 3, { secFrame aSection with cutAt := some 0 }, aSection, by decide +kernel⟩
theorem hyps_CodingAndFronthaulDeliver_13 : ∃ (s : State) (p : Fin 3) (n : Fin 8) (f : Sys2Proof.Frame)
    (x : FhSection),
      (s.portOwner n = some p ∧ s.portUp n = true ∧ f.ethertype = 0xAEFE ∧ f.uplane = true ∧ f.sections = [x] ∧ f.trailing = false ∧ f.cutAt = none) ∧
      (∀ i : Fin 1024, ((s.ports[n]).places[i]).matches_ f = false) ∧
      (s.ports[n]).hqen = false :=
  ⟨(placing (secEntry 0 1)), 0, 3, { secFrame aSection with eaxc := 8 }, aSection, by decide +kernel,
    places_none (by decide +kernel), by decide +kernel⟩
theorem hyps_CodingAndFronthaulDeliver_14 : ∃ (s : State) (p : Fin 3) (n : Fin 8) (f : Sys2Proof.Frame)
    (x : FhSection) (i : Fin 1024) (e : Place) (who : Nat),
      (s.portOwner n = some p ∧ s.portUp n = true) ∧
      SectionFor s n f x i ∧
      e = (s.ports[n]).places[i] ∧
      who = n.val * 1024 + i.val ∧
      x.unsupported = true :=
  ⟨(placing (secEntry 0 1)), 0, 3, (secFrame { aSection with unsupported := true }),
    { aSection with unsupported := true }, 0, _, _, by decide +kernel, by constructor <;> decide +kernel, rfl, rfl,
    by decide +kernel⟩
theorem hyps_CodingAndFronthaulDeliver_15 : ∃ (s : State) (p : Fin 3) (n : Fin 8) (f : Sys2Proof.Frame)
    (x : FhSection) (i : Fin 1024) (e : Place) (who : Nat),
      (s.portOwner n = some p ∧ s.portUp n = true) ∧
      SectionFor s n f x i ∧
      e = (s.ports[n]).places[i] ∧
      who = n.val * 1024 + i.val ∧
      x.unsupported = false ∧
      e.mismatch x = true :=
  ⟨(placing (secEntry 0 1)), 0, 3, (secFrame { aSection with startPrb := 1 }), { aSection with startPrb := 1 }, 0, _,
    _, by decide +kernel, by constructor <;> decide +kernel, rfl, rfl, by decide +kernel⟩
theorem hyps_CodingAndFronthaulDeliver_16 : ∃ (s : State) (p : Fin 3) (n : Fin 8) (f : Sys2Proof.Frame)
    (x : FhSection) (i : Fin 1024) (e : Place) (who : Nat) (k : _),
      (s.portOwner n = some p ∧ s.portUp n = true) ∧
      SectionFor s n f x i ∧
      e = (s.ports[n]).places[i] ∧
      who = n.val * 1024 + i.val ∧
      (x.unsupported = false ∧ e.mismatch x = false ∧ (e.any = true ∨ e.job ≠ 0) ∧ bits e.q0 9 8 ≠ 1) ∧
      SectionDrop s p e f who k :=
  ⟨(placing (secEntry 0 99)), 0, 3, (secFrame aSection), aSection, 0, _, _, _, by decide +kernel,
    by constructor <;> decide +kernel, rfl, rfl, by decide +kernel, .noTarget (by decide +kernel)⟩
theorem hyps_CodingAndFronthaulDeliver_17 : ∃ (s : State) (p : Fin 3) (n : Fin 8) (f : Sys2Proof.Frame)
    (x : FhSection) (i : Fin 1024) (e : Place) (who : Nat) (g : _) (r : _) (c : _),
      (s.portOwner n = some p ∧ s.portUp n = true) ∧
      SectionFor s n f x i ∧
      e = (s.ports[n]).places[i] ∧
      who = n.val * 1024 + i.val ∧
      (x.unsupported = false ∧ e.mismatch x = false ∧ (e.any = true ∨ e.job ≠ 0) ∧ bits e.q0 9 8 ≠ 1) ∧
      s.postTarget p e = some g ∧
      s.gang? g.uid = some g ∧
      Mem.wf g.sp = true ∧
      SectionStage s e f who g r c :=
  ⟨(placing (secEntry 0 1)), 0, 3, (secFrame aSection), aSection, 0, _, _, (theGang (placing (secEntry 0 1))), _, _,
    by decide +kernel, by constructor <;> decide +kernel, rfl, rfl, by decide +kernel,
    target_is (by decide +kernel) (by decide +kernel) (by decide +kernel), gang_is (by decide +kernel),
    by decide +kernel, .new (of_nil (by decide +kernel)) (of_none (by decide +kernel)) (by decide +kernel)⟩
theorem hyps_CodingAndFronthaulDeliver_18 : ∃ (s : State) (p : Fin 3) (n : Fin 8) (f : Sys2Proof.Frame)
    (x : FhSection) (i : Fin 1024) (e : Place) (who : Nat) (ch : Fin 256),
      (s.portOwner n = some p ∧ s.portUp n = true) ∧
      SectionFor s n f x i ∧
      e = (s.ports[n]).places[i] ∧
      who = n.val * 1024 + i.val ∧
      x.unsupported = false ∧
      e.mismatch x = false ∧
      bits e.q0 9 8 = 1 ∧
      bits e.q0 7 0 = ch.val ∧
      e.any = false ∧
      e.job = 0 ∧
      s.key e f ∈ e.posted :=
  ⟨(placing wasPosted), 0, 3, (secFrame aSection), aSection, 0, _, _, 5, by decide +kernel,
    by constructor <;> decide +kernel, rfl, rfl, by decide +kernel⟩
theorem hyps_CodingAndFronthaulDeliver_19 : ∃ (s : State) (p : Fin 3) (n : Fin 8) (f : Sys2Proof.Frame)
    (x : FhSection) (i : Fin 1024) (e : Place) (who : Nat) (ch : Fin 256),
      (s.portOwner n = some p ∧ s.portUp n = true) ∧
      SectionFor s n f x i ∧
      e = (s.ports[n]).places[i] ∧
      who = n.val * 1024 + i.val ∧
      (x.unsupported = false ∧ e.mismatch x = false ∧ bits e.q0 9 8 = 1 ∧ bits e.q0 7 0 = ch.val ∧ e.any = false ∧ e.job = 0 ∧ s.key e f ∉ e.posted) ∧
      Postable s p ch :=
  ⟨(placing (secEntry 1 0)), 0, 3, (secFrame aSection), aSection, 0, _, _, 5, by decide +kernel,
    by constructor <;> decide +kernel, rfl, rfl, by decide +kernel, by constructor <;> decide +kernel⟩

/-! ### Hypotheses met: Device registers -/

/-- A partition in RUN that owns the time block and the ports; the same with no job. -/
def d0 : State :=
  { u1 with parts := vmod u1.parts 0 fun p => { p with town := true, cap1 := 0xFFFFFFFFFFFFFFFF },
            ports := u1.ports.map fun q => { q with rate := 1 } }
def dj : State := { d0 with jobs := [], gangs := [] }
/-- Partition 1 is not in RUN. -/
def d1 : State := { d0 with parts := vmod d0.parts 1 fun p => { p with st := .fault } }
theorem hyps_DeviceWrite_launchTail : ∃ t, DeviceWrite d0 (.launchTailWrite 0 3 64) t :=
  ⟨_, .launchTail 0 3 64 (by decide +kernel) (by decide +kernel)⟩
theorem hyps_DeviceWrite_launchTailFar : ∃ t, DeviceWrite d0 (.launchTailWrite 0 3 65) t :=
  ⟨_, .launchTailFar 0 3 65 (by decide +kernel) (by decide +kernel)⟩
theorem hyps_DeviceWrite_root : ∃ t, DeviceWrite dj (.functionConfigWrite 0 3 0x1100 0xFFFFFFFFFFFFFFFF) t :=
  ⟨_, .root 0 3 _ (by decide +kernel) (by unfold State.idleFunc; decide +kernel)⟩
theorem hyps_DeviceWrite_svec : ∃ t, DeviceWrite dj (.functionConfigWrite 0 3 0x1108 0xFFFFFFFFFFFFFFFF) t :=
  ⟨_, .svec 0 3 _ (by decide +kernel) (by unfold State.idleFunc; decide +kernel)⟩
theorem hyps_DeviceWrite_configBusy : ∃ t, DeviceWrite d0 (.functionConfigWrite 0 0 0x1100 3) t :=
  ⟨_, .configBusy 0 0 _ 3 (by decide +kernel) (.inl rfl) (by unfold State.idleFunc; decide +kernel)⟩
theorem hyps_DeviceWrite_arena : ∃ t, DeviceWrite dj (.arenaGrant 0 3 2 0xFFFFFFFFFFFFFFFF) t :=
  ⟨_, .arena 0 3 2 _ (by decide +kernel) (by unfold State.idleFunc; decide +kernel)⟩
theorem hyps_DeviceWrite_arenaBusy : ∃ t, DeviceWrite d0 (.arenaGrant 0 0 2 0xFFFFFFFFFFFFFFFF) t :=
  ⟨_, .arenaBusy 0 0 2 _ (by decide +kernel) (by unfold State.idleFunc; decide +kernel)⟩
theorem hyps_DeviceWrite_hostLinkLeaves31 : ∃ t, DeviceWrite ({ d0 with cxlv := 3, snoop := [5] }) (.hostLinkTrain 6 16 2 true) t :=
  ⟨_, .hostLink 6 16 2 true (.inr (.inr rfl)) (by decide +kernel) (by decide +kernel)⟩
theorem hyps_DeviceWrite_tset : ∃ t, DeviceWrite dj (.tset 0 0xFFFFFFFFFFFFFFFF) t :=
  ⟨_, .tset 0 _ ⟨by decide +kernel, by decide +kernel⟩ (by decide +kernel) (by decide +kernel)⟩
theorem hyps_DeviceWrite_tsetRefused : ∃ t, DeviceWrite d0 (.tset 0 5) t :=
  ⟨_, .tsetRefused 0 5 ⟨by decide +kernel, by decide +kernel⟩ (.inl (by decide +kernel))⟩
theorem hyps_DeviceWrite_toff : ∃ t, DeviceWrite d0 (.toff 0 0xFFFFFFFFFFFFFFF0) t :=
  ⟨_, .toff 0 _ ⟨by decide +kernel, by decide +kernel⟩⟩
theorem hyps_DeviceWrite_tfadj : ∃ t, DeviceWrite d0 (.registerWrite 0 0 0x200010 0xFFFFFFF0) t :=
  ⟨_, .tfadj 0 _ ⟨by decide +kernel, by decide +kernel⟩⟩
theorem hyps_DeviceWrite_holdover : ∃ t, DeviceWrite ({ d0 with tstate := 1, dtime := 16000000000 }) .holdoverTimeout t :=
  ⟨_, .holdover (by decide +kernel) (by decide +kernel)⟩
theorem hyps_DeviceWrite_hostLink : ∃ t, DeviceWrite d0 (.hostLinkTrain 5 16 2 true) t :=
  ⟨_, .hostLink 5 16 2 true (.inr (.inl rfl)) (by decide +kernel) (by decide +kernel)⟩
theorem hyps_DeviceWrite_hostDown : ∃ t, DeviceWrite d0 (.hostLinkTrain 0 16 2 true) t := ⟨_, .hostDown 16 2 true⟩
theorem hyps_DeviceWrite_hostNoLink : ∃ t, DeviceWrite d0 (.hostLinkTrain 5 3 2 true) t :=
  ⟨_, .hostNoLink 5 3 2 true (by decide +kernel) (by decide +kernel)⟩
theorem hyps_DeviceWrite_twinLink : ∃ t, DeviceWrite d0 (.twinLinkTrain 6 8) t :=
  ⟨_, .twinLink 6 8 (.inr (.inr rfl)) (by decide +kernel)⟩
theorem hyps_DeviceWrite_twinNoLink : ∃ t, DeviceWrite d0 (.twinLinkTrain 6 16) t :=
  ⟨_, .twinNoLink 6 16 (by decide +kernel) (by decide +kernel)⟩
theorem hyps_DeviceWrite_holdoverNot : ∃ t, DeviceWrite d0 .holdoverTimeout t :=
  ⟨_, .holdoverNot (.inl (by decide +kernel))⟩
theorem hyps_DeviceWrite_portUp : ∃ t, DeviceWrite d0 (.portLinkChange 3 true) t :=
  ⟨_, .portUp 0 3 ⟨by decide +kernel, by decide +kernel⟩ (.inl (by decide +kernel))⟩
theorem hyps_DeviceWrite_portControl : ∃ t, DeviceWrite d0 (.portConfigWrite 0 3 0 0x0500000A) t :=
  ⟨_, .portControl 0 3 _ ⟨by decide +kernel, by decide +kernel⟩⟩
theorem hyps_DeviceWrite_flow : ∃ t, DeviceWrite d0 (.flowEntryWrite 0 3 7 0xFFFFFFFFFFFFFFFF 1 2 3) t :=
  ⟨_, .flow 0 3 7 _ 1 2 3 ⟨by decide +kernel, by decide +kernel⟩⟩
theorem hyps_DeviceWrite_place : ∃ t, DeviceWrite d0 (.placementEntryWrite 0 3 7 0xFFFFFFFFFFFFFFFF 1 2 3) t :=
  ⟨_, .place 0 3 7 _ 1 2 3 ⟨by decide +kernel, by decide +kernel⟩⟩
theorem hyps_DeviceWrite_portOther : ∃ t, DeviceWrite d1 (.portConfigWrite 1 3 0 77) t :=
  ⟨_, .portOther 1 3 _ (by unfold State.portHolder; decide +kernel) (.inl ⟨0, 77, rfl⟩)⟩
theorem hyps_DeviceWrite_schedule : ∃ t, DeviceWrite d0 (.registerWrite 0 0 0x110008 0xFFFFFFFFFFFFFFFF) t :=
  ⟨_, .schedule 0 _ (by decide +kernel)⟩
theorem hyps_DeviceWrite_abandonChannel : ∃ t, DeviceWrite d0 (.registerWrite 0 0 0x110000 0xFFFFFFFFFFFFFFFF) t :=
  ⟨_, .abandonChannel 0 _ (by decide +kernel)⟩
theorem hyps_DeviceWrite_notRunning : ∃ t, DeviceWrite d1 (.registerWrite 1 0 0x110000 5) t :=
  ⟨_, .notRunning 1 0 _ 5 (by decide +kernel)⟩
theorem hyps_DeviceWrite_retire : ∃ t, DeviceWrite d0 (.unitRetire 0xF000001) t := ⟨_, .retire _ (by decide +kernel)⟩
theorem hyps_DeviceWrite_retireTooMany : ∃ t, DeviceWrite d0 (.unitRetire 0x1F000001) t :=
  ⟨_, .retireTooMany _ (by decide +kernel)⟩
theorem hyps_DeviceWrite_keySlot : ∃ t, DeviceWrite d0 (.keySlotRevoke 2) t := ⟨_, .keySlot 2 (by decide +kernel)⟩
theorem hyps_DeviceWrite_keySlotRuns : ∃ t, DeviceWrite ({ d0 with bootImage := some { ks := 2, svn := 7, digest := 5 } }) (.keySlotRevoke 2) t :=
  ⟨_, .keySlotRuns 2 { ks := 2, svn := 7, digest := 5 } (by decide +kernel) (by decide +kernel)⟩
theorem hyps_DeviceWrite_svnBoot : ∃ t, DeviceWrite ({ d0 with bootImage := some { ks := 2, svn := 7, digest := 5 } }) (.minimumSvnRaise false 7) t :=
  ⟨_, .svnBoot 7 (by decide +kernel) (by decide +kernel) (fun i h => by cases h; decide)⟩
theorem hyps_DeviceWrite_svnHearth : ∃ t, DeviceWrite ({ d0 with hearthImage := Vector.replicate 3 (some { ks := 2, svn := 7, digest := 5 }) }) (.minimumSvnRaise true 7) t :=
  ⟨_, .svnHearth 7 (by decide +kernel) (by decide +kernel) (fun p i _ h => by have := congrArg Option.isSome h; revert h; fin_cases p <;> (intro h; cases h; decide))⟩
theorem hyps_DeviceWrite_svnNoRaise : ∃ t, DeviceWrite d0 (.minimumSvnRaise true 65) t :=
  ⟨_, .svnNoRaise true 65 (.inl (by decide +kernel))⟩
theorem hyps_DeviceWrite_retry : ∃ t, DeviceWrite ({ d0 with bootStage := 1 }) .configurationRequest t :=
  ⟨_, .retry (by decide +kernel)⟩
theorem hyps_DeviceWrite_ready : ∃ t, DeviceWrite ({ d0 with bootStage := 3 }) .configurationRequest t :=
  ⟨_, .ready (by decide +kernel)⟩
theorem hyps_DeviceWrite_entryLocked : ∃ t, DeviceWrite d0 (.housekeepingWrite (BitVec.ofNat 16 (0x100 + 0x40 * 0 + 8 * 7)) 0xFFFFFFFFFFFFFFFF) t :=
  ⟨_, .entryLocked 0 7 _ (by decide +kernel) (.inl (by decide +kernel))⟩
theorem hyps_DeviceWritesSetTheirFields : ∃ (s t : State) (i : Instr),
      DeviceWrite s i t :=
  ⟨d0, _, _, DeviceWrite.plim 560⟩

/-! ### Hypotheses met: Harts and Hearth calls -/

def waitOf (w : WaitFor) (ends : Option Nat) : Wait := { what := w, op := 0x6B, since := 0, ends := ends, expired := false }
/-- The hart is blocked. -/
def waiting (w : WaitFor) (ends : Option Nat) : State := u1.modMe fun h => { h with st := .blocked, wait := some (waitOf w ends), evt := true }
def late : State := { (waiting .wfe none).modMe fun h => { h with evt := false } with cyc := 2 ^ 24 }
/-- A hart that has run for `n` cycles, with a higher ticket in its job, and the device's choices. -/
def spinning (n : Nat) (cs : List Nat) : State :=
  { onJob (fun j => { j with rcd := { j.rcd with q2 := j.rcd.q2 + 5 } }) (u1.modMe fun h => { h with spun := n }) with choices := cs }
def holder : State := u1.modMe fun h => { h with hold := 2 ^ 20, lockAddr := 0x88 }
def breaker : State := u1.modMe fun h => { h with sup := { h.sup with bpe := true, bpa := h.pc.setWidth _ }, ei := 5 }
def stepping : State := u1.modMe fun h => { h with stepDue := true }
def handling : State := s0.modMe fun h => { h with sup := { h.sup with ran := 2 ^ 26 } }
/-- The supervisor thread waits in a Hearth call, with the given values in `g1` to `g3`. -/
def callOf (n : Nat) (taken : Bool) : Call := { n := n, seq := 0, taken := taken, ends := if taken then some 0 else none }
def calling (n : Nat) (taken : Bool) (g1 g2 g3 : Nat) : State := s0.modMe fun h =>
  { h with sup := { h.sup with st := .blocked, call := some (callOf n taken)
                               g := vput (vput (vput h.sup.g 1 (word g1)) 2 (word g2)) 3 (word g3) } }
/-- A child of job 1, and the device with it. -/
def kidJob : Job := { theJob u1 with id := 2 }
def withKid (s : State) : State :=
  { s with jobs := s.jobs ++ [kidJob]
           families := [{ p := 0, parent := 1, tickets := 1, pt := 0, num := 0, right := 0
                          kids := [{ job := 2, ticket := 0, num := 0, tickets := 1, apart := false }] }] }
/-- The same with a fault queue of 8 entries. -/
def queued (taken : Bool) : State := (calling 2 taken 0x1000 16 500).modFunc 0 0 fun f => { f with fqb := 2, fqn := 3, fqh := 0, fqt := 0 }
def argsOf (s : State) : List Byte × State :=
  (s.argBytes h0 ((s.hart h0).sup.g[(1 : Fin 32)]).toNat ((s.hart h0).sup.g[(2 : Fin 32)]).toNat).getD ([], s)
theorem only_call (k : HartId) (d : Call) (hk : (queued true).call? k = some d) : k = h0 := by
  obtain ⟨u, r⟩ := k
  have hu : u = 1 := by
    by_contra hne
    have hg : (queued true).gang? u = none := by
      refine List.find?_eq_none.mpr fun g hg he => hne ?_
      have h1 := (by decide +kernel : ∀ g ∈ (queued true).gangs, g.uid = 1) g hg
      simp only [beq_iff_eq] at he
      omega
    simp [State.call?, hg] at hk
  subst hu
  have h2 : ∀ r : Fin 4, ((queued true).call? ⟨1, r⟩).isSome = true → r = 0 := by decide +kernel
  have := h2 r (by rw [hk]; rfl)
  subst this
  rfl
theorem hyps_HartEventsResumeOrTrap_0 : ∃ (s : State) (h : HartId) (x : Hart) (w : Wait),
      x = s.hart h ∧
      (s.onCore h = true ∧ x.st = .blocked ∧ x.wait = some w) ∧
      WaitEnds s h w.what :=
  ⟨(waiting .wfe none), h0, _, (waitOf .wfe none), rfl, by decide +kernel, .event (by decide +kernel)⟩
theorem hyps_HartEventsResumeOrTrap_1 : ∃ (s : State) (h : HartId) (x : Hart) (w : Wait) (e : _),
      x = s.hart h ∧
      s.onCore h = true ∧
      x.st = .blocked ∧
      x.wait = some w ∧
      w.what = .wfe ∧
      w.ends = some e ∧
      e ≤ s.dtime :=
  ⟨(waiting .wfe (some 0)), h0, _, (waitOf .wfe (some 0)), 0, rfl, by decide +kernel⟩
theorem hyps_HartEventsResumeOrTrap_2 : ∃ (s : State) (h : HartId) (x : Hart) (w : Wait) (e : _),
      x = s.hart h ∧
      s.onCore h = true ∧
      x.st = .blocked ∧
      x.wait = some w ∧
      (w.what = .vwaitc ∨ w.ofVwaitc = true) ∧
      w.ends = some e ∧
      e ≤ s.dtime :=
  ⟨(waiting .vwaitc (some 0)), h0, _, (waitOf .vwaitc (some 0)), 0, rfl, by decide +kernel⟩
theorem hyps_HartEventsResumeOrTrap_3 : ∃ (s : State) (h : HartId) (x : Hart) (w : _),
      x = s.hart h ∧
      s.onCore h = true ∧
      x.stores = [] ∧
      x.ei < 128 ∧
      x.sup.svec ≠ 0 ∧
      x.st = .blocked ∧
      x.wait = some w ∧
      w.watched = true ∧
      w.since + 2 ^ 24 ≤ s.cyc ∧
      w.op < 128 ∧
      (w.late = true ∨ (s.gang h.gang).eventCame h.rank w = false) :=
  ⟨late, h0, _, (waitOf .wfe none), rfl, by decide +kernel⟩
theorem hyps_HartEventsResumeOrTrap_4 : ∃ (s : State) (h : HartId) (x : Hart) (w : _),
      x = s.hart h ∧
      s.onCore h = true ∧
      x.stores = [] ∧
      x.ei < 128 ∧
      x.sup.svec ≠ 0 ∧
      x.st = .blocked ∧
      x.wait = some w ∧
      w.late = false ∧
      (s.gang h.gang).eventCame h.rank w = true :=
  ⟨(waiting .wfe none), h0, _, (waitOf .wfe none), rfl, by decide +kernel⟩
theorem hyps_HartEventsResumeOrTrap_5 : ∃ (s : State) (h : HartId) (x : Hart) (r : _),
      x = s.hart h ∧
      s.onCore h = true ∧
      x.stores = [] ∧
      x.ei < 128 ∧
      x.sup.svec ≠ 0 ∧
      x.st = .running ∧
      2 ^ 24 ≤ x.spun ∧
      x.sealed = false ∧
      (s.ticket h + 1 < (s.jobOf (s.gang h.gang)).tickets ∨ (s.jobOf (s.gang h.gang)).spawnKey.isSome = true) ∧
      s.choices = 1 :: r :=
  ⟨(spinning (2 ^ 24) [1, 7]), h0, _, [7], rfl, by decide +kernel⟩
theorem hyps_HartEventsResumeOrTrap_6 : ∃ (s : State) (h : HartId) (x : Hart),
      x = s.hart h ∧
      s.onCore h = true ∧
      x.stores = [] ∧
      x.ei < 128 ∧
      x.sup.svec ≠ 0 ∧
      x.st = .running ∧
      2 ^ 24 ≤ x.spun ∧
      x.sealed = false ∧
      (s.ticket h + 1 < (s.jobOf (s.gang h.gang)).tickets ∨ (s.jobOf (s.gang h.gang)).spawnKey.isSome = true) ∧
      s.choices = [] :=
  ⟨(spinning (2 ^ 24) []), h0, _, rfl, by decide +kernel⟩
theorem hyps_HartEventsResumeOrTrap_7 : ∃ (s : State) (h : HartId) (x : Hart),
      x = s.hart h ∧
      s.onCore h = true ∧
      x.stores = [] ∧
      x.ei < 128 ∧
      x.sup.svec ≠ 0 ∧
      x.st = .running ∧
      (x.spun < 2 ^ 24 ∨ x.sealed = true) :=
  ⟨(spinning 5 [1]), h0, _, rfl, by decide +kernel⟩
theorem hyps_HartEventsResumeOrTrap_8 : ∃ (s : State) (h : HartId) (x : Hart),
      x = s.hart h ∧
      (s.onCore h = true ∧ x.stores = [] ∧ x.ei < 128 ∧ x.sup.svec ≠ 0) ∧
      (x.st = .running ∨ x.st = .blocked) ∧
      2 ^ (12 + x.sup.lhl.toNat) ≤ x.hold :=
  ⟨holder, h0, _, rfl, by decide +kernel, .inl (by decide +kernel), by decide +kernel⟩
theorem hyps_HartEventsResumeOrTrap_9 : ∃ (s : State) (h : HartId) (x : Hart),
      x = s.hart h ∧
      s.onCore h = true ∧
      x.stores = [] ∧
      x.ei < 128 ∧
      x.sup.svec ≠ 0 ∧
      x.st = .running ∧
      x.sup.bpe = true ∧
      x.bpExempt = false ∧
      x.pc = x.sup.bpa.setWidth 64 :=
  ⟨breaker, h0, _, rfl, by decide +kernel⟩
theorem hyps_HartEventsResumeOrTrap_10 : ∃ (s : State) (h : HartId) (x : Hart),
      x = s.hart h ∧
      s.onCore h = true ∧
      x.stores = [] ∧
      x.ei < 128 ∧
      x.sup.svec ≠ 0 ∧
      x.st = .running ∧
      x.stepDue = true :=
  ⟨stepping, h0, _, rfl, by decide +kernel⟩
theorem hyps_HartEventsResumeOrTrap_11 : ∃ (s : State) (h : HartId) (x : Hart),
      x = s.hart h ∧
      s.onCore h = true ∧
      x.stores = [] ∧
      x.ei < 128 ∧
      x.st = .trapped ∧
      x.sup.st = .running ∧
      2 ^ 26 ≤ x.sup.ran :=
  ⟨handling, h0, _, rfl, by decide +kernel⟩
theorem hyps_SupervisorReturnsAndCalls_2 : ∃ (s : State) (h : HartId) (c : Call),
      CallReady s h c.n c ∧
      (¬ (1 ≤ c.n ∧ c.n ≤ 5)) :=
  ⟨(calling 6 false 0 0 0), h0, (callOf 6 false), by constructor <;> decide +kernel, by decide +kernel⟩
theorem hyps_HearthCallsAreAnswered_0 : ∃ (s : State) (h : HartId) (c : Call) (g : Gang) (x : Hart),
      s.gang? h.gang = some g ∧
      x = s.hart h ∧
      CallReady s h 1 c ∧
      x.stores = [] ∧
      (x.sup.g[(1 : Fin 32)]).toNat % 256 = 0 :=
  ⟨(calling 1 false 0 0 0), h0, (callOf 1 false), ((calling 1 false 0 0 0).gang h0.gang), _, by decide +kernel, rfl,
    by constructor <;> decide +kernel, by decide +kernel⟩
theorem hyps_HearthCallsAreAnswered_1 : ∃ (s : State) (h : HartId) (c : Call) (g : Gang) (x : Hart),
      s.gang? h.gang = some g ∧
      x = s.hart h ∧
      CallReady s h 1 c ∧
      x.stores = [] ∧
      (x.sup.g[(1 : Fin 32)]).toNat % 256 ≠ 0 :=
  ⟨(calling 1 false 7 0 0), h0, (callOf 1 false), ((calling 1 false 7 0 0).gang h0.gang), _, by decide +kernel, rfl,
    by constructor <;> decide +kernel, by decide +kernel⟩
theorem hyps_HearthCallsAreAnswered_2 : ∃ (s : State) (h : HartId) (c : Call) (g : Gang) (x : Hart),
      s.gang? h.gang = some g ∧
      x = s.hart h ∧
      CallReady s h 5 c :=
  ⟨(calling 5 false 0 0 0), h0, (callOf 5 false), ((calling 5 false 0 0 0).gang h0.gang), _, by decide +kernel, rfl,
    by constructor <;> decide +kernel⟩
theorem hyps_HearthCallsAreAnswered_4 : ∃ (s : State) (h : HartId) (c : Call) (g : Gang) (x : Hart),
      s.gang? h.gang = some g ∧
      x = s.hart h ∧
      CallReady s h 3 c ∧
      1 ≤ (x.sup.g[(2 : Fin 32)]).toNat ∧
      (x.sup.g[(2 : Fin 32)]).toNat ≤ 256 ∧
      s.argBytes h (x.sup.g[(1 : Fin 32)]).toNat (x.sup.g[(2 : Fin 32)]).toNat = none :=
  ⟨(calling 3 false 0x10000 20 0), h0, (callOf 3 false), ((calling 3 false 0x10000 20 0).gang h0.gang), _,
    by decide +kernel, rfl, by constructor <;> decide +kernel, by decide +kernel⟩
theorem hyps_HearthCallsAreAnswered_3 : ∃ (s : State) (h : HartId) (c : Call) (g : Gang) (x : Hart),
      s.gang? h.gang = some g ∧
      x = s.hart h ∧
      CallReady s h 3 c ∧
      ((x.sup.g[(2 : Fin 32)]).toNat = 0 ∨ 256 < (x.sup.g[(2 : Fin 32)]).toNat) :=
  ⟨(calling 3 false 0x1000 0 0), h0, (callOf 3 false), ((calling 3 false 0x1000 0 0).gang h0.gang), _,
    by decide +kernel, rfl, by constructor <;> decide +kernel, .inl (by decide +kernel)⟩
theorem hyps_HearthCallsAreAnswered_5 : ∃ (s : State) (h : HartId) (c : Call) (g : Gang) (x : Hart) (bs : _) (u : _),
      s.gang? h.gang = some g ∧
      x = s.hart h ∧
      CallReady s h 3 c ∧
      (1 ≤ (x.sup.g[(2 : Fin 32)]).toNat ∧ (x.sup.g[(2 : Fin 32)]).toNat ≤ 256) ∧
      s.argBytes h (x.sup.g[(1 : Fin 32)]).toNat (x.sup.g[(2 : Fin 32)]).toNat = some (bs, u) :=
  ⟨(calling 3 false 0x1000 20 0), h0, (callOf 3 false), ((calling 3 false 0x1000 20 0).gang h0.gang), _,
    (argsOf (calling 3 false 0x1000 20 0)).1, (argsOf (calling 3 false 0x1000 20 0)).2, by decide +kernel, rfl,
    by constructor <;> decide +kernel, by decide +kernel, eq_some (by decide +kernel)⟩
theorem hyps_HearthCallsAreAnswered_6 : ∃ (s : State) (h : HartId) (c : Call) (g : Gang) (x : Hart),
      s.gang? h.gang = some g ∧
      x = s.hart h ∧
      CallReady s h 4 c ∧
      2 ≤ (x.sup.g[(1 : Fin 32)]).toNat :=
  ⟨(calling 4 false 2 0 0), h0, (callOf 4 false), ((calling 4 false 2 0 0).gang h0.gang), _, by decide +kernel, rfl,
    by constructor <;> decide +kernel, by decide +kernel⟩
theorem hyps_HearthCallsAreAnswered_7 : ∃ (s : State) (h : HartId) (c : Call) (g : Gang) (x : Hart) (j : _),
      s.gang? h.gang = some g ∧
      x = s.hart h ∧
      CallReady s h 4 c ∧
      (x.sup.g[(1 : Fin 32)]).toNat ≤ 1 ∧
      s.job? g.p g.job = some j ∧
      j.st ≠ .abandoning :=
  ⟨(calling 4 false 1 0 0), h0, (callOf 4 false), ((calling 4 false 1 0 0).gang h0.gang), _,
    (theJob (calling 4 false 1 0 0)), by decide +kernel, rfl, by constructor <;> decide +kernel, by decide +kernel⟩
theorem hyps_HearthCallsAreAnswered_8 : ∃ (s : State) (h : HartId) (c : Call) (g : Gang) (x : Hart) (j : _) (k : _)
    (d : _),
      s.gang? h.gang = some g ∧
      x = s.hart h ∧
      CallReady s h 4 c ∧
      ((x.sup.g[(1 : Fin 32)]).toNat ≤ 1 ∧ s.job? g.p g.job = some j ∧ j.st ≠ .abandoning) ∧
      (x.sup.g[(1 : Fin 32)] = 0 ∨ j.rcd.abp = 0) ∧
      k ∈ s.descendants g.p (s.families.length + 1) g.job ∧
      s.job? g.p k = some d ∧
      d.st ≠ .abandoning :=
  ⟨(withKid (calling 4 false 1 0 0)), h0, (callOf 4 false), ((withKid (calling 4 false 1 0 0)).gang h0.gang), _,
    (theJob (calling 4 false 1 0 0)), 2, kidJob, by decide +kernel, rfl, by constructor <;> decide +kernel,
    by decide +kernel, .inr (by decide +kernel), by decide +kernel⟩
theorem hyps_HearthCallsAreAnswered_9 : ∃ (s : State) (h : HartId) (c : Call) (g : Gang) (x : Hart) (vf : Fin 64)
    (bs : _) (u : _),
      s.gang? h.gang = some g ∧
      x = s.hart h ∧
      vf = (s.jobOf g).vf ∧
      (s.gangs.map Gang.uid).Nodup ∧
      CallReady s h 2 c ∧
      s.memWf ∧
      (bs.length = (x.sup.g[(2 : Fin 32)]).toNat ∧ 8 ≤ bs.length ∧ bs.length ≤ 256 ∧ bs.length % 8 = 0) ∧
      s.argBytes h (x.sup.g[(1 : Fin 32)]).toNat bs.length = some (bs, u) ∧
      ((s.func g.p vf).fqn = 0 ∨ ((s.func g.p vf).fqt - (s.func g.p vf).fqh).toNat = 2 ^ (s.func g.p vf).fqn.toNat) :=
  ⟨(calling 2 false 0x1000 16 500), h0, (callOf 2 false), ((calling 2 false 0x1000 16 500).gang h0.gang), _, _,
    (argsOf (calling 2 false 0x1000 16 500)).1, (argsOf (calling 2 false 0x1000 16 500)).2, by decide +kernel, rfl,
    rfl, by decide +kernel, by constructor <;> decide +kernel, by unfold State.memWf; decide +kernel,
    by decide +kernel, eq_some (by decide +kernel), .inl (by decide +kernel)⟩
theorem hyps_HearthCallsAreAnswered_10 : ∃ (s : State) (h : HartId) (c : Call) (g : Gang) (x : Hart) (vf : Fin 64)
    (bs : _) (u : _) (q : _),
      s.gang? h.gang = some g ∧
      x = s.hart h ∧
      vf = (s.jobOf g).vf ∧
      (s.gangs.map Gang.uid).Nodup ∧
      CallReady s h 2 c ∧
      s.memWf ∧
      (bs.length = (x.sup.g[(2 : Fin 32)]).toNat ∧ 8 ≤ bs.length ∧ bs.length ≤ 256 ∧ bs.length % 8 = 0) ∧
      s.argBytes h (x.sup.g[(1 : Fin 32)]).toNat bs.length = some (bs, u) ∧
      ((s.func g.p vf).fqn ≠ 0 ∧ ((s.func g.p vf).fqt - (s.func g.p vf).fqh).toNat ≠ 2 ^ (s.func g.p vf).fqn.toNat) ∧
      q = (s.func g.p vf).fqb.toNat * 4096 + 320 * ((s.func g.p vf).fqt.toNat % 2 ^ (s.func g.p vf).fqn.toNat) ∧
      s.groupFailed q = false :=
  ⟨(queued false), h0, (callOf 2 false), ((queued false).gang h0.gang), _, _, (argsOf (queued false)).1,
    (argsOf (queued false)).2, _, by decide +kernel, rfl, rfl, by decide +kernel, by constructor <;> decide +kernel,
    by unfold State.memWf; decide +kernel, by decide +kernel, eq_some (by decide +kernel), by decide +kernel, rfl,
    by decide +kernel⟩
theorem hyps_HearthCallsAreAnswered_11 : ∃ (s : State) (h : HartId) (c : Call) (g : Gang) (x : Hart) (vf : Fin 64)
    (e : _),
      s.gang? h.gang = some g ∧
      x = s.hart h ∧
      vf = (s.jobOf g).vf ∧
      (s.gangs.map Gang.uid).Nodup ∧
      s.call? h = some c ∧
      c.n = 2 ∧
      c.taken = true ∧
      c.ends = some e ∧
      e ≤ s.dtime :=
  ⟨(queued true), h0, (callOf 2 true), ((queued true).gang h0.gang), _, _, 0, by decide +kernel, rfl, rfl,
    by decide +kernel⟩
theorem hyps_HearthCallsAreAnswered_12 : ∃ (s : State) (h : HartId) (c : Call) (g : Gang) (x : Hart) (vf : Fin 64)
    (seq : BitVec 32),
      s.gang? h.gang = some g ∧
      x = s.hart h ∧
      vf = (s.jobOf g).vf ∧
      ((s.gangs.map Gang.uid).Nodup ∧ s.call? h = some c ∧ c.n = 2 ∧ c.taken = true ∧ c.seq % 2 ^ 32 = seq.toNat ∧ (s.prt g.p).st = .run ∧ h.rank.val < g.hn) ∧
      (∀ k d, s.call? k = some d → d.taken = true → d.seq % 2 ^ 32 = seq.toNat → k = h) :=
  ⟨(queued true), h0, (callOf 2 true), ((queued true).gang h0.gang), _, _, 0, by decide +kernel, rfl, rfl,
    by decide +kernel, (fun k d hk _ _ => only_call k d hk)⟩

/-! ### Hypotheses met: Jobs -/

/-- A launch record of two gangs, in slot 0 of a launch window, and messages of a channel. -/
def launchRec : LaunchRec := { q0 := 0x100, q1 := 7, q2 := word (1 + 3 * 2 ^ 23), q3 := 0, q4 := 0, q5 := 0, q6 := 0xFF, q7 := 0 }
def window (r : LaunchRec) : State :=
  u1.modPart 0 fun q => { q with funcs := vmod q.funcs 5 fun f => { f with slots := vput f.slots 0 { r with q7 := 99 }, ltail := 1 } }
def aMsg : Msg := { payload := 0x77, at_ := 12, poster := 5 }
def aTaken : Taken := { rcd := some launchRec, vf := 5, pin := none }
def takenMsg : Msg := { aMsg with taken := some aTaken }
def entryOf (mode doff : Nat) : TaskEntry :=
  { TaskEntry.empty with valid := true, vf := 5, pmode := BitVec.ofNat 2 mode, doff := BitVec.ofNat 32 doff, tmpl := launchRec,
                         msgs := [aMsg], pin := true, pcl := 1, pcore := 2, pslot := 1 }
def task (e : TaskEntry) : State := u1.modPart 0 fun q => { q with tasks := vput q.tasks 9 e }
/-- A job whose deadline has passed; jobs being abandoned; jobs that end. -/
def pastDeadline : State := onJob (fun j => { j with rcd := { j.rcd with q3 := 500 } }) { u1 with dtime := 1000 }
def abandoning : State := onJob (fun j =>
    { j with st := .abandoning, ending := .killed, endAt := some 640, cause := some 9, voidedT := [3, 1, 1], rcd := { j.rcd with q5 := 0x2000 } })
  { u1 with dtime := 1000, gangs := [] }
def jobEnds (c : Option (BitVec 8)) (crec cont : Nat) : State := (onJob (fun j =>
    { j with st := .ending, cause := c, gangsEnded := j.rcd.gangs, rcd := { j.rcd with q5 := word crec, q6 := word cont } })
  { u1 with dtime := 1000, gangs := [] }).modPart 0 fun q => { q with tasks := vput q.tasks 9 { TaskEntry.empty with valid := true } }
def sealed : State := onJob (fun j => { j with sealedT := [0] }) u1
def aKid : Kid := { job := 1, ticket := 0, num := 0, tickets := 4, apart := false }
def aFamily : Family := { p := 0, parent := 5, tickets := 2, kids := [aKid], pt := 0, num := 0, right := 0 }
def familied : State := { sealed with families := [aFamily] }
def anEntry : Machine.Entry :=
  { num := 3, p := 0, job := 1, tree := false, ticket := 0, h := h0, core := u1.myGang.core, place := 0, elems := [], fill := .none, pins := [] }
def fullWait (n : Nat) : Wait := { what := .commitFull n false, op := 0x43, since := 0, ends := none, expired := false }
/-- A hart waits for the full commit buffer; its job has a spill arena in arena 2. -/
def spiller : State :=
  { onJob (fun j => { j with rcd := { j.rcd with q6 := 0x4FF } })
      (u1.modMe fun h => { h with st := .blocked, wait := some (fullWait 5) }) with
    entries := [anEntry, { anEntry with num := 4, h := { h0 with rank := 1 } }], cyc := 5000
    dev := Mem.write (Mem.write u0.dev 0x2000 []) 0x10000 (bytesOfNat 8 128 ++ bytesOfNat 8 0x80000 ++ bytesOfNat 8 1)
    parts := vmod u1.parts 0 fun p =>
      { p with funcs := vmod p.funcs 0 fun f => { f with abase := vput f.abase 2 1, ag := vput f.ag 2 true } } }
def spilled : State := { spiller with dev := Mem.write spiller.dev (fetchTables + 8192 * 3 + 8) (bytesOfNat 8 (0x10000 + 0x1F)) }
/-- The same, of a ticket that the right has not reached; the same without an arena. -/
def spillLater : State := onGang (fun g => { g with index := 9 }) spilled
def noArena : State := onJob (fun j => { j with rcd := { j.rcd with q6 := 0xFF } }) spillLater
def spillState : Option (List Nat) × State := (spillLater.takeSegments (spillLater.jobOf (spillLater.gang h0.gang)) 1)
def noneTaken : Option (List Nat) × State := (noArena.takeSegments (noArena.jobOf (noArena.gang h0.gang)) 1)
theorem eq_some' {α : Type} {o : Option α} {d : α} (h : o.isSome = true) : o = some (o.getD d) := by
  cases o with
  | none => cases h
  | some x => rfl
def lateElem : OrdElem := { e := 0, loc := { kind := .dev, pa := 0x1000 }, n := 8, op := .amo .add 3 }
def poisoned : State := { u1 with devPoison := [0x1000 / 128], posted := [{ p := 0, job := 1, elem := lateElem, met := false }] }

/-- A hart waits for the full Cask, past the time its partial may take an overflow segment. -/
def caskWait : Wait := { what := .caskFull, op := 0x74, since := 0, ends := none, expired := false }
def caskFull (free : Nat) (s : State) : State :=
  onJob (fun j => { j with ovfFree := free }) { s.modMe fun h => { h with st := .blocked, wait := some caskWait } with cyc := 2048 }
def caskSegment : Nat × State := ((caskFull 0 spilled).takeSegment (theJob (caskFull 0 spilled))).getD (0, u1)
/-- The arena has no room for a further segment. -/
def arenaFull : State := { spilled with dev := Mem.write spilled.dev 0x10000 (bytesOfNat 8 0x80000) }
def spillLeaf : Leaf := { pin := { page with va := 0x10000, pa := 0x10000 }, x := true, sup := false }
theorem hyps_LaunchesMakeJobs_0 : ∃ (s : State) (p : Fin 3) (vf : Fin 64) (ch : Fin 256) (r : _),
      ((s.prt p).st = .run ∧ s.admits p = true ∧ (s.func p vf).lhead ≠ (s.func p vf).ltail) ∧
      r = { (s.func p vf).slots[Fin.ofNat 64 (s.func p vf).lhead.toNat] with q7 := 0 } ∧
      r.refused false r.ddl = false ∧
      s.ungranted p vf r = false ∧
      r.cosched = false :=
  ⟨(window launchRec), 0, 5, 9, _, by decide +kernel, rfl, by decide +kernel⟩
theorem hyps_LaunchesMakeJobs_1 : ∃ (s : State) (p : Fin 3) (vf : Fin 64) (ch : Fin 256) (r : _),
      ((s.prt p).st = .run ∧ s.admits p = true ∧ (s.func p vf).lhead ≠ (s.func p vf).ltail) ∧
      r = { (s.func p vf).slots[Fin.ofNat 64 (s.func p vf).lhead.toNat] with q7 := 0 } ∧
      (r.refused false r.ddl = true ∨ s.ungranted p vf r = true) ∧
      r.crec = 0 :=
  ⟨(window { launchRec with q0 := 0x101 }), 0, 5, 9, _, by decide +kernel, rfl, .inl (by decide +kernel),
    by decide +kernel⟩
theorem hyps_LaunchesMakeJobs_2 : ∃ (s : State) (p : Fin 3) (vf : Fin 64) (ch : Fin 256) (e : _) (m : _) (rest : _)
    (r : _),
      ((s.prt p).st = .run ∧ s.admits p = true) ∧
      e = (s.prt p).tasks[ch] ∧
      (e.msgs = m :: rest ∧ e.valid = true ∧ e.blk = false ∧ m.taken = none) ∧
      MessageRecord s e m r ∧
      r.refused false r.ddl = false ∧
      s.ungranted p (Fin.ofNat 64 e.vf.toNat) r = false ∧
      r.cosched = false :=
  ⟨(task (entryOf 1 0)), 0, 5, 9, _, aMsg, [], _, by decide +kernel, rfl, by decide +kernel,
    .args (by decide +kernel) (by decide +kernel), by decide +kernel⟩
theorem hyps_LaunchesMakeJobs_3 : ∃ (s : State) (p : Fin 3) (ch : Fin 256) (e : TaskEntry) (m : Msg)
    (rest : List Msg) (k : _) (r : _),
      (s.prt p).st = .run ∧
      e = (s.prt p).tasks[ch] ∧
      e.msgs = m :: rest ∧
      m.taken = some k ∧
      k.rcd = some r ∧
      r.refused false r.ddl = false ∧
      s.ungranted p k.vf r = false ∧
      r.cosched = false :=
  ⟨(task { entryOf 1 0 with msgs := [takenMsg] }), 0, 9, _, takenMsg, [], aTaken, launchRec, by decide +kernel, rfl,
    by decide +kernel⟩
theorem hyps_LaunchesMakeJobs_4 : ∃ (s : State) (p : Fin 3) (ch : Fin 256) (e : TaskEntry) (m : Msg)
    (rest : List Msg),
      (s.prt p).st = .run ∧
      e = (s.prt p).tasks[ch] ∧
      e.msgs = m :: rest ∧
      (m.taken = none ∧ e.valid = true ∧ e.blk = false ∧ s.admits p = true ∧ (e.doff.toInt < 0 ∧ (e.pmode = 0 ∨ e.pmode = 1) ∨ e.pmode = 2 ∧ 2 ^ 40 ≤ m.payload.toNat) ∨ (∃ k, m.taken = some k ∧ k.rcd = none)) :=
  ⟨(task (entryOf 0 0xFFFFFFFF)), 0, 9, _, aMsg, [], by decide +kernel, rfl, by decide +kernel,
    .inl (by decide +kernel)⟩
theorem hyps_LaunchesMakeJobs_5 : ∃ (s : State) (p : Fin 3) (ch : Fin 256) (e : TaskEntry) (m : Msg)
    (rest : List Msg),
      (s.prt p).st = .run ∧
      e = (s.prt p).tasks[ch] ∧
      e.msgs = m :: rest ∧
      m.taken = none ∧
      (e.valid = false ∨ e.blk = true ∨ s.admits p = false) :=
  ⟨(task { entryOf 1 0 with blk := true }), 0, 9, _, aMsg, [], by decide +kernel, rfl, by decide +kernel⟩
theorem hyps_LaunchesMakeJobs_6 : ∃ (s : State) (p : Fin 3) (ch : Fin 256) (q0 q1 q2 q3 : Word),
      (s.prt p).st = .run :=
  ⟨u1, 0, 9, 1, 2, 3, 4, by decide +kernel⟩
theorem hyps_JobsEndOrAreAbandoned_0 : ∃ (s : State),
      s.tickDue = true :=
  ⟨pastDeadline, by decide +kernel⟩
theorem hyps_JobsEndOrAreAbandoned_1 : ∃ (s : State) (p : Fin 3) (vf : Fin 64) (job : BitVec 40) (j : Job),
      (s.prt p).st = .run ∧
      s.job? p job.toNat = some j ∧
      j.vf = vf ∧
      j.st ≠ .abandoning :=
  ⟨u1, 0, (theJob u1).vf, 1, (theJob u1), by decide +kernel⟩
theorem hyps_JobsEndOrAreAbandoned_2 : ∃ (s : State) (p : Fin 3) (job e : Nat) (j : Job),
      s.memWf ∧
      s.job? p job = some j ∧
      j.st = .abandoning ∧
      (∀ c ∈ s.copies, ¬ (c.p = p ∧ c.job = job)) ∧
      j.endAt = some e ∧
      (s.prt p).aben = false ∧
      j.ending ≠ .done :=
  ⟨abandoning, 0, 1, 640, (theJob abandoning), by unfold State.memWf; decide +kernel, by decide +kernel⟩
theorem hyps_JobsEndOrAreAbandoned_3 : ∃ (s : State) (p : Fin 3) (job : Nat) (j : Job) (c : _),
      s.memWf ∧
      s.job? p job = some j ∧
      j.st = .ending ∧
      s.busyJob p job = false ∧
      (∀ k : Fin 4, (s.sweeps[k]).p = p → (s.sweeps[k]).job ≠ job) ∧
      j.voidedT = [] ∧
      j.gangsEnded = j.rcd.gangs ∧
      j.cause = some c ∧
      (s.prt p).aben = false :=
  ⟨(jobEnds (some 9) 0x2000 255), 0, 1, (theJob (jobEnds (some 9) 0x2000 255)), 9,
    by unfold State.memWf; decide +kernel, by decide +kernel⟩
theorem hyps_JobsEndOrAreAbandoned_4 : ∃ (s : State) (p : Fin 3) (job : Nat) (j : Job),
      s.memWf ∧
      s.job? p job = some j ∧
      j.st = .ending ∧
      s.busyJob p job = false ∧
      (∀ k : Fin 4, (s.sweeps[k]).p = p → (s.sweeps[k]).job ≠ job) ∧
      j.voidedT = [] ∧
      j.gangsEnded = j.rcd.gangs ∧
      j.cause = none ∧
      j.rcd.cont = 255 :=
  ⟨(jobEnds none 0x2000 255), 0, 1, (theJob (jobEnds none 0x2000 255)), by unfold State.memWf; decide +kernel,
    by decide +kernel⟩
theorem hyps_JobsEndOrAreAbandoned_5 : ∃ (s : State) (p : Fin 3) (job : Nat) (j : Job) (c : Fin 256),
      s.memWf ∧
      (s.job? p job = some j ∧ j.st = .ending ∧ s.busyJob p job = false ∧ (∀ k : Fin 4, (s.sweeps[k]).p = p → (s.sweeps[k]).job ≠ job) ∧ j.voidedT = [] ∧ j.gangsEnded = j.rcd.gangs ∧ j.cause = none ∧ j.rcd.crec = 0 ∧ j.rcd.cont = c.val ∧ c.val ≠ 255) ∧
      Postable s p c :=
  ⟨(jobEnds none 0 9), 0, 1, (theJob (jobEnds none 0 9)), 9, by unfold State.memWf; decide +kernel, by decide +kernel,
    by constructor <;> decide +kernel⟩
theorem hyps_JobsEndOrAreAbandoned_6 : ∃ (s : State) (p : Fin 3) (job : Nat) (j : Job),
      s.job? p job = some j ∧
      j.right < j.tickets ∧
      (j.right ∈ j.sealedT ∨ j.right ∈ j.voidedT) ∧
      s.pendingOps p job j.right false = false :=
  ⟨sealed, 0, 1, (theJob sealed), by decide +kernel⟩
theorem hyps_JobsEndOrAreAbandoned_7 : ∃ (s : State) (p : Fin 3) (job : Nat) (j : Job),
      s.job? p job = some j ∧
      (j.tickets ≤ j.right ∨ (j.right ∉ j.sealedT ∧ j.right ∉ j.voidedT) ∨ s.pendingOps p job j.right false = true) :=
  ⟨u1, 0, 1, (theJob u1), by decide +kernel, .inr (.inl (by decide +kernel))⟩
theorem hyps_JobsEndOrAreAbandoned_8 : ∃ (s : State) (p : Fin 3) (job : Nat) (f : Family) (k : Kid) (j : Job),
      s.families.find? (fun f => f.p == p && f.kids.any fun k => k.job == job) = some f ∧
      s.families.find? (fun x => x.p == p && x.parent == f.parent) = some f ∧
      f.kids.find? (fun x => x.ticket == f.pt && x.num == f.num) = some k ∧
      f.right + 1 < k.tickets ∧
      s.job? p k.job = some j ∧
      (f.right ∈ j.sealedT ∨ f.right ∈ j.voidedT) ∧
      s.pendingOps p k.job f.right true = false :=
  ⟨familied, 0, 1, aFamily, aKid, (theJob familied), by decide +kernel⟩
theorem hyps_JobsEndOrAreAbandoned_9 : ∃ (s u : State) (h : HartId) (n : Nat) (tree : Bool) (w : Wait) (j : Job)
    (k segs : Nat),
      ((s.hart h).st = .blocked ∧ (s.hart h).wait = some w ∧ w.what = .commitFull n tree ∧ w.since + 4096 ≤ s.cyc ∧ (s.gang h.gang).phase = .placed ∧ (s.prt (s.gang h.gang).p).switch = none) ∧
      j = s.jobOf (s.gang h.gang) ∧
      s.job? j.p j.id = some j ∧
      k = (s.entries.filter fun e => e.h == h && e.place == 0).length ∧
      segs = (k + (if s.commitUsed (s.gang h.gang).core - k + n ≤ 1024 then 0 else n) - (s.hart h).spill.length + 63)
      / 64 ∧
      s.hasRight j (s.ticket h) tree = true :=
  ⟨spilled, spilled, h0, 5, false, (fullWait 5), _, _, _, by decide +kernel, rfl, by decide +kernel, rfl, rfl,
    by decide +kernel⟩
theorem hyps_JobsEndOrAreAbandoned_10 : ∃ (s u : State) (h : HartId) (n : Nat) (tree : Bool) (w : Wait) (j : Job)
    (k segs : Nat) (as : _) (recs : _),
      ((s.hart h).st = .blocked ∧ (s.hart h).wait = some w ∧ w.what = .commitFull n tree ∧ w.since + 4096 ≤ s.cyc ∧ (s.gang h.gang).phase = .placed ∧ (s.prt (s.gang h.gang).p).switch = none) ∧
      j = s.jobOf (s.gang h.gang) ∧
      s.job? j.p j.id = some j ∧
      k = (s.entries.filter fun e => e.h == h && e.place == 0).length ∧
      (segs = (k + (if s.commitUsed (s.gang h.gang).core - k + n ≤ 1024 then 0 else n) - (s.hart h).spill.length + 63) / 64 ∧ s.hasRight j (s.ticket h) tree = false) ∧
      s.takeSegments j segs = (some as, u) ∧
      recs = (s.hart h).spill ++ (as.map fun a => (List.range 64).map fun i => a + 1024 * i).flatten :=
  ⟨spillLater, spillState.2, h0, 5, false, (fullWait 5), _, _, 1, (spillState.1.getD []), _, by decide +kernel, rfl,
    by decide +kernel, rfl, by decide +kernel, pair_eq (eq_some' (by decide +kernel)), rfl⟩
theorem hyps_JobsEndOrAreAbandoned_11 : ∃ (s u : State) (h : HartId) (n : Nat) (tree : Bool) (w : Wait) (j : Job)
    (k segs : Nat),
      ((s.hart h).st = .blocked ∧ (s.hart h).wait = some w ∧ w.what = .commitFull n tree ∧ w.since + 4096 ≤ s.cyc ∧ (s.gang h.gang).phase = .placed ∧ (s.prt (s.gang h.gang).p).switch = none) ∧
      j = s.jobOf (s.gang h.gang) ∧
      s.job? j.p j.id = some j ∧
      k = (s.entries.filter fun e => e.h == h && e.place == 0).length ∧
      (segs = (k + (if s.commitUsed (s.gang h.gang).core - k + n ≤ 1024 then 0 else n) - (s.hart h).spill.length + 63) / 64 ∧ s.hasRight j (s.ticket h) tree = false) ∧
      s.takeSegments j segs = (none, u) ∧
      j.st ≠ .abandoning :=
  ⟨noArena, noneTaken.2, h0, 5, false, (fullWait 5), _, _, 1, by decide +kernel, rfl, by decide +kernel, rfl,
    by decide +kernel, pair_eq (by decide +kernel), by decide +kernel⟩
theorem hyps_JobsEndOrAreAbandoned_13 : ∃ (s : State) (p : Fin 3) (job idx : Nat) (q : Posted),
      (s.posted[idx]? = some q ∧ q.p = p ∧ q.job = job) ∧
      (q.met = true ∨ s.elemPoison q.elem = true) :=
  ⟨poisoned, 0, 1, 0, { p := 0, job := 1, elem := lateElem, met := false }, by decide +kernel,
    .inr (by decide +kernel)⟩
theorem hyps_SweepEngineSteps_5 : ∃ (s : State) (h : HartId) (j : Job) (w : Wait),
      (s.gang? h.gang).isSome ∧
      s.job? (s.gang h.gang).p (s.gang h.gang).job = some j ∧
      (s.hart h).wait = some w ∧
      (s.hart h).st = .blocked ∧
      w.what = .caskFull ∧
      w.since + 2048 ≤ s.cyc ∧
      (s.gang h.gang).phase = .placed ∧
      (s.prt (s.gang h.gang).p).switch = none ∧
      0 < j.ovfFree :=
  ⟨(caskFull 1 u1), h0, (theJob (caskFull 1 u1)), caskWait, by decide +kernel⟩
theorem hyps_SweepEngineSteps_6 : ∃ (s : State) (h : HartId) (j : Job) (w : Wait) (a : Nat) (u : State),
      ((s.gang? h.gang).isSome ∧ s.job? (s.gang h.gang).p (s.gang h.gang).job = some j ∧ (s.hart h).wait = some w ∧ (s.hart h).st = .blocked ∧ w.what = .caskFull ∧ w.since + 2048 ≤ s.cyc ∧ (s.gang h.gang).phase = .placed ∧ (s.prt (s.gang h.gang).p).switch = none ∧ j.ovfFree = 0) ∧
      s.takeSegment j = some (a, u) :=
  ⟨(caskFull 0 spilled), h0, (theJob (caskFull 0 spilled)), caskWait, caskSegment.1, caskSegment.2, by decide +kernel,
    eq_some (by decide +kernel)⟩
theorem hyps_SweepEngineSteps_7 : ∃ (s : State) (h : HartId) (j : Job) (w : Wait),
      (s.gang? h.gang).isSome ∧
      s.job? (s.gang h.gang).p (s.gang h.gang).job = some j ∧
      (s.hart h).wait = some w ∧
      (s.hart h).st = .blocked ∧
      w.what = .caskFull ∧
      w.since + 2048 ≤ s.cyc ∧
      (s.gang h.gang).phase = .placed ∧
      (s.prt (s.gang h.gang).p).switch = none ∧
      j.ovfFree = 0 ∧
      s.takeSegment j = none ∧
      j.st ≠ .abandoning :=
  ⟨(caskFull 0 u1), h0, (theJob (caskFull 0 u1)), caskWait, by decide +kernel⟩
theorem hyps_SweepEngineSteps_8 : ∃ (s : State) (j : Job) (n : Fin 4) (base nx size : Nat) (l : Leaf),
      s.memWf ∧
      (j.rcd.amask.testBit n.val = true ∧ (∀ k : Fin 4, k < n → j.rcd.amask.testBit k.val = false)) ∧
      base = (s.arena j n).toNat ∧
      (s.walk j.p j.vf base = .ok l ∧ s.leafCheck j.p false .read l base (base + 63) = none ∧ s.leafCheck j.p false .write l base (base + 63) = none ∧ s.readPoison (l.pin.loc base) 64 = false ∧ l.pin.kind = .dev ∧ s.groupFailed (l.pin.loc base).pa = false ∧ numAt s.byteAt (l.pin.loc (base + 16)) 8 % 2 = 1 ∧ l.pin.va ≤ base) ∧
      nx = (numAt s.byteAt (l.pin.loc base) 8 + 65535) / 65536 * 65536 + 65536 ∧
      size = numAt s.byteAt (l.pin.loc (base + 8)) 8 ∧
      size < nx :=
  ⟨arenaFull, (theJob arenaFull), 2, _, _, _, spillLeaf, by unfold State.memWf; decide +kernel, by decide +kernel,
    rfl, by decide +kernel, rfl, rfl, by decide +kernel⟩
theorem hyps_SweepEngineSteps_9 : ∃ (s : State) (j : Job) (n : Fin 4) (base nx size : Nat) (l : Leaf),
      s.memWf ∧
      (j.rcd.amask.testBit n.val = true ∧ (∀ k : Fin 4, k < n → j.rcd.amask.testBit k.val = false)) ∧
      base = (s.arena j n).toNat ∧
      (s.walk j.p j.vf base = .ok l ∧ s.leafCheck j.p false .read l base (base + 63) = none ∧ s.leafCheck j.p false .write l base (base + 63) = none ∧ s.readPoison (l.pin.loc base) 64 = false ∧ l.pin.kind = .dev ∧ s.groupFailed (l.pin.loc base).pa = false ∧ numAt s.byteAt (l.pin.loc (base + 16)) 8 % 2 = 1 ∧ l.pin.va ≤ base) ∧
      nx = (numAt s.byteAt (l.pin.loc base) 8 + 65535) / 65536 * 65536 + 65536 ∧
      size = numAt s.byteAt (l.pin.loc (base + 8)) 8 ∧
      nx ≤ size :=
  ⟨spilled, (theJob spilled), 2, _, _, _, spillLeaf, by unfold State.memWf; decide +kernel, by decide +kernel, rfl,
    by decide +kernel, rfl, rfl, by decide +kernel⟩

/-! ### Hypotheses met: Gangs -/

/-- A job of one gang that waits for placement, on cores that are all free. -/
def placeable : State := onJob (fun j => { j with nextGang := 0, st := .accepted, ready := true }) { u1 with gangs := [] }
def seat : Seat :=
  ((placeable.findSeats 0 ((theJob placeable).need none) (placeable.cores 0)).map Prod.fst).getD { core := 99, slots := [], base := 0 }
def gangOver : State := onGang (fun g => { g with phase := .over }) u1
/-- A part of the gang is the current unit's copy, so something of it is not done. -/
def overBusy : State :=
  { gangOver with copies := [noCopy] }
def urgency : State :=
  { (u1.modPart 0 fun q => { q with urgth := 1000 }) with
    jobs := u1.jobs ++ u1.jobs.map fun j => { j with id := 2, rcd := { j.rcd with q3 := 500 } }
    gangs := u1.gangs ++ u1.gangs.map fun g => { g with uid := 77, job := 2, slots := [2] } }
def theCore : Fin 64 := Fin.ofNat 64 u1.myGang.core
/-- The gang's harts are being saved. -/
def evicting : State := onGang (fun g => { g with phase := .evict3, frames := some ([0x20000, 0x40000], 0x60000) }) u1
def evicted : State := onGang (fun g => { g with phase := .evict4 }) evicting
def evictedBusy : State := { evicted with copies := overBusy.copies }
theorem hyps_GangsArePlacedAndEvicted_frames : evicted.memWf ∧ FramesApart evicted (theGang evicted) [0x20000,
    0x40000] 0x60000 :=
  ⟨by unfold State.memWf; decide +kernel, by decide +kernel, by decide +kernel,
    fun a => no_group_failed (by decide +kernel) a⟩
theorem hyps_GangsArePlacedAndEvicted_0 : ∃ (s : State) (p : Fin 3) (j : Job) (a : Seat),
      (s.prt p).st = .run ∧
      s.readyJobs p = [j] ∧
      j.p = p ∧
      j ∈ s.jobs ∧
      (∀ x ∈ s.jobs, x.p = p → x.id = j.id → x = j) ∧
      j.rcd.cosched = false ∧
      j.skipped = [] ∧
      j.nextGang + 1 = j.rcd.gangs ∧
      (∀ g ∈ s.gangs, g.phase ≠ .evicted) ∧
      s.held j j.nextGang = none ∧
      s.findSeats p (j.need none) (s.cores p) = some (a, none) :=
  ⟨placeable, 0, (theJob placeable), seat, by decide +kernel⟩
theorem hyps_GangsArePlacedAndEvicted_1 : ∃ (s : State) (u : Nat) (g : Gang),
      s.gang? u = some g ∧
      g.phase = .over ∧
      s.touched u = false :=
  ⟨gangOver, 1, (theGang gangOver), by decide +kernel⟩
theorem hyps_GangsArePlacedAndEvicted_2 : ∃ (s : State) (u : Nat) (g : Gang),
      s.gang? u = some g ∧
      g.phase = .over ∧
      s.touched u = true :=
  ⟨overBusy, 1, (theGang overBusy), by decide +kernel⟩
theorem hyps_GangsArePlacedAndEvicted_3 : ∃ (s : State) (c : Fin 64),
      s.urgent c = true ∧
      (s.gangs.map Gang.uid).Nodup :=
  ⟨urgency, theCore, by decide +kernel⟩
theorem hyps_GangsArePlacedAndEvicted_4 : ∃ (s : State) (c : Fin 64),
      s.urgent c = false :=
  ⟨u1, theCore, by decide +kernel⟩
theorem hyps_GangsArePlacedAndEvicted_6 : ∃ (s : State) (h : HartId) (g : Gang) (hs : List Nat) (f base : Nat)
    (x : Hart),
      s.gang? h.gang = some g ∧
      s.memWf ∧
      x = s.hart h ∧
      (g.phase = .evict3 ∧ g.frames = some (hs, f) ∧ h.rank.val < g.hn ∧ h.rank ∉ g.saved ∧ x.sup.call = none ∧ x.stores = []) ∧
      base = hs.getD h.rank.val 0 ∧
      (∀ v : Fin 60, (x.v[v]).vln ≤ 128) ∧
      (∀ k, k < 131072 → s.groupFailed (base + k) = false) :=
  ⟨evicting, h0, (theGang evicting), [0x20000, 0x40000], 0x60000, _, _, by decide +kernel,
    by unfold State.memWf; decide +kernel, rfl, by decide +kernel, rfl, by decide +kernel,
    (fun _ _ => no_group_failed (by decide +kernel) _)⟩
theorem hyps_GangsArePlacedAndEvicted_7 : ∃ (s : State) (u f : Nat) (g : Gang) (hs : List Nat),
      s.gang? u = some g ∧
      g.phase = .evict4 ∧
      g.frames = some (hs, f) ∧
      s.touched u = true :=
  ⟨evictedBusy, 1, 0x60000, (theGang evictedBusy), [0x20000, 0x40000], by decide +kernel⟩
theorem hyps_GangsArePlacedAndEvicted_8 : ∃ (s : State) (u f : Nat) (g : Gang) (hs : List Nat),
      s.gang? u = some g ∧
      g.phase = .evict4 ∧
      g.frames = some (hs, f) ∧
      s.touched u = false :=
  ⟨evicted, 1, 0x60000, (theGang evicted), [0x20000, 0x40000], by decide +kernel⟩

/-! ### Hypotheses met: Partitions -/

/-- Partition 0 in RESET without a grant, and with a grant that GO accepts. -/
def inReset : State := u1.modPart 0 fun q => { q with st := .reset }
def granted : State := inReset.modPart 0 fun q => { q with q0 := 0x0101000000000000, ways := 0x3, hrb := 0, hrs := 64 }
def image : Image := { ks := 1, svn := 7, digest := 5 }
def imaged : State := { u1 with hearthImage := Vector.replicate 3 (some image) }
def switching : State := u1.modPart 0 fun q => { q with switch := some (image, 0) }
/-- A taken call is left while a switch waits. -/
def switchHeld : State := (queued true).modPart 0 fun q => { q with switch := some (image, 0) }
/-- The call's entry is the older of two in the fault queue. -/
def posted2 : State :=
  { (switchHeld.modFunc 0 0 fun f => { f with fqt := 2 }).modMe fun h =>
      { h with sup := { h.sup with call := h.sup.call.map fun c => { c with entry := some 0 } } } with dtime := 1000000 }
theorem hyps_PartitionsStartAndStop_unpost :
    ∃ (h : HartId) (g : Gang) (c : Call) (k : BitVec 32) (f : Func),
      (posted2.prt 0).st = .run ∧ (posted2.prt 0).switch = some (image, 0) ∧ posted2.gang? h.gang = some g ∧
      posted2.call? h = some c ∧ c.taken = true ∧ c.n = 2 ∧ g.p = 0 ∧ h.rank.val < g.hn ∧
      (posted2.gangs.map Gang.uid).Nodup ∧ f = posted2.func 0 (posted2.jobOf g).vf ∧ c.entry = some k ∧
      (k - f.fqh).toNat < (f.fqt - f.fqh).toNat ∧ (f.fqt - f.fqh).toNat ≤ 2 ^ f.fqn.toNat ∧
      (∀ x ∈ posted2.gangs, x.p = 0 → ∀ r : Fin 4, ({ gang := x.uid, rank := r } : HartId) ≠ h →
        ((x.harts[r]).sup.call.all fun d => d.entry.isNone) = true) ∧ posted2.memWf ∧ posted2.failedCh = 0 :=
  ⟨h0, theGang posted2, { callOf 2 true with entry := some 0 }, 0,
    posted2.func 0 (posted2.jobOf (theGang posted2)).vf,
    by decide +kernel, by decide +kernel, by decide +kernel, by decide +kernel, rfl, rfl, by decide +kernel, by decide +kernel,
    by decide +kernel, rfl, rfl, by decide +kernel, by decide +kernel, by decide +kernel,
    by unfold State.memWf; decide +kernel, by decide +kernel⟩
theorem hyps_PartitionsStartAndStop_0 : ∃ (s : State) (p : Fin 3) (vf : Fin 64) (q : Part),
      q = s.prt p ∧
      s.memWf ∧
      (∀ x ∈ s.jobs, ∀ y ∈ s.jobs, x.p = y.p → x.id = y.id → x = y) ∧
      q.st = .reset ∧
      s.goOk p = false :=
  ⟨inReset, 0, 5, _, rfl, by unfold State.memWf; decide +kernel, by decide +kernel⟩
theorem hyps_PartitionsStartAndStop_1 : ∃ (s : State) (p : Fin 3) (vf : Fin 64) (q : Part),
      q = s.prt p ∧
      s.memWf ∧
      (∀ x ∈ s.jobs, ∀ y ∈ s.jobs, x.p = y.p → x.id = y.id → x = y) ∧
      q.st = .reset ∧
      s.goOk p = true ∧
      s.verifyAt q.fwa.toNat = none :=
  ⟨granted, 0, 5, _, rfl, by unfold State.memWf; decide +kernel, by decide +kernel⟩
theorem hyps_PartitionsStartAndStop_2 (i : Image) (passes : granted.verifyAt (granted.prt 0).fwa.toNat = some i) : ∃
    (s : State) (p : Fin 3) (vf : Fin 64) (q : Part) (i : _),
      q = s.prt p ∧
      s.memWf ∧
      ((∀ x ∈ s.jobs, ∀ y ∈ s.jobs, x.p = y.p → x.id = y.id → x = y) ∧ q.st = .reset ∧ s.goOk p = true) ∧
      s.verifyAt q.fwa.toNat = some i :=
  ⟨granted, 0, 5, _, i, rfl, by unfold State.memWf; decide +kernel, by decide +kernel, passes⟩
theorem hyps_PartitionsStartAndStop_3 : ∃ (s : State) (p : Fin 3) (vf : Fin 64) (q : Part),
      q = s.prt p ∧
      s.memWf ∧
      (∀ x ∈ s.jobs, ∀ y ∈ s.jobs, x.p = y.p → x.id = y.id → x = y) ∧
      q.st ≠ .reset :=
  ⟨u1, 0, 5, _, rfl, by unfold State.memWf; decide +kernel, by decide +kernel⟩
theorem hyps_PartitionsStartAndStop_4 : ∃ (s : State) (p : Fin 3) (vf : Fin 64) (q : Part),
      q = s.prt p ∧
      s.memWf ∧
      (∀ x ∈ s.jobs, ∀ y ∈ s.jobs, x.p = y.p → x.id = y.id → x = y) ∧
      (q.st = .run ∨ q.st = .fault) :=
  ⟨u1, 0, 5, _, rfl, by unfold State.memWf; decide +kernel, by decide +kernel, .inl (by decide +kernel)⟩
theorem hyps_PartitionsStartAndStop_5 : ∃ (s : State) (p : Fin 3) (vf : Fin 64) (q : Part),
      q = s.prt p ∧
      s.memWf ∧
      (∀ x ∈ s.jobs, ∀ y ∈ s.jobs, x.p = y.p → x.id = y.id → x = y) ∧
      (q.st = .off ∨ s.hearthImage[p] = none) :=
  ⟨u1, 0, 5, _, rfl, by unfold State.memWf; decide +kernel, by decide +kernel, .inr (by decide +kernel)⟩
theorem hyps_PartitionsStartAndStop_6 : ∃ (s : State) (p : Fin 3) (vf : Fin 64) (q : Part),
      q = s.prt p ∧
      s.memWf ∧
      (∀ x ∈ s.jobs, ∀ y ∈ s.jobs, x.p = y.p → x.id = y.id → x = y) ∧
      (q.st = .run ∨ q.st = .fault) ∧
      (s.hearthImage[p]).isSome :=
  ⟨imaged, 0, 5, _, rfl, by unfold State.memWf; decide +kernel, by decide +kernel, .inl (by decide +kernel),
    by decide +kernel⟩
theorem hyps_PartitionsStartAndStop_7 : ∃ (s : State) (p : Fin 3) (vf : Fin 64) (q : Part),
      q = s.prt p ∧
      s.memWf ∧
      (∀ x ∈ s.jobs, ∀ y ∈ s.jobs, x.p = y.p → x.id = y.id → x = y) ∧
      (q.st = .run ∨ q.st = .fault) ∧
      (s.hearthImage[p]).isSome ∧
      vf ≠ 0 :=
  ⟨imaged, 0, 5, _, rfl, by unfold State.memWf; decide +kernel, by decide +kernel, .inl (by decide +kernel),
    by decide +kernel⟩
theorem hyps_PartitionsStartAndStop_8 (i : Image) (passes : u1.verifyAt (u1.prt 0).fwa.toNat = some i) : ∃
    (s : State) (p : Fin 3) (i : Image),
      ((s.prt p).st = .run ∧ (s.prt p).switch = none) ∧
      s.verifyAt (s.prt p).fwa.toNat = some i :=
  ⟨u1, 0, i, by decide +kernel, passes⟩
theorem hyps_PartitionsStartAndStop_9 : ∃ (s : State) (p : Fin 3) (i : Image),
      (s.prt p).st = .run ∧
      (s.prt p).switch = none ∧
      s.verifyAt (s.prt p).fwa.toNat = none :=
  ⟨u1, 0, image, by decide +kernel⟩
theorem hyps_PartitionsStartAndStop_10 : ∃ (s : State) (p : Fin 3) (i : Image) (since : _),
      (s.prt p).st = .run ∧
      (s.prt p).switch = some (i, since) ∧
      ((∃ c ∈ s.calls p, c.taken = true) ∧ s.dtime < since + 1000000) :=
  ⟨switchHeld, 0, image, 0, by decide +kernel⟩
theorem hyps_PartitionsStartAndStop_11 : ∃ (s : State) (p : Fin 3) (i : Image) (since : _),
      (s.prt p).st = .run ∧
      (s.prt p).switch = some (i, since) ∧
      (¬ ((∃ c ∈ s.calls p, c.taken = true) ∧ s.dtime < since + 1000000)) :=
  ⟨switching, 0, image, 0, by decide +kernel⟩
theorem hyps_PartitionsStartAndStop_12 : ∃ (s : State) (p : Fin 3) (v : Word) (off : Nat),
      off = 0x100 + 0x40 * p.val ∧
      ((s.prt p).st = .off ∨ (s.prt p).st = .reset) :=
  ⟨granted, 0, 5, _, rfl, .inr (by decide +kernel)⟩
theorem hyps_PartitionsStartAndStop_13 : ∃ (s : State) (p : Fin 3) (v : Word) (off : Nat),
      off = 0x100 + 0x40 * p.val ∧
      v.getLsbD 8 = false ∧
      v.getLsbD 9 = false ∧
      v.getLsbD 10 = false :=
  ⟨u1, 0, 1, _, rfl, by decide +kernel⟩
theorem hyps_PartitionsStartAndStop_14 : ∃ (s : State) (p : Fin 3) (v : Word) (off : Nat),
      off = 0x100 + 0x40 * p.val :=
  ⟨u1, 0, 5, _, rfl⟩

/-! ### Hypotheses met: Errors, power and bring-up -/

/-- Partition 0 owns channel group 0 and two L2 ways. -/
def owning : State := u1.modPart 0 fun q => { q with ways := 0x3, q0 := 0x0001000000000000, hrb := 0, hrs := 64 }
def pairedOwning : State :=
  onGang (fun g => { g with core2 := some 9 }) (onJob (fun j => { j with rcd := { j.rcd with q2 := j.rcd.q2 ||| (1 <<< 49) } }) owning)
theorem hyps_ErrorsPowerAndBringUp_0 : ∃ (s : State) (line : Nat) (p : Fin 3) (ch : _),
      s.ownerOf (line * 128) = some p ∧
      ch = 4 * (line / 2 ^ 28) + line % 4 :=
  ⟨owning, 0x20, 0, _, by decide +kernel, rfl⟩
theorem hyps_ErrorsPowerAndBringUp_1 : ∃ (s : State) (line : Nat) (p : Fin 3) (ch : _) (i : Instr),
      s.ownerOf (line * 128) = some p ∧
      ch = 4 * (line / 2 ^ 28) + line % 4 ∧
      (i = .patrolScrub line (some true) ∨ i = .registerError (.dramLine line)) ∧
      ((s.chErrs.filter fun e => e.1 = ch ∧ s.dtime < e.2 + 3600000000000).length < 256) :=
  ⟨owning, 0x20, 0, _, (.patrolScrub 0x20 (some true)), by decide +kernel, rfl, .inl rfl, by decide +kernel⟩
theorem hyps_ErrorsPowerAndBringUp_2 : ∃ (s : State) (line : Nat) (p : Fin 3) (ch : _) (i : Instr),
      s.ownerOf (line * 128) = some p ∧
      ch = 4 * (line / 2 ^ 28) + line % 4 ∧
      (i = .patrolScrub line (some true) ∨ i = .registerError (.dramLine line)) ∧
      (256 ≤ (s.chErrs.filter fun e => e.1 = ch ∧ s.dtime < e.2 + 3600000000000).length) ∧
      s.failedCh.getLsbD ch = false :=
  ⟨{ owning with chErrs := List.replicate 256 (0, 0) }, 0x20, 0, _, (.registerError (.dramLine 0x20)),
    by decide +kernel, rfl, .inr rfl, by decide +kernel⟩
theorem hyps_ErrorsPowerAndBringUp_3 : ∃ (s : State) (line : Nat) (p : Fin 3),
      s.ownerOf (line * 128) = some p :=
  ⟨owning, 0x20, 0, by decide +kernel⟩
theorem hyps_ErrorsPowerAndBringUp_4 : ∃ (s : State) (line : Nat) (p : Fin 3) (way : Fin 16),
      s.ownerOf (line * 128) = some p ∧
      s.l2.find? (fun x => x.1 == line) = some (line, way) :=
  ⟨{ owning with l2 := [(0x20, 1)] }, 0x20, 0, 1, by decide +kernel⟩
theorem hyps_ErrorsPowerAndBringUp_5 : ∃ (s : State) (line : Nat) (p : Fin 3) (way : Fin 16),
      s.ownerOf (line * 128) = some p ∧
      (s.prt p).st = .run ∧
      (s.prt p).ways.getLsbD way.val = true :=
  ⟨owning, 0x20, 0, 1, by decide +kernel⟩
theorem hyps_ErrorsPowerAndBringUp_6 : ∃ (s : State) (line : Nat) (p : Fin 3) (way : Fin 16),
      s.ownerOf (line * 128) = some p ∧
      ((s.prt p).st ≠ .run ∨ (s.prt p).ways.getLsbD way.val = false) :=
  ⟨owning, 0x20, 0, 5, by decide +kernel⟩
theorem hyps_ErrorsPowerAndBringUp_7 : ∃ (s : State) (line : Nat) (p : Fin 3) (ch : Fin 32),
      s.ownerOf (line * 128) = some p :=
  ⟨owning, 0x20, 0, 9, by decide +kernel⟩
theorem hyps_ErrorsPowerAndBringUp_8 : ∃ (s : State) (h : HartId) (g : Gang),
      s.gang? h.gang = some g ∧
      (s.hart h).stores = [] ∧
      (s.hart h).over = false ∧
      (s.jobOf g).rcd.paired = false :=
  ⟨owning, h0, (theGang owning), by decide +kernel⟩
theorem hyps_ErrorsPowerAndBringUp_9 : ∃ (s : State) (h : HartId) (g : Gang),
      s.gang? h.gang = some g ∧
      (s.hart h).stores = [] ∧
      (s.hart h).over = false ∧
      (s.jobOf g).rcd.paired = true :=
  ⟨pairedOwning, h0, (theGang pairedOwning), by decide +kernel⟩
theorem hyps_ErrorsPowerAndBringUp_10 : ∃ (s : State) (u : _) (g : _),
      s.gang? u = some g :=
  ⟨pairedOwning, 1, (theGang pairedOwning), by decide +kernel⟩
theorem hyps_ErrorsPowerAndBringUp_11 : ∃ (s : State) (u : _) (g : _) (w : _),
      s.gang? u = some g ∧
      w * 4 < g.spsize :=
  ⟨owning, 1, (theGang owning), 5, by decide +kernel⟩
theorem hyps_ErrorsPowerAndBringUp_14 : ∃ (s : State) (query : Nat) (k : Fin 4) (b : Sub),
      s.subOf? query = some (k, b) :=
  ⟨mg, ((mg.rg (some 23)).toNat), 0, (theSub mg), by decide +kernel⟩
theorem hyps_ErrorsPowerAndBringUp_15 : ∃ (s : State) (p : _) (job : _) (j : _),
      s.job? p job = some j ∧
      j.st ≠ .abandoning :=
  ⟨owning, 0, 1, (theJob owning), by decide +kernel⟩
theorem hyps_ErrorsPowerAndBringUp_18 : ∃ (s : State) (h : HartId) (g : Gang) (pa : Nat),
      s.gang? h.gang = some g :=
  ⟨owning, h0, (theGang owning), 0x80, by decide +kernel⟩
theorem hyps_ErrorsPowerAndBringUp_23 : ∃ (s : State),
      s.temp.toNat < 1760 :=
  ⟨u1, by decide +kernel⟩
theorem hyps_ErrorsPowerAndBringUp_24 : ∃ (s : State),
      1760 ≤ s.temp.toNat :=
  ⟨{ u1 with temp := 1760 }, by decide +kernel⟩
theorem hyps_ErrorsPowerAndBringUp_25 : ∃ (s : State),
      s.bootStage = 0 ∧
      s.verify 1 (s.flashImage.take 1536) ((s.flashImage.drop 1536).take (headLen s.flashImage)) = none :=
  ⟨{ u1 with bootStage := 0 }, by decide +kernel⟩
theorem hyps_ErrorsPowerAndBringUp_26 (i : Image)
    (passes : ({ u1 with bootStage := 0 } : State).verify 1 (u1.flashImage.take 1536) ((u1.flashImage.drop 1536).take (headLen u1.flashImage)) = some i) : ∃ (s : State) (i : _),
      s.bootStage = 0 ∧
      s.verify 1 (s.flashImage.take 1536) ((s.flashImage.drop 1536).take (headLen s.flashImage)) = some i :=
  ⟨{ u1 with bootStage := 0 }, i, by decide +kernel, passes⟩
theorem hyps_ErrorsPowerAndBringUp_27 : ∃ (s : State) (img : List Byte),
      s.recovery = true ∧
      s.verify 1 (img.take 1536) ((img.drop 1536).take (headLen img)) = none :=
  ⟨{ u1 with bootStage := 1, recovery := true }, [], by decide +kernel⟩
theorem hyps_ErrorsPowerAndBringUp_28 (img : List Byte) (i : Image)
    (passes : ({ u1 with bootStage := 1, recovery := true } : State).verify 1 (img.take 1536) ((img.drop 1536).take (headLen img)) = some i) : ∃ (s : State) (img : List Byte) (i : _),
      s.recovery = true ∧
      s.verify 1 (img.take 1536) ((img.drop 1536).take (headLen img)) = some i :=
  ⟨{ u1 with bootStage := 1, recovery := true }, img, i, by decide +kernel, passes⟩

/-! ### Hypotheses met: Requests from outside -/

def invalOf : Inval := { id := 0, p := 0, vf := some 0, va := none, since := 0 }
def invalidating : State :=
  { (u1.modFunc 0 0 fun f => { f with ibusy := some 0 }) with invals := [invalOf], nextInval := 1, dtime := 100000 }
/-- A token pins a page that is being invalidated. -/
def pinning : State := invalidating.modMe fun h =>
  { h with tk := vput h.tk 2 { st := .valid, base := 0x1000, len := 0x1000, wr := true, pins := [{ page with mark := [0] }] } }
/-- Partition 0 is in FAULT. -/
def faulted : State :=
  ({ owning with hearthImage := Vector.replicate 3 (some { ks := 1, svn := 7, digest := 5 }) } : State).modPart 0 fun q =>
    { q with st := .fault }
/-- A twin link, with and without the grant. -/
def linked : State := { owning with tgen := 5 }
def twinGrant : State := linked.modPart 0 fun q => { q with twgrant := 1 }
theorem hyps_OutsideRequestsAreAnswered_0 : ∃ (s : State) (p : Fin 3) (vf : Fin 64) (va : BitVec 56) (id : Nat),
      (s.prt p).st = .run ∧
      (s.func p vf).ibusy = none :=
  ⟨u1, 0, 0, 0x1000, 0, by decide +kernel⟩
theorem hyps_OutsideRequestsAreAnswered_1 : ∃ (s : State) (p : Fin 3) (vf : Fin 64) (va : BitVec 56) (id : Nat),
      (s.prt p).st = .run ∧
      (s.func p vf).ibusy ≠ none :=
  ⟨invalidating, 0, 0, 0x1000, 0, by decide +kernel⟩
theorem hyps_OutsideRequestsAreAnswered_2 : ∃ (s : State) (p : Fin 3) (vf : Fin 64) (va : BitVec 56) (id : Nat),
      (s.prt p).st = .run ∧
      (s.func p vf).ibusy = some id ∧
      (∀ q ∈ s.allPins, id ∉ q.mark) :=
  ⟨invalidating, 0, 0, 0x1000, 0, by decide +kernel⟩
theorem hyps_OutsideRequestsAreAnswered_3 : ∃ (s : State) (p : Fin 3) (vf : Fin 64) (va : BitVec 56) (id : Nat),
      (s.prt p).st = .run ∧
      (s.func p vf).ibusy = some id ∧
      (∃ q ∈ s.allPins, id ∈ q.mark) :=
  ⟨pinning, 0, 0, 0x1000, 0, by decide +kernel⟩
theorem hyps_OutsideRequestsAreAnswered_4 : ∃ (s : State) (p : Fin 3) (vf : Fin 64) (va : BitVec 56) (id : Nat)
    (i : _),
      (s.prt p).st = .run ∧
      s.invals.find? (fun x => x.id == id) = some i ∧
      i.since + 100000 ≤ s.dtime :=
  ⟨invalidating, 0, 0, 0x1000, 0, invalOf, by decide +kernel⟩
theorem hyps_OutsideRequestsAreAnswered_5 : ∃ (s : State) (p : Fin 3) (a n pa : Nat),
      s.memWf ∧
      0 < n ∧
      a % 128 + n ≤ 128 ∧
      pa % 128 = a % 128 ∧
      s.groupFailed pa = false ∧
      (s.prt p).st = .run ∧
      s.rangePa p a = some pa :=
  ⟨owning, 0, 0x1000, 8, ((owning.rangePa 0 0x1000).getD 0), by unfold State.memWf; decide +kernel, by decide +kernel⟩
theorem hyps_OutsideRequestsAreAnswered_6 : ∃ (s : State) (p : Fin 3) (a n pa : Nat) (bs : List Byte),
      s.memWf ∧
      0 < n ∧
      a % 128 + n ≤ 128 ∧
      pa % 128 = a % 128 ∧
      s.groupFailed pa = false ∧
      (s.prt p).st = .run ∧
      s.rangePa p a = some pa ∧
      bs.length = n :=
  ⟨owning, 0, 0x1000, 8, ((owning.rangePa 0 0x1000).getD 0), [1, 2, 3, 4, 5, 6, 7, 8],
    by unfold State.memWf; decide +kernel, by decide +kernel⟩
theorem hyps_OutsideRequestsAreAnswered_7 : ∃ (s : State) (p : Fin 3) (a n pa : Nat),
      s.memWf ∧
      0 < n ∧
      a % 128 + n ≤ 128 ∧
      pa % 128 = a % 128 ∧
      s.groupFailed pa = false ∧
      (s.prt p).st = .run ∧
      s.rangePa p a = none :=
  ⟨owning, 0, 0x400000000000, 8, 0, by unfold State.memWf; decide +kernel, by decide +kernel⟩
theorem hyps_OutsideRequestsAreAnswered_8 : ∃ (s : State) (p : Fin 3) (a n pa : Nat) (bs : List Byte),
      s.memWf ∧
      0 < n ∧
      a % 128 + n ≤ 128 ∧
      pa % 128 = a % 128 ∧
      s.groupFailed pa = false ∧
      (s.prt p).st = .run ∧
      s.rangePa p a = none ∧
      bs.length = n :=
  ⟨owning, 0, 0x400000000000, 8, 0, [1, 2, 3, 4, 5, 6, 7, 8], by unfold State.memWf; decide +kernel,
    by decide +kernel⟩
theorem hyps_OutsideRequestsAreAnswered_9 : ∃ (s : State) (p : Fin 3) (a n pa : Nat),
      s.memWf ∧
      0 < n ∧
      a % 128 + n ≤ 128 ∧
      pa % 128 = a % 128 ∧
      s.groupFailed pa = false ∧
      s.tgen ≠ 0 ∧
      s.ownerOf a = some p ∧
      s.groupFailed a = false ∧
      s.twinMay a = true ∧
      s.twinMay (a + n - 1) = true :=
  ⟨twinGrant, 0, 0x1000, 8, 0x1000, by unfold State.memWf; decide +kernel, by decide +kernel⟩
theorem hyps_OutsideRequestsAreAnswered_10 : ∃ (s : State) (p : Fin 3) (a n pa : Nat) (bs : List Byte),
      s.memWf ∧
      0 < n ∧
      a % 128 + n ≤ 128 ∧
      pa % 128 = a % 128 ∧
      s.groupFailed pa = false ∧
      s.tgen ≠ 0 ∧
      s.ownerOf a = some p ∧
      s.groupFailed a = false ∧
      s.twinMay a = true ∧
      s.twinMay (a + n - 1) = true ∧
      bs.length = n :=
  ⟨twinGrant, 0, 0x1000, 8, 0x1000, [1, 2, 3, 4, 5, 6, 7, 8], by unfold State.memWf; decide +kernel,
    by decide +kernel⟩
theorem hyps_OutsideRequestsAreAnswered_11 : ∃ (s : State) (p : Fin 3) (a n pa : Nat),
      s.memWf ∧
      0 < n ∧
      a % 128 + n ≤ 128 ∧
      pa % 128 = a % 128 ∧
      s.groupFailed pa = false ∧
      s.tgen ≠ 0 ∧
      s.ownerOf a = some p ∧
      s.groupFailed a = false ∧
      s.twinMay a = false :=
  ⟨linked, 0, 0x1000, 8, 0x1000, by unfold State.memWf; decide +kernel, by decide +kernel⟩
theorem hyps_OutsideRequestsAreAnswered_12 : ∃ (s : State) (p : Fin 3) (vf : Fin 64) (off : BitVec 25) (v : Word),
      (s.prt p).st = .run ∧
      RegisterValue s p vf off.toNat v :=
  ⟨owning, 0, 5, 0x1000, _, by decide +kernel, .launchTail 5⟩
theorem hyps_OutsideRequestsAreAnswered_13 : ∃ (s : State) (p : Fin 3) (vf : Fin 64) (off : BitVec 25),
      ((s.prt p).st = .reset ∨ (s.prt p).st = .fault) ∧
      (s.hearthImage[p]).isSome :=
  ⟨faulted, 0, 5, 0x1000, .inr (by decide +kernel), by decide +kernel⟩
theorem hyps_OutsideRequestsAreAnswered_14 : ∃ (s : State) (via : SpdmPort) (i : _) (code : _) (params : _),
      (∀ p, via = .doe p → (s.prt p).st ≠ .off ∧ (s.hearthImage[p]).isSome) ∧
      SpdmRequest s i via code params :=
  ⟨u1, .mctp, (.challenge .mctp 1 77), 5, _, (fun _ h => nomatch h), .challenge .mctp 1 77⟩
theorem hyps_OutsideRequestsAreAnswered_15 : ∃ (s : State) (via : SpdmPort),
      (∀ p, via = .doe p → (s.prt p).st ≠ .off ∧ (s.hearthImage[p]).isSome) :=
  ⟨u1, .mctp, by decide +kernel⟩
theorem hyps_OutsideRequestsAreAnswered_16 : ∃ (s : State) (via : SpdmPort) (ver : BitVec 8) (asym hash : BitVec 32),
      (∀ p, via = .doe p → (s.prt p).st ≠ .off ∧ (s.hearthImage[p]).isSome) ∧
      (ver = 0x12 ∨ ver = 0x13) :=
  ⟨u1, .mctp, 0x13, 1, 1, by decide +kernel, .inr (by decide +kernel)⟩

end Sys2Proof.Tests
end

section
/-!
SUPPORT. The turn of a hart that has an instruction to run, and instructions that block their thread.
-/

namespace Sys2Proof.Machine

/-! ### One step of a hart -/

/-- A hart whose fetched word decodes executes the instruction, when no unfilled register holds it back (R41, R155). -/
theorem State.runInstr_of_fetch {s t : State} {w : Word} {i : Instr} (hf : s.fetch = (.ok w, t))
    (hd : decodeWord w = some i) (hu : t.unfilled i = false) : s.runInstr = exec i t := by
  simp [State.runInstr, hf, hd, hu]
/-- With nothing on the agenda, the current hart has the turn. -/
theorem step_runHart {s : State} (hd : s.tick.tickDue = false) (ha : s.tick.agenda = []) : step s = s.tick.runHart := by
  simp [step, hd, ha]
theorem State.runHart_instr {s : State} (h : s.duty = .instr) : s.runHart = s.runInstr := by
  simp [State.runHart, h]

/-! ### Blocking -/

/-- A thread that waits for nothing yet blocks with no effect (R25, R125). -/
theorem Blocks.of_block {s : State} (h : s.live) (hw : (if s.atS then s.me.sup.wait else s.me.wait) = none) (op : Nat)
    (w : WaitFor) (ends : Option Nat) (addr : Word) :
    ∃ t, s.block op w ends addr = .next t ∧ Blocks s t op w ends addr := by
  cases hs : s.atS
  · simp only [hs, Bool.false_eq_true, if_false] at hw
    refine ⟨_, by simp only [State.block, hs]; rfl, ?_⟩
    have ha : ∀ f : Hart → Hart, (∀ x, (f x).st = .blocked) → (s.modMe f).atS = false := fun f hf => by
      simp [State.atS, State.me_modMe h, hf]
    refine ⟨?_, ?_, ?_, fun l => State.byteAt_modMe s _ l, Frame.of_modMe h ?_⟩
    · simp [State.me_modMe h, hs]
    · simp [State.me_modMe h, hs, hw]
    · rw [State.pcv_user (ha _ fun _ => rfl), State.pcv_user hs, State.me_modMe h]
    · rw [hs]; rfl
  · simp only [hs, if_true] at hw
    refine ⟨_, by simp only [State.block, hs]; rfl, ?_⟩
    refine ⟨?_, ?_, ?_, fun l => State.byteAt_modMe s _ l, Frame.of_modMe h ?_⟩
    · simp [State.me_modSup h, hs]
    · simp [State.me_modSup h, hs, hw]
    · rw [State.pcv_sup ((State.atS_modSup h _).trans hs), State.pcv_sup hs, State.me_modSup h]
    · rw [hs]; rfl

/-- The key of a `TWAIT` that names no sibling is the ticket of its own job (R247). -/
theorem State.twaitKey_tj (s : State) (a b : Nat) :
    s.twaitKey .tj a b = if a < s.ticket s.cur then .job a else .bad := by
  unfold State.twaitKey
  cases s.myJob.spawnKey <;> cases s.family? s.myJob.p s.myJob.parent <;> rfl

/-- An instruction on a ring that the gang has, configured and without ERR, goes on to its own checks (R63, R123). -/
theorem State.onLiveRing_eq {s : State} {r : Fin 8} (hr : r.val < 2 * s.myGang.hn) (hc : s.myGang.rings[r].cfg = true)
    (he : s.myGang.rings[r].err = false) (op : Nat) (k : Ring → Res) : s.onLiveRing op r k = k s.myGang.rings[r] := by
  have hq : s.ring s.cur.gang r = s.myGang.rings[r] := rfl
  simp only [State.onLiveRing, State.onRing, if_neg (Nat.not_le.mpr hr), hq, hc, he, Bool.not_true, Bool.or_self,
    Bool.false_eq_true, if_false]
/-- An instruction on a channel that the hart's function may use (R293). -/
theorem State.onChannel_eq {s : State} {a : GOp} {c : Fin 256} (hc : (s.rg a).toNat = c.val)
    (hv : (s.prt s.myGang.p).tasks[c].valid = true) (hp : (s.prt s.myGang.p).tasks[c].perm.getLsbD s.myVf.val = true)
    (op : Nat) (k : Fin 256 → TaskEntry → Res) : s.onChannel op a k = k c (s.prt s.myGang.p).tasks[c] := by
  obtain ⟨c, hlt⟩ := c
  obtain rfl : (s.rg a).toNat = c := hc
  have hcond : ((s.prt s.myGang.p).tasks[(s.rg a).toNat].valid &&
      (s.prt s.myGang.p).tasks[(s.rg a).toNat].perm.getLsbD s.myVf.val) = true := by
    rw [Bool.and_eq_true]; exact ⟨hv, hp⟩
  simp only [State.onChannel, dif_pos hlt, if_pos hcond]
  rfl

/-- What an instruction does that finds nothing to go on with: it blocks, and no more. -/
theorem WaitOp.exec_eq {s : State} {i : Instr} {op : Nat} {w : WaitFor} {ends : Option Nat} {addr : Word}
    (h : WaitOp s i op w ends addr) : exec i s = s.block op w ends addr := by
  cases h with
  | wfe a hu h => simp [exec_wfe, execWfe, State.userOnly, hu, h]
  | bwait n hn hi h =>
    have hb : s.noBar n = false := by simpa [State.noBar] using hn
    have hp : phaseDone s.myGang.bars[n].ph s.me.wph[n] = false := decide_eq_false h
    have hm : s.myBar n = s.myGang.bars[n] := rfl
    simp only [exec_bwait, execBwait, State.onBar, hb, hm, hi, hp, Bool.not_true, Bool.false_eq_true, if_false]
  | rwait r hu hr hc he h =>
    have hempty : s.myGang.rings[r].empty_ = true := beq_iff_eq.mpr h
    simp only [exec_rwait, execRwait, State.userOnly, hu, State.onLiveRing_eq hr hc he, hempty, Bool.false_eq_true,
      if_false, if_true]
  | rcommit r a hu hr hc he hk hb h =>
    have hmax : ¬ maxBytes < (s.rg a).toNat := by unfold maxBytes; omega
    have hbad : ¬ (maxBytes < (s.rg a).toNat ∨ (s.myGang.rings[r].kind = 0 ∧ (s.rg a).toNat ≠ 0) ∨
        s.myGang.rings[r].kind = 2 ∨ s.myGang.rings[r].kind = 3) := by
      rcases hk with hk | ⟨hk, ha⟩
      · simp only [hmax, hk, false_or]; simp
      · simp only [hk, ha]; decide
    have hf : s.myGang.rings[r].full = true := decide_eq_true h
    simp only [exec_rcommit, execRcommit, State.userOnly, hu, State.onLiveRing_eq hr hc he, if_neg hbad, hf,
      Bool.false_eq_true, if_false, if_true]
  | hmsg a b c hc hv hp h => simp only [exec_hmsg, execHmsg, State.onChannel_eq hc hv hp, if_pos h]
  | twait a b k hu hj ha hb h =>
    simp [exec_twait, execTwait, hu, State.twaitKey_tj, ha, hb, State.twaitDone, h]
  | ld q d a l pin hp hc hr hw =>
    simp [exec_ld, execLd, hp, ldGen, State.genCheck_ok hc hr, hw]
  | st q d a l pin hp ht hc hr hw =>
    simp [exec_st, execSt, hp, stGen, State.ticketCheck, ht, State.genCheck_ok hc hr, stPlain, hw]

/-- Settles O4: with no event due, the turn goes to the current hart, which runs what it fetched. -/
theorem stepRunsTheDecodedInstruction : Obligations.StepRunsTheDecodedInstruction := by
  unfold Obligations.StepRunsTheDecodedInstruction
  intro s u t w i hu htick hagenda hduty hfetch hdecode hfill
  subst hu
  calc step s = s.tick.runHart := step_runHart htick hagenda
    _ = s.tick.runInstr := State.runHart_instr hduty
    _ = exec i t := State.runInstr_of_fetch hfetch hdecode hfill

/-- Settles O22: each such instruction is a block of its thread, which waits for nothing before. -/
theorem waitingInstructionsBlock : Obligations.WaitingInstructionsBlock := by
  unfold Obligations.WaitingInstructionsBlock
  intro s i op w ends addr h hl hw
  rw [h.exec_eq]
  exact Blocks.of_block hl hw op w ends addr

end Sys2Proof.Machine
end


section
/-!
SUPPORT. Changes of the state that no reader of a hart or gang can see, ordered scalar operations that wait in the commit
buffer, and the instructions on tickets.
-/

namespace Sys2Proof.Machine

/-! ### States that differ in nothing that is read by name -/

/-- `u` is `s` but for how its list of gangs is written: by its number, each gang reads the same. -/
structure State.Alike (s u : State) : Prop where
  device : ∃ gs, u = { s with gangs := gs }
  gang? : ∀ v, u.gang? v = s.gang? v

theorem State.Alike.refl (s : State) : s.Alike s := ⟨⟨s.gangs, rfl⟩, fun _ => rfl⟩
theorem State.Alike.trans {s u v : State} (h : s.Alike u) (k : u.Alike v) : s.Alike v := by
  obtain ⟨gs, rfl⟩ := h.device
  obtain ⟨hs, rfl⟩ := k.device
  exact ⟨⟨hs, rfl⟩, fun w => (k.gang? w).trans (h.gang? w)⟩
theorem State.Alike.cur {s u : State} (h : s.Alike u) : u.cur = s.cur := by
  obtain ⟨gs, rfl⟩ := h.device; rfl
theorem State.Alike.myGang {s u : State} (h : s.Alike u) : u.myGang = s.myGang := by
  unfold State.myGang State.gang; rw [h.gang?, h.cur]
theorem State.Alike.me {s u : State} (h : s.Alike u) : u.me = s.me := by
  rw [State.me_eq, State.me_eq]; simp only [h.myGang, h.cur]
theorem State.Alike.atS {s u : State} (h : s.Alike u) : u.atS = s.atS := by unfold State.atS; rw [h.me]
theorem State.Alike.pcv {s u : State} (h : s.Alike u) : u.pcv = s.pcv := by unfold State.pcv; rw [h.atS, h.me]
theorem State.Alike.rg {s u : State} (h : s.Alike u) (x : GOp) : u.rg x = s.rg x := by
  unfold State.rg; rw [h.atS, h.me]
theorem State.Alike.live {s u : State} (h : s.Alike u) (hl : s.live) : u.live := by
  obtain ⟨g, hg⟩ := hl; exact ⟨g, by rw [h.cur, h.gang?, hg]⟩
theorem State.Alike.job? {s u : State} (h : s.Alike u) (p : Fin 3) (id : Nat) : u.job? p id = s.job? p id := by
  obtain ⟨gs, rfl⟩ := h.device; rfl
theorem State.Alike.myJob {s u : State} (h : s.Alike u) : u.myJob = s.myJob := by
  unfold State.myJob State.jobOf; rw [h.myGang, h.job?]
theorem State.Alike.ticket {s u : State} (h : s.Alike u) : u.ticket u.cur = s.ticket s.cur := by
  rw [h.cur]; unfold State.ticket State.gang; rw [h.gang?]
theorem State.Alike.hasRight {s u : State} (h : s.Alike u) (j : Job) (t : Nat) (b : Bool) :
    u.hasRight j t b = s.hasRight j t b := by
  obtain ⟨gs, rfl⟩ := h.device; rfl
theorem State.Alike.commitUsed {s u : State} (h : s.Alike u) (c : Nat) : u.commitUsed c = s.commitUsed c := by
  obtain ⟨gs, rfl⟩ := h.device; rfl
theorem State.Alike.byteAt {s u : State} (h : s.Alike u) (l : Loc) : u.byteAt l = s.byteAt l := by
  obtain ⟨gs, rfl⟩ := h.device; rfl
theorem State.Alike.sansGangs {s u : State} (h : s.Alike u) :
    ({ u with gangs := [] } : State) = { s with gangs := [] } := by
  obtain ⟨gs, rfl⟩ := h.device; rfl

/-- A change of the hart that runs which leaves that hart as it is. -/
theorem State.Alike.of_modMe (s : State) {f : Hart → Hart} (hf : f s.me = s.me) : s.Alike (s.modMe f) := by
  refine ⟨⟨_, rfl⟩, fun v => ?_⟩
  by_cases hv : v = s.cur.gang
  · subst hv
    refine (State.gang?_modGang s s.cur.gang (fun g => { g with harts := vmod g.harts s.cur.rank f }) fun _ => rfl).trans ?_
    cases hg : s.gang? s.cur.gang with
    | none => rfl
    | some g =>
      have hme : g.harts[s.cur.rank] = s.me := by simp [State.me, State.hart, State.gang, hg]
      have : vmod g.harts s.cur.rank f = g.harts := by
        unfold vmod; rw [hme, hf, ← hme]; exact vput_self g.harts s.cur.rank
      simp [this]
  · exact State.gang?_modMe_other s f hv
/-- With no store on its way, a hart that lets its stores go changes nothing. -/
theorem State.Alike.of_drain {s : State} (h : s.me.stores = []) : s.Alike (s.drain s.cur) := by
  rw [State.drain_none h]
  exact State.Alike.of_modMe s (by rw [← h])
theorem State.Alike.of_release {s : State} (h : s.me.stores = []) : s.Alike s.release := State.Alike.of_drain h

/-- What is alike is a change so far, of which no part shows. -/
theorem Moved.of_alike {eh eo : Hart → Hart} {eg : Gang → Gang} {es : State → State} {s u : State} (hl : s.live)
    (h : s.Alike u) : Moved eh eo eg es s u s.byteAt where
  same := ⟨h.live hl, h.cur, h.atS, h.pcv, fun r => h.rg (some r), by rw [h.me]⟩
  frame :=
    { me := by rw [h.me]
      mates := fun r _ => by rw [h.myGang]
      gang := by rw [h.myGang]
      others := fun v _ => h.gang? v
      device := by rw [h.sansGangs] }
  memory := h.byteAt

/-! ### The commit right that a ticket does not hold -/

/-- Where no scope gives a ticket of a job the right, none of its entries is performed (R38). -/
theorem State.flush_of_noRight {s : State} {p : Fin 3} {job t : Nat}
    (h : ∀ j b, s.job? p job = some j → s.hasRight j t b = false) (n : Nat) : s.flush p job t n = s := by
  cases n with
  | zero => rfl
  | succ n =>
    unfold State.flush
    split
    · next hj => rw [h _ _ hj]; rfl
    · rfl
/-- The job of the running hart's gang, where it is in flight. -/
theorem State.myJob_eq {s : State} {j : Job} (h : s.job? s.myGang.p s.myGang.job = some j) : s.myJob = j := by
  simp [State.myJob, State.jobOf, h]
/-- The entries of a hart without the right stay where they are, and its next operation is not performed at once. -/
theorem State.noRight_waits {s : State} (h : ∀ b, s.hasRight s.myJob (s.ticket s.cur) b = false) (n : Nat) (tree : Bool) :
    s.flush s.myGang.p s.myGang.job (s.ticket s.cur) n = s ∧ s.direct tree = false := by
  refine ⟨State.flush_of_noRight (fun j b hj => ?_) n, ?_⟩
  · rw [← State.myJob_eq hj]; exact h b
  · simp [State.direct, h tree]

/-! ### One entry in the commit buffer -/

/-- One element group enters the commit buffer while it has room (R40). -/
theorem State.buffer_one {s : State} (h : s.commitUsed s.myGang.core < 1024) (tree vec acq em : Bool) (pins : List Pin)
    (g : List OrdElem × Fill) :
    s.buffer tree vec acq em pins [g] = some (s.addEntries tree vec acq em 0 pins [g]) := by
  unfold State.buffer
  exact if_pos (show s.commitUsed s.myGang.core + 1 ≤ commitEntries by unfold commitEntries; omega)
/-- An acquire where the instruction is one. -/
theorem State.acquire_if (s : State) (b : Bool) :
    (if b = true then s.acquire else s) = s.modMe fun x => if b = true then { x with cache := [] } else x := by
  cases b
  · exact (State.modMe_id s).symm
  · rfl

/-- An instruction at U that enters one group into the commit buffer, changes only the cache and the fills of its hart,
and retires. -/
theorem Buffered.of_modMe {s u : State} (hl : s.live) (hs : s.atS = false) (hu : s.Alike u) (tree acq : Bool) (e : OrdElem)
    (f : Fill) (pin : Pin) (F : Hart → Hart)
    (hF : ∀ x, ({ F x with cache := [], fillG := [] } : Hart) = { x with cache := [], fillG := [] })
    (hw : ∀ r : Fin 32, (r, s.nextEntry) ∈ (F s.me).fillG ↔
      match f with
      | .g (some d) wide _ => r = d ∨ (wide = true ∧ r = d + 1) ∨ (r, s.nextEntry) ∈ s.me.fillG
      | _ => (r, s.nextEntry) ∈ s.me.fillG) :
    Buffered s ((u.addEntries tree false acq acq 0 [pin] [([e], f)]).modMe F).retired tree acq e f pin := by
  generalize hv : u.addEntries tree false acq acq 0 [pin] [([e], f)] = v
  have hent : v.entries = s.entries ++
      [{ num := s.nextEntry, p := s.myGang.p, job := s.myGang.job, tree := tree && s.myJob.spawnKey.isSome,
         ticket := s.myGang.index * s.myGang.hn + s.cur.rank.val, h := s.cur, core := s.myGang.core, place := 0,
         elems := [e], fill := f, pins := [pin], vec := false, acq := acq, empties := acq }] := by
    have h1 := hu.myGang
    have h2 := hu.myJob
    have h3 := hu.ticket
    obtain ⟨gs, rfl⟩ := hu.device
    subst hv
    simp only [State.addEntries, h1, h2, h3]
    rfl
  have hnext : v.nextEntry = s.nextEntry + 1 := by
    obtain ⟨gs, rfl⟩ := hu.device; subst hv; rfl
  have hmoved : Moved (fun h => { h with cache := [], fillG := [] }) hideNone hideNone
      (fun u => { u with entries := [], nextEntry := 0 }) s v s.byteAt := by
    refine (Moved.of_alike hl hu).device ?_ ?_ ?_ fun l => ?_
    · subst hv; rfl
    · subst hv; rfl
    · subst hv; rfl
    · subst hv; exact hu.byteAt l
  have field : ∀ {α : Type} (k : Hart → α), (∀ x, k { x with cache := [], fillG := [] } = k x) → ∀ x, k (F x) = k x :=
    fun k hk x => by rw [← hk (F x), hF, hk]
  have hm2 := hmoved.modMe F
    (fun x b => by
      have hsans : ∀ y : Hart, ({ y.sans b with cache := [], fillG := [] } : Hart) =
          Hart.sans b { y with cache := [], fillG := [] } := fun y => by cases b <;> rfl
      show ({ (F x).sans b with cache := [], fillG := [] } : Hart) = { x.sans b with cache := [], fillG := [] }
      rw [hsans, hsans, hF])
    (field Hart.st fun _ => rfl) (field Hart.pc fun _ => rfl) (field (fun x => x.sup.pc) fun _ => rfl)
    (field Hart.g fun _ => rfl) (field (fun x => x.sup.g) fun _ => rfl) (field Hart.fcsr fun _ => rfl)
  have hat : (v.modMe F).atS = false := hm2.same.atS.trans hs
  have hme : (v.modMe F).me = F s.me := by
    rw [State.me_modMe hmoved.same.live]
    have : v.me = s.me := by subst hv; exact hu.me
    rw [this]
  have hret : (v.modMe F).retired = (v.modMe F).modMe fun x => x.retire ((v.modMe F).pcv + 8) := State.goto_user hat _
  have hfill : (v.modMe F).retired.me.fillG = (F s.me).fillG := by
    rw [hret, State.me_modMe hm2.same.live, hme]; rfl
  refine ⟨by rw [hret]; exact hent, by rw [hret]; exact hnext, hm2.retire, fun r => ?_⟩
  have hr := hw r
  rw [← hfill] at hr
  cases f with
  | none => exact hr
  | g d wide sx => cases d <;> exact hr
  | v d sx => exact hr

/-! ### Ordered scalar operations -/

theorem State.rgWide_eq_operandOf (s : State) (n : Nat) (x : GOp) : s.rgWide n x = s.operandOf n x := by
  unfold State.rgWide State.operandOf
  by_cases h : n = 16
  · subst h; cases x <;> rfl
  · rw [if_neg h]
    split
    · exact absurd rfl h
    · exact absurd rfl h
    · rfl

/-- The scalar atomics share one meaning (R181, R182). -/
theorem AtomOp.exec_eq {s : State} {i : Instr} {op : Nat} {x : MemX} {n : Nat} {d : GOp} {ea : Word} {ok : PageKind → Bool}
    {f : Nat → Option Nat} {o : OrdOp} (h : AtomOp s i op x n d ea ok f o) :
    ∃ a, s.rg a = ea ∧ exec i s = atomGen op x n a o ok d s := by
  cases h with
  | amo o x d a b =>
    refine ⟨a, rfl, ?_⟩
    rw [exec_amo, execAmo]
    exact congrArg (fun ok => atomGen 8 x (Sz.bytes x.sz) a (.amo o (s.rg b)) ok d s)
      (funext fun k => by cases k <;> rfl)
  | cas x d a b c =>
    refine ⟨a, rfl, ?_⟩
    simp only [exec_cas, execCas, State.rgWide_eq_operandOf]

/-- After its ticket is sealed, an ordered scalar operation raises TICKET with its address (R39). -/
theorem OrderedOp.exec_sealed {s : State} {i : Instr} {op : Nat} {tk : Tick} {ord : MOrd} {ea : Word} {n : Nat}
    {ok : PageKind → Bool} {o : OrdOp} {f : Fill} (h : OrderedOp s i op tk ord ea n ok o f) (ht : tk ≠ .no)
    (hs : s.me.sealed = true) : op < 128 ∧ exec i s = s.raise op { c := .ticket, addr := ea } := by
  have check : ∀ ea, s.ticketCheck tk ea = some { c := .ticket, addr := ea } := fun ea => by
    simp [State.ticketCheck, ht, hs]
  cases h with
  | st q d a hq => exact ⟨by omega, by simp [exec_st, execSt, hq, stGen, check]⟩
  | atom i op x n d ea ok f o h =>
    have hop : op < 128 := by cases h <;> omega
    obtain ⟨a, rfl, he⟩ := h.exec_eq
    exact ⟨hop, by rw [he]; simp only [atomGen, check]⟩

/-- What a hart has after an ordered atomic without the right (R41): its destination waits for the fill. -/
theorem Hart.mem_awaitG (h : Hart) (n : Nat) (x : GOp) (num : Nat) (r : Fin 32) : (r, num) ∈ (h.awaitG n x num).fillG ↔
    match x with
    | some d => r = d ∨ (n = 16 ∧ r = d + 1) ∨ (r, num) ∈ h.fillG
    | none => (r, num) ∈ h.fillG := by
  cases x with
  | none => rfl
  | some d =>
    by_cases hn : n = 16
    · simp only [Hart.awaitG, hn, if_true, List.mem_append, List.mem_filter, List.mem_map, List.mem_cons, List.not_mem_nil]
      grind
    · simp only [Hart.awaitG, hn, if_false, List.mem_append, List.mem_filter, List.mem_map, List.mem_cons, List.not_mem_nil]
      grind

section
variable {s : State} (hr : ∀ b, s.hasRight s.myJob (s.ticket s.cur) b = false)
  (hroom : s.commitUsed s.myGang.core < 1024)
include hr hroom

/-- A hart without the right, whatever of its stores it lets go first, finds room for one group of its operation. -/
theorem State.Alike.buffers {u : State} (hu : s.Alike u) (tree acq : Bool) (pin : Pin) (g : List OrdElem × Fill) :
    u.flush u.myGang.p u.myGang.job (u.ticket u.cur) u.entries.length = u ∧ u.direct tree = false ∧
      u.buffer tree false acq acq [pin] [g] = some (u.addEntries tree false acq acq 0 [pin] [g]) := by
  have hr' : ∀ b, u.hasRight u.myJob (u.ticket u.cur) b = false := fun b => by rw [hu.hasRight, hu.myJob, hu.ticket, hr]
  obtain ⟨h1, h2⟩ := State.noRight_waits hr' u.entries.length tree
  exact ⟨h1, h2, State.buffer_one (by rw [hu.commitUsed, hu.myGang]; exact hroom) _ _ _ _ _ _⟩

variable (hl : s.live) (hc : s.calm) (hs : s.atS = false) (hd : s.myGang.diverged = false)
include hl hc hs hd

/-- An ordered store without the right enters the commit buffer (R40, R180). -/
theorem stTicket_buffers (q : LdSt) (d : GOp) (ea : Word) (l : Loc) (pin : Pin) (n : Nat) :
    ∃ t, stTicket q d ea l pin n s = .next t ∧ Buffered s t (q.t == .tt) (acquires q.ord)
      { e := 0, loc := l, n := n, op := .store (bytesOfNat n (s.rg d).toNat) } .none pin := by
  obtain ⟨u, hdef, hu⟩ : ∃ u, (if releases q.ord then s.release else s).drain
      (if releases q.ord then s.release else s).cur = u ∧ s.Alike u := by
    refine ⟨_, rfl, ?_⟩
    split
    · have h1 := State.Alike.of_release hc.2
      exact h1.trans (State.Alike.of_drain (by rw [h1.me]; exact hc.2))
    · exact State.Alike.of_drain hc.2
  obtain ⟨h1, h2, h3⟩ := State.Alike.buffers hr hroom hu (q.t == .tt) (acquires q.ord) pin
    ([{ e := 0, loc := l, n := n, op := .store (bytesOfNat n (s.rg d).toNat) }], .none)
  refine ⟨_, ?_, Buffered.of_modMe hl hs hu _ _ _ .none pin
    ((fun x => if acquires q.ord = true then { x with cache := [] } else x) ∘ fun x =>
      x.cachePut l (bytesOfNat n (s.rg d).toNat)) (fun x => ?_) fun r => ?_⟩
  · simp only [stTicket, State.pair, hd, hdef, h1, h2, h3, Bool.false_eq_true, if_false, State.acquire_if,
      State.modMe_modMe]
    rfl
  · simp only [Function.comp]; split <;> rfl
  · simp only [Function.comp]; split <;> rfl

/-- An ordered atomic without the right enters the commit buffer (R40, R183). -/
theorem atomAt_buffers (op : Nat) (x : MemX) (n : Nat) (ea : Word) (o : OrdOp) (d : GOp) (l : Loc) (pin : Pin)
    (ht : x.t ≠ .no) :
    ∃ t, atomAt op x n ea o d l pin s = .next t ∧ Buffered s t (x.t == .tt) (acquires x.ord)
      { e := 0, loc := l, n := n, op := o } (.g d (n == 16) x.sx) pin := by
  obtain ⟨u, hdef, hu⟩ : ∃ u, s.drain s.cur = u ∧ s.Alike u := ⟨_, rfl, State.Alike.of_drain hc.2⟩
  obtain ⟨h1, h2, h3⟩ := State.Alike.buffers hr hroom hu (x.t == .tt) (acquires x.ord) pin
    ([{ e := 0, loc := l, n := n, op := o }], .g d (n == 16) x.sx)
  have hnum : u.nextEntry = s.nextEntry := by obtain ⟨gs, rfl⟩ := hu.device; rfl
  refine ⟨_, ?_, Buffered.of_modMe hl hs hu _ _ _ (.g d (n == 16) x.sx) pin
    ((fun y => y.awaitG n d s.nextEntry) ∘ fun y => if acquires x.ord = true then { y with cache := [] } else y)
    (fun y => ?_) fun r => ?_⟩
  · simp only [atomAt, State.pair, hd, ht, hdef, h1, h2, h3, hnum, Bool.false_eq_true, if_false, false_and, or_self,
      State.acquire_if, State.modMe_modMe]
    rfl
  · simp only [Function.comp]; cases d <;> split <;> rfl
  · have hkeep : (if acquires x.ord = true then { s.me with cache := [] } else s.me).fillG = s.me.fillG := by
      split <;> rfl
    simp only [Function.comp, Hart.mem_awaitG, hkeep]
    cases d <;> simp

end

/-- Settles O19: stores and atomics alike reach the commit buffer with their checks passed. -/
theorem orderedScalarsWaitInTheCommitBuffer : Obligations.OrderedScalarsWaitInTheCommitBuffer := by
  unfold Obligations.OrderedScalarsWaitInTheCommitBuffer
  intro s i op tk ord ea n ok o f l pin h hl hc hs ht hcheck hr hd hreach hok hroom
  have hcheck' : ∀ ea, s.ticketCheck tk ea = none := fun ea => by
    simp only [State.ticketCheck] at hcheck ⊢
    split at hcheck
    · cases hcheck
    · next hn => exact if_neg hn
  cases h with
  | st q d a hq =>
    obtain ⟨t, he, hb⟩ := stTicket_buffers hr hroom hl hc hs hd q d (LdSt.ea q (s.rg a)) l pin (LdSt.bytes q)
    refine ⟨t, ?_, hb⟩
    simp only [exec_st, execSt, hq, stGen, hcheck', State.genCheck_ok hc.1 hreach, if_neg ht, Bool.false_eq_true, if_false]
    exact he
  | atom i op x n d ea ok f o h =>
    obtain ⟨a, rfl, hexec⟩ := h.exec_eq
    obtain ⟨t, he, hb⟩ := atomAt_buffers hr hroom hl hc hs hd op x n (s.rg a) o d l pin ht
    refine ⟨t, ?_, hb⟩
    rw [hexec]
    simp only [atomGen, hcheck', State.genCheck_ok hc.1 hreach, hok, if_true]
    exact he

/-! ### Tickets -/

/-- A job found by its number after a change of it. -/
theorem State.job?_modJob (s : State) (p : Fin 3) (id : Nat) (f : Job → Job) (hf : ∀ j, (f j).p = j.p ∧ (f j).id = j.id) :
    (s.modJob p id f).job? p id = (s.job? p id).map f := by
  simp only [State.job?, State.modJob]
  induction s.jobs with
  | nil => rfl
  | cons j r ih =>
    by_cases h : j.p = p ∧ j.id = id
    · simp [h, hf]
    · have : ¬ (j.p = p → j.id = id) ∨ ¬ (j.p = p ∧ j.id = id) := .inr h
      simp only [List.map_cons, if_neg h, List.find?_cons]
      have hn : (j.p == p && j.id == id) = false := by simpa using h
      rw [hn]; exact ih

/-- A sealed ticket is in its job's list, which keeps the others; nothing else of the job changes (R38). -/
theorem State.job?_sealTicket {s : State} {p : Fin 3} {job : Nat} {j : Job} (h : s.job? p job = some j) (t : Nat) :
    ∃ j', (s.sealTicket p job t).job? p job = some j' ∧ t ∈ j'.sealedT ∧
      { j' with sealedT := [] } = { j with sealedT := [] } ∧ ∀ k ∈ j.sealedT, k ∈ j'.sealedT := by
  have hj := State.job?_modJob s p job
    (fun j => if j.sealedT.contains t then j else { j with sealedT := j.sealedT ++ [t] })
    (fun j => by split <;> exact ⟨rfl, rfl⟩)
  rw [h] at hj
  refine ⟨_, hj, ?_⟩
  by_cases hc : j.sealedT.contains t = true
  · simp only [hc, if_true]
    exact ⟨List.contains_iff_mem.mp hc, trivial, fun k hk => hk⟩
  · simp only [hc]
    exact ⟨by simp, rfl, fun k hk => by simp [hk]⟩

/-- TSEAL seals the hart and its ticket, and retires (R246). -/
theorem execTseal_seals {s : State} {j : Job} (hl : s.live) (hs : s.atS = false)
    (hj : s.job? s.myGang.p s.myGang.job = some j) :
    ∃ t, exec .tseal s = .next t ∧ t.me.sealed = true ∧
      (∃ j', t.job? s.myGang.p s.myGang.job = some j' ∧ s.ticket s.cur ∈ j'.sealedT ∧
        { j' with sealedT := [] } = { j with sealedT := [] } ∧ ∀ k ∈ j.sealedT, k ∈ j'.sealedT) ∧
      StepBut (fun h => { h with sealed := false }) hideNone hideNone (fun u => { u with jobs := [] }) s t s.byteAt := by
  generalize hu : s.modMe (fun h => { h with sealed := true }) = u
  have hmv : Moved (fun h => { h with sealed := false }) hideNone hideNone (fun u => { u with jobs := [] }) s u s.byteAt := by
    subst hu
    exact (Moved.refl hl).modMe _ (fun x b => by cases b <;> rfl) (fun _ => rfl) (fun _ => rfl) (fun _ => rfl) (fun _ => rfl)
      (fun _ => rfl) fun _ => rfl
  have hju : u.job? s.myGang.p s.myGang.job = some j := by subst hu; exact hj
  generalize hv : u.sealTicket s.myGang.p s.myGang.job (s.ticket s.cur) = v
  have hmv2 : Moved (fun h => { h with sealed := false }) hideNone hideNone (fun u => { u with jobs := [] }) s v s.byteAt := by
    subst hv; exact hmv.device rfl rfl rfl hmv.memory
  have hsealed : v.me.sealed = true := by
    have : v.me = u.me := by subst hv; rfl
    rw [this, ← hu, State.me_modMe hl]
  have hret : v.retired = v.modMe fun x => x.retire (v.pcv + 8) := State.goto_user (hmv2.same.atS.trans hs) _
  refine ⟨v.retired, ?_, ?_, ?_, hmv2.retire⟩
  · simp only [exec_tseal, execTseal, hs, Bool.false_eq_true, if_false, hu, hv]; rfl
  · rw [hret, State.me_modMe hmv2.same.live]; exact hsealed
  · rw [hret, ← hv]; exact State.job?_sealTicket hju _

/-- TWAIT on a lower ticket that the right has passed is an acquire (R43, R247). -/
theorem execTwait_passed {s : State} (hl : s.live) (hs : s.atS = false) {a b : GOp}
    (ha : (s.rg a).toNat < s.ticket s.cur) (hp : s.passed s.myGang.p s.myGang.job (s.rg a).toNat = true) :
    ∃ t, exec (.twait .tj a b) s = .next t ∧ t.me.cache = [] ∧
      StepBut Hart.sansCache hideNone hideNone hideNone s t s.byteAt := by
  have hm : Moved Hart.sansCache hideNone hideNone hideNone s s.acquire s.byteAt := (Moved.refl hl).acquire
  have hret : s.acquire.retired = s.acquire.modMe fun x => x.retire (s.acquire.pcv + 8) :=
    State.goto_user (hm.same.atS.trans hs) _
  refine ⟨s.acquire.retired, ?_, ?_, hm.retire⟩
  · simp only [exec_twait, execTwait, hs, State.twaitKey_tj, if_pos ha, State.twaitDone, hp, Bool.false_eq_true, if_false,
      if_true]
    rfl
  · have hme : s.acquire.me = { s.me with cache := [] } := State.me_modMe hl _
    rw [hret, State.me_modMe hm.same.live, hme]; rfl

/-- Settles O27, clause by clause. -/
theorem ticketsAreSealedAndAwaited : Obligations.TicketsAreSealedAndAwaited := by
  unfold Obligations.TicketsAreSealedAndAwaited
  refine ⟨fun s j hl hs hj => execTseal_seals hl hs hj, fun s a b hl hs ha hp => execTwait_passed hl hs ha hp, ?_, ?_⟩
  · intro s a b hl hs hv ha
    have he : exec (.twait .tj a b) s = s.raise 0x54 (trap .ticket) := by
      simp only [exec_twait, execTwait, hs, State.twaitKey_tj, if_neg (Nat.not_lt.mpr ha), Bool.false_eq_true, if_false]
    rw [he]
    exact State.raise_user hl hs hv 0x54 (trap .ticket) (by decide) (by decide) (by decide) (by decide)
  · intro s i op tk ord ea n ok o f h hl hs hv ht hsealed
    obtain ⟨hop, he⟩ := h.exec_sealed ht hsealed
    rw [he]
    exact State.raise_user hl hs hv op { c := .ticket, addr := ea } hop (Nat.zero_lt_succ _)
      (Nat.zero_lt_succ _) (Nat.zero_lt_succ _)

end Sys2Proof.Machine
end


section
/-!
SUPPORT. How a gang settles once its harts are over, and how harts spawn, end and are killed.
-/

namespace Sys2Proof.Machine

/-! ### Jobs by number -/

/-- Jobs changed one by one are found by the numbers that they keep. -/
theorem State.job?_map {s t : State} (F : Job → Job) (ht : t.jobs = s.jobs.map F)
    (hF : ∀ j, (F j).p = j.p ∧ (F j).id = j.id) (p : Fin 3) (id : Nat) : t.job? p id = (s.job? p id).map F := by
  unfold State.job?
  rw [ht]
  induction s.jobs with
  | nil => rfl
  | cons j r ih =>
    obtain ⟨hp, hid⟩ := hF j
    by_cases h : (j.p == p && j.id == id) = true
    · simp [hp, hid, h]
    · have h' : (j.p == p && j.id == id) = false := by simpa using h
      simp only [List.map_cons, List.find?_cons, hp, hid, h']
      exact ih

/-- A later version of a job, with its number, its cause and its sealed tickets. -/
structure Job.Keeps (j k : Job) : Prop where
  p : k.p = j.p
  id : k.id = j.id
  cause : k.cause = j.cause
  sealedT : k.sealedT = j.sealedT
theorem Job.Keeps.refl (j : Job) : j.Keeps j := ⟨rfl, rfl, rfl, rfl⟩
theorem Job.Keeps.ite {c : Prop} [Decidable c] {j k : Job} (h : j.Keeps k) : j.Keeps (if c then k else j) := by
  split
  · exact h
  · exact Job.Keeps.refl j
/-- The jobs of `t` are those of `s`, with their numbers, causes and sealed tickets. -/
def State.keepsJobs (s t : State) : Prop := ∃ F : Job → Job, t.jobs = s.jobs.map F ∧ ∀ j : Job, j.Keeps (F j)

theorem State.keepsJobs.refl (s : State) : s.keepsJobs s := ⟨id, by simp, Job.Keeps.refl⟩
theorem State.keepsJobs.trans {s t u : State} (h : s.keepsJobs t) (k : t.keepsJobs u) : s.keepsJobs u := by
  obtain ⟨F, hF, hf⟩ := h
  obtain ⟨G, hG, hg⟩ := k
  refine ⟨G ∘ F, by rw [hG, hF, List.map_map], fun j => ?_⟩
  have a := hf j
  have b := hg (F j)
  exact ⟨b.p.trans a.p, b.id.trans a.id, b.cause.trans a.cause, b.sealedT.trans a.sealedT⟩
/-- A change of a job that keeps its number, its cause and its sealed tickets. -/
theorem State.keepsJobs.of_modJob (s : State) (p : Fin 3) (id : Nat) {f : Job → Job}
    (hf : ∀ j : Job, j.Keeps (f j)) : s.keepsJobs (s.modJob p id f) :=
  ⟨fun j => if j.p = p ∧ j.id = id then f j else j, rfl, fun j => (hf j).ite⟩
theorem State.keepsJobs.job? {s t : State} (h : s.keepsJobs t) {p : Fin 3} {id : Nat} {j : Job}
    (hj : s.job? p id = some j) : ∃ j', t.job? p id = some j' ∧ j'.cause = j.cause ∧ j'.sealedT = j.sealedT := by
  obtain ⟨F, hF, hf⟩ := h
  refine ⟨F j, ?_, (hf j).cause, (hf j).sealedT⟩
  rw [State.job?_map F hF (fun j => ⟨(hf j).p, (hf j).id⟩), hj]; rfl

/-! ### A gang that settles (R26) -/

/-- A hart without its tiles. -/
def Hart.sansTiles (h : Hart) : Hart := { h with acc := Vector.replicate 4 none }
/-- A gang that is over, its tiles given back. -/
def Gang.spent (g : Gang) : Gang := { g with phase := .over, harts := g.harts.map Hart.sansTiles }

/-- All that settling a gang can do: nothing to the gangs, or the gang is spent; of its job, the states and counts. -/
structure Settles (s t : State) (u : Nat) : Prop where
  gangs : t.gangs = s.gangs ∨ t.gangs = (s.modGang u Gang.spent).gangs
  jobs : s.keepsJobs t
  rest : ({ t with gangs := [], jobs := [] } : State) = { s with gangs := [], jobs := [] }

theorem State.settleGang_settles (s : State) (u : Nat) : Settles s (s.settleGang u) u := by
  unfold State.settleGang
  split
  · exact ⟨.inl rfl, State.keepsJobs.refl s, rfl⟩
  · split
    · refine ⟨.inr rfl, ?_, rfl⟩
      have h1 : s.keepsJobs (s.modGang u Gang.spent) := State.keepsJobs.refl s
      refine (h1.trans (State.keepsJobs.of_modJob _ _ _ fun j => ?_)).trans (State.keepsJobs.of_modJob _ _ _ fun j => ?_)
      · exact Job.Keeps.ite ⟨rfl, rfl, rfl, rfl⟩
      · exact Job.Keeps.ite ⟨rfl, rfl, rfl, rfl⟩
    · exact ⟨.inl rfl, State.keepsJobs.refl s, rfl⟩

theorem Settles.cur {s t : State} {u : Nat} (h : Settles s t u) : t.cur = s.cur := by
  have := congrArg State.cur h.rest; exact this
theorem Settles.byteAt {s t : State} {u : Nat} (h : Settles s t u) (l : Loc) : t.byteAt l = s.byteAt l := by
  have := congrArg (fun x : State => x.byteAt l) h.rest; exact this
theorem Settles.gang?_other {s t : State} {u v : Nat} (h : Settles s t u) (hv : v ≠ u) : t.gang? v = s.gang? v := by
  rcases h.gangs with e | e
  · exact State.gang?_gangs e v
  · exact (State.gang?_gangs e v).trans (State.gang?_modGang_other s u v Gang.spent (fun _ => rfl) hv)
theorem Settles.gang? {s t : State} {u : Nat} {g : Gang} (h : Settles s t u) (hg : s.gang? u = some g) :
    t.gang? u = some g ∨ t.gang? u = some g.spent := by
  rcases h.gangs with e | e
  · exact .inl ((State.gang?_gangs e u).trans hg)
  · refine .inr ((State.gang?_gangs e u).trans ?_)
    rw [State.gang?_modGang s u Gang.spent fun _ => rfl, hg]; rfl
theorem Gang.spent_harts (g : Gang) (r : Fin 4) : g.spent.harts[r] = g.harts[r].sansTiles := by
  simp [Gang.spent]
/-- A hart of a gang that settles loses at most its tiles. -/
theorem Settles.hart {s t : State} {h : HartId} (k : Settles s t h.gang) (hl : (s.at_ h).live) :
    t.hart h = s.hart h ∨ t.hart h = (s.hart h).sansTiles := by
  obtain ⟨g, hg⟩ := hl
  have hg' : s.gang? h.gang = some g := hg
  have hs : s.hart h = g.harts[h.rank] := by simp [State.hart, State.gang, hg']
  rcases k.gang? hg' with e | e
  · left; rw [hs]; simp [State.hart, State.gang, e]
  · right; rw [hs, ← Gang.spent_harts]; simp [State.hart, State.gang, e]

/-- What settling the running hart's gang hides: tiles, the gang's phase, and its job. -/
theorem Settles.frame {s t : State} (h : Settles s t s.cur.gang) (hl : s.live) :
    Frame Hart.sansTiles Hart.sansTiles (fun g => { g with phase := .placed }) (fun u => { u with jobs := [] }) s t := by
  have hg := State.gang_of_live hl
  have hmy : t.myGang = s.myGang ∨ t.myGang = s.myGang.spent := by
    have hmy : t.myGang = (t.gang? s.cur.gang).getD Gang.blank := by unfold State.myGang State.gang; rw [h.cur]
    rcases h.gang? hg with e | e
    · left; rw [hmy, e]; rfl
    · right; rw [hmy, e]; rfl
  have hharts : ∀ r : Fin 4, t.myGang.harts[r].sansTiles = s.myGang.harts[r].sansTiles := fun r => by
    rcases hmy with e | e
    · rw [e]
    · rw [e, Gang.spent_harts]; rfl
  refine ⟨?_, fun r _ => hharts r, ?_, fun v hv => h.gang?_other hv, ?_⟩
  · have hme : t.me.sansTiles = s.me.sansTiles := by
      rw [State.me_eq, State.me_eq]; simp only [h.cur]; exact hharts s.cur.rank
    have comm : ∀ (b : Bool) (x : Hart), (x.sans b).sansTiles = x.sansTiles.sans b := fun b x => by cases b <;> rfl
    rw [comm, comm, hme]
  · rcases hmy with e | e <;> rw [e]
    rfl
  · exact h.rest

/-! ### JEND (R26, R292) -/

/-- The states that `JEND` goes through before the sweeps close. -/
theorem execJend_eq {s : State} (hs : s.atS = false) (hd : s.myGang.diverged = false) :
    ∃ u v w, u = s.release.modMe Hart.end_ ∧ v = u.sealTicket s.myGang.p s.myGang.job (s.ticket s.cur) ∧
      w = v.settleGang s.myGang.uid ∧
      (exec .jend s = .next w ∨ exec .jend s = .next (w.closeSweeps s.myGang.p s.myGang.job)) := by
  refine ⟨_, _, _, rfl, rfl, rfl, ?_⟩
  simp only [exec_jend, execJend, State.userOnly, hs, State.pair, hd, Bool.false_eq_true, if_false]
  split
  · exact .inr rfl
  · exact .inl rfl

/-- The running hart's gang has the number by which it is found. -/
theorem State.myGang_uid {s : State} (h : s.live) : s.myGang.uid = s.cur.gang := by
  have := List.find?_some (State.gang_of_live h)
  simpa using this

/-- What of a gang and of the device `JEND` may change. -/
def Gang.sansPhase (g : Gang) : Gang := { g with phase := .placed }
def State.sansEnded (u : State) : State := { u with jobs := [], sweeps := Vector.replicate 4 Sweep.empty }

/-- What `JEND` leaves (R26, R292). -/
structure JendLeaves (s t : State) : Prop where
  me : t.me.sansTiles = s.me.end_.sansTiles
  sealed_ : ∀ j, s.job? s.myGang.p s.myGang.job = some j →
    ∃ j', t.job? s.myGang.p s.myGang.job = some j' ∧ s.ticket s.cur ∈ j'.sealedT
  memory : ∀ l, t.byteAt l = s.byteAt l
  frame : Frame Hart.sansEnd Hart.sansTiles Gang.sansPhase State.sansEnded s t

theorem State.sansEnded_sealTicket (u : State) (p : Fin 3) (job t : Nat) :
    State.sansEnded { u.sealTicket p job t with gangs := [] } = State.sansEnded { u with gangs := [] } := rfl
theorem State.sansEnded_closeSweeps (u : State) (p : Fin 3) (job : Nat) :
    State.sansEnded { u.closeSweeps p job with gangs := [] } = State.sansEnded { u with gangs := [] } := rfl
theorem State.sansEnded_of_jobs {u v : State} (h : ({ u with jobs := [] } : State) = { v with jobs := [] }) :
    u.sansEnded = v.sansEnded :=
  congrArg (fun x : State => { x with sweeps := Vector.replicate 4 Sweep.empty }) h
theorem Hart.sansEnd_of_sansTiles {x y : Hart} (h : x.sansTiles = y.sansTiles) : x.sansEnd = y.sansEnd := by
  have := congrArg Hart.sansEnd h
  exact this

theorem JendLeaves.closeSweeps {s t : State} (h : JendLeaves s t) (hc : t.cur = s.cur) (ha : t.atS = s.atS) (p : Fin 3)
    (job : Nat) : JendLeaves s (t.closeSweeps p job) :=
  ⟨h.me, h.sealed_, h.memory, h.frame.trans (Frame.of_device rfl rfl (State.sansEnded_closeSweeps t p job)) hc ha⟩

theorem JendFrame.of_settles {s t : State} (h : Settles s t s.cur.gang) (hl : s.live) :
    Frame Hart.sansEnd Hart.sansTiles Gang.sansPhase State.sansEnded s t :=
  (h.frame hl).weaken (fun _ _ => Hart.sansEnd_of_sansTiles) (fun _ _ e => e) (fun _ _ e => e) fun _ _ =>
    State.sansEnded_of_jobs
theorem Hart.sansEnd_end_ (x : Hart) (b : Bool) : Hart.sansEnd (x.end_.sans b) = Hart.sansEnd (x.sans b) := by
  cases b <;> rfl
/-- The end of the running hart shows in its own state only. -/
theorem JendFrame.of_end {s : State} (hl : s.live) :
    Frame Hart.sansEnd Hart.sansTiles Gang.sansPhase State.sansEnded s (s.modMe Hart.end_) :=
  (Frame.of_modMe hl (Hart.sansEnd_end_ _ _)).weaken (fun _ _ e => e) (fun _ _ => congrArg Hart.sansTiles)
    (fun _ _ => congrArg Gang.sansPhase) fun _ _ => congrArg State.sansEnded
theorem JendFrame.of_sealTicket (s : State) (p : Fin 3) (job t : Nat) :
    Frame Hart.sansEnd Hart.sansTiles Gang.sansPhase State.sansEnded s (s.sealTicket p job t) :=
  Frame.of_device rfl rfl (State.sansEnded_sealTicket s p job t)

theorem execJend_leaves {s : State} (hl : s.live) (hs : s.atS = false) (hst : s.me.stores = [])
    (hd : s.myGang.diverged = false) : ∃ t, exec .jend s = .next t ∧ JendLeaves s t := by
  obtain ⟨u, v, w, hu, hv, hw, he⟩ := execJend_eq hs hd
  have hrel := State.Alike.of_release hst
  have hrl : s.release.live := hrel.live hl
  have hul : u.live := by rw [hu]; exact State.live_modMe hrl _
  have hume : u.me = s.me.end_ := by rw [hu, State.me_modMe hrl, hrel.me]
  have hucur : u.cur = s.cur := by rw [hu]; exact hrel.cur
  have huS : u.atS = s.atS := by rw [hs]; simp only [State.atS, hume]; rfl
  have hvg : v.gangs = u.gangs := by rw [hv]; rfl
  have hvcur : v.cur = s.cur := by rw [hv]; exact hucur
  have hvl : v.live := State.live_of_gangs hvg.symm (hvcur.trans hucur.symm).symm hul
  have hvme : v.me = s.me.end_ := by rw [State.me_of_gangs hvg (hvcur.trans hucur.symm), hume]
  have hvS : v.atS = s.atS := by rw [← huS]; simp only [State.atS, hvme, hume]
  have hset : Settles v w v.cur.gang := by
    rw [hvcur, ← State.myGang_uid hl, hw]; exact State.settleGang_settles v _
  have hwme : w.me.sansTiles = s.me.end_.sansTiles := by
    have hwh : w.me = w.hart v.cur := by unfold State.me; rw [hset.cur]
    rw [hwh, ← hvme]
    rcases hset.hart (h := v.cur) hvl with e | e
    · rw [e]; rfl
    · rw [e]; rfl
  have hwS : w.atS = s.atS := by
    have h1 := congrArg Hart.st hwme
    rw [hs]; simp only [State.atS]
    rw [show w.me.st = .ended from h1]; rfl
  have hleaves : JendLeaves s w := by
    refine ⟨hwme, fun j hj => ?_, fun l => ?_, ?_⟩
    · have hju : u.job? s.myGang.p s.myGang.job = some j := by rw [hu]; exact (hrel.job? _ _).trans hj
      obtain ⟨j1, hj1, hmem, -, -⟩ := State.job?_sealTicket hju (s.ticket s.cur)
      rw [← hv] at hj1
      obtain ⟨j2, hj2, -, hsealed⟩ := hset.jobs.job? hj1
      exact ⟨j2, hj2, by rw [hsealed]; exact hmem⟩
    · rw [hset.byteAt, hv, hu]
      exact (State.byteAt_modMe s.release Hart.end_ l).trans (hrel.byteAt l)
    · have f1 : Frame Hart.sansEnd Hart.sansTiles Gang.sansPhase State.sansEnded s s.release :=
        (Moved.of_alike hl hrel).frame
      have f2 := JendFrame.of_end hrl
      rw [← hu] at f2
      have f3 := JendFrame.of_sealTicket u s.myGang.p s.myGang.job (s.ticket s.cur)
      rw [← hv] at f3
      exact ((f1.trans f2 hrel.cur hrel.atS).trans f3 hucur huS).trans (JendFrame.of_settles hset hvl) hvcur hvS
  rcases he with he | he
  · exact ⟨w, he, hleaves⟩
  · exact ⟨_, he, hleaves.closeSweeps (hset.cur.trans hvcur) hwS _ _⟩

/-! ### JSPAWN (R29, R37, R291) -/

@[simp] theorem State.goto_jobs (s : State) (t : Word) : (s.goto t).jobs = s.jobs := by
  unfold State.goto; split <;> rfl
@[simp] theorem State.wg_jobs (s : State) (d : GOp) (v : Word) : (s.wg d v).jobs = s.jobs := by
  unfold State.wg; split
  · rfl
  · split <;> rfl

/-- Entering a child into a family changes the families only. -/
theorem State.addKid_eq (s : State) (j : Job) (k : Kid) : ∃ fs, s.addKid j k = { s with families := fs } := by
  unfold State.addKid; split
  · exact ⟨_, rfl⟩
  · exact ⟨_, rfl⟩
/-- A job that is not COSCHED is accepted under the next number (R329). -/
theorem State.accept_eq (s : State) (j : Job) (h : j.rcd.cosched = false) :
    s.accept j = { s.modPart j.p fun q => { q with nextJob := q.nextJob + 1, nextOrder := q.nextOrder + 1 } with
      jobs := s.jobs ++ [{ j with id := (s.prt j.p).nextJob, order := (s.prt j.p).nextOrder, turn := (s.prt j.p).nextOrder,
                                  st := .accepted, ready := j.rcd.ddl == 0 || decide (s.dtime < j.rcd.ddl) }] } := by
  unfold State.accept State.neverFits
  simp [h]

/-- An eraser that the change of one entry leaves alone. -/
theorem vmod_map_at {α β : Type} {n : Nat} (v : Vector α n) (i : Fin n) (f : α → α) (e : α → β) (h : e (f v[i]) = e v[i]) :
    (vmod v i f).map e = v.map e := by
  apply Vector.ext
  intro k hk
  have := vput_getElem v i ⟨k, hk⟩ (f v[i])
  simp only [Vector.getElem_map]
  show e (vput v i (f v[i]))[(⟨k, hk⟩ : Fin n)] = e v[k]
  rw [this]
  split
  · next he => subst he; exact h
  · rfl

/-- The child of a job that may hold one as its record says (R29, R37, R329). -/
theorem State.spawn_eq (s : State) (r : LaunchRec) (h : r.cosched = false) : ∃ fs child, s.spawn r =
      { ({ s with families := fs } : State).modPart s.myJob.p fun q =>
          { q with nextJob := q.nextJob + 1, nextOrder := q.nextOrder + 1 } with jobs := s.jobs ++ [child] } ∧
    child.id = (s.prt s.myJob.p).nextJob ∧ child.p = s.myJob.p ∧ child.vf = s.myJob.vf ∧ child.parent = s.myJob.id ∧
    child.source = .spawn ∧ child.st = .accepted ∧ child.cause = none ∧ child.rcd = r ∧
    child.spawnKey = some (s.ticket s.cur, s.nextSpawn s.myJob.p s.myJob.id (s.ticket s.cur)) := by
  unfold State.spawn
  dsimp only
  obtain ⟨fs, hfs⟩ := State.addKid_eq s s.myJob
    { job := (s.prt s.myJob.p).nextJob, ticket := s.ticket s.cur,
      num := s.nextSpawn s.myJob.p s.myJob.id (s.ticket s.cur),
      tickets := Job.tickets { Job.blank with
        p := s.myJob.p, vf := s.myJob.vf, parent := s.myJob.id, rcd := r, source := .spawn,
        spawnKey := some (s.ticket s.cur, s.nextSpawn s.myJob.p s.myJob.id (s.ticket s.cur)) },
      apart := r.abp == 2 }
  rw [hfs]
  exact ⟨fs, _, State.accept_eq _ _ h, rfl, rfl, rfl, rfl, rfl, rfl, rfl, rfl, rfl⟩

/-- The earlier of two deadlines as the record's words give it (R29). -/
theorem earlier_eq (a b : Word) : earlier a b = if b = 0 ∨ (a ≠ 0 ∧ a.toNat ≤ b.toNat) then a else b := by
  unfold earlier
  split_ifs <;> grind

/-- Numbers given out, jobs and families are what `State.sansJobs` hides. -/
theorem State.sansJobs_numbered (s : State) (fs : List Family) (js : List Job) (p : Fin 3) :
    State.sansJobs { ({ s with families := fs } : State).modPart p fun q =>
        { q with nextJob := q.nextJob + 1, nextOrder := q.nextOrder + 1 } with jobs := js, gangs := [] } =
      State.sansJobs { s with gangs := [] } :=
  congrArg (fun ps => ({ s with gangs := [], jobs := [], families := [], parts := ps } : State))
    (vmod_map_at s.parts p (fun q : Part => { q with nextJob := q.nextJob + 1, nextOrder := q.nextOrder + 1 })
      (fun q : Part => { q with nextJob := 0, nextOrder := 0 }) rfl)

/-- What is alike spawns the same child. -/
theorem State.Alike.nextSpawn {s u : State} (h : s.Alike u) (p : Fin 3) (job t : Nat) :
    u.nextSpawn p job t = s.nextSpawn p job t := by
  obtain ⟨gs, rfl⟩ := h.device; rfl

/-- Settles O29: a child joins the jobs at JSPAWN, and JEND leaves an ended hart behind a sealed ticket. -/
theorem hartsSpawnAndEnd : Obligations.HartsSpawnAndEnd := by
  unfold Obligations.HartsSpawnAndEnd
  refine ⟨?_, ?_⟩
  · intro s d vm r hl hs hst hvl hunt htype hsealed hd hr hrefused hmask hadmit hco
    have hrel := State.Alike.of_release hst
    obtain ⟨fs, child, hspawn, hid, hp, hvf, hparent, hsrc, hstate, hcause, hrcd, hkey⟩ := State.spawn_eq s.release r hco
    rw [hrel.myJob, hrel.ticket, hrel.nextSpawn] at hkey
    rw [hrel.myJob] at hspawn hid hp hvf hparent
    have hprt : s.release.prt s.myJob.p = s.prt s.myJob.p := by obtain ⟨gs, hgs⟩ := hrel.device; rw [hgs]; rfl
    have hjobs : s.release.jobs = s.jobs := by obtain ⟨gs, hgs⟩ := hrel.device; rw [hgs]
    have hmoved : Moved hideNone hideNone hideNone State.sansJobs s (s.release.spawn r) s.byteAt := by
      rw [hspawn]
      refine (Moved.of_alike hl hrel).device rfl rfl ?_ fun l => hrel.byteAt l
      exact State.sansJobs_numbered _ _ _ _
    refine ⟨((s.release.spawn r).wg d (word (s.prt s.myJob.p).nextJob)).retired, ?_, child, ?_, ?_, hp, hvf, hparent, hsrc,
      hstate, hcause, ?_, hkey, hmoved.wg (fun b _ _ e => congrArg (Hart.sansG b) e) d _⟩
    · simp only [exec_jspawn, execJspawn, hs, ← hr, hunt, htype, firstTrap, List.findSome?, id, hvl, hrefused, hsealed, hmask,
        hadmit, State.pair, hd, Bool.false_eq_true, if_false, ne_eq, not_true_eq_false, Bool.not_true]
      rfl
    · rw [State.retired, State.goto_jobs, State.wg_jobs, hspawn]
      show s.release.jobs ++ [child] = _
      rw [hjobs]
    · rw [hid, hprt]
    · rw [hrcd, hr]
      simp only [LaunchRec.child, earlier_eq]
      rfl
  · intro s j hl hs hst hd hj
    obtain ⟨t, he, h⟩ := execJend_leaves hl hs hst hd
    have field : ∀ {α : Type} (k : Hart → α), (∀ x : Hart, k x.sansTiles = k x) → k t.me = k s.me.end_ :=
      fun k hk => by rw [← hk t.me, h.me, hk]
    have htk := field Hart.tk fun _ => rfl
    have hstk := field (fun x => x.sup.tk) fun _ => rfl
    have hstr := field Hart.str fun _ => rfl
    refine ⟨t, he, field Hart.st fun _ => rfl, field Hart.sealed fun _ => rfl, field Hart.ei fun _ => rfl,
      field Hart.wait fun _ => rfl, fun k => ⟨?_, ?_, ?_⟩, h.sealed_ j hj, h.memory, h.frame⟩
    · rw [htk]; simp [Hart.end_, Hart.dropTokens]
    · have : t.me.sup.tk = s.me.end_.sup.tk := hstk
      rw [this]; simp [Hart.end_, Hart.dropTokens]
    · rw [hstr]; simp [Hart.end_, Hart.dropTokens]

end Sys2Proof.Machine
end


section
/-!
SUPPORT. Events of a hart on a core: waits that end, traps at an instruction boundary, and kills.
-/

namespace Sys2Proof.Machine

/-! ### The device as one hart's -/

/-- A hart on a core is in a gang that there is. -/
theorem State.live_at_of_onCore {s : State} {h : HartId} (hc : s.onCore h = true) : (s.at_ h).live := by
  unfold State.onCore at hc
  cases hg : s.gang? h.gang with
  | none => rw [hg] at hc; cases hc
  | some g => exact ⟨g, hg⟩
/-- With no store on its way, a hart traps as it does when it runs. -/
theorem State.at_enter {s : State} {h : HartId} (hst : (s.hart h).stores = []) (op c d src : Nat) (epc : Word) (ei : Nat)
    (addr : Word) :
    (s.enter h op c d src epc ei addr).at_ h = (s.at_ h).enter (s.at_ h).cur op c d src epc ei addr := by
  unfold State.enter State.drain
  have hst' : ((s.at_ h).hart (s.at_ h).cur).stores = [] := hst
  rw [hst, hst']
  rfl
/-- A user hart with a supervisor image traps at its boundary (R316). -/
theorem State.boundaryTrap_entry {s : State} {h : HartId} (hc : s.onCore h = true) (hst : (s.hart h).stores = [])
    (hv : (s.hart h).sup.svec ≠ 0) (op : Nat) (c : Cause) (d src : Nat) (addr : Word) (ei : Nat) (h1 : op < 128)
    (h2 : c.code < 256) (h3 : d < 65536) (h4 : src < 4) (h5 : ei < 128) :
    TrapEntry (s.at_ h) ((s.boundaryTrap h op ⟨c, d, src, addr, ei⟩).at_ h) op c.code d src (s.hart h).pc ei addr := by
  unfold State.boundaryTrap State.trapAt
  rw [if_neg hv, State.at_enter hst]
  exact TrapEntry.of_enter (State.live_at_of_onCore hc) op c.code d src _ ei addr h1 h2 h3 h4 h5

/-! ### Waits that end (R33, Table 2-1) -/

/-- What a hart waits for has come where the model looks for it. -/
theorem WaitEnds.waitOver {s : State} {h : HartId} {w : Wait} (hw : WaitEnds s h w.what) : (s.at_ h).waitOver w = true := by
  have hm : (s.at_ h).myGang = s.gang h.gang := rfl
  have hcur : (s.at_ h).cur = h := rfl
  have hempty : ∀ r : Fin 8, (s.gang h.gang).rings[r].fill ≠ (s.gang h.gang).rings[r].drn →
      (s.gang h.gang).rings[r].empty_ = false := fun r hr => beq_false_of_ne hr
  unfold State.waitOver Gang.eventCame
  generalize hk : w.what = k at hw
  cases hw with
  | phase n ha =>
    have hp : phaseDone (s.gang h.gang).bars[n].ph (s.gang h.gang).harts[h.rank].wph[n] = true := decide_eq_true ha
    simp only [hm, hcur, hp, Bool.or_true]
  | stage r hr => simp only [hm, hempty r hr, Bool.not_false, Bool.or_true]
  | stageRead r hr => simp only [hm, hempty r hr, Bool.not_false, Bool.or_true]
  | room r hr =>
    have hf : (s.gang h.gang).rings[r].full = false := decide_eq_false (Nat.not_le.mpr hr)
    simp only [hm, hf, Bool.not_false, Bool.or_true]
  | event he => exact he
  | buffer n tree hn =>
    rcases hn with hn | hn
    · exact (Bool.or_eq_true _ _).mpr (.inl (decide_eq_true hn))
    · exact (Bool.or_eq_true _ _).mpr (.inr hn)
  | message c hc => exact decide_eq_true hc
  | invalidation id hi => exact hi
  | ordered | fill | ticket | condition | cask | copies | codings | packets => rfl

theorem State.call?_of_blocked {s : State} {h : HartId} (hb : (s.hart h).st = .blocked) : s.call? h = none := by
  simp [State.call?, hb]
/-- A blocked hart whose wait has ended runs again. -/
theorem execBlockedHartResume_of_waitEnds {s : State} {h : HartId} {w : Wait} (hc : s.onCore h = true)
    (hb : (s.hart h).st = .blocked) (hw : (s.hart h).wait = some w) (he : WaitEnds s h w.what) :
    execBlockedHartResume h s = .next (s.modHart h fun x => { x with st := .running }) := by
  have hover : (s.hart h).wait.all (s.at_ h).waitOver = true := by rw [hw]; exact he.waitOver
  have hme : ({ s with cur := h } : State).me = s.hart h := rfl
  have hover' : (s.hart h).wait.all ({ s with cur := h } : State).waitOver = true := hover
  simp only [execBlockedHartResume, State.call?_of_blocked hb, hc, State.asHart, hme, hb, hover', Bool.not_true,
    Bool.false_eq_true, if_false, if_true]
  rfl
/-- A wait has reached its time-out. -/
theorem State.timedOut_eq {s : State} {h : HartId} {w : Wait} {e : Nat} (hc : s.onCore h = true)
    (hb : (s.hart h).st = .blocked) (hw : (s.hart h).wait = some w) (hends : w.ends = some e) (he : e ≤ s.dtime)
    (kind : Wait → Bool) (hk : kind w = true) : s.timedOut h kind = true := by
  simp [State.timedOut, hc, hb, hw, hends, he, hk]

/-! ### A hart that is killed (R32) -/

/-- The cause of a job that a hart fails: the first stays. -/
theorem State.failJob_job? {s : State} {p : Fin 3} {job : Nat} {j : Job} (hj : s.job? p job = some j) (c : Nat) :
    ∃ j', (s.failJob p job c).job? p job = some j' ∧ j'.cause = some (j.cause.getD (BitVec.ofNat 8 c)) := by
  have hid : j.p = p ∧ j.id = job := by simpa using List.find?_some hj
  refine ⟨_, (State.job?_map (t := s.failJob p job c) _ rfl (fun j => by split <;> exact ⟨rfl, rfl⟩) p job).trans
    (congrArg (Option.map _) hj), ?_⟩
  dsimp only
  cases hcause : j.cause with
  | none => rw [if_pos ⟨hid.1, hid.2, rfl⟩]; rfl
  | some b => rw [if_neg fun hn => nomatch hn.2.2]; exact hcause

/-- Voiding a ticket leaves the gangs, and of each job its number, its cause and its sealed tickets. -/
theorem State.voidTicket_keeps (s : State) (p : Fin 3) (job t : Nat) :
    (s.voidTicket p job t).gangs = s.gangs ∧ s.keepsJobs (s.voidTicket p job t) := by
  unfold State.voidTicket
  split
  · exact ⟨rfl, State.keepsJobs.refl s⟩
  · refine ⟨rfl, ?_⟩
    exact State.keepsJobs.of_modJob _ p job fun j => by split <;> exact ⟨rfl, rfl, rfl, rfl⟩

/-- A change of one hart, as that hart is read after it. -/
theorem State.hart_modHart {s : State} {h : HartId} (hl : (s.at_ h).live) (f : Hart → Hart) :
    (s.modHart h f).hart h = f (s.hart h) :=
  State.me_modMe (s := s.at_ h) hl f

/-- A hart without tokens or supervisor work, its user thread Voided. -/
structure Hart.Voided (x : Hart) : Prop where
  st : x.st = .voided
  idle : x.sup.st = .idle
  tokens : ∀ k : Fin 8, x.tk[k] = Token.empty ∧ x.sup.tk[k] = Token.empty

theorem State.voidHart_voids {s : State} {h : HartId} (hl : (s.at_ h).live) (hn : (s.hart h).over = false)
    (hst : (s.hart h).stores = []) : ((s.voidHart h).hart h).Voided ∧ s.keepsJobs (s.voidHart h) := by
  unfold State.voidHart
  simp only [hn, Bool.false_eq_true, if_false]
  generalize hu : s.drain h = u
  have hu' : u = s.modHart h fun x => { x with stores := [] } := by rw [← hu]; unfold State.drain; rw [hst]; rfl
  generalize hv : u.voidTicket (s.gang h.gang).p (s.gang h.gang).job ((s.gang h.gang).ticket h.rank) = v
  obtain ⟨hvg, hvj⟩ := State.voidTicket_keeps u (s.gang h.gang).p (s.gang h.gang).job ((s.gang h.gang).ticket h.rank)
  rw [hv] at hvg hvj
  have hul : (u.at_ h).live := by rw [hu']; exact State.live_modMe (s := s.at_ h) hl _
  have hvl : (v.at_ h).live := State.live_of_gangs (s := u.at_ h) hvg.symm rfl hul
  generalize hw : v.modHart h _ = w
  have hwl : (w.at_ h).live := by rw [← hw]; exact State.live_modMe (s := v.at_ h) hvl _
  have hset := State.settleGang_settles w h.gang
  have hjobs : s.keepsJobs w := by
    have h1 : s.keepsJobs u := by rw [hu']; exact State.keepsJobs.refl s
    have h2 : v.keepsJobs w := by rw [← hw]; exact State.keepsJobs.refl v
    exact (h1.trans hvj).trans h2
  refine ⟨?_, hjobs.trans hset.jobs⟩
  have hwh : (w.hart h).Voided := by
    rw [← hw, State.hart_modHart hvl]
    exact ⟨rfl, rfl, fun k => by simp [Hart.dropTokens]⟩
  rcases hset.hart hwl with e | e
  · rw [e]; exact hwh
  · rw [e]; exact ⟨hwh.st, hwh.idle, hwh.tokens⟩

/-- A hart of a gang that has not ended yet, with no store on its way, is killed (R32). -/
theorem State.killHart_kills {s : State} {h : HartId} (hl : (s.at_ h).live) (hn : (s.hart h).over = false)
    (hst : (s.hart h).stores = []) (c : Nat) : Killed (s.at_ h) ((s.killHart h c).at_ h) c := by
  obtain ⟨hv, hk⟩ := State.voidHart_voids (s := s.failJob (s.gang h.gang).p (s.gang h.gang).job c) (h := h) hl hn hst
  refine ⟨hv.st, hv.idle, hv.tokens, fun j hj => ?_⟩
  obtain ⟨j1, hj1, hcause⟩ := State.failJob_job? (s := s) hj c
  obtain ⟨j2, hj2, hcause2, -⟩ := hk.job? hj1
  exact ⟨j2, hj2, hcause2.trans hcause⟩

/-! ### Watchdogs and breakpoints (R315, R321, R323) -/

section
variable {s : State} {h : HartId} (hc : s.onCore h = true)
include hc

/-- A wait that has passed its limit traps, when its event did not come first (R125, R192). -/
theorem execWaitWatchdog_blocked {w : Wait} (hb : (s.hart h).st = .blocked) (hw : (s.hart h).wait = some w) :
    execWaitWatchdog h s = .next (if (s.gang h.gang).watchdogDue h.rank s.cyc w then
      s.boundaryTrap h w.op { c := .watchdog, detail := 1, addr := w.addr, ei := watchdogEi w.op (s.hart h).ei } else s) := by
  simp only [execWaitWatchdog, hc, hb, hw, Bool.not_true, Bool.false_eq_true, if_false]
/-- A hart that runs traps when the device finds that it spins (R43). -/
theorem execWaitWatchdog_running (hr : (s.hart h).st = .running) :
    execWaitWatchdog h s = if s.maySpin h then
        .next (if s.choose.1 = 1 then
          s.choose.2.boundaryTrap h 0 { c := .watchdog, detail := 1, ei := (s.hart h).ei } else s.choose.2)
      else .next s := by
  simp only [execWaitWatchdog, hc, hr, Bool.not_true, Bool.false_eq_true, if_false]

variable (hst : (s.hart h).stores = []) (hei : (s.hart h).ei < 128) (hv : (s.hart h).sup.svec ≠ 0)

include hst hei hv in
theorem waitWatchdog_traps {w : Wait} (hb : (s.hart h).st = .blocked) (hw : (s.hart h).wait = some w)
    (hwatch : w.watched = true) (hlim : w.since + 2 ^ 24 ≤ s.cyc) (hop : w.op < 128)
    (hlate : w.late = true ∨ (s.gang h.gang).eventCame h.rank w = false) :
    ∃ t, exec (.waitWatchdog h) s = .next t ∧ TrapEntry (s.at_ h) (t.at_ h) w.op 0x15 1 0 (s.hart h).pc
      (if 0x42 ≤ w.op ∧ w.op ≤ 0x4B ∨ w.op = 0x50 ∨ w.op = 0x51 then (s.hart h).ei else 0) w.addr := by
  have hdue : (s.gang h.gang).watchdogDue h.rank s.cyc w = true := by
    unfold Gang.watchdogDue waitLimit
    rcases hlate with hl | hl <;> simp only [hwatch, decide_eq_true hlim, hl, Bool.not_false, Bool.true_or, Bool.or_true,
      Bool.and_self]
  refine ⟨_, by rw [exec_waitWatchdog, execWaitWatchdog_blocked hc hb hw, if_pos hdue], ?_⟩
  refine State.boundaryTrap_entry hc hst hv w.op .watchdog 1 0 w.addr _ hop (by decide) (by decide) (by decide) ?_
  unfold watchdogEi
  split
  · exact hei
  · exact Nat.zero_lt_succ _
include hst hei hv in
theorem spinWatchdog_traps {r : List Nat} (hr : (s.hart h).st = .running) (hspin : s.maySpin h = true)
    (hch : s.choices = 1 :: r) :
    ∃ t, exec (.waitWatchdog h) s = .next t ∧
      TrapEntry ({ s with choices := r }.at_ h) (t.at_ h) 0 0x15 1 0 (s.hart h).pc (s.hart h).ei 0 := by
  have hchoose : s.choose = (1, { s with choices := r }) := by unfold State.choose; rw [hch]
  refine ⟨_, by rw [exec_waitWatchdog, execWaitWatchdog_running hc hr, if_pos hspin, hchoose, if_pos rfl], ?_⟩
  exact State.boundaryTrap_entry (s := { s with choices := r }) hc hst hv 0 .watchdog 1 0 0 _ (by decide) (by decide)
    (by decide) (by decide) hei
include hst hei hv in
theorem lockHoldWatchdog_traps (hr : (s.hart h).st = .running ∨ (s.hart h).st = .blocked)
    (hlim : 2 ^ (12 + (s.hart h).sup.lhl.toNat) ≤ (s.hart h).hold) :
    ∃ t, exec (.lockHoldWatchdog h) s = .next t ∧
      TrapEntry (s.at_ h) (t.at_ h) 0 0x15 2 0 (s.hart h).pc (s.hart h).ei (s.hart h).lockAddr := by
  have hcond : ¬ ((!s.onCore h) = true ∨ (s.hart h).st ≠ .running ∧ (s.hart h).st ≠ .blocked ∨
      (s.hart h).hold < (s.hart h).holdLimit) := by
    rintro (h1 | ⟨h1, h2⟩ | h1)
    · rw [hc] at h1; cases h1
    · exact hr.elim h1 h2
    · exact absurd hlim (Nat.not_le.mpr h1)
  refine ⟨_, by rw [exec_lockHoldWatchdog]; exact if_neg hcond, ?_⟩
  exact State.boundaryTrap_entry hc hst hv 0 .watchdog 2 0 _ _ (by decide) (by decide) (by decide) (by decide) hei
include hst hei hv in
theorem addressBreakpoint_traps (hr : (s.hart h).st = .running) (hbpe : (s.hart h).sup.bpe = true)
    (hex : (s.hart h).bpExempt = false) (hpc : (s.hart h).pc = (s.hart h).sup.bpa.setWidth 64) :
    ∃ t, exec (.addressBreakpoint h) s = .next t ∧
      TrapEntry (s.at_ h) (t.at_ h) 0 0x14 0 1 (s.hart h).pc (s.hart h).ei 0 := by
  have hcond : ¬ ((!s.onCore h) = true ∨ (s.hart h).st ≠ .running ∨ (!(s.hart h).sup.bpe) = true ∨
      (s.hart h).bpExempt = true ∨ (s.hart h).pc ≠ (s.hart h).sup.bpa.setWidth 64) := by
    simp [hc, hr, hbpe, hex, hpc]
  refine ⟨_, by rw [exec_addressBreakpoint]; exact if_neg hcond, ?_⟩
  exact State.boundaryTrap_entry hc hst hv 0 .brk 0 1 0 _ (by decide) (by decide) (by decide) (by decide) hei
include hst hv in
theorem singleStep_traps (hr : (s.hart h).st = .running) (hdue : (s.hart h).stepDue = true) :
    ∃ t, exec (.singleStep h) s = .next t ∧ TrapEntry (s.at_ h) (t.at_ h) 0 0x14 0 2 (s.hart h).pc 0 0 := by
  have hcond : ¬ ((!s.onCore h) = true ∨ (s.hart h).st ≠ .running ∨ (!(s.hart h).stepDue) = true) := by
    simp [hc, hr, hdue]
  refine ⟨_, by rw [exec_singleStep]; exact if_neg hcond, ?_⟩
  exact State.boundaryTrap_entry hc hst hv 0 .brk 0 2 0 0 (by decide) (by decide) (by decide) (by decide) (by decide)
include hst in
theorem handlerWatchdog_kills (ht : (s.hart h).st = .trapped) (hr : (s.hart h).sup.st = .running)
    (hran : 2 ^ 26 ≤ (s.hart h).sup.ran) :
    ∃ t, exec (.handlerWatchdog h) s = .next t ∧ Killed (s.at_ h) (t.at_ h) 0x15 := by
  have hcond : ¬ ((!s.onCore h) = true ∨ (s.hart h).st ≠ .trapped ∨ (s.hart h).sup.st ≠ .running ∨
      (s.hart h).sup.ran < handlerLimit) := by
    simp only [hc, ht, hr, handlerLimit, Nat.not_lt.mpr hran]; simp
  refine ⟨_, by rw [exec_handlerWatchdog]; exact if_neg hcond, ?_⟩
  exact State.killHart_kills (State.live_at_of_onCore hc) (by simp [Hart.over, ht]) hst _

end

/-- Settles O53, event by event. -/
theorem hartEventsResumeOrTrap : Obligations.HartEventsResumeOrTrap := by
  unfold Obligations.HartEventsResumeOrTrap
  refine ⟨?_, ?_⟩
  · rintro s h x w rfl hc hb hw
    refine ⟨fun he => execBlockedHartResume_of_waitEnds hc hb hw he, fun e hk hends he => ?_, fun e hk hends he => ?_⟩
    · have ht := State.timedOut_eq hc hb hw hends he (fun w => w.what == .wfe) (by simp [hk])
      simp only [exec_wfeTimeout, execWfeTimeout, ht, Bool.not_true, Bool.false_eq_true, if_false]
      rfl
    · have ht := State.timedOut_eq hc hb hw hends he (fun w => w.what == .vwaitc || w.ofVwaitc) (by simpa using hk)
      simp only [exec_vwaitcTimeout, execVwaitcTimeout, ht, Bool.not_true, Bool.false_eq_true, if_false]
  · rintro s h x rfl hc hst hei
    refine ⟨fun hv => ⟨fun w hb hw hwatch hlim hop hlate => waitWatchdog_traps hc hst hei hv hb hw hwatch hlim hop hlate,
      fun w hb hw hlate hcame => ?_, fun hr hspun hsealed hkeys => ⟨fun r hch => ?_, fun hch => ?_⟩, fun hr hno => ?_,
      fun hr hlim => lockHoldWatchdog_traps hc hst hei hv hr hlim,
      fun hr hbpe hex hpc => addressBreakpoint_traps hc hst hei hv hr hbpe hex hpc,
      fun hr hdue => singleStep_traps hc hst hv hr hdue⟩,
      fun ht hr hran => handlerWatchdog_kills hc hst ht hr hran⟩
    · have hdue : (s.gang h.gang).watchdogDue h.rank s.cyc w = false := by simp [Gang.watchdogDue, hlate, hcame]
      rw [exec_waitWatchdog, execWaitWatchdog_blocked hc hb hw, hdue]; rfl
    · refine spinWatchdog_traps hc hst hei hv hr ?_ hch
      have hlim : decide (waitLimit ≤ (s.hart h).spun) = true := decide_eq_true hspun
      rcases hkeys with hk | hk <;> simp [State.maySpin, hr, hlim, hsealed, hk]
    · have hchoose : s.choose = (0, s) := by unfold State.choose; rw [hch]
      rw [exec_waitWatchdog, execWaitWatchdog_running hc hr, hchoose]; simp
    · have hspin : s.maySpin h = false := by
        rcases hno with hn | hn
        · have hlim : decide (waitLimit ≤ (s.hart h).spun) = false := decide_eq_false (Nat.not_le.mpr hn)
          simp [State.maySpin, hlim]
        · simp [State.maySpin, hn]
      rw [exec_waitWatchdog, execWaitWatchdog_running hc hr, hspin]; rfl

end Sys2Proof.Machine
end


section
/-!
SUPPORT. How a launch enters the device: from a launch window, from a channel's messages, and what a task-table entry holds.
-/

namespace Sys2Proof.Machine

/-! ### A partition that changes -/

@[simp] theorem State.prt_modPart (s : State) (p : Fin 3) (f : Part → Part) : (s.modPart p f).prt p = f (s.prt p) :=
  vmod_getElem_same s.parts p f
theorem State.modPart_self (s : State) (p : Fin 3) : s.modPart p (fun q => q) = s :=
  congrArg (fun v => ({ s with parts := v } : State)) (vput_self s.parts p)
theorem State.modPart_modPart (s : State) (p : Fin 3) (f g : Part → Part) :
    (s.modPart p f).modPart p g = s.modPart p (g ∘ f) :=
  congrArg (fun v => ({ s with parts := v } : State)) (vmod_vmod s.parts p f g)

/-- A post changes its own partition only, and there neither the functions nor the number of the next job (R337). -/
theorem State.post_eq (s : State) (p : Fin 3) (c : Fin 256) (x : Word) (n : Nat) :
    ∃ f : Part → Part, s.post p c x n = s.modPart p f ∧ ∀ q, (f q).nextJob = q.nextJob ∧ (f q).funcs = q.funcs := by
  unfold State.post
  dsimp only
  split
  · exact ⟨_, (State.modPart_self s p).symm, fun _ => ⟨rfl, rfl⟩⟩
  · split
    · exact ⟨_, rfl, fun _ => ⟨rfl, rfl⟩⟩
    · split
      · exact ⟨_, rfl, fun _ => ⟨rfl, rfl⟩⟩
      · split
        · exact ⟨_, State.modPart_modPart s p _ _, fun _ => ⟨rfl, rfl⟩⟩
        · exact ⟨_, rfl, fun _ => ⟨rfl, rfl⟩⟩
theorem State.postAbandon_eq (s : State) (p : Fin 3) (x : Word) :
    ∃ f : Part → Part, s.postAbandon p x = s.modPart p f ∧ ∀ q, (f q).nextJob = q.nextJob ∧ (f q).funcs = q.funcs := by
  unfold State.postAbandon
  dsimp only
  split
  · exact State.post_eq s p _ x 0
  · exact ⟨_, (State.modPart_self s p).symm, fun _ => ⟨rfl, rfl⟩⟩

/-! ### Launches (R28, R329, R332) -/

/-- A partition that gave a number to a new job. -/
def Part.numbered (q : Part) : Part := { q with nextJob := q.nextJob + 1, nextOrder := q.nextOrder + 1 }
/-- The job that a host or a channel launches. -/
def Job.launched (p : Fin 3) (vf : Fin 64) (r : LaunchRec) (src : Source) (pin : Option (Nat × Nat)) : Job :=
  { Job.blank with p := p, vf := vf, rcd := r, source := src, pin := pin }
/-- The fields of a new job, and what it leaves of the device. -/
theorem State.accept_launched (u : State) (p : Fin 3) (vf : Fin 64) (r : LaunchRec) (src : Source)
    (pin : Option (Nat × Nat)) (h : r.cosched = false) : ∃ j, u.accept (Job.launched p vf r src pin) =
      { u.modPart p Part.numbered with jobs := u.jobs ++ [j] } ∧ j.id = (u.prt p).nextJob ∧ j.p = p ∧ j.vf = vf ∧
    j.parent = 0 ∧ j.rcd = r ∧ j.source = src ∧ j.pin = pin ∧ j.st = .accepted ∧ j.cause = none ∧ j.nextGang = 0 ∧
    j.spawnKey = none :=
  ⟨_, State.accept_eq u (Job.launched p vf r src pin) h, rfl, rfl, rfl, rfl, rfl, rfl, rfl, rfl, rfl, rfl, rfl⟩
theorem State.modPart_rest (s : State) (p : Fin 3) (f : Part → Part) :
    ({ s.modPart p f with jobs := [], parts := s.parts } : State) = { s with jobs := [] } := rfl

/-- A launch that neither R332 nor R374 refuses, after a change of its partition that gives no number out. -/
theorem State.launch_launches (s : State) (p : Fin 3) (f : Part → Part) (hf : ∀ q, (f q).nextJob = q.nextJob) {vf : Fin 64}
    {r : LaunchRec} (hr : r.refused false r.ddl = false) (hg : (s.modPart p f).ungranted p vf r = false)
    (hc : r.cosched = false) (src : Source) (pin : Option (Nat × Nat)) :
    Launched s ((s.modPart p f).launch p vf r src pin) p vf r src pin ∧
      ((s.modPart p f).launch p vf r src pin).prt p = (f (s.prt p)).numbered := by
  obtain ⟨j, hj, hid, hfields⟩ := State.accept_launched (s.modPart p f) p vf r src pin hc
  have hl : (s.modPart p f).launch p vf r src pin =
      { s.modPart p (Part.numbered ∘ f) with jobs := s.jobs ++ [j] } := by
    unfold State.launch
    simp only [hr, hg, Bool.false_eq_true, if_false]
    rw [← State.modPart_modPart]
    exact hj
  have hprt : ((s.modPart p f).launch p vf r src pin).prt p = (f (s.prt p)).numbered := by
    rw [hl]; exact State.prt_modPart s p _
  rw [State.prt_modPart, hf] at hid
  refine ⟨⟨⟨j, by rw [hl], hid, hfields⟩, ?_, ?_⟩, hprt⟩
  · rw [hprt, Part.numbered, hf]
  · rw [hl]; exact State.modPart_rest s p (Part.numbered ∘ f)
theorem State.ungranted_congr {s u : State} {p : Fin 3} {vf : Fin 64} (h : (u.func p vf).ag = (s.func p vf).ag) (r : LaunchRec) :
    u.ungranted p vf r = s.ungranted p vf r := by
  unfold State.ungranted; rw [h]

/-- A launch that is refused and asks for no record makes no job, and gives no number out (R28, R332). -/
theorem State.launch_refused {s : State} {p : Fin 3} {vf : Fin 64} {r : LaunchRec}
    (h : r.refused false r.ddl = true ∨ s.ungranted p vf r = true) (hcrec : r.crec = 0) (src : Source)
    (pin : Option (Nat × Nat)) :
    ∃ f : Part → Part, s.launch p vf r src pin = s.modPart p f ∧ ∀ q, (f q).nextJob = q.nextJob ∧ (f q).funcs = q.funcs := by
  have refuse : ∀ c, ∃ f : Part → Part, s.refuseLaunch p vf r c = s.modPart p f ∧
      ∀ q, (f q).nextJob = q.nextJob ∧ (f q).funcs = q.funcs := fun c => by
    unfold State.refuseLaunch
    simp only [hcrec, Nat.zero_mod, if_true, State.writeRecord]
    exact State.postAbandon_eq s p _
  unfold State.launch
  split
  · exact refuse _
  · next hr =>
    rw [if_pos (h.resolve_left hr)]
    exact refuse _

/-! ### A launch window (R333) -/

/-- A function whose next launch record was taken. -/
def Func.taken (f : Func) : Func := { f with lhead := f.lhead + 1 }
/-- A partition with one function changed. -/
def Part.modFunc (vf : Fin 64) (f : Func → Func) (q : Part) : Part := { q with funcs := vmod q.funcs vf f }

section
variable {s : State} {p : Fin 3} {vf : Fin 64} (hrun : (s.prt p).st = .run) (hadm : s.admits p = true)
include hrun hadm

/-- The launch that Hearth takes from a window. -/
theorem execLaunchWindowTake_eq (hne : (s.func p vf).lhead ≠ (s.func p vf).ltail) : execLaunchWindowTake p vf s =
    .next ((s.modFunc p vf Func.taken).launch p vf
      { (s.func p vf).slots[Fin.ofNat 64 (s.func p vf).lhead.toNat] with q7 := 0 } .host none) := by
  have hcond : ¬ ((!s.inRun p || (s.func p vf).lhead == (s.func p vf).ltail || !s.admits p) = true) := by
    simp [State.inRun, hrun, hadm, hne]
  exact if_neg hcond

end

/-- A window whose next record is taken. -/
theorem State.func_modFunc (s : State) (p : Fin 3) (vf : Fin 64) (f : Func → Func) :
    (s.modFunc p vf f).func p vf = f (s.func p vf) := by
  unfold State.func State.modFunc
  rw [State.prt_modPart]
  exact vmod_getElem_same _ vf f
theorem State.func_of_modPart {s : State} {p : Fin 3} {f : Part → Part} (h : ∀ q, (f q).funcs = q.funcs) (vf : Fin 64) :
    (s.modPart p f).func p vf = s.func p vf := by
  unfold State.func
  rw [State.prt_modPart, h]

theorem launchWindow_takes {s : State} {p : Fin 3} {vf : Fin 64} {r : LaunchRec} (hrun : (s.prt p).st = .run)
    (hadm : s.admits p = true) (hne : (s.func p vf).lhead ≠ (s.func p vf).ltail)
    (hr : r = { (s.func p vf).slots[Fin.ofNat 64 (s.func p vf).lhead.toNat] with q7 := 0 })
    (href : r.refused false r.ddl = false) (hg : s.ungranted p vf r = false) (hc : r.cosched = false) :
    ∃ t, exec (.launchWindowTake p vf) s = .next t ∧ Launched s t p vf r .host none ∧
      (t.func p vf).lhead = (s.func p vf).lhead + 1 := by
  have hag : (s.modFunc p vf Func.taken).ungranted p vf r = false := by
    rw [State.ungranted_congr (s := s) (by rw [State.func_modFunc]; rfl) r]; exact hg
  obtain ⟨hl, hp⟩ := State.launch_launches s p (Part.modFunc vf Func.taken) (fun _ => rfl) href hag hc .host none
  refine ⟨_, ?_, hl, ?_⟩
  · rw [exec_launchWindowTake, execLaunchWindowTake_eq hrun hadm hne, ← hr]; rfl
  · have hfuncs := congrArg (fun q : Part => q.funcs[vf]) hp
    exact (congrArg Func.lhead hfuncs).trans (congrArg Func.lhead (vmod_getElem_same (s.prt p).funcs vf Func.taken))
theorem launchWindow_refuses {s : State} {p : Fin 3} {vf : Fin 64} {r : LaunchRec} (hrun : (s.prt p).st = .run)
    (hadm : s.admits p = true) (hne : (s.func p vf).lhead ≠ (s.func p vf).ltail)
    (hr : r = { (s.func p vf).slots[Fin.ofNat 64 (s.func p vf).lhead.toNat] with q7 := 0 })
    (h : r.refused false r.ddl = true ∨ s.ungranted p vf r = true) (hcrec : r.crec = 0) :
    ∃ t, exec (.launchWindowTake p vf) s = .next t ∧ t.jobs = s.jobs ∧ (t.prt p).nextJob = (s.prt p).nextJob ∧
      (t.func p vf).lhead = (s.func p vf).lhead + 1 := by
  have hag := State.ungranted_congr (s := s) (u := s.modFunc p vf Func.taken)
    (by rw [State.func_modFunc]; rfl) r
  obtain ⟨f, hf, hkeep⟩ := State.launch_refused (h.imp_right hag.trans) hcrec .host none
  refine ⟨_, by rw [exec_launchWindowTake, execLaunchWindowTake_eq hrun hadm hne, ← hr], ?_⟩
  rw [hf]
  refine ⟨rfl, ?_, ?_⟩
  · rw [State.prt_modPart, (hkeep _).1, State.modFunc, State.prt_modPart]
  · rw [State.func_of_modPart fun q => (hkeep q).2, State.func_modFunc]; rfl

/-! ### The messages of a channel (R336, R337, Table 16-3) -/

/-- The record that a message launches is the one that Table 16-3 gives. -/
theorem MessageRecord.messageRec {s : State} {t : TaskEntry} {m : Msg} {r : LaunchRec} (h : MessageRecord s t m r) :
    s.messageRec t m = some r := by
  unfold State.messageRec
  cases h with
  | plain h hd =>
    simp only [h]
    exact if_neg (Int.not_lt.mpr hd)
  | args h hd =>
    simp only [h]
    exact if_neg (Int.not_lt.mpr hd)
  | vintage h hr hv =>
    have hb : bits m.payload 63 40 = 0 := by unfold bits; rw [Nat.div_eq_of_lt hr]; rfl
    simp only [h]
    exact if_neg (by simp [hb, hv])
/-- A message fails with a negative offset where its deadline counts from the post, and with a vintage out of range. -/
theorem State.messageRec_none {s : State} {t : TaskEntry} {m : Msg}
    (h : t.doff.toInt < 0 ∧ (t.pmode = 0 ∨ t.pmode = 1) ∨ t.pmode = 2 ∧ 2 ^ 40 ≤ m.payload.toNat) :
    s.messageRec t m = none := by
  unfold State.messageRec
  rcases h with ⟨hd, hp | hp⟩ | ⟨hp, hm⟩
  · simp only [hp]; exact if_pos hd
  · simp only [hp]; exact if_pos hd
  · have hb : bits m.payload 63 40 ≠ 0 := by
      unfold bits
      have := m.payload.isLt
      omega
    simp only [hp]
    exact if_pos (.inl hb)

/-- An entry with these messages left. -/
def TaskEntry.rest (ms : List Msg) (t : TaskEntry) : TaskEntry := { t with msgs := ms }
/-- A partition with one task-table entry changed. -/
def Part.modTask (c : Fin 256) (f : TaskEntry → TaskEntry) (q : Part) : Part := { q with tasks := vmod q.tasks c f }
theorem State.tasks_modTask (s : State) (p : Fin 3) (ch : Fin 256) (f : TaskEntry → TaskEntry) :
    ((s.modTask p ch f).prt p).tasks[ch] = f (s.prt p).tasks[ch] := by
  unfold State.modTask
  rw [State.prt_modPart]
  exact vmod_getElem_same (s.prt p).tasks ch f
/-- What the next message of a channel launches: what it was taken for, or what it makes now. -/
def State.nextTaken (s : State) (e : TaskEntry) (m : Msg) : Taken := m.taken.getD (s.taking e m)

section
variable {s : State} {p : Fin 3} {ch : Fin 256} {m : Msg} {rest : List Msg} (hrun : (s.prt p).st = .run)
  (hm : (s.prt p).tasks[ch].msgs = m :: rest)
include hm

/-- A pending message stays where its entry or R329 keeps its launch back. -/
theorem execChannelMessageTake_waits (hn : m.taken = none)
    (h : (s.prt p).tasks[ch].valid = false ∨ (s.prt p).tasks[ch].blk = true ∨ s.admits p = false) :
    execChannelMessageTake p ch s = .next s := by
  have hcond : (!s.inRun p || (m.taken.isNone && (!(s.prt p).tasks[ch].valid || (s.prt p).tasks[ch].blk ||
      !s.admits p))) = true := by
    rcases h with h | h | h <;> simp only [hn, h, Option.isNone_none, Bool.not_false, Bool.true_or, Bool.or_true, Bool.and_self]
  unfold execChannelMessageTake
  simp only [hm]
  rw [if_pos hcond]

variable (hgo : m.taken.isSome = true ∨
    ((s.prt p).tasks[ch].valid = true ∧ (s.prt p).tasks[ch].blk = false ∧ s.admits p = true))
include hrun hgo

theorem execChannelMessageTake_eq : execChannelMessageTake p ch s =
    match (s.nextTaken (s.prt p).tasks[ch] m).rcd with
    | none => .next ((s.modTask p ch (TaskEntry.rest rest)).modPart p fun q => { q with rmcnt := q.rmcnt + 1 })
    | some r => .next ((s.modTask p ch (TaskEntry.rest rest)).launch p
        (s.nextTaken (s.prt p).tasks[ch] m).vf r (.channel ch) (s.nextTaken (s.prt p).tasks[ch] m).pin) := by
  have hcond : (!s.inRun p || (m.taken.isNone && (!(s.prt p).tasks[ch].valid || (s.prt p).tasks[ch].blk ||
      !s.admits p))) = false := by
    have hin : s.inRun p = true := beq_iff_eq.mpr hrun
    rcases hgo with h | ⟨h1, h2, h3⟩
    · have : m.taken.isNone = false := by cases ht : m.taken <;> simp_all
      simp only [hin, this, Bool.not_true, Bool.false_and, Bool.or_self]
    · simp only [hin, h1, h2, h3, Bool.not_true, Bool.or_self, Bool.and_false]
  unfold execChannelMessageTake
  simp only [hm, hcond, Bool.false_eq_true, if_false]
  rfl

/-- A message that launches leaves its channel, and its job enters the device. -/
theorem channelMessage_launches {r : LaunchRec} {k : Taken} (hk : s.nextTaken (s.prt p).tasks[ch] m = k)
    (hr : k.rcd = some r) (href : r.refused false r.ddl = false) (hg : s.ungranted p k.vf r = false)
    (hc : r.cosched = false) :
    ∃ t, exec (.channelMessageTake p ch) s = .next t ∧ Launched s t p k.vf r (.channel ch) k.pin ∧
      (t.prt p).tasks[ch] = { (s.prt p).tasks[ch] with msgs := rest } := by
  have hfunc : (s.modTask p ch (TaskEntry.rest rest)).func p k.vf = s.func p k.vf :=
    State.func_of_modPart (f := Part.modTask ch (TaskEntry.rest rest)) (fun _ => rfl) k.vf
  have hag : (s.modTask p ch (TaskEntry.rest rest)).ungranted p k.vf r = false := by
    rw [State.ungranted_congr (s := s) (by rw [hfunc]) r]; exact hg
  obtain ⟨hl, hp⟩ := State.launch_launches s p (Part.modTask ch (TaskEntry.rest rest)) (fun _ => rfl) href hag hc
    (.channel ch) k.pin
  refine ⟨_, ?_, hl, ?_⟩
  · rw [exec_channelMessageTake, execChannelMessageTake_eq hrun hm hgo]
    simp only [hk, hr]
    rfl
  · exact (congrArg (fun q : Part => q.tasks[ch]) hp).trans
      (vmod_getElem_same (s.prt p).tasks ch (TaskEntry.rest rest))
/-- A message that fails leaves its channel, and is counted. -/
theorem channelMessage_fails (hk : (s.nextTaken (s.prt p).tasks[ch] m).rcd = none) :
    ∃ t, exec (.channelMessageTake p ch) s = .next t ∧ t.jobs = s.jobs ∧ (t.prt p).rmcnt = (s.prt p).rmcnt + 1 ∧
      (t.prt p).tasks[ch] = { (s.prt p).tasks[ch] with msgs := rest } := by
  refine ⟨(s.modTask p ch (TaskEntry.rest rest)).modPart p fun q => { q with rmcnt := q.rmcnt + 1 }, ?_, rfl, ?_, ?_⟩
  · rw [exec_channelMessageTake, execChannelMessageTake_eq hrun hm hgo]
    simp only [hk]
  · rw [State.prt_modPart, State.modTask, State.prt_modPart]
  · rw [State.prt_modPart]
    exact State.tasks_modTask s p ch (TaskEntry.rest rest)

end

/-! ### A task-table entry (R334, R335) -/

/-- The field of a word above bit `lo`, as the model takes it. -/
theorem ofNat_bits (w : Word) (n lo hi : Nat) (h : hi + 1 - lo = n) : BitVec.ofNat n (bits w hi lo) = w.extractLsb' lo n := by
  apply BitVec.eq_of_toNat_eq
  simp [bits, h, BitVec.extractLsb'_toNat, Nat.shiftRight_eq_div_pow]

/-- The entry that the four words of a write name, its messages kept, before Hearth checks its template. -/
def TaskEntry.written (e : TaskEntry) (q0 q1 q2 q3 : Word) : TaskEntry :=
  { e with tmplVa := q0.setWidth 56, doff := q1.extractLsb' 32 32, vf := q1.extractLsb' 8 6, pmode := q1.extractLsb' 2 2,
           blk := q1.getLsbD 1, valid := q1.getLsbD 0, perm := q2, rsv := q3.getLsbD 9, pin := q3.getLsbD 8,
           pcl := q3.extractLsb' 5 3, pcore := q3.extractLsb' 2 3, pslot := q3.extractLsb' 0 2 }
/-- An entry with the template that Hearth read, if it could. -/
def State.checkEntry (s : State) (p : Fin 3) (e : TaskEntry) : Option LaunchRec → TaskEntry
  | none => { e with valid := false }
  | some r => { e with tmpl := r, valid := !(r.refused false 0 || e.tmplVa.toNat % 64 != 0 || e.pmode == 3 ||
                                            s.badPin p { e with tmpl := r }) }

theorem execTaskTableWrite_eq {s : State} {p : Fin 3} (hrun : (s.prt p).st = .run) (ch : Fin 256) (q0 q1 q2 q3 : Word) :
    execTaskTableWrite p ch q0 q1 q2 q3 s = .next (
      let e := (s.prt p).tasks[ch].written q0 q1 q2 q3
      if q1.getLsbD 0 = false then s.modTask p ch fun _ => e
      else (s.afterTemplate p (Fin.ofNat 64 e.vf.toNat) e.tmplVa.toNat).modTask p ch fun _ =>
        s.checkEntry p e (s.readTemplate p (Fin.ofNat 64 e.vf.toNat) e.tmplVa.toNat)) := by
  have hin : s.inRun p = true := beq_iff_eq.mpr hrun
  unfold execTaskTableWrite
  simp only [hin, Bool.not_true, Bool.false_eq_true, if_false, bit, ofNat_bits _ 32 32 63 rfl, ofNat_bits _ 6 8 13 rfl,
    ofNat_bits _ 2 2 3 rfl, ofNat_bits _ 3 5 7 rfl, ofNat_bits _ 3 2 4 rfl, ofNat_bits _ 2 0 1 rfl]
  cases hv : q1.getLsbD 0
  · simp only [Bool.not_false, if_true, TaskEntry.written, hv]
  · simp only [Bool.not_true, Bool.false_eq_true, if_false, TaskEntry.written, hv]
    cases s.readTemplate p (Fin.ofNat 64 (q1.extractLsb' 8 6).toNat) (q0.setWidth 56).toNat <;> rfl

theorem State.afterPoison_sans (s : State) (l : Loc) (n : Nat) : (s.afterPoison l n).sansReads = s.sansReads := by
  unfold State.afterPoison
  split
  · rfl
  · exact State.afterRead_sans s l n
/-- Reading a template has no other effect than a read (R370, R371). -/
theorem State.afterTemplate_sans (s : State) (p : Fin 3) (vf : Fin 64) (a : Nat) :
    (s.afterTemplate p vf a).sansReads = s.sansReads := by
  have reads : ∀ (f : Nat → Loc) (ks : List Nat) (u : State),
      (ks.foldl (fun u k => u.afterRead (f k) 8) u).sansReads = u.sansReads := fun f ks => by
    induction ks with
    | nil => exact fun _ => rfl
    | cons k ks ih => exact fun u => (ih _).trans (State.afterRead_sans u _ _)
  unfold State.afterTemplate
  split
  · next c _ =>
    rcases State.untranslated_cases s p vf a c with h | ⟨l, h⟩
    · rw [h]
    · rw [h, State.afterPoison_sans]
  · dsimp only
    split
    · rfl
    · split
      · exact State.afterPoison_sans s _ _
      · exact reads _ _ _

/-- An entry written leaves everything but itself. -/
theorem State.sansTask_modTask {s u : State} (h : u.sansReads = s.sansReads) (p : Fin 3) (ch : Fin 256) (e : TaskEntry) :
    (State.sansTask p ch (u.modTask p ch fun _ => e)).sansReads = (State.sansTask p ch s).sansReads := by
  have hput : State.sansTask p ch (u.modTask p ch fun _ => e) = State.sansTask p ch u := by
    unfold State.sansTask State.modTask
    rw [State.modPart_modPart]
    refine congrArg (fun f => u.modPart p f) (funext fun q => ?_)
    exact congrArg (fun v => ({ q with tasks := v } : Part)) (vput_vput q.tasks ch e TaskEntry.empty)
  rw [hput]
  have := congrArg (State.sansTask p ch) h
  exact this

/-- Hearth accepts a template as R332 and R335 say. -/
theorem State.checkEntry_valid (s : State) (p : Fin 3) (e : TaskEntry) (r : LaunchRec) :
    (s.checkEntry p e (some r)).valid = true ↔ r.refused false 0 = false ∧ e.tmplVa.toNat % 64 = 0 ∧ e.pmode ≠ 3 ∧
      (e.pin = true → r.gangs = 1 ∧ r.cosched = false ∧ r.paired = false ∧ e.pslot.toNat + r.harts ≤ 4 ∧
        (s.prt p).cap1.getLsbD (56 + e.pcl.toNat) = true) := by
  simp only [State.checkEntry, State.badPin, bit, Bool.not_eq_true', Bool.or_eq_false_iff, bne_eq_false_iff_eq,
    beq_eq_false_iff_ne, Bool.and_eq_false_imp, decide_eq_false_iff_not, Nat.not_lt, Bool.not_eq_false', and_assoc]
/-- What the check of an entry keeps. -/
theorem State.checkEntry_keeps (s : State) (p : Fin 3) (e : TaskEntry) (o : Option LaunchRec) :
    { s.checkEntry p e o with tmpl := e.tmpl, valid := e.valid } = e := by
  cases o <;> rfl

/-- Settles O55: windows, messages and entries in turn. -/
theorem launchesMakeJobs : Obligations.LaunchesMakeJobs := by
  unfold Obligations.LaunchesMakeJobs
  refine ⟨?_, ?_, ?_⟩
  · intro s p vf ch hrun hadm
    refine ⟨fun r hne hr => ⟨fun href hg hc => launchWindow_takes hrun hadm hne hr href hg hc, fun h hcrec =>
      launchWindow_refuses hrun hadm hne hr h hcrec⟩, ?_⟩
    rintro e m rest r rfl hm hv hb hn hr href hg hc
    have hk : s.nextTaken (s.prt p).tasks[ch] m = s.taking (s.prt p).tasks[ch] m := by simp [State.nextTaken, hn]
    have hl := channelMessage_launches hrun hm (.inr ⟨hv, hb, hadm⟩) hk hr.messageRec href hg hc
    rw [show (s.taking (s.prt p).tasks[ch] m).pin = (s.prt p).tasks[ch].place from rfl, TaskEntry.place, Nat.mul_comm] at hl
    exact hl
  · rintro s p ch e m rest hrun rfl hm
    refine ⟨fun k r hk hr href hg hc => ?_, ?_, fun hn h => execChannelMessageTake_waits hm hn h⟩
    · exact channelMessage_launches hrun hm (.inl (by rw [hk]; rfl)) (by simp [State.nextTaken, hk]) hr href hg hc
    · rintro (⟨hn, hv, hb, hadm, hfail⟩ | ⟨k, hk, hr⟩)
      · exact channelMessage_fails hrun hm (.inr ⟨hv, hb, hadm⟩)
          (by simp only [State.nextTaken, hn]; exact State.messageRec_none hfail)
      · exact channelMessage_fails hrun hm (.inl (by rw [hk]; rfl)) (by simp only [State.nextTaken, hk]; exact hr)
  · intro s p ch q0 q1 q2 q3 hrun
    have he := execTaskTableWrite_eq hrun ch q0 q1 q2 q3
    rw [exec_taskTableWrite, he]
    generalize hw : (s.prt p).tasks[ch].written q0 q1 q2 q3 = w
    have hva : w.tmplVa = q0.setWidth 56 := by rw [← hw]; rfl
    have hvf : w.vf = q1.extractLsb' 8 6 := by rw [← hw]; rfl
    dsimp only
    rw [hva, hvf]
    cases hv : q1.getLsbD 0
    · refine ⟨s.modTask p ch fun _ => w, if_pos rfl ▸ rfl, w, State.tasks_modTask s p ch fun _ => w,
        State.sansTask_modTask rfl p ch w, ?_⟩
      subst hw
      exact ⟨rfl, rfl, rfl, rfl, rfl, rfl, rfl, rfl, rfl, rfl, rfl, rfl, fun _ => hv, fun _ h => nomatch h⟩
    · generalize ho : s.readTemplate p (Fin.ofNat 64 (q1.extractLsb' 8 6).toNat) (q0.setWidth 56).toNat = o
      refine ⟨_, rfl, s.checkEntry p w o, State.tasks_modTask _ p ch fun _ => s.checkEntry p w o,
        State.sansTask_modTask (State.afterTemplate_sans s _ _ _) p ch _, ?_⟩
      have field : ∀ {α : Type} (k : TaskEntry → α), (∀ e r v, k { e with tmpl := r, valid := v } = k e) →
          k (s.checkEntry p w o) = k w := fun k hk => (hk _ _ _).symm.trans (congrArg k (State.checkEntry_keeps s p w o))
      refine ⟨(field TaskEntry.msgs fun _ _ _ => rfl).trans (by rw [← hw]; rfl), (field _ fun _ _ _ => rfl).trans hva,
        (field TaskEntry.doff fun _ _ _ => rfl).trans (by rw [← hw]; rfl), (field _ fun _ _ _ => rfl).trans hvf,
        (field TaskEntry.pmode fun _ _ _ => rfl).trans (by rw [← hw]; rfl),
        (field TaskEntry.blk fun _ _ _ => rfl).trans (by rw [← hw]; rfl),
        (field TaskEntry.perm fun _ _ _ => rfl).trans (by rw [← hw]; rfl),
        (field TaskEntry.rsv fun _ _ _ => rfl).trans (by rw [← hw]; rfl),
        (field TaskEntry.pin fun _ _ _ => rfl).trans (by rw [← hw]; rfl),
        (field TaskEntry.pcl fun _ _ _ => rfl).trans (by rw [← hw]; rfl),
        (field TaskEntry.pcore fun _ _ _ => rfl).trans (by rw [← hw]; rfl),
        (field TaskEntry.pslot fun _ _ _ => rfl).trans (by rw [← hw]; rfl), fun h => Bool.noConfusion h, fun r _ hr => ?_⟩
      subst hr
      refine ⟨rfl, (State.checkEntry_valid s p w r).trans ?_⟩
      subst hw
      exact Iff.rfl

end Sys2Proof.Machine
end


section
/-!
SUPPORT. A placement opportunity for the one gang that waits, and the release of a gang that is over.
-/

namespace Sys2Proof.Machine

/-! ### Ready order (R338) -/

theorem mem_sortedInsert {α : Type} (le : α → α → Bool) (x y : α) (l : List α) : y ∈ sortedInsert le x l ↔ y = x ∨ y ∈ l := by
  induction l with
  | nil => simp [sortedInsert]
  | cons z zs ih =>
    unfold sortedInsert
    split
    · exact List.mem_cons
    · simp only [List.mem_cons, ih]; grind
/-- Sorting keeps the members of a list. -/
theorem mem_sorted {α : Type} (l : List α) (le : α → α → Bool) (y : α) : y ∈ sorted l le ↔ y ∈ l := by
  induction l with
  | nil => rfl
  | cons x xs ih =>
    show y ∈ sortedInsert le x (sorted xs le) ↔ _
    rw [mem_sortedInsert, ih, List.mem_cons]
/-- A job that is ready has an unplaced gang. -/
theorem State.mem_readyJobs (s : State) (p : Fin 3) (j : Job) :
    j ∈ s.readyJobs p ↔ j ∈ s.jobs ∧ j.p = p ∧ j.ready = true ∧ s.unplaced j false ≠ [] := by
  unfold State.readyJobs
  simp only [List.mem_append, mem_sorted, List.mem_filter, Bool.and_eq_true, beq_iff_eq, Bool.not_eq_true',
    List.isEmpty_eq_false_iff]
  cases j.classZero <;> simp [and_assoc]

/-! ### Unplaced gangs (R34) -/

/-- No gang of the device is evicted. -/
def State.noneEvicted (s : State) : Prop := ∀ g ∈ s.gangs, g.phase ≠ .evicted
/-- With no gang evicted, a job's unplaced gangs are those passed over and those not reached. -/
theorem State.unplaced_eq {s : State} (h : s.noneEvicted) (j : Job) : s.unplaced j false =
    sorted (j.skipped.map fun i => (i, (none : Option Gang))) (fun a b => decide (a.1 ≤ b.1)) ++
      (List.range (min (j.rcd.gangs - j.nextGang) (s.holds.length + 1))).map fun i => (j.nextGang + i, none) := by
  have he : s.gangs.filter (fun g => g.p == j.p && g.job == j.id && g.phase == .evicted) = [] :=
    List.filter_eq_nil_iff.mpr fun g hg => by simp [h g hg]
  unfold State.unplaced
  rw [he]
  rfl
theorem State.unplaced_last {s : State} (h : s.noneEvicted) {j : Job} (hk : j.skipped = [])
    (hn : j.nextGang + 1 = j.rcd.gangs) : s.unplaced j false = [(j.nextGang, none)] := by
  have : min (j.rcd.gangs - j.nextGang) (s.holds.length + 1) = 1 := by omega
  rw [State.unplaced_eq h, hk, this]
  rfl
theorem State.unplaced_none {s : State} (h : s.noneEvicted) {j : Job} (hk : j.skipped = []) (hn : j.nextGang = j.rcd.gangs) :
    s.unplaced j false = [] := by
  rw [State.unplaced_eq h, hk, hn, Nat.sub_self, Nat.zero_min]
  rfl

/-! ### One gang placed (R338, R339) -/

theorem State.unhold_eq {s : State} {j : Job} {index : Nat} (h : s.held j index = none) : s.unhold j index = s := by
  have : s.holds.filter (fun h => !(h.p == j.p && h.job == j.id && h.index == index)) = s.holds :=
    List.filter_eq_self.mpr fun x hx =>
      (Bool.not_eq_true' _).mpr (Bool.eq_false_iff.mpr (List.find?_eq_none.mp h x hx))
  unfold State.unhold
  rw [this]
/-- The job after its gang `index` was placed for the first time. -/
def Job.gangPlaced (index : Nat) (j : Job) : Job :=
  let next := max j.nextGang (index + 1)
  let skipped := (j.skipped ++ (List.range (next - j.nextGang)).map (j.nextGang + ·)).filter (· != index)
  { j with nextGang := next, skipped := skipped, st := if next = j.rcd.gangs ∧ skipped = [] then .placed else .placing }
/-- The job with its next turn. -/
def Job.withTurn (turn : Nat) (j : Job) : Job := { j with turn := turn }
/-- A new gang placed for a job, which gets its next turn. -/
theorem State.placeGang_new (s : State) (j : Job) (index : Nat) (a : Seat) : s.placeGang j index none a none =
    (({ s with gangs := s.gangs ++ [s.newGang j index a none], nextGang := s.nextGang + 1 }.modJob j.p j.id
      (Job.gangPlaced index)).modPart j.p fun q => { q with nextOrder := q.nextOrder + 1 }).modJob j.p j.id
        (Job.withTurn (s.prt j.p).nextOrder) := rfl
/-- The last gang of a job that passed none over. -/
theorem Job.gangPlaced_last {j : Job} (hk : j.skipped = []) (hn : j.nextGang + 1 = j.rcd.gangs) :
    (j.gangPlaced j.nextGang).skipped = [] ∧ (j.gangPlaced j.nextGang).nextGang = j.nextGang + 1 ∧
      (j.gangPlaced j.nextGang).st = .placed := by
  have hmax : max j.nextGang (j.nextGang + 1) = j.nextGang + 1 := by omega
  have hskip : (j.gangPlaced j.nextGang).skipped = [] := by
    simp only [Job.gangPlaced, hk, hmax, List.nil_append]
    simp
  have hnext : (j.gangPlaced j.nextGang).nextGang = j.nextGang + 1 := hmax
  exact ⟨hskip, hnext, if_pos ⟨hnext.trans hn, hskip⟩⟩

/-- What a placement opportunity needs to place the last gang of its one ready job. -/
structure PlacesLast (s : State) (p : Fin 3) (j : Job) (a : Seat) : Prop where
  ready : s.readyJobs p = [j]
  part : j.p = p
  mem : j ∈ s.jobs
  unique : ∀ x ∈ s.jobs, x.p = p → x.id = j.id → x = j
  alone : j.rcd.cosched = false
  skipped : j.skipped = []
  last : j.nextGang + 1 = j.rcd.gangs
  noneEvicted : s.noneEvicted
  free : s.held j j.nextGang = none
  fits : s.findSeats p (j.need none) (s.cores p) = some (a, none)

section
variable {s : State} {p : Fin 3} {j : Job} {a : Seat} (h : PlacesLast s p j a)
include h

/-- The first thing that can be done is to place the gang. -/
theorem PlacesLast.tryJobs : s.tryJobs false (s.readyJobs p) = some (s.placeGang j j.nextGang none a none) := by
  have hone : s.placeOne j j.nextGang none = some (s.placeGang j j.nextGang none a none) := by
    unfold State.placeOne
    simp only [h.free, State.unhold_eq h.free, h.part, h.fits, Option.map_some]
  have hjob : s.tryJob j = some (s.placeGang j j.nextGang none a none) := by
    unfold State.tryJob
    simp only [h.alone, Bool.false_eq_true, if_false, State.unplaced_last h.noneEvicted h.skipped h.last,
      List.findSome?_cons, hone]
  rw [h.ready]
  simp only [State.tryJobs, Bool.false_and, Bool.false_eq_true, if_false, hjob]

/-- Then no gang is evicted, and the job has no gang left to place. -/
theorem PlacesLast.noneEvicted_after : (s.placeGang j j.nextGang none a none).noneEvicted := by
  rw [State.placeGang_new]
  intro g hg
  rcases List.mem_append.mp hg with hg | hg
  · exact h.noneEvicted g hg
  · rw [List.mem_singleton.mp hg]; exact Phase.noConfusion

/-- The jobs after the placing: those of before, but for the one placed. -/
theorem PlacesLast.mem_jobs {x : Job} (hx : x ∈ (s.placeGang j j.nextGang none a none).jobs) (hp : x.p = p) :
    x ∈ s.jobs ∧ x ≠ j ∨ x = (j.gangPlaced j.nextGang).withTurn (s.prt j.p).nextOrder := by
  rw [State.placeGang_new] at hx
  simp only [State.modJob, State.modPart_jobs, List.map_map, List.mem_map, Function.comp] at hx
  obtain ⟨y, hy, rfl⟩ := hx
  by_cases hc : y.p = j.p ∧ y.id = j.id
  · right
    obtain rfl := h.unique y hy (hc.1.trans h.part) hc.2
    simp [Job.gangPlaced]
  · left
    simp only [hc, if_false] at hp ⊢
    exact ⟨hy, fun e => hc (by rw [e]; exact ⟨rfl, rfl⟩)⟩

/-- After that nothing is ready. -/
theorem PlacesLast.readyJobs_after : (s.placeGang j j.nextGang none a none).readyJobs p = [] := by
  refine List.eq_nil_iff_forall_not_mem.mpr fun x hx => ?_
  obtain ⟨hmem, hp, hr, hu⟩ := (State.mem_readyJobs _ p x).mp hx
  have hne := h.noneEvicted_after
  obtain ⟨hskip, hnext, -⟩ := Job.gangPlaced_last h.skipped h.last
  rcases h.mem_jobs hmem hp with ⟨hx', hxj⟩ | rfl
  · have hu' : s.unplaced x false ≠ [] := by
      rw [State.unplaced_eq h.noneEvicted]
      rw [State.unplaced_eq hne] at hu
      exact hu
    have := (State.mem_readyJobs s p x).mpr ⟨hx', hp, hr, hu'⟩
    rw [h.ready] at this
    exact hxj (List.mem_singleton.mp this)
  · exact hu (State.unplaced_none hne hskip (hnext.trans h.last))

theorem PlacesLast.placeAll (n : Nat) : s.placeAll p (n + 2) = s.placeGang j j.nextGang none a none := by
  have hdone : (s.placeGang j j.nextGang none a none).placeAll p (n + 1) = s.placeGang j j.nextGang none a none := by
    simp only [State.placeAll, h.readyJobs_after, State.tryJobs]
  rw [State.placeAll, h.tryJobs]
  exact hdone

/-- The job as it is found after its last gang was placed. -/
theorem PlacesLast.job? : (s.placeGang j j.nextGang none a none).job? p j.id =
    some ((j.gangPlaced j.nextGang).withTurn (s.prt j.p).nextOrder) := by
  have hj : s.job? p j.id = some j := by
    cases hf : s.job? p j.id with
    | none => exact absurd (List.find?_eq_none.mp hf j h.mem) (by simp [h.part])
    | some x =>
      have hx := List.find?_some hf
      simp only [Bool.and_eq_true, beq_iff_eq] at hx
      rw [h.unique x (List.mem_of_find?_eq_some hf) hx.1 hx.2]
  rw [State.placeGang_new, h.part]
  refine (State.job?_modJob _ p j.id (Job.withTurn (s.prt p).nextOrder) fun _ => ⟨rfl, rfl⟩).trans
    (congrArg (Option.map (Job.withTurn (s.prt p).nextOrder)) (a₂ := some (j.gangPlaced j.nextGang)) ?_)
  exact (State.job?_modJob _ p j.id (Job.gangPlaced j.nextGang) fun _ => ⟨rfl, rfl⟩).trans
    (congrArg (Option.map (Job.gangPlaced j.nextGang)) hj)

end

/-- A hart of a new gang (R70). -/
theorem Hart.first_eq (q : LaunchRec) (svec : Word) (sver : BitVec 8) : (Hart.first q svec sver).pc = word q.entry ∧
    (Hart.first q svec sver).g[(1 : Fin 32)] = q.q1 ∧ (Hart.first q svec sver).st = .running ∧
    (Hart.first q svec sver).vl = 128 ∧ (Hart.first q svec sver).fcsr = 1 ∧ (Hart.first q svec sver).sup.svec = svec ∧
    (Hart.first q svec sver).sup.sver = sver :=
  ⟨rfl, vput_getElem_same _ _ _, rfl, rfl, rfl, rfl, rfl⟩

/-! ### Release (R26, R339) -/

theorem Gang.toClear_eq (g : Gang) : g.toClear =
    (g.core, g.spBase, g.spsize) :: (g.core2.map fun c => (c, g.spBase2, g.spsize)).toList := by
  unfold Gang.toClear Gang.seats
  cases g.core2 <;> rfl
theorem execGangRelease_untouched {s : State} {u : Nat} {g : Gang} (hg : s.gang? u = some g) (hp : g.phase = .over)
    (ht : s.touched u = false) : execGangRelease u s =
    .next { s with gangs := s.gangs.filter fun x => x.uid ≠ u, toClear := s.toClear ++ g.toClear } := by
  simp only [execGangRelease, hg, hp, ht]
  simp
theorem execGangRelease_touched {s : State} {u : Nat} {g : Gang} (hg : s.gang? u = some g) (ht : s.touched u = true) :
    execGangRelease u s = .next s := by
  simp only [execGangRelease, hg, ht, or_true, if_true]

end Sys2Proof.Machine
end


section
/-!
SUPPORT. Light pre-emption: what fetching for a cut `MOPA` may change, what the cut changes, the gangs that stop, and those
that resume.
-/

namespace Sys2Proof.Machine

/-! ### Asides: what reading an instruction word changes outside the hart -/

/-- Nothing changed but what `State.sansCut` hides. -/
def State.aside (s t : State) : Prop := t.sansCut = s.sansCut

theorem State.aside.refl (s : State) : s.aside s := rfl
theorem State.aside.trans {s t u : State} (h : s.aside t) (k : t.aside u) : s.aside u := Eq.trans k h
theorem State.aside.of_sansReads {s t : State} (h : t.sansReads = s.sansReads) : s.aside t :=
  congrArg (fun u : State => ({ u with tlb := [], walks := [], serves := [], choices := [] } : State)) h
theorem State.aside.gangs {s t : State} (h : s.aside t) : t.gangs = s.gangs := by
  have := congrArg State.gangs h; exact this
theorem State.aside.cur {s t : State} (h : s.aside t) : t.cur = s.cur := by
  have := congrArg State.cur h; exact this
theorem State.aside.me {s t : State} (h : s.aside t) : t.me = s.me := State.me_of_gangs h.gangs h.cur

theorem State.aside_choose (s : State) : s.aside s.choose.2 := by
  unfold State.choose; split <;> rfl
theorem State.aside_afterRead (s : State) (l : Loc) (n : Nat) : s.aside (s.afterRead l n) :=
  State.aside.of_sansReads (State.afterRead_sans s l n)
theorem State.aside_afterPoison (s : State) (l : Loc) (n : Nat) : s.aside (s.afterPoison l n) :=
  State.aside.of_sansReads (State.afterPoison_sans s l n)
theorem State.aside_untranslated (s : State) (p : Fin 3) (vf : Fin 64) (va : Nat) (c : Cause) :
    s.aside (s.untranslated p vf va c) := by
  rcases State.untranslated_cases s p vf va c with h | ⟨l, h⟩
  · rw [h]; exact State.aside.refl s
  · rw [h]; exact State.aside_afterPoison s l 8
theorem State.aside_lookup (s : State) (p : Fin 3) (vf : Fin 64) (va : Nat) : s.aside (s.lookup p vf va).2 := by
  have h := State.aside_choose s
  unfold State.lookup
  dsimp only
  split
  · exact h
  · exact h.trans rfl
  · exact h
theorem State.aside_translate (s : State) (u : Use) (va : Word) : s.aside (s.translate u va).2 := by
  have h := State.aside_lookup s s.myGang.p s.myVf va.toNat
  unfold State.translate
  dsimp only
  split
  · next c t e => rw [e] at h; exact h.trans (State.aside_untranslated t _ _ _ c)
  · next l t e =>
    rw [e] at h
    split
    · exact h
    · exact h

/-! ### What a cut leaves of the gangs -/

/-- A gang with something hidden of each hart. -/
def Gang.onHarts (e : Hart → Hart) (g : Gang) : Gang := { g with harts := g.harts.map e }

/-- From `s` to `t`, the gangs in `us` changed what `e` hides of their harts, and the device what a fetch may change. -/
structure Cut (e : Hart → Hart) (us : Nat → Prop) (s t : State) : Prop where
  device : { t.sansCut with gangs := [] } = { s.sansCut with gangs := [] }
  lists : t.gangs.map Gang.sansHarts = s.gangs.map Gang.sansHarts
  found : ∀ u, (t.gang? u).map (Gang.onHarts e) = (s.gang? u).map (Gang.onHarts e)
  others : ∀ u, ¬ us u → t.gang? u = s.gang? u

theorem Cut.refl (e : Hart → Hart) (us : Nat → Prop) (s : State) : Cut e us s s :=
  ⟨rfl, rfl, fun _ => rfl, fun _ _ => rfl⟩
theorem Cut.trans {e : Hart → Hart} {us : Nat → Prop} {s t u : State} (h : Cut e us s t) (k : Cut e us t u) : Cut e us s u :=
  ⟨k.device.trans h.device, k.lists.trans h.lists, fun v => (k.found v).trans (h.found v),
    fun v hv => (k.others v hv).trans (h.others v hv)⟩
theorem Cut.mono {e : Hart → Hart} {us vs : Nat → Prop} {s t : State} (h : Cut e us s t) (hs : ∀ u, us u → vs u) :
    Cut e vs s t :=
  ⟨h.device, h.lists, h.found, fun u hu => h.others u fun k => hu (hs u k)⟩
theorem Cut.of_aside {s t : State} (h : s.aside t) (e : Hart → Hart) (us : Nat → Prop) : Cut e us s t where
  device := congrArg (fun u : State => { u with gangs := [] }) h
  lists := by rw [h.gangs]
  found u := by rw [State.gang?_gangs h.gangs u]
  others u _ := State.gang?_gangs h.gangs u
theorem Cut.cur {e : Hart → Hart} {us : Nat → Prop} {s t : State} (h : Cut e us s t) : t.cur = s.cur := by
  have := congrArg State.cur h.device; exact this
theorem Cut.jobs {e : Hart → Hart} {us : Nat → Prop} {s t : State} (h : Cut e us s t) : t.jobs = s.jobs := by
  have := congrArg State.jobs h.device; exact this
theorem Cut.byteAt {e : Hart → Hart} {us : Nat → Prop} {s t : State} (h : Cut e us s t) (l : Loc) :
    t.byteAt l = s.byteAt l := by
  have := congrArg (fun u : State => u.byteAt l) h.device; exact this

/-- The running hart changed what `e` hides of it. -/
theorem Cut.of_modMe {e : Hart → Hart} {s : State} {f : Hart → Hart} (h : e (f s.me) = e s.me) :
    Cut e (· = s.cur.gang) s (s.modMe f) where
  device := rfl
  lists := by
    simp only [State.modMe, State.modHart, State.modGang, List.map_map]
    refine List.map_congr_left fun g _ => ?_
    simp only [Function.comp]
    split <;> rfl
  found u := by
    by_cases hu : u = s.cur.gang
    · subst hu
      have hg := State.gang?_modGang s s.cur.gang (fun g => { g with harts := vmod g.harts s.cur.rank f }) fun _ => rfl
      refine (congrArg (Option.map (Gang.onHarts e)) hg).trans ?_
      cases hs : s.gang? s.cur.gang with
      | none => rfl
      | some g =>
        have hme : s.me = g.harts[s.cur.rank] := by simp [State.me, State.hart, State.gang, hs]
        rw [hme] at h
        have hv := vmod_map_at g.harts s.cur.rank f e h
        exact congrArg (fun v => some ({ g with harts := v } : Gang)) hv
    · rw [State.gang?_modMe_other s f hu]
  others u hu := State.gang?_modMe_other s f hu

/-- A step for one hart, from which the turn goes back. -/
theorem Cut.asHart {e : Hart → Hart} {us : Nat → Prop} {s : State} {h : HartId} {k : State → State}
    (hk : Cut e us { s with cur := h } (k { s with cur := h })) : Cut e us s (s.asHart h k) where
  device := by
    have := congrArg (fun u : State => { u with cur := s.cur }) hk.device
    exact this
  lists := hk.lists
  found u := hk.found u
  others u hu := hk.others u hu

/-! ### A fetch, and a `MOPA` cut short (R24, R256, R347) -/

section
variable {e : Hart → Hart} (hic : ∀ (x : Hart) c, e { x with icache := c } = e x)
include hic

theorem Cut.fetchWord (s : State) (l : Loc) : Cut e (· = s.cur.gang) s (s.fetchWord l).2 := by
  have hc := State.aside_choose s
  have hr := hc.trans (State.aside_afterRead s.choose.2 l 8)
  unfold State.fetchWord
  dsimp only
  split
  · exact .of_aside hc e _
  · unfold State.keepWord
    dsimp only
    split
    · have hm := Cut.of_modMe (e := e) (s := s.choose.2.afterRead l 8) (f := fun h : Hart => { h with
        icache := { at_ := l, word := word (natOfBytes (s.readHome l 8)),
                    since := ((s.choose.2.afterRead l 8).prt (s.choose.2.afterRead l 8).myGang.p).nextOrder } ::
          h.icache.filter fun e => e.at_ != l }) (hic _ _)
      rw [hr.cur] at hm
      exact (Cut.of_aside hr e _).trans hm
    · exact .of_aside hr e _
  · have hm := Cut.of_modMe (e := e) (s := s.choose.2.afterRead l 8) (f := fun h : Hart => { h with icache := [] }) (hic _ _)
    rw [hr.cur] at hm
    exact (Cut.of_aside hr e _).trans hm
  · exact .of_aside hr e _
theorem Cut.fetch (s : State) : Cut e (· = s.cur.gang) s s.fetch.2 := by
  have h := State.aside_translate s .fetch s.pcv
  unfold State.fetch
  split
  · next c t he => rw [he] at h; exact .of_aside h e _
  · next l q t he =>
    rw [he] at h
    split
    · exact .of_aside (h.trans (State.aside_afterPoison t l 8)) e _
    · have hf := Cut.fetchWord hic t l
      rw [h.cur] at hf
      exact (Cut.of_aside h e _).trans hf

end

theorem State.flag_eq (s : State) (f : Flags) : ∃ c : Flags → Flags, s.flag f = s.modMe fun h => { h with fcsr := c h.fcsr } := by
  unfold State.flag
  split
  · exact ⟨id, (State.modMe_id s).symm⟩
  · exact ⟨(· ||| f), rfl⟩

/-- The tiles of a `MOPA` that passes its checks are those of the hart. -/
theorem State.mopaPlan_tiles {s : State} {q : VMod} {cj : Bool} {n : Fin 4} {a b : VrOp} {r : MopaPlan}
    (h : s.mopaPlan q cj n a b = .ok (some r)) :
    s.me.acc[n] = some r.re ∧ ∀ im, r.im = some im → s.me.acc[n + 1] = some im := by
  unfold State.mopaPlan at h
  split at h
  · cases h
  · dsimp only at h
    split at h
    · cases h
    · split at h
      · cases h
      · cases h
      · next re hre _ =>
        split at h
        · cases h
        · injection h with h
          injection h with h
          subst h
          refine ⟨hre, fun im him => ?_⟩
          dsimp only at him
          split at him
          · exact him
          · cases him

/-- A `MOPA` cut short changes tiles, flags and the element index; with no group performed it changes the flags at most. -/
theorem State.mopaPart_eq {s v : State} {q : VMod} {cj : Bool} {n : Fin 4} {a b : VrOp} {k : Nat}
    (h : s.mopaPart q cj n a b k = some v) :
    ∃ (A : Vector (Option Tile) 4 → Vector (Option Tile) 4) (c : Flags → Flags),
      v = s.modMe (fun x => { x with acc := A x.acc, fcsr := c x.fcsr, ei := s.me.ei + k }) ∧ (k = 0 → A s.me.acc = s.me.acc) := by
  unfold State.mopaPart at h
  split at h
  · next r hplan =>
    obtain ⟨hre, him⟩ := State.mopaPlan_tiles hplan
    split at h
    · injection h with h
      subst h
      unfold State.mopaRun
      dsimp only
      obtain ⟨c, hc⟩ := State.flag_eq (s.setTile n (some (r.m.groups false k s.me.ei r.re).1)) (r.m.groups false k s.me.ei r.re).2
      have hre0 : k = 0 → vput s.me.acc n (some (r.m.groups false k s.me.ei r.re).1) = s.me.acc := fun hk => by
        subst hk
        show vput s.me.acc n (some r.re) = s.me.acc
        rw [← hre]; exact vput_self _ _
      cases hi : r.im with
      | none =>
        refine ⟨fun acc => vput acc n (some (r.m.groups false k s.me.ei r.re).1), c, ?_, hre0⟩
        dsimp only
        rw [hc, State.setTile, State.modMe_modMe, State.modMe_modMe]
        rfl
      | some im =>
        dsimp only
        rw [hc]
        obtain ⟨d, hd⟩ := State.flag_eq
          (((s.setTile n (some (r.m.groups false k s.me.ei r.re).1)).modMe fun h => { h with fcsr := c h.fcsr }).setTile (n + 1)
            (some (r.m.groups true k s.me.ei im).1)) (r.m.groups true k s.me.ei im).2
        refine ⟨fun acc => vput (vput acc n (some (r.m.groups false k s.me.ei r.re).1)) (n + 1)
          (some (r.m.groups true k s.me.ei im).1), d ∘ c, ?_, fun hk => ?_⟩
        · rw [hd, State.setTile, State.setTile, State.modMe_modMe, State.modMe_modMe, State.modMe_modMe, State.modMe_modMe]
          rfl
        · dsimp only
          rw [hre0 hk]
          subst hk
          show vput s.me.acc (n + 1) (some im) = s.me.acc
          rw [← him im hi]; exact vput_self _ _
    · cases h
  · cases h

/-- A hart without what fetching an instruction may change, and without what it waits for. -/
def Hart.sansFetch (h : Hart) : Hart :=
  { h with fcsr := 0, icache := [], wait := none, sup := { h.sup with wait := none } }

/-- What holds of a cut: it is hidden by `Hart.sansCut`; with no choice given it leaves the tiles and the element index. -/
theorem State.cutMopa_cut (s : State) (h : HartId) : Cut Hart.sansCut (· = h.gang) s (s.cutMopa h) := by
  unfold State.cutMopa
  refine Cut.asHart ?_
  have hf := Cut.fetch (e := Hart.sansCut) (fun _ _ => rfl) { s with cur := h }
  split
  · next w t hd he =>
    rw [he] at hf
    split
    · next q cj n a b hi =>
      split
      · exact .refl _ _ _
      · dsimp only
        cases hv : t.choose.2.mopaPart q cj n a b t.choose.1 with
        | none => exact .refl _ _ _
        | some v =>
          obtain ⟨A, c, rfl, -⟩ := State.mopaPart_eq hv
          have hm := Cut.of_modMe (e := Hart.sansCut) (s := t.choose.2) (f := fun x => { x with
            acc := A x.acc, fcsr := c x.fcsr, ei := t.choose.2.me.ei + t.choose.1 }) rfl
          rw [(State.aside_choose t).cur, hf.cur] at hm
          exact (hf.trans (Cut.of_aside (State.aside_choose t) _ _)).trans hm
    · exact .refl _ _ _
  · exact .refl _ _ _

/-! ### With no choice given, a cut performs no group -/

theorem State.choose_nil {s : State} (h : s.choices = []) : s.choose = (0, s) := by
  unfold State.choose; rw [h]
theorem State.choices_afterRead (s : State) (l : Loc) (n : Nat) : (s.afterRead l n).choices = s.choices := by
  unfold State.afterRead; split <;> rfl
theorem State.choices_afterPoison (s : State) (l : Loc) (n : Nat) : (s.afterPoison l n).choices = s.choices := by
  unfold State.afterPoison
  split
  · rfl
  · exact State.choices_afterRead s l n
theorem State.choices_translate {s : State} (h : s.choices = []) (u : Use) (va : Word) : (s.translate u va).2.choices = [] := by
  unfold State.translate
  simp only [State.lookup_none h]
  split
  · next c t e =>
    injection e with _ e; subst e
    rcases State.untranslated_cases s s.myGang.p s.myVf va.toNat c with k | ⟨l, k⟩
    · rw [k]; exact h
    · rw [k, State.choices_afterPoison]; exact h
  · next l t e =>
    injection e with _ e; subst e
    split
    · exact h
    · exact h
theorem State.choices_fetch {s : State} (h : s.choices = []) : s.fetch.2.choices = [] := by
  have ht := State.choices_translate h .fetch s.pcv
  unfold State.fetch
  split
  · next c t he => rw [he] at ht; exact ht
  · next l q t he =>
    rw [he] at ht
    split
    · rw [State.choices_afterPoison]; exact ht
    · unfold State.fetchWord
      simp only [State.choose_nil ht]
      exact (State.choices_afterRead t l 8).trans ht

/-- A cut with no choice given. -/
theorem State.cutMopa_still {s : State} (hch : s.choices = []) (h : HartId) :
    Cut Hart.sansFetch (· = h.gang) s (s.cutMopa h) ∧ (s.cutMopa h).choices = [] := by
  unfold State.cutMopa
  have hf := Cut.fetch (e := Hart.sansFetch) (fun _ _ => rfl) { s with cur := h }
  have hcf := State.choices_fetch (s := { s with cur := h }) hch
  suffices hk : ∀ k : State → State, Cut Hart.sansFetch (· = h.gang) { s with cur := h } (k { s with cur := h }) ∧
      (k { s with cur := h }).choices = [] → Cut Hart.sansFetch (· = h.gang) s (s.asHart h k) ∧ (s.asHart h k).choices = [] by
    refine hk _ ?_
    split
    · next w t hd he =>
      rw [he] at hf hcf
      split
      · next q cj n a b hi =>
        split
        · exact ⟨.refl _ _ _, hch⟩
        · dsimp only
          rw [State.choose_nil hcf]
          cases hv : t.mopaPart q cj n a b 0 with
          | none => exact ⟨.refl _ _ _, hch⟩
          | some v =>
            obtain ⟨A, c, rfl, hA⟩ := State.mopaPart_eq hv
            have hm := Cut.of_modMe (e := Hart.sansFetch) (s := t) (f := fun x => { x with
              acc := A x.acc, fcsr := c x.fcsr, ei := t.me.ei + 0 }) (by simp only [Hart.sansFetch, hA rfl]; rfl)
            rw [hf.cur] at hm
            exact ⟨hf.trans hm, hcf⟩
      · exact ⟨.refl _ _ _, hch⟩
    · exact ⟨.refl _ _ _, hch⟩
  exact fun k hk => ⟨Cut.asHart hk.1, hk.2⟩

/-! ### The gangs that a pre-emption stops -/

theorem Cut.foldl {α : Type} {e : Hart → Hart} {us : Nat → Prop} (f : State → α → State) (P : State → Prop) (xs : List α) :
    ∀ s : State, P s → (∀ x ∈ xs, ∀ s, P s → Cut e us s (f s x) ∧ P (f s x)) →
      Cut e us s (xs.foldl f s) ∧ P (xs.foldl f s) := by
  induction xs with
  | nil => exact fun s hs _ => ⟨.refl _ _ _, hs⟩
  | cons x xs ih =>
    intro s hs h
    obtain ⟨h1, h2⟩ := h x (by simp) s hs
    obtain ⟨h3, h4⟩ := ih (f s x) h2 fun y hy => h y (by simp [hy])
    exact ⟨h1.trans h3, h4⟩
/-- The cuts of some gangs, when each is one that keeps `P`. -/
theorem State.cutGangs_cut {e : Hart → Hart} (P : State → Prop)
    (hcut : ∀ s h, P s → Cut e (· = h.gang) s (s.cutMopa h) ∧ P (s.cutMopa h)) {s : State} (hs : P s) (f : Gang → Bool) :
    Cut e (fun u => ∃ g ∈ s.gangs, f g = true ∧ g.uid = u) s (s.cutGangs f) := by
  unfold State.cutGangs
  refine (Cut.foldl _ P _ s hs fun g hg t ht => ?_).1
  obtain ⟨hmem, hf⟩ := List.mem_filter.mp hg
  refine Cut.foldl _ P _ t ht fun r _ v hv => ?_
  obtain ⟨hc, hp⟩ := hcut v { gang := g.uid, rank := r } hv
  exact ⟨hc.mono fun u hu => ⟨g, hmem, hf, hu.symm⟩, hp⟩

theorem State.together_congr {s t : State} (hj : t.jobs = s.jobs) (hl : t.gangs.map Gang.sansHarts = s.gangs.map Gang.sansHarts)
    {g x : Gang} (hx : x.sansHarts = g.sansHarts) (f : Nat → Bool) : t.together x f = s.together g f := by
  have hp : x.p = g.p := by have := congrArg Gang.p hx; exact this
  have hjob : x.job = g.job := by have := congrArg Gang.job hx; exact this
  have hcore : x.core = g.core := by have := congrArg Gang.core hx; exact this
  have hcore2 : x.core2 = g.core2 := by have := congrArg Gang.core2 hx; exact this
  have hof : t.jobOf x = s.jobOf g := by unfold State.jobOf State.job?; rw [hj, hp, hjob]
  have hany : ∀ q : Gang → Bool, (∀ y, q y = q y.sansHarts) → t.gangs.any q = s.gangs.any q := fun q hq => by
    have key : ∀ l : List Gang, l.any q = (l.map Gang.sansHarts).any q := fun l => by
      rw [List.any_map]; exact congrArg (fun f => l.any f) (funext hq)
    rw [key t.gangs, key s.gangs, hl]
  unfold State.together
  dsimp only
  rw [hof, hp, hjob, hcore, hcore2]
  split
  · exact hany _ fun _ => rfl
  · rfl
theorem State.yields_congr {s t : State} (hj : t.jobs = s.jobs) (hl : t.gangs.map Gang.sansHarts = s.gangs.map Gang.sansHarts)
    {g x : Gang} (hx : x.sansHarts = g.sansHarts) (c : Fin 64) : t.yields c x = s.yields c g := by
  have hp : x.p = g.p := by have := congrArg Gang.p hx; exact this
  have hjob : x.job = g.job := by have := congrArg Gang.job hx; exact this
  have hphase : x.phase = g.phase := by have := congrArg Gang.phase hx; exact this
  have hof : t.jobOf x = s.jobOf g := by unfold State.jobOf State.job?; rw [hj, hp, hjob]
  unfold State.yields
  rw [State.together_congr hj hl hx, hof, hphase]
theorem State.yields_iff (s : State) (c : Fin 64) (g : Gang) : s.yields c g = true ↔
    g.phase = .placed ∧ (s.jobOf g).rcd.ddl = 0 ∧ s.together g (fun k => k == c.val) = true := by
  unfold State.yields Job.classZero
  simp [and_assoc]

/-- A gang that is found after each gang changed in a way that keeps its number. -/
theorem State.gang?_map {s t : State} (F : Gang → Gang) (ht : t.gangs = s.gangs.map F) (hF : ∀ g, (F g).uid = g.uid) (u : Nat) :
    t.gang? u = (s.gang? u).map F := by
  unfold State.gang?
  rw [ht]
  induction s.gangs with
  | nil => rfl
  | cons g r ih =>
    by_cases h : (g.uid == u) = true
    · simp [hF, h]
    · have h' : (g.uid == u) = false := by simpa using h
      simp only [List.map_cons, List.find?_cons, hF, h']
      exact ih

theorem Hart.stop_sansCut (h : Hart) : h.stop.sansCut = h.sansCut := rfl
/-- The harts of a gang, as they show in what is left of the gang. -/
theorem Gang.harts_of_onHarts {e : Hart → Hart} {g x : Gang} (h : x.onHarts e = g.onHarts e) (r : Fin 4) :
    e x.harts[r] = e g.harts[r] := by
  have := congrArg (fun y : Gang => y.harts[r]) h
  simpa [Gang.onHarts] using this
theorem Gang.sansHarts_of_onHarts {e : Hart → Hart} {g x : Gang} (h : x.onHarts e = g.onHarts e) :
    x.sansHarts = g.sansHarts := by
  have := congrArg Gang.sansHarts h
  exact this

/-- What light pre-emption leaves of a gang (R342, R347). -/
structure Lightened (s : State) (g g' : Gang) : Prop where
  phase : g'.phase = .light
  rest : { g' with phase := .placed, harts := g.harts } = { g with phase := .placed }
  wait : ∀ r : Fin 4, g'.harts[r].wait = none
  harts : ∀ r : Fin 4, g'.harts[r].sansCut = g.harts[r].sansCut
  still : s.choices = [] → ∀ r : Fin 4, g'.harts[r].ei = g.harts[r].ei ∧ g'.harts[r].acc = g.harts[r].acc

/-- A gang stopped, that had been cut. -/
theorem Lightened.of_cut {s : State} {g x : Gang} (h : x.onHarts Hart.sansCut = g.onHarts Hart.sansCut)
    (hs : s.choices = [] → x.onHarts Hart.sansFetch = g.onHarts Hart.sansFetch) :
    Lightened s g { x with phase := .light, harts := x.harts.map Hart.stop } := by
  have hg := Gang.sansHarts_of_onHarts h
  have hstop : ∀ r : Fin 4, (x.harts.map Hart.stop)[r] = x.harts[r].stop := fun r => by simp
  refine ⟨rfl, ?_, fun r => ?_, fun r => ?_, fun hc r => ?_⟩
  · exact congrArg (fun y : Gang => { y with phase := .placed, harts := g.harts }) hg
  · exact congrArg Hart.wait (hstop r)
  · exact (congrArg Hart.sansCut (hstop r)).trans (Gang.harts_of_onHarts h r)
  · have hr := Gang.harts_of_onHarts (hs hc) r
    have hei : x.harts[r].ei = g.harts[r].ei := by have := congrArg Hart.ei hr; exact this
    have hacc : x.harts[r].acc = g.harts[r].acc := by have := congrArg Hart.acc hr; exact this
    exact ⟨(congrArg Hart.ei (hstop r)).trans hei, (congrArg Hart.acc (hstop r)).trans hacc⟩

/-- A gang as light pre-emption of a core leaves it. -/
def State.lightened (s : State) (c : Fin 64) (g : Gang) : Gang :=
  if s.yields c g then { g with phase := .light, harts := g.harts.map Hart.stop } else g

/-- The gangs that yield a core are stopped, the others are not touched, when gangs have numbers of their own. -/
theorem State.lighten_gang? {s : State} (hn : (s.gangs.map Gang.uid).Nodup) (c : Fin 64) {u : Nat} {g : Gang}
    (hg : s.gang? u = some g) : ∃ g', ((s.cutGangs (s.yields c)).lighten c).gang? u = some g' ∧
      (s.yields c g = true → Lightened s g g') ∧ (s.yields c g = false → g' = g) := by
  have hcut := State.cutGangs_cut (fun _ => True) (fun s h _ => ⟨State.cutMopa_cut s h, trivial⟩) (s := s) trivial (s.yields c)
  have hstill : s.choices = [] → Cut Hart.sansFetch _ s (s.cutGangs (s.yields c)) := fun hch =>
    State.cutGangs_cut (fun t => t.choices = []) (fun t h ht => State.cutMopa_still ht h) hch (s.yields c)
  generalize s.cutGangs (s.yields c) = t at hcut hstill ⊢
  have hmap := State.gang?_map (s := t) (t := t.lighten c) (t.lightened c) rfl
    (fun g => by unfold State.lightened; split <;> rfl) u
  obtain ⟨x, hx⟩ : ∃ x, t.gang? u = some x := by
    have := hcut.found u
    rw [hg] at this
    cases ht : t.gang? u with
    | none => rw [ht] at this; cases this
    | some x => exact ⟨x, rfl⟩
  have hfound : ∀ {e : Hart → Hart} {us}, Cut e us s t → x.onHarts e = g.onHarts e := fun h => by
    have := h.found u
    rw [hg, hx] at this
    exact Option.some.inj this
  have hy : t.yields c x = s.yields c g := State.yields_congr hcut.jobs hcut.lists (Gang.sansHarts_of_onHarts (hfound hcut)) c
  refine ⟨t.lightened c x, by rw [hmap, hx]; rfl, fun hyes => ?_, fun hno => ?_⟩
  · rw [State.lightened, if_pos (hy.trans hyes)]
    exact Lightened.of_cut (hfound hcut) fun hch => hfound (hstill hch)
  · rw [State.lightened, if_neg (by rw [hy, hno]; exact Bool.false_ne_true)]
    have hmine : ¬ ∃ k ∈ s.gangs, s.yields c k = true ∧ k.uid = u := by
      rintro ⟨k, hk, hky, hku⟩
      have hgu : g.uid = u := by simpa using List.find?_some hg
      have : k = g := List.inj_on_of_nodup_map hn hk (List.mem_of_find?_eq_some hg) (hku.trans hgu.symm)
      rw [this, hno] at hky
      cases hky
    have := hcut.others u hmine
    rw [hg, hx] at this
    exact Option.some.inj this

/-! ### Resuming (R348) -/

/-- The gangs of a core that go on when no urgent hart holds them back. -/
def State.isResumed (s : State) (c : Fin 64) (g : Gang) : Bool :=
  g.phase == .light && s.together g (· == c.val) && !s.together g s.urgent
/-- A gang as the resuming of a core leaves it. -/
def State.goneOn (s : State) (c : Fin 64) (g : Gang) : Gang :=
  if s.isResumed c g then { g with phase := .placed, harts := g.harts.map fun h => if h.over then h else h.resumed } else g
theorem execLightPreemptionResume_eq (c : Fin 64) (s : State) :
    execLightPreemptionResume c s = .next { s with gangs := s.gangs.map (s.goneOn c) } := rfl
theorem State.isResumed_iff (s : State) (c : Fin 64) (g : Gang) : s.isResumed c g = true ↔
    g.phase = .light ∧ s.together g (fun k => k == c.val) = true ∧ s.together g (fun k => s.urgent k) = false := by
  unfold State.isResumed
  simp [and_assoc]
/-- A hart that has something to do goes on in place, with its event register set. -/
theorem Hart.resumed_eq {h : Hart} (hs : h.st = .running ∨ h.st = .blocked) :
    h.over = false ∧ h.resumed.st = .running ∧ h.resumed.evt = true ∧ h.resumed.pc = h.pc := by
  rcases hs with hs | hs <;> simp [Hart.over, Hart.resumed, hs]

end Sys2Proof.Machine
end


section
/-!
SUPPORT. What Hearth's writes of quadwords and records in device memory leave, and what then reads back.
-/

namespace Sys2Proof.Machine

/-! ### Bytes of a number -/

theorem length_bytesOfNat (n v : Nat) : (bytesOfNat n v).length = n := by
  induction n generalizing v with
  | zero => rfl
  | succ n ih => exact congrArg (· + 1) (ih _)
theorem natOfBytes_bytesOfNat (n v : Nat) : natOfBytes (bytesOfNat n v) = v % 256 ^ n := by
  induction n generalizing v with
  | zero => simp [bytesOfNat, natOfBytes, Nat.mod_one]
  | succ n ih =>
    have step : natOfBytes (bytesOfNat (n + 1) v) = v % 256 + 256 * natOfBytes (bytesOfNat n (v / 256)) := by
      simp [natOfBytes, bytesOfNat]
    rw [step, ih, Nat.pow_succ', Nat.mod_mul]
/-- Places that hold the same bytes hold the same number. -/
theorem numAt_congr {m m' : Loc → Byte} {l : Loc} {n : Nat}
    (h : ∀ i, i < n → m { l with pa := l.pa + i } = m' { l with pa := l.pa + i }) : numAt m l n = numAt m' l n := by
  unfold numAt
  exact congrArg natOfBytes (List.map_congr_left fun i hi => h i (List.mem_range.mp hi))
/-- A place that holds the bytes of a word holds the word. -/
theorem numAt_word {m : Loc → Byte} {l : Loc} {w : Word}
    (h : ∀ i (hi : i < (bytesOfNat 8 w.toNat).length), m { l with pa := l.pa + i } = (bytesOfNat 8 w.toNat)[i]) :
    numAt m l 8 = w.toNat := by
  have hl := length_bytesOfNat 8 w.toNat
  have hb : (List.range 8).map (fun i => m { l with pa := l.pa + i }) = bytesOfNat 8 w.toNat := by
    apply List.ext_getElem
    · rw [List.length_map, List.length_range, hl]
    · intro i h1 h2
      rw [List.getElem_map, List.getElem_range]
      exact h i h2
  unfold numAt
  rw [hb, natOfBytes_bytesOfNat]
  exact Nat.mod_eq_of_lt w.isLt

/-! ### Writes in device memory -/

/-- The device without its memory, its poison, and what a write there takes back from the host. -/
def State.sansHome (s : State) : State := { s with dev := [], devPoison := [], snoop := [], out := [], freeCtr := 0 }

/-- From `s` to `t`, bytes of device memory changed at addresses in `R`, and nothing else that `State.sansHome` shows. -/
structure Wrote (R : Nat → Prop) (s t : State) : Prop where
  rest : t.sansHome = s.sansHome
  wf : s.memWf → t.memWf
  same : s.memWf → ∀ l : Loc, (l.kind = .dev → ¬ R l.pa) → t.byteAt l = s.byteAt l

theorem Wrote.refl (R : Nat → Prop) (s : State) : Wrote R s s := ⟨rfl, id, fun _ _ _ => rfl⟩
theorem Wrote.trans {R : Nat → Prop} {s t u : State} (h : Wrote R s t) (k : Wrote R t u) : Wrote R s u :=
  ⟨k.rest.trans h.rest, k.wf ∘ h.wf, fun hw l hl => (k.same (h.wf hw) l hl).trans (h.same hw l hl)⟩
theorem Wrote.mono {R Q : Nat → Prop} {s t : State} (h : Wrote R s t) (hs : ∀ a, R a → Q a) : Wrote Q s t :=
  ⟨h.rest, h.wf, fun hw l hl => h.same hw l fun hk hr => hl hk (hs _ hr)⟩
theorem Wrote.gangs {R : Nat → Prop} {s t : State} (h : Wrote R s t) : t.gangs = s.gangs := by
  have := congrArg State.gangs h.rest; exact this
theorem Wrote.jobs {R : Nat → Prop} {s t : State} (h : Wrote R s t) : t.jobs = s.jobs := by
  have := congrArg State.jobs h.rest; exact this
theorem Wrote.toClear {R : Nat → Prop} {s t : State} (h : Wrote R s t) : t.toClear = s.toClear := by
  have := congrArg State.toClear h.rest; exact this
theorem Wrote.groupFailed {R : Nat → Prop} {s t : State} (h : Wrote R s t) (a : Nat) : t.groupFailed a = s.groupFailed a := by
  have := congrArg (fun u : State => u.groupFailed a) h.rest; exact this
theorem Wrote.gang? {R : Nat → Prop} {s t : State} (h : Wrote R s t) (u : Nat) : t.gang? u = s.gang? u :=
  State.gang?_gangs h.gangs u

/-- One write of Hearth. -/
theorem Wrote.writeHome (s : State) (p : Fin 3) (a : Nat) (bs : List Byte) :
    Wrote (fun x => a ≤ x ∧ x < a + bs.length) s (s.writeHome p 0 { kind := .dev, pa := a } bs) where
  rest := by unfold State.writeHome; split <;> rfl
  wf h := State.memWf_writeHome h p 0 _ bs
  same h l hl := by
    by_cases hk : l.kind = .dev
    · refine State.byteAt_writeHome_other h p 0 _ l bs ?_
      have := hl hk
      dsimp only
      omega
    · obtain ⟨k, a'⟩ := l
      unfold State.writeHome
      cases k with
      | dev => exact absurd rfl hk
      | hostc | hostn | twin | io => split <;> rfl
/-- Where its group has not failed, a write of Hearth is read back. -/
theorem State.byteAt_writeHome_dev {s : State} (h : s.memWf) (p : Fin 3) (a : Nat) (bs : List Byte)
    (hg : s.groupFailed a = false) (i : Nat) (hi : i < bs.length) :
    (s.writeHome p 0 { kind := .dev, pa := a } bs).byteAt { kind := .dev, pa := a + i } = bs[i] := by
  unfold State.writeHome
  have hr : s.writeRefused { kind := .dev, pa := a } bs.length = false := hg
  rw [if_neg (by rw [hr]; exact Bool.false_ne_true)]
  exact Mem.get_write_in s.dev a i bs h.1 hi

theorem Wrote.foldl {α : Type} {R : Nat → Prop} (f : State → α → State) (xs : List α)
    (h : ∀ x ∈ xs, ∀ s, Wrote R s (f s x)) (s : State) : Wrote R s (xs.foldl f s) := by
  induction xs generalizing s with
  | nil => exact .refl R s
  | cons x xs ih => exact (h x (by simp) s).trans (ih (fun y hy => h y (by simp [hy])) (f s x))

/-! ### Quadwords -/

/-- The bytes of quadword k above a base. -/
def inQuad (base k a : Nat) : Prop := base + 8 * k ≤ a ∧ a < base + 8 * k + 8

theorem Wrote.putQuads (s : State) (p : Fin 3) (base : Nat) (qs : List (Nat × Word)) :
    Wrote (fun a => ∃ q ∈ qs, inQuad base q.1 a) s (s.putQuads p base qs) := by
  refine Wrote.foldl _ qs (fun q hq t => ?_) s
  refine (Wrote.writeHome t p (base + 8 * q.1) (bytesOfNat 8 q.2.toNat)).mono fun a ha => ⟨q, hq, ?_⟩
  rw [length_bytesOfNat] at ha
  exact ha
/-- The records of saved entries. -/
theorem Wrote.putRecords (s : State) (p : Fin 3) (as : List Nat) :
    Wrote (fun a => ∃ r ∈ as, r ≤ a ∧ a < r + 1024) s (s.putRecords p as) := by
  refine Wrote.foldl _ as (fun r hr t => ?_) s
  have h := Wrote.writeHome t p r (freeBytes t.freeCtr recordBytes)
  have hlen : (freeBytes t.freeCtr recordBytes).length = 1024 := by simp [freeBytes, recordBytes]
  rw [hlen] at h
  refine ⟨h.rest, h.wf, fun hw l hl => ?_⟩
  refine Eq.trans (b := (t.writeHome p 0 { kind := .dev, pa := r } (freeBytes t.freeCtr recordBytes)).byteAt l) ?_
    (h.same hw l fun hk hin => hl hk ⟨r, hr, hin⟩)
  obtain ⟨k, a⟩ := l
  cases k <;> rfl

/-- A quadword that no write of a list reaches. -/
theorem Wrote.numAt {R : Nat → Prop} {s t : State} (h : Wrote R s t) (hw : s.memWf) {a : Nat}
    (hn : ∀ i, i < 8 → ¬ R (a + i)) :
    numAt t.byteAt { kind := .dev, pa := a } 8 = numAt s.byteAt { kind := .dev, pa := a } 8 :=
  numAt_congr fun i hi => h.same hw _ fun _ => hn i hi
theorem State.numAt_putQuads_other {s : State} (hw : s.memWf) (p : Fin 3) (base : Nat) {qs : List (Nat × Word)} {k : Nat}
    (hk : ∀ q ∈ qs, q.1 ≠ k) : numAt (s.putQuads p base qs).byteAt { kind := .dev, pa := base + 8 * k } 8 =
      numAt s.byteAt { kind := .dev, pa := base + 8 * k } 8 := by
  refine (Wrote.putQuads s p base qs).numAt hw fun i hi => ?_
  rintro ⟨q, hq, h1, h2⟩
  have := hk q hq
  omega
/-- A quadword that a list names once, or always with the same word, holds that word. -/
theorem State.numAt_putQuads_mem {s : State} (hw : s.memWf) (p : Fin 3) (base : Nat) {qs : List (Nat × Word)} {k : Nat}
    {w : Word} (hmem : (k, w) ∈ qs) (huniq : ∀ w', (k, w') ∈ qs → w' = w)
    (hg : ∀ q ∈ qs, s.groupFailed (base + 8 * q.1) = false) :
    numAt (s.putQuads p base qs).byteAt { kind := .dev, pa := base + 8 * k } 8 = w.toNat := by
  induction qs generalizing s with
  | nil => cases hmem
  | cons q qs ih =>
    have hq := Wrote.writeHome s p (base + 8 * q.1) (bytesOfNat 8 q.2.toNat)
    by_cases hin : ∃ w', (k, w') ∈ qs
    · obtain ⟨w', hw'⟩ := hin
      obtain rfl := huniq w' (List.mem_cons_of_mem q hw')
      refine ih (hq.wf hw) hw' (fun v hv => huniq v (List.mem_cons_of_mem q hv)) fun x hx => ?_
      rw [hq.groupFailed]
      exact hg x (List.mem_cons_of_mem q hx)
    · have hqk : (k, w) = q := (List.mem_cons.mp hmem).resolve_right fun h => hin ⟨w, h⟩
      subst hqk
      refine (State.numAt_putQuads_other (hq.wf hw) p base fun x hx hk => hin ⟨x.2, ?_⟩).trans ?_
      · rw [← hk]; exact hx
      · exact numAt_word fun i hi => State.byteAt_writeHome_dev hw p _ _ (hg _ List.mem_cons_self) i hi

end Sys2Proof.Machine
end


section
/-!
SUPPORT. The save of a hart's frame (R349 to R357, Tables 17-2 to 17-4).
-/

namespace Sys2Proof.Machine

/-! ### The quadwords of a hart's frame -/

theorem Token.length_quads (t : Token) : t.quads.length = 4 := by
  unfold Token.quads; split <;> rfl
theorem Stream.length_quads (t : Stream) : t.quads.length = 8 := by
  unfold Stream.quads; split <;> rfl
theorem Hart.length_header (h : Hart) (n c : Nat) : (h.header n c).length = 32 := rfl
theorem length_flatten_map {α : Type} {n : Nat} (v : Vector α n) (f : α → List Word) (c : Nat) (h : ∀ x, (f x).length = c) :
    ((v.toList.map f).flatten).length = n * c := by
  have hall : ∀ k ∈ (v.toList.map f).map List.length, k = c := fun k hk => by
    obtain ⟨l, hl, rfl⟩ := List.mem_map.mp hk
    obtain ⟨x, -, rfl⟩ := List.mem_map.mp hl
    exact h x
  rw [List.length_flatten, List.sum_eq_card_nsmul _ c hall]
  simp
/-- Q0 to Q351. -/
theorem Hart.length_frame (h : Hart) (n c : Nat) : (h.frame n c).length = 352 := by
  unfold Hart.frame
  simp only [List.length_append, Hart.length_header, Vector.length_toList, List.length_map, List.length_replicate,
    List.length_range, length_flatten_map h.m (fun m : MaskReg => [m.setWidth 64, (m >>> 64).setWidth 64]) 2 fun _ => rfl, length_flatten_map h.tk _ 4 Token.length_quads,
    length_flatten_map h.str _ 8 Stream.length_quads, length_flatten_map h.sup.tk _ 4 Token.length_quads]
/-- The header and the scalar registers come first. -/
theorem Hart.frame_eq (h : Hart) (n c : Nat) : ∃ l, h.frame n c = h.header n c ++ (h.g.toList ++ l) := by
  unfold Hart.frame
  simp only [List.append_assoc]
  exact ⟨_, rfl⟩
theorem Hart.frame_header (h : Hart) (n c : Nat) {k : Nat} (hk : k < 32) : (h.frame n c)[k]? = (h.header n c)[k]? := by
  obtain ⟨l, hl⟩ := h.frame_eq n c
  rw [hl, List.getElem?_append_left (by rw [Hart.length_header]; exact hk)]
theorem Hart.frame_reg (h : Hart) (n c : Nat) (r : Fin 32) : (h.frame n c)[32 + r.val]? = some h.g[r] := by
  obtain ⟨l, hl⟩ := h.frame_eq n c
  rw [hl, List.getElem?_append_right (by rw [Hart.length_header]; omega), Hart.length_header, Nat.add_sub_cancel_left,
    List.getElem?_append_left (by rw [Vector.length_toList]; exact r.isLt)]
  simp

/-- The writes of a frame's first 512 quadwords, but for those that the gang's save fills: the state of the hart, and zeros. -/
def Hart.frameQuads (h : Hart) (n c : Nat) : List (Nat × Word) :=
  ((h.frame n c).zipIdx.map fun q => (q.2, q.1)) ++ (List.range 144).map fun k => (368 + k, 0)
theorem Hart.mem_frameQuads (h : Hart) (n c k : Nat) (w : Word) : (k, w) ∈ h.frameQuads n c ↔
    (h.frame n c)[k]? = some w ∨ (368 ≤ k ∧ k < 512 ∧ w = 0) := by
  unfold Hart.frameQuads
  rw [List.mem_append]
  refine or_congr ?_ ?_
  · simp only [List.mem_map, Prod.mk.injEq]
    constructor
    · rintro ⟨q, hq, rfl, rfl⟩
      exact List.mem_zipIdx_iff_getElem?.mp hq
    · exact fun hk => ⟨(w, k), List.mem_zipIdx_iff_getElem?.mpr hk, rfl, rfl⟩
  · simp only [List.mem_map, List.mem_range, Prod.mk.injEq]
    constructor
    · rintro ⟨i, hi, rfl, rfl⟩
      exact ⟨by omega, by omega, rfl⟩
    · rintro ⟨h1, h2, rfl⟩
      exact ⟨k - 368, by omega, by omega, rfl⟩
/-- A frame has one word at each place. -/
theorem Hart.frameQuads_unique {h : Hart} {n c k : Nat} {w w' : Word} (hw : (k, w) ∈ h.frameQuads n c)
    (hw' : (k, w') ∈ h.frameQuads n c) : w' = w := by
  have hlen := h.length_frame n c
  have hlt : ∀ x, (h.frame n c)[k]? = some x → k < 352 := fun x hx => by
    obtain ⟨hi, -⟩ := List.getElem?_eq_some_iff.mp hx
    omega
  rcases (h.mem_frameQuads n c k w).mp hw with h1 | ⟨h1, h2, rfl⟩ <;>
    rcases (h.mem_frameQuads n c k w').mp hw' with h3 | ⟨h3, h4, rfl⟩
  · rw [h1] at h3; exact (Option.some.inj h3).symm
  · have := hlt _ h1; omega
  · have := hlt _ h3; omega
  · rfl
theorem Hart.frameQuads_lt {h : Hart} {n c : Nat} {q : Nat × Word} (hq : q ∈ h.frameQuads n c) : q.1 < 512 := by
  rcases (h.mem_frameQuads n c q.1 q.2).mp hq with hk | ⟨-, hk, -⟩
  · obtain ⟨hi, -⟩ := List.getElem?_eq_some_iff.mp hk
    rw [h.length_frame] at hi
    omega
  · exact hk

/-- What a DIRTY vector register or tile writes lies in Q512 to Q16383, each register's elements in its own place. -/
theorem Hart.mem_frameData {h : Hart} (hv : ∀ k : Fin 60, h.v[k].vln ≤ 128) {k : Nat} {w : Word} (hk : (k, w) ∈ h.frameData) :
    512 ≤ k ∧ k < 16384 ∧ ∀ (v : Fin 60) (e : Fin 128), k = 512 + 128 * v.val + e.val → w = h.v[v].el[e] := by
  unfold Hart.frameData at hk
  rcases List.mem_append.mp hk with hk | hk
  · simp only [List.mem_flatMap] at hk
    obtain ⟨v', -, hk⟩ := hk
    split at hk
    · obtain ⟨e', he', hk⟩ := List.mem_map.mp hk
      have hlt := Nat.lt_of_lt_of_le (List.mem_range.mp he') (hv v')
      injection hk with hk1 hk2
      have := v'.isLt
      refine ⟨by omega, by omega, fun v e hke => ?_⟩
      have he := e.isLt
      obtain rfl : v = v' := Fin.ext (by omega)
      obtain rfl : e' = e.val := by omega
      rw [← hk2]; exact vget_eq _ e 0
    · cases hk
  · simp only [List.mem_flatMap] at hk
    obtain ⟨n, -, hk⟩ := hk
    have hn := n.isLt
    split at hk
    · split at hk
      · obtain ⟨x, hx, hk⟩ := List.mem_map.mp hk
        have hlt := List.mem_range.mp hx
        injection hk with hk1 hk2
        refine ⟨by omega, by omega, fun v e hke => ?_⟩
        have := v.isLt
        have := e.isLt
        omega
      · cases hk
    · cases hk
theorem Hart.mem_frameData_of_dirty {h : Hart} {v : Fin 60} {e : Fin 128} (hd : h.v[v].dirty = true) (he : e.val < h.v[v].vln) :
    (512 + 128 * v.val + e.val, h.v[v].el[e]) ∈ h.frameData := by
  unfold Hart.frameData
  refine List.mem_append_left _ (List.mem_flatMap.mpr ⟨v, List.mem_finRange v, ?_⟩)
  rw [if_pos hd]
  exact List.mem_map.mpr ⟨e.val, List.mem_range.mpr he, by rw [vget_eq]⟩

/-! ### What the save writes -/

/-- The memory after a hart's frame is written: its records, its state, and what of its registers is DIRTY. -/
def State.savedHart (s : State) (p : Fin 3) (as : List Nat) (base n c : Nat) (x : Hart) : State :=
  ((s.putRecords p as).putQuads p base (x.frameQuads n c)).putQuads p base x.frameData

section
variable {s : State} {p : Fin 3} {as : List Nat} {base n c : Nat} {x : Hart} (hv : ∀ k : Fin 60, x.v[k].vln ≤ 128)
include hv

theorem State.savedHart_wrote : Wrote (fun a => (base ≤ a ∧ a < base + 131072) ∨ ∃ r ∈ as, r ≤ a ∧ a < r + 1024) s
    (s.savedHart p as base n c x) := by
  have h1 := Wrote.putRecords s p as
  have h2 := Wrote.putQuads (s.putRecords p as) p base (x.frameQuads n c)
  have h3 := Wrote.putQuads ((s.putRecords p as).putQuads p base (x.frameQuads n c)) p base x.frameData
  refine ((h1.mono fun a ha => .inr ha).trans (h2.mono ?_)).trans (h3.mono ?_)
  · rintro a ⟨q, hq, hlo, hhi⟩
    have := Hart.frameQuads_lt hq
    exact .inl ⟨by omega, by omega⟩
  · rintro a ⟨q, hq, hlo, hhi⟩
    obtain ⟨hge, hlt, -⟩ := Hart.mem_frameData hv (k := q.1) (w := q.2) hq
    exact .inl ⟨by omega, by omega⟩

variable (hw : s.memWf) (hg : ∀ k, k < 131072 → s.groupFailed (base + k) = false)
include hw hg

/-- The state of the hart and the zeros read back. -/
theorem State.numAt_savedHart {k : Nat} {w : Word} (hk : (k, w) ∈ x.frameQuads n c) :
    numAt (s.savedHart p as base n c x).byteAt { kind := .dev, pa := base + 8 * k } 8 = w.toNat := by
  have h1 := Wrote.putRecords s p as
  have h2 := Wrote.putQuads (s.putRecords p as) p base (x.frameQuads n c)
  have hlt := Hart.frameQuads_lt hk
  refine (State.numAt_putQuads_other (h2.wf (h1.wf hw)) p base fun q hq hqk => ?_).trans
    (State.numAt_putQuads_mem (h1.wf hw) p base hk (fun w' hw' => Hart.frameQuads_unique hk hw') fun q hq => ?_)
  · obtain ⟨h3, -, -⟩ := Hart.mem_frameData hv (k := q.1) (w := q.2) hq
    dsimp only at hlt
    omega
  · have := Hart.frameQuads_lt hq
    rw [h1.groupFailed]
    exact hg _ (by omega)
/-- A register that is DIRTY reads back. -/
theorem State.numAt_savedHart_reg {v : Fin 60} {e : Fin 128} (hd : x.v[v].dirty = true) (he : e.val < x.v[v].vln) :
    numAt (s.savedHart p as base n c x).byteAt { kind := .dev, pa := base + 8 * (512 + 128 * v.val + e.val) } 8 =
      (x.v[v].el[e]).toNat := by
  have h1 := Wrote.putRecords s p as
  have h2 := Wrote.putQuads (s.putRecords p as) p base (x.frameQuads n c)
  refine State.numAt_putQuads_mem (h2.wf (h1.wf hw)) p base (Hart.mem_frameData_of_dirty hd he)
    (fun w' hw' => (Hart.mem_frameData hv hw').2.2 v e rfl) fun q hq => ?_
  obtain ⟨h3, h4, -⟩ := Hart.mem_frameData hv (k := q.1) (w := q.2) hq
  rw [h2.groupFailed, h1.groupFailed]
  exact hg _ (by omega)

end

/-! ### HART_FRAME_SAVE -/

/-- A gang after the save of one of its harts. -/
def Gang.hartSaved (r : Fin 4) (g : Gang) : Gang :=
  { g with saved := g.saved ++ [r], phase := if g.ranks.all fun k => (g.saved ++ [r]).contains k then .evict4 else .evict3 }

/-- The first segment of a hart's commit chain. -/
def Gang.chainStart (g : Gang) (r : Fin 4) : Nat := ((g.chains.find? fun c => c.1 == r.val).map Prod.snd).getD 0
/-- An entry of the commit buffer that belongs to a hart. -/
def Entry.ofHart (h : HartId) (e : Entry) : Bool := e.h == h && e.place == 0
/-- The entries of a hart move to its chain. -/
def Entry.chained (h : HartId) (e : Entry) : Entry := if e.ofHart h then { e with place := 2 } else e

/-- The save of a hart whose gang is being evicted, and which no call or store holds back. -/
theorem execHartFrameSave_eq {s : State} {h : HartId} {g : Gang} {hs : List Nat} {f : Nat} (hg : s.gang? h.gang = some g)
    (hp : g.phase = .evict3) (hf : g.frames = some (hs, f)) (hr : h.rank.val < g.hn) (hns : h.rank ∉ g.saved)
    (hcall : (s.hart h).sup.call = none) (hst : (s.hart h).stores = []) :
    ∃ u w : State, (s.at_ h).Alike (u.at_ h) ∧
      w = u.savedHart g.p (g.chainRecords h.rank.val (s.entries.filter (Entry.ofHart h)).length) (hs.getD h.rank.val 0)
        (s.entries.filter (Entry.ofHart h)).length (g.chainStart h.rank) (s.hart h) ∧
      execHartFrameSave h s = .next ((({ w with entries := w.entries.map (Entry.chained h) }).modHart h Hart.saved).modGang
        h.gang (Gang.hartSaved h.rank)) := by
  have hu : (s.at_ h).Alike ((s.drain h).at_ h) := by
    have hd : (s.drain h).at_ h = (s.at_ h).drain (s.at_ h).cur := by
      unfold State.drain
      have hst' : ((s.at_ h).hart (s.at_ h).cur).stores = [] := hst
      rw [hst, hst']; rfl
    rw [hd]; exact State.Alike.of_drain hst
  have hx : (s.drain h).hart h = s.hart h := hu.me
  have he : (s.drain h).entries = s.entries := by
    obtain ⟨gs, hgs⟩ := hu.device
    have := congrArg State.entries hgs
    exact this
  refine ⟨s.drain h, _, hu, rfl, ?_⟩
  have hgang : s.gang h.gang = g := by simp [State.gang, hg]
  have hcond : ¬ (g.hn ≤ h.rank.val ∨ g.saved.contains h.rank = true ∨ (s.hart h).sup.call.isSome = true) := by
    rw [hcall]
    rintro (h1 | h1 | h1)
    · omega
    · exact hns (List.contains_iff_mem.mp h1)
    · cases h1
  unfold execHartFrameSave
  simp only [hgang, hp, hf, if_neg hcond, hx, he]
  rfl

/-- The gang, and the hart that was saved, after the save. -/
theorem State.hart_hartSaved {w : State} {h : HartId} {g : Gang} (hg : w.gang? h.gang = some g) {t : State}
    (ht : t = (w.modHart h Hart.saved).modGang h.gang (Gang.hartSaved h.rank)) :
    h.rank ∈ (t.gang h.gang).saved ∧ t.hart h = g.harts[h.rank].saved := by
  have h1 := State.gang?_modGang w h.gang (fun g => { g with harts := vmod g.harts h.rank Hart.saved }) fun _ => rfl
  have h2 := State.gang?_modGang (w.modHart h Hart.saved) h.gang (Gang.hartSaved h.rank) fun _ => rfl
  have hgang : t.gang h.gang = Gang.hartSaved h.rank { g with harts := vmod g.harts h.rank Hart.saved } := by
    unfold State.gang
    rw [ht, h2]
    refine (congrArg (fun o => (Option.map (Gang.hartSaved h.rank) o).getD Gang.blank) h1).trans ?_
    rw [hg]; rfl
  refine ⟨by rw [hgang]; simp [Gang.hartSaved], ?_⟩
  unfold State.hart
  rw [hgang]
  exact vmod_getElem_same g.harts h.rank Hart.saved

/-- What the save engine leaves of a hart's frame, as its quadwords read back (Tables 17-2 to 17-4). -/
structure HartFrame (m : Loc → Byte) (base : Nat) (x : Hart) : Prop where
  pc : numAt m { kind := .dev, pa := base } 8 = x.pc.toNat
  vl : numAt m { kind := .dev, pa := base + 8 } 8 = x.vl % 2 ^ 64
  ei : numAt m { kind := .dev, pa := base + 16 } 8 = x.ei % 2 ^ 64
  fcsr : numAt m { kind := .dev, pa := base + 24 } 8 = x.fcsr.toNat
  regs : ∀ r : Fin 32, numAt m { kind := .dev, pa := base + 256 + 8 * r.val } 8 = x.g[r].toNat
  zeros : ∀ k, 368 ≤ k → k < 512 → numAt m { kind := .dev, pa := base + 8 * k } 8 = 0
  vector : ∀ (v : Fin 60) (e : Fin 128), x.v[v].dirty = true → e.val < x.v[v].vln →
    numAt m { kind := .dev, pa := base + 4096 + 1024 * v.val + 8 * e.val } 8 = (x.v[v].el[e]).toNat

theorem State.savedHart_frame {s : State} {p : Fin 3} {as : List Nat} {base n c : Nat} {x : Hart}
    (hv : ∀ k : Fin 60, x.v[k].vln ≤ 128) (hw : s.memWf) (hg : ∀ k, k < 131072 → s.groupFailed (base + k) = false) :
    HartFrame (s.savedHart p as base n c x).byteAt base x := by
  have quad : ∀ k w, k < 32 → (x.header n c)[k]? = some w →
      numAt (s.savedHart p as base n c x).byteAt { kind := .dev, pa := base + 8 * k } 8 = w.toNat := fun k w hk h =>
    State.numAt_savedHart hv hw hg ((x.mem_frameQuads n c k w).mpr (.inl ((x.frame_header n c hk).trans h)))
  refine ⟨quad 0 _ (by decide) rfl, ?_, ?_, ?_, fun r => ?_, fun k h1 h2 => ?_, fun v e hd he => ?_⟩
  · exact (quad 1 _ (by decide) rfl).trans (BitVec.toNat_ofNat _ _)
  · exact (quad 2 _ (by decide) rfl).trans (BitVec.toNat_ofNat _ _)
  · exact (quad 3 _ (by decide) rfl).trans (BitVec.toNat_setWidth_of_le (by decide))
  · have h := State.numAt_savedHart (p := p) (as := as) hv hw hg
      ((x.mem_frameQuads n c (32 + r.val) _).mpr (.inl (x.frame_reg n c r)))
    rw [show base + 8 * (32 + r.val) = base + 256 + 8 * r.val by omega] at h
    exact h
  · exact State.numAt_savedHart hv hw hg ((x.mem_frameQuads n c k 0).mpr (.inr ⟨h1, h2, rfl⟩))
  · have h := State.numAt_savedHart_reg (p := p) (as := as) (n := n) (c := c) hv hw hg hd he
    rw [show base + 8 * (512 + 128 * v.val + e.val) = base + 4096 + 1024 * v.val + 8 * e.val by omega] at h
    exact h

end Sys2Proof.Machine
end


section
/-!
SUPPORT. The save of a gang's frame (R349, R350, R354, Table 17-5).
-/

namespace Sys2Proof.Machine

/-! ### The quadwords of a gang's frame -/

/-- The first quadword. -/
def Gang.headWord (g : Gang) : Word := word ((g.hn - 1) * 65536 + g.spsize / 1024)
/-- The quadwords of a barrier that the gang has. -/
def Gang.barrierQuads (g : Gang) (n : Fin 32) : List (Nat × Word) :=
  let b := g.bars[n]
  if 8 * g.hn ≤ n.val then []
  else [(8 + 4 * n.val, word ((if b.init then 2 ^ 63 else 0) + b.exp * 2 ^ 16 + b.cnt)), (9 + 4 * n.val, b.ph.setWidth 64),
        (10 + 4 * n.val, word b.expb), (11 + 4 * n.val, word (low56 b.pend))]
/-- The quadwords of a ring's stage. -/
def Stage.quads (x : Stage) (r : Fin 8) (k : Fin 16) : List (Nat × Word) :=
  [(516 + 64 * r.val + 2 * k.val, word ((if x.cmt then 2 ^ 63 else 0) + low56 x.pend)),
   (517 + 64 * r.val + 2 * k.val, word x.rel)]
/-- The quadwords of a ring that is configured. -/
def Gang.ringQuads (g : Gang) (r : Fin 8) : List (Nat × Word) :=
  let q := g.rings[r]
  if 2 * g.hn ≤ r.val ∨ !q.cfg then []
  else [(512 + 64 * r.val, q.word), (513 + 64 * r.val, word (q.fill.toNat * 2 ^ 32 + q.iss.toNat)),
        (514 + 64 * r.val, q.drn.setWidth 64)] ++ (List.finRange 16).flatMap fun k => q.stages[k].quads r k
/-- The words of the frame that are written over its zeros. -/
def Gang.frameWords (g : Gang) : List (Nat × Word) :=
  (0, g.headWord) :: ((List.finRange 32).flatMap g.barrierQuads ++ (List.finRange 8).flatMap g.ringQuads)
theorem Gang.frame_eq (g : Gang) : g.frame = ((List.range 1024).map fun k => (k, (0 : Word))) ++ g.frameWords := by
  have assoc : ∀ (z b c : List (Nat × Word)) x, z ++ [x] ++ b ++ c = z ++ (x :: (b ++ c)) := fun z b c x => by simp
  exact assoc _ _ _ _

/-- A word written over the zeros is one of Table 17-5. -/
theorem Gang.quad_of_mem_frameWords {g : Gang} {k : Nat} {w : Word} (h : (k, w) ∈ g.frameWords) : GangQuad g k w := by
  rcases List.mem_cons.mp h with h | h
  · obtain ⟨rfl, rfl⟩ := Prod.mk.inj h
    exact .head
  · rcases List.mem_append.mp h with h | h
    · obtain ⟨n, -, h⟩ := List.mem_flatMap.mp h
      unfold Gang.barrierQuads at h
      dsimp only at h
      split at h
      · cases h
      · next hn =>
        have hn := Nat.not_le.mp hn
        simp only [List.mem_cons, List.not_mem_nil, or_false, Prod.mk.injEq] at h
        rcases h with ⟨rfl, rfl⟩ | ⟨rfl, rfl⟩ | ⟨rfl, rfl⟩ | ⟨rfl, rfl⟩
        · exact .barrier n hn
        · exact .phases n hn
        · exact .expected n hn
        · exact .pending n hn
    · obtain ⟨r, -, h⟩ := List.mem_flatMap.mp h
      unfold Gang.ringQuads at h
      dsimp only at h
      split at h
      · cases h
      · next hc =>
        obtain ⟨hr, hc⟩ := not_or.mp hc
        have hr := Nat.not_le.mp hr
        have hc : g.rings[r].cfg = true := by simpa using hc
        rcases List.mem_append.mp h with h | h
        · simp only [List.mem_cons, List.not_mem_nil, or_false, Prod.mk.injEq] at h
          rcases h with ⟨rfl, rfl⟩ | ⟨rfl, rfl⟩ | ⟨rfl, rfl⟩
          · exact .config r hr hc
          · exact .counts r hr hc
          · exact .drained r hr hc
        · obtain ⟨j, -, h⟩ := List.mem_flatMap.mp h
          simp only [Stage.quads, List.mem_cons, List.not_mem_nil, or_false, Prod.mk.injEq] at h
          rcases h with ⟨rfl, rfl⟩ | ⟨rfl, rfl⟩
          · exact .stage r j hr hc
          · exact .releases r j hr hc

theorem Gang.mem_frameWords_of_barrier {g : Gang} {n : Fin 32} {q : Nat × Word} (h : q ∈ g.barrierQuads n) : q ∈ g.frameWords :=
  List.mem_cons_of_mem _ (List.mem_append_left _ (List.mem_flatMap.mpr ⟨n, List.mem_finRange n, h⟩))
theorem Gang.mem_frameWords_of_ring {g : Gang} {r : Fin 8} {q : Nat × Word} (h : q ∈ g.ringQuads r) : q ∈ g.frameWords :=
  List.mem_cons_of_mem _ (List.mem_append_right _ (List.mem_flatMap.mpr ⟨r, List.mem_finRange r, h⟩))
theorem Gang.barrierQuads_eq {g : Gang} {n : Fin 32} (h : n.val < 8 * g.hn) : g.barrierQuads n =
    [(8 + 4 * n.val, word ((if g.bars[n].init then 2 ^ 63 else 0) + g.bars[n].exp * 2 ^ 16 + g.bars[n].cnt)),
     (9 + 4 * n.val, g.bars[n].ph.setWidth 64), (10 + 4 * n.val, word g.bars[n].expb),
     (11 + 4 * n.val, word (low56 g.bars[n].pend))] := if_neg (Nat.not_le.mpr h)
theorem Gang.ringQuads_eq {g : Gang} {r : Fin 8} (h : r.val < 2 * g.hn) (hc : g.rings[r].cfg = true) : g.ringQuads r =
    [(512 + 64 * r.val, g.rings[r].word),
     (513 + 64 * r.val, word (g.rings[r].fill.toNat * 2 ^ 32 + g.rings[r].iss.toNat)),
     (514 + 64 * r.val, g.rings[r].drn.setWidth 64)] ++ (List.finRange 16).flatMap fun k => g.rings[r].stages[k].quads r k :=
  if_neg fun hn => hn.elim (Nat.not_le.mpr h) fun hn => by rw [hc] at hn; cases hn
theorem Gang.mem_frameWords_of_stage {g : Gang} {r : Fin 8} (k : Fin 16) (h : r.val < 2 * g.hn) (hc : g.rings[r].cfg = true)
    {q : Nat × Word} (hq : q ∈ g.rings[r].stages[k].quads r k) : q ∈ g.frameWords := by
  refine Gang.mem_frameWords_of_ring (r := r) ?_
  rw [Gang.ringQuads_eq h hc]
  exact List.mem_append_right _ (List.mem_flatMap.mpr ⟨k, List.mem_finRange k, hq⟩)
/-- A word of Table 17-5 is written over the zeros, or is zero. -/
theorem GangQuad.mem_frameWords {g : Gang} {k : Nat} {w : Word} (h : GangQuad g k w) : (k, w) ∈ g.frameWords ∨ w = 0 := by
  cases h with
  | head => exact .inl List.mem_cons_self
  | barrier n h | phases n h | expected n h | pending n h =>
    refine .inl (Gang.mem_frameWords_of_barrier (n := n) ?_)
    rw [Gang.barrierQuads_eq h]
    simp [low56]
  | config r h hc | counts r h hc | drained r h hc =>
    refine .inl (Gang.mem_frameWords_of_ring (r := r) ?_)
    rw [Gang.ringQuads_eq h hc]
    simp
  | stage r k h hc => exact .inl (Gang.mem_frameWords_of_stage k h hc List.mem_cons_self)
  | releases r k h hc => exact .inl (Gang.mem_frameWords_of_stage k h hc (by simp [Stage.quads]))
  | noBarrier | noRing | reserved | ringReserved => exact .inr rfl
theorem GangQuad.lt {g : Gang} {k : Nat} {w : Word} (h : GangQuad g k w) : k < 1024 := by
  cases h <;> omega

/-! ### A gang's frame has one word at each place -/

/-- Quadword j of barrier n. -/
def Gang.barrierWord (g : Gang) (n j : Nat) : Word :=
  let b := vget g.bars n Barrier.empty
  if 8 * g.hn ≤ n then 0
  else if j = 0 then word ((if b.init then 2 ^ 63 else 0) + b.exp * 2 ^ 16 + b.cnt)
  else if j = 1 then b.ph.setWidth 64
  else if j = 2 then word b.expb
  else word (low56 b.pend)
/-- Quadword j of a configured ring. -/
def configuredWord (q : Ring) (j : Nat) : Word :=
  let x := vget q.stages ((j - 4) / 2) Stage.empty
  if j = 0 then q.word
  else if j = 1 then word (q.fill.toNat * 2 ^ 32 + q.iss.toNat)
  else if j = 2 then q.drn.setWidth 64
  else if j = 3 ∨ 36 ≤ j then 0
  else if j % 2 = 0 then word ((if x.cmt then 2 ^ 63 else 0) + low56 x.pend)
  else word x.rel
/-- Quadword j of ring r. -/
def Gang.ringWord (g : Gang) (r j : Nat) : Word :=
  let q := vget g.rings r Ring.empty
  if 2 * g.hn ≤ r ∨ q.cfg = false then 0 else configuredWord q j
/-- Quadword k of a gang's frame. -/
def Gang.quadWord (g : Gang) (k : Nat) : Word :=
  if k = 0 then g.headWord
  else if k < 8 then 0
  else if k < 136 then g.barrierWord ((k - 8) / 4) ((k - 8) % 4)
  else if k < 512 then 0
  else g.ringWord ((k - 512) / 64) ((k - 512) % 64)

theorem Gang.quadWord_barrier (g : Gang) (n : Fin 32) {j : Nat} (hj : j < 4) {k : Nat} (hk : k = 8 + 4 * n.val + j) :
    g.quadWord k = g.barrierWord n.val j := by
  have hn := n.isLt
  unfold Gang.quadWord
  rw [if_neg (by omega), if_neg (by omega), if_pos (by omega)]
  exact congrArg₂ g.barrierWord (by omega) (by omega)
theorem Gang.quadWord_ring (g : Gang) (r : Fin 8) {j : Nat} (hj : j < 64) {k : Nat} (hk : k = 512 + 64 * r.val + j) :
    g.quadWord k = g.ringWord r.val j := by
  have hr := r.isLt
  unfold Gang.quadWord
  rw [if_neg (by omega), if_neg (by omega), if_neg (by omega), if_neg (by omega)]
  exact congrArg₂ g.ringWord (by omega) (by omega)
theorem Gang.barrierWord_eq {g : Gang} {n : Fin 32} (h : n.val < 8 * g.hn) (j : Nat) : g.barrierWord n.val j =
    if j = 0 then word ((if g.bars[n].init then 2 ^ 63 else 0) + g.bars[n].exp * 2 ^ 16 + g.bars[n].cnt)
    else if j = 1 then g.bars[n].ph.setWidth 64
    else if j = 2 then word g.bars[n].expb
    else word (low56 g.bars[n].pend) := by
  unfold Gang.barrierWord
  dsimp only
  rw [if_neg (Nat.not_le.mpr h), vget_eq]
theorem Gang.ringWord_eq {g : Gang} {r : Fin 8} (h : r.val < 2 * g.hn) (hc : g.rings[r].cfg = true) (j : Nat) :
    g.ringWord r.val j = configuredWord g.rings[r] j := by
  unfold Gang.ringWord
  dsimp only
  rw [vget_eq, if_neg]
  rintro (hn | hn)
  · omega
  · rw [hc] at hn; cases hn
theorem configuredWord_stage (q : Ring) (k : Fin 16) :
    configuredWord q (4 + 2 * k.val) = word ((if q.stages[k].cmt then 2 ^ 63 else 0) + low56 q.stages[k].pend) ∧
      configuredWord q (5 + 2 * k.val) = word q.stages[k].rel := by
  have hk := k.isLt
  have h1 : vget q.stages ((4 + 2 * k.val - 4) / 2) Stage.empty = q.stages[k] := by
    rw [show (4 + 2 * k.val - 4) / 2 = k.val by omega, vget_eq]
  have h2 : vget q.stages ((5 + 2 * k.val - 4) / 2) Stage.empty = q.stages[k] := by
    rw [show (5 + 2 * k.val - 4) / 2 = k.val by omega, vget_eq]
  unfold configuredWord
  dsimp only
  rw [h1, h2]
  constructor
  · rw [if_neg (by omega), if_neg (by omega), if_neg (by omega), if_neg (by omega), if_pos (by omega)]
  · rw [if_neg (by omega), if_neg (by omega), if_neg (by omega), if_neg (by omega), if_neg (by omega)]

/-- Table 17-5 gives each place of the frame one word. -/
theorem GangQuad.eq_quadWord {g : Gang} {k : Nat} {w : Word} (h : GangQuad g k w) : w = g.quadWord k := by
  cases h with
  | head => rfl
  | barrier n h => rw [g.quadWord_barrier n (j := 0) (by decide) (by omega), Gang.barrierWord_eq h, if_pos rfl]
  | phases n h =>
    rw [g.quadWord_barrier n (j := 1) (by decide) (by omega), Gang.barrierWord_eq h, if_neg (by decide), if_pos rfl]
  | expected n h =>
    rw [g.quadWord_barrier n (j := 2) (by decide) (by omega), Gang.barrierWord_eq h, if_neg (by decide), if_neg (by decide),
      if_pos rfl]
  | pending n h =>
    rw [g.quadWord_barrier n (j := 3) (by decide) (by omega), Gang.barrierWord_eq h, if_neg (by decide), if_neg (by decide),
      if_neg (by decide)]
    rfl
  | noBarrier n j h =>
    rw [g.quadWord_barrier n j.isLt rfl]
    exact (if_pos h).symm
  | config r h hc => rw [g.quadWord_ring r (j := 0) (by decide) (by omega), Gang.ringWord_eq h hc]; rfl
  | counts r h hc => rw [g.quadWord_ring r (j := 1) (by decide) (by omega), Gang.ringWord_eq h hc]; rfl
  | drained r h hc => rw [g.quadWord_ring r (j := 2) (by decide) (by omega), Gang.ringWord_eq h hc]; rfl
  | stage r k h hc =>
    rw [g.quadWord_ring r (j := 4 + 2 * k.val) (by omega) (by omega), Gang.ringWord_eq h hc,
      (configuredWord_stage g.rings[r] k).1]
    rfl
  | releases r k h hc =>
    rw [g.quadWord_ring r (j := 5 + 2 * k.val) (by omega) (by omega), Gang.ringWord_eq h hc,
      (configuredWord_stage g.rings[r] k).2]
  | noRing r j h =>
    rw [g.quadWord_ring r j.isLt rfl]
    unfold Gang.ringWord
    dsimp only
    rw [vget_eq, if_pos h]
  | reserved k h =>
    unfold Gang.quadWord
    rcases h with ⟨h1, h2⟩ | ⟨h1, h2⟩
    · rw [if_neg (by omega), if_pos h2]
    · rw [if_neg (by omega), if_neg (by omega), if_neg (by omega), if_pos h2]
  | ringReserved r j h =>
    rw [g.quadWord_ring r j.isLt rfl]
    unfold Gang.ringWord configuredWord
    dsimp only
    have hj := j.isLt
    split
    · rfl
    · rw [if_neg (by omega), if_neg (by omega), if_neg (by omega)]

/-- The frame as it is written reads back as Table 17-5 says. -/
theorem State.numAt_gangFrame {s : State} (hw : s.memWf) (hg : ∀ a, s.groupFailed a = false) (p : Fin 3) (f : Nat) {g : Gang}
    {k : Nat} {w : Word} (h : GangQuad g k w) :
    numAt (s.putQuads p f g.frame).byteAt { kind := .dev, pa := f + 8 * k } 8 = w.toNat := by
  have hz := Wrote.putQuads s p f ((List.range 1024).map fun k => (k, (0 : Word)))
  have hsplit : s.putQuads p f g.frame =
      (s.putQuads p f ((List.range 1024).map fun k => (k, (0 : Word)))).putQuads p f g.frameWords := by
    rw [Gang.frame_eq]; exact List.foldl_append
  rw [hsplit]
  by_cases hin : ∃ w', (k, w') ∈ g.frameWords
  · obtain ⟨w', hw'⟩ := hin
    have huniq : ∀ v, (k, v) ∈ g.frameWords → v = w := fun v hv =>
      (Gang.quad_of_mem_frameWords hv).eq_quadWord.trans h.eq_quadWord.symm
    obtain rfl := huniq w' hw'
    refine State.numAt_putQuads_mem (hz.wf hw) p f hw' huniq fun q _ => ?_
    rw [hz.groupFailed]; exact hg _
  · obtain rfl : w = 0 := h.mem_frameWords.resolve_left fun hm => hin ⟨w, hm⟩
    refine (State.numAt_putQuads_other (hz.wf hw) p f fun q hq hqk => hin ⟨q.2, ?_⟩).trans
      (State.numAt_putQuads_mem hw p f (w := 0) ?_ (fun v hv => ?_) fun q _ => hg _)
    · rw [← hqk]; exact hq
    · exact List.mem_map.mpr ⟨k, List.mem_range.mpr h.lt, rfl⟩
    · obtain ⟨i, -, hi⟩ := List.mem_map.mp hv
      exact (Prod.mk.inj hi).2.symm
theorem Gang.frame_lt {g : Gang} {q : Nat × Word} (hq : q ∈ g.frame) : q.1 < 1024 := by
  rw [Gang.frame_eq] at hq
  rcases List.mem_append.mp hq with hq | hq
  · obtain ⟨k, hk, rfl⟩ := List.mem_map.mp hq
    exact List.mem_range.mp hk
  · exact (Gang.quad_of_mem_frameWords (k := q.1) (w := q.2) hq).lt

/-! ### The phases that each hart has consumed -/

theorem Hart.mem_wphQuads (h : Hart) {k : Nat} {w : Word} (hk : (k, w) ∈ h.wphQuads) : 352 ≤ k ∧ k < 368 ∧
    w = word ((vget h.wph (2 * (k - 352)) 0).toNat + 2 ^ 32 * (vget h.wph (2 * (k - 352) + 1) 0).toNat) := by
  unfold Hart.wphQuads at hk
  obtain ⟨i, hi, hk⟩ := List.mem_map.mp hk
  have hlt := List.mem_range.mp hi
  obtain ⟨rfl, rfl⟩ := Prod.mk.inj hk
  exact ⟨by omega, by omega, by rw [Nat.add_sub_cancel_left]⟩
/-- Two phases as a quadword. -/
theorem word_pair (a b : BitVec 32) : (word (a.toNat + 2 ^ 32 * b.toNat)).toNat = a.toNat + 2 ^ 32 * b.toNat := by
  unfold word
  rw [BitVec.toNat_ofNat]
  exact Nat.mod_eq_of_lt (by omega)

/-- The phases of the harts of some ranks written into their frames. -/
def State.savedPhases (s : State) (g : Gang) (hs : List Nat) (rs : List (Fin 4)) : State :=
  rs.foldl (fun s r => s.putQuads g.p (hs.getD r.val 0) g.harts[r].wphQuads) s

theorem State.savedPhases_wrote (s : State) (g : Gang) (hs : List Nat) (rs : List (Fin 4)) :
    Wrote (fun a => ∃ r ∈ rs, hs.getD r.val 0 + 2816 ≤ a ∧ a < hs.getD r.val 0 + 2944) s (s.savedPhases g hs rs) := by
  refine Wrote.foldl _ rs (fun r hr t => ?_) s
  refine (Wrote.putQuads t g.p (hs.getD r.val 0) g.harts[r].wphQuads).mono ?_
  rintro a ⟨q, hq, h1, h2⟩
  obtain ⟨hlo, hhi, -⟩ := g.harts[r].mem_wphQuads (k := q.1) (w := q.2) hq
  exact ⟨r, hr, by omega, by omega⟩
theorem State.numAt_savedPhases {g : Gang} {hs : List Nat} {r : Fin 4} (k : Fin 16) {rs : List (Fin 4)} (hr : r ∈ rs)
    (hapart : ∀ q ∈ rs, q ≠ r → hs.getD r.val 0 + 131072 ≤ hs.getD q.val 0 ∨ hs.getD q.val 0 + 131072 ≤ hs.getD r.val 0)
    {s : State} (hw : s.memWf) (hg : ∀ a, s.groupFailed a = false) :
    numAt (s.savedPhases g hs rs).byteAt { kind := .dev, pa := hs.getD r.val 0 + 8 * (352 + k.val) } 8 =
      (g.harts[r].wph[2 * k.val]).toNat + 2 ^ 32 * (g.harts[r].wph[2 * k.val + 1]).toNat := by
  have hk := k.isLt
  induction rs generalizing s with
  | nil => cases hr
  | cons q rs ih =>
    have hq := Wrote.putQuads s g.p (hs.getD q.val 0) g.harts[q].wphQuads
    by_cases hin : r ∈ rs
    · exact ih hin (fun x hx => hapart x (List.mem_cons_of_mem q hx)) (hq.wf hw) fun a => by rw [hq.groupFailed]; exact hg a
    · obtain rfl : r = q := (List.mem_cons.mp hr).resolve_right hin
      have hrest := State.savedPhases_wrote (s.putQuads g.p (hs.getD r.val 0) g.harts[r].wphQuads) g hs rs
      refine (hrest.numAt (hq.wf hw) fun i hi => ?_).trans ?_
      · rintro ⟨x, hx, h1, h2⟩
        have := hapart x (List.mem_cons_of_mem r hx) fun e => hin (e ▸ hx)
        omega
      · refine (State.numAt_putQuads_mem hw g.p (hs.getD r.val 0)
          (w := word ((g.harts[r].wph[2 * k.val]).toNat + 2 ^ 32 * (g.harts[r].wph[2 * k.val + 1]).toNat)) ?_ (fun w hw => ?_)
          fun q _ => hg _).trans (word_pair _ _)
        · unfold Hart.wphQuads
          refine List.mem_map.mpr ⟨k.val, List.mem_range.mpr hk, ?_⟩
          simp [vget, show 2 * k.val < 32 by omega, show 2 * k.val + 1 < 32 by omega]
        · obtain ⟨-, -, hval⟩ := g.harts[r].mem_wphQuads hw
          rw [hval, Nat.add_sub_cancel_left]
          simp [vget, show 2 * k.val < 32 by omega, show 2 * k.val + 1 < 32 by omega]

/-! ### GANG_FRAME_SAVE -/

/-- The memory after a gang's frame, its scratchpad and the phases of its harts are written. -/
def State.savedGang (s : State) (g : Gang) (hs : List Nat) (f : Nat) : State :=
  (((s.putQuads g.p f g.frame).writeHome g.p 0 { kind := .dev, pa := f + 8192 } (g.spRead 0 g.spsize)).savedPhases g hs g.ranks)

theorem Gang.mem_ranks (g : Gang) (r : Fin 4) : r ∈ g.ranks ↔ r.val < g.hn := by
  simp [Gang.ranks]
theorem Gang.length_spRead (g : Gang) (a n : Nat) : (g.spRead a n).length = n := Mem.length_bytes g.sp a n

theorem State.savedGang_wrote (s : State) (g : Gang) (hs : List Nat) (f : Nat) :
    Wrote (fun a => (f ≤ a ∧ a < f + 8192 + g.spsize) ∨
      ∃ r : Fin 4, r.val < g.hn ∧ hs.getD r.val 0 + 2816 ≤ a ∧ a < hs.getD r.val 0 + 2944) s (s.savedGang g hs f) := by
  have h1 := Wrote.putQuads s g.p f g.frame
  have h2 := Wrote.writeHome (s.putQuads g.p f g.frame) g.p (f + 8192) (g.spRead 0 g.spsize)
  rw [Gang.length_spRead] at h2
  have h3 := State.savedPhases_wrote
    ((s.putQuads g.p f g.frame).writeHome g.p 0 { kind := .dev, pa := f + 8192 } (g.spRead 0 g.spsize)) g hs g.ranks
  refine ((h1.mono ?_).trans (h2.mono ?_)).trans (h3.mono ?_)
  · rintro a ⟨q, hq, hlo, hhi⟩
    have := Gang.frame_lt hq
    exact .inl ⟨by omega, by omega⟩
  · rintro a ⟨hlo, hhi⟩
    exact .inl ⟨by omega, hhi⟩
  · rintro a ⟨r, hr, hlo, hhi⟩
    exact .inr ⟨r, (g.mem_ranks r).mp hr, hlo, hhi⟩

section
variable {s : State} {g : Gang} {hs : List Nat} {f : Nat} (hw : s.memWf) (ha : FramesApart s g hs f)
include hw ha

theorem State.savedGang_reads :
    (∀ k w, GangQuad g k w → numAt (s.savedGang g hs f).byteAt { kind := .dev, pa := f + 8 * k } 8 = w.toNat) ∧
    (∀ k, k < g.spsize → (s.savedGang g hs f).byteAt { kind := .dev, pa := f + 8192 + k } = Mem.get g.sp k) ∧
    (∀ (r : Fin 4) (k : Fin 16), r.val < g.hn →
      numAt (s.savedGang g hs f).byteAt { kind := .dev, pa := hs.getD r.val 0 + 8 * (352 + k.val) } 8 =
        (g.harts[r].wph[2 * k.val]).toNat + 2 ^ 32 * (g.harts[r].wph[2 * k.val + 1]).toNat) := by
  have h1 := Wrote.putQuads s g.p f g.frame
  have h2 := Wrote.writeHome (s.putQuads g.p f g.frame) g.p (f + 8192) (g.spRead 0 g.spsize)
  have h3 := State.savedPhases_wrote
    ((s.putQuads g.p f g.frame).writeHome g.p 0 { kind := .dev, pa := f + 8192 } (g.spRead 0 g.spsize)) g hs g.ranks
  have hg1 : ∀ a, (s.putQuads g.p f g.frame).groupFailed a = false := fun a => by rw [h1.groupFailed]; exact ha.groups a
  refine ⟨fun k w hk => ?_, fun k hk => ?_, fun r k hr => ?_⟩
  · have hlt := hk.lt
    refine ((h3.numAt (h2.wf (h1.wf hw)) fun i hi => ?_).trans (h2.numAt (h1.wf hw) fun i hi => ?_)).trans
      (State.numAt_gangFrame hw ha.groups g.p f hk)
    · rintro ⟨r, hr, hlo, hhi⟩
      have := ha.gang r ((g.mem_ranks r).mp hr)
      omega
    · omega
  · refine (h3.same (h2.wf (h1.wf hw)) _ fun _ => ?_).trans ?_
    · rintro ⟨r, hr, hlo, hhi⟩
      have := ha.gang r ((g.mem_ranks r).mp hr)
      dsimp only at hlo hhi
      omega
    · have hlen := g.length_spRead 0 g.spsize
      refine (State.byteAt_writeHome_dev (h1.wf hw) g.p (f + 8192) (g.spRead 0 g.spsize) (hg1 _) k (by omega)).trans ?_
      exact (Mem.getElem_bytes g.sp 0 g.spsize k hk).trans (by rw [Nat.zero_add])
  · refine State.numAt_savedPhases k ((g.mem_ranks r).mpr hr) (fun q hq hne => ?_) (h2.wf (h1.wf hw)) fun a => ?_
    · exact ha.harts r q hr ((g.mem_ranks q).mp hq) hne.symm
    · rw [h2.groupFailed]; exact hg1 a

end

/-- A gang that is evicted. -/
def Gang.evicted (g : Gang) : Gang := { g with phase := .evicted }
/-- The device after the save of a gang: its regions wait to be cleared, and it is evicted. -/
def State.gangSaved (s : State) (u : Nat) (g : Gang) (hs : List Nat) (f : Nat) : State :=
  { s.savedGang g hs f with toClear := (s.savedGang g hs f).toClear ++ g.toClear }.modGang u Gang.evicted
theorem State.gangSaved_eq {s : State} {u : Nat} {g : Gang} (hg : s.gang? u = some g) (hs : List Nat) (f : Nat) :
    (s.gangSaved u g hs f).gang? u = some g.evicted ∧
      (s.gangSaved u g hs f).toClear =
        s.toClear ++ (g.core, g.spBase, g.spsize) :: (g.core2.map fun c => (c, g.spBase2, g.spsize)).toList ∧
      (s.gangSaved u g hs f).jobs = s.jobs ∧ ∀ v, v ≠ u → (s.gangSaved u g hs f).gang? v = s.gang? v := by
  have hwr := State.savedGang_wrote s g hs f
  unfold State.gangSaved
  refine ⟨?_, ?_, hwr.jobs, fun v hv => ?_⟩
  · refine (State.gang?_modGang _ u Gang.evicted fun _ => rfl).trans ?_
    exact congrArg (Option.map Gang.evicted) ((hwr.gang? u).trans hg)
  · rw [← Gang.toClear_eq, ← hwr.toClear]; rfl
  · exact (State.gang?_modGang_other _ u v Gang.evicted (fun _ => rfl) hv).trans (hwr.gang? v)
theorem State.byteAt_gangSaved (s : State) (u : Nat) (g : Gang) (hs : List Nat) (f : Nat) (l : Loc) :
    (s.gangSaved u g hs f).byteAt l = (s.savedGang g hs f).byteAt l := by
  obtain ⟨k, a⟩ := l
  cases k <;> rfl

theorem execGangFrameSave_untouched {s : State} {u f : Nat} {g : Gang} {hs : List Nat} (hg : s.gang? u = some g)
    (hp : g.phase = .evict4) (hf : g.frames = some (hs, f)) (ht : s.touched u = false) : execGangFrameSave u s =
    .next (s.gangSaved u g hs f) := by
  have hgang : s.gang u = g := by simp [State.gang, hg]
  unfold execGangFrameSave
  simp only [hgang, hp, hf, ht, Bool.false_eq_true, if_false]
  rfl
theorem execGangFrameSave_touched {s : State} {u f : Nat} {g : Gang} {hs : List Nat} (hg : s.gang? u = some g)
    (hp : g.phase = .evict4) (hf : g.frames = some (hs, f)) (ht : s.touched u = true) : execGangFrameSave u s = .next s := by
  have hgang : s.gang u = g := by simp [State.gang, hg]
  unfold execGangFrameSave
  simp only [hgang, hp, hf, ht, if_true]

end Sys2Proof.Machine
end


section
/-!
SUPPORT. Gangs placed, stopped, resumed, saved and evicted.
-/

namespace Sys2Proof.Machine

/-- A placement opportunity for the last gang of the one job that is ready. -/
theorem gangPlace_places {s : State} {p : Fin 3} {j : Job} {a : Seat} (hrun : (s.prt p).st = .run) (h : PlacesLast s p j a) :
    ∃ t, exec (.gangPlace p) s = .next t ∧ ∃ g j', t.gangs = s.gangs ++ [g] ∧ g.uid = s.nextGang ∧ g.p = p ∧ g.job = j.id ∧
      g.index = j.nextGang ∧ g.hn = j.rcd.harts ∧ g.core = a.core ∧ g.slots = a.slots ∧ g.spBase = a.base ∧
      g.spsize = 1024 * j.rcd.spk ∧ g.phase = .placed ∧ g.sp = [] ∧
      (∀ r : Fin 4, (g.harts[r]).pc = word j.rcd.entry ∧ (g.harts[r]).g[(1 : Fin 32)] = j.rcd.q1 ∧
        (g.harts[r]).st = .running ∧ (g.harts[r]).vl = 128 ∧ (g.harts[r]).fcsr = 1 ∧
        (g.harts[r]).sup.svec = word ((s.func p j.vf).svec.toNat * 8) ∧ (g.harts[r]).sup.sver = (s.prt p).fwver) ∧
      t.job? p j.id = some j' ∧ j'.nextGang = j.nextGang + 1 ∧ j'.st = .placed := by
  have hin : s.inRun p = true := beq_iff_eq.mpr hrun
  obtain ⟨-, hnext, hst⟩ := Job.gangPlaced_last h.skipped h.last
  refine ⟨s.placeGang j j.nextGang none a none, ?_, s.newGang j j.nextGang a none, _, rfl, rfl, h.part, rfl, rfl, rfl, rfl, rfl,
    rfl, rfl, rfl, rfl, fun r => ?_, h.job?, hnext, hst⟩
  · rw [exec_gangPlace, execGangPlace, if_pos hin, h.placeAll 510]
  · have hr : (s.newGang j j.nextGang a none).harts[r] =
        Hart.first j.rcd (word ((s.func p j.vf).svec.toNat * 8)) (s.prt p).fwver := by
      rw [← h.part]; simp [State.newGang]
    rw [hr]
    exact Hart.first_eq _ _ _

/-- Light pre-emption of a core with a hart short of time. -/
theorem lightPreemption_stops {s : State} {c : Fin 64} (hu : s.urgent c = true) (hn : (s.gangs.map Gang.uid).Nodup) :
    ∃ t, exec (.lightPreemption c) s = .next t ∧ { t.sansCut with gangs := [] } = { s.sansCut with gangs := [] } ∧
      (∀ l, t.byteAt l = s.byteAt l) ∧
      ∀ u g, s.gang? u = some g → ∃ g', t.gang? u = some g' ∧ (s.yields c g = true → Lightened s g g') ∧
        (s.yields c g = false → g' = g) := by
  have hcut := State.cutGangs_cut (fun _ => True) (fun s h _ => ⟨State.cutMopa_cut s h, trivial⟩) (s := s) trivial (s.yields c)
  refine ⟨(s.cutGangs (s.yields c)).lighten c, ?_, hcut.device, fun l => ?_, fun u g hg => State.lighten_gang? hn c hg⟩
  · rw [exec_lightPreemption, execLightPreemption, if_pos hu]
  · refine Eq.trans ?_ (hcut.byteAt l)
    obtain ⟨k, a⟩ := l
    cases k <;> rfl

/-- Light pre-emption resumes gangs in place. -/
theorem lightPreemptionResume_resumes (s : State) (c : Fin 64) :
    ∃ t, exec (.lightPreemptionResume c) s = .next t ∧ { t with gangs := [] } = { s with gangs := [] } ∧
      ∀ u g, s.gang? u = some g → ∃ g', t.gang? u = some g' ∧
        (g.phase = .light ∧ s.together g (fun k => k == c.val) = true ∧ s.together g (fun k => s.urgent k) = false →
          g'.phase = .placed ∧ ∀ r : Fin 4, (g.harts[r]).st = .running ∨ (g.harts[r]).st = .blocked →
            (g'.harts[r]).st = .running ∧ (g'.harts[r]).evt = true ∧ (g'.harts[r]).pc = (g.harts[r]).pc) ∧
        (¬ (g.phase = .light ∧ s.together g (fun k => k == c.val) = true ∧ s.together g (fun k => s.urgent k) = false) →
          g' = g) := by
  refine ⟨_, execLightPreemptionResume_eq c s, rfl, fun u g hg => ?_⟩
  have hmap := State.gang?_map (s := s) (t := { s with gangs := s.gangs.map (s.goneOn c) }) (s.goneOn c) rfl
    (fun g => by unfold State.goneOn; split <;> rfl) u
  rw [hg] at hmap
  refine ⟨s.goneOn c g, hmap, fun hyes => ?_, fun hno => ?_⟩
  · have hres := (s.isResumed_iff c g).mpr hyes
    rw [State.goneOn, if_pos hres]
    refine ⟨rfl, fun r hr => ?_⟩
    obtain ⟨hover, hst, hevt, hpc⟩ := Hart.resumed_eq hr
    have hh : (g.harts.map fun h => if h.over then h else h.resumed)[r] = g.harts[r].resumed := by
      simp only [Fin.getElem_fin, Vector.getElem_map]
      exact if_neg (by rw [Fin.getElem_fin] at hover; rw [hover]; exact Bool.false_ne_true)
    exact ⟨(congrArg Hart.st hh).trans hst, (congrArg Hart.evt hh).trans hevt, (congrArg Hart.pc hh).trans hpc⟩
  · exact if_neg fun hres => hno ((s.isResumed_iff c g).mp hres)

/-- The save of a hart of a gang that is being evicted. -/
theorem hartFrameSave_saves {s : State} {h : HartId} {g : Gang} {hs : List Nat} {f : Nat} (hg : s.gang? h.gang = some g)
    (hw : s.memWf) (hp : g.phase = .evict3) (hf : g.frames = some (hs, f)) (hr : h.rank.val < g.hn) (hns : h.rank ∉ g.saved)
    (hcall : (s.hart h).sup.call = none) (hst : (s.hart h).stores = []) (hv : ∀ v : Fin 60, ((s.hart h).v[v]).vln ≤ 128)
    (hgroups : ∀ k, k < 131072 → s.groupFailed (hs.getD h.rank.val 0 + k) = false) :
    ∃ t, exec (.hartFrameSave h) s = .next t ∧ h.rank ∈ (t.gang h.gang).saved ∧
      HartFrame t.byteAt (hs.getD h.rank.val 0) (s.hart h) ∧
      (∀ a, a < hs.getD h.rank.val 0 ∨ hs.getD h.rank.val 0 + 131072 ≤ a →
        (∀ r ∈ g.chainRecords h.rank.val (s.entries.filter (Entry.ofHart h)).length, a < r ∨ r + 1024 ≤ a) →
        t.byteAt { kind := .dev, pa := a } = s.byteAt { kind := .dev, pa := a }) ∧
      t.hart h = (s.hart h).saved := by
  obtain ⟨u, w, hu, hwrote, he⟩ := execHartFrameSave_eq hg hp hf hr hns hcall hst
  have hx : s.hart h = g.harts[h.rank] := by simp [State.hart, State.gang, hg]
  have hug : u.gang? h.gang = some g := (hu.gang? h.gang).trans hg
  have huw : u.memWf := by
    obtain ⟨gs, hgs⟩ := hu.device
    have := congrArg State.memWf hgs
    exact this.mpr hw
  have hubyte : ∀ l, u.byteAt l = s.byteAt l := hu.byteAt
  have hugroups : ∀ k, k < 131072 → u.groupFailed (hs.getD h.rank.val 0 + k) = false := fun k hk => by
    obtain ⟨gs, hgs⟩ := hu.device
    have := congrArg (fun v : State => v.groupFailed (hs.getD h.rank.val 0 + k)) hgs
    exact this.trans (hgroups k hk)
  have hwr := State.savedHart_wrote (s := u) (p := g.p)
    (as := g.chainRecords h.rank.val (s.entries.filter (Entry.ofHart h)).length) (base := hs.getD h.rank.val 0)
    (n := (s.entries.filter (Entry.ofHart h)).length) (c := g.chainStart h.rank) hv
  have hframe := State.savedHart_frame (p := g.p)
    (as := g.chainRecords h.rank.val (s.entries.filter (Entry.ofHart h)).length)
    (n := (s.entries.filter (Entry.ofHart h)).length) (c := g.chainStart h.rank) hv huw hugroups
  rw [← hwrote] at hwr hframe
  obtain ⟨hsaved, hhart⟩ := State.hart_hartSaved (w := { w with entries := w.entries.map (Entry.chained h) })
    ((hwr.gang? h.gang).trans hug) rfl
  have hbyte : ∀ l, ((({ w with entries := w.entries.map (Entry.chained h) } : State).modHart h Hart.saved).modGang h.gang
      (Gang.hartSaved h.rank)).byteAt l = w.byteAt l := fun l => by
    obtain ⟨k, a⟩ := l
    cases k <;> rfl
  refine ⟨_, he, hsaved, ?_, fun a ha hrec => ?_, by rw [hhart, hx]⟩
  · rw [funext hbyte]; exact hframe
  · refine (hbyte _).trans ((hwr.same huw _ fun _ => ?_).trans (hubyte _))
    rintro (⟨h1, h2⟩ | ⟨r, hmem, h1, h2⟩)
    · dsimp only at h1 h2; omega
    · have := hrec r hmem
      dsimp only at h1 h2
      omega

/-- Settles O57: placement and release, light pre-emption, and the two saves. -/
theorem gangsArePlacedAndEvicted : Obligations.GangsArePlacedAndEvicted := by
  unfold Obligations.GangsArePlacedAndEvicted
  refine ⟨⟨?_, ?_⟩, fun s c => ⟨?_, ?_, ?_⟩, ?_, ?_⟩
  · intro s p j a hrun hready hp hmem huniq hco hskip hlast hev hheld hfits
    exact gangPlace_places hrun ⟨hready, hp, hmem, huniq, hco, hskip, hlast, hev, hheld, hfits⟩
  · intro s u g hg hp
    refine ⟨fun ht => ?_, fun ht => ?_⟩
    · rw [exec_gangRelease, execGangRelease_untouched hg hp ht, Gang.toClear_eq]
    · rw [exec_gangRelease, execGangRelease_touched hg ht]
  · intro hu hn
    obtain ⟨t, he, hdev, hmem, hgangs⟩ := lightPreemption_stops hu hn
    refine ⟨t, he, hdev, hmem, fun u g hg => ?_⟩
    obtain ⟨g', hg', hyes, hno⟩ := hgangs u g hg
    refine ⟨g', hg', fun h => ?_, fun h => ?_⟩
    · have hl := hyes ((s.yields_iff c g).mpr h)
      refine ⟨hl.phase, hl.rest.trans ?_, fun r => ⟨hl.wait r, hl.harts r, fun hc => hl.still hc r⟩⟩
      rw [← h.1]
    · exact hno (Bool.eq_false_iff.mpr fun hy => h ((s.yields_iff c g).mp hy))
  · intro hu
    rw [exec_lightPreemption, execLightPreemption, if_neg (by rw [hu]; exact Bool.false_ne_true)]
  · exact lightPreemptionResume_resumes s c
  · rintro s h g hs f base x hg hw rfl hp hf hr hns hcall hst rfl hv hgroups
    obtain ⟨t, he, hsaved, hframe, hrest, hhart⟩ := hartFrameSave_saves hg hw hp hf hr hns hcall hst hv hgroups
    refine ⟨t, he, hsaved, hframe.pc, hframe.vl, hframe.ei, hframe.fcsr, hframe.regs, hframe.zeros, hframe.vector, hrest,
      fun k => ?_⟩
    rw [hhart]
    simp [Hart.saved]
  · intro s u f g hs hg hp hf
    refine ⟨fun ht => by rw [exec_gangFrameSave, execGangFrameSave_touched hg hp hf ht], fun ht => ?_⟩
    obtain ⟨hfound, hclear, hjobs, hothers⟩ := State.gangSaved_eq hg hs f
    refine ⟨s.gangSaved u g hs f, by rw [exec_gangFrameSave, execGangFrameSave_untouched hg hp hf ht], hfound, hclear, hjobs,
      hothers, fun hw ha => ?_⟩
    rw [funext (State.byteAt_gangSaved s u g hs f)]
    obtain ⟨hquads, hsp, hphases⟩ := State.savedGang_reads hw ha
    refine ⟨hquads, hsp, hphases, fun l hl1 hl2 => (State.savedGang_wrote s g hs f).same hw l fun hk => ?_⟩
    rintro (⟨hlo, hhi⟩ | ⟨r, hr, hlo, hhi⟩)
    · have := hl1 hk; omega
    · have := hl2 hk r hr; omega

end Sys2Proof.Machine
end

section
/-!
SUPPORT. The element-wise vector instructions (Tables 9-2, 9-5, 9-6): the form that all of them run in, the checks of its
operands, and the row that it writes.
-/

namespace Sys2Proof.Machine

/-! ### Integer lanes (R74) -/

theorem lane_lt (w : Nat) (x : Word) (l : Nat) : lane w x l < 2 ^ w := Nat.mod_lt _ (Nat.two_pow_pos w)
theorem tagWidth_le (t : Tag) : tagWidth t ≤ 64 := by cases t <;> decide

/-- Reduced to 64 bits first, an integer has the same low bits. -/
theorem wrap64_mod {w : Nat} (hw : w ≤ 64) (v : Int) : wrap64 v % 2 ^ w = (v % 2 ^ w).toNat := by
  have hd : (2 : Int) ^ w ∣ 2 ^ 64 := pow_dvd_pow 2 hw
  have hn : (0 : Int) ≤ v % 2 ^ 64 := Int.emod_nonneg v (by norm_num)
  refine Int.ofNat.inj ?_
  show ((wrap64 v % 2 ^ w : Nat) : Int) = ((v % 2 ^ w).toNat : Int)
  rw [wrap64, Int.toNat_of_nonneg (Int.emod_nonneg v (by positivity)), Int.natCast_mod, Int.toNat_of_nonneg hn,
    Nat.cast_pow, Nat.cast_ofNat, Int.emod_emod_of_dvd v hd]
theorem clampInt_eq {lo hi : Int} (h : lo ≤ hi) (v : Int) : clampInt lo hi v = max lo (min hi v) := by
  unfold clampInt
  split
  · omega
  · split <;> omega
theorem intLo_le_intHi (sg : Bool) (w : Nat) : intLo sg w ≤ intHi sg w := by
  have h1 := Nat.two_pow_pos (w - 1)
  have h2 := Nat.two_pow_pos w
  cases sg
  · simp only [intLo, intHi, Bool.false_eq_true, if_false]; omega
  · simp only [intLo, intHi, if_true]; omega

/-- The value of a lane, signed for the signed and the complex tags. -/
theorem intVal_lane {t : Tag} {n : Nat} (hn : n < 2 ^ tagWidth t) :
    intVal (isIS t || isCI t) (tagWidth t) n = laneValue t n := by
  cases h : isIS t || isCI t
  · simp [intVal, laneValue, h, Nat.mod_eq_of_lt hn]
  · by_cases hs : n < 2 ^ (tagWidth t - 1)
    · simp [intVal, laneValue, signed, h, Nat.mod_eq_of_lt hn, hs]
    · simp [intVal, laneValue, signed, h, Nat.mod_eq_of_lt hn, hs, Nat.not_lt.mp hs]
/-- A result of a lane that wraps. -/
theorem laneResult_wraps (t : Tag) (v : Int) : laneResult t false v = wrap64 v % 2 ^ tagWidth t :=
  (wrap64_mod (tagWidth_le t) v).symm
/-- A result of a lane, wrapped or clamped once. -/
theorem intFit_lane (t : Tag) (sat : Bool) (v : Int) :
    intFit (isIS t || isCI t) sat (tagWidth t) v = laneResult t sat v := by
  cases sat
  · exact (laneResult_wraps t v).symm
  · simp only [intFit, laneResult, if_true, wrap64_mod (tagWidth_le t), clampInt_eq (intLo_le_intHi _ _)]
    simp only [intLo, intHi, Nat.cast_sub Nat.one_le_two_pow, Nat.cast_pow, Nat.cast_ofNat, Nat.cast_one]

/-- The arithmetic of a tag with values is that of its kind (R74, R78). -/
theorem arith_eq_arithLane (q : VMod) (rm : Rm) {t : Tag} (fi : Int → Int → Int → Int)
    (ff : FVal → FVal → FVal → List Term) {a b c : Nat} (ht : tagKind t ≠ .untyped) (ha : a < 2 ^ tagWidth t)
    (hb : b < 2 ^ tagWidth t) (hc : c < 2 ^ tagWidth t) :
    arith q.sat rm fi ff t a b c = arithLane q rm t fi ff a b c := by
  have ints (sg : Bool) (h : (isIS t || isCI t) = sg) :
      intFit sg q.sat (tagWidth t) (fi (intVal sg (tagWidth t) a) (intVal sg (tagWidth t) b) (intVal sg (tagWidth t) c)) =
        laneResult t q.sat (fi (laneValue t a) (laneValue t b) (laneValue t c)) := by
    subst h
    rw [intFit_lane, intVal_lane ha, intVal_lane hb, intVal_lane hc]
  cases hk : tagKind t with
  | untyped => exact absurd hk ht
  | flt f => simp only [arith, arithLane, hk]
  | cflt f => simp only [arith, arithLane, hk]
  | int sg =>
    simp only [arith, arithLane, hk]
    rw [ints sg (by cases sg <;> simp [isIS, isCI, hk])]
  | cint =>
    simp only [arith, arithLane, hk]
    rw [ints true (by simp [isIS, isCI, hk])]

/-! ### The element-wise form -/

/-- The instruction runs in the element-wise form; of the tags but `none` that `ok` accepts, its check accepts each, with
its SAT bit, and its result on them is that of `f`. -/
def PerElem (s : State) (i : Instr) (q : VMod) (d : VdOp) (srcs : List VsOp) (ok : Tag → Bool)
    (f : Tag → Nat → (Nat → Word) → Word × Flags) : Prop :=
  ∃ op cls satOk g, op < 128 ∧ exec i s = s.perElem op q d srcs cls satOk g ∧
    ∀ t, t ≠ .none → ok t = true → cls t = true ∧ (q.sat && !satOk t) = false ∧ ∀ e x, g s t e x = f t e x

/-- The operands, check and result of the element-wise form. -/
def elemForm (op : Nat) (q : VMod) (d : VdOp) (srcs : List VsOp) (cls satOk : Tag → Bool)
    (g : State → Tag → Nat → (Nat → Word) → Word × Flags) : VForm :=
  { op := op, srcs := srcs, d := d, last := some (vaLast q.p), check := classCheck srcs cls satOk q.sat,
    badvl := fun _ _ => false,
    res := fun u t vl => u.elementwise q vl fun e => g u t e fun i => u.vel (srcs.getD i .zero) e }
theorem State.perElem_eq_vec (s : State) (op q d srcs cls satOk g) :
    s.perElem op q d srcs cls satOk g = s.vec (elemForm op q d srcs cls satOk g) := rfl

/-- Functions that agree on the lanes of a tag agree on its elements. -/
theorem onLanes_congr {f f' : Tag → Nat → Nat → Nat → Nat × Flags} {t : Tag}
    (h : ∀ a b c, a < 2 ^ tagWidth t → b < 2 ^ tagWidth t → c < 2 ^ tagWidth t → f t a b c = f' t a b c) (x : Nat → Word) :
    onLanes f t x = onLanes f' t x := by
  unfold onLanes
  exact congrArg (byLane (tagWidth t)) (funext fun l => h _ _ _ (lane_lt _ _ _) (lane_lt _ _ _) (lane_lt _ _ _))

/-- A class that some tags saturate in. -/
theorem accepts_sat {sat c k : Bool} (h : (c && (!sat || k)) = true) : c = true ∧ (sat && !k) = false := by
  revert h; cases sat <;> cases c <;> cases k <;> decide
/-- No tag saturates, and SAT is clear. -/
theorem noSat_clear {sat : Bool} (t : Tag) (h : (!sat) = true) : (sat && !noSat t) = false := by
  rw [Bool.not_eq_true' sat |>.mp h, Bool.false_and]
/-- A class with SAT illegal. -/
theorem accepts_noSat {sat : Bool} {c : Tag → Bool} (t : Tag) (h : (c t && !sat) = true) :
    c t = true ∧ (sat && !noSat t) = false :=
  have h' := Bool.and_eq_true_iff.mp h
  ⟨h'.1, noSat_clear t h'.2⟩

/-- The form lane by lane. -/
theorem PerElem.of_lanes {s : State} {i : Instr} {q : VMod} {d : VdOp} {srcs : List VsOp} {ok cls satOk : Tag → Bool}
    {f f' : Tag → Nat → Nat → Nat → Nat × Flags} {op : Nat} (hop : op < 128)
    (hrun : exec i s = s.perLane op q d srcs cls satOk f)
    (hok : ∀ t, ok t = true → cls t = true ∧ (q.sat && !satOk t) = false)
    (hf : ∀ t, cls t = true → ∀ a b c, a < 2 ^ tagWidth t → b < 2 ^ tagWidth t → c < 2 ^ tagWidth t →
      f t a b c = f' t a b c) : PerElem s i q d srcs ok fun t _ => onLanes f' t := by
  refine ⟨op, cls, satOk, _, hop, hrun, fun t _ h => ?_⟩
  obtain ⟨hc, hs⟩ := hok t h
  exact ⟨hc, hs, fun _ x => onLanes_congr (hf t hc) x⟩
/-- Arithmetic lane by lane (R74, R78). -/
theorem PerElem.of_arith {s : State} {i : Instr} {q : VMod} {d : VdOp} {srcs : List VsOp} {ok cls satOk : Tag → Bool}
    {rm : Rm} {fi : Int → Int → Int → Int} {ff : FVal → FVal → FVal → List Term}
    (hrun : exec i s = s.perLane 0x31 q d srcs cls satOk (arith q.sat rm fi ff))
    (hok : ∀ t, ok t = true → cls t = true ∧ (q.sat && !satOk t) = false)
    (hcls : ∀ t, cls t = true → tagKind t ≠ .untyped) :
    PerElem s i q d srcs ok fun t _ => onLanes (fun t => arithLane q rm t fi ff) t :=
  .of_lanes (by decide) hrun hok fun t ht _ _ _ ha hb hc => arith_eq_arithLane q rm fi ff (hcls t ht) ha hb hc
/-- A function of the float lanes of one source. -/
theorem PerElem.of_special {s : State} {i : Instr} {q : VMod} {d : VdOp} {a : VsOp} {cls : Tag → Bool}
    {f : Fmt → Nat → Nat × Flags} (hrun : exec i s = s.special q d a cls f) :
    PerElem s i q d [a] (fun t => cls t && !q.sat) fun t _ => onFloats f t :=
  .of_lanes (by decide) hrun accepts_noSat fun t _ _ _ _ _ _ _ => by cases tagKind t <;> rfl
/-- A bitwise function of two sources, on every tag. -/
theorem PerElem.of_bitwise {s : State} {i : Instr} {q : VMod} {d : VdOp} {a b : VsOp} {f : Word → Word → Word}
    (hrun : exec i s = s.bitwise q d a b f) :
    PerElem s i q d [a, b] (fun _ => !q.sat) fun _ _ x => (f (x 0) (x 1), 0) :=
  ⟨0x31, isAny, noSat, _, by decide, hrun, fun t ht h => ⟨bne_iff_ne.mpr ht, noSat_clear t h, fun _ _ => rfl⟩⟩
/-- A complex function (Table 9-6). -/
theorem PerElem.of_vcpx {s : State} {i : Instr} {q : VMod} {d : VdOp} {srcs : List VsOp}
    {f : Tag → (Nat → Word) → Word × Flags} (hrun : exec i s = s.vcpx q d srcs f) :
    PerElem s i q d srcs (fun t => isComplex t && (!q.sat || isCI t)) fun t _ x => f t x :=
  ⟨0x35, isComplex, isCI, _, by decide, hrun, fun _ _ h => ⟨(accepts_sat h).1, (accepts_sat h).2, fun _ _ => rfl⟩⟩

theorem clsAdd_typed (t : Tag) (h : clsAdd t = true) : tagKind t ≠ .untyped := by revert h; cases t <;> decide
theorem clsMul_typed (t : Tag) (h : clsMul t = true) : tagKind t ≠ .untyped := by revert h; cases t <;> decide
theorem isCI_of_isI {t : Tag} (h : isI t = true) : isCI t = false := by revert h; cases t <;> decide
theorem accepts_add {sat : Bool} (t : Tag) (h : ((isI t || isF t || isComplex t) && (!sat || isI t || isCI t)) = true) :
    clsAdd t = true ∧ (sat && !satAdd t) = false :=
  accepts_sat (by simpa only [clsAdd, satAdd, isComplex, Bool.or_assoc] using h)

/-- Every element-wise instruction runs in the element-wise form. -/
theorem ElementOp.perElem {s : State} {i : Instr} {q : VMod} {d : VdOp} {srcs : List VsOp} {ok : Tag → Bool}
    {f : Tag → Nat → (Nat → Word) → Word × Flags} (h : ElementOp s i q d srcs ok f) : PerElem s i q d srcs ok f := by
  cases h with
  | vadd => exact .of_arith (exec_vadd _ _ _ _ s) accepts_add clsAdd_typed
  | vsub => exact .of_arith (exec_vsub _ _ _ _ s) accepts_add clsAdd_typed
  | vmul => exact .of_arith (exec_vmul _ _ _ _ s) (fun _ => accepts_sat) clsMul_typed
  | vfma => exact .of_arith (exec_vfma _ _ _ _ _ s) (fun _ => accepts_sat) clsMul_typed
  | vfms => exact .of_arith (exec_vfms _ _ _ _ _ s) (fun _ => accepts_sat) clsMul_typed
  | vfnma => exact .of_arith (exec_vfnma _ _ _ _ _ s) (fun _ => accepts_sat) clsMul_typed
  | vmulh =>
    refine .of_lanes (by decide) (exec_vmulh _ _ _ _ s) accepts_noSat fun t ht x y _ hx hy _ => ?_
    have hv {n : Nat} (hn : n < 2 ^ tagWidth t) : intVal (isIS t) (tagWidth t) n = laneValue t n := by
      rw [← intVal_lane hn, isCI_of_isI ht, Bool.or_false]
    simp only [hv hx, hv hy, laneResult_wraps, Nat.cast_pow, Nat.cast_ofNat]
  | vmin => exact .of_lanes (by decide) (exec_vmin _ _ _ _ s) accepts_noSat fun _ _ _ _ _ _ _ _ => rfl
  | vmax => exact .of_lanes (by decide) (exec_vmax _ _ _ _ s) accepts_noSat fun _ _ _ _ _ _ _ _ => rfl
  | vabs => exact .of_lanes (by decide) (exec_vabs _ _ _ s) (fun _ => accepts_sat) fun _ _ _ _ _ _ _ _ => rfl
  | vneg =>
    refine .of_lanes (by decide) (exec_vneg _ _ _ s) (fun t h => ?_) fun _ _ _ _ _ _ _ _ => rfl
    exact accepts_sat (by simpa only [Bool.or_assoc] using h)
  | vand => exact .of_bitwise (exec_vand _ _ _ _ s)
  | vor => exact .of_bitwise (exec_vor _ _ _ _ s)
  | vxor => exact .of_bitwise (exec_vxor _ _ _ _ s)
  | vshl =>
    exact .of_lanes (by decide) (exec_vshl _ _ _ _ s) accepts_noSat fun _ _ _ _ _ _ _ _ => by rw [Nat.shiftLeft_eq]
  | vshr =>
    exact .of_lanes (by decide) (exec_vshr _ _ _ _ s) accepts_noSat fun _ _ _ _ _ _ _ _ => by
      rw [Nat.shiftRight_eq_div_pow]
  | vsar =>
    exact .of_lanes (by decide) (exec_vsar _ _ _ _ s) accepts_noSat fun _ _ _ _ _ _ _ _ => by
      simp only [Nat.cast_pow, Nat.cast_ofNat]
  | vclz => exact .of_lanes (by decide) (exec_vclz _ _ _ s) accepts_noSat fun _ _ _ _ _ _ _ _ => rfl
  | vpopc => exact .of_lanes (by decide) (exec_vpopc _ _ _ s) accepts_noSat fun _ _ _ _ _ _ _ _ => rfl
  | vsel =>
    exact ⟨0x31, isAny, noSat, _, by decide, exec_vsel _ _ _ _ _ s, fun t ht h =>
      ⟨bne_iff_ne.mpr ht, noSat_clear t h, fun _ _ => rfl⟩⟩
  | vrcp => exact .of_special (exec_vrcp _ _ _ s)
  | vrsqrt => exact .of_special (exec_vrsqrt _ _ _ s)
  | vexp2 => exact .of_special (exec_vexp2 _ _ _ s)
  | vlog2 => exact .of_special (exec_vlog2 _ _ _ s)
  | vsqrt => exact .of_special (exec_vsqrt _ _ _ s)
  | vdiv => 
    exact .of_lanes (by decide) (exec_vdiv _ _ _ _ s) accepts_noSat fun t _ _ _ _ _ _ _ => by
      cases tagKind t <;> rfl
  | vcmul => exact .of_vcpx (exec_vcmul _ _ _ _ s)
  | vcmac => exact .of_vcpx (exec_vcmac _ _ _ _ _ s)
  | vconj => exact .of_vcpx (exec_vconj _ _ _ s)
  | vcabs2 => exact .of_vcpx (exec_vcabs2 _ _ _ s)
  | vcrot => exact .of_vcpx (exec_vcrot _ _ _ _ s)

/-! ### The row (R52, R82, R200) -/

/-- An element-wise result sets the elements that R52 names. -/
theorem State.elementwise_put (s : State) (q : VMod) (f : Nat → Word × Flags) :
    (s.elementwise q s.me.vl f).put = s.under q fun e => (f e).1 := by
  funext e
  simp only [State.elementwise, State.r52, State.under, State.on, State.active]
  by_cases he : e < s.me.vl
  · rw [if_neg (Nat.not_le.mpr he)]; simp only [he, and_true]
  · rw [if_pos (Nat.not_lt.mp he)]; simp [he]
/-- An element-wise result writes no mask. -/
theorem State.elementwise_mask (s : State) (q : VMod) (vl : Nat) (f : Nat → Word × Flags) :
    (s.elementwise q vl f).mask = none := rfl
/-- An element-wise result raises the flags of its active elements. -/
theorem State.elementwise_fl (s : State) (q : VMod) (f : Nat → Word × Flags) :
    (s.elementwise q s.me.vl f).fl = s.flagsOn q fun e => (f e).2 := rfl

/-- An instruction in the element-wise form, whose sources share a tag that it accepts, writes its row. -/
theorem PerElem.runs {s : State} {i : Instr} {q : VMod} {d : VdOp} {srcs : List VsOp} {ok : Tag → Bool}
    {f : Tag → Nat → (Nat → Word) → Word × Flags} {u : Tag} (h : PerElem s i q d srcs ok f) (hl : s.live)
    (hr : VecRuns s srcs d) (ht : Tagged s srcs u) (hu : ok u = true) :
    ∃ t, exec i s = .next t ∧
      VecStep s t { d := d, last := some (vaLast q.p), tag := u,
                    put := s.under q fun e => (f u e fun k => s.vel (srcs.getD k .zero) e).1,
                    fl := s.flagsOn q fun e => (f u e fun k => s.vel (srcs.getD k .zero) e).2, mask := none } := by
  obtain ⟨op, cls, satOk, g, -, hrun, haccepts⟩ := h
  obtain ⟨hc, hs, hg⟩ := haccepts u ht.1 hu
  obtain ⟨t, hv, hstep⟩ := State.vec_runs (f := elemForm op q d srcs cls satOk g) hl hr
    (State.vecTags_class hr ht rfl hc hs) rfl
  refine ⟨t, hrun.trans hv, ?_⟩
  simpa only [elemForm, State.elementwise_put, State.elementwise_fl, State.elementwise_mask, hg] using hstep

/-- Settles O34: the instruction runs in the element-wise form, and the form writes the row. -/
theorem elementInstructionsWriteTheirRow : Obligations.ElementInstructionsWriteTheirRow := by
  unfold Obligations.ElementInstructionsWriteTheirRow
  intro s i q d srcs ok f u h hl hr ht hu
  exact h.perElem.runs hl hr ht hu

/-! ### Operands that fail (R50, R51) -/

/-- The check for tags finds a source tagged `none` where there is one, and only there. -/
theorem State.untypedIn_some {s : State} {srcs : List VsOp} (h : ∃ r, VsOp.vec r ∈ srcs ∧ s.me.v[r].tag = .none) :
    ∃ c, VsOp.vec c ∈ srcs ∧ s.me.v[c].tag = .none ∧ s.untypedIn srcs = some (typeTrap .untyped (.vec c)) := by
  obtain ⟨r, hr, hn⟩ := h
  have hfound : (srcs.find? fun x => s.vtag x == some .none).isSome := by
    rw [List.find?_isSome]
    exact ⟨_, hr, by rw [State.vtag, hn]; rfl⟩
  obtain ⟨x, hx⟩ := Option.isSome_iff_exists.mp hfound
  have hm := List.mem_of_find?_eq_some hx
  have ht := List.find?_some hx
  cases x with
  | vec c => exact ⟨c, hm, by simpa [State.vtag] using ht, by rw [State.untypedIn, hx]; rfl⟩
  | g _ => cases ht
  | zero => cases ht
theorem State.untypedIn_none {s : State} {srcs : List VsOp} (h : ∀ r, VsOp.vec r ∈ srcs → s.me.v[r].tag ≠ .none) :
    s.untypedIn srcs = none := by
  rw [State.untypedIn, Option.map_eq_none_iff, List.find?_eq_none]
  intro x hx
  cases x with
  | vec r => simpa [State.vtag] using h r hx
  | g _ => exact Bool.false_ne_true
  | zero => exact Bool.false_ne_true

/-- The sources that have a tag are the vector sources. -/
theorem State.mem_tagged {s : State} {srcs : List VsOp} {p : VsOp × Tag} :
    (p ∈ (srcs.zip (srcs.map s.vtag)).filterMap fun q => q.2.map fun t => (q.1, t)) ↔
      ∃ r, VsOp.vec r ∈ srcs ∧ p = (.vec r, s.me.v[r].tag) := by
  have hz : srcs.zip (srcs.map s.vtag) = srcs.map fun x => (x, s.vtag x) := by
    rw [← List.map_prod_left_eq_zip]
  rw [hz, List.mem_filterMap]
  constructor
  · rintro ⟨_, hm, hp⟩
    obtain ⟨x, hx, rfl⟩ := List.mem_map.mp hm
    cases x with
    | vec r => exact ⟨r, hx, (Option.some.inj hp).symm⟩
    | g _ => cases hp
    | zero => cases hp
  · rintro ⟨r, hr, rfl⟩
    exact ⟨_, List.mem_map.mpr ⟨_, hr, rfl⟩, rfl⟩
/-- Sources of one tag have that tag in common. -/
theorem State.commonTag_of_tagged {s : State} {srcs : List VsOp} {t : Tag} (h : Tagged s srcs t) :
    commonTag srcs (srcs.map s.vtag) = .ok t := by
  obtain ⟨-, ⟨r, hr⟩, hall⟩ := h
  have hm := (State.mem_tagged (s := s)).mpr ⟨r, hr, rfl⟩
  have hsame : ∀ p ∈ (srcs.zip (srcs.map s.vtag)).filterMap fun q => q.2.map fun t => (q.1, t), p.2 = t := by
    intro p hp
    obtain ⟨r, hr, rfl⟩ := State.mem_tagged.mp hp
    exact hall r hr
  unfold commonTag
  split
  · rename_i heq
    rw [heq] at hm; cases hm
  · rename_i y t' ys heq
    rw [heq] at hsame
    obtain rfl : t' = t := hsame (y, t') List.mem_cons_self
    split
    · rename_i p hp
      exact absurd (hsame p (List.mem_cons_of_mem _ (List.mem_of_find?_eq_some hp))) (by simpa using List.find?_some hp)
    · rfl
/-- The common tag is the tag of every vector source. -/
theorem State.tag_of_commonTag {s : State} {srcs : List VsOp} {t : Tag} (h : commonTag srcs (srcs.map s.vtag) = .ok t)
    {r : Fin 60} (hr : VsOp.vec r ∈ srcs) : s.me.v[r].tag = t := by
  have hm := (State.mem_tagged (s := s)).mpr ⟨r, hr, rfl⟩
  unfold commonTag at h
  split at h
  · cases h
  · rename_i y t' ys heq
    split at h
    · cases h
    · rename_i hf
      cases h
      rw [heq, List.mem_cons] at hm
      rcases hm with hm | hm
      · exact congrArg Prod.snd hm
      · simpa using List.find?_eq_none.mp hf _ hm
/-- Sources without a common tag raise TYPE. -/
theorem commonTag_error {srcs : List VsOp} {tags : List (Option Tag)} {x : TrapInfo} (h : commonTag srcs tags = .error x) :
    ∃ y, x = typeTrap .type y := by
  unfold commonTag at h
  split at h
  · exact ⟨_, (Except.error.inj h).symm⟩
  · split at h
    · exact ⟨_, (Except.error.inj h).symm⟩
    · cases h

theorem VsOp.spec_lt (x : VsOp) : VsOp.spec x < 65536 := by
  cases x with
  | vec r => exact Nat.lt_trans r.isLt (by decide)
  | g r => have := r.isLt; show 64 + r.val < 65536; omega
  | zero => decide

/-- UNTYPED comes before every other check of the operands. -/
theorem State.vecTags_untyped {s : State} {f : VForm} {x : TrapInfo} (h : s.untypedIn f.srcs = some x) :
    s.vecTags f = .error x := by
  rw [State.vecTags, h]
/-- With no operand bound to a stream, the check of a class raises TYPE for two tags. -/
theorem State.vecTags_mixed {s : State} {f : VForm} {cls satOk : Tag → Bool} {sat : Bool} {a b : Fin 60}
    (hs : ∀ r, VsOp.vec r ∈ f.srcs → s.me.bound r.val = none) (hd : ∀ r, f.d = some r → s.me.bound r.val = none)
    (hc : f.check = classCheck f.srcs cls satOk sat) (ht : ∀ r, VsOp.vec r ∈ f.srcs → s.me.v[r].tag ≠ .none)
    (ha : VsOp.vec a ∈ f.srcs) (hb : VsOp.vec b ∈ f.srcs) (hab : s.me.v[a].tag ≠ s.me.v[b].tag) :
    ∃ y, s.vecTags f = .error (typeTrap .type y) := by
  cases hcom : commonTag f.srcs (f.srcs.map s.vtag) with
  | ok t => exact absurd ((State.tag_of_commonTag hcom ha).trans (State.tag_of_commonTag hcom hb).symm) hab
  | error x =>
    obtain ⟨y, rfl⟩ := commonTag_error hcom
    refine ⟨y, ?_⟩
    simp only [State.vecTags, State.untypedIn_none ht, State.streamType_none hs hd, hc, classCheck, hcom, Option.getD_none,
      ite_self]

/-- With no operand bound to a stream, sources of one tag pass the check of a class, at any `vl`. -/
theorem State.vecTags_pass {s : State} {f : VForm} {t : Tag} {cls satOk : Tag → Bool} {sat : Bool}
    (hs : ∀ r, VsOp.vec r ∈ f.srcs → s.me.bound r.val = none) (hd : ∀ r, f.d = some r → s.me.bound r.val = none)
    (ht : Tagged s f.srcs t) (hc : f.check = classCheck f.srcs cls satOk sat) (hcls : cls t = true)
    (hsat : (sat && !satOk t) = false) : s.vecTags f = .ok (t, t) := by
  have hu : s.untypedIn f.srcs = none := State.untypedIn_none fun r hr => (ht.2.2 r hr).trans_ne ht.1
  simp only [State.vecTags, hu, State.streamType_none hs hd, hc, classCheck, State.commonTag_of_tagged ht, hcls, hsat,
    Bool.not_true, Bool.false_eq_true, if_false, State.sinkType_none t hd]

/-- A vector instruction whose operands fail a check raises its trap. -/
theorem State.vec_raises {s : State} {f : VForm} {c : Cause} {y : VsOp} (hl : s.live) (hu : s.atS = false)
    (hv : s.me.sup.svec ≠ 0) (hop : f.op < 128) (h : s.vecTags f = .error (typeTrap c y)) :
    ∃ t, s.vec f = .next t ∧ TrapEntry s t f.op c.code (VsOp.spec y) 0 s.me.pc 0 0 := by
  have he : s.vec f = s.raise f.op (typeTrap c y) := by
    simp only [State.vec, State.userOnly, hu, Bool.false_eq_true, if_false, h]
  rw [he]
  exact State.raise_user hl hu hv f.op (typeTrap c y) hop (VsOp.spec_lt y) (Nat.zero_lt_succ 3) (Nat.zero_lt_succ 127)
/-- A vector instruction whose operands pass does nothing at `vl` = 0 (R23). -/
theorem State.vec_idle {s : State} {f : VForm} {t r : Tag} (hu : s.atS = false) (h : s.vecTags f = .ok (t, r))
    (hv : s.me.vl = 0) : s.vec f = .next s.retired := by
  simp only [State.vec, State.userOnly, hu, Bool.false_eq_true, if_false, h, hv, if_true, State.retire]

/-- Settles O36: the element-wise form checks its sources before it looks at `vl`. -/
theorem vectorOperandChecksCome : Obligations.VectorOperandChecksCome := by
  unfold Obligations.VectorOperandChecksCome
  intro s i q d srcs ok f hi hl hu hs hd
  obtain ⟨op, cls, satOk, g, hop, hrun, haccepts⟩ := hi.perElem
  rw [hrun, State.perElem_eq_vec]
  generalize hf : elemForm op q d srcs cls satOk g = form
  obtain ⟨rfl, rfl, rfl, hc⟩ : form.op = op ∧ form.srcs = srcs ∧ form.d = d ∧
      form.check = classCheck srcs cls satOk q.sat := by subst hf; exact ⟨rfl, rfl, rfl, rfl⟩
  refine ⟨fun r hv hr hn => ?_, fun a b hv ha hb ht hab => ?_, fun u hu' hok h0 => ?_⟩
  · obtain ⟨c, hcs, hcn, hx⟩ := State.untypedIn_some ⟨r, hr, hn⟩
    obtain ⟨t, he, htrap⟩ := State.vec_raises hl hu hv hop (State.vecTags_untyped hx)
    obtain ⟨-, -, hdetail⟩ := htrap.sinfo
    exact ⟨t, he, c, hcs, hcn, BitVec.eq_of_toNat_eq htrap.scause, hdetail, htrap.trapped.1, htrap.sepc⟩
  · obtain ⟨y, hy⟩ := State.vecTags_mixed hs hd hc ht ha hb hab
    obtain ⟨t, he, htrap⟩ := State.vec_raises hl hu hv hop hy
    exact ⟨t, he, BitVec.eq_of_toNat_eq htrap.scause, htrap.trapped.1, htrap.sepc⟩
  · obtain ⟨hcls, hsat, -⟩ := haccepts u hu'.1 hok
    exact ⟨_, State.vec_idle hu (State.vecTags_pass hs hd hu' hc hcls hsat) h0, StepBut.of_nothing hl⟩

end Sys2Proof.Machine
end


section
/-!
SUPPORT. Vector loads (R231, Table 10-1): what reading their elements leaves, the values found, and the registers that they
write.
-/

namespace Sys2Proof.Machine

/-! ### States that reads lead to -/

/-- `u` is a state that reads lead to from `s`: by its number, each gang reads the same; of the rest, only what reads change
differs; and what could be read still can. -/
structure State.ReadsTo (s u : State) : Prop where
  gang? : ∀ v, u.gang? v = s.gang? v
  device : State.sansReads { u with gangs := [] } = State.sansReads { s with gangs := [] }
  clean : ∀ l n, s.readPoison l n = false → u.readPoison l n = false

theorem State.ReadsTo.of_alike {s u : State} (h : s.Alike u) : s.ReadsTo u := by
  refine ⟨h.gang?, congrArg State.sansReads h.sansGangs, fun l n hp => ?_⟩
  obtain ⟨gs, rfl⟩ := h.device
  exact hp
/-- A read uses up error completions of the host, and makes none. -/
theorem State.readPoison_afterRead {s : State} {l : Loc} {n : Nat} (h : s.readPoison l n = false) (k : Loc) (m : Nat) :
    (s.afterRead k m).readPoison l n = false := by
  obtain ⟨hline, hrest⟩ := Bool.or_eq_false_iff.mp h
  have fewer (p q : Bool × Nat → Bool) (hq : s.hostErr.any q = false) : (s.hostErr.filter p).any q = false :=
    List.any_eq_false.mpr fun e he => List.any_eq_false.mp hq e (List.mem_filter.mp he).1
  unfold State.afterRead
  split
  · exact h
  · exact h
  · exact h
  · refine Bool.or_eq_false_iff.mpr ⟨hline, ?_⟩
    cases hk : l.kind <;> simp only [hk] at hrest ⊢
    case hostc => exact fewer _ _ hrest
    case hostn => exact fewer _ _ hrest
    case dev => exact hrest
    case twin => exact hrest
theorem State.ReadsTo.afterRead {s u : State} (h : s.ReadsTo u) (l : Loc) (n : Nat) : s.ReadsTo (u.afterRead l n) where
  gang? v := (State.gang?_gangs (State.afterRead_gangs u l n) v).trans (h.gang? v)
  device := (congrArg (fun x : State => ({ x with gangs := [] } : State)) (State.afterRead_sans u l n)).trans h.device
  clean k m hp := State.readPoison_afterRead (h.clean k m hp) l n

theorem State.ReadsTo.cur {s u : State} (h : s.ReadsTo u) : u.cur = s.cur := by
  have e := congrArg State.cur h.device; exact e
theorem State.ReadsTo.byteAt {s u : State} (h : s.ReadsTo u) (l : Loc) : u.byteAt l = s.byteAt l := by
  have e := congrArg (fun x : State => x.byteAt l) h.device; exact e
theorem State.ReadsTo.myGang {s u : State} (h : s.ReadsTo u) : u.myGang = s.myGang := by
  unfold State.myGang State.gang; rw [h.gang?, h.cur]
theorem State.ReadsTo.me {s u : State} (h : s.ReadsTo u) : u.me = s.me := by
  rw [State.me_eq, State.me_eq]; simp only [h.myGang, h.cur]
theorem State.ReadsTo.atS {s u : State} (h : s.ReadsTo u) : u.atS = s.atS := by unfold State.atS; rw [h.me]
theorem State.ReadsTo.live {s u : State} (h : s.ReadsTo u) (hl : s.live) : u.live := by
  obtain ⟨g, hg⟩ := hl; exact ⟨g, by rw [h.cur, h.gang?, hg]⟩
/-- What reads lead to is a change so far, of which only what reads change shows. -/
theorem State.ReadsTo.moved {eh eo : Hart → Hart} {eg : Gang → Gang} {s u : State} (h : s.ReadsTo u) (hl : s.live) :
    Moved eh eo eg State.sansReads s u s.byteAt where
  same := ⟨h.live hl, h.cur, h.atS, by unfold State.pcv; rw [h.atS, h.me],
    fun r => by unfold State.rg; rw [h.atS, h.me], by rw [h.me]⟩
  frame :=
    { me := by rw [h.me]
      mates := fun r _ => by rw [h.myGang]
      gang := by rw [h.myGang]
      others := fun v _ => h.gang? v
      device := h.device }
  memory := h.byteAt

/-! ### Reading the elements (R116, R231) -/

theorem Mem.bytes_eq_map (m : Mem) (a n : Nat) : Mem.bytes m a n = (List.range n).map fun i => Mem.get m (a + i) := by
  apply List.ext_getElem
  · rw [Mem.length_bytes, List.length_map, List.length_range]
  · intro i h1 h2
    rw [List.getElem_map, List.getElem_range, Mem.getElem_bytes _ _ _ _ (by rwa [Mem.length_bytes] at h1)]
/-- A read at a home that is no IO page finds the number that its bytes hold. -/
theorem State.readHome_number {s : State} {l : Loc} (n : Nat) (h : l.kind ≠ .io) :
    natOfBytes (s.readHome l n) = numAt s.byteAt l n := by
  obtain ⟨k, a⟩ := l
  cases k with
  | io => exact absurd rfl h
  | dev => exact congrArg natOfBytes (Mem.bytes_eq_map s.dev a n)
  | hostc => exact congrArg natOfBytes (Mem.bytes_eq_map s.host a n)
  | hostn => exact congrArg natOfBytes (Mem.bytes_eq_map s.host a n)
  | twin => exact congrArg natOfBytes (Mem.bytes_eq_map s.twin a n)

/-- A place that can be read gives the value that it held at first. -/
theorem State.ReadsTo.vRead {s u : State} (h : s.ReadsTo u) {n : Nat} {y : VPlace} (hy : y.readable s n) :
    ∃ w, u.vRead n y = some (y.value s n, w) ∧ s.ReadsTo w := by
  cases y with
  | gen l q =>
    obtain ⟨hio, hp⟩ := hy
    refine ⟨u.afterRead l n, ?_, h.afterRead l n⟩
    have hv : natOfBytes (u.readHome l n) = numAt s.byteAt l n := by
      rw [State.readHome_number n hio, funext h.byteAt]
    simp only [State.vRead, h.clean l n hp, Bool.false_eq_true, if_false, hv, VPlace.value]
  | sp k =>
    refine ⟨u, ?_, h⟩
    have hp : s.myGang.spPoisoned (s.myGang.spMap k) n = false := hy
    simp only [State.vRead, h.myGang, hp, Bool.false_eq_true, if_false, Gang.spRead, Mem.bytes_eq_map]
    rfl
theorem State.ReadsTo.vPlace {s u : State} (h : s.ReadsTo u) (f : VAcc) (e : Nat) : u.vPlace f e = s.vPlace f e := by
  unfold State.vPlace State.token; rw [h.myGang, h.atS, h.me]
/-- A load whose elements have places that can be read reads them all. -/
theorem State.ReadsTo.loadAll {s u : State} (h : s.ReadsTo u) (f : VAcc) (first : Nat) {at_ : Nat → VPlace} {es : List Nat}
    (hp : ∀ e ∈ es, s.vPlace f e = .ok (at_ e)) (hr : ∀ e ∈ es, (at_ e).readable s f.n) :
    ∃ w, u.loadAll f first es = (es.map fun e => (e, (at_ e).value s f.n), w, .done) ∧ s.ReadsTo w := by
  induction es generalizing u with
  | nil => exact ⟨u, rfl, h⟩
  | cons e es ih =>
    obtain ⟨v, hv, hsv⟩ := h.vRead (hr e List.mem_cons_self)
    obtain ⟨w, hw, hsw⟩ := ih hsv (fun k hk => hp k (List.mem_cons_of_mem e hk)) fun k hk => hr k (List.mem_cons_of_mem e hk)
    refine ⟨w, ?_, hsw⟩
    simp only [State.loadAll, h.vPlace, hp e List.mem_cons_self, hv, hw, List.map_cons]

/-! ### The raw result (R53, R231) -/

theorem State.mem_todo {s : State} {x : MemX} {e : Nat} :
    e ∈ s.todo x ↔ s.me.ei ≤ e ∧ e < s.me.vl ∧ s.onMem x e = true := by
  simp only [State.todo, State.active, State.onMem, List.mem_filter, List.mem_range, Bool.and_eq_true, decide_eq_true_eq]
  tauto
/-- In the list of the values of some elements, each of these is found. -/
theorem found_map (es : List Nat) (v : Nat → Nat) (e : Nat) :
    found (es.map fun e => (e, v e)) e = if e ∈ es then some (v e) else none := by
  induction es with
  | nil => rfl
  | cons k es ih =>
    by_cases hk : k = e
    · subst hk; simp [found]
    · have hne : (k == e) = false := beq_eq_false_iff_ne.mpr hk
      have : found ((k :: es).map fun e => (e, v e)) e = found (es.map fun e => (e, v e)) e := by
        simp [found, hne]
      rw [this, ih]
      simp only [List.mem_cons, Ne.symm hk, false_or]
/-- A load that read all its elements sets what a raw load sets. -/
theorem State.rawPut_loaded {s u : State} (hei : u.me.ei = s.me.ei) (x : MemX) (v : Nat → Nat) (g : Nat → Word) :
    (u.rawPut x s.me.vl fun e => (found ((s.todo x).map fun e => (e, v e)) e).map g) = s.loaded x fun e => g (v e) := by
  funext e
  simp only [State.rawPut, State.loaded, hei, found_map]
  by_cases hr : s.me.ei ≤ e ∧ e < s.me.vl
  · rw [if_pos hr, if_pos hr]
    cases ho : s.onMem x e
    · rw [if_neg (by simp [State.mem_todo, ho])]; rfl
    · rw [if_pos (State.mem_todo.mpr ⟨hr.1, hr.2, ho⟩)]; rfl
  · rw [if_neg hr, if_neg hr]
theorem rawTag_eq_tagOfRaw (old : Tag) (n : Nat) (sx : Bool) : rawTag old n sx = tagOfRaw old n sx := by
  unfold rawTag tagOfRaw
  by_cases h : old = .none
  · rw [if_pos h, if_neg (not_not.mpr h)]
  · rw [if_neg h, if_pos h]
theorem VReg.put_el (v : VReg) (t : Tag) (f : Nat → Option Word) (e : Fin 128) :
    (v.put t f).el[e] = (f e.val).getD v.el[e] := by
  show (vgen 128 _)[e] = _
  rw [vgen_getElem, vget_eq]

/-! ### A load that reads all its elements -/

/-- An access that meets its conditions goes on with its elements. -/
theorem VecAccess.vmem_eq {s : State} {f : VAcc} {data : List VsOp} {dests : List VdOp} {offs : Option VrOp}
    {rf : PageKind → Option Cause} {at_ : Nat → VPlace} (h : VecAccess s f data dests offs rf at_) (k : List Nat → Res) :
    s.vmem f (s.vmTags data dests offs) rf k = k (s.todo f.x) := by
  obtain ⟨hu, hv, ht, htk, hi, hs, hw, -⟩ := h
  have hw' : ¬ (f.x.t = .no ∧ s.waitsOwn true (releases f.x.ord) (s.vLocs f (s.todo f.x)) = true) := fun hc =>
    Bool.false_ne_true ((hw hc.1).symm.trans hc.2)
  simp only [State.vmem, State.userOnly, hu, ht, htk, hi, hs, Bool.false_eq_true, if_false, if_neg hv, if_neg hw']

/-- The state in which the result of a load is written: its reads are done, and its acquire. -/
structure State.LoadedAt (s u : State) : Prop where
  moved : Moved Hart.sansCache hideNone hideNone State.sansReads s u s.byteAt
  me : u.me.sansCache = s.me.sansCache

theorem State.LoadedAt.v {s u : State} (h : s.LoadedAt u) : u.me.v = s.me.v := by
  have e := congrArg Hart.v h.me; exact e
theorem State.LoadedAt.m {s u : State} (h : s.LoadedAt u) : u.me.m = s.me.m := by
  have e := congrArg Hart.m h.me; exact e
theorem State.LoadedAt.vl {s u : State} (h : s.LoadedAt u) : u.me.vl = s.me.vl := by
  have e := congrArg Hart.vl h.me; exact e
theorem State.LoadedAt.ei {s u : State} (h : s.LoadedAt u) : u.me.ei = s.me.ei := by
  have e := congrArg Hart.ei h.me; exact e
theorem State.LoadedAt.pc {s u : State} (h : s.LoadedAt u) : u.me.pc = s.me.pc := by
  have e := congrArg Hart.pc h.me; exact e
theorem State.ReadsTo.loadedAt {s u : State} (h : s.ReadsTo u) (hl : s.live) (b : Bool) :
    s.LoadedAt (if b then u.acquire else u) := by
  cases b with
  | false => exact ⟨h.moved hl, congrArg Hart.sansCache h.me⟩
  | true =>
    refine ⟨(h.moved hl).acquire, ?_⟩
    show (u.modMe fun x => { x with cache := [] }).me.sansCache = _
    rw [State.me_modMe (h.live hl), h.me]; rfl
/-- A load whose elements can all be read ends with the value of each. -/
theorem VecAccess.vload_eq {s : State} {f : VAcc} {d : VdOp} {pair : Option VdOp} {offs : Option VrOp}
    {rf : PageKind → Option Cause} {at_ : Nat → VPlace} (h : VecAccess s f [] (d :: pair.toList) offs rf at_) (hl : s.live)
    (hs : s.me.stores = []) (hr : ∀ e ∈ s.todo f.x, (at_ e).readable s f.n) :
    ∃ u, s.vload f d pair offs rf =
        u.loadEnd f d pair ((s.todo f.x).map fun e => (e, (at_ e).value s f.n)) .done ∧ s.LoadedAt u := by
  have h0 : s.ReadsTo (if releases f.x.ord then s.release else s) := by
    split
    · exact .of_alike (.of_release hs)
    · exact .of_alike (.refl s)
  obtain ⟨w, hw, hsw⟩ := h0.loadAll f ((s.todo f.x).headD 0) h.places hr
  refine ⟨_, ?_, hsw.loadedAt hl (emptiesCache f.x || s.vStalled f (s.todo f.x))⟩
  rw [State.vload, h.vmem_eq]
  dsimp only
  rw [hw]

/-! ### The registers written (R53, R56) -/

/-- A vector value written to D and to a last-result register, then retirement. -/
theorem State.writeV_retired {u : State} (hl : u.live) (hu : u.atS = false) (d : VdOp) (last : Option (Fin 60)) (x : VReg) :
    (u.writeV d last x).retired = u.modMe fun y => y.afterRow d last x none 0 (u.me.pc + 8) := by
  have keeps := fun y : Hart => Hart.row_keeps y (d.map vdReg) last x none
  have ha : (u.writeV d last x).atS = false := (State.atS_modMe hl _ fun y => (keeps y).1).trans hu
  have hpc : (u.writeV d last x).me.pc = u.me.pc := by
    rw [State.writeV, State.me_modMe hl]; exact (keeps u.me).2.1
  rw [State.retired, State.goto_user ha, State.pcv_user ha, hpc, State.writeV, State.modMe_modMe]
  congr 1
  funext y
  have hfl : y.fcsr ||| (0 : Flags) = (((y.setV? (d.map vdReg) x).setV? last x).setM? none).fcsr :=
    BitVec.or_zero.trans (keeps y).2.2.2.symm
  rw [Hart.afterRow, hfl]
  rfl
/-- Raw bits written to D and to `l2`, then retirement, are a vector step. -/
theorem State.rawWrite_step {u : State} (hl : u.live) (hu : u.atS = false) (d : VdOp) (n : Nat) (sx : Bool)
    (put : Nat → Option Word) :
    VecStep u (u.rawWrite d n sx true put).retired
      { d := d, last := some 58, tag := tagOfRaw (u.me.v[(d.map vdReg).getD 58].tag) n sx, put := put, fl := 0,
        mask := none } := by
  have he : u.rawWrite d n sx true put =
      u.writeV d (some 58) (u.formed d 58 (tagOfRaw (u.me.v[(d.map vdReg).getD 58].tag) n sx) put) := by
    rw [← rawTag_eq_tagOfRaw]; rfl
  rw [he, State.writeV_retired hl hu]
  exact VecStep.of_row hl hu { d := d, last := some 58, tag := _, put := put, fl := 0, mask := none } _
    (fun e => VReg.put_el _ _ _ e) rfl

/-- A vector step after a change that shows in the vector registers and the data cache alone. -/
theorem VecStep.stepBut_after {s u t : State} {r : VRow}
    (hm : Moved (fun h => h.sansV.sansCache) hideNone hideNone State.sansReads s u s.byteAt) (hu : s.atS = false)
    (h : VecStep u t r) : StepBut (fun h => h.sansV.sansCache) hideNone hideNone State.sansReads s t s.byteAt := by
  have hu' : u.atS = false := hm.same.atS.trans hu
  refine ⟨?_, fun _ => h.ei, h.level.trans hm.same.atS, ?_, fun l => (h.memory l).trans (hm.memory l)⟩
  · rw [State.pcv_user (h.level.trans hu'), h.pc, ← hm.same.pcv, State.pcv_user hu']
  · exact hm.frame.trans (h.frame.weaken (fun _ _ e => congrArg Hart.sansCache e) (fun _ _ e => e) (fun _ _ e => e)
      fun _ _ e => congrArg State.sansReads e) hm.same.cur hm.same.atS
theorem State.LoadedAt.movedV {s u : State} (h : s.LoadedAt u) :
    Moved (fun h => h.sansV.sansCache) hideNone hideNone State.sansReads s u s.byteAt :=
  h.moved.weaken (fun _ _ e => congrArg Hart.sansV e) (fun _ _ e => e) (fun _ _ e => e) fun _ _ e => e
/-- A vector step from the state in which a load's result is written is the load's. -/
theorem VecStep.after_load {s u t : State} {r : VRow} (hu : s.atS = false) (hs : s.LoadedAt u) (h : VecStep u t r) :
    VecStepBut Hart.sansCache hideNone State.sansReads s t r s.byteAt := by
  obtain ⟨-, -, hlevel, hframe, hmem⟩ := h.stepBut_after hs.movedV hu
  exact {
    elems := fun k hk e => by rw [h.elems k hk e, hs.v]
    tags := h.tags
    kept := fun k hk => by rw [h.kept k hk, hs.v]
    masks := fun m => by rw [h.masks m, hs.m]
    flags := by rw [h.flags, hs.moved.same.fcsr]
    pc := by rw [h.pc, hs.pc]
    ei := h.ei
    memory := hmem
    level := hlevel
    frame := hframe }

/-! ### The loads (Table 10-1) -/

/-- The loads of one destination are this access. -/
theorem VLoadOp.exec_eq {s : State} {i : Instr} {f : VAcc} {d : VdOp} {offs : Option VrOp} {rf : PageKind → Option Cause}
    (h : VLoadOp s i f d offs rf) : exec i s = s.vload f d none offs rf ∧ f.loadSx = f.x.sx := by
  cases h with
  | vld => exact ⟨exec_vld _ _ _ _ s, rfl⟩
  | vldx => exact ⟨exec_vldx _ _ _ _ s, rfl⟩
  | vlds => exact ⟨exec_vlds _ _ _ _ s, rfl⟩
  | vldsx => exact ⟨exec_vldsx _ _ _ _ s, rfl⟩

/-- The end of a load of one destination that read all its elements. -/
theorem State.loadEnd_single (u : State) (f : VAcc) (d : VdOp) (l : List (Nat × Nat)) :
    u.loadEnd f d none l .done = .next (u.rawWrite d f.n f.loadSx true (u.rawPut f.x u.me.vl fun e =>
      (found l e).map fun v => if f.n = 4 then extendN 4 f.x.sx v else word v)).retired := rfl

/-- A load of one destination whose elements can all be read writes them. -/
theorem VLoadOp.writes {s : State} {i : Instr} {f : VAcc} {d : VdOp} {offs : Option VrOp} {rf : PageKind → Option Cause}
    {at_ : Nat → VPlace} (h : VLoadOp s i f d offs rf) (hl : s.live) (hs : s.me.stores = [])
    (ha : VecAccess s f [] [d] offs rf at_) (hr : ∀ e ∈ s.todo f.x, (at_ e).readable s f.n) :
    ∃ t, exec i s = .next t ∧
      VecStepBut Hart.sansCache hideNone State.sansReads s t
        { d := d, last := some 58, tag := tagOfRaw (s.me.v[(d.map vdReg).getD 58].tag) f.n f.x.sx, fl := 0, mask := none,
          put := s.loaded f.x fun e =>
            if f.n = 4 then extendN 4 f.x.sx ((at_ e).value s f.n) else word ((at_ e).value s f.n) } s.byteAt := by
  obtain ⟨hexec, hsx⟩ := h.exec_eq
  obtain ⟨u, hload, hsu⟩ := ha.vload_eq (pair := none) hl hs hr
  have hstep := State.rawWrite_step hsu.moved.same.live (hsu.moved.same.atS.trans ha.user) d f.n f.x.sx
    (s.loaded f.x fun e => if f.n = 4 then extendN 4 f.x.sx ((at_ e).value s f.n) else word ((at_ e).value s f.n))
  refine ⟨_, ?_, VecStep.after_load ha.user hsu (hsu.v ▸ hstep)⟩
  rw [hexec, hload, State.loadEnd_single, hsu.vl, hsx, State.rawPut_loaded hsu.ei]

/-- The value that a load of pairs forms for C from the elements that it sets. -/
def State.pairHigh (u : State) (c : Fin 56) (put : Nat → Option Word) : VReg :=
  u.formed (some c) 58 (rawTag u.me.v[vdReg c].tag 16 false) put
/-- The end of a load of pairs that read all its elements: bytes 8 to 15 go to C, then bytes 0 to 7 to D and `l2`. -/
theorem State.loadEnd_pair (u : State) {f : VAcc} (d c : Fin 56) (l : List (Nat × Nat)) (hn : f.n = 16) :
    u.loadEnd f (some d) (some (some c)) l .done = .next (((u.writeV (some c) none
      (u.pairHigh c (u.rawPut f.x u.me.vl fun e => (found l e).map fun v => word (v / 2 ^ 64)))).rawWrite (some d) 16
      f.loadSx true (u.rawPut f.x u.me.vl fun e => (found l e).map word)).retired) := by
  obtain ⟨op, x, n, wr, sp, addr⟩ := f
  obtain rfl : n = 16 := hn
  rfl
/-- The tag of 16-byte raw bits does not depend on SX. -/
theorem rawTag_pair (old : Tag) (sx : Bool) : rawTag old 16 false = tagOfRaw old 16 sx := by
  rw [rawTag_eq_tagOfRaw]; simp [tagOfRaw]

theorem vdReg_inj {c d : Fin 56} : vdReg c = vdReg d ↔ c = d :=
  ⟨fun e => by have h := congrArg Fin.val e; exact Fin.ext h, congrArg vdReg⟩
theorem vdReg_ne_last (c : Fin 56) : vdReg c ≠ 58 := fun e => by
  have h : c.val = 58 := Fin.ext_iff.mp e
  omega

/-- What the end of a load of pairs writes, for two destinations, and what it leaves. -/
theorem State.LoadedAt.pair_writes {s u : State} (hs : s.LoadedAt u) (hu : s.atS = false) {d c : Fin 56} (hdc : d ≠ c)
    (sx : Bool) (lo hi : Nat → Option Word) {t : State}
    (ht : t = ((u.writeV (some c) none (u.pairHigh c hi)).rawWrite (some d) 16 sx true lo).retired) :
    (∀ (k : Fin 60) (e : Fin 128), t.me.v[k].el[e] =
      if k = vdReg d ∨ k = 58 then (lo e.val).getD (s.me.v[vdReg d].el[e])
      else if k = vdReg c then (hi e.val).getD (s.me.v[k].el[e]) else s.me.v[k].el[e]) ∧
    t.me.v[vdReg d].tag = tagOfRaw s.me.v[vdReg d].tag 16 sx ∧ t.me.v[vdReg c].tag = tagOfRaw s.me.v[vdReg c].tag 16 sx ∧
    t.me.m = s.me.m ∧ t.me.fcsr = s.me.fcsr ∧
    StepBut (fun h => h.sansV.sansCache) hideNone hideNone State.sansReads s t s.byteAt := by
  generalize hx : u.pairHigh c hi = x at ht
  have hel (e : Fin 128) : x.el[e] = (hi e.val).getD (s.me.v[vdReg c].el[e]) := by
    rw [← hx, ← hs.v]; exact VReg.put_el _ _ _ e
  have htag : x.tag = tagOfRaw s.me.v[vdReg c].tag 16 sx := by
    rw [← hx, ← hs.v, ← rawTag_pair]; rfl
  have hul := hs.moved.same.live
  generalize hw : u.writeV (some c) none x = w at ht
  have hme : w.me = u.me.setV (vdReg c) x := by rw [← hw]; exact State.me_modMe hul _
  have hv (k : Fin 60) : w.me.v[k] = if vdReg c = k then x else s.me.v[k] := by
    rw [hme, ← hs.v]; exact vput_getElem _ _ _ _
  have hm : w.me.m = s.me.m := by rw [hme, ← hs.m]; rfl
  have hmoved : Moved (fun h => h.sansV.sansCache) hideNone hideNone State.sansReads s w s.byteAt := by
    rw [← hw]
    exact hs.movedV.modMe _ (fun _ b => by cases b <;> rfl) (fun _ => rfl) (fun _ => rfl) (fun _ => rfl) (fun _ => rfl)
      (fun _ => rfl) fun _ => rfl
  have hcd : vdReg c ≠ vdReg d := fun e => hdc (vdReg_inj.mp e).symm
  have hstep := State.rawWrite_step hmoved.same.live (hmoved.same.atS.trans hu) (some d) 16 sx lo
  rw [← ht] at hstep
  have hkept (k : Fin 60) (hk : ¬ (k = vdReg d ∨ k = 58)) : t.me.v[k] = w.me.v[k] :=
    hstep.kept k fun hh => hk (hh.imp (fun ⟨_, hd, hk⟩ => Option.some.inj hd ▸ hk) fun hl => (Option.some.inj hl).symm)
  have hold : w.me.v[vdReg d] = s.me.v[vdReg d] := by rw [hv, if_neg hcd]
  refine ⟨fun k e => ?_, ?_, ?_, ?_, ?_, hstep.stepBut_after hmoved hu⟩
  · by_cases hk : k = vdReg d ∨ k = 58
    · rw [if_pos hk, hstep.elems k (hk.imp (fun h => ⟨d, rfl, h⟩) fun h => congrArg some h.symm) e]
      exact congrArg (fun y : VReg => (lo e.val).getD y.el[e]) hold
    · rw [if_neg hk, hkept k hk, hv]
      by_cases hc : k = vdReg c
      · rw [if_pos hc, if_pos hc.symm, hel, hc]
      · rw [if_neg hc, if_neg (Ne.symm hc)]
  · exact (hstep.tags _ (.inl ⟨d, rfl, rfl⟩)).trans (congrArg (fun y : VReg => tagOfRaw y.tag 16 sx) hold)
  · rw [hkept _ (not_or.mpr ⟨hcd, vdReg_ne_last c⟩), hv, if_pos rfl, htag]
  · exact (Vector.ext fun i hi => hstep.masks ⟨i, hi⟩).trans hm
  · rw [hstep.flags, hmoved.same.fcsr]; exact BitVec.or_zero

/-- Settles O38: a load whose elements can all be read finds the value of each, and writes them to its destinations. -/
theorem vectorLoadsWriteTheirElements : Obligations.VectorLoadsWriteTheirElements := by
  unfold Obligations.VectorLoadsWriteTheirElements
  refine ⟨fun s i f d offs rf at_ h hl hs ha hr => h.writes hl hs ha hr, ?_⟩
  rintro s x d c a b f at_ hl hs hdc rfl ha hr
  obtain ⟨u, hload, hsu⟩ := ha.vload_eq (pair := some (some c)) hl hs hr
  rw [State.loadEnd_pair u d c _ rfl, hsu.vl, State.rawPut_loaded hsu.ei, State.rawPut_loaded hsu.ei] at hload
  exact ⟨_, (exec_vlds2 _ _ _ _ _ s).trans hload, hsu.pair_writes ha.user hdc x.sx _ _ rfl⟩

end Sys2Proof.Machine
end


section
/-!
SUPPORT. `MOPA` (R254, R255, Table 11-2): the plan that passes its checks, what its K-groups make of each entry of a tile and
of the flags, and the step that writes its tiles.
-/

namespace Sys2Proof.Machine

/-! ### Flags of many entries -/

/-- Flags raised together are those raised apart, ORed. -/
theorem flagsOf_or (l : List Nat) (f h : Nat → Flags) : flagsOf l (fun x => f x ||| h x) = flagsOf l f ||| flagsOf l h := by
  have acc (a b : Flags) : l.foldl (fun z x => z ||| (f x ||| h x)) (a ||| b) =
      l.foldl (fun z x => z ||| f x) a ||| l.foldl (fun z x => z ||| h x) b := by
    induction l generalizing a b with
    | nil => rfl
    | cons x xs ih =>
      have swap : a ||| b ||| (f x ||| h x) = a ||| f x ||| (b ||| h x) := by ac_rfl
      rw [List.foldl_cons, swap]
      exact ih _ _
  exact acc 0 0
theorem flagsOf_congr {l : List Nat} {f h : Nat → Flags} (e : ∀ x ∈ l, f x = h x) : flagsOf l f = flagsOf l h :=
  List.foldl_ext _ _ 0 fun z x hx => congrArg (z ||| ·) (e x hx)
theorem flagsOf_zero (l : List Nat) : flagsOf l (fun _ => 0) = 0 := by simp [flagsOf]
theorem tileFlags_eq (f : Nat → Flags) : tileFlags f = flagsOf (List.range 4096) f := rfl

/-! ### Entries of a tile -/

theorem tileOf_congr {f h : Nat → BitVec 32} (e : ∀ x, x < 4096 → f x = h x) : tileOf f = tileOf h := by
  have hv : vgen 4096 f = vgen 4096 h := Vector.ext fun x hx =>
    (vgen_getElem 4096 f ⟨x, hx⟩).trans ((e x hx).trans (vgen_getElem 4096 h ⟨x, hx⟩).symm)
  exact congrArg (fun v => ({ data := v, zero := false, dirty := true } : Tile)) hv
theorem tileOf_entry (f : Nat → BitVec 32) {x : Nat} (hx : x < 4096) : vget (tileOf f).data x 0 = f x :=
  (vget_eq (vgen 4096 f) ⟨x, hx⟩ 0).trans (vgen_getElem 4096 f ⟨x, hx⟩)

/-! ### K-groups (R92, R93, R255) -/

theorem mopaRun_zero (q : Mopa) (im : Bool) (x g old : Nat) : mopaRun q im x 0 g old = (old, 0) := rfl
/-- The first group of an entry is that of the tile; the others go on from its 32 bits. -/
theorem mopaRun_succ (q : Mopa) (im : Bool) (x n g : Nat) (t : Tile) :
    mopaRun q im x (n + 1) g (vget t.data x 0).toNat =
      ((mopaRun q im x n (g + 1) ((q.entry g t im x).1 % 2 ^ 32)).1,
        (q.entry g t im x).2 ||| (mopaRun q im x n (g + 1) ((q.entry g t im x).1 % 2 ^ 32)).2) := by
  cases h : q.terms g (x / 64) (x % 64) im <;> simp only [mopaRun, Mopa.entry, h]
theorem Mopa.groups_succ (q : Mopa) (im : Bool) (n g : Nat) (t : Tile) :
    q.groups im (n + 1) g t =
      ((q.groups im n (g + 1) (q.group g im t).1).1, (q.group g im t).2 ||| (q.groups im n (g + 1) (q.group g im t).1).2) := by
  simp only [Mopa.groups]
theorem Mopa.group_tile (q : Mopa) (g : Nat) (im : Bool) (t : Tile) :
    (q.group g im t).1 = tileOf fun x => BitVec.ofNat 32 (q.entry g t im x).1 := by
  simp only [Mopa.group, Tile.put, tileOf]
theorem Mopa.group_flags (q : Mopa) (g : Nat) (im : Bool) (t : Tile) :
    (q.group g im t).2 = flagsOf (List.range 4096) fun x => (q.entry g t im x).2 := by
  simp only [Mopa.group]
/-- What the next group reads of an entry. -/
theorem Mopa.group_entry (q : Mopa) (g : Nat) (im : Bool) (t : Tile) {x : Nat} (hx : x < 4096) :
    (vget (q.group g im t).1.data x 0).toNat = (q.entry g t im x).1 % 2 ^ 32 := by
  rw [Mopa.group_tile, tileOf_entry _ hx, BitVec.toNat_ofNat]

/-- The flags of some groups are those of every entry. -/
theorem Mopa.groups_flags (q : Mopa) (im : Bool) (n g : Nat) (t : Tile) :
    (q.groups im n g t).2 = tileFlags fun x => (mopaRun q im x n g (vget t.data x 0).toNat).2 := by
  rw [tileFlags_eq]
  induction n generalizing g t with
  | zero => exact (flagsOf_zero _).symm
  | succ n ih =>
    have rest : (q.groups im n (g + 1) (q.group g im t).1).2 =
        flagsOf (List.range 4096) fun x => (mopaRun q im x n (g + 1) ((q.entry g t im x).1 % 2 ^ 32)).2 :=
      (ih _ _).trans (flagsOf_congr fun x hx => by rw [q.group_entry g im t (List.mem_range.mp hx)])
    simp only [Mopa.groups_succ, mopaRun_succ]
    rw [rest, flagsOf_or, Mopa.group_flags]
/-- A tile after one group or more has in each entry what the groups make of that entry. -/
theorem Mopa.groups_tile (q : Mopa) (im : Bool) (n g : Nat) (t : Tile) :
    (q.groups im (n + 1) g t).1 = tileOf fun x => BitVec.ofNat 32 (mopaRun q im x (n + 1) g (vget t.data x 0).toNat).1 := by
  induction n generalizing g t with
  | zero =>
    rw [Mopa.groups_succ, Mopa.groups, Mopa.group_tile]
    exact tileOf_congr fun x _ => by rw [mopaRun_succ, mopaRun_zero]; exact BitVec.eq_of_toNat_eq (by simp)
  | succ n ih =>
    rw [Mopa.groups_succ, ih]
    exact tileOf_congr fun x hx => by rw [q.group_entry g im t hx, mopaRun_succ q im x (n + 1)]

/-! ### The checks (R254) -/

theorem State.mopaCheck_per {s : State} {cj : Bool} {n : Fin 4} {a b : VrOp} {u : Tag} {per : Nat}
    (h : s.mopaCheck cj n a b = .ok (u, per)) : mopaPer u = some per := by
  unfold State.mopaCheck at h
  dsimp only at h
  split at h
  · cases h
  · split at h
    · cases h
    · next hper =>
      generalize (if isCF _ then _ else _) = bad at h
      cases bad with
      | true => cases h
      | false => cases h; exact hper
theorem State.mopaTags_check {s : State} {cj : Bool} {n : Fin 4} {a b : VrOp} {r : Tag × Nat}
    (h : s.mopaTags cj n a b = .ok r) : s.mopaCheck cj n a b = .ok r := by
  unfold State.mopaTags at h
  dsimp only at h
  split at h
  · cases h
  · split at h
    · cases h
    · cases h
    · next hc _ => rw [hc]; exact h
/-- Of the tags that `MOPA` accepts, one is complex (Table 11-2). -/
theorem isCF_of_mopaPer {u : Tag} {per : Nat} (h : mopaPer u = some per) : isCF u = (u == .cbf16x2) := by
  unfold mopaPer at h
  split at h
  · rfl
  · rfl
  · rfl
  · rfl
  · cases h

/-- A `MOPA` with a length and tiles that fit passes its checks. -/
theorem State.mopaPlan_passes {s : State} {q : VMod} {cj : Bool} {n : Fin 4} {a b : VrOp} {u : Tag} {per : Nat} {re : Tile}
    (ht : s.mopaTags cj n a b = .ok (u, per)) (hv : s.me.vl ≠ 0) (hm : s.me.vl % per = 0)
    (he : s.me.ei < (s.me.vl / per + 3) / 4) (hre : s.me.acc[n] = some re)
    (him : u = .cbf16x2 → s.me.acc[n + 1] ≠ none) :
    s.mopaPlan q cj n a b = .ok (some
      { m := s.mopaOf q cj u per a b, groups := (s.me.vl / per + 3) / 4, re := re,
        im := if u = .cbf16x2 then s.me.acc[n + 1] else none }) := by
  have hcf := isCF_of_mopaPer (State.mopaCheck_per (State.mopaTags_check ht))
  have hgs : ceilDiv (s.me.vl / per) 4 = (s.me.vl / per + 3) / 4 := rfl
  have hbad : ¬(s.me.vl % per ≠ 0 ∨ (s.me.vl / per + 3) / 4 ≤ s.me.ei) := by omega
  unfold State.mopaPlan
  simp only [ht, if_neg hv, hre, hcf, hgs, if_neg hbad]
  by_cases hu : u = .cbf16x2
  · obtain ⟨im, hi⟩ := Option.ne_none_iff_exists'.mp (him hu)
    simp only [hu, hi, State.mopaOf]
    rfl
  · have hb : (u == Tag.cbf16x2) = false := beq_false_of_ne hu
    simp only [hb, if_neg hu, Bool.false_eq_true, if_false, State.mopaOf]

/-! ### Tiles written -/

theorem State.withAcc_vput (s : State) (n : Fin 4) (x : Option Tile) (k : Fin 4) :
    (vput s.me.acc n x)[k] = s.withAcc n x k := by
  simp only [vput_getElem, State.withAcc, eq_comm]
theorem vput_next_getElem {α : Type} (v : Vector α 4) (n : Fin 4) (x y : α) (k : Fin 4) :
    (vput (vput v n x) (n + 1) y)[k] = if k = n then x else if k = n + 1 then y else v[k] := by
  rw [vput_getElem, vput_getElem]
  by_cases hk : k = n
  · have hn : n + 1 ≠ k := by omega
    rw [if_neg hn, if_pos hk.symm, if_pos hk]
  · simp only [hk, Ne.symm hk, if_false, eq_comm]

/-- A hart with its tiles changed and flags raised. -/
def Hart.tilesWritten (A : Vector (Option Tile) 4 → Vector (Option Tile) 4) (f : Flags) (h : Hart) : Hart :=
  { h with acc := A h.acc, fcsr := h.fcsr ||| f }

theorem State.atS_tilesWritten {s : State} (hl : s.live) (hu : s.atS = false)
    (A : Vector (Option Tile) 4 → Vector (Option Tile) 4) (f : Flags) : (s.modMe (Hart.tilesWritten A f)).atS = false :=
  (State.atS_modMe hl (Hart.tilesWritten A f) fun _ => rfl).trans hu
/-- A change of tiles and flags, and retirement. -/
theorem TileStep.of_tilesWritten {s : State} (hl : s.live) (hu : s.atS = false)
    {A : Vector (Option Tile) 4 → Vector (Option Tile) 4} {f : Flags} {T : Fin 4 → Option Tile}
    (hA : ∀ k, (A s.me.acc)[k] = T k) :
    TileStep hideNone s (s.modMe (Hart.tilesWritten A f)).retired T f s.byteAt := by
  have huw := State.atS_tilesWritten hl hu A f
  have hme : (s.modMe (Hart.tilesWritten A f)).retired.me =
      (Hart.tilesWritten A f s.me).retire ((s.modMe (Hart.tilesWritten A f)).pcv + 8) := by
    rw [State.retired, State.goto_user huw, State.me_modMe (State.live_modMe hl _), State.me_modMe hl]
  refine ⟨fun k => ?_, ?_, ?_⟩
  · rw [hme]; exact hA k
  · rw [hme]; rfl
  · exact StepBut.of_modMe hl _ (by rw [hu]; rfl) rfl rfl rfl

theorem State.setTile_flag {s : State} (hl : s.live) (hu : s.atS = false) (n : Fin 4) (t : Tile) (f : Flags) :
    (s.setTile n (some t)).flag f = s.modMe (Hart.tilesWritten (vput · n (some t)) f) := by
  have h : (s.setTile n (some t)).atS = false :=
    (State.atS_modMe hl (fun h => { h with acc := vput h.acc n (some t) }) fun _ => rfl).trans hu
  rw [State.flag_user h, State.setTile, State.modMe_modMe]
  rfl
/-- The groups of a real `MOPA` change one tile. -/
theorem State.mopaRun_real {s : State} (hl : s.live) (hu : s.atS = false) (n : Fin 4) {r : MopaPlan} (hr : r.im = none)
    (k : Nat) :
    s.mopaRun n r k = s.modMe (Hart.tilesWritten (vput · n (some (r.m.groups false k s.me.ei r.re).1))
      (r.m.groups false k s.me.ei r.re).2) := by
  unfold State.mopaRun
  rw [hr]
  exact State.setTile_flag hl hu n _ _
/-- The groups of a complex `MOPA` change two tiles. -/
theorem State.mopaRun_complex {s : State} (hl : s.live) (hu : s.atS = false) (n : Fin 4) {r : MopaPlan} {im : Tile}
    (hr : r.im = some im) (k : Nat) :
    s.mopaRun n r k = s.modMe (Hart.tilesWritten
      (fun acc => vput (vput acc n (some (r.m.groups false k s.me.ei r.re).1)) (n + 1) (some (r.m.groups true k s.me.ei im).1))
      ((r.m.groups false k s.me.ei r.re).2 ||| (r.m.groups true k s.me.ei im).2)) := by
  unfold State.mopaRun
  rw [hr]
  dsimp only
  rw [State.setTile_flag hl hu, State.setTile_flag (State.live_modMe hl _) (State.atS_tilesWritten hl hu _ _),
    State.modMe_modMe]
  congr 1
  funext h
  exact congrArg (fun c => ({ h with acc := _, fcsr := c } : Hart)) (BitVec.or_assoc _ _ _)

/-- A `MOPA` that passes its checks performs every group from `ei` up and retires. -/
theorem execMopa_passes {s : State} {q : VMod} {cj : Bool} {n : Fin 4} {a b : VrOp} {r : MopaPlan} (hu : s.atS = false)
    (h : s.mopaPlan q cj n a b = .ok (some r)) :
    exec (.mopa q cj n a b) s = .next (s.mopaRun n r (r.groups - s.me.ei)).retired := by
  simp only [exec_mopa, execMopa, State.userOnly, hu, Bool.false_eq_true, if_false, h, State.retire]

/-- Settles O45: the plan that passes the checks of `MOPA`, entry by entry over its groups. -/
theorem outerProductsAddGroupByGroup : Obligations.OuterProductsAddGroupByGroup := by
  unfold Obligations.OuterProductsAddGroupByGroup
  intro s q cj n a b u per gs m re hl hs ht hm hgs hv hper hei hre
  subst hm hgs
  obtain ⟨k, hk⟩ := Nat.exists_eq_add_of_lt (Nat.sub_pos_of_lt hei)
  rw [Nat.zero_add] at hk
  have plan := State.mopaPlan_passes (q := q) ht hv hper hei hre
  refine ⟨fun hu => ?_, fun im hu him => ?_⟩
  · have hx := execMopa_passes hs (plan fun h => absurd h hu)
    rw [State.mopaRun_real hl hs n (if_neg hu), hk, Mopa.groups_tile, Mopa.groups_flags] at hx
    rw [hk]
    exact ⟨_, hx, TileStep.of_tilesWritten hl hs (s.withAcc_vput n _)⟩
  · have hx := execMopa_passes hs (plan fun _ => by rw [him]; exact Option.some_ne_none _)
    rw [State.mopaRun_complex hl hs n ((if_pos hu).trans him), hk, Mopa.groups_tile, Mopa.groups_tile, Mopa.groups_flags,
      Mopa.groups_flags] at hx
    rw [hk]
    exact ⟨_, hx, TileStep.of_tilesWritten hl hs (vput_next_getElem s.me.acc n _ _)⟩

end Sys2Proof.Machine
end


section
/-!
SUPPORT. A change of the running hart's gang that shows in its event registers (R193), and the ring instructions (R120 to
R124, R282 to R284).
-/

namespace Sys2Proof.Machine

/-! ### Changes of a gang that set its event registers -/

/-- A hart whose event register is set where `b`. -/
def Hart.orEvt (b : Bool) (h : Hart) : Hart := { h with evt := h.evt || b }
theorem Hart.orEvt_false : Hart.orEvt false = id := by
  funext h; simp [Hart.orEvt]
theorem Hart.sansEvt_orEvt (b : Bool) (h : Hart) : (h.orEvt b).sansEvt = h.sansEvt := rfl

theorem State.me_modMyGang {s : State} (hl : s.live) {f : Gang → Gang} (hf : ∀ g, (f g).uid = g.uid) :
    (s.modMyGang f).me = (f s.myGang).harts[s.cur.rank] := by
  rw [State.me_eq]
  exact congrArg (fun g : Gang => g.harts[s.cur.rank]) (State.myGang_modGang hl f hf)
/-- A change of the gang that leaves its harts but for event registers shows there and in what it does to the gang. -/
theorem Moved.of_modMyGang {s : State} (hl : s.live) {f : Gang → Gang} (hf : ∀ g, (f g).uid = g.uid) {b : Bool}
    (hh : (f s.myGang).harts = s.myGang.harts.map (Hart.orEvt b)) {eg : Gang → Gang}
    (hg : eg { f s.myGang with harts := Vector.replicate 4 Hart.init } =
      eg { s.myGang with harts := Vector.replicate 4 Hart.init }) :
    Moved Hart.sansEvt Hart.sansEvt eg hideNone s (s.modMyGang f) s.byteAt := by
  have hmy : (s.modMyGang f).myGang = f s.myGang := State.myGang_modGang hl f hf
  have hhart (k : Fin 4) : (f s.myGang).harts[k] = (s.myGang.harts[k]).orEvt b := by
    rw [hh]; exact Vector.getElem_map _ k.isLt
  have hme : (s.modMyGang f).me = s.me.orEvt b := (State.me_modMyGang hl hf).trans (hhart _)
  have hat : (s.modMyGang f).atS = s.atS := by unfold State.atS; rw [hme]; rfl
  exact {
    same := {
      live := ⟨f s.myGang, (State.gang?_modGang s _ f hf).trans (by rw [State.gang_of_live hl]; rfl)⟩
      cur := rfl
      atS := hat
      pcv := by unfold State.pcv; rw [hat, hme]; rfl
      rg := fun r => by unfold State.rg; rw [hat, hme]; rfl
      fcsr := by rw [hme]; rfl }
    frame := {
      me := by rw [hme]; cases s.atS <;> rfl
      mates := fun k _ => by rw [hmy, hhart k]; rfl
      gang := by rw [hmy]; exact hg
      others := fun u hu => State.gang?_modGang_other s _ u f hf hu
      device := rfl }
    memory := fun l => by cases l with | mk k a => cases k <;> rfl }

/-- One change after another. -/
theorem Moved.trans {eh eo : Hart → Hart} {eg : Gang → Gang} {es : State → State} {s u v : State}
    (h : Moved eh eo eg es s u s.byteAt) (k : Moved eh eo eg es u v u.byteAt) : Moved eh eo eg es s v s.byteAt :=
  ⟨h.same.trans k.same, h.frame.trans k.frame h.same.cur h.same.atS, fun l => (k.memory l).trans (h.memory l)⟩

/-- Retirement keeps what the gang holds beside its harts, and the event registers. -/
theorem State.myGang_retired {u : State} (hl : u.live) :
    ({ u.retired.myGang with harts := u.myGang.harts } : Gang) = u.myGang ∧
      ∀ k : Fin 4, (u.retired.myGang.harts[k]).evt = (u.myGang.harts[k]).evt := by
  obtain ⟨hframe, hcur, -⟩ := Frame.of_goto hl (u.pcv + 8)
  refine ⟨congrArg (fun g : Gang => { g with harts := u.myGang.harts }) hframe.gang, fun k => ?_⟩
  by_cases hk : k = u.cur.rank
  · subst hk
    have h := congrArg Hart.evt hframe.me
    have hsans (x : Hart) : (x.sans u.atS).evt = x.evt := by cases u.atS <;> rfl
    have hme : u.retired.me = u.retired.myGang.harts[u.cur.rank] := by
      unfold State.me State.myGang State.retired
      rw [hcur]; rfl
    exact (congrArg Hart.evt hme).symm.trans ((hsans _).symm.trans (h.trans (hsans _)))
  · exact congrArg Hart.evt (hframe.mates k hk)

/-! ### Rings -/

/-- A gang with ring r changed, and its event registers set where `b`. -/
def Gang.putRing (r : Fin 8) (q : Ring) (b : Bool) (g : Gang) : Gang :=
  { g with rings := vput g.rings r q, harts := g.harts.map (Hart.orEvt b) }
/-- FILL or DRN of one ring differs from the other's. -/
def Ring.moves (x q : Ring) : Bool := !(decide (x.fill = q.fill) && decide (x.drn = q.drn))

theorem State.setRing_eq (s : State) (r : Fin 8) (q : Ring) :
    s.setRing s.cur.gang r q = s.modMyGang (Gang.putRing r q ((s.myGang.rings[r]).moves q)) := by
  have hr : s.ring s.cur.gang r = s.myGang.rings[r] := rfl
  unfold State.setRing Ring.moves
  rw [hr]
  by_cases h : (s.myGang.rings[r]).fill = q.fill ∧ (s.myGang.rings[r]).drn = q.drn
  · have hid (g : Gang) : ({ g with rings := vput g.rings r q } : Gang) = g.putRing r q false := by
      simp only [Gang.putRing, Hart.orEvt_false, Vector.map_id]
    simp only [h.1, h.2, decide_true, Bool.and_self, Bool.not_true, hid]
    rfl
  · have hb : (!(decide ((s.myGang.rings[r]).fill = q.fill) && decide ((s.myGang.rings[r]).drn = q.drn))) = true := by
      rw [← Bool.decide_and, decide_eq_false h]; rfl
    have hset : (fun x : Hart => ({ x with evt := true } : Hart)) = Hart.orEvt true := by
      funext x; simp [Hart.orEvt]
    simp only [if_neg h, hb, State.setEvtGang, hset]
    exact State.modGang_modGang s s.cur.gang _ _ fun _ => rfl
/-- A ring changed, then retirement, from a state that reads as `s` does. -/
theorem RingStep.of_setRing {s u : State} (hl : s.live) (hu : s.Alike u) (r : Fin 8) (q : Ring) :
    RingStep s (u.setRing s.cur.gang r q).retired r q := by
  have hmoved := Moved.of_modMyGang (hu.live hl) (f := Gang.putRing r q ((u.myGang.rings[r]).moves q))
    (eg := Gang.sansRing r) (fun _ => rfl) rfl
    (by simp only [Gang.sansRing, Gang.putRing, vput_vput])
  rw [← hu.cur, State.setRing_eq]
  generalize hw : u.modMyGang (Gang.putRing r q ((u.myGang.rings[r]).moves q)) = w at hmoved ⊢
  have hmy : w.myGang = s.myGang.putRing r q ((s.myGang.rings[r]).moves q) := by
    rw [← hw, ← hu.myGang]; exact State.myGang_modGang (hu.live hl) _ fun _ => rfl
  obtain ⟨hgang, hevt⟩ := State.myGang_retired hmoved.same.live
  refine ⟨?_, fun k => ?_, ?_⟩
  · have h := congrArg (fun g : Gang => g.rings[r]) hgang
    exact h.trans ((congrArg (fun g : Gang => g.rings[r]) hmy).trans (vput_getElem_same _ _ _))
  · rw [hevt, hmy]
    exact congrArg Hart.evt (Vector.getElem_map _ k.isLt)
  · exact Moved.retire (Moved.trans (Moved.of_alike hl hu) hmoved)

/-! ### The ring instructions -/

/-- A configuration word read field by field (Table 12-8). -/
theorem ringOf_eq (w : Word) : ringOf w =
    { cfg := true, base := bits w 20 0, size := 128 * (bits w 29 21 + 1), n := bits w 33 30 + 1, c := bits w 37 34 + 1,
      kind := w.extractLsb' 38 2, iss := 0, fill := 0, drn := 0, err := false,
      stages := Vector.replicate 16 Stage.empty, lk := none } := by
  rw [ringOf, ofNat_bits w 2 38 39 rfl]; rfl
/-- An instruction on a ring that the gang has goes on with it (R63). -/
theorem State.onRing_eq {s : State} {r : Fin 8} (hr : r.val < 2 * s.myGang.hn) (op : Nat) (k : Ring → Res) :
    s.onRing op r k = k s.myGang.rings[r] := if_neg (Nat.not_le.mpr hr)
theorem State.userOnly_eq {s : State} (hs : s.atS = false) (op : Nat) (k : Res) : s.userOnly op k = k := by
  rw [State.userOnly, hs]; rfl
theorem State.pair_eq {s : State} (hd : s.myGang.diverged = false) (k : Res) : s.pair k = k := by
  rw [State.pair, hd]; rfl

/-- A quota that suits the ring's kind is not refused (Table 5-8). -/
theorem quota_accepted {q : Ring} {w : Word} (hk : q.kind = 1 ∨ q.kind = 0 ∧ w = 0) (hb : w.toNat < 2 ^ 55) :
    ¬ (maxBytes < w.toNat ∨ (q.kind = 0 ∧ w.toNat ≠ 0) ∨ q.kind = 2 ∨ q.kind = 3) := by
  have hmax : ¬ maxBytes < w.toNat := by unfold maxBytes; omega
  rcases hk with hk | ⟨hk, rfl⟩
  · simp [hmax, hk]
  · simp [hk]
/-- One that does not suit it is. -/
theorem quota_refused {q : Ring} {w : Word}
    (h : 2 ^ 55 ≤ w.toNat ∨ q.kind = 0 ∧ w.toNat ≠ 0 ∨ 2 ≤ q.kind.toNat) :
    maxBytes < w.toNat ∨ (q.kind = 0 ∧ w.toNat ≠ 0) ∨ q.kind = 2 ∨ q.kind = 3 := by
  refine h.imp (fun h => by unfold maxBytes; omega) (Or.imp id fun h => ?_)
  have hlt : q.kind.toNat < 4 := q.kind.isLt
  have h23 : q.kind.toNat = 2 ∨ q.kind.toNat = 3 := by omega
  exact h23.imp BitVec.eq_of_toNat_eq BitVec.eq_of_toNat_eq

theorem execRingcfg_configures {s : State} {r : Fin 8} {a : GOp} (hl : s.live) (hs : s.atS = false)
    (hr : r.val < 2 * s.myGang.hn) (h : s.ringRefused r (s.rg a) = false) :
    ∃ t, exec (.ringcfg r a) s = .next t ∧ RingStep s t r (ringOf (s.rg a)) := by
  refine ⟨_, ?_, RingStep.of_setRing hl (State.Alike.refl s) r (ringOf (s.rg a))⟩
  rw [exec_ringcfg, execRingcfg, State.userOnly_eq hs, State.onRing_eq hr, h]
  rfl

section
variable {s : State} {r : Fin 8} (hl : s.live) (hs : s.atS = false) (hr : s.ringLive r)
include hl hs hr

theorem execRcommit_commits {a : GOp}
    (hk : (s.myGang.rings[r]).kind = 1 ∨ (s.myGang.rings[r]).kind = 0 ∧ s.rg a = 0) (hb : (s.rg a).toNat < 2 ^ 55)
    (hn : ((s.myGang.rings[r]).iss - (s.myGang.rings[r]).drn).toNat < (s.myGang.rings[r]).n)
    (hd : s.myGang.diverged = false) (hst : s.me.stores = []) :
    ∃ t, exec (.rcommit r a) s = .next t ∧ RingStep s t r ((s.myGang.rings[r]).commit (s.rg a).toNat none) := by
  obtain ⟨hlt, hc, he⟩ := hr
  have hfull : (s.myGang.rings[r]).full = false := decide_eq_false (Nat.not_le.mpr hn)
  refine ⟨_, ?_, RingStep.of_setRing hl (.of_release hst) r _⟩
  rw [exec_rcommit, execRcommit, State.userOnly_eq hs, State.onLiveRing_eq hlt hc he]
  dsimp only
  rw [if_neg (quota_accepted hk hb), hfull, if_neg Bool.false_ne_true, State.pair_eq hd]
  rfl
theorem execRrelease_releases (hf : (s.myGang.rings[r]).fill ≠ (s.myGang.rings[r]).drn)
    (hd : s.myGang.diverged = false) (hst : s.me.stores = []) :
    ∃ t, exec (.rrelease r) s = .next t ∧ RingStep s t r (s.myGang.rings[r]).release := by
  obtain ⟨hlt, hc, he⟩ := hr
  have hempty : (s.myGang.rings[r]).empty_ = false := beq_eq_false_iff_ne.mpr hf
  refine ⟨_, ?_, RingStep.of_setRing hl (.of_release hst) r _⟩
  rw [exec_rrelease, execRrelease, State.userOnly_eq hs, State.onLiveRing_eq hlt hc he, hempty, if_neg Bool.false_ne_true,
    State.pair_eq hd]
  rfl
theorem execRwait_retires (hf : (s.myGang.rings[r]).fill ≠ (s.myGang.rings[r]).drn) :
    ∃ t, exec (.rwait r) s = .next t ∧ t.me.cache = [] ∧
      StepBut Hart.sansCache hideNone hideNone hideNone s t s.byteAt := by
  obtain ⟨hlt, hc, he⟩ := hr
  have hempty : (s.myGang.rings[r]).empty_ = false := beq_eq_false_iff_ne.mpr hf
  have hacq : Moved Hart.sansCache hideNone hideNone hideNone s s.acquire s.byteAt := (Moved.refl hl).acquire
  refine ⟨s.acquire.retired, ?_, ?_, hacq.retire⟩
  · rw [exec_rwait, execRwait, State.userOnly_eq hs, State.onLiveRing_eq hlt hc he, hempty, if_neg Bool.false_ne_true]
    rfl
  · rw [State.retired, State.goto_user (hacq.same.atS.trans hs), State.me_modMe hacq.same.live]
    exact congrArg Hart.cache (State.me_modMe hl fun x => { x with cache := [] })
end

theorem execRstat_reads {s : State} {r : Fin 8} (hl : s.live) (hr : r.val < 2 * s.myGang.hn) (d : GOp) (which : Fin 4)
    {q : Ring} (hq : q = s.myGang.rings[r]) :
    ∃ t, exec (.rstat d r which) s = .next t ∧
      RegStep s t d
        (if q.cfg = false then 0
         else if which = 0 then q.iss.setWidth 64 else if which = 1 then q.fill.setWidth 64
         else if which = 2 then q.drn.setWidth 64 else q.word) 0 (s.pcv + 8) := by
  obtain ⟨t, ht, hstep⟩ := RegStep.of_retire hl d
    (if q.cfg = false then 0
     else if which = 0 then q.iss.setWidth 64 else if which = 1 then q.fill.setWidth 64
     else if which = 2 then q.drn.setWidth 64 else q.word)
  refine ⟨t, ?_, hstep⟩
  rw [exec_rstat, execRstat, State.onRing_eq hr, ← hq, ← ht]
  cases q.cfg <;> fin_cases which <;> rfl

/-! ### RING (R63, R120, R123, R282, R283) -/

/-- A ring instruction that names a ring which the gang does not have raises RING (R63). -/
theorem RingOp.absent {s : State} {r : Fin 8} {i : Instr} {op : Nat} (hi : RingOp i op r) (hs : s.atS = false)
    (h : 2 * s.myGang.hn ≤ r.val) : exec i s = s.raise op (ringBad r) := by
  have hon (op : Nat) (k : Ring → Res) : s.onRing op r k = s.raise op (ringBad r) := if_pos h
  cases hi with
  | ringcfg r a => rw [exec_ringcfg, execRingcfg, State.userOnly_eq hs, hon]
  | rcommit r a => rw [exec_rcommit, execRcommit, State.userOnly_eq hs, State.onLiveRing, hon]
  | rwait r => rw [exec_rwait, execRwait, State.userOnly_eq hs, State.onLiveRing, hon]
  | rrelease r => rw [exec_rrelease, execRrelease, State.userOnly_eq hs, State.onLiveRing, hon]
  | rstat d r k => rw [exec_rstat, execRstat, hon]
/-- One on a ring that is not configured, or in error, raises RING (R123, R283), and so does one on an absent ring. -/
theorem State.onLiveRing_bad {s : State} {r : Fin 8} {op : Nat} {k : Ring → Res}
    (h : (s.myGang.rings[r]).cfg = true → (s.myGang.rings[r]).err = false → r.val < 2 * s.myGang.hn →
      k s.myGang.rings[r] = s.raise op (ringBad r)) : s.onLiveRing op r k = s.raise op (ringBad r) := by
  by_cases hr : r.val < 2 * s.myGang.hn
  · rw [State.onLiveRing, State.onRing_eq hr]
    cases hc : (s.myGang.rings[r]).cfg
    · rfl
    · cases he : (s.myGang.rings[r]).err
      · exact h hc he hr
      · rfl
  · exact if_pos (Nat.not_lt.mp hr)
theorem RingOp.op_lt {r : Fin 8} {i : Instr} {op : Nat} (hi : RingOp i op r) : op < 128 := by
  cases hi <;> decide
/-- Each bad ring instruction raises RING, naming its ring. -/
theorem RingBad.exec_eq {s : State} {r : Fin 8} {i : Instr} {op : Nat} (h : RingBad s r i op) (hs : s.atS = false) :
    exec i s = s.raise op (ringBad r) ∧ op < 128 := by
  cases h with
  | absent i op hi h => exact ⟨hi.absent hs h, hi.op_lt⟩
  | off i op hi h ho =>
    refine ⟨?_, hi.op_lt⟩
    have bad (op : Nat) (k : Ring → Res) : s.onLiveRing op r k = s.raise op (ringBad r) :=
      State.onLiveRing_bad fun hc he _ => h.elim (fun h => absurd (hc.symm.trans h) (by decide)) fun h =>
        absurd (he.symm.trans h) (by decide)
    cases hi with
    | rcommit r a => rw [exec_rcommit, execRcommit, State.userOnly_eq hs, bad]
    | rwait r => rw [exec_rwait, execRwait, State.userOnly_eq hs, bad]
    | rrelease r => rw [exec_rrelease, execRrelease, State.userOnly_eq hs, bad]
    | ringcfg r a => exact absurd ho.1 (by decide)
    | rstat d r k => exact absurd ho.2 (by decide)
  | refused a h =>
    refine ⟨?_, by decide⟩
    rw [exec_ringcfg, execRingcfg, State.userOnly_eq hs, State.onRing, h]
    exact ite_self _
  | quota a h =>
    refine ⟨?_, by decide⟩
    rw [exec_rcommit, execRcommit, State.userOnly_eq hs]
    exact State.onLiveRing_bad fun _ _ _ => if_pos (quota_refused h)
  | empty h =>
    refine ⟨?_, by decide⟩
    have hempty : (s.myGang.rings[r]).empty_ = true := beq_iff_eq.mpr h
    rw [exec_rrelease, execRrelease, State.userOnly_eq hs]
    exact State.onLiveRing_bad fun _ _ _ => if_pos hempty

/-- Settles O31, instruction by instruction. -/
theorem ringsMoveTheirStages : Obligations.RingsMoveTheirStages := by
  unfold Obligations.RingsMoveTheirStages
  refine ⟨fun s r a hl hs hr h => ?_, ?_, fun s d r which q hl hr hq => execRstat_reads hl hr d which hq, ?_⟩
  · rw [← ringOf_eq]
    exact execRingcfg_configures hl hs hr h
  · rintro s r a q hl hs hr rfl
    exact ⟨fun hk hb hn hd hst => execRcommit_commits hl hs hr hk hb hn hd hst,
      fun hf hd hst => execRrelease_releases hl hs hr hf hd hst, fun hf => execRwait_retires hl hs hr hf⟩
  · intro s r i op h hl hs hv
    obtain ⟨hexec, hop⟩ := h.exec_eq hs
    rw [hexec]
    have hr : r.val < 65536 := by omega
    exact State.raise_user hl hs hv op (ringBad r) hop hr (Nat.zero_lt_succ 3) (Nat.zero_lt_succ 127)

end Sys2Proof.Machine
end


section
/-!
SUPPORT. Vector loads that an element stops (Table 5-5, R116, R117, R231): the elements before it are read, and the load
trims `vl` there or traps.
-/

namespace Sys2Proof.Machine

/-! ### Reads that find no poison -/

/-- A read at a place that delivers no poison uses up no error completion of the host, so other reads find what they would
have found before it. -/
theorem State.readPoison_afterRead_clean {s : State} {l : Loc} {n : Nat} (h : s.readPoison l n = false) (k : Loc) (m : Nat) :
    (s.afterRead l n).readPoison k m = s.readPoison k m := by
  have hrest := (Bool.or_eq_false_iff.mp h).2
  have keep (hq : (s.hostErr.any fun e => !e.1 && decide (l.pa ≤ e.2) && decide (e.2 < l.pa + n)) = false) :
      s.hostErr.filter (fun e => e.1 || !(decide (l.pa ≤ e.2) && decide (e.2 < l.pa + n))) = s.hostErr := by
    refine List.filter_eq_self.mpr fun e he => ?_
    have h := List.any_eq_false.mp hq e he
    cases he1 : e.1
    · simp only [he1, Bool.not_false, Bool.true_and] at h
      rw [Bool.false_or, Bool.not_eq_true', ← Bool.not_eq_true]; exact h
    · rfl
  unfold State.afterRead
  split
  · rfl
  · rfl
  · rfl
  · cases hk : l.kind <;> simp only [hk] at hrest
    case hostc => rw [keep hrest]
    case hostn => rw [keep hrest]
    all_goals simp_all

/-- Reads that found no poison lead from `s` to `u`. -/
structure State.ReadsClean (s u : State) : Prop where
  reads : s.ReadsTo u
  poison : ∀ l n, u.readPoison l n = s.readPoison l n

theorem State.ReadsClean.of_alike {s u : State} (h : s.Alike u) : s.ReadsClean u := by
  refine ⟨.of_alike h, fun l n => ?_⟩
  obtain ⟨gs, rfl⟩ := h.device
  rfl
/-- A place that can be read gives the value that it held at first, and later reads find what they would have found. -/
theorem State.ReadsClean.vRead {s u : State} (h : s.ReadsClean u) {n : Nat} {y : VPlace} (hy : y.readable s n) :
    ∃ w, u.vRead n y = some (y.value s n, w) ∧ s.ReadsClean w := by
  obtain ⟨w, hw, hsw⟩ := h.reads.vRead hy
  refine ⟨w, hw, hsw, fun l m => ?_⟩
  cases y with
  | gen k q =>
    have hp : u.readPoison k n = false := (h.poison k n).trans hy.2
    obtain rfl : u.afterRead k n = w := by
      simp only [State.vRead, hp, Bool.false_eq_true, if_false, Option.some.injEq, Prod.mk.injEq] at hw
      exact hw.2
    exact (State.readPoison_afterRead_clean hp l m).trans (h.poison l m)
  | sp k =>
    have hp : u.myGang.spPoisoned (u.myGang.spMap k) n = false := by rw [h.reads.myGang]; exact hy
    obtain rfl : u = w := by
      simp only [State.vRead, hp, Bool.false_eq_true, if_false, Option.some.injEq, Prod.mk.injEq] at hw
      exact hw.2
    exact h.poison l m
theorem State.ReadsTo.vPoisoned {s u : State} (h : s.ReadsTo u) (n : Nat) (y : VPlace) : s.ReadsTo (u.vPoisoned n y) := by
  cases y with
  | gen l q =>
    show s.ReadsTo (u.afterPoison l n)
    unfold State.afterPoison
    split
    · exact h
    · exact h.afterRead l n
  | sp k => exact h

/-! ### The element that stops a load -/

/-- A trap of an element at address `a`, with the fields that Table 15-4 gives it. -/
structure TrapInfo.At (x : TrapInfo) (a : Word) : Prop where
  addr : x.addr = a
  detail : x.detail < 65536
  src : x.src < 4

theorem Token.elemCheck_error {t : Token} {k : Fin 8} {wr : Bool} {a : Word} {n : Nat} {x : TrapInfo}
    (h : t.elemCheck k wr a.toNat n = .error x) : x.At a := by
  have hword : word a.toNat = a := BitVec.eq_of_toNat_eq (BitVec.toNat_ofNat _ _ |>.trans (Nat.mod_eq_of_lt a.isLt))
  have hdet : (if wr then 1 else 0 : Nat) < 65536 := by cases wr <;> decide
  unfold Token.elemCheck at h
  dsimp only at h
  split at h
  · cases h; exact ⟨hword, by dsimp only; omega, Nat.zero_lt_succ 3⟩
  · split at h
    · cases h; exact ⟨hword, hdet, Nat.zero_lt_succ 3⟩
    · split at h
      · cases h; exact ⟨hword, by dsimp only; omega, Nat.zero_lt_succ 3⟩
      · split at h
        all_goals split at h
        all_goals cases h
        all_goals exact ⟨hword, by dsimp only; omega, Nat.zero_lt_succ 3⟩
theorem Gang.spPlace_badRing_lt {g : Gang} {wr : Bool} {a n r : Nat} (h : g.spPlace wr a n = .badRing r) : r < 8 := by
  unfold Gang.spPlace at h
  dsimp only at h
  split_ifs at h
  cases h
  exact Fin.is_lt _
theorem Gang.spCheck_error {g : Gang} {u : Use} {a : Word} {n : Nat} {x : TrapInfo} (h : g.spCheck u a n = .error x) :
    x.At a := by
  have hdet : u.detail < 65536 := by cases u <;> decide
  unfold Gang.spCheck at h
  split at h
  · cases h; exact ⟨rfl, hdet, Nat.zero_lt_succ 3⟩
  · next hr =>
    have := Gang.spPlace_badRing_lt hr
    cases h; exact ⟨rfl, by dsimp only [ringTrap]; omega, Nat.zero_lt_succ 3⟩
  · split at h
    · cases h; exact ⟨rfl, hdet, Nat.zero_lt_succ 3⟩
    · cases h
theorem State.vPlace_error {s : State} {f : VAcc} {e : Nat} {x : TrapInfo} (h : s.vPlace f e = .error x) :
    x.At (f.addr e) ∧ x.ei = e := by
  unfold State.vPlace at h
  dsimp only at h
  split at h
  · split at h
    · next t ht =>
      cases h
      obtain ⟨ha, hd, hs⟩ := Gang.spCheck_error ht
      exact ⟨⟨ha, hd, hs⟩, rfl⟩
    · cases h
  · split at h
    · next t ht =>
      cases h
      obtain ⟨ha, hd, hs⟩ := Token.elemCheck_error ht
      exact ⟨⟨ha, hd, hs⟩, rfl⟩
    · cases h

/-- The end of the range of a token or of the scratchpad. -/
abbrev TrapInfo.ofRange (x : TrapInfo) : Prop := x.c = .tkrange ∨ x.c = .sprange
/-- How element e, stopped by x, ends a load whose lowest element is `first`: it trims `vl` at the end of its range, if it
is not the first, and else traps (R117, R231). -/
structure VStop.EndsAt (f : VAcc) (first e : Nat) (x : TrapInfo) (z : VStop) : Prop where
  trims : x.ofRange → e ≠ first → z = .trim e
  traps : ¬ (x.ofRange ∧ e ≠ first) → ∃ t, z = .trap t ∧ t.c = x.c ∧ t.ei = e ∧ t.At (f.addr e)

/-- A load that reads the elements of `pre` stops at the next one. -/
theorem State.ReadsClean.loadAll_stop {s u : State} (h : s.ReadsClean u) {f : VAcc} (first : Nat) {at_ : Nat → VPlace}
    {pre post : List Nat} {e : Nat} {x : TrapInfo} (hp : ∀ k ∈ pre, s.vPlace f k = .ok (at_ k) ∧ (at_ k).readable s f.n)
    (hx : ElemStop s f e x) :
    ∃ w z, u.loadAll f first (pre ++ e :: post) = (pre.map fun k => (k, (at_ k).value s f.n), w, z) ∧ s.ReadsTo w ∧
      z.EndsAt f first e x := by
  induction pre generalizing u with
  | cons k pre ih =>
    obtain ⟨hk, hr⟩ := hp k List.mem_cons_self
    obtain ⟨v, hv, hsv⟩ := h.vRead hr
    obtain ⟨w, z, hw, hrest⟩ := ih hsv fun j hj => hp j (List.mem_cons_of_mem k hj)
    refine ⟨w, z, ?_, hrest⟩
    simp only [List.cons_append, State.loadAll, h.reads.vPlace, hk, hv, hw, List.map_cons]
  | nil =>
    have poisoned {y : VPlace} (hy : s.vPlace f e = .ok y) (hn : u.vRead f.n y = none)
        (hc : x = { c := .poison, addr := f.addr e, ei := e }) :
        ∃ w z, u.loadAll f first ([] ++ e :: post) = ([], w, z) ∧ s.ReadsTo w ∧ z.EndsAt f first e x := by
      refine ⟨u.vPoisoned f.n y, .trap (f.poison e), ?_, h.reads.vPoisoned f.n y, fun hrange _ => ?_, fun _ => ?_⟩
      · simp only [List.nil_append, State.loadAll, h.reads.vPlace, hy, hn]
      · subst hc; exact absurd hrange (by simp [TrapInfo.ofRange])
      · subst hc
        exact ⟨_, rfl, rfl, rfl, rfl, by show f.det < 65536; unfold VAcc.det; split <;> decide, Nat.zero_lt_succ 3⟩
    cases hx with
    | place x hx =>
      obtain ⟨hat, hei⟩ := State.vPlace_error hx
      refine ⟨u, if x.ofRange ∧ e ≠ first then .trim e else .trap x, ?_, h.reads, fun h1 h2 => if_pos ⟨h1, h2⟩,
        fun hn => ⟨x, if_neg hn, rfl, hei, hat⟩⟩
      simp only [List.nil_append, State.loadAll, h.reads.vPlace, hx, List.map_nil, TrapInfo.ofRange]
    | memory l q hl hpo => exact poisoned hl (by simp only [State.vRead, h.poison, hpo, if_true]) rfl
    | scratchpad k hk hpo => exact poisoned hk (by simp only [State.vRead, h.reads.myGang, hpo, if_true]) rfl

/-! ### The elements before it (R116) -/

/-- The elements to do rise, so those that come before one of them are those below it. -/
theorem State.mem_before {s : State} {x : MemX} {pre post : List Nat} {e : Nat} (h : s.todo x = pre ++ e :: post) (k : Nat) :
    k ∈ pre ↔ k ∈ s.todo x ∧ k < e := by
  have hsorted : (pre ++ e :: post).Pairwise (· < ·) := h ▸ List.pairwise_lt_range.filter _
  obtain ⟨-, htail, hpre⟩ := List.pairwise_append.mp hsorted
  rw [h, List.mem_append, List.mem_cons]
  refine ⟨fun hk => ⟨.inl hk, hpre k hk e List.mem_cons_self⟩, fun ⟨hk, hlt⟩ => hk.elim id fun hk => ?_⟩
  rcases hk with rfl | hk
  · exact absurd hlt (Nat.lt_irrefl k)
  · exact absurd hlt (Nat.not_lt.mpr ((List.pairwise_cons.mp htail).1 k hk).le)
theorem State.mem_todo_of_split {s : State} {x : MemX} {pre post : List Nat} {e : Nat} (h : s.todo x = pre ++ e :: post) :
    e ∈ s.todo x := h ▸ List.mem_append_right pre List.mem_cons_self
/-- The element that stops a load is not its lowest where any was read. -/
theorem State.first_ne_iff {s : State} {x : MemX} {pre post : List Nat} {e : Nat} (h : s.todo x = pre ++ e :: post) :
    e ≠ (s.todo x).headD 0 ↔ pre ≠ [] := by
  cases pre with
  | nil => simp [h]
  | cons k pre =>
    have hk : k < e := ((State.mem_before h k).mp List.mem_cons_self).2
    rw [h]
    exact iff_of_true (Nat.ne_of_gt hk) (List.cons_ne_nil k pre)

/-- A load that meets its conditions at issue and stops at an element ends with the values of the elements before it. -/
theorem State.vload_stops {s : State} {f : VAcc} {d : VdOp} {offs : Option VrOp} {rf : PageKind → Option Cause}
    {at_ : Nat → VPlace} {pre post : List Nat} {e : Nat} {x : TrapInfo} (hl : s.live) (hs : s.atS = false)
    (hst : s.me.stores = []) (hv : s.me.vl ≠ 0) (ht : s.vmTags [] [d] offs = none) (hk : s.ticketCheck f.x.t = none)
    (hi : s.vIssue f rf (s.todo f.x) = none) (hw : s.vStall f (s.todo f.x) = none)
    (ho : f.x.t = .no → s.waitsOwn true (releases f.x.ord) (s.vLocs f (s.todo f.x)) = false)
    (htodo : s.todo f.x = pre ++ e :: post)
    (hp : ∀ k ∈ pre, s.vPlace f k = .ok (at_ k) ∧ (at_ k).readable s f.n) (hx : ElemStop s f e x) :
    ∃ u z, s.vload f d none offs rf = u.loadEnd f d none (pre.map fun k => (k, (at_ k).value s f.n)) z ∧ s.LoadedAt u ∧
      z.EndsAt f ((s.todo f.x).headD 0) e x := by
  have h0 : s.ReadsClean (if releases f.x.ord then s.release else s) := by
    split
    · exact .of_alike (.of_release hst)
    · exact .of_alike (.refl s)
  obtain ⟨w, z, hload, hsw, hz⟩ := h0.loadAll_stop ((s.todo f.x).headD 0) (post := post) hp hx
  rw [← htodo] at hload
  refine ⟨_, z, ?_, hsw.loadedAt hl (emptiesCache f.x || s.vStalled f (s.todo f.x)), hz⟩
  have ho' : ¬ (f.x.t = .no ∧ s.waitsOwn true (releases f.x.ord) (s.vLocs f (s.todo f.x)) = true) := fun hc =>
    Bool.false_ne_true ((ho hc.1).symm.trans hc.2)
  simp only [State.vload, State.vmem, State.userOnly_eq hs, Option.toList_none, ht, hk, hi, hw, if_neg hv, if_neg ho', hload]

/-! ### The ends of such a load -/

theorem State.me_retired {u : State} (hl : u.live) (hu : u.atS = false) : u.retired.me = u.me.retire (u.me.pc + 8) := by
  rw [State.retired, State.goto_user hu, State.pcv_user hu, State.me_modMe hl]
/-- A vector value written to registers keeps the state, the PC and the supervisor thread of the hart. -/
theorem State.writeV_keeps {u : State} (hl : u.live) (d : VdOp) (last : Option (Fin 60)) (x : VReg) :
    (u.writeV d last x).live ∧ (u.writeV d last x).me.st = u.me.st ∧ (u.writeV d last x).me.pc = u.me.pc ∧
      (u.writeV d last x).me.sup = u.me.sup := by
  have hme : (u.writeV d last x).me = ((u.me.setV? (d.map vdReg) x).setV? last x).setM? none := State.me_modMe hl _
  obtain ⟨hst, hpc, -, -⟩ := Hart.row_keeps u.me (d.map vdReg) last x none
  refine ⟨State.live_modMe hl _, by rw [hme, hst], by rw [hme, hpc], ?_⟩
  rw [hme]
  cases d <;> cases last <;> rfl
theorem State.rawWrite_keeps {u : State} (hl : u.live) (d : VdOp) (n : Nat) (sx b : Bool) (put : Nat → Option Word) :
    (u.rawWrite d n sx b put).live ∧ (u.rawWrite d n sx b put).me.st = u.me.st ∧
      (u.rawWrite d n sx b put).me.pc = u.me.pc ∧ (u.rawWrite d n sx b put).me.sup = u.me.sup := by
  unfold State.rawWrite
  dsimp only
  split_ifs
  · exact State.writeV_keeps hl _ _ _
  · exact State.writeV_keeps hl _ _ _
  · exact ⟨hl, rfl, rfl, rfl⟩
theorem State.byteAt_rawWrite (u : State) (d : VdOp) (n : Nat) (sx b : Bool) (put : Nat → Option Word) (l : Loc) :
    (u.rawWrite d n sx b put).byteAt l = u.byteAt l := by
  unfold State.rawWrite
  dsimp only
  split_ifs
  · exact State.byteAt_modMe u _ l
  · exact State.byteAt_modMe u _ l
  · rfl

/-- A load that trims `vl` at e retires with the elements below e. -/
theorem State.loadEnd_trim {u : State} (hl : u.live) (hu : u.atS = false) {f : VAcc} (hsx : f.loadSx = f.x.sx) (d : VdOp)
    (l : List (Nat × Nat)) (e : Nat) :
    ∃ t, u.loadEnd f d none l (.trim e) = .next t ∧ t.me.vl = e ∧ t.me.pc = u.me.pc + 8 ∧
      (∀ m, t.byteAt m = u.byteAt m) ∧ ∀ (r : Fin 56) (k : Fin 128), d = some r → t.me.v[vdReg r].el[k] =
        ((u.rawPut f.x e fun j => (found l j).map fun v => if f.n = 4 then extendN 4 f.x.sx v else word v) k.val).getD
          (u.me.v[vdReg r].el[k]) := by
  have hend : u.loadEnd f d none l (.trim e) = .next ((u.rawWrite d f.n f.loadSx true
      (u.rawPut f.x e fun j => (found l j).map fun v => if f.n = 4 then extendN 4 f.x.sx v else word v)).modMe
        fun h => { h with vl := e }).retired := rfl
  rw [hsx] at hend
  generalize (u.rawPut f.x e fun j => (found l j).map fun v => if f.n = 4 then extendN 4 f.x.sx v else word v) = put
    at hend ⊢
  obtain ⟨hwl, hwst, hwpc, -⟩ := State.rawWrite_keeps hl d f.n f.x.sx true put
  have hstep := State.rawWrite_step hl hu d f.n f.x.sx put
  have hmem := State.byteAt_rawWrite u d f.n f.x.sx true put
  generalize u.rawWrite d f.n f.x.sx true put = w at hend hwl hwst hwpc hstep hmem
  have hwu : w.atS = false := by unfold State.atS; rw [hwst]; exact hu
  have hcu : (w.modMe fun h => { h with vl := e }).atS = false :=
    (State.atS_modMe hwl (fun h => { h with vl := e }) fun _ => rfl).trans hwu
  have hme : (w.modMe fun h => { h with vl := e }).retired.me = { w.me with vl := e }.retire (w.me.pc + 8) := by
    rw [State.me_retired (State.live_modMe hwl _) hcu, State.me_modMe hwl]
  refine ⟨(w.modMe fun h => { h with vl := e }).retired, hend, ?_, ?_, fun m => ?_, ?_⟩
  · rw [hme]; rfl
  · rw [hme, ← hwpc]; rfl
  · rw [State.retired, State.goto_user hcu, State.byteAt_modMe, State.byteAt_modMe, hmem]
  · rintro r k rfl
    have hv : (w.modMe fun h => { h with vl := e }).retired.me.v = w.retired.me.v := by
      rw [hme, State.me_retired hwl hwu]; rfl
    rw [hv, hstep.elems (vdReg r) (.inl ⟨r, rfl, rfl⟩) k]
    rfl
/-- A load that traps raises its trap, whatever its elements before it wrote. -/
theorem State.loadEnd_trap {u : State} (hl : u.live) (hu : u.atS = false) (hv : u.me.sup.svec ≠ 0) {f : VAcc} (d : VdOp)
    (l : List (Nat × Nat)) {x : TrapInfo} {a : Word} (hop : f.op < 128) (hx : x.At a) (hei : x.ei < 128) :
    ∃ t, u.loadEnd f d none l (.trap x) = .next t ∧ t.me.st = .trapped ∧ t.me.sup.scause.toNat = x.c.code ∧
      t.me.sup.sei.toNat = x.ei ∧ t.me.sup.seaddr = a ∧ t.me.sup.sepc = u.me.pc := by
  generalize hput : (u.rawPut f.x x.ei fun j => (found l j).map fun v => if f.n = 4 then extendN 4 f.x.sx v else word v) = put
  obtain ⟨hwl, hwst, hwpc, hwsup⟩ := State.rawWrite_keeps hl d f.n f.loadSx false put
  have hend : u.loadEnd f d none l (.trap x) = (u.rawWrite d f.n f.loadSx false put).raise f.op x := by rw [← hput]; rfl
  have hwu : (u.rawWrite d f.n f.loadSx false put).atS = false := by unfold State.atS; rw [hwst]; exact hu
  obtain ⟨t, ht, hentry⟩ := State.raise_user hwl hwu (by rw [hwsup]; exact hv) f.op x hop hx.detail hx.src hei
  exact ⟨t, hend.trans ht, hentry.trapped.1, hentry.scause, hentry.sei, hentry.seaddr.trans hx.addr,
    hentry.sepc.trans hwpc⟩

/-- What a load sets that trims `vl` at e: the elements before e, and zeros for masked-off ones under KZ. -/
theorem State.rawPut_before {s u : State} (hei : u.me.ei = s.me.ei) {x : MemX} {pre post : List Nat} {e : Nat}
    (h : s.todo x = pre ++ e :: post) (v : Nat → Nat) (g : Nat → Word) (k : Nat) (old : Word) :
    ((u.rawPut x e fun j => (found (pre.map fun j => (j, v j)) j).map g) k).getD old =
      if k ∈ pre then g (v k) else if s.me.ei ≤ k ∧ k < e ∧ s.onMem x k = false ∧ x.kz = true then 0 else old := by
  have hevl : e < s.me.vl := (State.mem_todo.mp (State.mem_todo_of_split h)).2.1
  have hpre := State.mem_before h k
  rw [State.mem_todo] at hpre
  simp only [State.rawPut, hei, found_map]
  by_cases hr : s.me.ei ≤ k ∧ k < e
  · obtain ⟨hlo, hhi⟩ := hr
    rw [if_pos ⟨hlo, hhi⟩]
    cases hon : s.onMem x k
    · have hn : k ∉ pre := fun hk => by rw [(hpre.mp hk).1.2.2] at hon; cases hon
      rw [if_neg hn, if_neg hn]
      cases x.kz <;> simp [hlo, hhi]
    · have hy : k ∈ pre := hpre.mpr ⟨⟨hlo, hhi.trans hevl, hon⟩, hhi⟩
      rw [if_pos hy, if_pos hy]; rfl
  · have hn : k ∉ pre := fun hk => hr ⟨(hpre.mp hk).1.1, (hpre.mp hk).2⟩
    rw [if_neg hr, if_neg hn, if_neg fun hc => hr ⟨hc.1, hc.2.1⟩]; rfl

/-- The opcode of a load is one of seven bits. -/
theorem VLoadOp.op_lt {s : State} {i : Instr} {f : VAcc} {d : VdOp} {offs : Option VrOp} {rf : PageKind → Option Cause}
    (h : VLoadOp s i f d offs rf) : f.op < 128 := by
  cases h <;> exact Nat.lt_of_sub_pos (Nat.zero_lt_succ _)

/-- Settles O39: a load stopped at an element ends there with what it has read, by the trim or by the trap. -/
theorem loadsTrimOrTrapAtTheElement : Obligations.LoadsTrimOrTrapAtTheElement := by
  unfold Obligations.LoadsTrimOrTrapAtTheElement
  intro s i f d offs rf at_ pre post e x h hl hs hst hv hvl ht hk hi hw ho htodo hp hx
  obtain ⟨hexec, hsx⟩ := h.exec_eq
  obtain ⟨u, z, hload, hsu, hz⟩ := State.vload_stops hl hs hst hv ht hk hi hw ho htodo hp hx
  have hfirst := State.first_ne_iff htodo
  have hul := hsu.moved.same.live
  have hua : u.atS = false := hsu.moved.same.atS.trans hs
  have hsup : u.me.sup = s.me.sup := by
    have hme := congrArg Hart.sup hsu.me
    exact hme
  refine ⟨fun hrange hpre => ?_, fun hn hsvec => ?_⟩
  · obtain rfl := hz.trims hrange (hfirst.mpr hpre)
    obtain ⟨t, hend, htvl, htpc, htmem, htv⟩ := State.loadEnd_trim hul hua hsx d
      (pre.map fun k => (k, (at_ k).value s f.n)) e
    refine ⟨t, hexec.trans (hload.trans hend), htvl, by rw [htpc, hsu.pc], fun m => (htmem m).trans (hsu.moved.memory m),
      fun r k hd => ?_⟩
    rw [htv r k hd, State.rawPut_before hsu.ei htodo, hsu.v]
  · obtain ⟨y, rfl, hc, hei, hat⟩ := hz.traps (by rw [hfirst]; exact hn)
    have he : e < 128 := (State.mem_todo.mp (State.mem_todo_of_split htodo)).2.1.trans_le hvl
    obtain ⟨t, hend, htst, htc, htei, hta, htpc⟩ := State.loadEnd_trap hul hua (by rw [hsup]; exact hsvec) d
      (pre.map fun k => (k, (at_ k).value s f.n)) h.op_lt hat (by rw [hei]; exact he)
    exact ⟨t, hexec.trans (hload.trans hend), htst, by rw [htc, hc], by rw [htei, hei], hta, by rw [htpc, hsu.pc]⟩

end Sys2Proof.Machine
end


section
/-!
SUPPORT. Steps that only write registers of the device (R127 to R412, Tables 16-4, 18-2 to 18-9, 19-5): who may write, and
what each write leaves.
-/

namespace Sys2Proof.Machine

/-! ### Who may write -/

theorem State.inRun_of_run {s : State} {p : Fin 3} (h : (s.prt p).st = .run) : s.inRun p = true := beq_iff_eq.mpr h
theorem State.inRun_of_not_run {s : State} {p : Fin 3} (h : (s.prt p).st ≠ .run) : s.inRun p = false :=
  beq_eq_false_iff_ne.mpr h
theorem State.ownsTime_of_timeOwner {s : State} {p : Fin 3} (h : s.timeOwner p) : s.ownsTime p = true := by
  obtain ⟨hr, ht⟩ := h
  rw [State.ownsTime, State.inRun_of_run hr, ht]; rfl
theorem State.holdsPort_iff (s : State) (p : Fin 3) (n : Fin 8) : s.holdsPort p n = true ↔ s.portHolder p n := by
  simp [State.holdsPort, State.inRun, State.portHolder]
theorem State.funcBusy_eq_false_iff (s : State) (p : Fin 3) (vf : Fin 64) : s.funcBusy p vf = false ↔ s.idleFunc p vf := by
  simp [State.funcBusy, State.idleFunc]
/-- A port that a partition holds has an owner (R379). -/
theorem State.portOwner_isSome {s : State} {p : Fin 3} {n : Fin 8} (h : s.portHolder p n) : (s.portOwner n).isSome = true := by
  obtain ⟨hr, hc⟩ := h
  refine List.find?_isSome.mpr ⟨p, List.mem_finRange p, ?_⟩
  rw [hr, hc]; rfl

/-! ### Function blocks (R333, R373, R374) -/

theorem State.modFunc_congr {s : State} {p : Fin 3} {vf : Fin 64} {f g : Func → Func}
    (h : f (s.func p vf) = g (s.func p vf)) : s.modFunc p vf f = s.modFunc p vf g := by
  have hq : ({ s.prt p with funcs := vmod (s.prt p).funcs vf f } : Part) =
      { s.prt p with funcs := vmod (s.prt p).funcs vf g } :=
    congrArg (fun x => ({ s.prt p with funcs := vput (s.prt p).funcs vf x } : Part)) h
  exact congrArg (fun q => ({ s with parts := vput s.parts p q } : State)) hq
theorem execLaunchTailWrite_eq {s : State} {p : Fin 3} (hr : (s.prt p).st = .run) (vf : Fin 64) (tail : BitVec 32) :
    execLaunchTailWrite p vf tail s = .next (if 64 < (tail - (s.func p vf).lhead).toNat
      then s.modFunc p vf fun f => { f with lerr := true } else s.modFunc p vf fun f => { f with ltail := tail }) := by
  simp only [execLaunchTailWrite, State.inRun_of_run hr, Bool.not_true, Bool.false_eq_true, if_false]
  split
  · next h => exact congrArg Host.Outcome.next (State.modFunc_congr (if_pos h))
  · next h => exact congrArg Host.Outcome.next (State.modFunc_congr (if_neg h))
/-- A write of a function block is performed while no job of the function is in flight. -/
theorem State.configFunc_idle {s : State} {p : Fin 3} {vf : Fin 64} (hr : (s.prt p).st = .run) (h : s.idleFunc p vf)
    (f : Func → Func) : s.configFunc p vf f = .next (s.modFunc p vf f) := by
  simp only [State.configFunc, State.inRun_of_run hr, (s.funcBusy_eq_false_iff p vf).mpr h, Bool.not_true,
    Bool.false_eq_true, if_false]
/-- With a job of the function in flight, a write of its block is ignored, with CERR [0]. -/
theorem State.configFunc_busy {s : State} {p : Fin 3} {vf : Fin 64} (hr : (s.prt p).st = .run) (h : ¬ s.idleFunc p vf)
    (f : Func → Func) : s.configFunc p vf f = .next (s.modFunc p vf fun f => { f with cerr := f.cerr ||| 1 }) := by
  have hb : s.funcBusy p vf = true := Bool.of_not_eq_false (mt (s.funcBusy_eq_false_iff p vf).mp h)
  simp only [State.configFunc, State.inRun_of_run hr, hb, Bool.not_true, Bool.false_eq_true, if_false, if_true]
/-- ROOT and SVEC are the registers that FUNCTION_CONFIG_WRITE writes. -/
theorem execFunctionConfigWrite_busy {s : State} {p : Fin 3} {vf : Fin 64} {off : BitVec 16}
    (hr : (s.prt p).st = .run) (h : ¬ s.idleFunc p vf) (ho : off = 0x1100 ∨ off = 0x1108) (v : Word) :
    execFunctionConfigWrite p vf off v s = .next (s.modFunc p vf fun f => { f with cerr := f.cerr ||| 1 }) := by
  rcases ho with rfl | rfl
  · exact State.configFunc_busy hr h _
  · exact State.configFunc_busy hr h _

/-- A field of a word above bit `lo`, as a number. -/
theorem bits_eq_extractLsb' (w : Word) (lo n hi : Nat) (h : hi + 1 - lo = n) : bits w hi lo = (w.extractLsb' lo n).toNat := by
  rw [bits, h, BitVec.extractLsb'_toNat, Nat.shiftRight_eq_div_pow]

/-! ### The time block (R386, R387) -/

theorem execTset_eq {s : State} {p : Fin 3} (ho : s.timeOwner p) (v : Word) :
    execTset p v s = .next (if s.jobs = [] ∧ s.tstate = 0 then
      { s with dtime := v.toNat, dfrac := 0, lastTick := v.toNat,
               lastServo := s.lastServo + ((v.toNat : Int) - s.dtime) }
      else { s with terr := true }) := by
  simp only [execTset, State.ownsTime_of_timeOwner ho, Bool.not_true, Bool.false_eq_true, if_false]
  split <;> rfl
theorem execToff_eq {s : State} {p : Fin 3} (ho : s.timeOwner p) (v : Word) :
    execToff p v s = .next { s with trem := s.trem + 10000 * v.toInt, lastServo := s.dtime } := by
  simp only [execToff, State.ownsTime_of_timeOwner ho, Bool.not_true, Bool.false_eq_true, if_false, tremUnit,
    Int.mul_comm 10000]

/-! ### Registers of BAR0 (R6, R372) -/

/-- A register of a physical function's BAR0 outside its function block, its time block and its ports. -/
theorem execRegisterWrite_part {s : State} {p : Fin 3} {off : BitVec 25} (hr : (s.prt p).st = .run)
    (ho : off.toNat % 8 = 0 ∧ 0x110000 ≤ off.toNat ∧ off.toNat < 0x200000) (v : Word) :
    execRegisterWrite p 0 off v s = .next (s.modPart p fun q => q.write off.toNat v) := by
  obtain ⟨h8, hlo, hhi⟩ := ho
  simp only [execRegisterWrite, State.inRun_of_run hr, h8]
  rw [if_neg (by simp), if_neg (by omega), if_neg (by simp), if_neg (by omega), if_neg (by omega)]
theorem execRegisterWrite_tfadj {s : State} {p : Fin 3} (ho : s.timeOwner p) (v : Word) :
    execRegisterWrite p 0 0x200010 v s = .next { s with tfadj := v.setWidth 32, lastServo := s.dtime } := by
  simp [execRegisterWrite, State.inRun_of_run ho.1, State.ownsTime_of_timeOwner ho, State.timeWrite]
theorem execRegisterWrite_notRunning {s : State} {p : Fin 3} (h : (s.prt p).st ≠ .run) (vf : Fin 64) (off : BitVec 25)
    (v : Word) : execRegisterWrite p vf off v s = .next s := by
  simp [execRegisterWrite, State.inRun_of_not_run h]
theorem Part.write_schedule (q : Part) (v : Word) : q.write 0x110008 v =
    { q with urgth := v.extractLsb' 32 32, jmax := v.extractLsb' 2 14, bediv := v.extractLsb' 0 2 } := by
  simp [Part.write, ofNat_bits]
theorem Part.write_abandonChannel (q : Part) (v : Word) : q.write 0x110000 v =
    { q with preth := v.extractLsb' 32 32, aben := v.getLsbD 8, abch := v.extractLsb' 0 8 } := by
  simp [Part.write, ofNat_bits, bit]

/-! ### Links and ports (R21, R369, R378, R379) -/

theorem linkGen_iff (g : BitVec 4) : linkGen g = true ↔ g = 4 ∨ g = 5 ∨ g = 6 := by
  simp [linkGen, or_assoc]
/-- No generation that a link trains at is that of a link that is down. -/
theorem linkGen_ne_zero {g : BitVec 4} (h : g = 4 ∨ g = 5 ∨ g = 6) : g ≠ 0 := by
  rcases h with rfl | rfl | rfl <;> decide
/-- The link of the host trains at what Table 1-7 names. -/
theorem hostLink_trains_iff (gen : BitVec 4) (width : BitVec 5) (cxl : BitVec 4) :
    (linkGen gen && [1, 2, 4, 8, 16].contains width.toNat && decide (cxl.toNat ≤ 3)) = true ↔
      (gen = 4 ∨ gen = 5 ∨ gen = 6) ∧ width.toNat ∈ [1, 2, 4, 8, 16] ∧ cxl.toNat ≤ 3 := by
  rw [Bool.and_eq_true, Bool.and_eq_true, linkGen_iff, List.contains_iff_mem, decide_eq_true_eq, and_assoc]
/-- So does the link of the twin, up to eight lanes. -/
theorem twinLink_trains_iff (gen width : BitVec 4) : (linkGen gen && [1, 2, 4, 8].contains width.toNat) = true ↔
    (gen = 4 ∨ gen = 5 ∨ gen = 6) ∧ width.toNat ∈ [1, 2, 4, 8] := by
  rw [Bool.and_eq_true, linkGen_iff, List.contains_iff_mem]
theorem mem_gens (gen : BitVec 4) : gen ∈ [4, 5, 6] ↔ gen = 4 ∨ gen = 5 ∨ gen = 6 := by simp
/-- A port that a partition holds runs at the rate of its register, where Table 18-4 lists that rate for it. -/
theorem State.portRate_ne_zero {s : State} {p : Fin 3} {n : Fin 8} (ho : s.portHolder p n)
    (hr : 1 ≤ (s.ports[n]).rate.toNat ∧ (s.ports[n]).rate.toNat ≤ 4 ∨ (s.ports[n]).rate = 5 ∧ n.val % 2 = 0) :
    s.portRate n ≠ 0 := by
  have hown : (s.portOwner n).isNone = false := by
    rw [← Option.not_isSome, State.portOwner_isSome ho]; rfl
  have hrate : (s.ports[n]).rate.toNat ≠ 0 ∧ (s.ports[n]).rate.toNat ≤ 5 ∧
      ¬ ((s.ports[n]).rate.toNat = 5 ∧ n.val % 2 = 1) := by
    rcases hr with h | ⟨h, hn⟩
    · omega
    · have h5 : (s.ports[n]).rate.toNat = 5 := congrArg BitVec.toNat h
      omega
  obtain ⟨h0, h5, hodd⟩ := hrate
  simp only [State.portRate, hown, Bool.false_or]
  have hlisted : ¬ ((s.ports[n]).rate.toNat == 5 && n.val % 2 == 1 || decide (5 < (s.ports[n]).rate.toNat)) = true := by
    simp only [Bool.or_eq_true, Bool.and_eq_true, beq_iff_eq, decide_eq_true_eq]
    omega
  rw [if_neg hlisted]
  exact h0
theorem Port.write_control (q : Port) (v : Word) : q.write 0 v =
    { q with mtu := BitVec.ofNat 14 (min 9216 (v.extractLsb' 16 14).toNat), hqen := v.getLsbD 3,
             rate := v.extractLsb' 0 3 } := by
  simp [Port.write, ofNat_bits, bit, bits_eq_extractLsb' v 16 14 29 rfl]
/-- A write of a port that the partition does not hold is ignored (R379). -/
theorem portWrite_ignored {s : State} {p : Fin 3} {n : Fin 8} (h : ¬ s.portHolder p n) {i : Instr}
    (hi : (∃ o v, i = .portConfigWrite p n o v) ∨ (∃ k a b c d, i = .flowEntryWrite p n k a b c d) ∨
      ∃ k a b c d, i = .placementEntryWrite p n k a b c d) : exec i s = .next s := by
  have hp : ¬ s.holdsPort p n = true := mt (s.holdsPort_iff p n).mp h
  rcases hi with ⟨o, v, rfl⟩ | ⟨k, a, b, c, d, rfl⟩ | ⟨k, a, b, c, d, rfl⟩
  · rw [exec_portConfigWrite, execPortConfigWrite, if_neg hp]
  · exact congrArg Host.Outcome.next (if_neg hp)
  · exact congrArg Host.Outcome.next (if_neg hp)

/-! ### Images that run (R407, R408) -/

theorem State.mem_hearthImages {s : State} {i : Image} :
    i ∈ ((List.finRange 3).filter fun p => s.inRun p).filterMap (fun p => s.hearthImage[p]) ↔
      ∃ p : Fin 3, (s.prt p).st = .run ∧ s.hearthImage[p] = some i := by
  simp [List.mem_filterMap, State.inRun]
/-- A version that no image of its type that runs is below, and that raises the least one, is stored. -/
theorem execMinimumSvnRaise_raises {s : State} {b : Bool} {svn : BitVec 8} {k : Fin 2} (hk : k = if b then 1 else 0)
    (h : svn.toNat ≤ 64) (hm : (s.minSvn[k]).toNat < svn.toNat) (hi : ∀ i ∈ s.imagesOf b, svn.toNat ≤ i.svn.toNat) :
    execMinimumSvnRaise b svn s = .next { s with minSvn := vput s.minSvn k svn } := by
  subst hk
  have hany : (s.imagesOf b).any (fun i => decide (i.svn < svn)) = false :=
    List.any_eq_false.mpr fun i him => by
      rw [decide_eq_true_eq, BitVec.lt_def]; exact Nat.not_lt.mpr (hi i him)
  refine congrArg Host.Outcome.next (if_neg ?_)
  rw [hany, BitVec.le_def, not_or, not_or]
  exact ⟨Nat.not_lt.mpr h, Nat.not_le.mpr hm, Bool.false_ne_true⟩
theorem execMinimumSvnRaise_ignored {s : State} {b : Bool} {svn : BitVec 8}
    (h : 64 < svn.toNat ∨ svn.toNat ≤ (if b then s.minSvn[1] else s.minSvn[0]).toNat) :
    execMinimumSvnRaise b svn s = .next s := by
  refine congrArg Host.Outcome.next (if_pos ?_)
  cases b
  · exact h.imp_right fun h => Or.inl h
  · exact h.imp_right fun h => Or.inl h

/-! ### The housekeeping block (R391, R412) -/

/-- A housekeeping write whose offset is a register's is performed, and answered. -/
theorem execHousekeepingWrite_eq {o : Nat} (ho : o < 2 ^ 16) (v : Word) (s : State) :
    execHousekeepingWrite (BitVec.ofNat 16 o) v s = .next ((s.hkWrite o v).replied o) := by
  have h : (BitVec.ofNat 16 o).toNat = o := (BitVec.toNat_ofNat o 16).trans (Nat.mod_eq_of_lt ho)
  rw [execHousekeepingWrite, h]
  rfl
theorem State.hkWrite_lockstep (s : State) (c : Fin 64) :
    s.hkWrite (0x300 + 8 * c.val) 0 = { s with lockstepCnt := vput s.lockstepCnt c 0 } := by
  have hc : Fin.ofNat 64 ((0x300 + 8 * c.val - 0x300) / 8) = c := Fin.ext (by simp)
  rw [State.hkWrite, if_neg (by omega), if_neg (by omega), if_neg (by omega), if_neg (by omega), if_pos (by omega),
    if_pos rfl]
  exact congrArg (fun k => ({ s with lockstepCnt := vput s.lockstepCnt k 0 } : State)) hc
/-- An entry of a partition that is in RUN or FAULT keeps its words but Q4 (R391). -/
theorem Part.entryWrite_locked {q : Part} {k : Nat} (hk : k ≠ 4) (h : q.st = .run ∨ q.st = .fault) (v : Word) :
    q.entryWrite k v = q := by
  have hs : q.st ≠ .off ∧ q.st ≠ .reset := by rcases h with h | h <;> simp [h]
  unfold Part.entryWrite
  rw [if_neg hk, if_pos hs]
theorem State.hkWrite_entryLocked {s : State} {p : Fin 3} {k : Fin 8} (hk : k.val ≠ 4)
    (h : (s.prt p).st = .run ∨ (s.prt p).st = .fault) (v : Word) : s.hkWrite (0x100 + 0x40 * p.val + 8 * k.val) v = s := by
  have hp : Fin.ofNat 3 ((0x100 + 0x40 * p.val + 8 * k.val - 0x100) / 0x40) = p := Fin.ext (by simp; omega)
  have hq : (0x100 + 0x40 * p.val + 8 * k.val) % 0x40 / 8 = k.val := by omega
  have hkeep : s.modPart p (fun q => q.entryWrite k.val v) = s :=
    (congrArg (fun q => ({ s with parts := vput s.parts p q } : State)) (Part.entryWrite_locked hk h v)).trans
      (s.modPart_self p)
  rw [State.hkWrite, if_neg (by omega), if_pos (by omega), hp, hq]
  dsimp only
  rw [if_neg hk, hkeep]

/-! ### The steps -/

/-- The step of each device write, register by register. -/
theorem DeviceWrite.exec_eq {s t : State} {i : Instr} (h : DeviceWrite s i t) : exec i s = .next t := by
  cases h with
  | launchTail p vf tail hr h =>
    exact (execLaunchTailWrite_eq hr vf tail).trans (congrArg Host.Outcome.next (if_neg (Nat.not_lt.mpr h)))
  | launchTailFar p vf tail hr h =>
    exact (execLaunchTailWrite_eq hr vf tail).trans (congrArg Host.Outcome.next (if_pos h))
  | root p vf v hr h =>
    rw [exec_functionConfigWrite, execFunctionConfigWrite, if_pos rfl, State.configFunc_idle hr h, ofNat_bits v 39 13 51 rfl]
    rfl
  | svec p vf v hr h =>
    rw [exec_functionConfigWrite, execFunctionConfigWrite, if_neg (by decide), if_pos rfl, State.configFunc_idle hr h,
      ofNat_bits v 53 3 55 rfl]
  | configBusy p vf off v hr ho h => exact execFunctionConfigWrite_busy hr h ho v
  | arena p vf n v hr h =>
    rw [exec_arenaGrant, execArenaGrant, State.configFunc_idle hr h, ofNat_bits v 40 16 55 rfl]
    rfl
  | arenaBusy p vf n v hr h => exact State.configFunc_busy hr h _
  | tset p v ho hj ht => exact (execTset_eq ho v).trans (congrArg Host.Outcome.next (if_pos ⟨hj, ht⟩))
  | tsetRefused p v ho h =>
    exact (execTset_eq ho v).trans (congrArg Host.Outcome.next (if_neg fun ⟨hj, ht⟩ => h.elim (· hj) (· ht)))
  | toff p v ho => exact execToff_eq ho v
  | tfadj p v ho => exact execRegisterWrite_tfadj ho v
  | holdover h ht => exact congrArg Host.Outcome.next (if_pos ⟨h, ht⟩)
  | holdoverNot h => exact congrArg Host.Outcome.next (if_neg fun ⟨h1, ht⟩ => h.elim (· h1) (Int.not_lt.mpr ht))
  | synce up => exact exec_synceLockChange up s
  | hostLink gen width cxl hostc hg hw hc =>
    rw [exec_hostLinkTrain, execHostLinkTrain, if_neg (linkGen_ne_zero hg),
      if_pos ((hostLink_trains_iff gen width cxl).mpr ⟨hg, hw, hc⟩)]
    simp only [and_comm, bne, beq_eq_decide, decide_not]
  | hostDown width cxl hostc => exact congrArg Host.Outcome.next (if_pos rfl)
  | hostNoLink gen width cxl hostc hn h =>
    refine congrArg Host.Outcome.next ((if_neg hn).trans (if_neg ?_))
    rw [hostLink_trains_iff, ← mem_gens]
    exact fun ⟨hg, hw, hc⟩ => h.elim (· hg) fun h => h.elim (· hw) (Nat.not_lt.mpr hc)
  | twinLink gen width hg hw =>
    exact congrArg Host.Outcome.next
      ((if_neg (linkGen_ne_zero hg)).trans (if_pos ((twinLink_trains_iff gen width).mpr ⟨hg, hw⟩)))
  | twinDown width => exact congrArg Host.Outcome.next (if_pos rfl)
  | twinNoLink gen width hn h =>
    refine congrArg Host.Outcome.next ((if_neg hn).trans (if_neg ?_))
    rw [twinLink_trains_iff, ← mem_gens]
    exact fun ⟨hg, hw⟩ => h.elim (· hg) (· hw)
  | portDown n => exact exec_portLinkChange n false s
  | portUp p n ho hr =>
    have hup : (true && s.portRate n != 0) = true := bne_iff_ne.mpr (State.portRate_ne_zero ho hr)
    rw [exec_portLinkChange, execPortLinkChange, hup]
  | portControl p n v ho =>
    exact (congrArg Host.Outcome.next (if_pos ((s.holdsPort_iff p n).mpr ho))).trans
      (congrArg (fun f => Host.Outcome.next (s.modPort n f)) (funext fun q => Port.write_control q v))
  | flow p n i q0 q1 q2 q3 ho => exact congrArg Host.Outcome.next (if_pos ((s.holdsPort_iff p n).mpr ho))
  | place p n i q0 q1 q2 q3 ho => exact congrArg Host.Outcome.next (if_pos ((s.holdsPort_iff p n).mpr ho))
  | portOther p n i h hi => exact portWrite_ignored h hi
  | schedule p v hr =>
    exact (execRegisterWrite_part hr (by decide) v).trans
      (congrArg (fun f => Host.Outcome.next (s.modPart p f)) (funext fun q => Part.write_schedule q v))
  | abandonChannel p v hr =>
    exact (execRegisterWrite_part hr (by decide) v).trans
      (congrArg (fun f => Host.Outcome.next (s.modPart p f)) (funext fun q => Part.write_abandonChannel q v))
  | notRunning p vf off v h => exact execRegisterWrite_notRunning h vf off v
  | hostError wr pa => exact exec_hostErrorCompletion wr pa s
  | snoop pa inval => exact exec_cxlCacheSnoop pa inval s
  | codingStart cmd => exact exec_codingCommandStart cmd s
  | clear core => exact exec_scratchpadClear core s
  | fence cores => exact exec_coreFence cores s
  | retire units h => exact congrArg Host.Outcome.next (if_neg (Nat.not_lt.mpr h))
  | retireTooMany units h => exact congrArg Host.Outcome.next (if_pos h)
  | plim v => exact congrArg Host.Outcome.next (by rw [State.setPlim, bits_eq_extractLsb' v 0 10 9 rfl])
  | keySlot ks h =>
    refine congrArg Host.Outcome.next (if_neg ?_)
    rw [List.any_eq_true]
    exact fun ⟨i, hi, hk⟩ => h i hi (beq_iff_eq.mp hk)
  | keySlotRuns ks i h hk =>
    have hruns : (s.images.any fun i => i.ks.toNat == ks.val) = true := List.any_eq_true.mpr ⟨i, h, beq_iff_eq.mpr hk⟩
    exact congrArg Host.Outcome.next (if_pos hruns)
  | svnBoot svn h hm hi =>
    exact execMinimumSvnRaise_raises (b := false) rfl h hm fun i him => hi i (Option.mem_toList.mp him)
  | svnHearth svn h hm hi =>
    refine execMinimumSvnRaise_raises (b := true) rfl h hm fun i him => ?_
    obtain ⟨p, hrun, himg⟩ := State.mem_hearthImages.mp him
    exact hi p i hrun himg
  | svnNoRaise b svn h => exact execMinimumSvnRaise_ignored h
  | retry h => exact congrArg Host.Outcome.next (if_neg h)
  | ready h => exact congrArg Host.Outcome.next (if_pos h)
  | housekeeping off => exact exec_housekeepingRead off s
  | lockstepClear c =>
    exact (execHousekeepingWrite_eq (by omega) 0 s).trans
      (congrArg (fun u => Host.Outcome.next (State.replied u _)) (s.hkWrite_lockstep c))
  | fenceWrite v => exact execHousekeepingWrite_eq (o := 0x210) (by decide) v s
  | entryLocked p k v hk h =>
    exact (execHousekeepingWrite_eq (by omega) v s).trans
      (congrArg (fun u => Host.Outcome.next (State.replied u _)) (State.hkWrite_entryLocked hk h v))

/-- Settles O52: each device write is what its step does. -/
theorem deviceWritesSetTheirFields : Obligations.DeviceWritesSetTheirFields := by
  unfold Obligations.DeviceWritesSetTheirFields
  intro s t i h
  exact h.exec_eq

end Sys2Proof.Machine
end


section
/-!
SUPPORT. Fences (R139, R245, Table 6-4) and `WFE` (R192): the stores that a fence performs at their homes, what it changes
of the hart that runs, and the event register that `WFE` consumes.
-/

namespace Sys2Proof.Machine

/-! ### Writes at a home do not read the harts -/

/-- A write at a home reads nothing of the gangs, so it may come before or after a change of them. -/
theorem State.writeHome_withGangs (s : State) (gs : List Gang) (p : Fin 3) (job : Nat) (l : Loc) (bs : List Byte) :
    ({ s with gangs := gs } : State).writeHome p job l bs = { s.writeHome p job l bs with gangs := gs } := by
  have hrefused : ({ s with gangs := gs } : State).writeRefused l bs.length = s.writeRefused l bs.length := rfl
  unfold State.writeHome
  rw [hrefused]
  split <;> split <;> rfl
/-- Stores performed at their homes, oldest first (R139). -/
def State.writeStores (s : State) (p : Fin 3) (job : Nat) (l : List BufStore) : State :=
  l.foldl (fun t b => t.writeHome p job b.loc b.bytes) s
theorem State.writeStores_withGangs (p : Fin 3) (job : Nat) (l : List BufStore) (gs : List Gang) (s : State) :
    ({ s with gangs := gs } : State).writeStores p job l = { s.writeStores p job l with gangs := gs } := by
  unfold State.writeStores
  induction l generalizing s with
  | nil => rfl
  | cons b r ih => rw [List.foldl_cons, List.foldl_cons, State.writeHome_withGangs, ih]
theorem State.writeStores_gangs (s : State) (p : Fin 3) (job : Nat) (l : List BufStore) :
    (s.writeStores p job l).gangs = s.gangs := State.writes_gangs p job l s
theorem State.writeStores_cur (s : State) (p : Fin 3) (job : Nat) (l : List BufStore) :
    (s.writeStores p job l).cur = s.cur := State.writes_cur p job l s
/-- Stores may be performed before a change of the hart that runs, or after it. -/
theorem State.writeStores_modMe (s : State) (f : Hart → Hart) (p : Fin 3) (job : Nat) (l : List BufStore) :
    (s.modMe f).writeStores p job l = (s.writeStores p job l).modMe f := by
  have hgangs : ((s.writeStores p job l).modMe f).gangs = (s.modMe f).gangs := by
    simp only [State.modMe, State.modHart, State.modGang, State.writeStores_gangs, State.writeStores_cur]
  calc (s.modMe f).writeStores p job l
      = { s.writeStores p job l with gangs := (s.modMe f).gangs } := State.writeStores_withGangs p job l _ s
    _ = { s.writeStores p job l with gangs := ((s.writeStores p job l).modMe f).gangs } := by rw [hgangs]
    _ = (s.writeStores p job l).modMe f := rfl

/-! ### Fences -/

/-- The state with the stores performed that a fence of a direction orders (Table 6-4). -/
def State.fencedStores (s : State) (dir : FenceDir) : State :=
  if dir = .sv ∨ dir = .all then s.writeStores s.myGang.p s.myGang.job s.me.stores else s
/-- The hart after a fence of a direction: its stores are let go, its scalar cache is invalidated (Table 6-4). -/
def Hart.fenced (dir : FenceDir) (h : Hart) : Hart :=
  { h with stores := if dir = .sv ∨ dir = .all then [] else h.stores
           cache := if dir = .vs ∨ dir = .all then [] else h.cache }

theorem State.fencedStores_gangs (s : State) (dir : FenceDir) : (s.fencedStores dir).gangs = s.gangs := by
  unfold State.fencedStores; split
  · exact State.writeStores_gangs _ _ _ _
  · rfl
theorem State.fencedStores_cur (s : State) (dir : FenceDir) : (s.fencedStores dir).cur = s.cur := by
  unfold State.fencedStores; split
  · exact State.writeStores_cur _ _ _ _
  · rfl

/-- A release performs the stores, and the hart holds none then. -/
theorem State.release_eq (s : State) :
    s.release = (s.writeStores s.myGang.p s.myGang.job s.me.stores).modMe fun x => { x with stores := [] } :=
  State.writeStores_modMe s _ _ _ _
theorem State.acquire_eq (s : State) : s.acquire = s.modMe fun x => { x with cache := [] } := rfl

/-- A fence is its stores performed, one change of the hart, and retirement. -/
theorem execFence_eq (dir : FenceDir) (sc : Scope) (s : State) :
    execFence dir sc s = ((s.fencedStores dir).modMe (Hart.fenced dir)).retire := by
  cases dir with
  | sv => exact congrArg State.retire (State.release_eq s)
  | vs => rfl
  | vv => exact congrArg State.retire (State.modMe_id s).symm
  | all =>
    refine congrArg State.retire ?_
    rw [State.acquire_eq, State.release_eq, State.modMe_modMe]
    rfl

/-! ### What retirement leaves -/

/-- Retirement, at either level, keeps the stores on their way, the scalar cache and the event register. -/
theorem State.me_retired_keeps {s : State} (h : s.live) :
    s.retired.me.stores = s.me.stores ∧ s.retired.me.cache = s.me.cache ∧ s.retired.me.evt = s.me.evt := by
  unfold State.retired
  cases hs : s.atS
  · rw [State.goto_user hs, State.me_modMe h]; exact ⟨rfl, rfl, rfl⟩
  · rw [State.goto_sup hs, State.me_modSup h]; exact ⟨rfl, rfl, rfl⟩

/-! ### The instructions -/

theorem execFence_fences {s : State} (hl : s.live) (dir : FenceDir) (sc : Scope) :
    ∃ t, exec (.fence dir sc) s = .next t ∧
      t.me.stores = (if dir = .sv ∨ dir = .all then [] else s.me.stores) ∧
      t.me.cache = (if dir = .vs ∨ dir = .all then [] else s.me.cache) ∧
      StepBut (fun h => { h.sansCache with stores := [] }) hideNone hideNone hideNone (s.fencedStores dir) t
        (s.fencedStores dir).byteAt := by
  have hg := s.fencedStores_gangs dir
  have hc := s.fencedStores_cur dir
  have hul : (s.fencedStores dir).live := State.live_of_gangs hg.symm hc.symm hl
  have hme : ((s.fencedStores dir).modMe (Hart.fenced dir)).me = s.me.fenced dir := by
    rw [State.me_modMe hul, State.me_of_gangs hg hc]
  obtain ⟨hstores, hcache, -⟩ := State.me_retired_keeps (State.live_modMe hul (Hart.fenced dir))
  refine ⟨_, (exec_fence dir sc s).trans (execFence_eq dir sc s), ?_, ?_, StepBut.of_modMe hul _ ?_ rfl rfl rfl⟩
  · rw [hstores, hme]; rfl
  · rw [hcache, hme]; rfl
  · cases (s.fencedStores dir).atS <;> rfl

/-- WFE of a hart whose event register is set (R192). -/
theorem execWfe_consumes {s : State} (hl : s.live) (hs : s.atS = false) (hevt : s.me.evt = true) (a : GOp) :
    ∃ t, exec (.wfe a) s = .next t ∧ t.me.evt = false ∧
      StepBut Hart.sansEvt hideNone hideNone hideNone s t s.byteAt := by
  have hexec : exec (.wfe a) s = (s.modMe Hart.sansEvt).retire := by
    rw [exec_wfe, execWfe, State.userOnly_eq hs, if_pos hevt]; rfl
  obtain ⟨-, -, hkeep⟩ := State.me_retired_keeps (State.live_modMe hl Hart.sansEvt)
  refine ⟨_, hexec, ?_, StepBut.of_modMe hl _ ?_ rfl rfl rfl⟩
  · rw [hkeep, State.me_modMe hl]; rfl
  · rw [hs]; rfl

/-- Settles O21: a fence performs its stores and changes the hart, and `WFE` clears a set event register. -/
theorem fencesAndEventsAreConsumed : Obligations.FencesAndEventsAreConsumed := by
  unfold Obligations.FencesAndEventsAreConsumed
  refine ⟨fun s u dir sc hl hu => ?_, fun s a hl hs hevt => execWfe_consumes hl hs hevt a⟩
  have hfenced : u = s.fencedStores dir := hu
  rw [hfenced]
  exact execFence_fences hl dir sc

end Sys2Proof.Machine
end


section
/-!
SUPPORT. The encoder and the decoder undo each other on whole instructions (R153 to R165): the round trips of
`Laws.RoundTrip`, put together.
-/

namespace Sys2Proof

/-- The word of every well-formed instruction fits 64 bits and is read back as it: the round trips of
the constructors, in their order. -/
theorem Laws.RoundTrip.statement_all (i : Instr) : Laws.RoundTrip.Statement i :=
  Instr.casesOn (motive := Statement) i
    add sub mul mulhi div rem and or xor andn shl shr sar min max clz popc sel setcc aluiAdd aluiAnd aluiOr aluiXor
    aluiShl aluiShr aluiSar aluiMin aluiMax li lih fadd fsub fmul fma fcvt fcmp ld st amo cas br jal jalr loop bm nop
    csrr csrw csrset csrclr svc trapi eret fence wfe splock spunlock tlbinv ckpt vsave vrest hmsg jspawn jend chblock
    chunblock abump vsetl vtag vretag vgettag vmov vadd vsub vmul vmulh vfma vfms vfnma vmin vmax vabs vneg vand vor
    vxor vshl vshr vsar vclz vpopc vsel vaddc vsubb vcmp vcvt vrcp vrsqrt vsqrt vdiv vexp2 vlog2 vcmul vcmac vconj
    vcabs2 vcrot vbfly vgjstep vbfpexp vbfpcmp vslideup vslidedn vperm vbcast vcompress vexpand viota vzip vunzip
    vredsum vredmax vredmin vscan mand mor mxor mandn mshl mpopc mfirst mset mget vprobe vrelease vld vst vldx vstx
    vlds vsts vldsx vstsx vlds2 vsts2 sbind sunbind sstat vamo vsta vwaitc tseal twait macq mrel mzero mopa mrd mwr
    mst mldt mscale pgopen pgsub pgclose pgmerge pgstat binit barrive bexpect bwait btest tcopy ringcfg rcommit rwait
    rrelease rstat csubmit fhtx copyBytesLand copyComplete codingCommandStart codingCommandComplete fronthaulSend
    frameReceive hostQueueTransmit sweepStart pageFetch pageDelivery caskOverflow sweepEnd launchTailWrite
    launchWindowTake channelMessageTake taskTableWrite gangPlace hartFrameSave gangFrameSave lightPreemption
    lightPreemptionResume scratchpadClear gangRelease comparisonTick abandonComplete jobEnd commitRightPass
    commitSpill blockedHartResume waitWatchdog wfeTimeout vwaitcTimeout lockHoldWatchdog handlerWatchdog
    addressBreakpoint singleStep pinGraceExpiry kill hostq hostqTimeout log abandon info faultQueueReply
    invalidatePage invalidateFunction invalidationComplete jobKillRequest functionConfigWrite arenaGrant
    placementEntryWrite flowEntryWrite portConfigWrite tset toff holdoverTimeout hostMemoryAccess hostErrorCompletion
    twinAccess hostLinkTrain twinLinkTrain portLinkChange l2Fill partitionGo partitionRst firmwareSwitch
    firmwareSwitchComplete flrPhysicalFunction flrVirtualFunction patrolScrub channelFail registerError unitRetire
    coreFence plimWrite powerLimitThrottle thermalTrip powerOnReset housekeepingRead housekeepingWrite keySlotRevoke
    minimumSvnRaise getVersion getCapabilities negotiateAlgorithms getDigests getCertificate challenge
    getMeasurements registerWrite synceLockChange deviceReset twinRefusedWrite latePoison recoveryImageDelivery
    configurationRequest cxlCacheSnoop

namespace Machine

/-- A word decodes to an instruction exactly when it is read as it and is its word, and the instruction is well formed. -/
theorem decodeWord_eq_some_iff {w : BitVec 64} {i : Instr} :
    decodeWord w = some i ↔ decodeRaw w.toNat = some i ∧ i.wf = true ∧ encodeNat i = w.toNat := by
  unfold decodeWord
  cases decodeRaw w.toNat with
  | none => simp
  | some j =>
    constructor
    · intro h
      obtain ⟨hcond, hji⟩ := Option.ite_none_right_eq_some.mp h
      obtain rfl := Option.some.inj hji
      exact ⟨rfl, by simpa using hcond⟩
    · rintro ⟨hji, hwf, henc⟩
      obtain rfl := Option.some.inj hji
      simp [hwf, henc]

section
variable {i : Instr} (hwf : i.wf = true) (hi : Instr.isStep i = false)
include hwf hi

theorem toNat_encode : (encode i).toNat = encodeNat i :=
  (BitVec.toNat_ofNat _ _).trans (Nat.mod_eq_of_lt (Laws.RoundTrip.statement_all i hwf hi).1)
theorem decodeWord_encode : decodeWord (encode i) = some i := by
  have henc := toNat_encode hwf hi
  refine decodeWord_eq_some_iff.mpr ⟨?_, hwf, henc.symm⟩
  rw [henc]
  exact (Laws.RoundTrip.statement_all i hwf hi).2
end

/-- What a word decodes to has that word. -/
theorem encode_of_decodeWord {w : BitVec 64} {i : Instr} (h : decodeWord w = some i) : i.wf = true ∧ encode i = w := by
  obtain ⟨-, hwf, henc⟩ := decodeWord_eq_some_iff.mp h
  exact ⟨hwf, by rw [encode, henc, BitVec.ofNat_toNat, BitVec.setWidth_eq]⟩
/-- A word written out decodes to the instruction whose word it is. -/
theorem decodeWord_of_encode {w : BitVec 64} {i : Instr} (hw : encode i = w) (hwf : i.wf = true)
    (hi : Instr.isStep i = false) : decodeWord w = some i :=
  hw ▸ decodeWord_encode hwf hi

/-- Settles O2: the decoder reads the fields that the encoder wrote, and its check of the reserved fields passes. -/
theorem decodeInvertsEncode : Obligations.DecodeInvertsEncode := by
  unfold Obligations.DecodeInvertsEncode
  exact fun i hwf hi => decodeWord_encode hwf hi

/-- Settles O3: the decoder encodes what it reads again, and two instructions of one word decode from it alike. -/
theorem decodedWordsEncodeBack : Obligations.DecodedWordsEncodeBack := by
  unfold Obligations.DecodedWordsEncodeBack
  refine ⟨fun w i h => encode_of_decodeWord h, fun i j hwi hwj hi hj henc => ?_⟩
  have hdec : decodeWord (encode i) = some j := decodeWord_of_encode henc.symm hwj hj
  exact Option.some.inj ((decodeWord_encode hwi hi).symm.trans hdec)

/-- Settles O1: each word is the word of its instruction. -/
theorem workedEncodingsDecode : Obligations.WorkedEncodingsDecode := by
  unfold Obligations.WorkedEncodingsDecode
  refine ⟨decodeWord_of_encode ?_ rfl rfl, decodeWord_of_encode ?_ rfl rfl, decodeWord_of_encode ?_ rfl rfl,
    decodeWord_of_encode ?_ rfl rfl, decodeWord_of_encode ?_ rfl rfl⟩ <;> decide

end Machine
end Sys2Proof
end


section
/-!
SUPPORT. Control transfer (R154, R184, R185): the conditions and the target of a transfer as the tables give them.
-/

namespace Sys2Proof.Machine

/-! ### Conditions and targets -/

theorem Cond.holds_eq_condIs (c : Cond) (a b : Word) : Cond.holds c a b = condIs c a b := by
  cases c with
  | eq => exact beq_eq_decide a b
  | ne => simp only [Cond.holds, condIs, bne, beq_eq_decide, ne_eq, decide_not]
  | lt => rfl
  | ge => simp only [Cond.holds, condIs, BitVec.slt, ← decide_not, Int.not_lt]
  | ltu => rfl
  | geu => simp only [Cond.holds, condIs, BitVec.ult, ← decide_not, Nat.not_lt]

theorem State.target_eq_jumpTarget (s : State) (off : BitVec 39) : s.target off = s.jumpTarget off := by
  unfold State.target State.jumpTarget
  rw [BitVec.ofInt_add, BitVec.ofInt_mul, BitVec.ofInt_natCast, BitVec.ofNat_toNat, BitVec.setWidth_eq]
  rfl

theorem getLsbD_lowMask {n : Nat} (hn : n ≤ 128) (e : Nat) : (lowMask n).getLsbD e = decide (e < n) := by
  rw [lowMask, BitVec.getLsbD_ofNat, Nat.testBit_two_pow_sub_one, ← Bool.decide_and]
  exact decide_eq_decide.mpr ⟨And.right, fun h => ⟨by omega, h⟩⟩

theorem getLsbD_and_lowMask {n : Nat} (hn : n ≤ 128) (m : MaskReg) (e : Nat) :
    (m &&& lowMask n).getLsbD e = (m.getLsbD e && decide (e < n)) := by
  rw [BitVec.getLsbD_and, getLsbD_lowMask hn]

/-- A mask has no bit among the lowest n. -/
theorem and_lowMask_eq_zero_iff {n : Nat} (hn : n ≤ 128) (m : MaskReg) :
    m &&& lowMask n = 0#128 ↔ ∀ e < n, m.getLsbD e = false := by
  constructor
  · intro h e he
    simpa [h, he] using (getLsbD_and_lowMask hn m e).symm
  · intro h
    refine BitVec.eq_of_getLsbD_eq fun e _ => ?_
    by_cases he : e < n <;> simp [getLsbD_and_lowMask hn, he, h]
/-- A mask has all of the lowest n bits. -/
theorem and_lowMask_eq_lowMask_iff {n : Nat} (hn : n ≤ 128) (m : MaskReg) :
    m &&& lowMask n = lowMask n ↔ ∀ e < n, m.getLsbD e = true := by
  constructor
  · intro h e he
    simpa [h, he, getLsbD_lowMask hn] using (getLsbD_and_lowMask hn m e).symm
  · intro h
    refine BitVec.eq_of_getLsbD_eq fun e _ => ?_
    by_cases he : e < n <;> simp [getLsbD_and_lowMask hn, he, h, getLsbD_lowMask hn]

theorem MCond.holds_lowMask {vl : Nat} (hv : vl ≤ 128) (c : MCond) (m : MaskReg) :
    MCond.holds c m (lowMask vl) = maskIs c m vl := by
  rw [Bool.eq_iff_iff]
  cases c with
  | any => simp [MCond.holds, maskIs, and_lowMask_eq_zero_iff hv]
  | noneSet => simp [MCond.holds, maskIs, and_lowMask_eq_zero_iff hv]
  | all => simp [MCond.holds, maskIs, and_lowMask_eq_lowMask_iff hv]
  | nall => simp [MCond.holds, maskIs, and_lowMask_eq_lowMask_iff hv]

/-! ### The instructions -/

/-- A register write, then a transfer that is taken or not. -/
theorem RegStep.of_branch {s : State} (h : s.live) (d : GOp) (v : Word) (c : Bool) (pc : Word) :
    ∃ t, (s.wg d v).branch c pc = .next t ∧ RegStep s t d v 0 (if c then pc else s.pcv + 8) := by
  cases c with
  | true => exact ⟨_, rfl, RegStep.of_jump h d v pc⟩
  | false => exact RegStep.of_retire h d v

/-- Settles O12: each transfer is a register write, perhaps of `_`, and a branch. -/
theorem transfersGoToTheirTarget : Obligations.TransfersGoToTheirTarget := by
  unfold Obligations.TransfersGoToTheirTarget
  intro s i d v pc hop hl
  cases hop with
  | br cc a b off =>
    rw [exec_br, execBr, Cond.holds_eq_condIs, State.target_eq_jumpTarget]
    exact RegStep.of_branch hl none 0 _ _
  | jal a off =>
    rw [exec_jal, execJal, State.target_eq_jumpTarget]
    exact ⟨_, rfl, RegStep.of_jump hl _ _ _⟩
  | jalr d a imm hal =>
    rw [exec_jalr, execJalr]
    simp only [hal, ne_eq, not_true_eq_false, if_false]
    exact ⟨_, rfl, RegStep.of_jump hl _ _ _⟩
  | loop d off =>
    have hpc : (if s.rg d = 1 then s.pcv + 8 else s.jumpTarget off) =
        if (s.rg d - 1 != 0) = true then s.jumpTarget off else s.pcv + 8 := by
      simp only [bne_iff_ne, ne_eq, sub_eq_zero, ite_not]
    rw [hpc, exec_loop, execLoop, State.target_eq_jumpTarget]
    exact RegStep.of_branch hl _ _ _ _
  | bm cc b off hm hv =>
    have hlegal : ¬ (s.atS = true ∧ b.isSome = true) := by
      rcases hm with hu | ha
      · simp [hu]
      · simp [ha]
    rw [exec_bm, execBm, if_neg hlegal, MCond.holds_lowMask hv, State.target_eq_jumpTarget]
    exact RegStep.of_branch hl none 0 _ _

end Sys2Proof.Machine
end


section
/-!
SUPPORT. Fetches that fail (R155, R165, R316): what a failed translation leaves, and the trap that follows.
-/

namespace Sys2Proof.Machine

/-! ### Translations that fail -/

theorem State.untranslated_sans (s : State) (p : Fin 3) (vf : Fin 64) (va : Nat) (c : Cause) :
    (s.untranslated p vf va c).sansReads = s.sansReads := by
  rcases State.untranslated_cases s p vf va c with h | ⟨l, h⟩
  · rw [h]
  · rw [h, State.afterPoison_sans]

/-- With no choice given, a translation that fails changes the state only by the error completion that poison uses up
(R371). -/
theorem State.translate_error {s : State} (hch : s.choices = []) {u : Use} {va : Word} {c : Cause}
    (he : (s.translate u va).1 = .error c) :
    (s.translate u va).2.sansReads = s.sansReads ∧ (c ≠ .poison → (s.translate u va).2 = s) := by
  unfold State.translate at he ⊢
  simp only [State.lookup_none hch] at he ⊢
  cases hw : s.walk s.myGang.p s.myVf va.toNat with
  | error e =>
    rw [hw] at he
    obtain rfl : e = c := Except.error.inj he
    exact ⟨State.untranslated_sans s _ _ _ _, fun hc => if_neg hc⟩
  | ok l =>
    dsimp only
    cases s.leafCheck s.myGang.p s.atS u l va.toNat va.toNat with
    | none => exact ⟨rfl, fun _ => rfl⟩
    | some e => exact ⟨rfl, fun _ => rfl⟩

theorem State.fetch_of_untranslated {s : State} {c : Cause} (he : (s.translate .fetch s.pcv).1 = .error c) :
    s.fetch = (.error c, (s.translate .fetch s.pcv).2) := by
  unfold State.fetch
  rcases hx : s.translate .fetch s.pcv with ⟨r, t⟩
  rw [hx] at he
  subst he
  rfl

theorem State.aside.byteAt {s t : State} (h : s.aside t) (l : Loc) : t.byteAt l = s.byteAt l := by
  have := congrArg (fun x : State => x.byteAt l) h; exact this

/-! ### Traps of a fetch -/

/-- A trap entered after reads is entered from the state before them, but for what reads change. -/
theorem TrapEntry.of_sansReads {s t v : State} (h : t.sansReads = s.sansReads) {op cause detail src : Nat} {epc : Word}
    {ei : Nat} {addr : Word} (k : TrapEntry t v op cause detail src epc ei addr) :
    TrapEntryBut State.sansReads s v op cause detail src epc ei addr := by
  have haside := State.aside.of_sansReads h
  have hme : t.me = s.me := haside.me
  have hats : t.atS = s.atS := by unfold State.atS; rw [hme]
  refine { k with pc := hme ▸ k.pc, userPc := hme ▸ k.userPc, rest := fun hs => ?_ }
  obtain ⟨hmem, hframe⟩ := k.rest (hme ▸ hs)
  refine ⟨fun l => (hmem l).trans (haside.byteAt l), ?_⟩
  have hreads : Frame Hart.sansEntry hideNone hideNone State.sansReads s t :=
    Frame.of_device haside.gangs haside.cur (congrArg (fun x : State => ({ x with gangs := [] } : State)) h)
  exact hreads.trans (hframe.weaken (fun _ _ e => e) (fun _ _ e => e) (fun _ _ e => e)
    fun _ _ e => congrArg State.sansReads e) haside.cur hats

/-- A word that is no instruction (R165). -/
theorem State.illegalWord_traps {s : State} (hl : s.live) (hu : s.atS = false) (hv : s.me.sup.svec ≠ 0) (w : Word) :
    ∃ v, s.illegalWord w = .next v ∧ TrapEntry s v (w.toNat / 2 ^ 57) 0x01 0 0 s.me.pc 0 0 :=
  State.raise_user hl hu hv _ (trap .illegal) (by have := w.isLt; omega) (Nat.zero_lt_succ _) (Nat.zero_lt_succ _)
    (Nat.zero_lt_succ _)
/-- A fault of fetch (R155). -/
theorem State.fetchFault_traps {s : State} (hl : s.live) (hu : s.atS = false) (hv : s.me.sup.svec ≠ 0)
    (hei : s.me.ei < 128) (c : Cause) :
    ∃ v, s.fetchFault c = .next v ∧ TrapEntry s v 0 c.code 2 0 s.me.pc s.me.ei s.me.pc := by
  unfold State.fetchFault
  rw [State.pcv_user hu]
  exact State.raise_user hl hu hv 0 { c := c, detail := Use.detail .fetch, addr := s.me.pc, ei := s.me.ei }
    (Nat.zero_lt_succ _) (show 2 < 65536 by decide) (Nat.zero_lt_succ _) hei

/-- A fetch that cannot be translated (R155): only poison leaves more than the trap, the error completion that it uses up
(R371). -/
theorem State.untranslatedFetch_traps {s : State} (hch : s.choices = []) {c : Cause}
    (he : (s.translate .fetch s.pcv).1 = .error c) (hl : s.live) (hu : s.atS = false) (hv : s.me.sup.svec ≠ 0)
    (hei : s.me.ei < 128) : ∃ v, (s.translate .fetch s.pcv).2.fetchFault c = .next v ∧
      TrapEntryBut (if c = .poison then State.sansReads else hideNone) s v 0 c.code 2 0 s.me.pc s.me.ei s.me.pc := by
  obtain ⟨hreads, hsame⟩ := State.translate_error hch he
  by_cases hc : c = .poison
  · have haside := State.aside.of_sansReads hreads
    have hme := haside.me
    have hat : (s.translate .fetch s.pcv).2.atS = false := by unfold State.atS at hu ⊢; rwa [hme]
    obtain ⟨v, hnext, hentry⟩ := State.fetchFault_traps
      (State.live_of_gangs haside.gangs.symm haside.cur.symm hl) hat (hme ▸ hv) (hme ▸ hei) c
    rw [hme] at hentry
    exact ⟨v, hnext, by rw [if_pos hc]; exact hentry.of_sansReads hreads⟩
  · rw [if_neg hc, hsame hc]
    exact State.fetchFault_traps hl hu hv hei c

/-! ### The step -/

theorem State.runInstr_of_illegal {s t : State} {w : Word} (hf : s.fetch = (.ok w, t)) (hd : decodeWord w = none) :
    s.runInstr = t.illegalWord w := by
  simp only [State.runInstr, hf, hd]
theorem State.runInstr_of_untranslated {s : State} {c : Cause} (he : (s.translate .fetch s.pcv).1 = .error c) :
    s.runInstr = (s.translate .fetch s.pcv).2.fetchFault c := by
  simp only [State.runInstr, State.fetch_of_untranslated he]

/-- Settles O5: the turn goes to the current hart, whose fetch ends in a trap. -/
theorem fetchesThatFailTrap : Obligations.FetchesThatFailTrap := by
  unfold Obligations.FetchesThatFailTrap
  constructor
  · intro s u t w hu htick hagenda hduty hfetch hdecode hl hat hv
    subst hu
    rw [step_runHart htick hagenda, State.runHart_instr hduty, State.runInstr_of_illegal hfetch hdecode]
    exact State.illegalWord_traps hl hat hv w
  · intro s u c hu htick hagenda hduty hch he hl hat hv hei
    subst hu
    rw [step_runHart htick hagenda, State.runHart_instr hduty, State.runInstr_of_untranslated he]
    exact State.untranslatedFetch_traps hch he hl hat hv hei

end Sys2Proof.Machine
end

section
/-!
SUPPORT. The integer instructions, for O9 and O10.
-/

namespace Sys2Proof.Machine

/-! ### Integer values (Table 8-1) -/

theorem mulHigh_unsigned (a b : Word) :
    mulHigh true a b = (a.setWidth 128 * b.setWidth 128).extractLsb' 64 64 := by
  have ha := a.isLt
  have hb := b.isLt
  have hlt : a.toNat * b.toNat < 2 ^ 128 := by
    calc a.toNat * b.toNat < 2 ^ 64 * 2 ^ 64 := Nat.mul_lt_mul'' ha hb
      _ = 2 ^ 128 := by norm_num
  apply BitVec.eq_of_toNat_eq
  simp only [mulHigh, if_true, BitVec.toNat_ofNat, BitVec.extractLsb'_toNat, BitVec.toNat_mul, BitVec.toNat_setWidth,
    Nat.shiftRight_eq_div_pow]
  rw [Nat.mod_eq_of_lt (show a.toNat < 2 ^ 128 by omega), Nat.mod_eq_of_lt (show b.toNat < 2 ^ 128 by omega),
    Nat.mod_eq_of_lt hlt]
/-- Bits [127:64] of an integer of 128 bits. -/
theorem extractLsb'_ofInt_high (x : Int) : (BitVec.ofInt 128 x).extractLsb' 64 64 = BitVec.ofInt 64 (x / 2 ^ 64) := by
  apply BitVec.eq_of_toNat_eq
  simp only [BitVec.extractLsb'_toNat, BitVec.toNat_ofInt, Nat.shiftRight_eq_div_pow]
  omega
theorem mulHigh_signed (a b : Word) :
    mulHigh false a b = (a.signExtend 128 * b.signExtend 128).extractLsb' 64 64 := by
  have hprod : a.signExtend 128 * b.signExtend 128 = BitVec.ofInt 128 (a.toInt * b.toInt) := by
    rw [BitVec.ofInt_mul]; rfl
  rw [hprod, extractLsb'_ofInt_high]
  rfl

theorem divide_eq_quotientOf (u : Bool) (a b : Word) : divide u a b = quotientOf u a b := by
  unfold divide quotientOf
  by_cases hb : b = 0
  · rw [if_pos hb, if_pos hb]; rfl
  · rw [if_neg hb, if_neg hb]
    cases u
    · apply BitVec.eq_of_toInt_eq
      simp [BitVec.toInt_sdiv]
    · apply BitVec.eq_of_toNat_eq
      have := Nat.div_le_self a.toNat b.toNat
      simp only [if_true, BitVec.toNat_ofNat, BitVec.toNat_udiv]
      exact Nat.mod_eq_of_lt (this.trans_lt a.isLt)
theorem remainder_eq_remainderOf (u : Bool) (a b : Word) : remainder u a b = remainderOf u a b := by
  unfold remainder remainderOf
  by_cases hb : b = 0
  · rw [if_pos hb, if_pos hb]
  · rw [if_neg hb, if_neg hb]
    cases u
    · rw [← BitVec.toInt_srem, BitVec.ofInt_toInt]; rfl
    · apply BitVec.eq_of_toNat_eq
      have := Nat.mod_le a.toNat b.toNat
      simp only [if_true, BitVec.toNat_ofNat, BitVec.toNat_umod]
      exact Nat.mod_eq_of_lt (this.trans_lt a.isLt)

/-- The shift amount of R174 is the low six bits of the operand. -/
theorem shamt_eq (b : Word) : shamt b = (b &&& 63).toNat := by
  rw [BitVec.toNat_and]
  exact (Nat.and_two_pow_sub_one_eq_mod b.toNat 6).symm
theorem shamt_immediate {i : BitVec 36} (h : i.toNat ≤ 63) : shamt (i.signExtend 64) = i.toNat := by
  have hmsb : i.msb = false := by
    rw [BitVec.msb_eq_decide]; exact decide_eq_false (by omega)
  rw [shamt, BitVec.signExtend_eq_setWidth_of_msb_false hmsb, BitVec.toNat_setWidth]
  omega

theorem minWord_eq_pickWord (u : Bool) (a b : Word) : minWord u a b = pickWord false u a b := by
  unfold minWord pickWord
  cases u
  · by_cases h : a.toInt ≤ b.toInt
    · simp [BitVec.slt, h]
    · simp [BitVec.slt, h, Int.not_le.mp h]
  · by_cases h : a.toNat ≤ b.toNat
    · simp [BitVec.ult, h]
    · simp [BitVec.ult, h, Nat.not_le.mp h]
theorem maxWord_eq_pickWord (u : Bool) (a b : Word) : maxWord u a b = pickWord true u a b := by
  unfold maxWord pickWord
  cases u
  · rcases lt_trichotomy a.toInt b.toInt with h | h | h
    · simp [BitVec.slt, h, h.le]
    · simp [BitVec.eq_of_toInt_eq h]
    · simp [BitVec.slt, h, not_lt_of_gt h]
  · rcases lt_trichotomy a.toNat b.toNat with h | h | h
    · simp [BitVec.ult, h, h.le]
    · simp [BitVec.eq_of_toNat_eq h]
    · simp [BitVec.ult, h, not_lt_of_gt h]

theorem leadingZeros_eq (w : Word) (n : Nat) :
    leadingZeros n w.toNat = ((List.range n).takeWhile fun k => !w.getLsbD (n - 1 - k)).length := by
  induction n with
  | zero => rfl
  | succ n ih =>
    have hbit : w.getLsbD n = decide (w.toNat / 2 ^ n % 2 = 1) := Nat.testBit_eq_decide_div_mod_eq
    have hnext : (fun k => !w.getLsbD (n + 1 - 1 - k)) ∘ Nat.succ = fun k => !w.getLsbD (n - 1 - k) := by
      funext k
      have : n + 1 - 1 - k.succ = n - 1 - k := by omega
      simp only [Function.comp, this]
    rw [List.range_succ_eq_map, List.takeWhile_cons, List.takeWhile_map, hnext, leadingZeros, ih]
    by_cases h : w.toNat / 2 ^ n % 2 = 1
    · simp [hbit, h]
    · simp [hbit, h, Nat.add_comm]
theorem popCount_eq (n w : Nat) : popCount n w = ((List.range n).filter fun k => w.testBit k).length := by
  induction n generalizing w with
  | zero => rfl
  | succ n ih =>
    have hnext : (fun k => w.testBit k) ∘ Nat.succ = fun k => (w / 2).testBit k := by
      funext k; exact Nat.testBit_succ w k
    rw [List.range_succ_eq_map, List.filter_cons, List.filter_map, hnext, popCount, ih]
    rcases Nat.mod_two_eq_zero_or_one w with h | h
    · simp [Nat.testBit_zero, h]
    · simp [Nat.testBit_zero, h, Nat.add_comm]

/-- LIH keeps bits [35:0] and takes bits [63:36] from its immediate (R177). -/
theorem append_low36 (w : Word) (i : BitVec 28) :
    (i ++ w.setWidth 36 : Word) = (w &&& (0xFFFFFFFFF : Word)) ||| (i.setWidth 64 <<< 36) := by
  apply BitVec.eq_of_getLsbD_eq
  intro k hk
  have hmask : (0xFFFFFFFFF : Word).getLsbD k = decide (k < 36) := Nat.testBit_two_pow_sub_one 36 k
  have hk' : k < 64 := hk
  rw [BitVec.getLsbD_append, BitVec.getLsbD_or, BitVec.getLsbD_and, hmask, BitVec.getLsbD_shiftLeft]
  by_cases h : k < 36
  · simp only [h, hk', BitVec.getLsbD_setWidth, decide_true, if_true, Bool.not_true, Bool.and_true, Bool.true_and,
      Bool.and_false, Bool.false_and, Bool.or_false]
  · simp only [h, hk', show k - 36 < 64 by omega, BitVec.getLsbD_setWidth, decide_true, decide_false, if_false,
      Bool.not_false, Bool.and_true, Bool.true_and, Bool.and_false, Bool.false_or]

/-! ### The instructions -/

/-- An integer instruction writes its value to its destination and retires. -/
theorem IntegerOp.exec_eq {s : State} {i : Instr} {d : GOp} {v : Word} (h : IntegerOp s i d v) :
    exec i s = (s.wg d v).retire := by
  have hcond (c : Cond) (a b : Word) : oneIf (Cond.holds c a b) = if condIs c a b then 1 else 0 := by
    rw [oneIf, Cond.holds_eq_condIs]
  cases h with
  | add | sub | mul | and | or | xor | andn | aluiAdd | aluiAnd | aluiOr | aluiXor | li | nop => rfl
  | mulhi u d a b =>
    rw [exec_mulhi, execMulhi, alu]
    cases u
    · rw [mulHigh_signed]; rfl
    · rw [mulHigh_unsigned]; rfl
  | div u d a b => rw [exec_div, execDiv, alu, divide_eq_quotientOf]
  | rem u d a b => rw [exec_rem, execRem, alu, remainder_eq_remainderOf]
  | shl d a b => rw [exec_shl, execShl, alu, shamt_eq]; rfl
  | shr d a b => rw [exec_shr, execShr, alu, shamt_eq]; rfl
  | sar d a b => rw [exec_sar, execSar, alu, shamt_eq]; rfl
  | min u d a b => rw [exec_min, execMin, alu, minWord_eq_pickWord]
  | max u d a b => rw [exec_max, execMax, alu, maxWord_eq_pickWord]
  | clz d a => rw [exec_clz, execClz, leadingZeros_eq]
  | popc d a => rw [exec_popc, execPopc, popCount_eq]; rfl
  | sel d a b c => rw [exec_sel, execSel, ite_not]
  | setcc cc d a b => rw [exec_setcc, execSetcc, alu, hcond]
  | aluiShl d a i h => rw [exec_aluiShl, execAluiShl, alui, shamt_immediate h]
  | aluiShr d a i h => rw [exec_aluiShr, execAluiShr, alui, shamt_immediate h]
  | aluiSar d a i h => rw [exec_aluiSar, execAluiSar, alui, shamt_immediate h]
  | aluiMin d a i => rw [exec_aluiMin, execAluiMin, alui, minWord_eq_pickWord]
  | aluiMax d a i => rw [exec_aluiMax, execAluiMax, alui, maxWord_eq_pickWord]
  | lih d i => rw [exec_lih, execLih, append_low36]

theorem IntegerOp.runs {s : State} {i : Instr} {d : GOp} {v : Word} (h : IntegerOp s i d v) (hl : s.live) :
    ∃ t, exec i s = .next t ∧ RegStep s t d v 0 (s.pcv + 8) := by
  rw [h.exec_eq]
  exact RegStep.of_retire hl d v

/-- Settles O9: each of them is one register write. -/
theorem integerInstructionsWriteTheirResult : Obligations.IntegerInstructionsWriteTheirResult := by
  unfold Obligations.IntegerInstructionsWriteTheirResult
  intro s i d v h hl
  exact h.runs hl

/-- Settles O10: DIV and REM are integer instructions, whose values R175 gives for a zero divisor and for the overflow. -/
theorem divisionNeverTraps : Obligations.DivisionNeverTraps := by
  unfold Obligations.DivisionNeverTraps
  intro s u d a b hl
  have hdiv (u : Bool) := (IntegerOp.div (s := s) u d a b).runs hl
  have hrem (u : Bool) := (IntegerOp.rem (s := s) u d a b).runs hl
  refine ⟨fun hb => ⟨?_, ?_⟩, fun ha hb => ⟨?_, ?_⟩, ?_, ?_⟩
  · have := hdiv u
    rwa [quotientOf, if_pos hb] at this
  · have := hrem u
    rwa [remainderOf, if_pos hb] at this
  · have := hdiv false
    rw [ha, hb] at this
    exact this
  · have := hrem false
    rw [ha, hb] at this
    exact this
  · obtain ⟨t, ht⟩ := hdiv u
    exact ⟨t, _, ht⟩
  · obtain ⟨t, ht⟩ := hrem u
    exact ⟨t, _, ht⟩

end Sys2Proof.Machine
end

section
/-!
SUPPORT. The scalar floating-point instructions, for O11.
-/

namespace Sys2Proof.Machine

/-! ### Scalar floating point (Tables 8-4, 8-5) -/

/-- Each instruction writes the result of its table with the flags of that result. -/
theorem FloatOp.exec_eq {s : State} {i : Instr} {d : GOp} {r : Nat × Flags} (h : FloatOp s i d r) :
    exec i s = s.fpWrite d r := by
  cases h with
  | fadd | fsub | fmul | fma => rfl
  | toFloat | toI64 | toN64 | ofI64 | ofN64 => rfl
  | fcmp => rfl

/-- Settles O11: the result and its flags are written, and the instruction retires. -/
theorem floatInstructionsRoundOnce : Obligations.FloatInstructionsRoundOnce := by
  unfold Obligations.FloatInstructionsRoundOnce
  intro s i d r h hl
  rw [h.exec_eq]
  exact RegStep.of_retire_flag hl d (word r.1) r.2

end Sys2Proof.Machine
end

section
/-!
SUPPORT. What a trap of a user hart does, with a supervisor image and without one, for O13.
-/

namespace Sys2Proof.Machine

/-! ### Traps at U -/

theorem State.supOnly_user {s : State} (hu : s.atS = false) (op : Nat) (k : Res) :
    s.supOnly op k = s.raise op (trap .priv) := by
  rw [State.supOnly, hu]; rfl
theorem State.supOnly_sup {s : State} (ha : s.atS = true) (op : Nat) (k : Res) : s.supOnly op k = k := by
  rw [State.supOnly, ha]; rfl

/-- The supervisor registers are out of reach of a user hart (R313). -/
theorem State.csrRead_sup_of_user {s : State} (hu : s.atS = false) {n : Nat} (hn : 0x100 ≤ n ∧ n < 0x200) :
    s.csrRead n = .error .priv := by
  simp [State.csrRead, hn, hu]
theorem csrUpdate_of_error {s : State} {num : BitVec 12} {c : Cause} (he : s.csrRead num.toNat = .error c)
    (f : Word → Word → Word) (d a : GOp) : csrUpdate f d a num s = s.raise 0x18 (trap c) := by
  simp only [csrUpdate, he]

/-- `SVC` enters the supervisor thread without a trap; every other instruction of Table 15-4 raises one. -/
theorem UserTrapOp.svc_or_raises {s : State} {i : Instr} {op c d : Nat} {epc : Word} (h : UserTrapOp s i op c d epc)
    (hu : s.atS = false) :
    (∃ n, i = .svc n ∧ op = 0x19 ∧ c = 0 ∧ d = n.toNat ∧ epc = s.me.pc + 8) ∨
    op ≠ 0x19 ∧ op < 128 ∧ d < 65536 ∧ epc = s.me.pc ∧
      ∃ x : Cause, x.code = c ∧ exec i s = s.raise op { c := x, detail := d } := by
  have hpriv (op : Nat) (k : Res) : s.supOnly op k = s.raise op { c := .priv, detail := 0 } := State.supOnly_user hu op k
  have hcsr {num : BitVec 12} (hn : 0x100 ≤ num.toNat ∧ num.toNat < 0x200) (f : Word → Word → Word) (d a : GOp) :
      csrUpdate f d a num s = s.raise 0x18 { c := .priv, detail := 0 } := csrUpdate_of_error (State.csrRead_sup_of_user hu hn) f d a
  cases h with
  | svc n => exact .inl ⟨n, rfl, rfl, rfl, rfl, rfl⟩
  | trapi n => exact .inr ⟨by decide, by decide, n.isLt, rfl, .brk, rfl, rfl⟩
  | jalr d a imm h =>
    exact .inr ⟨by decide, by decide, by decide, rfl, .misalign, rfl, by rw [exec_jalr, execJalr, if_pos h]; rfl⟩
  | eret => exact .inr ⟨by decide, by decide, by decide, rfl, .priv, rfl, by rw [exec_eret, execEret, hpriv]⟩
  | tlbinv => exact .inr ⟨by decide, by decide, by decide, rfl, .priv, rfl, by rw [exec_tlbinv, execTlbinv, hpriv]⟩
  | vsave => exact .inr ⟨by decide, by decide, by decide, rfl, .priv, rfl, by rw [exec_vsave, execVsave, hpriv]⟩
  | vrest => exact .inr ⟨by decide, by decide, by decide, rfl, .priv, rfl, by rw [exec_vrest, execVrest, hpriv]⟩
  | csrr d n h =>
    refine .inr ⟨by decide, by decide, by decide, rfl, .priv, rfl, ?_⟩
    simp only [exec_csrr, execCsrr, State.csrRead_sup_of_user hu h]; rfl
  | csrw a n h => exact .inr ⟨by decide, by decide, by decide, rfl, .priv, rfl, by rw [exec_csrw, execCsrw, hcsr h]⟩
  | csrset d a n h => exact .inr ⟨by decide, by decide, by decide, rfl, .priv, rfl, by rw [exec_csrset, execCsrset, hcsr h]⟩
  | csrclr d a n h => exact .inr ⟨by decide, by decide, by decide, rfl, .priv, rfl, by rw [exec_csrclr, execCsrclr, hcsr h]⟩

theorem execSvc_enters {s : State} (hu : s.atS = false) (hv : s.me.sup.svec ≠ 0) (n : BitVec 16) :
    exec (.svc n) s = .next (s.enter s.cur 0x19 0 n.toNat 0 (s.me.pc + 8) 0 0) := by
  rw [exec_svc, execSvc, hu, if_neg (by decide), if_neg hv]
theorem execSvc_kills {s : State} (hu : s.atS = false) (hv : s.me.sup.svec = 0) (n : BitVec 16) :
    exec (.svc n) s = .next (s.killHart s.cur Cause.illegal.code) := by
  rw [exec_svc, execSvc, hu, if_neg (by decide), if_pos hv]
theorem State.raise_kills {s : State} (hu : s.atS = false) (hv : s.me.sup.svec = 0) (op : Nat) (t : TrapInfo) :
    s.raise op t = .next (s.killHart s.cur t.c.code) := by
  rw [State.raise, hu, if_neg (by decide), State.trapAt, if_pos (show (s.hart s.cur).sup.svec = 0 from hv)]

/-! ### The end of the running hart -/

theorem State.voidTicket_cur (s : State) (p : Fin 3) (job t : Nat) : (s.voidTicket p job t).cur = s.cur := by
  unfold State.voidTicket; split <;> rfl
theorem State.killHart_cur (s : State) (h : HartId) (c : Nat) : (s.killHart h c).cur = s.cur := by
  unfold State.killHart State.voidHart
  dsimp only
  split
  · rfl
  · rw [(State.settleGang_settles _ _).cur, State.modHart, State.modGang_cur, State.voidTicket_cur, State.cur_drain]; rfl
/-- The running hart is killed (R32). -/
theorem State.killHart_cur_kills {s : State} (hl : s.live) (hn : s.me.over = false) (hst : s.me.stores = []) (c : Nat) :
    Killed s (s.killHart s.cur c) c := by
  have hkilled := State.killHart_kills (s := s) (h := s.cur) hl hn hst c
  have hat : (s.killHart s.cur c).at_ (s.killHart s.cur c).cur = s.killHart s.cur c := rfl
  rw [State.killHart_cur] at hat
  rwa [hat] at hkilled

/-- Settles O13: `SVC` enters or kills by itself; the other instructions raise a trap, which does the same. -/
theorem trapsEnterTheSupervisorOrKill : Obligations.TrapsEnterTheSupervisorOrKill := by
  unfold Obligations.TrapsEnterTheSupervisorOrKill
  constructor
  · intro s i op c d epc hop hl hu hv
    rcases hop.svc_or_raises hu with ⟨n, rfl, rfl, rfl, rfl, rfl⟩ | ⟨-, hlt, hd, rfl, x, rfl, he⟩
    · exact ⟨_, execSvc_enters hu hv n,
        TrapEntry.of_enter hl _ _ _ _ _ _ _ (by decide) (by decide) n.isLt (by decide) (by decide)⟩
    · rw [he]
      exact State.raise_user hl hu hv op { c := x, detail := d } hlt hd (Nat.zero_lt_succ _) (Nat.zero_lt_succ _)
  · intro s i op c d epc hop hl hu hv hn hst
    rcases hop.svc_or_raises hu with ⟨n, rfl, rfl, rfl, rfl, rfl⟩ | ⟨hne, -, -, rfl, x, rfl, he⟩
    · exact ⟨_, execSvc_kills hu hv n, State.killHart_cur_kills hl hn hst _⟩
    · rw [he, if_neg hne]
      exact ⟨_, State.raise_kills hu hv op _, State.killHart_cur_kills hl hn hst _⟩

end Sys2Proof.Machine
end

section
/-!
SUPPORT. Scalar loads that meet their conditions, for O16.
-/

namespace Sys2Proof.Machine

/-! ### Steps of a load or a store -/

section
variable {eo : Hart → Hart} {eg : Gang → Gang} {es : State → State} {s u : State} {mem : Loc → Byte}

theorem Moved.release_if {eh : Hart → Hart} (h : Moved eh eo eg es s u mem) (hst : u.me.stores = []) (b : Bool) :
    Moved eh eo eg es s (if b = true then u.release else u) mem := by
  cases b
  · exact h
  · exact h.release hst
theorem Moved.acquire_if (h : Moved Hart.sansCache eo eg es s u mem) (b : Bool) :
    Moved Hart.sansCache eo eg es s (if b = true then u.acquire else u) mem := by
  cases b
  · exact h
  · exact h.acquire
end

/-- A read at a home changes no hart, and outside them no more than a read may. -/
theorem Moved.afterRead {eh eo : Hart → Hart} {eg : Gang → Gang} {s u : State} {mem : Loc → Byte}
    (h : Moved eh eo eg State.sansReads s u mem) (l : Loc) (n : Nat) : Moved eh eo eg State.sansReads s (u.afterRead l n) mem := by
  refine h.device (State.afterRead_gangs u l n) (State.afterRead_cur u l n) ?_ fun m => ?_
  · exact congrArg (fun x : State => { x with gangs := [] }) (State.afterRead_sans u l n)
  · rw [State.afterRead_byteAt, h.memory]

/-- A release by a hart with no store on its way leaves the device as it was. -/
theorem State.release_if_calm {s : State} (hl : s.live) (hc : s.calm) (b : Bool) :
    (if b = true then s.release else s).calm ∧
    (∀ l n, (if b = true then s.release else s).readHome l n = s.readHome l n) ∧
    (if b = true then s.release else s).out = s.out := by
  obtain ⟨hch, hst⟩ := hc
  cases b
  · exact ⟨⟨hch, hst⟩, fun _ _ => rfl, rfl⟩
  · obtain ⟨hrch, hread, -, -, hout⟩ := State.release_dev hst
    exact ⟨⟨hrch.trans hch, by rw [if_pos rfl, me_release hl]⟩, hread, hout⟩

/-! ### Transactions with IO pages (R105) -/

theorem State.wg_out (s : State) (d : GOp) (v : Word) : (s.wg d v).out = s.out := by
  unfold State.wg; split
  · rfl
  · split <;> rfl
theorem State.retired_out (s : State) : s.retired.out = s.out := by
  unfold State.retired State.goto; split <;> rfl
theorem State.acquire_if_out (s : State) (b : Bool) : (if b = true then s.acquire else s).out = s.out := by
  cases b <;> rfl
theorem State.afterRead_out_io (s : State) {l : Loc} (hio : l.kind = .io) (n : Nat) :
    (s.afterRead l n).out = s.out ++ [.ioRead l.pa n] := by
  simp only [State.afterRead, hio]

/-! ### Loads (R179) -/

section
variable {s : State} {q : LdSt} {d a : GOp}

/-- A generic load that passes its checks reads at the home of its place. -/
theorem execLd_generic {l : Loc} {pin : Pin} (hc : s.calm) (hg : q.sp = false)
    (hr : s.reaches .read (LdSt.ea q (s.rg a)) (LdSt.bytes q) l pin) (hp : s.readPoison l (LdSt.bytes q) = false)
    (hw : s.waitsOwn false (releases q.ord) [(l, LdSt.bytes q)] = false) (hl : s.live) :
    exec (.ld q d a) s =
      let u := if releases q.ord = true then s.release else s
      let v := (u.afterRead l (LdSt.bytes q)).modMe fun x => x.cachePut l (s.readHome l (LdSt.bytes q))
      ((if acquires q.ord = true then v.acquire else v).wg d
        (extendN (LdSt.bytes q) q.sx (natOfBytes (s.readHome l (LdSt.bytes q))))).retire := by
  obtain ⟨⟨huch, hust⟩, hread, -⟩ := State.release_if_calm hl hc (releases q.ord)
  simp only [exec_ld, execLd, ldGen, hg, State.genCheck_ok hc.1 hr, hw, hp, Bool.false_eq_true, if_false,
    State.scalarRead_home huch hust, hread]

/-- A scratchpad load that meets its conditions reads the plain address of its place. -/
theorem execLd_scratchpad {k : SpPlace} (hg : q.sp = true)
    (hk : s.myGang.spCheck .read (LdSt.ea q (s.rg a)) (LdSt.bytes q) = .ok k) (hs : s.myGang.spStall false k = none)
    (hp : s.myGang.spPoisoned (s.myGang.spMap k) (LdSt.bytes q) = false)
    (hw : s.waitsOwn false (releases q.ord) [] = false) :
    ∃ b : Bool, exec (.ld q d a) s =
      let u := if releases q.ord = true then s.release else s
      let v := if b = true then u.acquire else u
      ((if acquires q.ord = true then v.acquire else v).wg d
        (extendN (LdSt.bytes q) q.sx (natOfBytes (s.myGang.spRead (s.myGang.spMap k) (LdSt.bytes q))))).retire := by
  simp only [exec_ld, execLd, ldSp, hg, hk, hs, hw, hp, Bool.false_eq_true, if_false, if_true]
  cases k with
  | cons r x => exact ⟨_, rfl⟩
  | out | badRing | plain | prod => exact ⟨false, rfl⟩

end

/-- Settles O16: the read leaves its register, the scalar cache and what a read may change. -/
theorem loadsWriteTheirRegister : Obligations.LoadsWriteTheirRegister := by
  unfold Obligations.LoadsWriteTheirRegister
  constructor
  · intro s q d a l pin hl hc hg hr hp hw
    refine ⟨_, execLd_generic hc hg hr hp hw hl, ?_, fun hio => ?_⟩
    · exact ((((Moved.refl hl).release_if hc.2 _).afterRead l _).cachePut l _ |>.acquire_if _).wg sansG_congr d _
    · rw [State.retired_out, State.wg_out, State.acquire_if_out, State.modMe_out, State.afterRead_out_io _ hio,
        (State.release_if_calm hl hc _).2.2]
      rfl
  · intro s q d a k hl hst hg hk hs hp hw
    obtain ⟨b, he⟩ := execLd_scratchpad (d := d) hg hk hs hp hw
    exact ⟨_, he, ((((Moved.refl hl).release_if hst _).acquire_if b).acquire_if _).wg sansG_congr d _⟩

end Sys2Proof.Machine
end

section
/-!
SUPPORT. One write at a home that is performed, and what the steps of a scalar store or atomic leave, for O17, O18 and O26.
-/

namespace Sys2Proof.Machine

/-! ### Memory after a write -/

/-- A byte of a memory after a write: the written one, or the one before. -/
theorem Mem.get_write {m : Mem} (h : Mem.wf m = true) (a c : Nat) (bs : List Byte) :
    Mem.get (Mem.write m a bs) c = if a ≤ c ∧ c < a + bs.length then bs.getD (c - a) 0 else Mem.get m c := by
  split
  · next hin =>
    have hi : c - a < bs.length := by omega
    have hget := Mem.get_write_in m a (c - a) bs h hi
    rw [Nat.add_sub_cancel' hin.1] at hget
    rw [hget, List.getD_eq_getElem _ _ hi]
  · next hout => exact Mem.get_write_other m a c bs h (by omega)

/-- A write that is performed puts its bytes at its place, and no other byte (R130). -/
theorem State.byteAt_writeHome {s : State} (hw : s.memWf) {l : Loc} {bs : List Byte}
    (hr : s.writeRefused l bs.length = false) (p : Fin 3) (job : Nat) (m : Loc) :
    (s.writeHome p job l bs).byteAt m = putAt s.byteAt l bs m := by
  obtain ⟨hdev, hhost, htwin⟩ := hw
  obtain ⟨lk, lp⟩ := l
  obtain ⟨mk, mp⟩ := m
  unfold State.writeHome
  rw [if_neg (by rw [hr]; decide)]
  cases lk <;> cases mk <;>
    simp [putAt, Loc.covers, PageKind.sameSpace, State.byteAt, State.memOf, State.takeBack, Mem.get_write, hdev, hhost, htwin]

theorem lineClear_short (ls : List Nat) (a : Nat) {n : Nat} (hn : n < 128) : lineClear ls a n = ls := by
  unfold lineClear
  rw [List.filter_eq_self]
  intro k _
  simp only [Bool.not_eq_true', Bool.and_eq_false_iff, decide_eq_false_iff_not]
  omega

/-- The device without the bytes of its memories, and what reads and writes of a few bytes change with them. -/
def State.sansBytes (s : State) : State := { s.sansReads with dev := [], host := [], twin := [], owned := [] }
theorem State.poisonOf_of_sansBytes {s t : State} (h : s.sansBytes = t.sansBytes) (k : PageKind) :
    s.poisonOf k = t.poisonOf k := by
  have hk : s.sansBytes.poisonOf k = t.sansBytes.poisonOf k := by rw [h]
  cases k <;> exact hk
theorem State.sansMem_of_sansBytes {s t : State} (h : s.sansBytes = t.sansBytes) : s.sansMem = t.sansMem := by
  have hm : s.sansBytes.sansMem = t.sansBytes.sansMem := by rw [h]
  exact hm
/-- A write of less than a line clears no poison (R401). -/
theorem State.writeHome_sansBytes {s : State} {l : Loc} {bs : List Byte} (hr : s.writeRefused l bs.length = false)
    (hn : bs.length < 128) (p : Fin 3) (job : Nat) : (s.writeHome p job l bs).sansBytes = s.sansBytes := by
  unfold State.writeHome
  rw [if_neg (by rw [hr]; decide)]
  split
  · rw [lineClear_short _ _ hn]; rfl
  · rw [lineClear_short _ _ hn]; rfl
  · rw [lineClear_short _ _ hn]; rfl
  · rw [lineClear_short _ _ hn]; rfl
  · rfl
theorem State.writeHome_out_io {s : State} {l : Loc} (hio : l.kind = .io) (p : Fin 3) (job : Nat) (bs : List Byte) :
    (s.writeHome p job l bs).out = s.out ++ [.ioWrite l.pa bs] := by
  simp only [State.writeHome, State.writeRefused, hio, Bool.false_eq_true, if_false]

/-! ### Steps of a scalar access -/

theorem Moved.writeHome {eh eo : Hart → Hart} {eg : Gang → Gang} {s u : State} {mem : Loc → Byte}
    (h : Moved eh eo eg State.sansBytes s u mem) (hw : u.memWf) {l : Loc} {bs : List Byte}
    (hr : u.writeRefused l bs.length = false) (hn : bs.length < 128) (p : Fin 3) (job : Nat) :
    Moved eh eo eg State.sansBytes s (u.writeHome p job l bs) (putAt mem l bs) := by
  refine h.device (State.writeHome_gangs _ _ _ _ _) (State.writeHome_cur _ _ _ _ _) ?_ fun m => ?_
  · exact congrArg (fun x : State => { x with gangs := [] }) (State.writeHome_sansBytes hr hn p job)
  · rw [State.byteAt_writeHome hw hr, putAt, putAt, h.memory]
theorem State.sansBytes_of_sansReads {s t : State} (h : s.sansReads = t.sansReads) : s.sansBytes = t.sansBytes :=
  congrArg (fun u : State => { u with dev := [], host := [], twin := [], owned := [] }) h
theorem Moved.alike {eh eo : Hart → Hart} {eg : Gang → Gang} {es : State → State} {s u v : State} {mem : Loc → Byte}
    (h : Moved eh eo eg es s u mem) (ha : u.Alike v) : Moved eh eo eg es s v mem := by
  have k : Moved eh eo eg es u v u.byteAt := Moved.of_alike h.same.live ha
  exact ⟨h.same.trans k.same, h.frame.trans k.frame h.same.cur h.same.atS, fun l => (k.memory l).trans (h.memory l)⟩

/-- A change of what the running hart's gang holds beside its harts. -/
theorem Moved.modMyGang {eh eo : Hart → Hart} {eg : Gang → Gang} {es : State → State} {s u : State} {mem : Loc → Byte}
    (h : Moved eh eo eg es s u mem) {f : Gang → Gang} (hf : ∀ g, (f g).uid = g.uid) (hh : ∀ g, (f g).harts = g.harts)
    (hg : ∀ g, eg { f g with harts := Vector.replicate 4 Hart.init } = eg { g with harts := Vector.replicate 4 Hart.init }) :
    Moved eh eo eg es s (u.modMyGang f) mem := by
  have hl := h.same.live
  have hmy : (u.modMyGang f).myGang = f u.myGang := State.myGang_modGang hl f hf
  have hme : (u.modMyGang f).me = u.me := by rw [State.me_modMyGang hl hf, hh, State.me_eq]
  have hat : (u.modMyGang f).atS = u.atS := by unfold State.atS; rw [hme]
  have hsame : Same u (u.modMyGang f) := {
    live := ⟨f u.myGang, (State.gang?_modGang u _ f hf).trans (by rw [State.gang_of_live hl]; rfl)⟩
    cur := rfl
    atS := hat
    pcv := by unfold State.pcv; rw [hat, hme]
    rg := fun r => by unfold State.rg; rw [hat, hme]
    fcsr := by rw [hme] }
  have hframe : Frame eh eo eg es u (u.modMyGang f) := {
    me := by rw [hme]
    mates := fun k _ => by rw [hmy, hh]
    gang := by rw [hmy]; exact hg _
    others := fun v hv => State.gang?_modGang_other u _ v f hf hv
    device := rfl }
  exact ⟨h.same.trans hsame, h.frame.trans hframe h.same.cur h.same.atS, h.memory⟩
/-- What a recovery point notes of an ordered operation shows in no hart (R45). -/
theorem Moved.noteDone {eh eo : Hart → Hart} {es : State → State} {s u : State} {mem : Loc → Byte}
    (h : Moved eh eo Gang.sansLog es s u mem) (k : HartId) (hk : k.gang = u.cur.gang) (num v : Nat) :
    Moved eh eo Gang.sansLog es s (u.noteDone k num v) mem := by
  unfold State.noteDone
  rw [hk]
  refine h.modMyGang (fun _ => rfl) (fun _ => rfl) fun g => ?_
  cases hrec : g.recov with
  | none => simp only [Gang.sansLog, Option.map_none]
  | some r => simp only [Gang.sansLog, Option.map_some, RecPoint.note]; split <;> rfl

end Sys2Proof.Machine
end

section
/-!
SUPPORT. Scalar stores that are performed as they issue, for O17, and what stores and atomics share.
-/

namespace Sys2Proof.Machine

/-! ### States that are alike perform the same operations -/

section
variable {s u : State} (h : s.Alike u)
include h

theorem State.Alike.memWf (hw : s.memWf) : u.memWf := by
  obtain ⟨gs, rfl⟩ := h.device; exact hw
theorem State.Alike.writeRefused (l : Loc) (n : Nat) : u.writeRefused l n = s.writeRefused l n := by
  obtain ⟨gs, rfl⟩ := h.device; rfl
theorem State.Alike.readPoison (l : Loc) (n : Nat) : u.readPoison l n = s.readPoison l n := by
  obtain ⟨gs, rfl⟩ := h.device; rfl
theorem State.Alike.readHome (l : Loc) (n : Nat) : u.readHome l n = s.readHome l n := by
  obtain ⟨gs, rfl⟩ := h.device; rfl
theorem State.Alike.out : u.out = s.out := by
  obtain ⟨gs, rfl⟩ := h.device; rfl
theorem State.Alike.choices : u.choices = s.choices := by
  obtain ⟨gs, rfl⟩ := h.device; rfl
theorem State.Alike.queue (p : Fin 3) (job t : Nat) : u.queue p job t = s.queue p job t := by
  obtain ⟨gs, rfl⟩ := h.device; rfl
/-- A hart that may perform its ordered operation at once has no entry of its ticket to perform before (R38). -/
theorem State.Alike.direct {tree : Bool} (hd : s.direct tree = true) :
    (∀ n, u.flush u.myGang.p u.myGang.job (u.ticket u.cur) n = u) ∧ u.direct tree = true := by
  simp only [State.direct, Bool.and_eq_true, List.isEmpty_iff] at hd
  obtain ⟨hq, hr⟩ := hd
  have huq : u.queue u.myGang.p u.myGang.job (u.ticket u.cur) = [] := by rw [h.queue, h.myGang, h.ticket, hq]
  refine ⟨fun n => ?_, ?_⟩
  · cases n with
    | zero => rfl
    | succ n => rw [State.flush, huq]
  · unfold State.direct
    dsimp only
    rw [huq, h.hasRight, h.myJob, h.ticket, hr]; rfl
end

/-- A release where the instruction is one, by a hart with no store on its way. -/
theorem State.Alike.of_release_if {s : State} (hst : s.me.stores = []) (b : Bool) :
    s.Alike (if b = true then s.release else s) := by
  cases b
  · exact State.Alike.refl s
  · exact State.Alike.of_release hst
/-- An ordered operation lets the stores of its hart go, again where it is a release. -/
theorem State.Alike.of_release_if_drain {s : State} (hst : s.me.stores = []) (b : Bool) :
    s.Alike ((if b = true then s.release else s).drain (if b = true then s.release else s).cur) := by
  have h := State.Alike.of_release_if hst b
  exact h.trans (State.Alike.of_drain (by rw [h.me]; exact hst))

/-! ### Operations of a restored hart (R45) -/

theorem State.once_new {s : State} {k : HartId} (h : (s.hart k).redo = []) (num : Nat) (f : State → Nat × State) :
    s.once k num f = ((f s).1, (f s).2.noteDone k num (f s).1) := by
  rw [State.once, h]
theorem State.once_again {s : State} {k : HartId} {v : Nat} {r : List Nat} (h : (s.hart k).redo = v :: r) (num : Nat)
    (f : State → Nat × State) : s.once k num f = (v, s.modHart k fun x => { x with redo := r }) := by
  rw [State.once, h]

/-! ### Stores (R179, R180) -/

theorem LdSt.bytes_le (q : LdSt) : LdSt.bytes q ≤ 8 := by
  have hs : q.size.val ≤ 3 := by omega
  calc 2 ^ q.size.val ≤ 2 ^ 3 := Nat.pow_le_pow_right (by decide) hs
    _ = 8 := by decide
theorem State.ticketCheck_ea {s : State} {t : Tick} (h : s.ticketCheck t = none) (ea : Word) : s.ticketCheck t ea = none := by
  simp only [State.ticketCheck] at h ⊢
  split at h
  · cases h
  · next hn => exact if_neg hn
/-- With no choice given, a scalar store goes to its home, after those that the hart has on their way. -/
theorem State.scalarWrite_home {s : State} (hch : s.choices = []) (l : Loc) (bs : List Byte) (acq : Bool) :
    s.scalarWrite l bs acq =
      (s.modMe fun x => x.cachePut l bs).release.writeHome s.myGang.p s.myGang.job l bs := by
  have hchoose : (s.modMe fun x => x.cachePut l bs).choose = (0, s.modMe fun x => x.cachePut l bs) :=
    State.choose_none hch
  simp only [State.scalarWrite, hchoose]
  split <;> rfl

/-- A generic store that passes its checks. -/
theorem execSt_generic {s : State} {q : LdSt} {d a : GOp} {l : Loc} {pin : Pin} (hc : s.calm) (hg : q.sp = false)
    (ht : s.ticketCheck q.t = none) (hr : s.reaches .write (LdSt.ea q (s.rg a)) (LdSt.bytes q) l pin) :
    exec (.st q d a) s = if q.t = .no then stPlain q d (LdSt.ea q (s.rg a)) l (LdSt.bytes q) s
      else stTicket q d (LdSt.ea q (s.rg a)) l pin (LdSt.bytes q) s := by
  simp only [exec_st, execSt, hg, stGen, State.ticketCheck_ea ht, State.genCheck_ok hc.1 hr, Bool.false_eq_true, if_false]

/-- The hart after its instruction has retired. -/
theorem State.me_retired_eq {s : State} (hl : s.live) : s.retired.me =
    if s.atS = true then { s.me with sup := { s.me.sup with pc := s.pcv + 8, wait := none } }
    else s.me.retire (s.pcv + 8) := by
  unfold State.retired
  cases hs : s.atS
  · rw [State.goto_user hs, State.me_modMe hl]; rfl
  · rw [State.goto_sup hs, State.me_modSup hl]; rfl

/-- The store of the low bytes of a register was performed at its place, and its hart is about to retire. -/
structure Stored (eg : Gang → Gang) (s v : State) (l : Loc) (bs : List Byte) : Prop where
  moved : Moved Hart.sansCache hideNone eg State.sansBytes s v (putAt s.byteAt l bs)
  io : l.kind = .io → v.out = s.out ++ [.ioWrite l.pa bs]

section
variable {s : State} (hl : s.live) (hw : s.memWf) (hc : s.calm) (hd : s.myGang.diverged = false)
include hl hw hc hd

/-- A store that takes no ticket is performed when it issues (R179). -/
theorem stPlain_stores {q : LdSt} {d : GOp} {ea : Word} {l : Loc} {n : Nat} (hn : n < 128)
    (hr : s.writeRefused l n = false) (hwait : s.waitsOwn false (releases q.ord) [(l, n)] = false) :
    ∃ v, stPlain q d ea l n s = .next v.retired ∧ Stored hideNone s v l (bytesOfNat n (s.rg d).toNat) := by
  have hlen : (bytesOfNat n (s.rg d).toNat).length = n := length_bytesOfNat _ _
  generalize hu : (if releases q.ord = true then s.release else s) = u
  have hsu : s.Alike u := hu ▸ State.Alike.of_release_if hc.2 _
  generalize hx : u.modMe (fun x => x.cachePut l (bytesOfNat n (s.rg d).toNat)) = x
  have hxst : x.me.stores = [] := by
    rw [← hx, State.me_modMe (hsu.live hl)]
    show u.me.stores = []
    rw [hsu.me, hc.2]
  have hxu : x.release.writeRefused l n = false := by
    rw [(State.Alike.of_release hxst).writeRefused, ← hx]
    exact (hsu.writeRefused l n).trans hr
  have hmoved : Moved Hart.sansCache hideNone hideNone State.sansBytes s x.release s.byteAt := by
    refine Moved.alike ?_ (State.Alike.of_release hxst)
    rw [← hx]
    exact ((Moved.refl hl).alike hsu).cachePut l _
  have hxw : x.release.memWf := (State.Alike.of_release hxst).memWf (by rw [← hx]; exact hsu.memWf hw)
  refine ⟨_, ?_, ((hmoved.writeHome hxw (by rw [hlen]; exact hxu) (by omega) u.myGang.p u.myGang.job).acquire_if
    (acquires q.ord)), fun hio => ?_⟩
  · simp only [stPlain, hwait, Bool.false_eq_true, if_false, State.pair_eq hd, hu, hsu.rg,
      State.scalarWrite_home (hsu.choices.trans hc.1), hx]
    rfl
  · rw [State.acquire_if_out, State.writeHome_out_io hio, (State.Alike.of_release hxst).out, ← hx]
    exact congrArg (· ++ [_]) hsu.out

/-- A ticket-ordered store whose hart has the right, with nothing waiting before it (R180). -/
theorem stTicket_stores {q : LdSt} {d : GOp} {ea : Word} {l : Loc} {pin : Pin} {n : Nat} (hn : n < 128)
    (hr : s.writeRefused l n = false) (hdir : s.direct (q.t == .tt) = true) (hredo : s.me.redo = []) :
    ∃ v, stTicket q d ea l pin n s = .next v.retired ∧ Stored Gang.sansLog s v l (bytesOfNat n (s.rg d).toNat) := by
  have hlen : (bytesOfNat n (s.rg d).toNat).length = n := length_bytesOfNat _ _
  generalize hu : (if releases q.ord = true then s.release else s).drain (if releases q.ord = true then s.release else s).cur = u
  have hsu : s.Alike u := hu ▸ State.Alike.of_release_if_drain hc.2 _
  obtain ⟨hflush, hudir⟩ := hsu.direct hdir
  have huredo : (u.hart u.cur).redo = [] := by
    show u.me.redo = []
    rw [hsu.me, hredo]
  have hmoved := ((Moved.refl hl).alike hsu).writeHome (eh := Hart.sansCache) (eo := hideNone) (eg := Gang.sansLog)
    (l := l) (bs := bytesOfNat n (s.rg d).toNat) (hsu.memWf hw) (by rw [hlen, hsu.writeRefused, hr]) (by omega) u.myGang.p u.myGang.job
  have hnoted := hmoved.noteDone u.cur (by rw [State.writeHome_cur]) u.nextEntry 0
  generalize hv : (u.writeHome u.myGang.p u.myGang.job l (bytesOfNat n (s.rg d).toNat)).noteDone u.cur u.nextEntry 0 = v at hnoted
  refine ⟨_, ?_, ((hnoted.cachePut l (v.readHome l n)).acquire_if (acquires q.ord)), fun hio => ?_⟩
  · simp only [stTicket, State.pair_eq hd, hu, hflush, hudir, if_true, State.once_new huredo, hv]
    rfl
  · rw [State.acquire_if_out, State.modMe_out, ← hv]
    exact (State.writeHome_out_io hio _ _ _).trans (congrArg (· ++ [_]) hsu.out)

omit hw in
/-- An ordered store that its hart had performed before it was restored (R45). -/
theorem stTicket_again {q : LdSt} {d : GOp} {ea : Word} {l : Loc} {pin : Pin} {n : Nat}
    (hdir : s.direct (q.t == .tt) = true) {v : Nat} {r : List Nat} (hredo : s.me.redo = v :: r) :
    ∃ t, stTicket q d ea l pin n s = .next t ∧ t.me.redo = r ∧
      StepBut (fun h => { h.sansCache with redo := [] }) hideNone hideNone hideNone s t s.byteAt := by
  generalize hu : (if releases q.ord = true then s.release else s).drain (if releases q.ord = true then s.release else s).cur = u
  have hsu : s.Alike u := hu ▸ State.Alike.of_release_if_drain hc.2 _
  obtain ⟨hflush, hudir⟩ := hsu.direct hdir
  have huredo : (u.hart u.cur).redo = v :: r := by
    show u.me.redo = _
    rw [hsu.me, hredo]
  generalize hF : (fun x => if acquires q.ord = true then { x with cache := [] } else x) ∘
    (fun x => x.cachePut l (u.readHome l n)) ∘ (fun x : Hart => { x with redo := r }) = F
  have hkeep (x : Hart) : F x = { x with cache := (F x).cache, redo := r } := by
    rw [← hF]; simp only [Function.comp]; split <;> rfl
  have hmoved : Moved (fun h => { h.sansCache with redo := [] }) hideNone hideNone hideNone s (u.modMe F) s.byteAt :=
    ((Moved.refl hl).alike hsu).modMe F (fun x b => by rw [hkeep]; cases b <;> rfl) (fun x => by rw [hkeep])
      (fun x => by rw [hkeep]) (fun x => by rw [hkeep]) (fun x => by rw [hkeep]) (fun x => by rw [hkeep])
      (fun x => by rw [hkeep])
  refine ⟨(u.modMe F).retired, ?_, ?_, hmoved.retire⟩
  · simp only [stTicket, State.pair_eq hd, hu, hflush, hudir, if_true, State.once_again huredo, State.acquire_if, ← hF]
    rw [← State.modMe_modMe, ← State.modMe_modMe]
    rfl
  · rw [State.me_retired_eq hmoved.same.live, State.me_modMe (hsu.live hl), hkeep]
    split <;> rfl
end

/-! ### Scratchpad stores (R113, R179) -/

theorem mem_spClear {ws : List Nat} {a n w : Nat} :
    w ∈ spClear ws a n ↔ w ∈ ws ∧ ¬ (a ≤ 4 * w ∧ 4 * w + 4 ≤ a + n) := by
  simp only [spClear, List.mem_filter, Bool.not_eq_true', Bool.and_eq_false_iff, decide_eq_false_iff_not,
    not_and_or, Nat.mul_comm w 4]

/-- A write of the scratchpad of the running hart's gang. -/
theorem Moved.spWrite {eh eo : Hart → Hart} {es : State → State} {s u : State} {mem : Loc → Byte}
    (h : Moved eh eo Gang.sansSp es s u mem) (a : Nat) (bs : List Byte) :
    Moved eh eo Gang.sansSp es s (u.spWrite u.cur.gang a bs) mem :=
  h.modMyGang (fun _ => rfl) (fun _ => rfl) fun _ => rfl
theorem State.myGang_spWrite {u : State} (hl : u.live) (a : Nat) (bs : List Byte) : (u.spWrite u.cur.gang a bs).myGang =
    { u.myGang with sp := Mem.write u.myGang.sp a bs, spPoison := spClear u.myGang.spPoison a bs.length } :=
  State.myGang_modGang hl _ fun _ => rfl
/-- A scratchpad store that meets its conditions. -/
theorem execSt_scratchpad {s : State} {q : LdSt} {d a : GOp} {k : SpPlace} (hst : s.me.stores = [])
    (hg : q.sp = true) (hd : s.myGang.diverged = false)
    (hk : s.myGang.spCheck .write (LdSt.ea q (s.rg a)) (LdSt.bytes q) = .ok k) (hs : s.myGang.spStall true k = none)
    (hw : s.waitsOwn false (releases q.ord) [] = false) :
    ∃ u v, s.Alike u ∧ v = u.spWrite u.cur.gang (s.myGang.spMap k) (bytesOfNat (LdSt.bytes q) (s.rg d).toNat) ∧
      exec (.st q d a) s = (if acquires q.ord = true then v.acquire else v).retire := by
  have ha := State.Alike.of_release_if hst (releases q.ord)
  refine ⟨_, _, ha, rfl, ?_⟩
  simp only [exec_st, execSt, stSp, hg, hk, hs, hw, State.pair_eq hd, ha.myGang, ha.rg, Bool.false_eq_true, if_false, if_true]

/-- A step that leaves the gang alone leaves its scratchpad. -/
theorem StepBut.sp_eq {eh eo : Hart → Hart} {es : State → State} {s t : State} {mem : Loc → Byte}
    (h : StepBut eh eo hideNone es s t mem) :
    t.myGang.sp = s.myGang.sp ∧ t.myGang.spPoison = s.myGang.spPoison := by
  have hsp := congrArg Gang.sp h.frame.gang
  have hpoison := congrArg Gang.spPoison h.frame.gang
  exact ⟨hsp, hpoison⟩

/-- Settles O17: a store is one write at its place, with a ticket or without, and one of the scratchpad a write there. -/
theorem storesWriteTheirBytesOnly : Obligations.StoresWriteTheirBytesOnly := by
  unfold Obligations.StoresWriteTheirBytesOnly
  constructor
  · intro s q d a l pin hl hw hc hg ht hd hcond hr
    have hn : LdSt.bytes q < 128 := Nat.lt_of_le_of_lt (LdSt.bytes_le q) (by decide)
    rw [execSt_generic hc hg ht hr]
    constructor
    · intro hredo href
      obtain ⟨v, he, hv⟩ : ∃ v, (if q.t = .no then stPlain q d (LdSt.ea q (s.rg a)) l (LdSt.bytes q) s
          else stTicket q d (LdSt.ea q (s.rg a)) l pin (LdSt.bytes q) s) = .next v.retired ∧
          Stored Gang.sansLog s v l (bytesOfNat (LdSt.bytes q) (s.rg d).toNat) := by
        rcases hcond with ⟨hno, hwait⟩ | ⟨hno, hdir⟩
        · rw [if_pos hno]
          obtain ⟨v, he, hm, hio⟩ := stPlain_stores hl hw hc hd hn href hwait
          exact ⟨v, he, hm.weaken (fun _ _ e => e) (fun _ _ e => e) (fun _ _ e => congrArg Gang.sansLog e) (fun _ _ e => e), hio⟩
        · rw [if_neg hno]
          exact stTicket_stores hl hw hc hd hn href hdir (hredo.resolve_left hno)
      refine ⟨_, he, ?_, fun k => ?_, fun hio => (State.retired_out v).trans (hv.io hio)⟩
      · exact (hv.moved.weaken (fun _ _ e => e) (fun _ _ e => e) (fun _ _ e => e)
          fun _ _ e => State.sansMem_of_sansBytes e).retire
      · exact State.poisonOf_of_sansBytes (s := { v.retired with gangs := [] }) (t := { s with gangs := [] })
          hv.moved.retire.frame.device k
    · intro v r hno hredo
      rw [if_neg hno]
      obtain ⟨-, hdir⟩ := hcond.resolve_left fun h => hno h.1
      exact stTicket_again hl hc hd hdir hredo
  · intro s q d a k hl hst hw hg hd hk hstall hwait
    obtain ⟨u, v, hu, hv, he⟩ := execSt_scratchpad (d := d) hst hg hd hk hstall hwait
    have hmoved : Moved Hart.sansCache hideNone Gang.sansSp hideNone s v s.byteAt := by
      rw [hv]; exact ((Moved.refl hl).alike hu).spWrite _ _
    obtain ⟨hcontents, hpoison⟩ := ((Moved.refl (eh := Hart.sansCache) (eo := hideNone) (eg := hideNone) (es := hideNone)
      hmoved.same.live).acquire_if (acquires q.ord)).retire.sp_eq
    have hgang := State.myGang_spWrite (hu.live hl) (s.myGang.spMap k) (bytesOfNat (LdSt.bytes q) (s.rg d).toNat)
    rw [← hv, hu.myGang] at hgang
    refine ⟨_, he, (hmoved.acquire_if _).retire, fun w => ?_, fun x => ?_⟩
    · rw [hpoison, hgang, mem_spClear, length_bytesOfNat]; rfl
    · rw [hcontents, hgang, Mem.get_write hw]; rfl

end Sys2Proof.Machine
end

section
/-!
SUPPORT. Atomics that are performed as they issue, for O18.
-/

namespace Sys2Proof.Machine

/-! ### Several registers written before retirement -/

/-- The scalar registers that `val` names were written, and nothing else. -/
structure RegsWritten (s t : State) (val : Fin 32 → Option Word) : Prop where
  live : t.live
  cur : t.cur = s.cur
  level : t.atS = s.atS
  pc : t.pcv = s.pcv
  flags : t.me.fcsr = s.me.fcsr
  dest : ∀ r, t.rg (some r) = (val r).getD (s.rg (some r))
  frame : Frame (fun h => h.sansG s.atS) hideNone hideNone hideNone s t
  memory : ∀ l, t.byteAt l = s.byteAt l

theorem RegsWritten.refl {s : State} (hl : s.live) : RegsWritten s s fun _ => none :=
  ⟨hl, rfl, rfl, rfl, rfl, fun _ => rfl, Frame.refl _ _ _ _ s, fun _ => rfl⟩
theorem RegsWritten.wg {s : State} (hl : s.live) (d : GOp) (v : Word) : RegsWritten s (s.wg d v) (oneReg d v) := by
  have ha := State.atS_wg hl d v
  cases d with
  | none => exact RegsWritten.refl hl
  | some q =>
    have hdest (u : Vector Word 32) (r : Fin 32) : (vput u q v)[r] = (oneReg (some q) v r).getD u[r] := by
      rw [vput_getElem]
      by_cases hq : q = r <;> simp [oneReg, hq]
    cases hs : s.atS
    · have hme : (s.wg (some q) v).me =
          { s.me with g := vput s.me.g q v, fillG := s.me.fillG.filter fun p => p.1 ≠ q } := by
        rw [State.wg_user hs, State.me_modMe hl]
      refine ⟨State.live_wg hl _ v, ?_, ha, State.pcv_wg hl _ v, by rw [hme], fun r => ?_, ?_, fun l => ?_⟩
      · rw [State.wg_user hs]; rfl
      · rw [State.rg, State.rg]; simp only [ha, hs]; rw [hme]; exact hdest _ r
      · rw [State.wg_user hs]; exact Frame.of_modMe hl (by rw [hs]; rfl)
      · rw [State.wg_user hs]; exact State.byteAt_modMe _ _ l
    · have hme : (s.wg (some q) v).me = { s.me with sup := { s.me.sup with g := vput s.me.sup.g q v } } := by
        rw [State.wg_sup hs, State.me_modSup hl]
      refine ⟨State.live_wg hl _ v, ?_, ha, State.pcv_wg hl _ v, by rw [hme], fun r => ?_, ?_, fun l => ?_⟩
      · rw [State.wg_sup hs]; rfl
      · rw [State.rg, State.rg]; simp only [ha, hs]; rw [hme]; exact hdest _ r
      · rw [State.wg_sup hs]; exact Frame.of_modMe hl (by rw [hs]; rfl)
      · rw [State.wg_sup hs]; exact State.byteAt_modMe _ _ l
theorem RegsWritten.trans {s t u : State} {val val' : Fin 32 → Option Word} (h : RegsWritten s t val)
    (k : RegsWritten t u val') : RegsWritten s u fun r => (val' r).or (val r) := by
  refine ⟨k.live, k.cur.trans h.cur, k.level.trans h.level, k.pc.trans h.pc, k.flags.trans h.flags, fun r => ?_, ?_,
    fun l => (k.memory l).trans (h.memory l)⟩
  · rw [k.dest, h.dest]; cases val' r <;> rfl
  · have hk := k.frame
    rw [h.level] at hk
    exact h.frame.trans hk h.cur h.level

/-- The old value of an atomic reaches its destination, or its pair (R181, R182). -/
theorem RegsWritten.wgWide {s : State} (hl : s.live) (n : Nat) (sx : Bool) (d : GOp) (old : Nat) :
    RegsWritten s (s.wgWide n sx d old) (oldInto n sx d old) := by
  cases d with
  | none =>
    have hnone : s.wgWide n sx none old = s := by unfold State.wgWide; split <;> rfl
    rw [hnone]; exact RegsWritten.refl hl
  | some k =>
    by_cases hn : n = 16
    · have h := RegsWritten.wg hl (some k) (word old)
      have hwide : s.wgWide n sx (some k) old = (s.wg (some k) (word old)).wg (some (k + 1)) (word (old / 2 ^ 64)) := by
        unfold State.wgWide; rw [if_pos hn]
      have hval : oldInto n sx (some k) old =
          fun r => (oneReg (some (k + 1)) (word (old / 2 ^ 64)) r).or (oneReg (some k) (word old) r) := by
        funext r
        by_cases h1 : r = k + 1
        · subst h1; simp [oldInto, oneReg, hn]
        · by_cases h2 : r = k
          · subst h2; simp [oldInto, oneReg, hn, h1, Ne.symm h1]
          · simp [oldInto, oneReg, hn, h1, h2, Ne.symm h1, Ne.symm h2]
      rw [hwide, hval]
      exact h.trans (RegsWritten.wg h.live _ _)
    · have hone : s.wgWide n sx (some k) old = s.wg (some k) (returned n sx old) := by
        unfold State.wgWide; rw [if_neg hn]
      have hval : oldInto n sx (some k) old = oneReg (some k) (returned n sx old) := by
        funext r
        by_cases h1 : r = k
        · subst h1; simp [oldInto, oneReg, hn, returned]
        · simp [oldInto, oneReg, hn, h1, Ne.symm h1]
      rw [hone, hval]
      exact RegsWritten.wg hl _ _

/-- Registers written after a change so far, then retirement. -/
theorem Moved.retire_regs {eh eo : Hart → Hart} {eg : Gang → Gang} {es : State → State} {s u v : State}
    {mem : Loc → Byte} {val : Fin 32 → Option Word} (h : Moved eh eo eg es s u mem) (k : RegsWritten u v val)
    (hcm : ∀ (b : Bool) x y, eh x = eh y → eh (x.sansG b) = eh (y.sansG b)) :
    RegsStep eh eo eg es s v.retired val 0 (s.pcv + 8) mem := by
  have hret : RegStep v v.retired none 0 0 (v.pcv + 8) := by
    obtain ⟨t, he, ht⟩ := RegStep.of_retire k.live none 0
    have : v.retired = t := by injection he
    rwa [this]
  have hu := h.same
  have hlevel : v.atS = s.atS := k.level.trans hu.atS
  have hframe : Frame (fun x => x.sansG s.atS) hideNone hideNone hideNone u v.retired := by
    have h1 := k.frame
    have h2 := hret.frame
    rw [hu.atS] at h1
    rw [hlevel] at h2
    exact h1.trans h2 k.cur k.level
  refine ⟨fun r => ?_, ?_, fun hs => hret.ei (hlevel.trans hs), ?_, hret.level.trans hlevel, ?_, fun l => ?_⟩
  · rw [hret.dest, k.dest, hu.rg]; rfl
  · rw [hret.pc, k.pc, hu.pcv]
  · rw [hret.flags, hlevel, k.flags, hu.fcsr]
  · exact Frame.trans (h.frame.weaken (hcm s.atS) (fun _ _ e => e) (fun _ _ e => e) (fun _ _ e => e))
      (hframe.weaken (fun _ _ e => congrArg eh e) (fun _ _ e => congrArg eo e) (fun _ _ e => congrArg eg e)
        fun _ _ e => congrArg es e) hu.cur hu.atS
  · rw [hret.memory, k.memory, h.memory]

/-! ### The values of Table 8-6 -/

theorem signed_eq_signedOf {n : Nat} (hn : 0 < n) (v : Nat) : signed (8 * n) v = signedOf n v := by
  obtain ⟨k, hk⟩ : ∃ k, 8 * n = k + 1 := ⟨8 * n - 1, by omega⟩
  unfold signed signedOf
  rw [BitVec.toInt_eq_toNat_cond, BitVec.toNat_ofNat, hk, Nat.add_sub_cancel]
  have hpow : 2 ^ (k + 1) = 2 * 2 ^ k := by ring
  split <;> split <;> omega
theorem AmoOp.apply_eq_amoValue {n : Nat} (hn : 0 < n) (op : AmoOp) (old x : Nat) :
    AmoOp.apply op n old x = amoValue op n old x := by
  cases op with
  | min | max => simp only [AmoOp.apply, amoValue, signed_eq_signedOf hn]
  | minu => exact Nat.min_def
  | maxu => exact (Nat.max_comm old x).trans Nat.max_def
  | add | and | or | xor | swap => rfl
  | fadd | fmin | fmax => rfl

/-! ### Atomics (R181 to R183) -/

/-- What an atomic writes over an old value is what its table says. -/
theorem AtomOp.next_eq {s : State} {i : Instr} {op : Nat} {x : MemX} {n : Nat} {d : GOp} {ea : Word} {ok : PageKind → Bool}
    {f : Nat → Option Nat} {o : OrdOp} (h : AtomOp s i op x n d ea ok f o) :
    o.reads = true ∧ 0 < n ∧ n ≤ 16 ∧ ∀ old, o.next n old = f old := by
  have hn : 0 < n ∧ n ≤ 16 := by cases h <;> (cases x.sz <;> decide)
  cases h with
  | amo => exact ⟨rfl, hn.1, hn.2, fun old => congrArg some (AmoOp.apply_eq_amoValue hn.1 _ _ _)⟩
  | cas => exact ⟨rfl, hn.1, hn.2, fun _ => rfl⟩

/-- A memory after an operation that writes `v?` at a place. -/
def writtenOver (mem : Loc → Byte) (l : Loc) (n : Nat) (v? : Option Nat) : Loc → Byte :=
  match v? with
  | some v => putAt mem l (bytesOfNat n v)
  | none => mem

theorem State.performElem_reads {s : State} {x : OrdElem} (h : x.op.reads = true) (p : Fin 3) (job : Nat) :
    s.performElem p job x = (natOfBytes (s.readHome x.loc x.n),
      match x.op.next x.n (natOfBytes (s.readHome x.loc x.n)) with
      | some v => (s.afterRead x.loc x.n).writeHome p job x.loc (bytesOfNat x.n v)
      | none => s.afterRead x.loc x.n) := by
  unfold State.performElem
  split
  · next hop => rw [hop] at h; cases h
  · dsimp only; split <;> simp only [*]

/-- A read does not change which writes are refused. -/
theorem State.writeRefused_afterRead (s : State) (l m : Loc) (n k : Nat) :
    (s.afterRead l n).writeRefused m k = s.writeRefused m k := by
  have herr (a : Nat) (b : Nat) : (s.hostErr.filter fun e => e.1 || !(decide (l.pa ≤ e.2) && decide (e.2 < l.pa + n))).any
      (fun e => e.1 && decide (a ≤ e.2) && decide (e.2 < b)) = s.hostErr.any fun e => e.1 && decide (a ≤ e.2) && decide (e.2 < b) := by
    rw [List.any_filter]
    congr 1
    funext e
    cases e.1 <;> simp
  obtain ⟨mk, mp⟩ := m
  unfold State.afterRead
  split
  · rfl
  · rfl
  · rfl
  · cases mk with
    | dev | twin | io => rfl
    | hostc | hostn => exact herr _ _

theorem Moved.performElem {eh eo : Hart → Hart} {eg : Gang → Gang} {s u : State} {mem : Loc → Byte}
    (h : Moved eh eo eg State.sansBytes s u mem) (hw : u.memWf) {x : OrdElem} (hx : x.op.reads = true) (hn : x.n < 128)
    (hr : u.writeRefused x.loc x.n = false) (p : Fin 3) (job : Nat) :
    Moved eh eo eg State.sansBytes s (u.performElem p job x).2
      (writtenOver mem x.loc x.n (x.op.next x.n (natOfBytes (u.readHome x.loc x.n)))) := by
  have hread : Moved eh eo eg State.sansBytes s (u.afterRead x.loc x.n) mem := by
    refine h.device (State.afterRead_gangs _ _ _) (State.afterRead_cur _ _ _) ?_ fun m => ?_
    · exact congrArg (fun y : State => { y with gangs := [] }) (State.sansBytes_of_sansReads (State.afterRead_sans u _ _))
    · rw [State.afterRead_byteAt, h.memory]
  rw [State.performElem_reads hx]
  cases x.op.next x.n (natOfBytes (u.readHome x.loc x.n)) with
  | none => exact hread
  | some v =>
    have hlen : (bytesOfNat x.n v).length = x.n := length_bytesOfNat _ _
    exact hread.writeHome (State.memWf_afterRead hw _ _) (by rw [hlen, State.writeRefused_afterRead, hr]) (by omega) p job

section
variable {s : State} {op : Nat} {x : MemX} {n : Nat} {d : GOp} {ea : Word} {o : OrdOp} {l : Loc} {pin : Pin}
  (hl : s.live) (hw : s.memWf) (hc : s.calm) (hd : s.myGang.diverged = false) (ho : o.reads = true) (hn : n < 128)
  (hp : s.readPoison l n = false) (hr : s.writeRefused l n = false)
include hl hw hc hd ho hn hp hr

/-- An atomic that may be performed as it issues: one read-modify-write at its place, whose old value it then writes to its
destination. -/
theorem atomAt_performs (hcond : x.t = .no ∧ s.waitsOwn false (releases x.ord) [(l, n)] = false ∨
      x.t ≠ .no ∧ s.direct (x.t == .tt) = true ∧ s.me.redo = []) :
    ∃ v, atomAt op x n ea o d l pin s = ((v.wgWide n x.sx d (natOfBytes (s.readHome l n))).retire) ∧
      Moved Hart.sansCache hideNone Gang.sansLog State.sansBytes s v
        (writtenOver s.byteAt l n (o.next n (natOfBytes (s.readHome l n)))) := by
  generalize hu : s.drain s.cur = u
  have hsu : s.Alike u := hu ▸ State.Alike.of_drain hc.2
  have hpoison : u.elemPoison { e := 0, loc := l, n := n, op := o } = false := by
    simp only [State.elemPoison, ho, if_true]
    rw [hsu.readPoison, hp]
  have hperf := ((Moved.refl (eh := Hart.sansCache) (eo := hideNone) (eg := Gang.sansLog) (es := State.sansBytes) hl).alike
    hsu).performElem (hsu.memWf hw) (x := { e := 0, loc := l, n := n, op := o }) ho hn
      (by rw [hsu.writeRefused, hr]) u.myGang.p u.myGang.job
  have hval : (u.performElem u.myGang.p u.myGang.job { e := 0, loc := l, n := n, op := o }).1 = natOfBytes (s.readHome l n) := by
    rw [State.performElem_reads ho]; exact congrArg natOfBytes (hsu.readHome l n)
  simp only [hsu.readHome] at hperf
  generalize hv : (u.performElem u.myGang.p u.myGang.job { e := 0, loc := l, n := n, op := o }).2 = v at hperf
  rcases hcond with ⟨hno, hwait⟩ | ⟨hno, hdir, hredo⟩
  · refine ⟨_, ?_, (hperf.cachePut l (v.readHome l n)).acquire_if (acquires x.ord)⟩
    simp only [atomAt, hno, hwait, Bool.false_eq_true, and_false, if_false, State.pair_eq hd, hu, true_or, if_true, hpoison,
      hval, hv]
  · obtain ⟨hflush, hudir⟩ := hsu.direct hdir
    have huredo : (u.hart u.cur).redo = [] := by
      show u.me.redo = []
      rw [hsu.me, hredo]
    have hcur : v.cur = u.cur := hperf.same.cur.trans hsu.cur.symm
    have hnoted := hperf.noteDone u.cur (by rw [hcur]) u.nextEntry (natOfBytes (s.readHome l n))
    generalize hz : v.noteDone u.cur u.nextEntry (natOfBytes (s.readHome l n)) = z at hnoted
    refine ⟨_, ?_, (hnoted.cachePut l (z.readHome l n)).acquire_if (acquires x.ord)⟩
    simp only [atomAt, hno, Bool.false_eq_true, false_and, and_false, if_false, State.pair_eq hd, hu, false_or, hflush, hudir,
      if_true, hpoison, State.once_new huredo, hval, hv, hz]
end

/-- A scalar atomic that passes its checks, on a page whose kind accepts it. -/
theorem AtomOp.exec_atomAt {s : State} {i : Instr} {op : Nat} {x : MemX} {n : Nat} {d : GOp} {ea : Word} {ok : PageKind → Bool}
    {f : Nat → Option Nat} {o : OrdOp} (h : AtomOp s i op x n d ea ok f o) (hc : s.calm) (ht : s.ticketCheck x.t = none)
    {l : Loc} {pin : Pin} (hr : s.reaches .write ea n l pin) :
    exec i s = if ok l.kind = true then atomAt op x n ea o d l pin s else s.raise op (memTrap .atomspace .write ea) := by
  obtain ⟨a, rfl, he⟩ := h.exec_eq
  rw [he]
  simp only [atomGen, State.ticketCheck_ea ht, State.genCheck_ok hc.1 hr]

/-- Settles O18: the atomic is performed at its home, with its old value in its destination. -/
theorem atomicsReadModifyWrite : Obligations.AtomicsReadModifyWrite := by
  unfold Obligations.AtomicsReadModifyWrite
  intro s i op x n d ea ok f o l pin h hl hw hc ht hcond hd hr hok hp href
  obtain ⟨ho, -, hn, hnext⟩ := h.next_eq
  obtain ⟨v, he, hv⟩ := atomAt_performs (op := op) (x := x) (d := d) (ea := ea) (pin := pin) hl hw hc hd ho
    (Nat.lt_of_le_of_lt hn (by decide)) hp href hcond
  refine ⟨_, ((h.exec_atomAt hc ht hr).trans (if_pos hok)).trans he, ?_⟩
  rw [hnext] at hv
  have hstep := (hv.weaken (fun _ _ e => e) (fun _ _ e => e) (fun _ _ e => e)
    fun _ _ e => State.sansMem_of_sansBytes e).retire_regs
      (RegsWritten.wgWide hv.same.live n x.sx d (natOfBytes (s.readHome l n))) sansG_congr
  cases hf : f (natOfBytes (s.readHome l n)) <;> rw [hf] at hstep <;> exact hstep

end Sys2Proof.Machine
end

section
/-!
SUPPORT. Scalar accesses that offend, for O20.
-/

namespace Sys2Proof.Machine

/-! ### Traps after reads -/

/-- A trap raised after reads shows them in what reads may change. -/
theorem State.raise_after_reads {s u : State} (h : u.sansReads = s.sansReads) (hl : s.live) (hu : s.atS = false)
    (hv : s.me.sup.svec ≠ 0) (op : Nat) (x : TrapInfo) (hop : op < 128) (hd : x.detail < 65536) (hs : x.src < 4)
    (he : x.ei < 128) :
    ∃ t, u.raise op x = .next t ∧ TrapEntryBut State.sansReads s t op x.c.code x.detail x.src s.me.pc x.ei x.addr := by
  have haside := State.aside.of_sansReads h
  have hme := haside.me
  obtain ⟨t, hnext, hentry⟩ := State.raise_user (State.live_of_gangs haside.gangs.symm haside.cur.symm hl)
    (by unfold State.atS at hu ⊢; rwa [hme]) (hme ▸ hv) op x hop hd hs he
  rw [hme] at hentry
  exact ⟨t, hnext, hentry.of_sansReads h⟩
theorem TrapEntryBut.of_alike {es : State → State} {s u t : State} {op cause detail src : Nat} {epc : Word} {ei : Nat}
    {addr : Word} (h : s.Alike u) (k : TrapEntryBut es u t op cause detail src epc ei addr) :
    TrapEntryBut es s t op cause detail src epc ei addr := by
  have hme := h.me
  refine { k with pc := hme ▸ k.pc, userPc := hme ▸ k.userPc, rest := fun hst => ?_ }
  obtain ⟨hmem, hframe⟩ := k.rest (hme ▸ hst)
  have halike : Frame Hart.sansEntry hideNone hideNone es s u := {
    me := by rw [hme]
    mates := fun r _ => by rw [h.myGang]
    gang := by rw [h.myGang]
    others := fun v _ => h.gang? v
    device := by rw [h.sansGangs] }
  exact ⟨fun l => (hmem l).trans (h.byteAt l), halike.trans hframe h.cur h.atS⟩

/-! ### Checks that fail (R179) -/

theorem State.genCheck_untranslated {s : State} {u : Use} {ea : Word} {c : Cause} (h : (s.translate u ea).1 = .error c)
    (n : Nat) : s.genCheck u ea n = (.error (memTrap c u ea), (s.translate u ea).2) := by
  unfold State.genCheck
  split
  · next heq => rw [heq] at h ⊢; cases h; rfl
  · next heq => rw [heq] at h; cases h
theorem State.genCheck_misaligned {s : State} (hch : s.choices = []) {u : Use} {ea : Word} {n : Nat} {q : Loc × Pin}
    (h : (s.translate u ea).1 = .ok q) (ha : ea.toNat % n ≠ 0) :
    s.genCheck u ea n = (.error (memTrap .misalign u ea), s) := by
  have hsnd := State.translate_snd hch h
  unfold State.genCheck
  split
  · next heq => rw [heq] at h; cases h
  · next heq => rw [heq] at hsnd; rw [if_pos ha]; exact congrArg _ hsnd

/-- A thread none of whose own operations is buffered waits for none. -/
theorem State.waitsOwn_of_none {s : State} {vec : Bool} (h : s.waitsOwn vec true [] = false) (rel : Bool)
    (ls : List (Loc × Nat)) : s.waitsOwn vec rel ls = false := by
  simp only [State.waitsOwn, Bool.and_eq_false_iff, List.any_eq_false, Bool.true_or, Bool.and_true] at h ⊢
  exact h.imp_right fun hnone e he hb => hnone e he (Bool.and_eq_true _ _ ▸ hb).1

section
variable {s : State} {i : Instr} {op n : Nat} {u : Use} {ea : Word}

/-- A scalar access whose check fails raises what the check says. -/
theorem ScalarAccess.exec_of_error (h : ScalarAccess s i op u ea n) {x : TrapInfo} {t : State}
    (he : s.genCheck u ea n = (.error x, t)) : exec i s = t.raise op x := by
  cases h with
  | ld q d a hq => simp only [exec_ld, execLd, hq, ldGen, he, Bool.false_eq_true, if_false]
  | st q d a hq ht => simp only [exec_st, execSt, hq, stGen, State.ticketCheck_ea ht, he, Bool.false_eq_true, if_false]
  | amo o x d a b ht => simp only [exec_amo, execAmo, atomGen, State.ticketCheck_ea ht, he]
  | cas x d a b c ht => simp only [exec_cas, execCas, atomGen, State.ticketCheck_ea ht, he]
/-- A load that meets poison at its place has read it. -/
theorem ScalarAccess.exec_of_poison (h : ScalarAccess s i op .read ea n) (hch : s.choices = []) {l : Loc} {pin : Pin}
    (hr : s.reaches .read ea n l pin) (hw : s.waitsOwn false true [] = false) (hp : s.readPoison l n = true) :
    exec i s = (s.afterPoison l n).raise op (memTrap .poison .read ea) := by
  cases h with
  | ld q d a hq =>
    have hwait := State.waitsOwn_of_none hw (releases q.ord) [(l, LdSt.bytes q)]
    simp only [exec_ld, execLd, hq, ldGen, State.genCheck_ok hch hr, hwait, hp, Bool.false_eq_true, if_false, if_true]
theorem ScalarAccess.bounds (h : ScalarAccess s i op u ea n) : op < 128 ∧ u.detail = if u = .write then 1 else 0 := by
  cases h <;> exact ⟨by decide, rfl⟩

/-- An access that offends raises its cause, with nothing done but reads where it met poison. -/
theorem ScalarAccess.traps (h : ScalarAccess s i op u ea n) {c : Cause} (hb : BadAccess s u ea n c) (hl : s.live)
    (hch : s.choices = []) (hu : s.atS = false) (hv : s.me.sup.svec ≠ 0) :
    ∃ t, exec i s = .next t ∧
      TrapEntryBut (if c = .poison then State.sansReads else hideNone) s t op c.code (if u = .write then 1 else 0) 0 s.me.pc
        0 ea := by
  obtain ⟨hop, hdetail⟩ := h.bounds
  have hdlt : u.detail < 65536 := by cases u <;> decide
  rw [← hdetail]
  have hplain := State.raise_user hl hu hv op (memTrap c u ea) hop hdlt (Nat.zero_lt_succ _) (Nat.zero_lt_succ _)
  have hread {t : State} (ht : t.sansReads = s.sansReads) := State.raise_after_reads ht hl hu hv op (memTrap c u ea) hop hdlt
    (Nat.zero_lt_succ _) (Nat.zero_lt_succ _)
  cases hb with
  | translation _ he =>
    obtain ⟨hreads, hsame⟩ := State.translate_error hch he
    rw [h.exec_of_error (State.genCheck_untranslated he n)]
    by_cases hc : c = .poison
    · rw [if_pos hc]; exact hread hreads
    · rw [if_neg hc, hsame hc]; exact hplain
  | alignment l hok ha =>
    rw [h.exec_of_error (State.genCheck_misaligned hch hok ha)]
    exact hplain
  | poison l pin hr hru hw hp =>
    subst hru
    rw [h.exec_of_poison hch hr hw hp]
    exact hread (State.afterPoison_sans s l n)
end

/-! ### Atomics that offend (R181) -/

/-- An atomic that meets poison where it would be performed has read it. -/
theorem atomAt_poisoned {s : State} {op : Nat} {x : MemX} {n : Nat} {d : GOp} {ea : Word} {o : OrdOp} {l : Loc} {pin : Pin}
    (hst : s.me.stores = []) (hd : s.myGang.diverged = false) (ho : o.reads = true) (hp : s.readPoison l n = true)
    (hcond : x.t = .no ∧ s.waitsOwn false (releases x.ord) [(l, n)] = false ∨
      x.t ≠ .no ∧ s.direct (x.t == .tt) = true ∧ s.me.redo = []) :
    ∃ u, s.Alike u ∧ atomAt op x n ea o d l pin s = (u.afterPoison l n).raise op (memTrap .poison .write ea) := by
  generalize hu : s.drain s.cur = u
  have hsu : s.Alike u := hu ▸ State.Alike.of_drain hst
  have hpoison : u.elemPoison { e := 0, loc := l, n := n, op := o } = true := by
    simp only [State.elemPoison, ho, if_true]
    rw [hsu.readPoison, hp]
  refine ⟨u, hsu, ?_⟩
  rcases hcond with ⟨hno, hwait⟩ | ⟨hno, hdir, hredo⟩
  · simp only [atomAt, hno, hwait, Bool.false_eq_true, and_false, if_false, State.pair_eq hd, hu, true_or, if_true, hpoison,
      and_self]
  · obtain ⟨hflush, hudir⟩ := hsu.direct hdir
    have huredo : u.me.redo.isEmpty = true := by rw [hsu.me, hredo]; rfl
    simp only [atomAt, hno, false_and, if_false, State.pair_eq hd, hu, false_or, hflush, hudir, if_true,
      hpoison, huredo, and_self]

/-- Settles O20: the check that fails first gives the cause; an atomic then looks at the kind of its page, and at poison. -/
theorem badScalarAccessesTrap : Obligations.BadScalarAccessesTrap := by
  unfold Obligations.BadScalarAccessesTrap
  constructor
  · intro s i op n u ea c h hl hc hu hv hb
    exact h.traps hb hl hc.1 hu hv
  · intro s i op x n d ea ok f o l pin h hl hc hu hv ht hr
    have hop : op < 128 := by cases h <;> decide
    constructor
    · intro hok
      rw [h.exec_atomAt hc ht hr, if_neg (by rw [hok]; decide)]
      exact State.raise_user hl hu hv op _ hop (show 1 < 65536 by decide) (Nat.zero_lt_succ _) (Nat.zero_lt_succ _)
    · intro hok hd hcond hp
      rw [h.exec_atomAt hc ht hr, if_pos hok]
      obtain ⟨u, hsu, he⟩ := atomAt_poisoned (op := op) (d := d) (ea := ea) (pin := pin) hc.2 hd h.next_eq.1 hp hcond
      obtain ⟨t, hnext, hentry⟩ := State.raise_after_reads (State.afterPoison_sans u l n) (hsu.live hl) (hsu.atS.trans hu)
        (by rw [hsu.me]; exact hv) op (memTrap .poison .write ea) hop (show 1 < 65536 by decide)
          (Nat.zero_lt_succ _) (Nat.zero_lt_succ _)
      rw [hsu.me] at hentry
      exact ⟨t, he.trans hnext, TrapEntryBut.of_alike hsu hentry⟩

end Sys2Proof.Machine
end

section
/-!
SUPPORT. Scratchpad locks, for O23.
-/

namespace Sys2Proof.Machine

/-! ### What stays over a step -/

theorem Frame.sp_eq {eh eo : Hart → Hart} {es : State → State} {s t : State} (h : Frame eh eo hideNone es s t) :
    t.myGang.sp = s.myGang.sp := by
  have hsp := congrArg Gang.sp h.gang
  exact hsp
/-- What a register write leaves of the hart, as far as locks go. -/
theorem RegStep.locks_eq {s t : State} {d : GOp} {v : Word} {fl : Flags} {pc : Word} (h : RegStep s t d v fl pc) :
    t.me.cache = s.me.cache ∧ t.me.locks = s.me.locks ∧ t.me.lockAddr = s.me.lockAddr ∧ t.me.sup.locks = s.me.sup.locks := by
  have hsans (b : Bool) (x : Hart) : ((x.sans b).sansG b).cache = x.cache ∧ ((x.sans b).sansG b).locks = x.locks ∧
      ((x.sans b).sansG b).lockAddr = x.lockAddr ∧ ((x.sans b).sansG b).sup.locks = x.sup.locks := by
    cases b <;> exact ⟨rfl, rfl, rfl, rfl⟩
  have hme : (t.me.sans s.atS).sansG s.atS = (s.me.sans s.atS).sansG s.atS := h.frame.me
  have ht := hsans s.atS t.me
  rw [hme] at ht
  obtain ⟨t1, t2, t3, t4⟩ := ht
  obtain ⟨s1, s2, s3, s4⟩ := hsans s.atS s.me
  exact ⟨t1.symm.trans s1, t2.symm.trans s2, t3.symm.trans s3, t4.symm.trans s4⟩

/-- A write of its scratchpad leaves the harts of the gang. -/
theorem State.me_spWrite {s : State} (hl : s.live) (a : Nat) (bs : List Byte) : (s.spWrite s.cur.gang a bs).me = s.me :=
  (State.me_modMyGang hl (f := fun g => { g with sp := Mem.write g.sp a bs, spPoison := spClear g.spPoison a bs.length })
    fun _ => rfl).trans (State.me_eq s).symm

/-! ### Lock words (R194, R195) -/

theorem State.lockOwn_eq (s : State) : s.lockOwn = (if s.atS then 17 else 1) + s.cur.rank.val := rfl
theorem State.lockCheck_none {s : State} {a : Word} (hr : a.toNat < s.myGang.spsize) (ha : a.toNat % 4 = 0)
    (hp : s.myGang.spPoisoned a.toNat 4 = false) : s.lockCheck a = none := by
  simp [State.lockCheck, Nat.not_le.mpr hr, ha, hp]

/-- The hart after its thread has taken a lock. -/
def Hart.lockTaken (sup : Bool) (a : Word) (h : Hart) : Hart :=
  if sup then { h with sup := { h.sup with locks := min 15 (h.sup.locks + 1) } }
  else { h with locks := min 15 (h.locks + 1), lockAddr := a }
/-- The hart after its thread has released a lock. -/
def Hart.lockFreed (sup : Bool) (h : Hart) : Hart :=
  if sup then { h with sup := { h.sup with locks := h.sup.locks - 1 } }
  else { h with locks := h.locks - 1, hold := if h.locks ≤ 1 then 0 else h.hold }
theorem State.lockTaken_eq (s : State) (a : Word) : s.lockTaken a = s.modMe (Hart.lockTaken s.atS a) := by
  unfold State.lockTaken Hart.lockTaken
  cases s.atS <;> rfl
theorem State.lockFreed_eq (s : State) : s.lockFreed = s.modMe (Hart.lockFreed s.atS) := by
  unfold State.lockFreed Hart.lockFreed
  cases s.atS <;> rfl

theorem Moved.lockTaken {eo : Hart → Hart} {eg : Gang → Gang} {es : State → State} {s u : State} {mem : Loc → Byte}
    (h : Moved Hart.sansLocks eo eg es s u mem) (a : Word) : Moved Hart.sansLocks eo eg es s (u.lockTaken a) mem := by
  rw [State.lockTaken_eq]
  generalize u.atS = c
  exact h.modMe _ (fun x b => by cases c <;> cases b <;> rfl) (fun x => by cases c <;> rfl) (fun x => by cases c <;> rfl)
    (fun x => by cases c <;> rfl) (fun x => by cases c <;> rfl) (fun x => by cases c <;> rfl) (fun x => by cases c <;> rfl)
theorem Moved.acquire_locks {eo : Hart → Hart} {eg : Gang → Gang} {es : State → State} {s u : State} {mem : Loc → Byte}
    (h : Moved Hart.sansLocks eo eg es s u mem) : Moved Hart.sansLocks eo eg es s u.acquire mem :=
  h.modMe (fun x => { x with cache := [] }) (fun x b => by cases b <;> rfl) (fun _ => rfl) (fun _ => rfl) (fun _ => rfl)
    (fun _ => rfl) (fun _ => rfl) fun _ => rfl
theorem Moved.lockFreed {eo : Hart → Hart} {eg : Gang → Gang} {es : State → State} {s u : State} {mem : Loc → Byte}
    (h : Moved (fun x => x.sansLocks.sansEvt) eo eg es s u mem) :
    Moved (fun x => x.sansLocks.sansEvt) eo eg es s u.lockFreed mem := by
  rw [State.lockFreed_eq]
  generalize u.atS = c
  exact h.modMe _ (fun x b => by cases c <;> cases b <;> rfl) (fun x => by cases c <;> rfl) (fun x => by cases c <;> rfl)
    (fun x => by cases c <;> rfl) (fun x => by cases c <;> rfl) (fun x => by cases c <;> rfl) (fun x => by cases c <;> rfl)
theorem sansLocks_sansG (b : Bool) (x y : Hart) (h : x.sansLocks = y.sansLocks) :
    (x.sansG b).sansLocks = (y.sansG b).sansLocks := by
  have hg := congrArg (Hart.sansG b) h
  cases b <;> exact hg

/-! ### SPLOCK -/

section
variable {s : State} {d a : GOp} (hl : s.live) (hcheck : s.lockCheck (s.rg a) = none)
include hl hcheck

theorem execSplock_taken (hw : natOfBytes (s.myGang.spRead (s.rg a).toNat 4) ≠ 0) :
    ∃ t, exec (.splock d a) s = .next t ∧
      RegStep s t d (word (natOfBytes (s.myGang.spRead (s.rg a).toNat 4))) 0 (s.pcv + 8) := by
  rw [exec_splock, execSplock, hcheck]
  simp only [if_pos hw]
  exact RegStep.of_retire hl d _

theorem execSplock_takes (hwf : Mem.wf s.myGang.sp = true) (hw : natOfBytes (s.myGang.spRead (s.rg a).toNat 4) = 0)
    (hd : s.myGang.diverged = false) :
    ∃ t, exec (.splock d a) s = .next t ∧
      RegsStep Hart.sansLocks hideNone Gang.sansSp hideNone s t (oneReg d 0) 0 (s.pcv + 8) s.byteAt ∧
      (∀ x, Mem.get t.myGang.sp x = s.myGang.spWith (s.rg a).toNat (bytesOfNat 4 s.lockOwn) x) ∧
      t.me.cache = [] ∧
      (if s.atS then t.me.sup.locks = min 15 (s.me.sup.locks + 1) ∧ t.me.locks = s.me.locks
       else t.me.locks = min 15 (s.me.locks + 1) ∧ t.me.lockAddr = s.rg a ∧ t.me.sup.locks = s.me.sup.locks) := by
  generalize hu : s.spWrite s.cur.gang (s.rg a).toNat (bytesOfNat 4 s.lockOwn) = u
  have hmu : Moved Hart.sansLocks hideNone Gang.sansSp hideNone s u s.byteAt := hu ▸ (Moved.refl hl).spWrite _ _
  have hume : u.me = s.me := hu ▸ State.me_spWrite hl _ _
  have husp : u.myGang.sp = Mem.write s.myGang.sp (s.rg a).toNat (bytesOfNat 4 s.lockOwn) := by
    rw [← hu, State.myGang_spWrite hl]
  generalize hv : (u.lockTaken (s.rg a)).acquire = v
  have hmv : Moved Hart.sansLocks hideNone Gang.sansSp hideNone s v s.byteAt := hv ▸ (hmu.lockTaken _).acquire_locks
  have hvme : v.me = { Hart.lockTaken s.atS (s.rg a) s.me with cache := [] } := by
    rw [← hv, State.lockTaken_eq]
    refine (State.me_modMe (State.live_modMe hmu.same.live _) _).trans ?_
    rw [State.me_modMe hmu.same.live, hmu.same.atS, hume]
  have hlock : Moved Hart.sansLocks hideNone hideNone hideNone u v u.byteAt :=
    hv ▸ ((Moved.refl hmu.same.live).lockTaken _).acquire_locks
  obtain ⟨t, ht, hstep⟩ := RegStep.of_retire hmv.same.live d 0
  obtain ⟨hcache, hlocks, haddr, hsup⟩ := hstep.locks_eq
  have hret : (v.wg d 0).retired = t := by injection ht
  refine ⟨t, ?_, hret ▸ hmv.wg sansLocks_sansG d 0, fun x => ?_, ?_, ?_⟩
  · rw [exec_splock, execSplock, hcheck]
    simp only [hw, ne_eq, not_true_eq_false, if_false, State.pair_eq hd, hu, hv]
    exact ht
  · rw [hstep.frame.sp_eq, hlock.frame.sp_eq, husp, Mem.get_write hwf]; rfl
  · rw [hcache, hvme]
  · rw [hlocks, haddr, hsup, hvme]
    cases s.atS
    · exact ⟨rfl, rfl, rfl⟩
    · exact ⟨rfl, rfl⟩
end

/-! ### SPUNLOCK -/

section
variable {s : State} {a : GOp} (hl : s.live) (hcheck : s.lockCheck (s.rg a) = none)
include hl hcheck

theorem execSpunlock_releases (hwf : Mem.wf s.myGang.sp = true) (hst : s.me.stores = [])
    (hw : natOfBytes (s.myGang.spRead (s.rg a).toNat 4) = s.lockOwn) (hd : s.myGang.diverged = false) :
    ∃ t, exec (.spunlock a) s = .next t ∧
      StepBut (fun h => h.sansLocks.sansEvt) Hart.sansEvt Gang.sansSp hideNone s t s.byteAt ∧
      (∀ x, Mem.get t.myGang.sp x = s.myGang.spWith (s.rg a).toNat (bytesOfNat 4 0) x) ∧
      (∀ r : Fin 4, t.myGang.harts[r].evt = true) ∧
      (if s.atS then t.me.sup.locks = s.me.sup.locks - 1 ∧ t.me.locks = s.me.locks
       else t.me.locks = s.me.locks - 1 ∧ t.me.sup.locks = s.me.sup.locks) := by
  have halike := State.Alike.of_release hst
  generalize hu : s.release.spWrite s.cur.gang (s.rg a).toNat (bytesOfNat 4 0) = u
  have hu' : s.release.spWrite s.release.cur.gang (s.rg a).toNat (bytesOfNat 4 0) = u := by rw [halike.cur, hu]
  have hmu : Moved (fun h => h.sansLocks.sansEvt) Hart.sansEvt Gang.sansSp hideNone s u s.byteAt :=
    hu' ▸ ((Moved.refl hl).alike halike).spWrite _ _
  have hume : u.me = s.me := by
    rw [← hu', State.me_spWrite (halike.live hl), halike.me]
  have husp : u.myGang.sp = Mem.write s.myGang.sp (s.rg a).toNat (bytesOfNat 4 0) := by
    rw [← hu', State.myGang_spWrite (halike.live hl), halike.myGang]
  generalize hv : u.lockFreed = v
  have hmv : Moved (fun h => h.sansLocks.sansEvt) Hart.sansEvt Gang.sansSp hideNone s v s.byteAt := hv ▸ hmu.lockFreed
  have hvme : v.me = Hart.lockFreed s.atS s.me := by
    rw [← hv, State.lockFreed_eq, State.me_modMe hmu.same.live, hmu.same.atS, hume]
  have hfree : Moved (fun h => h.sansLocks.sansEvt) Hart.sansEvt hideNone hideNone u v u.byteAt :=
    hv ▸ (Moved.refl hmu.same.live).lockFreed
  have hvcur : v.cur = s.cur := hmv.same.cur
  generalize hz : v.setEvtGang v.cur.gang = z
  have hevt : Moved Hart.sansEvt Hart.sansEvt hideNone hideNone v z v.byteAt := by
    rw [← hz]
    refine Moved.of_modMyGang (b := true) (f := fun g => { g with harts := g.harts.map fun x => { x with evt := true } })
      hmv.same.live (fun _ => rfl) ?_ rfl
    exact congrArg (fun f => v.myGang.harts.map f) (funext fun h => by simp [Hart.orEvt])
  have hzgang : z.myGang = { v.myGang with harts := v.myGang.harts.map fun x => { x with evt := true } } :=
    hz ▸ State.myGang_modGang hmv.same.live _ fun _ => rfl
  have hmz : Moved (fun h => h.sansLocks.sansEvt) Hart.sansEvt Gang.sansSp hideNone s z s.byteAt :=
    hmv.trans (hevt.weaken
      (fun x y e => by
        have hlocks := congrArg Hart.sansLocks e
        exact hlocks)
      (fun _ _ e => e) (fun _ _ e => congrArg Gang.sansSp e) fun _ _ e => e)
  have hzhart (r : Fin 4) : z.myGang.harts[r] = { v.myGang.harts[r] with evt := true } := by
    rw [hzgang]; exact Vector.getElem_map _ r.isLt
  have hzme : z.me = { Hart.lockFreed s.atS s.me with evt := true } := by
    rw [State.me_eq, hzhart, ← hvme, State.me_eq v]
    simp only [hevt.same.cur]
  obtain ⟨hgang, hevts⟩ := State.myGang_retired hmz.same.live
  refine ⟨z.retired, ?_, hmz.retire, fun x => ?_, fun r => ?_, ?_⟩
  · rw [exec_spunlock, execSpunlock, hcheck]
    simp only [hw, ne_eq, not_true_eq_false, if_false, State.pair_eq hd, hu, hv]
    rw [← hz, hvcur]; rfl
  · have hsp : z.retired.myGang.sp = z.myGang.sp := by
      have := congrArg Gang.sp hgang
      exact this
    rw [hsp, hzgang, hfree.frame.sp_eq, husp, Mem.get_write hwf]; rfl
  · rw [hevts, hzhart]
  · rw [State.me_retired_eq hmz.same.live, hmz.same.atS, hzme]
    cases s.atS <;> exact ⟨rfl, rfl⟩

omit hl in
theorem execSpunlock_foreign (hw : natOfBytes (s.myGang.spRead (s.rg a).toNat 4) ≠ s.lockOwn) :
    exec (.spunlock a) s = s.raise 0x1E { c := .prot, detail := 1, addr := s.rg a } := by
  rw [exec_spunlock, execSpunlock, hcheck]
  simp only [if_pos hw]
end

/-- Settles O23: each instruction passes its checks and finds the lock free or taken, its own or not. -/
theorem locksAreTakenOnceAndReleased : Obligations.LocksAreTakenOnceAndReleased := by
  unfold Obligations.LocksAreTakenOnceAndReleased
  constructor
  · intro s d a hl hwf hr ha hp
    have hcheck := State.lockCheck_none hr ha hp
    exact ⟨fun hw => execSplock_taken hl hcheck hw, fun hw hd => execSplock_takes hl hcheck hwf hw hd⟩
  · intro s a hl hwf hst hr ha hp
    have hcheck := State.lockCheck_none hr ha hp
    refine ⟨fun hw hd => execSpunlock_releases hl hcheck hwf hst hw hd, fun hw hu hv => ?_⟩
    rw [execSpunlock_foreign hcheck hw]
    exact State.raise_user hl hu hv 0x1E _ (by decide) (show 1 < 65536 by decide) (Nat.zero_lt_succ _) (Nat.zero_lt_succ _)

end Sys2Proof.Machine
end

section
/-!
SUPPORT. `ERET`, and the Hearth call that `SVC` makes in the supervisor thread, for O24.
-/

namespace Sys2Proof.Machine

theorem Frame.of_alike {eh eo : Hart → Hart} {eg : Gang → Gang} {es : State → State} {s u : State} (h : s.Alike u) :
    Frame eh eo eg es s u where
  me := by rw [h.me]
  mates := fun r _ => by rw [h.myGang]
  gang := by rw [h.myGang]
  others := fun v _ => h.gang? v
  device := by rw [h.sansGangs]

/-! ### ERET (R191) -/

/-- The user hart resumes where its supervisor thread sends it. -/
theorem execEret_resumes {s : State} (hl : s.live) (ha : s.atS = true) (hst : s.me.stores = []) :
    ∃ t, exec .eret s = .next t ∧ t.me = s.me.eret ∧ (∀ l, t.byteAt l = s.byteAt l) ∧
      Frame Hart.sansReturn hideNone hideNone hideNone s t := by
  have halike := State.Alike.of_release hst
  have hul := halike.live hl
  refine ⟨s.release.modMe Hart.eret, ?_, ?_, fun l => ?_, ?_⟩
  · rw [exec_eret, execEret, State.supOnly_sup ha]
  · rw [State.me_modMe hul, halike.me]
  · rw [State.byteAt_modMe, halike.byteAt]
  · refine (Frame.of_alike halike).trans (Frame.of_modMe hul ?_) halike.cur halike.atS
    rw [halike.atS, ha]; rfl

/-! ### SVC in the supervisor thread (R324) -/

/-- A device without the numbers that calls of a partition are given. -/
theorem State.modPart_erased (s : State) (p : Fin 3) {f g : Part → Part} (h : ∀ q, g (f q) = g q) :
    (s.modPart p f).modPart p g = s.modPart p g := by
  rw [State.modPart_modPart]
  exact congrArg (s.modPart p) (funext h)

/-- The call is numbered, and the thread blocks for its answer. -/
theorem execSvc_calls {s : State} (hl : s.live) (ha : s.atS = true) (hst : s.me.stores = []) (n : BitVec 16) :
    ∃ t, exec (.svc n) s = .next t ∧ t.me.sup.st = .blocked ∧
      t.me.sup.call = some { n := n.toNat, seq := (s.prt s.myGang.p).nextSeq, taken := false, ends := none } ∧
      t.pcv = s.pcv ∧ (t.prt s.myGang.p).nextSeq = (s.prt s.myGang.p).nextSeq + 1 ∧ (∀ l, t.byteAt l = s.byteAt l) ∧
      Frame Hart.sansWait hideNone hideNone (fun u => u.modPart s.myGang.p fun q => { q with nextSeq := 0 }) s t := by
  have halike := State.Alike.of_release hst
  have hul := halike.live hl
  generalize hu : s.release = u at halike hul
  generalize hcall : ({ n := n.toNat, seq := (s.prt s.myGang.p).nextSeq, taken := false, ends := none } : Call) = call
  generalize hv : u.modPart s.myGang.p (fun q => { q with nextSeq := q.nextSeq + 1 }) = v
  have hvl : v.live := by subst hv; exact hul
  have hvme : v.me = s.me := by rw [← halike.me, ← hv]; rfl
  have hvat : v.atS = true := by unfold State.atS at ha ⊢; rwa [hvme]
  have hprt : u.prt s.myGang.p = s.prt s.myGang.p := by obtain ⟨gs, rfl⟩ := halike.device; rfl
  refine ⟨v.modSup fun t => { t with st := .blocked, call := some call }, ?_, ?_, ?_, ?_, ?_, fun l => ?_, ?_⟩
  · rw [exec_svc, execSvc, if_pos ha]
    simp only [hu, hcall, hv]
  · rw [State.me_modSup hvl]
  · rw [State.me_modSup hvl]
  · rw [State.pcv_sup ((State.atS_modSup hvl _).trans hvat), State.me_modSup hvl, hvme, State.pcv_sup ha]
  · show (v.prt s.myGang.p).nextSeq = _
    rw [← hv, State.prt_modPart, hprt]
  · rw [State.modSup_eq, State.byteAt_modMe, ← hv]
    exact halike.byteAt l
  · have hnumber : Frame Hart.sansWait hideNone hideNone (fun u => u.modPart s.myGang.p fun q => { q with nextSeq := 0 }) u v := by
      refine Frame.of_device (by subst hv; rfl) (by subst hv; rfl) ?_
      subst hv
      exact State.modPart_erased { u with gangs := [] } s.myGang.p (f := fun q => { q with nextSeq := q.nextSeq + 1 })
        (g := fun q => { q with nextSeq := 0 }) fun _ => rfl
    have hblock : Frame Hart.sansWait hideNone hideNone hideNone v (v.modSup fun t => { t with st := .blocked, call := some call }) :=
      Frame.of_modMe hvl (by rw [hvat]; rfl)
    have hvcur : v.cur = s.cur := by rw [← halike.cur, ← hv]; rfl
    refine ((Frame.of_alike halike).trans hnumber halike.cur halike.atS).trans ?_ hvcur (hvat.trans ha.symm)
    exact hblock.weaken (fun _ _ e => e) (fun _ _ e => e) (fun _ _ e => e) fun x y e => by
      rw [show x = y from e]

/-! ### Calls whose number Hearth does not know -/

/-- A call that the firmware can take is the one that its thread waits for. -/
theorem CallReady.takes {s : State} {h : HartId} {n : Nat} {c : Call} (hc : CallReady s h n c) : s.takes h n = some c := by
  have hfirst : ((s.calls (s.gang h.gang).p).all fun d => d.taken || decide (c.seq ≤ d.seq)) = true := by
    simpa using hc.first
  unfold State.takes
  simp only [hc.call, Option.filter_some, hc.number, hc.waiting, hc.steady, hfirst, beq_self_eq_true, Bool.not_false,
    Option.isNone_none, Bool.and_true, servedCalls, hc.room, decide_true, if_true]
theorem State.call?_some {s : State} {h : HartId} {c : Call} (hc : s.call? h = some c) :
    (s.at_ h).live ∧ (s.hart h).st = .trapped := by
  unfold State.call? at hc
  dsimp only at hc
  split at hc
  · next hcond => exact ⟨Option.isSome_iff_exists.mp hcond.1, hcond.2.1⟩
  · cases hc

/-- An answer with a status only. -/
theorem State.answer_answered {s : State} {h : HartId} (hl : (s.at_ h).live) (ht : (s.hart h).st = .trapped) (status : Word) :
    Answered hideNone s (s.answer h status []) h (statusIs status) := by
  have hx : (s.answer h status []).hart h = (s.hart h).answer [(1, status)] := State.hart_modHart hl _
  have hat : (s.at_ h).atS = true := by
    show ((s.hart h).st == .trapped) = true
    rw [ht]; rfl
  refine ⟨by rw [hx]; rfl, by rw [hx]; rfl, by rw [hx]; rfl, fun r => ?_, ?_, fun l => ?_⟩
  · rw [hx]
    show (vput (s.hart h).sup.g 1 status)[r] = _
    rw [vput_getElem]
    by_cases hr : r = 1
    · subst hr; rfl
    · rw [if_neg (Ne.symm hr), statusIs, if_neg hr]; rfl
  · refine Frame.of_modMe (s := s.at_ h) hl ?_
    rw [hat]; rfl
  · exact State.byteAt_modMe (s.at_ h) (fun x => x.answer [(1, status)]) l

/-- Settles O24: the return, the call, and the answer to a call that Hearth does not know. -/
theorem supervisorReturnsAndCalls : Obligations.SupervisorReturnsAndCalls := by
  unfold Obligations.SupervisorReturnsAndCalls
  refine ⟨fun s hl ha hst => ?_, fun s n hl ha hst => execSvc_calls hl ha hst n, fun s h c hc hn => ?_⟩
  · obtain ⟨t, he, hme, hmem, hframe⟩ := execEret_resumes hl ha hst
    refine ⟨t, he, ?_, ?_, ?_, ?_, ?_, ?_, ?_, ?_, ?_, ?_, hmem, hframe⟩
    · unfold State.atS; rw [hme]; rfl
    all_goals (rw [hme]; rfl)
  · obtain ⟨hl, ht⟩ := State.call?_some hc.call
    refine ⟨_, ?_, State.answer_answered hl ht 1⟩
    have hknown : serviceKnown c.n = false := by simpa [serviceKnown] using hn
    rw [exec_blockedHartResume, execBlockedHartResume, hc.call]
    simp only [hknown, hc.takes, Bool.not_false, Option.isSome_some, and_self, if_true]

end Sys2Proof.Machine
end

section
/-!
SUPPORT. Stores of several harts performed one hart after another, and a device none of whose translations an
invalidation names, for O25 and O60.
-/

namespace Sys2Proof.Machine

/-! ### Steps that keep the gangs and empty store buffers -/

/-- From `s` to `t` each gang keeps its number, its partition and its size, and no store buffer is filled. -/
def State.keepsGangs (s t : State) : Prop :=
  ∃ F : Gang → Gang, t.gangs = s.gangs.map F ∧ ∀ g, (F g).uid = g.uid ∧ (F g).p = g.p ∧ (F g).hn = g.hn ∧
    ∀ r : Fin 4, g.harts[r].stores = [] → ((F g).harts[r]).stores = []

theorem State.keepsGangs.of_gangs {s t : State} (h : t.gangs = s.gangs) : s.keepsGangs t :=
  ⟨id, by rw [h, List.map_id], fun _ => ⟨rfl, rfl, rfl, fun _ e => e⟩⟩
theorem State.keepsGangs.trans {s t u : State} (h : s.keepsGangs t) (k : t.keepsGangs u) : s.keepsGangs u := by
  obtain ⟨F, hF, hf⟩ := h
  obtain ⟨G, hG, hg⟩ := k
  refine ⟨G ∘ F, by rw [hG, hF, List.map_map], fun g => ?_⟩
  obtain ⟨fu, fp, fn, fs⟩ := hf g
  obtain ⟨gu, gp, gn, gs⟩ := hg (F g)
  exact ⟨gu.trans fu, gp.trans fp, gn.trans fn, fun r e => gs r (fs r e)⟩
theorem State.keepsGangs.of_modHart (s : State) (h : HartId) {f : Hart → Hart} (hf : ∀ x, x.stores = [] → (f x).stores = []) :
    s.keepsGangs (s.modHart h f) := by
  refine ⟨_, rfl, fun g => ?_⟩
  by_cases hg : g.uid = h.gang
  · refine ⟨by rw [if_pos hg], by rw [if_pos hg], by rw [if_pos hg], fun r e => ?_⟩
    rw [if_pos hg]
    by_cases hr : r = h.rank
    · subst hr; rw [vmod_getElem_same]; exact hf _ e
    · rw [vmod_getElem_other _ _ _ _ hr]; exact e
  · rw [if_neg hg]; exact ⟨rfl, rfl, rfl, fun _ e => e⟩
/-- A gang after the step is one before it, of the same number, partition and size. -/
theorem State.keepsGangs.before {s t : State} (h : s.keepsGangs t) {g : Gang} (hg : g ∈ t.gangs) :
    ∃ g' ∈ s.gangs, g'.uid = g.uid ∧ g'.p = g.p ∧ g'.hn = g.hn ∧ ∀ r : Fin 4, g'.harts[r].stores = [] → g.harts[r].stores = [] := by
  obtain ⟨F, hF, hf⟩ := h
  rw [hF, List.mem_map] at hg
  obtain ⟨g', hg', rfl⟩ := hg
  obtain ⟨fu, fp, fn, fs⟩ := hf g'
  exact ⟨g', hg', fu.symm, fp.symm, fn.symm, fs⟩

/-! ### Drains (R139) -/

theorem State.drain_gangs (s : State) (h : HartId) :
    (s.drain h).gangs = (s.modHart h fun x => { x with stores := [] }).gangs := State.writes_gangs _ _ _ _
theorem State.keepsGangs.of_drain (s : State) (h : HartId) : s.keepsGangs (s.drain h) :=
  (State.keepsGangs.of_modHart s h fun _ _ => rfl).trans (State.keepsGangs.of_gangs (State.drain_gangs s h))
theorem State.keepsGangs.of_drainRanks (u : Nat) (rs : List (Fin 4)) (s : State) :
    s.keepsGangs (rs.foldl (fun s r => s.drain { gang := u, rank := r }) s) := by
  induction rs generalizing s with
  | nil => exact State.keepsGangs.of_gangs rfl
  | cons r rs ih => exact (State.keepsGangs.of_drain s _).trans (ih _)
theorem State.keepsGangs.of_drainGangs (gs : List Gang) (s : State) : s.keepsGangs (gs.foldl State.drainGang s) := by
  induction gs generalizing s with
  | nil => exact State.keepsGangs.of_gangs rfl
  | cons g gs ih => exact (State.keepsGangs.of_drainRanks g.uid g.ranks s).trans (ih _)

/-- No gang of a number has a store on its way at a rank. -/
def State.emptied (s : State) (u : Nat) (r : Fin 4) : Prop := ∀ g ∈ s.gangs, g.uid = u → g.harts[r].stores = []
theorem State.emptied.keep {s t : State} {u : Nat} {r : Fin 4} (h : s.emptied u r) (k : s.keepsGangs t) : t.emptied u r := by
  intro g hg hu
  obtain ⟨g', hg', hu', -, -, hs⟩ := k.before hg
  exact hs r (h g' hg' (hu'.trans hu))
theorem State.emptied_drain (s : State) (u : Nat) (r : Fin 4) : (s.drain { gang := u, rank := r }).emptied u r := by
  intro g hg hu
  rw [State.drain_gangs] at hg
  obtain ⟨g', -, rfl⟩ := List.mem_map.mp hg
  by_cases hg' : g'.uid = u
  · rw [if_pos hg']
    exact congrArg Hart.stores (vmod_getElem_same g'.harts r fun x => { x with stores := [] })
  · rw [if_neg hg'] at hu; exact absurd hu hg'
theorem State.emptied_drainRanks {u : Nat} {r : Fin 4} {rs : List (Fin 4)} (hr : r ∈ rs) (s : State) :
    (rs.foldl (fun s r => s.drain { gang := u, rank := r }) s).emptied u r := by
  induction rs generalizing s with
  | nil => cases hr
  | cons q rs ih =>
    rcases List.mem_cons.mp hr with rfl | hr
    · exact (State.emptied_drain s u r).keep (State.keepsGangs.of_drainRanks u rs _)
    · exact ih hr _
/-- The gangs that were drained have no store on its way. -/
theorem State.emptied_drainGangs {g : Gang} {gs : List Gang} (hg : g ∈ gs) {r : Fin 4} (hr : r.val < g.hn) (s : State) :
    (gs.foldl State.drainGang s).emptied g.uid r := by
  induction gs generalizing s with
  | nil => cases hg
  | cons q gs ih =>
    rcases List.mem_cons.mp hg with rfl | hg
    · have hmem : r ∈ g.ranks := List.mem_filter.mpr ⟨List.mem_finRange r, by simpa using hr⟩
      exact (State.emptied_drainRanks hmem s).keep (State.keepsGangs.of_drainGangs gs _)
    · exact ih hg _

theorem vmod_of_fixed {α : Type} {n : Nat} {v : Vector α n} {i : Fin n} {f : α → α} (h : f v[i] = v[i]) : vmod v i f = v := by
  unfold vmod; rw [h]; exact vput_self v i
theorem State.hart_stores_of_empty {s : State} (h : ∀ g ∈ s.gangs, ∀ r : Fin 4, g.harts[r].stores = []) (k : HartId) :
    (s.hart k).stores = [] := by
  unfold State.hart State.gang
  cases hg : s.gang? k.gang with
  | none => exact congrArg Hart.stores (Vector.getElem_replicate k.rank.isLt)
  | some g => exact h g (List.mem_of_find?_eq_some hg) k.rank
/-- With every store buffer empty, a drain changes nothing. -/
theorem State.drain_of_empty {s : State} (h : ∀ g ∈ s.gangs, ∀ r : Fin 4, g.harts[r].stores = []) (k : HartId) :
    s.drain k = s := by
  have hgangs : (s.modHart k fun x => { x with stores := [] }) = s := by
    unfold State.modHart State.modGang
    refine congrArg (fun gs : List Gang => ({ s with gangs := gs } : State)) ?_
    refine (List.map_congr_left fun g hg => ?_).trans (List.map_id s.gangs)
    have hself : vmod g.harts k.rank (fun x => { x with stores := [] }) = g.harts :=
      vmod_of_fixed (by rw [← h g hg k.rank])
    dsimp only
    rw [hself]
    exact ite_self g
  unfold State.drain
  dsimp only
  rw [State.hart_stores_of_empty h k, hgangs]
  rfl
theorem State.drainRanks_of_empty {s : State} (h : ∀ g ∈ s.gangs, ∀ r : Fin 4, g.harts[r].stores = []) (u : Nat)
    (rs : List (Fin 4)) : (rs.foldl (fun s r => s.drain { gang := u, rank := r }) s) = s := by
  induction rs with
  | nil => rfl
  | cons r rs ih => rw [List.foldl_cons, State.drain_of_empty h, ih]
theorem State.drainGangs_of_empty {s : State} (h : ∀ g ∈ s.gangs, ∀ r : Fin 4, g.harts[r].stores = []) (gs : List Gang) :
    gs.foldl State.drainGang s = s := by
  induction gs with
  | nil => rfl
  | cons g gs ih => rw [List.foldl_cons, State.drainGang, State.drainRanks_of_empty h, ih]

/-- A drain leaves the hart that runs but for its store buffer. -/
theorem State.me_drain_sans {s : State} (hl : s.live) (k : HartId) :
    (s.drain k).live ∧ ({ (s.drain k).me with stores := [] } : Hart) = { s.me with stores := [] } := by
  generalize hf : (fun g : Gang => { g with harts := vmod g.harts k.rank fun x => { x with stores := [] } }) = f
  have hgangs : (s.drain k).gangs = (s.modGang k.gang f).gangs := by rw [State.drain_gangs, ← hf]; rfl
  have huid (g : Gang) : (f g).uid = g.uid := by rw [← hf]
  have hharts (g : Gang) (r : Fin 4) : ({ (f g).harts[r] with stores := [] } : Hart) = { g.harts[r] with stores := [] } := by
    rw [← hf]
    by_cases hr : r = k.rank
    · subst hr; exact congrArg (fun x : Hart => { x with stores := [] }) (vmod_getElem_same _ _ _)
    · exact congrArg (fun x : Hart => { x with stores := [] }) (vmod_getElem_other _ _ _ _ hr)
  obtain ⟨g, hg⟩ := hl
  have hmy : s.myGang = g := by simp [State.myGang, State.gang, hg]
  have hmap : (s.drain k).gang? s.cur.gang = some (if g.uid = k.gang then f g else g) := by
    rw [State.gang?_map (fun g => if g.uid = k.gang then f g else g) hgangs (fun g => by split <;> simp only [huid]), hg]
    rfl
  have hmy' : (s.drain k).myGang = if g.uid = k.gang then f g else g := by
    simp [State.myGang, State.gang, State.cur_drain, hmap]
  refine ⟨⟨_, by rw [State.cur_drain]; exact hmap⟩, ?_⟩
  rw [State.me_eq, State.me_eq, hmy, hmy']
  simp only [State.cur_drain]
  split
  · exact hharts g s.cur.rank
  · rfl
/-- What the drains of gangs leave: the hart that runs, but for its store buffer, and the gangs. -/
theorem State.me_drainGangs_sans {s : State} (hl : s.live) (gs : List Gang) :
    (gs.foldl State.drainGang s).live ∧ (gs.foldl State.drainGang s).cur = s.cur ∧
      ({ (gs.foldl State.drainGang s).me with stores := [] } : Hart) = { s.me with stores := [] } := by
  have hranks (u : Nat) (rs : List (Fin 4)) (s : State) (hl : s.live) :
      (rs.foldl (fun s r => s.drain { gang := u, rank := r }) s).live ∧
      (rs.foldl (fun s r => s.drain { gang := u, rank := r }) s).cur = s.cur ∧
      ({ (rs.foldl (fun s r => s.drain { gang := u, rank := r }) s).me with stores := [] } : Hart) = { s.me with stores := [] } := by
    induction rs generalizing s with
    | nil => exact ⟨hl, rfl, rfl⟩
    | cons r rs ih =>
      obtain ⟨h1, h2⟩ := State.me_drain_sans hl { gang := u, rank := r }
      obtain ⟨k1, k2, k3⟩ := ih _ h1
      exact ⟨k1, k2.trans (State.cur_drain s _), k3.trans h2⟩
  induction gs generalizing s with
  | nil => exact ⟨hl, rfl, rfl⟩
  | cons g gs ih =>
    obtain ⟨h1, h2, h3⟩ := hranks g.uid g.ranks s hl
    obtain ⟨k1, k2, k3⟩ := ih h1
    exact ⟨k1, k2.trans h2, k3.trans h3⟩

/-! ### Drains do not read the invalidations -/

/-- A device with other invalidations in flight, and other translations remembered. -/
def State.withInvals (s : State) (n : Nat) (is : List Inval) (tlb : List Leaf) (walks : List Branch) : State :=
  { s with nextInval := n, invals := is, tlb := tlb, walks := walks }

section
variable (n : Nat) (is : List Inval) (tlb : List Leaf) (walks : List Branch)

theorem State.writeHome_withInvals (s : State) (p : Fin 3) (job : Nat) (l : Loc) (bs : List Byte) :
    (s.withInvals n is tlb walks).writeHome p job l bs = (s.writeHome p job l bs).withInvals n is tlb walks := by
  have hrefused : (s.withInvals n is tlb walks).writeRefused l bs.length = s.writeRefused l bs.length := rfl
  unfold State.writeHome
  rw [hrefused]
  split <;> split <;> rfl
theorem State.drain_withInvals (s : State) (k : HartId) :
    (s.withInvals n is tlb walks).drain k = (s.drain k).withInvals n is tlb walks := by
  have hfold (p : Fin 3) (job : Nat) (l : List BufStore) (s : State) :
      (l.foldl (fun t b => t.writeHome p job b.loc b.bytes) (s.withInvals n is tlb walks)) =
        (l.foldl (fun t b => t.writeHome p job b.loc b.bytes) s).withInvals n is tlb walks := by
    induction l generalizing s with
    | nil => rfl
    | cons b r ih => rw [List.foldl_cons, State.writeHome_withInvals, ih, List.foldl_cons]
  exact hfold _ _ _ (s.modHart k fun x => { x with stores := [] })
theorem State.drainGangs_withInvals (gs : List Gang) (s : State) :
    gs.foldl State.drainGang (s.withInvals n is tlb walks) = (gs.foldl State.drainGang s).withInvals n is tlb walks := by
  have hranks (u : Nat) (rs : List (Fin 4)) (s : State) :
      rs.foldl (fun s r => s.drain { gang := u, rank := r }) (s.withInvals n is tlb walks) =
        (rs.foldl (fun s r => s.drain { gang := u, rank := r }) s).withInvals n is tlb walks := by
    induction rs generalizing s with
    | nil => rfl
    | cons r rs ih => rw [List.foldl_cons, State.drain_withInvals, ih, List.foldl_cons]
  induction gs generalizing s with
  | nil => rfl
  | cons g gs ih => rw [List.foldl_cons, State.drainGang, hranks, ih]; rfl
end

/-- Which gangs are drained is a matter of their numbers and sizes. -/
theorem State.drainGangs_map {F : Gang → Gang} (hF : ∀ g, (F g).uid = g.uid ∧ (F g).hn = g.hn) (gs : List Gang) (s : State) :
    (gs.map F).foldl State.drainGang s = gs.foldl State.drainGang s := by
  have hone (g : Gang) (s : State) : s.drainGang (F g) = s.drainGang g := by
    unfold State.drainGang Gang.ranks
    rw [(hF g).1, (hF g).2]
  induction gs generalizing s with
  | nil => rfl
  | cons g gs ih => rw [List.map_cons, List.foldl_cons, List.foldl_cons, hone, ih]

end Sys2Proof.Machine
end

section
/-!
SUPPORT. Invalidations that find no translation held, for O25 and O60.
-/

namespace Sys2Proof.Machine

/-! ### Changes of translations that no part of the device holds -/

theorem map_of_fixed {α : Type} {l : List α} {F : α → α} (h : ∀ x ∈ l, F x = x) : l.map F = l :=
  (List.map_congr_left h).trans (List.map_id l)
theorem vmap_of_fixed {α : Type} {n : Nat} {v : Vector α n} {F : α → α} (h : ∀ x ∈ v.toList, F x = x) : v.map F = v := by
  refine Vector.ext fun i hi => ?_
  rw [Vector.getElem_map]
  exact h _ (by simp)

theorem Token.mapPins_of_fixed {t : Token} {f : Pin → Pin} (h : ∀ q ∈ t.pins, f q = q) : t.mapPins f = t := by
  unfold Token.mapPins; rw [map_of_fixed h]
theorem Hart.mapPins_of_fixed {x : Hart} {f : Pin → Pin} (hu : ∀ t ∈ x.tk.toList, ∀ q ∈ t.pins, f q = q)
    (hs : ∀ t ∈ x.sup.tk.toList, ∀ q ∈ t.pins, f q = q) : x.mapPins f = x := by
  unfold Hart.mapPins
  rw [vmap_of_fixed fun t ht => Token.mapPins_of_fixed (hu t ht),
    vmap_of_fixed fun t ht => Token.mapPins_of_fixed (hs t ht)]
/-- A change that leaves every held translation as it is leaves the device as it is. -/
theorem State.mapPins_of_fixed {s : State} {f : Pin → Pin} (h : ∀ q ∈ s.allPins, f q = q) : s.mapPins f = s := by
  simp only [State.allPins, List.mem_append, or_imp, forall_and, List.mem_flatten, List.mem_map, forall_exists_index, and_imp,
    forall_apply_eq_imp_iff₂] at h
  obtain ⟨⟨⟨⟨⟨⟨huser, hsup⟩, ⟨hsrc, hdst⟩⟩, ⟨⟨⟨hin, hout⟩, hharq⟩, hstat⟩⟩, htxs⟩, ⟨⟨htbl, hpage⟩, hsubs⟩⟩, hentries⟩ := h
  have egangs : (s.gangs.map fun g => { g with harts := g.harts.map (Hart.mapPins f) }) = s.gangs :=
    map_of_fixed fun g hg => by
      rw [vmap_of_fixed fun x hx => Hart.mapPins_of_fixed (fun t ht q hq => huser q g hg x hx t ht hq)
        fun t ht q hq => hsup q g hg x hx t ht hq]
  have ecopies : (s.copies.map fun c => { c with srcPins := c.srcPins.map f, dstPins := c.dstPins.map f }) = s.copies :=
    map_of_fixed fun c hc => by
      rw [map_of_fixed fun q hq => hsrc q c hc hq, map_of_fixed fun q hq => hdst q c hc hq]
  have ecodings : (s.codings.map fun c =>
      { c with inPins := c.inPins.map f, outPins := c.outPins.map f, harqPins := c.harqPins.map f,
               statPins := c.statPins.map f }) = s.codings :=
    map_of_fixed fun c hc => by
      rw [map_of_fixed fun q hq => hin q c hc hq, map_of_fixed fun q hq => hout q c hc hq,
        map_of_fixed fun q hq => hharq q c hc hq, map_of_fixed fun q hq => hstat q c hc hq]
  have etxs : (s.txs.map fun t => { t with pins := t.pins.map f }) = s.txs :=
    map_of_fixed fun t ht => by rw [map_of_fixed fun q hq => htxs q t ht hq]
  have esweeps : (s.sweeps.map fun w =>
      { w with tblPins := w.tblPins.map f, pagePins := w.pagePins.map f,
               subs := w.subs.map fun b => { b with pins := b.pins.map f } }) = s.sweeps :=
    vmap_of_fixed fun w hw => by
      rw [map_of_fixed fun q hq => htbl q w hw hq, map_of_fixed fun q hq => hpage q w hw hq,
        map_of_fixed fun b hb => by rw [map_of_fixed fun q hq => hsubs q w hw b hb hq]]
  have eentries : (s.entries.map fun e => { e with pins := e.pins.map f }) = s.entries :=
    map_of_fixed fun e he => by rw [map_of_fixed fun q hq => hentries q e he hq]
  unfold State.mapPins
  rw [egangs, ecopies, ecodings, etxs, esweeps, eentries]

/-! ### What a drain leaves outside the harts -/

/-- The device without memory, its jobs and its gangs. -/
def State.sansStored (s : State) : State := { s.sansMem with gangs := [], jobs := [] }
theorem State.writeHome_sansStored (s : State) (p : Fin 3) (job : Nat) (l : Loc) (bs : List Byte) :
    (s.writeHome p job l bs).sansStored = s.sansStored := by
  unfold State.writeHome
  split <;> split <;> rfl
theorem State.drain_sansStored (s : State) (k : HartId) : (s.drain k).sansStored = s.sansStored := by
  have hfold (p : Fin 3) (job : Nat) (l : List BufStore) (s : State) :
      (l.foldl (fun t b => t.writeHome p job b.loc b.bytes) s).sansStored = s.sansStored := by
    induction l generalizing s with
    | nil => rfl
    | cons b r ih => rw [List.foldl_cons, ih, State.writeHome_sansStored]
  exact hfold _ _ _ (s.modHart k fun x => { x with stores := [] })
theorem State.invals_of_sansStored {s t : State} (h : t.sansStored = s.sansStored) :
    t.nextInval = s.nextInval ∧ t.invals = s.invals ∧ t.tlb = s.tlb ∧ t.walks = s.walks ∧ t.dtime = s.dtime := by
  have h1 := congrArg State.nextInval h
  have h2 := congrArg State.invals h
  have h3 := congrArg State.tlb h
  have h4 := congrArg State.walks h
  have h5 := congrArg State.dtime h
  exact ⟨h1, h2, h3, h4, h5⟩
theorem State.work_of_sansStored {s t : State} (h : t.sansStored = s.sansStored) :
    t.copies = s.copies ∧ t.codings = s.codings ∧ t.txs = s.txs ∧ t.sweeps = s.sweeps ∧ t.entries = s.entries := by
  have h1 := congrArg State.copies h
  have h2 := congrArg State.codings h
  have h3 := congrArg State.txs h
  have h4 := congrArg State.sweeps h
  have h5 := congrArg State.entries h
  exact ⟨h1, h2, h3, h4, h5⟩
/-- What the stores of a hart do not show in. -/
theorem Gang.map_harts_of_drained {α : Type} {φ : Hart → α} (hφ : ∀ x : Hart, φ { x with stores := [] } = φ x) (g : Gang)
    (k : HartId) :
    (if g.uid = k.gang then { g with harts := vmod g.harts k.rank fun x => { x with stores := [] } } else g).harts.toList.map φ =
      g.harts.toList.map φ := by
  rw [← Vector.toList_map, ← Vector.toList_map]
  split
  · exact congrArg Vector.toList (vmod_map_at g.harts k.rank _ φ (hφ _))
  · rfl
/-- A drain keeps the translations that are held. -/
theorem State.drain_allPins (s : State) (k : HartId) : (s.drain k).allPins = s.allPins := by
  obtain ⟨hcopies, hcodings, htxs, hsweeps, hentries⟩ := State.work_of_sansStored (State.drain_sansStored s k)
  have hgangs (φ : Hart → List Pin) (hφ : ∀ x : Hart, φ { x with stores := [] } = φ x) :
      ((s.drain k).gangs.map fun g => (g.harts.toList.map φ).flatten) = s.gangs.map fun g => (g.harts.toList.map φ).flatten := by
    rw [State.drain_gangs, State.modHart, State.modGang, List.map_map]
    exact List.map_congr_left fun g _ => congrArg List.flatten (Gang.map_harts_of_drained hφ g k)
  unfold State.allPins
  rw [hcopies, hcodings, htxs, hsweeps, hentries, hgangs _ fun _ => rfl]

/-! ### The invalidation (R197) -/

/-- An invalidation as it begins. -/
def State.newInval (s : State) (p : Fin 3) (vf : Option (Fin 64)) (va : Option Nat) : Inval :=
  { id := s.nextInval, p := p, vf := vf, va := va, since := s.dtime }

section
variable {s : State} {p : Fin 3} {vf : Option (Fin 64)} {va : Option Nat} {i : Inval} (hi : s.newInval p vf va = i)
  (hcov : ∀ q ∈ s.allPins, i.covers q = false)
include hi hcov

/-- An invalidation whose translations nothing holds marks none of them. -/
theorem State.startInval_unheld : s.startInval p vf va = s.withInvals (s.nextInval + 1) (s.invals ++ [i])
    (s.tlb.filter fun l => !i.covers l.pin) (s.walks.filter fun b => !i.covers b.pin) := by
  subst hi
  exact State.mapPins_of_fixed fun q hq => if_neg (by rw [State.newInval] at hcov; rw [hcov q hq]; decide)

/-- It is done at once, and what it leaves is the stores of its partition performed, and the caches without its pages. -/
theorem State.inval_unheld (hmark : ∀ q ∈ s.allPins, s.nextInval ∉ q.mark) (hnew : ∀ j ∈ s.invals, j.id < s.nextInval) :
    (s.startInval p vf va).invalDone s.nextInval = true ∧
    (s.startInval p vf va).endInval s.nextInval =
      ((s.gangs.filter fun g => g.p == p).foldl State.drainGang s).withInvals (s.nextInval + 1) s.invals
        (s.tlb.filter fun l => !i.covers l.pin) (s.walks.filter fun b => !i.covers b.pin) := by
  rw [State.startInval_unheld hi hcov]
  have hid : i.id = s.nextInval := by rw [← hi]; rfl
  have hp : i.p = p := by rw [← hi]; rfl
  constructor
  · have hnone : s.allPins.any (fun q => q.mark.contains s.nextInval) = false := by
      rw [List.any_eq_false]
      intro q hq
      simpa using hmark q hq
    show (!s.allPins.any fun q => q.mark.contains s.nextInval) = true
    rw [hnone]; rfl
  · have hother : s.invals.filter (fun j => j.id == s.nextInval) = [] := by
      rw [List.filter_eq_nil_iff]
      intro j hj
      have := hnew j hj
      simp only [beq_iff_eq]; omega
    have hkeep : s.invals.filter (fun j => j.id ≠ s.nextInval) = s.invals := by
      rw [List.filter_eq_self]
      intro j hj
      have := hnew j hj
      simp only [ne_eq, decide_not, Bool.not_eq_true', decide_eq_false_iff_not]; omega
    have hfound : (s.invals ++ [i]).filter (fun j => j.id == s.nextInval) = [i] := by
      rw [List.filter_append, hother]; simp [hid]
    have hleft : (s.invals ++ [i]).filter (fun j => j.id ≠ s.nextInval) = s.invals := by
      rw [List.filter_append, hkeep]; simp [hid]
    have hdrain := State.drainGangs_withInvals (s.nextInval + 1) (s.invals ++ [i]) (s.tlb.filter fun l => !i.covers l.pin)
      (s.walks.filter fun b => !i.covers b.pin) (s.gangs.filter fun g => g.p == p) s
    have hgangs : (s.gangs.filter fun g => [i].any fun i => i.p == g.p) = s.gangs.filter fun g => g.p == p := by
      refine List.filter_congr fun g _ => ?_
      simp only [List.any_cons, List.any_nil, Bool.or_false, hp]
      exact Bool.beq_comm
    have hcaches {α : Type} (pin : α → Pin) (l : List α) :
        ((l.filter fun x => !i.covers (pin x)).filter fun x => !([i].any fun i => i.covers (pin x))) =
          l.filter fun x => !i.covers (pin x) := by
      rw [List.filter_filter]
      exact List.filter_congr fun x _ => by simp
    unfold State.endInval
    dsimp only [State.withInvals] at hdrain ⊢
    rw [hfound, hgangs, hdrain]
    dsimp only
    rw [hleft, hcaches, hcaches]
end

/-- The gangs of a partition, drained after a step that keeps the gangs. -/
theorem State.keepsGangs.drain_partition {s t : State} (h : s.keepsGangs t) (p : Fin 3) (u : State) :
    (t.gangs.filter fun g => g.p == p).foldl State.drainGang u = (s.gangs.filter fun g => g.p == p).foldl State.drainGang u := by
  obtain ⟨F, hF, hf⟩ := h
  have hp : ((fun g : Gang => g.p == p) ∘ F) = fun g => g.p == p := funext fun g => by
    obtain ⟨-, fp, -, -⟩ := hf g
    simp only [Function.comp, fp]
  rw [hF, List.filter_map, hp]
  exact State.drainGangs_map (fun g => by
    obtain ⟨fu, -, fn, -⟩ := hf g
    exact ⟨fu, fn⟩) _ u

/-! ### TLBINV -/

theorem State.rg_release {s : State} (hl : s.live) (x : GOp) : s.release.rg x = s.rg x := by
  have hat : s.release.atS = s.atS := by unfold State.atS; rw [me_release hl]
  unfold State.rg
  rw [hat, me_release hl]
/-- The state of a partition that lets its stores go, with an invalidation started and ended. -/
def State.forgets (s : State) (p : Fin 3) (i : Inval) : State :=
  ((s.gangs.filter fun g => g.p == p).foldl State.drainGang s.release).withInvals (s.nextInval + 1) s.invals
    (s.tlb.filter fun l => !i.covers l.pin) (s.walks.filter fun b => !i.covers b.pin)

/-- An invalidation that nothing holds up, after a release, is over at once. -/
theorem State.release_forgets {s : State} {p : Fin 3} {vf : Option (Fin 64)} {va : Option Nat} {i : Inval}
    (hi : s.newInval p vf va = i) (hcov : ∀ q ∈ s.allPins, i.covers q = false)
    (hmark : ∀ q ∈ s.allPins, s.nextInval ∉ q.mark) (hnew : ∀ j ∈ s.invals, j.id < s.nextInval) :
    (s.release.startInval p vf va).invalDone s.release.nextInval = true ∧
      (s.release.startInval p vf va).endInval s.release.nextInval = s.forgets p i := by
  obtain ⟨hn, hinv, htlb, hwalks, htime⟩ := State.invals_of_sansStored (State.drain_sansStored s s.cur)
  have hpins := State.drain_allPins s s.cur
  change s.release.nextInval = _ at hn
  change s.release.invals = _ at hinv
  change s.release.tlb = _ at htlb
  change s.release.walks = _ at hwalks
  change s.release.dtime = _ at htime
  change s.release.allPins = _ at hpins
  have hi' : s.release.newInval p vf va = i := by rw [← hi, State.newInval, State.newInval, hn, htime]
  have h := State.inval_unheld hi' (by rw [hpins]; exact hcov) (by rw [hpins, hn]; exact hmark) (by rw [hinv, hn]; exact hnew)
  have hgangs : (s.release.gangs.filter fun g => g.p == p).foldl State.drainGang s.release =
      (s.gangs.filter fun g => g.p == p).foldl State.drainGang s.release :=
    State.keepsGangs.drain_partition (State.keepsGangs.of_drain s s.cur) p _
  rw [hgangs, hinv, htlb, hwalks] at h
  rw [hn] at h ⊢
  exact h

/-- `TLBINV` of translations that nothing holds retires at once. -/
theorem execTlbinv_forgets {s : State} {kind : InvKind} {a b : GOp} {f : Fin 64} {i : Inval} (hl : s.live) (ha : s.atS = true)
    (hi : i = { id := s.nextInval, p := s.myGang.p, vf := if kind = .every then none else some f,
                va := if kind = .page then some (s.rg a).toNat else none, since := s.dtime })
    (hwait : s.me.sup.wait = none) (hb : (s.rg b).toNat = f.val)
    (hpage : kind = .page → (s.rg a).toNat < 2 ^ 56) (hcov : ∀ q ∈ s.allPins, i.covers q = false)
    (hmark : ∀ q ∈ s.allPins, s.nextInval ∉ q.mark) (hnew : ∀ j ∈ s.invals, j.id < s.nextInval) :
    exec (.tlbinv kind a b) s = .next (s.forgets s.myGang.p i).retired := by
  have hrb : (s.release.rg b).toNat = f.val := by rw [State.rg_release hl, hb]
  have hlt : (s.release.rg b).toNat < 64 := hrb ▸ f.isLt
  have hf : (⟨(s.release.rg b).toNat, hlt⟩ : Fin 64) = f := Fin.ext hrb
  have hnew' : s.newInval s.myGang.p (if kind = .every then none else some f)
      (if kind = .page then some (s.rg a).toNat else none) = i := hi.symm
  obtain ⟨hdone, hend⟩ := State.release_forgets hnew' hcov hmark hnew
  rw [exec_tlbinv, execTlbinv, State.supOnly_sup ha, hwait]
  dsimp only
  rw [dif_pos hlt]
  cases kind with
  | every =>
    simp only [if_true, reduceCtorEq, if_false] at hdone hend
    simp only [hdone, hend, if_true]; rfl
  | vf =>
    simp only [reduceCtorEq, if_false] at hdone hend
    simp only [hf, hdone, hend, if_true]; rfl
  | page =>
    simp only [if_true, reduceCtorEq, if_false] at hdone hend
    simp only [hf, State.rg_release hl a, if_neg (Nat.not_le.mpr (hpage rfl)), hdone, hend, if_true]; rfl

theorem Hart.eq_but_stores {x y : Hart} (h : ({ x with stores := [] } : Hart) = { y with stores := [] }) :
    x.st = y.st ∧ x.sup = y.sup := by
  have hst := congrArg Hart.st h
  have hsup := congrArg Hart.sup h
  exact ⟨hst, hsup⟩
/-- What is left after the invalidation: the hart that runs, but for its stores, and the gangs with theirs performed. -/
theorem State.forgets_live {s : State} (hl : s.live) (p : Fin 3) (i : Inval) : (s.forgets p i).live ∧
    (s.forgets p i).cur = s.cur ∧ ({ (s.forgets p i).me with stores := [] } : Hart) = { s.me with stores := [] } := by
  obtain ⟨h1, h2, h3⟩ := State.me_drainGangs_sans (State.live_drain hl) (s.gangs.filter fun g => g.p == p)
  refine ⟨h1, h2.trans (State.cur_drain s s.cur), h3.trans ?_⟩
  rw [State.me_drain hl]
theorem State.forgets_emptied (s : State) {p : Fin 3} (i : Inval) {g : Gang} (hg : g ∈ (s.forgets p i).gangs) (hp : g.p = p)
    {r : Fin 4} (hr : r.val < g.hn) : g.harts[r].stores = [] := by
  have hkeep : s.keepsGangs (s.forgets p i) :=
    (State.keepsGangs.of_drain s s.cur).trans (State.keepsGangs.of_drainGangs (s.gangs.filter fun g => g.p == p) s.release)
  obtain ⟨g', hg', hu, hp', hn, -⟩ := hkeep.before hg
  have hmem : g' ∈ s.gangs.filter fun g => g.p == p := List.mem_filter.mpr ⟨hg', by rw [hp', hp]; exact beq_self_eq_true p⟩
  exact State.emptied_drainGangs hmem (hn ▸ hr) s.release g hg hu.symm
/-- With no store on its way anywhere, only the caches change. -/
theorem State.forgets_of_empty {s : State} (h : ∀ g ∈ s.gangs, ∀ r : Fin 4, g.harts[r].stores = []) (p : Fin 3) (i : Inval) :
    s.forgets p i = s.withInvals (s.nextInval + 1) s.invals (s.tlb.filter fun l => !i.covers l.pin)
      (s.walks.filter fun b => !i.covers b.pin) := by
  unfold State.forgets State.release
  rw [State.drain_of_empty h, State.drainGangs_of_empty h]

theorem State.keepsGangs.of_retired {s : State} : s.keepsGangs s.retired := by
  unfold State.retired State.goto
  split
  · exact State.keepsGangs.of_modHart s s.cur fun _ e => e
  · exact State.keepsGangs.of_modHart s s.cur fun _ e => e
theorem State.tlb_retired (s : State) : s.retired.tlb = s.tlb ∧ s.retired.walks = s.walks := by
  unfold State.retired State.goto
  split <;> exact ⟨rfl, rfl⟩

/-- Settles O25: nothing holds the translations, so the invalidation is over when it starts. -/
theorem invalidationForgetsTranslations : Obligations.InvalidationForgetsTranslations := by
  unfold Obligations.InvalidationForgetsTranslations
  intro s kind a b f i hl ha hwait hb hpage hi hcov hmark hnew
  generalize ht : s.forgets s.myGang.p i = t
  obtain ⟨htl, htc, htme⟩ := State.forgets_live hl s.myGang.p i
  rw [ht] at htl htc htme
  obtain ⟨htst, htsup⟩ := Hart.eq_but_stores htme
  have htat : t.atS = s.atS := by unfold State.atS; rw [htst]
  have hpcv : t.pcv = s.pcv := by rw [State.pcv_sup (htat.trans ha), State.pcv_sup ha, htsup]
  obtain ⟨htlb, hwalks⟩ := State.tlb_retired t
  refine ⟨t.retired, ?_, ?_, ?_, ?_, ?_, ?_, ?_⟩
  · rw [execTlbinv_forgets hl ha hi hwait hb hpage hcov hmark hnew, ht]
  · rw [htlb, ← ht]; rfl
  · rw [hwalks, ← ht]; rfl
  · rw [State.retired, State.pcv_goto htl, hpcv]
  · intro g hg hp r hr
    obtain ⟨g', hg', -, hp', hn, hstores⟩ := State.keepsGangs.of_retired.before hg
    exact hstores r (State.forgets_emptied s i (ht ▸ hg') (hp'.trans hp) (hn ▸ hr))
  · intro l
    rw [(StepBut.of_nothing htl).memory, ← ht]
    cases l.kind <;> rfl
  · intro hempty
    have hcaches := State.forgets_of_empty hempty s.myGang.p i
    rw [ht] at hcaches
    refine StepBut.of_retire htl htc htat hpcv (Frame.of_device ?_ htc ?_) fun l => ?_
    · rw [hcaches]; rfl
    · rw [hcaches]; rfl
    · rw [hcaches]; rfl

end Sys2Proof.Machine
end

section
/-!
SUPPORT. Save blocks and recovery points, for O26.
-/

namespace Sys2Proof.Machine

/-! ### The checks of a save block (R198) -/

theorem SaveAccess.blockLoc_eq {s : State} {tk : Fin 8} {a : Word} {wr : Bool} {at_ : Nat → Loc} (h : SaveAccess s tk a wr at_)
    {k : Nat} (hk : k < 129) : blockLoc s.me.sup.tk[tk].pins a.toNat k = at_ k := by
  obtain ⟨q, hfind, hat⟩ := h.pages k hk
  unfold blockLoc
  rw [hfind, hat]; rfl
theorem SaveAccess.saveCheck_eq {s : State} {tk : Fin 8} {a : Word} {wr : Bool} {at_ : Nat → Loc}
    (h : SaveAccess s tk a wr at_) (ha : s.atS = true) : s.saveCheck tk a wr = .ok s.me.sup.tk[tk].pins := by
  have htoken : s.token tk = s.me.sup.tk[tk] := by unfold State.token; rw [ha]; rfl
  have hcovers : (s.me.sup.tk[tk]).covers a.toNat saveBytes = true := by
    obtain ⟨hlow, hhigh⟩ := h.covers
    rw [Token.covers, Bool.and_eq_true]
    exact ⟨decide_eq_true hlow, decide_eq_true hhigh⟩
  have hperm : (s.me.sup.tk[tk].pins.any fun q => (if wr then !q.w else !q.r) && decide (q.va < a.toNat + saveBytes) &&
      decide (a.toNat < q.va + q.size)) = false := by
    rw [List.any_eq_false]
    intro q hq hbad
    simp only [Bool.and_eq_true] at hbad
    obtain ⟨⟨hno, hlow⟩, hhigh⟩ := hbad
    have hyes := h.perm q hq (of_decide_eq_true hlow) (of_decide_eq_true hhigh)
    cases wr
    · rw [if_neg (by decide)] at hyes hno; rw [hyes] at hno; cases hno
    · rw [if_pos rfl] at hyes hno; rw [hyes] at hno; cases hno
  unfold State.saveCheck
  simp only [htoken, Token.stateTrap, h.valid, hcovers, h.aligned, hperm, Bool.not_true, Bool.false_eq_true, if_false, ne_eq,
    not_true_eq_false]

/-! ### Blocks written -/

/-- The quadwords of a save block, with their numbers. -/
def saveQuads (v : VReg) : List (Nat × Word) := (List.range 129).map fun k => (k, saveQuad v k)
theorem saveQuads_eq (v : VReg) : (v.el.toList ++ [BitVec.ofNat 64 (Tag.code v.tag)]).zipIdx.map (fun q => (q.2, q.1)) = saveQuads v := by
  apply List.ext_getElem
  · simp [saveQuads]
  · intro i h1 h2
    simp only [saveQuads, List.getElem_map, List.getElem_zipIdx, List.getElem_range, zero_add, saveQuad]
    by_cases hi : i < 128
    · rw [dif_pos hi, List.getElem_append_left (by simpa using hi)]; simp
    · have : i = 128 := by simp [saveQuads] at h2; omega
      subst this
      rw [dif_neg hi, List.getElem_append_right (by simp)]; simp

/-- A performed write leaves the reasons to refuse another as they were. -/
theorem State.writeRefused_writeHome {s : State} {l : Loc} {bs : List Byte} (hr : s.writeRefused l bs.length = false)
    (p : Fin 3) (job : Nat) (m : Loc) (n : Nat) : (s.writeHome p job l bs).writeRefused m n = s.writeRefused m n := by
  unfold State.writeHome
  rw [if_neg (by rw [hr]; decide)]
  split <;> rfl

/-- Quadwords that no home refuses are written one after another. -/
theorem Moved.writeQuads {eo : Hart → Hart} {eg : Gang → Gang} {s u : State} {mem : Loc → Byte}
    (h : Moved Hart.sansCache eo eg State.sansBytes s u mem) (hw : u.memWf) (p : Fin 3) (job : Nat) (pins : List Pin) (a : Nat)
    {qs : List (Nat × Word)} (hr : ∀ q ∈ qs, u.writeRefused (blockLoc pins a q.1) 8 = false) :
    Moved Hart.sansCache eo eg State.sansBytes s (u.writeQuads p job pins a qs)
      (qs.foldl (fun m q => putAt m (blockLoc pins a q.1) (bytesOfNat 8 q.2.toNat)) mem) := by
  induction qs generalizing u mem with
  | nil => exact h
  | cons q qs ih =>
    obtain ⟨k, w⟩ := q
    have hlen : (bytesOfNat 8 w.toNat).length = 8 := length_bytesOfNat _ _
    have hk : u.writeRefused (blockLoc pins a k) (bytesOfNat 8 w.toNat).length = false := by
      rw [hlen]; exact hr _ List.mem_cons_self
    refine ih ((h.writeHome hw hk (by rw [hlen]; decide) p job).cachePut _ _) ?_ fun q hq => ?_
    · exact State.memWf_writeHome hw p job _ _
    · exact (State.writeRefused_writeHome hk p job _ _).trans (hr q (List.mem_cons_of_mem _ hq))

/-- VSAVE of a block on pages that it may write. -/
theorem execVsave_saves {s : State} {tk : Fin 8} {a : GOp} {vm : Fin 48} {at_ : Nat → Loc} {v : VReg} (hl : s.live)
    (hw : s.memWf) (hc : s.calm) (ha : s.atS = true) (hv : v = s.me.v[(⟨vm.val, by omega⟩ : Fin 60)])
    (h : SaveAccess s tk (s.rg a) true at_) (hd : s.myGang.diverged = false)
    (hr : ∀ k, k < 129 → s.writeRefused (at_ k) 8 = false) :
    ∃ t, exec (.vsave tk a vm) s = .next t ∧
      StepBut Hart.sansCache hideNone hideNone State.sansMem s t
        ((List.range 129).foldl (fun m k => putAt m (at_ k) (bytesOfNat 8 (saveQuad v k).toNat)) s.byteAt) := by
  have hu := State.Alike.of_release hc.2
  have hmoved := ((Moved.refl (eh := Hart.sansCache) (eo := hideNone) (eg := hideNone) (es := State.sansBytes) hl).alike
    hu).writeQuads (hu.memWf hw) s.myGang.p s.myGang.job s.me.sup.tk[tk].pins (s.rg a).toNat (qs := saveQuads v) fun q hq => by
      obtain ⟨k, hk, rfl⟩ := List.mem_map.mp hq
      have hk := List.mem_range.mp hk
      rw [hu.writeRefused, h.blockLoc_eq hk, hr k hk]
  have hmem : (saveQuads v).foldl (fun m q => putAt m (blockLoc s.me.sup.tk[tk].pins (s.rg a).toNat q.1) (bytesOfNat 8 q.2.toNat))
      s.byteAt = (List.range 129).foldl (fun m k => putAt m (at_ k) (bytesOfNat 8 (saveQuad v k).toNat)) s.byteAt := by
    rw [saveQuads, List.foldl_map]
    exact List.foldl_ext _ _ _ fun m k hk => by rw [h.blockLoc_eq (List.mem_range.mp hk)]
  rw [hmem] at hmoved
  refine ⟨_, ?_, (hmoved.weaken (fun _ _ e => e) (fun _ _ e => e) (fun _ _ e => e)
    fun _ _ e => State.sansMem_of_sansBytes e).retire⟩
  rw [exec_vsave, execVsave, State.supOnly_sup ha, h.saveCheck_eq ha]
  simp only [State.pair_eq hd, ← hv, saveQuads_eq]
  rfl

/-! ### Blocks read -/

/-- Quadwords that can be read are the numbers that their bytes hold. -/
theorem State.LoadedAt.readQuads {s u : State} (h : s.LoadedAt u) (hclean : ∀ l n, s.readPoison l n = false → u.readPoison l n = false)
    (pins : List Pin) (a : Nat) {ks : List Nat}
    (hk : ∀ k ∈ ks, (blockLoc pins a k).kind ≠ .io ∧ s.readPoison (blockLoc pins a k) 8 = false) :
    ∃ v, u.readQuads pins a ks = (ks.map fun k => some (word (numAt s.byteAt (blockLoc pins a k) 8)), v) ∧ s.LoadedAt v := by
  induction ks generalizing u with
  | nil => exact ⟨u, rfl, h⟩
  | cons k ks ih =>
    obtain ⟨hio, hp⟩ := hk k List.mem_cons_self
    have hnum : natOfBytes (u.readHome (blockLoc pins a k) 8) = numAt s.byteAt (blockLoc pins a k) 8 := by
      rw [State.readHome_number 8 hio, funext h.moved.memory]
    have hread : s.LoadedAt ((u.afterRead (blockLoc pins a k) 8).modMe fun x =>
        x.cachePut (blockLoc pins a k) (u.readHome (blockLoc pins a k) 8)) := by
      refine ⟨(h.moved.afterRead _ _).cachePut _ _, ?_⟩
      have hlive := (h.moved.afterRead (blockLoc pins a k) 8).same.live
      rw [State.me_modMe hlive, ← h.me, ← State.me_of_gangs (State.afterRead_gangs u _ _) (State.afterRead_cur u _ _)]
      rfl
    obtain ⟨v, hv, hsv⟩ := ih hread (fun l n hl => State.readPoison_afterRead (hclean l n hl) _ _)
      fun k hk' => hk k (List.mem_cons_of_mem _ hk')
    refine ⟨v, ?_, hsv⟩
    simp only [State.readQuads, hclean _ _ hp, Bool.false_eq_true, if_false, hv, hnum, List.map_cons]

theorem Tag.ofCode_word (t : Tag) : Tag.ofCode (BitVec.ofNat 64 t.code).toNat = some t := by
  rw [BitVec.toNat_ofNat, Nat.mod_eq_of_lt (Nat.lt_of_lt_of_le (Tag.code_lt t) (by decide))]
  exact Tag.ofCode_code t
theorem saveQuad_tag (w : VReg) : saveQuad w 128 = BitVec.ofNat 64 w.tag.code := rfl
theorem saveQuad_el (w : VReg) (e : Fin 128) : saveQuad w e.val = w.el[e] := dif_pos e.isLt
theorem Hart.unbound {h : Hart} {r : Fin 48} (hb : h.bound r.val = none) :
    ¬ (40 ≤ r.val ∧ (h.str[(⟨r.val - 40, by omega⟩ : Fin 8)]).bound = true) := by
  rintro ⟨hr, hs⟩
  have hno : streamNo r.val = some ⟨r.val - 40, by omega⟩ := dif_pos ⟨hr, r.isLt⟩
  simp only [Hart.bound, hno, hs, if_true, reduceCtorEq] at hb

/-- The register that a block restores (R198). -/
def VReg.restored (w : VReg) : VReg := { el := w.el, tag := w.tag, vln := 128, dirty := true }

/-- VREST of a block that can be read, into a register that no stream is bound to. -/
theorem execVrest_restores {s : State} {tk : Fin 8} {a : GOp} {vm : Fin 48} {at_ : Nat → Loc} (hl : s.live)
    (hc : s.calm) (ha : s.atS = true) {w : VReg} (h : SaveAccess s tk (s.rg a) false at_) (hb : s.me.bound vm.val = none)
    (hr : ∀ k, k < 129 → (at_ k).kind ≠ .io ∧ s.readPoison (at_ k) 8 = false ∧
      numAt s.byteAt (at_ k) 8 = (saveQuad w k).toNat) :
    ∃ t, exec (.vrest tk vm a) s = .next t ∧
      (∀ k : Fin 60, t.me.v[k] = if k.val = vm.val then w.restored else s.me.v[k]) ∧
      StepBut (fun h => { h.sansCache with v := Vector.replicate 60 VReg.empty, fillV := [] }) hideNone hideNone
        State.sansReads s t s.byteAt := by
  have hu := State.Alike.of_release hc.2
  have hloaded : s.LoadedAt s.release := ⟨(Moved.refl hl).alike hu, congrArg Hart.sansCache hu.me⟩
  have hclean (l : Loc) (n : Nat) (hp : s.readPoison l n = false) : s.release.readPoison l n = false := by
    rw [hu.readPoison, hp]
  obtain ⟨v, hread, hv⟩ := hloaded.readQuads hclean s.me.sup.tk[tk].pins (s.rg a).toNat (ks := List.range 129) fun k hk => by
    rw [h.blockLoc_eq (List.mem_range.mp hk)]
    obtain ⟨hio, hp, -⟩ := hr k (List.mem_range.mp hk)
    exact ⟨hio, hp⟩
  have hquads : ((List.range 129).map fun k => some (word (numAt s.byteAt (blockLoc s.me.sup.tk[tk].pins (s.rg a).toNat k) 8))) =
      (List.range 129).map fun k => some (saveQuad w k) := by
    refine List.map_congr_left fun k hk => ?_
    obtain ⟨-, -, hnum⟩ := hr k (List.mem_range.mp hk)
    rw [h.blockLoc_eq (List.mem_range.mp hk), hnum]
    exact congrArg some (BitVec.ofNat_toNat _ _ |>.trans (BitVec.setWidth_eq _))
  rw [hquads] at hread
  have hget (k : Nat) (hk : k < 129) : ((List.range 129).map fun k => some (saveQuad w k)).getD k none = some (saveQuad w k) := by
    rw [List.getD_eq_getElem _ _ (by simpa using hk), List.getElem_map, List.getElem_range]
  have hnone : ((List.range 129).map fun k => some (saveQuad w k)).any Option.isNone = false := by
    rw [List.any_eq_false]
    intro q hq
    obtain ⟨k, -, rfl⟩ := List.mem_map.mp hq
    exact Bool.false_ne_true
  have hel : (vgen 128 fun e => (((List.range 129).map fun k => some (saveQuad w k)).getD e none).getD 0) = w.el := by
    refine Vector.ext fun e he => ?_
    show (vgen 128 _)[(⟨e, he⟩ : Fin 128)] = w.el[(⟨e, he⟩ : Fin 128)]
    rw [vgen_getElem, hget e (Nat.lt_succ_of_lt he)]
    exact saveQuad_el w ⟨e, he⟩
  generalize hF : (fun x : Hart => { x with v := vput x.v (⟨vm.val, by omega⟩ : Fin 60) w.restored,
                                            fillV := x.fillV.filter fun f => f.1 ≠ (⟨vm.val, by omega⟩ : Fin 60) }) = F
  have hstep : Moved (fun h => { h.sansCache with v := Vector.replicate 60 VReg.empty, fillV := [] }) hideNone hideNone
      State.sansReads s (v.modMe F) s.byteAt := by
    rw [← hF]
    refine (hv.moved.weaken (fun x y e => ?_) (fun _ _ e => e) (fun _ _ e => e) fun _ _ e => e).modMe _
      (fun x b => by cases b <;> rfl) (fun _ => rfl) (fun _ => rfl) (fun _ => rfl) (fun _ => rfl) (fun _ => rfl) fun _ => rfl
    rw [e]
  refine ⟨(v.modMe F).retired, ?_, fun k => ?_, hstep.retire⟩
  · rw [exec_vrest, execVrest, State.supOnly_sup ha]
    dsimp only
    rw [dif_neg (Hart.unbound hb), h.saveCheck_eq ha]
    simp only [hread, hget 128 (by decide), Option.map_some, saveQuad_tag, Tag.ofCode_word, hnone, Bool.false_eq_true, if_false,
      hel]
    rw [← hF]; rfl
  · have hat : (v.modMe F).atS = true := hstep.same.atS.trans ha
    rw [State.me_retired_eq hstep.same.live, hat, if_pos rfl, State.me_modMe hv.moved.same.live, ← hF]
    show (vput v.me.v _ w.restored)[k] = _
    rw [vput_getElem, hv.v]
    by_cases hk : k.val = vm.val
    · rw [if_pos (Fin.ext hk.symm), if_pos hk]
    · rw [if_neg fun e => hk (congrArg Fin.val e).symm, if_neg hk]

/-! ### Recovery points (R45, R196) -/

theorem State.retired_cur (s : State) : s.retired.cur = s.cur := by
  unfold State.retired State.goto; split <;> rfl
theorem State.live_retired {s : State} (hl : s.live) : s.retired.live := by
  unfold State.retired State.goto
  split
  · exact State.live_modSup hl _
  · exact State.live_modMe hl _
theorem State.retired_nextEntry (s : State) : s.retired.nextEntry = s.nextEntry := by
  unfold State.retired State.goto; split <;> rfl

/-- CKPT takes the recovery point of a PAIRED gang whose copies agree, as its harts stand when it has retired. -/
theorem execCkpt_takes {s : State} (hl : s.live) (hu : s.atS = false) (hp : s.myJob.rcd.paired = true)
    (hd : s.myGang.diverged = false) :
    ∃ t, exec .ckpt s = .next t ∧
      StepBut hideNone hideNone (fun g => { g with recov := none }) hideNone s t s.byteAt ∧
      t.myGang.recov = some { harts := t.myGang.harts, used := false, entry := s.nextEntry } := by
  have hret := StepBut.of_nothing hl
  have hcur := State.retired_cur s
  have hlive := State.live_retired hl
  generalize hf : (fun g : Gang => { g with recov := some { harts := g.harts, used := false, entry := s.retired.nextEntry } }) = f
  have hmoved : Moved hideNone hideNone (fun g => { g with recov := none }) hideNone s.retired (s.retired.modMyGang f)
      s.retired.byteAt := (Moved.refl hlive).modMyGang (fun _ => by rw [← hf]) (fun _ => by rw [← hf]) fun _ => by rw [← hf]
  have hme : (s.retired.modMyGang f).me = s.retired.me :=
    (State.me_modMyGang hlive fun _ => by rw [← hf]).trans (by rw [← hf]; exact (State.me_eq _).symm)
  refine ⟨s.retired.modMyGang f, ?_, ?_, ?_⟩
  · have hcond : (s.atS || !s.myJob.rcd.paired) = false := by rw [hu, hp]; rfl
    rw [exec_ckpt, execCkpt, hcond, if_neg (by decide), State.pair_eq hd, ← hf]
  · refine ⟨hmoved.same.pcv.trans hret.pc, fun hs => by rw [hme]; exact hret.ei hs, hmoved.same.atS.trans hret.level, ?_,
      fun l => (hmoved.memory l).trans (hret.memory l)⟩
    exact (hret.frame.weaken (fun _ _ e => e) (fun _ _ e => e) (fun x y e => by rw [show x = y from e]) fun _ _ e => e).trans
      hmoved.frame hcur hret.level
  · have hgang : (s.retired.modMyGang f).myGang = f s.retired.myGang := State.myGang_modGang hlive f fun _ => by rw [← hf]
    rw [hgang, ← hf, State.retired_nextEntry]

/-- Settles O26, clause by clause. -/
theorem saveBlocksAndCheckpoints : Obligations.SaveBlocksAndCheckpoints := by
  unfold Obligations.SaveBlocksAndCheckpoints
  constructor
  · intro s tk a vm at_ v hl hw hc ha hv
    exact ⟨fun h hd hr => execVsave_saves hl hw hc ha hv h hd hr, fun w h hb hr => execVrest_restores hl hc ha h hb hr⟩
  · intro s hl
    refine ⟨fun hno => ⟨s.retired, ?_, StepBut.of_nothing hl⟩, fun hu hp hd => execCkpt_takes hl hu hp hd⟩
    have hcond : (s.atS || !s.myJob.rcd.paired) = true := by
      rcases hno with ha | hp
      · rw [ha]; rfl
      · rw [hp]; exact Bool.or_true _
    rw [exec_ckpt, execCkpt, if_pos hcond]; rfl

end Sys2Proof.Machine
end


section
/-!
SUPPORT. The host's invalidations, from the write of IGO to the end of the grace (R197, R229, R363, R375), for O60.
-/

namespace Sys2Proof.Machine

/-! ### What an invalidation covers -/

theorem Inval.covers_iff (i : Inval) (q : Pin) : i.covers q = true ↔
    q.p = i.p ∧ (∀ f, i.vf = some f → q.vf = f) ∧ ∀ a, i.va = some a → q.va ≤ a ∧ a < q.va + q.size := by
  unfold Inval.covers
  rw [Bool.and_eq_true, Bool.and_eq_true, beq_iff_eq, and_assoc, eq_comm]
  refine and_congr_right' (and_congr ?_ ?_)
  · cases i.vf with
    | none => simp
    | some f =>
      simp only [beq_iff_eq, Option.some.injEq, forall_eq']
      exact eq_comm
  · cases i.va <;> simp
theorem State.newInval_covers_page {s : State} {p : Fin 3} {vf : Fin 64} {a : Nat} (q : Pin) :
    (s.newInval p (some vf) (some a)).covers q = true ↔ q.p = p ∧ q.vf = vf ∧ q.va ≤ a ∧ a < q.va + q.size := by
  simp [Inval.covers_iff, State.newInval]
theorem State.newInval_covers_function {s : State} {p : Fin 3} {vf : Fin 64} (q : Pin) :
    (s.newInval p (some vf) none).covers q = true ↔ q.p = p ∧ q.vf = vf := by
  simp [Inval.covers_iff, State.newInval]
theorem mem_filter_not {α : Type} {l : List α} {f : α → Bool} {P : α → Prop} (h : ∀ x, f x = true ↔ P x) (x : α) :
    x ∈ l.filter (fun y => !f y) ↔ x ∈ l ∧ ¬ P x := by
  rw [List.mem_filter, ← h, Bool.not_eq_true', Bool.not_eq_true]

/-! ### IGO (R375) -/

/-- What IGO does to an idle function: it starts the invalidation. -/
theorem State.igo_of_idle {s : State} {p : Fin 3} {vf : Fin 64} (hidle : (s.func p vf).ibusy = none) (kind : BitVec 2)
    (va : Option (BitVec 40)) : s.igo p vf kind va =
      ((s.modFunc p vf fun f => { f with ikind := kind, iva := va.getD f.iva }).startInval p (some vf)
        (va.map fun a => a.toNat * 65536)).modFunc p vf fun f => { f with ibusy := some s.nextInval } :=
  if_neg (by rw [State.func_modFunc, hidle]; decide)
/-- What IGO does while an invalidation runs: it is ignored, with CERR [1]. -/
theorem State.igo_of_busy {s : State} {p : Fin 3} {vf : Fin 64} (hbusy : (s.func p vf).ibusy ≠ none) (kind : BitVec 2)
    (va : Option (BitVec 40)) : s.igo p vf kind va =
      (s.modFunc p vf fun f => { f with ikind := kind, iva := va.getD f.iva }).modFunc p vf
        fun f => { f with cerr := f.cerr ||| 2 } :=
  if_pos (by rw [State.func_modFunc]; exact Option.isSome_iff_ne_none.mpr hbusy)
theorem State.igo_starts {s : State} {p : Fin 3} {vf : Fin 64} (hidle : (s.func p vf).ibusy = none) (kind : BitVec 2)
    (va : Option (BitVec 40)) {i : Inval} (hi : s.newInval p (some vf) (va.map fun a => a.toNat * 65536) = i) :
    ((s.igo p vf kind va).func p vf).ibusy = some s.nextInval ∧ (s.igo p vf kind va).invals = s.invals ++ [i] ∧
      (s.igo p vf kind va).tlb = (s.tlb.filter fun l => !i.covers l.pin) ∧
      (s.igo p vf kind va).walks = (s.walks.filter fun b => !i.covers b.pin) ∧
      ∀ l, (s.igo p vf kind va).byteAt l = s.byteAt l := by
  subst hi
  rw [State.igo_of_idle hidle, State.func_modFunc]
  exact ⟨rfl, rfl, rfl, rfl, fun _ => rfl⟩
theorem State.igo_ignored {s : State} {p : Fin 3} {vf : Fin 64} (hbusy : (s.func p vf).ibusy ≠ none) (kind : BitVec 2)
    (va : Option (BitVec 40)) :
    ((s.igo p vf kind va).func p vf).cerr = (s.func p vf).cerr ||| 2 ∧
      ((s.igo p vf kind va).func p vf).ibusy = (s.func p vf).ibusy ∧
      (s.igo p vf kind va).tlb = s.tlb ∧ (s.igo p vf kind va).invals = s.invals := by
  rw [State.igo_of_busy hbusy, State.func_modFunc, State.func_modFunc]
  exact ⟨rfl, rfl, rfl, rfl⟩

section
variable {s : State} {p : Fin 3} {vf : Fin 64} (hrun : (s.prt p).st = .run)
include hrun

theorem execInvalidatePage_run (va : BitVec 56) : exec (.invalidatePage p vf va) s =
    .next (s.igo p vf 0 (some (BitVec.ofNat 40 (va.toNat / 65536)))) := by
  rw [exec_invalidatePage, execInvalidatePage, State.inRun_of_run hrun, if_pos rfl]
theorem execInvalidateFunction_run : exec (.invalidateFunction p vf) s = .next (s.igo p vf 1 none) := by
  rw [exec_invalidateFunction, execInvalidateFunction, State.inRun_of_run hrun, if_pos rfl]

/-- INVALIDATE_PAGE of an idle function. -/
theorem execInvalidatePage_starts (hidle : (s.func p vf).ibusy = none) (va : BitVec 56) :
    ∃ t, exec (.invalidatePage p vf va) s = .next t ∧ (t.func p vf).ibusy = some s.nextInval ∧
      t.invals = s.invals ++ [s.newInval p (some vf) (some (va.toNat / 65536 * 65536))] ∧
      (∀ l, l ∈ t.tlb ↔ l ∈ s.tlb ∧ ¬ (l.pin.p = p ∧ l.pin.vf = vf ∧ l.pin.va ≤ va.toNat / 65536 * 65536 ∧
        va.toNat / 65536 * 65536 < l.pin.va + l.pin.size)) ∧
      (∀ b, b ∈ t.walks ↔ b ∈ s.walks ∧ ¬ (b.pin.p = p ∧ b.pin.vf = vf ∧ b.pin.va ≤ va.toNat / 65536 * 65536 ∧
        va.toNat / 65536 * 65536 < b.pin.va + b.pin.size)) ∧ ∀ l, t.byteAt l = s.byteAt l := by
  have hva : (BitVec.ofNat 40 (va.toNat / 65536)).toNat = va.toNat / 65536 := by
    rw [BitVec.toNat_ofNat, Nat.mod_eq_of_lt (by have := va.isLt; omega)]
  obtain ⟨hb, hinv, htlb, hwalks, hmem⟩ := State.igo_starts hidle 0 (some (BitVec.ofNat 40 (va.toNat / 65536)))
    (i := s.newInval p (some vf) (some (va.toNat / 65536 * 65536))) (by rw [Option.map_some, hva])
  refine ⟨_, execInvalidatePage_run hrun va, hb, hinv, fun l => ?_, fun b => ?_, hmem⟩
  · rw [htlb]
    exact mem_filter_not (fun l : Leaf => State.newInval_covers_page l.pin) l
  · rw [hwalks]
    exact mem_filter_not (fun b : Branch => State.newInval_covers_page b.pin) b
/-- INVALIDATE_FUNCTION of an idle function. -/
theorem execInvalidateFunction_starts (hidle : (s.func p vf).ibusy = none) :
    ∃ t, exec (.invalidateFunction p vf) s = .next t ∧ (t.func p vf).ibusy = some s.nextInval ∧
      (∀ l, l ∈ t.tlb ↔ l ∈ s.tlb ∧ ¬ (l.pin.p = p ∧ l.pin.vf = vf)) ∧
      (∀ b, b ∈ t.walks ↔ b ∈ s.walks ∧ ¬ (b.pin.p = p ∧ b.pin.vf = vf)) ∧ ∀ l, t.byteAt l = s.byteAt l := by
  obtain ⟨hb, -, htlb, hwalks, hmem⟩ := State.igo_starts hidle 1 none (i := s.newInval p (some vf) none) rfl
  refine ⟨_, execInvalidateFunction_run hrun, hb, fun l => ?_, fun b => ?_, hmem⟩
  · rw [htlb]
    exact mem_filter_not (fun l : Leaf => State.newInval_covers_function l.pin) l
  · rw [hwalks]
    exact mem_filter_not (fun b : Branch => State.newInval_covers_function b.pin) b
end

/-! ### Completion (R197, R362) -/

theorem State.drainGangs_sansStored (gs : List Gang) (s : State) : (gs.foldl State.drainGang s).sansStored = s.sansStored := by
  have hranks (u : Nat) (rs : List (Fin 4)) (s : State) :
      (rs.foldl (fun s r => s.drain { gang := u, rank := r }) s).sansStored = s.sansStored := by
    induction rs generalizing s with
    | nil => rfl
    | cons r rs ih => rw [List.foldl_cons, ih, State.drain_sansStored]
  induction gs generalizing s with
  | nil => rfl
  | cons g gs ih => rw [List.foldl_cons, ih]; exact hranks _ _ _
theorem State.invalDone_iff (s : State) (id : Nat) : s.invalDone id = true ↔ ∀ q ∈ s.allPins, id ∉ q.mark := by
  simp [State.invalDone]
/-- The end of an invalidation: stores are performed, then the caches forget. -/
theorem State.endInval_eq (s : State) (id : Nat) {is : List Inval} (his : (s.invals.filter fun j => j.id == id) = is) :
    s.endInval id = ((s.gangs.filter fun g => is.any fun i => i.p == g.p).foldl State.drainGang s).withInvals s.nextInval
      (s.invals.filter fun i => i.id ≠ id) (s.tlb.filter fun l => !is.any fun i => i.covers l.pin)
      (s.walks.filter fun b => !is.any fun i => i.covers b.pin) := by
  subst his
  generalize hd : (s.gangs.filter fun g => (s.invals.filter fun j => j.id == id).any fun i => i.p == g.p).foldl
    State.drainGang s = d
  obtain ⟨hn, hinv, htlb, hwalks, -⟩ := State.invals_of_sansStored (hd ▸ State.drainGangs_sansStored _ s)
  rw [← hn, ← htlb, ← hwalks]
  have hall : (s.invals.filter fun i => i.id ≠ id) = d.invals.filter fun i => i.id ≠ id := by rw [hinv]
  rw [hall, ← hd]
  rfl
/-- The end of one invalidation: the stores of its partition are performed, and the caches forget what it covers. -/
theorem State.endInval_single {s : State} {id : Nat} {i : Inval} (hi : (s.invals.filter fun j => j.id == id) = [i]) :
    s.endInval id = ((s.gangs.filter fun g => g.p == i.p).foldl State.drainGang s).withInvals s.nextInval
      (s.invals.filter fun i => i.id ≠ id) (s.tlb.filter fun l => !i.covers l.pin)
      (s.walks.filter fun b => !i.covers b.pin) := by
  have hany {α : Type} (f : Inval → α → Bool) (x : α) : ([i].any fun j => f j x) = f i x := Bool.or_false _
  have hp (g : Gang) : (i.p == g.p) = (g.p == i.p) := BEq.comm
  rw [State.endInval_eq s id hi]
  simp only [hany fun j g => j.p == Gang.p g, hp, hany fun j l => j.covers (Leaf.pin l), hany fun j b => j.covers (Branch.pin b)]
/-- INVALIDATION_COMPLETE of an invalidation of which no pin is left. -/
theorem execInvalidationComplete_ends {s : State} {p : Fin 3} {vf : Fin 64} {id : Nat} (hbusy : (s.func p vf).ibusy = some id)
    (hfree : ∀ q ∈ s.allPins, id ∉ q.mark) :
    exec (.invalidationComplete p vf) s = .next ((s.endInval id).modFunc p vf fun f => { f with ibusy := none }) := by
  rw [exec_invalidationComplete, execInvalidationComplete, hbusy]
  exact if_pos ((State.invalDone_iff s id).mpr hfree)
theorem execInvalidationComplete_waits {s : State} {p : Fin 3} {vf : Fin 64} {id : Nat} (hbusy : (s.func p vf).ibusy = some id)
    (hheld : ∃ q ∈ s.allPins, id ∈ q.mark) : exec (.invalidationComplete p vf) s = .next s := by
  obtain ⟨q, hq, hm⟩ := hheld
  rw [exec_invalidationComplete, execInvalidationComplete, hbusy]
  exact if_neg fun hdone => (State.invalDone_iff s id).mp hdone q hq hm

/-! ### The end of the grace (R229, R363) -/

theorem Hart.inside_of_wait {x : Hart} {w : Wait} (hw : x.wait = some w) (hne : w.what ≠ .fill) : x.inside = true := by
  rw [Hart.inside, hw]
  exact bne_iff_ne.mpr hne
theorem Hart.not_inside {x : Hart} (h : ∀ w, x.wait = some w → w.what = .fill) : x.inside = false := by
  unfold Hart.inside
  cases hw : x.wait with
  | none => rfl
  | some w =>
    rw [Option.any_some, h w hw]
    exact bne_self_eq_false _
theorem Hart.revoke_inside {x : Hart} (h : x.inside = true) (id : Nat) : x.revoke id = x := if_pos h
theorem Hart.revoke_tk {x : Hart} (h : x.inside = false) (id : Nat) (k : Fin 8) : (x.revoke id).tk[k] = (x.tk[k]).revoke id := by
  rw [Hart.revoke, h, if_neg Bool.false_ne_true]
  exact Vector.getElem_map ..
/-- A valid token is revoked just where a pin of it is marked, and else stays as it is. -/
theorem Token.revoke_of_valid {t : Token} (hv : t.st = .valid) (id : Nat) :
    ((t.revoke id).st = .revoked ↔ ∃ q ∈ t.pins, id ∈ q.mark) ∧ ((t.revoke id).st ≠ .revoked → t.revoke id = t) := by
  have hany : (t.pins.any fun q => q.mark.contains id) = true ↔ ∃ q ∈ t.pins, id ∈ q.mark := by simp
  have hcond : (t.st == .valid && t.pins.any fun q => q.mark.contains id) = t.pins.any fun q => q.mark.contains id := by
    rw [hv]; rfl
  rw [← hany, Token.revoke, hcond]
  split
  · next hmarked => exact ⟨iff_of_true rfl hmarked, fun hne => absurd rfl hne⟩
  · next hmarked => exact ⟨iff_of_false (by rw [hv]; decide) hmarked, fun _ => rfl⟩

/-- A gang at the end of the grace of an invalidation. -/
def Gang.revoke (id : Nat) (g : Gang) : Gang := { g with harts := g.harts.map (Hart.revoke id) }
theorem State.hart_revoke {s t : State} {id : Nat} (ht : t.gangs = s.gangs.map (Gang.revoke id)) {h : HartId}
    (hsome : (s.gang? h.gang).isSome) : t.hart h = (s.hart h).revoke id := by
  obtain ⟨g, hg⟩ := Option.isSome_iff_exists.mp hsome
  have hg' : t.gang? h.gang = some (g.revoke id) := by
    rw [State.gang?_map (Gang.revoke id) ht fun _ => rfl, hg, Option.map_some]
  unfold State.hart State.gang
  rw [hg, hg']
  exact Vector.getElem_map ..
/-- PIN_GRACE_EXPIRY once the grace is over. -/
theorem execPinGraceExpiry_expires {s : State} {id : Nat} {i : Inval} (hi : s.invals.find? (fun x => x.id == id) = some i)
    (hover : i.since + 100000 ≤ s.dtime) :
    ∃ t, exec (.pinGraceExpiry id) s = .next t ∧
      { t with gangs := [], sweeps := s.sweeps, invals := [] } = { s with gangs := [], invals := [] } ∧
      t.invals = (s.invals.map fun j => if j.id = id then { j with expired := true } else j) ∧
      t.gangs = s.gangs.map (Gang.revoke id) := by
  have hgrace : ¬ s.dtime < i.since + pinGrace := Nat.not_lt.mpr hover
  have hexec : exec (.pinGraceExpiry id) s = execPinGraceExpiry id s := rfl
  rw [hexec, execPinGraceExpiry, hi]
  simp only [if_neg hgrace]
  exact ⟨_, rfl, rfl, rfl, rfl⟩

end Sys2Proof.Machine
end


section
/-!
SUPPORT. Accesses of the host and of the twin within one line (R370, R372, R378, R401), for O60.
-/

namespace Sys2Proof.Machine

/-! ### One line -/

/-- Bytes within one line are one piece. -/
theorem linePieces_line {a n : Nat} (hn : 0 < n) (hl : a % 128 + n ≤ 128) : linePieces a n = [(a, n)] := by
  have hone : ceilDiv (a % 128 + n) 128 = 1 := by rw [ceilDiv, if_neg (by decide)]; omega
  unfold linePieces
  rw [hone, List.range_one, List.map_singleton]
  have hlo : max a ((a / 128 + 0) * 128) = a := by omega
  have hlen : min (a + n) ((a / 128 + 0 + 1) * 128) - a = n := by omega
  simp only [hlo, hlen]
/-- A write within one line covers a whole line only as the 128 bytes of its own. -/
theorem mem_lineClear_line {ls : List Nat} {a n : Nat} (hn : 0 < n) (hl : a % 128 + n ≤ 128) (k : Nat) :
    k ∈ lineClear ls a n ↔ k ∈ ls ∧ ¬ (k = a / 128 ∧ n = 128) := by
  unfold lineClear
  rw [List.mem_filter]
  refine and_congr_right' ?_
  simp only [Bool.not_eq_true', Bool.and_eq_false_iff, decide_eq_false_iff_not]
  omega

/-! ### Parts of an access -/

section
variable {s : State} {f : Nat → Option Nat} {a : Nat} (n : Nat)

theorem State.partsRead_at {pa : Nat} (hf : f a = some pa) : s.partsRead f [(a, n)] =
    ((s.readHome { kind := .dev, pa := pa } n, s.readPoison { kind := .dev, pa := pa } n),
      s.afterRead { kind := .dev, pa := pa } n) := by
  simp [State.partsRead, hf]
theorem State.partsRead_nowhere (hf : f a = none) : s.partsRead f [(a, n)] = ((List.replicate n 0, false), s) := by
  simp [State.partsRead, hf]
theorem State.partsWrite_at {pa : Nat} (hf : f a = some pa) (p : Fin 3) (bs : List Byte) :
    s.partsWrite p f [(a, bs.length)] bs = s.writeHome p 0 { kind := .dev, pa := pa } bs := by
  simp [State.partsWrite, hf]
theorem State.partsWrite_nowhere (hf : f a = none) (p : Fin 3) (bs : List Byte) :
    s.partsWrite p f [(a, bs.length)] bs = s := by
  simp [State.partsWrite, hf]
end

/-! ### The host (R370, R372) -/

theorem State.byteAt_snooped (s : State) (line : Nat) (l : Loc) : (s.snooped line).byteAt l = s.byteAt l := by
  unfold State.snooped
  split
  · rfl
  · split <;> rfl
theorem execHostMemoryAccess_run {s : State} {p : Fin 3} (hrun : (s.prt p).st = .run) {acc : ExtAcc} {bs : List Byte} {bad : Bool}
    {t : State} (hacc : s.hostAccess p acc = ((bs, bad), t)) :
    exec (.hostMemoryAccess p acc) s = .next { t with out := t.out ++ [.hostData bs bad] } := by
  rw [exec_hostMemoryAccess]
  unfold execHostMemoryAccess
  rw [if_pos (State.inRun_of_run hrun), hacc]

section
variable {s : State} {p : Fin 3} {a n pa : Nat} (hrun : (s.prt p).st = .run) (hn : 0 < n) (hl : a % 128 + n ≤ 128)
include hrun hn hl

theorem hostRead_line (hpa : s.rangePa p a = some pa) :
    ∃ t, exec (.hostMemoryAccess p (.read a n)) s = .next t ∧ (∀ l, t.byteAt l = s.byteAt l) ∧
      t.out.getLast? = some (.hostData (s.readHome { kind := .dev, pa := pa } n)
        (s.readPoison { kind := .dev, pa := pa } n)) := by
  have hacc : s.hostAccess p (.read a n) = ((s.readHome { kind := .dev, pa := pa } n, s.readPoison { kind := .dev, pa := pa } n),
      ({ ({ s with snoop := [] } : State).afterRead { kind := .dev, pa := pa } n with snoop := s.snoop } : State).snooped
        (pa / 128)) := by
    unfold State.hostAccess State.extDo
    simp only [linePieces_line hn hl]
    rw [State.partsRead_at n hpa]
    simp only [List.filterMap_cons, List.filterMap_nil, hpa, List.foldl_cons, List.foldl_nil]
    rfl
  refine ⟨_, execHostMemoryAccess_run hrun hacc, fun l => ?_, List.getLast?_concat ..⟩
  exact (State.byteAt_snooped _ _ l).trans (State.afterRead_byteAt ({ s with snoop := [] } : State) _ _ l)
theorem hostRead_nowhere (hpa : s.rangePa p a = none) :
    ∃ t, exec (.hostMemoryAccess p (.read a n)) s = .next t ∧ (∀ l, t.byteAt l = s.byteAt l) ∧
      t.out.getLast? = some (.hostData (List.replicate n 0) false) := by
  have hacc : s.hostAccess p (.read a n) = ((List.replicate n 0, false), s) := by
    unfold State.hostAccess State.extDo
    simp only [linePieces_line hn hl]
    rw [State.partsRead_nowhere n hpa]
    simp only [List.filterMap_cons, List.filterMap_nil, hpa, List.foldl_nil]
  exact ⟨_, execHostMemoryAccess_run hrun hacc, fun l => rfl, List.getLast?_concat ..⟩
theorem hostWrite_line (hw : s.memWf) (hpa : s.rangePa p a = some pa) (hsame : pa % 128 = a % 128)
    (hg : s.groupFailed pa = false) {bs : List Byte} (hbs : bs.length = n) :
    ∃ t, exec (.hostMemoryAccess p (.write a bs)) s = .next t ∧
      (∀ k, k ∈ t.devPoison ↔ k ∈ s.devPoison ∧ ¬ (k = pa / 128 ∧ n = 128)) ∧
      ∀ l, t.byteAt l = putAt s.byteAt { kind := .dev, pa := pa } bs l := by
  subst hbs
  have hr : ({ s with snoop := [] } : State).writeRefused { kind := .dev, pa := pa } bs.length = false := hg
  have hacc : s.hostAccess p (.write a bs) = (([], false),
      { ({ s with snoop := [] } : State).writeHome p 0 { kind := .dev, pa := pa } bs with snoop := s.snoop }) := by
    unfold State.hostAccess State.extDo
    simp only [linePieces_line hn hl]
    rw [State.partsWrite_at hpa]
  refine ⟨_, execHostMemoryAccess_run hrun hacc, fun k => ?_,
    State.byteAt_writeHome (s := { s with snoop := [] }) hw hr p 0⟩
  have hpoison : (({ s with snoop := [] } : State).writeHome p 0 { kind := .dev, pa := pa } bs).devPoison =
      lineClear s.devPoison pa bs.length := by
    rw [State.writeHome, if_neg (by rw [hr]; exact Bool.false_ne_true)]
  show k ∈ (({ s with snoop := [] } : State).writeHome p 0 { kind := .dev, pa := pa } bs).devPoison ↔ _
  rw [hpoison]
  exact mem_lineClear_line hn (by omega) k
theorem hostWrite_nowhere (hpa : s.rangePa p a = none) {bs : List Byte} (hbs : bs.length = n) :
    ∃ t, exec (.hostMemoryAccess p (.write a bs)) s = .next t ∧ ∀ l, t.byteAt l = s.byteAt l := by
  subst hbs
  have hacc : s.hostAccess p (.write a bs) = (([], false), s) := by
    unfold State.hostAccess State.extDo
    simp only [linePieces_line hn hl]
    rw [State.partsWrite_nowhere hpa]
  exact ⟨_, execHostMemoryAccess_run hrun hacc, fun l => rfl⟩
end

/-! ### The twin (R378) -/

section
variable {s : State} {p : Fin 3} {a : Nat} (htwin : s.tgen ≠ 0) (howner : s.ownerOf a = some p)
include htwin howner

theorem execTwinAccess_performed {acc : ExtAcc} {n : Nat} (hrange : ExtAcc.range acc = (a, n)) (hfirst : s.twinMay a = true)
    (hlast : s.twinMay (a + n - 1) = true) {bs : List Byte} {bad : Bool} {t : State} (hdo : s.extDo p some acc = ((bs, bad), t)) :
    exec (.twinAccess acc) s = .next { t with out := t.out ++ [.twinData bs bad] } := by
  rw [exec_twinAccess, execTwinAccess, hrange]
  simp only [if_neg htwin, howner, hfirst, hlast, Bool.and_true, hdo]
theorem execTwinAccess_refused {acc : ExtAcc} {n : Nat} (hrange : ExtAcc.range acc = (a, n)) (hno : s.twinMay a = false) :
    exec (.twinAccess acc) s = .next { s.modPart p (fun q => { q with twdrop := q.twdrop + 1 }) with
      out := s.out ++ [.twinData (List.replicate n 0) true] } := by
  rw [exec_twinAccess, execTwinAccess, hrange]
  simp only [if_neg htwin, howner, hno, Bool.false_and]
  rfl

variable {n : Nat} (hn : 0 < n) (hl : a % 128 + n ≤ 128) (hfirst : s.twinMay a = true) (hlast : s.twinMay (a + n - 1) = true)
include hn hl hfirst hlast

theorem twinRead_line : ∃ t, exec (.twinAccess (.read a n)) s = .next t ∧ (∀ l, t.byteAt l = s.byteAt l) ∧
    t.out.getLast? = some (.twinData (s.readHome { kind := .dev, pa := a } n) (s.readPoison { kind := .dev, pa := a } n)) := by
  have hdo : s.extDo p some (.read a n) =
      ((s.readHome { kind := .dev, pa := a } n, s.readPoison { kind := .dev, pa := a } n),
        s.afterRead { kind := .dev, pa := a } n) := by
    unfold State.extDo
    simp only [linePieces_line hn hl]
    exact State.partsRead_at n rfl
  exact ⟨_, execTwinAccess_performed htwin howner rfl hfirst hlast hdo, State.afterRead_byteAt s _ n, List.getLast?_concat ..⟩
theorem twinWrite_line (hw : s.memWf) (hg : s.groupFailed a = false) {bs : List Byte} (hbs : bs.length = n) :
    ∃ t, exec (.twinAccess (.write a bs)) s = .next t ∧ ∀ l, t.byteAt l = putAt s.byteAt { kind := .dev, pa := a } bs l := by
  subst hbs
  have hr : s.writeRefused { kind := .dev, pa := a } bs.length = false := hg
  have hdo : s.extDo p some (.write a bs) = (([], false), s.writeHome p 0 { kind := .dev, pa := a } bs) := by
    unfold State.extDo
    simp only [linePieces_line hn hl]
    rw [State.partsWrite_at rfl]
  exact ⟨_, execTwinAccess_performed htwin howner rfl hfirst hlast hdo, State.byteAt_writeHome hw hr p 0⟩
end

end Sys2Proof.Machine
end


section
/-!
SUPPORT. What the host reads at BAR0 (R4, R6, R372), and requests over SPDM (R409), for O60.
-/

namespace Sys2Proof.Machine

/-! ### Registers -/

section
variable (s : State) (p : Fin 3) {vf : Fin 64} {o : Nat}

theorem State.registerRead_misaligned (h : o % 8 ≠ 0) : s.registerRead p vf o = 0 := if_pos h
theorem State.registerRead_func (ha : o % 8 = 0) (h : o < 0x10000) : s.registerRead p vf o = (s.func p vf).read o := by
  rw [State.registerRead, if_neg (not_not.mpr ha), if_pos h]
theorem State.registerRead_virtual (hv : vf ≠ 0) (h : 0x10000 ≤ o) : s.registerRead p vf o = 0 := by
  unfold State.registerRead
  rw [if_neg (Nat.not_lt.mpr h), if_pos hv, ite_self]
/-- A register of a physical function beyond its function block: of the time block, of a port, or of the partition. -/
theorem State.registerRead_physical (ha : o % 8 = 0) (h : 0x10000 ≤ o) : s.registerRead p 0 o =
    if 0x200000 ≤ o ∧ o < 0x200100 then s.timeRead (o - 0x200000)
    else if 0x400000 ≤ o ∧ o < 0x480000 then
      if s.holdsPort p (Fin.ofNat 8 ((o - 0x400000) / 0x10000)) then
        s.portRead (Fin.ofNat 8 ((o - 0x400000) / 0x10000)) (o % 0x10000) else 0
    else (s.prt p).read o := by
  unfold State.registerRead
  rw [if_neg (not_not.mpr ha), if_neg (Nat.not_lt.mpr h), if_neg (not_not.mpr rfl)]
theorem State.registerRead_part (ha : o % 8 = 0) (h : 0x110000 ≤ o) (hlt : o < 0x200000) :
    s.registerRead p 0 o = (s.prt p).read o := by
  rw [State.registerRead_physical s p ha (by omega), if_neg (by omega), if_neg (by omega)]
theorem State.registerRead_time {k : Nat} (ha : k % 8 = 0) (h : k < 0x100) :
    s.registerRead p 0 (0x200000 + k) = s.timeRead k := by
  rw [State.registerRead_physical s p (by omega) (by omega), if_pos (by omega), Nat.add_sub_cancel_left]
theorem State.registerRead_port (n : Fin 8) {k : Nat} (ha : k % 8 = 0) (h : k < 0x10000) :
    s.registerRead p 0 (0x400000 + 0x10000 * n.val + k) = if s.holdsPort p n then s.portRead n k else 0 := by
  have hport : Fin.ofNat 8 ((0x400000 + 0x10000 * n.val + k - 0x400000) / 0x10000) = n := by
    refine Fin.ext ?_
    rw [Fin.val_ofNat]
    have := n.isLt
    omega
  have hoff : (0x400000 + 0x10000 * n.val + k) % 0x10000 = k := by omega
  have := n.isLt
  rw [State.registerRead_physical s p (by omega) (by omega), if_neg (by omega), if_pos (by omega), hport, hoff]
end

/-- The registers of `RegisterValue` read as it says. -/
theorem State.registerRead_of_value {s : State} {p : Fin 3} (hrun : (s.prt p).st = .run) {vf : Fin 64} {o : Nat} {v : Word}
    (h : RegisterValue s p vf o v) : s.registerRead p vf o = v := by
  have hholds (n : Fin 8) : s.holdsPort p n = bit (s.prt p).cap1 (40 + n.val) := by
    rw [State.holdsPort, State.inRun_of_run hrun, Bool.true_and]
  cases h with
  | launchTail | launchHead | launchError | busy | queueTail | configError =>
    exact State.registerRead_func s p (by decide) (by decide)
  | writeOnly _ _ h =>
    rcases h with rfl | rfl <;> exact State.registerRead_func s p (by decide) (by decide)
  | misaligned _ _ h => exact State.registerRead_misaligned s p h
  | virtual_ _ _ hv h => exact State.registerRead_virtual s p hv h
  | refusedMessages | drops | twinDrops => exact State.registerRead_part s p (by decide) (by decide) (by decide)
  | time => exact State.registerRead_time s p (k := 0) (by decide) (by decide)
  | timeWriteOnly _ h =>
    rcases h with rfl | rfl
    · exact State.registerRead_time s p (k := 8) (by decide) (by decide)
    · exact State.registerRead_time s p (k := 0x18) (by decide) (by decide)
  | counter n k h =>
    have hk := k.isLt
    have hoff : 0x400100 + 0x10000 * n.val + 8 * k.val = 0x400000 + 0x10000 * n.val + (0x100 + 8 * k.val) := by omega
    have hnum : (0x100 + 8 * k.val - 0x100) / 8 = k.val := by omega
    rw [hoff, State.registerRead_port s p n (by omega) (by omega), hholds, h, if_pos rfl]
    unfold State.portRead
    rw [if_pos (by omega), hnum]
    exact vget_eq _ k 0
  | otherPort n k hk h =>
    by_cases ha : k % 8 = 0
    · rw [State.registerRead_port s p n ha hk, hholds, h, if_neg Bool.false_ne_true]
    · exact State.registerRead_misaligned s p (by omega)

/-- The lines that the host may hold do not show in the registers. -/
theorem State.registerRead_withSnoop (s : State) (ls : List Nat) (p : Fin 3) (vf : Fin 64) (o : Nat) :
    ({ s with snoop := ls } : State).registerRead p vf o = s.registerRead p vf o := by
  have hfunc : ({ s with snoop := ls } : State).func p vf = s.func p vf := rfl
  have htime (k : Nat) : ({ s with snoop := ls } : State).timeRead k = s.timeRead k := rfl
  have hholds (n : Fin 8) : ({ s with snoop := ls } : State).holdsPort p n = s.holdsPort p n := rfl
  have hport (n : Fin 8) (k : Nat) : ({ s with snoop := ls } : State).portRead n k = s.portRead n k := rfl
  have hpart : ({ s with snoop := ls } : State).prt p = s.prt p := rfl
  simp only [State.registerRead, hfunc, htime, hholds, hport, hpart]
theorem State.hostAccess_register (s : State) (p : Fin 3) (vf : Fin 64) (off : BitVec 25) :
    s.hostAccess p (.register vf off) = ((bytesOfNat 8 (s.registerRead p vf off.toNat).toNat, false), s) := by
  have hdo : ({ s with snoop := [] } : State).extDo p (s.rangePa p) (.register vf off) =
      ((bytesOfNat 8 (s.registerRead p vf off.toNat).toNat, false), { s with snoop := [] }) := by
    rw [← State.registerRead_withSnoop s []]; rfl
  unfold State.hostAccess
  rw [hdo]
theorem hostRegisterRead_run {s : State} {p : Fin 3} (hrun : (s.prt p).st = .run) (vf : Fin 64) (off : BitVec 25) :
    exec (.hostMemoryAccess p (.register vf off)) s =
      .next { s with out := s.out ++ [.hostData (bytesOfNat 8 (s.registerRead p vf off.toNat).toNat) false] } :=
  execHostMemoryAccess_run hrun (State.hostAccess_register s p vf off)
theorem hostRegisterRead_stopped {s : State} {p : Fin 3} (hst : (s.prt p).st = .reset ∨ (s.prt p).st = .fault)
    (himg : (s.hearthImage[p]).isSome) (vf : Fin 64) (off : BitVec 25) :
    exec (.hostMemoryAccess p (.register vf off)) s =
      .next { s with out := s.out ++ [.hostData (bytesOfNat 8 0) false] } := by
  have hrun : s.inRun p = false := State.inRun_of_not_run fun h => by rcases hst with e | e <;> rw [e] at h <;> cases h
  have hfunc : s.hasFunction p = true := by
    unfold State.hasFunction
    rw [himg, Bool.and_true]
    rcases hst with e | e <;> rw [e] <;> rfl
  rw [exec_hostMemoryAccess]
  unfold execHostMemoryAccess
  rw [hrun, hfunc]
  rfl

/-! ### SPDM (R409) -/

theorem State.spdmUp_of_exists {s : State} {via : SpdmPort}
    (h : ∀ p, via = .doe p → (s.prt p).st ≠ .off ∧ (s.hearthImage[p]).isSome) : s.spdmUp via = true := by
  cases via with
  | doe p =>
    obtain ⟨hst, himg⟩ := h p rfl
    show ((s.prt p).st != .off && (s.hearthImage[p]).isSome) = true
    rw [himg, Bool.and_true]
    exact bne_iff_ne.mpr hst
  | mctp => rfl

section
variable {s : State} {via : SpdmPort} (hup : s.spdmUp via = true)
include hup

theorem State.spdm_up (code : Nat) (params : List Nat) : s.spdm via code params = { s with out := s.out ++
    [.spdm via code (Config.spdmBytes code (((s.spdmVersion[spdmSlot via]).map BitVec.toNat).getD 0 :: params))] } :=
  if_pos hup
theorem SpdmRequest.answered {i : Instr} {code : Nat} {params : List Nat} (h : SpdmRequest s i via code params) :
    exec i s = .next { s with out := s.out ++
      [.spdm via code (Config.spdmBytes code (((s.spdmVersion[spdmSlot via]).map BitVec.toNat).getD 0 :: params))] } := by
  rw [← State.spdm_up hup]
  cases h <;> rfl
/-- A response over a connection whose version is now `ver`. -/
theorem State.spdm_versioned (ver : Option (BitVec 8)) (code : Nat) (params : List Nat) :
    ({ s with spdmVersion := vput s.spdmVersion (spdmSlot via) ver } : State).spdm via code params =
      { s with spdmVersion := vput s.spdmVersion (spdmSlot via) ver, out := s.out ++
        [.spdm via code (Config.spdmBytes code ((ver.map BitVec.toNat).getD 0 :: params))] } := by
  have hup' : ({ s with spdmVersion := vput s.spdmVersion (spdmSlot via) ver } : State).spdmUp via = true := by
    cases via <;> exact hup
  rw [State.spdm_up hup' code params, vput_getElem_same]
theorem execGetVersion_up : exec (.getVersion via) s = .next { s with
    spdmVersion := vput s.spdmVersion (spdmSlot via) none
    out := s.out ++ [.spdm via 0 (Config.spdmBytes 0 [0, 0x12, 0x13])] } := by
  have hexec : exec (.getVersion via) s = execGetVersion via s := rfl
  rw [hexec, execGetVersion, if_pos hup, State.spdm_versioned hup none]
  rfl
theorem execNegotiateAlgorithms_up {ver : BitVec 8} (hver : ver = 0x12 ∨ ver = 0x13) (asym hash : BitVec 32) :
    exec (.negotiateAlgorithms via ver asym hash) s = .next { s with
      spdmVersion := vput s.spdmVersion (spdmSlot via) (some ver)
      out := s.out ++ [.spdm via 2 (Config.spdmBytes 2 [ver.toNat, ver.toNat, asym.toNat, hash.toNat])] } := by
  have hexec : exec (.negotiateAlgorithms via ver asym hash) s = execNegotiateAlgorithms via ver asym hash s := rfl
  rw [hexec, execNegotiateAlgorithms, if_pos ⟨hup, hver⟩, State.spdm_versioned hup (some ver)]
  rfl
end

/-- Settles O60, clause by clause. -/
theorem outsideRequestsAreAnswered : Obligations.OutsideRequestsAreAnswered := by
  unfold Obligations.OutsideRequestsAreAnswered
  refine ⟨fun s p vf va id hrun => ⟨?starts, ?ignored, ?completes, ?expires⟩,
    fun s p a n pa hw hn hl hsame hg => ⟨?host, ?nowhere, ?twin⟩, ?registers, ?stopped, ?spdm⟩
  case starts =>
    intro hidle
    exact ⟨execInvalidatePage_starts hrun hidle va, execInvalidateFunction_starts hrun hidle⟩
  case ignored =>
    intro hbusy
    exact ⟨_, execInvalidateFunction_run hrun, State.igo_ignored hbusy 1 none⟩
  case completes =>
    intro hbusy
    refine ⟨fun hfree => ⟨_, execInvalidationComplete_ends hbusy hfree, ?_, ?_, fun i hi hp => ?_⟩,
      execInvalidationComplete_waits hbusy⟩
    · rw [State.func_modFunc]
    · show (s.endInval id).invals = _
      rw [State.endInval_eq s id rfl]
      rfl
    · subst hp
      show (∀ l, (s.endInval id).byteAt l = _) ∧ (s.endInval id).tlb = _ ∧ (s.endInval id).walks = _
      rw [State.endInval_single hi]
      exact ⟨fun _ => rfl, rfl, rfl⟩
  case expires =>
    intro i hi hover
    obtain ⟨t, hexec, hrest, hinv, hgangs⟩ := execPinGraceExpiry_expires hi hover
    refine ⟨t, hexec, hrest, hinv, fun h k hsome hv => ?_⟩
    rw [State.hart_revoke hgangs hsome]
    refine ⟨fun ⟨w, hwait, hne⟩ => by rw [Hart.revoke_inside (Hart.inside_of_wait hwait hne)], fun hfill => ?_⟩
    rw [Hart.revoke_tk (Hart.not_inside hfill)]
    exact Token.revoke_of_valid hv id
  case host =>
    intro hrun hpa
    exact ⟨hostRead_line hrun hn hl hpa, fun bs hbs => hostWrite_line hrun hn hl hw hpa hsame hg hbs⟩
  case nowhere =>
    intro hrun hpa
    exact ⟨hostRead_nowhere hrun hn hl hpa, fun bs hbs => hostWrite_nowhere hrun hn hl hpa hbs⟩
  case twin =>
    intro htwin howner hga
    refine ⟨fun hfirst hlast => ⟨twinRead_line htwin howner hn hl hfirst hlast,
      fun bs hbs => twinWrite_line htwin howner hn hl hfirst hlast hw hga hbs⟩, fun hno => ?_⟩
    refine ⟨_, execTwinAccess_refused htwin howner rfl hno, ?_, List.getLast?_concat .., fun _ => rfl⟩
    exact congrArg Part.twdrop (State.prt_modPart s p _)
  case registers =>
    intro s p vf off v hrun hv
    rw [hostRegisterRead_run hrun, State.registerRead_of_value hrun hv]
  case stopped =>
    intro s p vf off hst himg
    exact hostRegisterRead_stopped hst himg vf off
  case spdm =>
    intro s via hvia
    have hup := State.spdmUp_of_exists hvia
    exact ⟨fun i code params h => h.answered hup, execGetVersion_up hup,
      fun ver asym hash hver => execNegotiateAlgorithms_up hup hver asym hash⟩

end Sys2Proof.Machine
end


section
/-!
SUPPORT. The mask instructions (R222, R223, Table 9-10), for O32: the bits of a mask built from its bits, and what writing
one leaves.
-/

namespace Sys2Proof.Machine

/-! ### Masks and their bits -/

theorem testBit_add_ite_two_pow {n x : Nat} (hx : x < 2 ^ n) (b : Bool) (e : Nat) :
    (x + if b then 2 ^ n else 0).testBit e = if e = n then b else x.testBit e := by
  cases b with
  | false =>
    rw [if_neg Bool.false_ne_true, Nat.add_zero]
    split
    · next he => rw [he, Nat.testBit_lt_two_pow hx]
    · rfl
  | true =>
    have hor : x + 2 ^ n = 2 ^ n ||| x := by
      rw [Nat.add_comm, ← Nat.mul_one (2 ^ n), Nat.two_pow_add_eq_or_of_lt hx]
    rw [if_pos rfl, hor, Nat.testBit_or, Nat.testBit_two_pow]
    split
    · next he => simp [he]
    · next he => simp [Ne.symm he]
/-- The number whose bits below n are those of `f`, summed up as `maskOf` does. -/
def bitSum (f : Nat → Bool) (n : Nat) : Nat := (List.range n).foldl (fun acc e => acc + if f e then 2 ^ e else 0) 0
theorem bitSum_succ (f : Nat → Bool) (n : Nat) : bitSum f (n + 1) = bitSum f n + if f n then 2 ^ n else 0 := by
  rw [bitSum, List.range_succ, List.foldl_append]; rfl
theorem bitSum_lt (f : Nat → Bool) (n : Nat) : bitSum f n < 2 ^ n := by
  induction n with
  | zero => exact Nat.one_pos
  | succ n ih =>
    rw [bitSum_succ, Nat.pow_succ]
    split <;> omega
theorem testBit_bitSum (f : Nat → Bool) (n e : Nat) : (bitSum f n).testBit e = (decide (e < n) && f e) := by
  induction n with
  | zero => exact Nat.zero_testBit e
  | succ n ih =>
    rw [bitSum_succ, testBit_add_ite_two_pow (bitSum_lt f n), ih]
    rcases Nat.lt_trichotomy e n with h | h | h
    · simp [h, Nat.ne_of_lt h, Nat.lt_succ_of_lt h]
    · simp [h]
    · simp [Nat.ne_of_gt h, Nat.not_lt_of_gt h, Nat.not_lt.mpr (Nat.succ_le_of_lt h)]
theorem getLsbD_maskOf (f : Nat → Bool) {e : Nat} (he : e < 128) : (maskOf f).getLsbD e = f e := by
  show (BitVec.ofNat 128 (bitSum f 128)).getLsbD e = f e
  rw [BitVec.getLsbD_ofNat, testBit_bitSum, decide_eq_true he, Bool.true_and, Bool.true_and]

/-- The first set bit below `vl`. -/
theorem headD_setBelow (m : MaskReg) (vl d : Nat) :
    (setBelow m vl).headD d = ((List.range vl).find? fun e => m.getLsbD e).getD d := by
  rw [setBelow, List.headD_eq_head?_getD, List.head?_filter]

/-- `MSET` replaces one half of a mask and keeps the other. -/
theorem getLsbD_setHalf (h : Bool) (x : MaskReg) (v : Word) {e : Nat} (he : e < 128) :
    (if h then v ++ x.setWidth 64 else x.extractLsb' 64 64 ++ v : MaskReg).getLsbD e =
      if h then (if e < 64 then x.getLsbD e else v.getLsbD (e - 64))
      else (if e < 64 then v.getLsbD e else x.getLsbD e) := by
  cases h with
  | true =>
    simp only [if_true, BitVec.getLsbD_append, BitVec.getLsbD_setWidth]
    by_cases hlo : e < 64 <;> simp [hlo]
  | false =>
    simp only [Bool.false_eq_true, if_false, BitVec.getLsbD_append, BitVec.getLsbD_extractLsb']
    by_cases hlo : e < 64
    · simp [hlo]
    · have hhi : e - 64 < 64 := by omega
      simp [hlo, hhi, Nat.add_sub_cancel' (Nat.not_lt.mp hlo)]

/-! ### The instructions -/

/-- A hart without its masks. -/
def Hart.sansM (h : Hart) : Hart := { h with m := Vector.replicate 16 0 }

theorem State.wm_eq_modMe (s : State) (d : MOp) (x : MaskReg) :
    s.wm d x = s.modMe fun h => h.setM? (d.map fun m => (m, x)) := by
  cases d with
  | none => exact (State.modMe_id s).symm
  | some r => rfl
/-- The hart after a change at U that keeps it running, and then retirement. -/
theorem State.me_modMe_retired {s : State} (hl : s.live) (hu : s.atS = false) {f : Hart → Hart}
    (hst : ∀ h, (f h).st = h.st) : (s.modMe f).retired.me = (f s.me).retire ((f s.me).pc + 8) := by
  have hat : (s.modMe f).atS = false := (State.atS_modMe hl f hst).trans hu
  rw [State.retired, State.goto_user hat, State.me_modMe (State.live_modMe hl f), State.pcv_user hat, State.me_modMe hl]
/-- A mask written at U, then retirement: `d` holds the new bits, and nothing else changes. -/
theorem State.wm_retires {s : State} (hl : s.live) (hu : s.atS = false) (d : MOp) (x : MaskReg) :
    (∀ m : Fin 16, (s.wm d x).retired.me.m[m] = if d = some m then x else s.me.m[m]) ∧
      StepBut Hart.sansM hideNone hideNone hideNone s (s.wm d x).retired s.byteAt := by
  rw [State.wm_eq_modMe]
  refine ⟨fun m => ?_, StepBut.of_modMe hl _ (by rw [hu]; cases d <;> rfl) (Hart.setM?_keeps _ _).1
    (Hart.setM?_keeps _ _).2.1 (by cases d <;> rfl)⟩
  rw [State.me_modMe_retired hl hu fun h => (Hart.setM?_keeps h _).1]
  cases d with
  | none => rfl
  | some r =>
    show (vput s.me.m r x)[m] = _
    rw [vput_getElem]
    simp only [Option.some.injEq]

/-- Every mask instruction that writes a mask gives it the bits of Table 9-10. -/
theorem MaskOp.exec_eq {s : State} {i : Instr} {d : MOp} {f : Nat → Bool} (h : MaskOp s i d f) (hu : s.atS = false) :
    ∃ x : MaskReg, exec i s = (s.wm d x).retire ∧ ∀ e, e < 128 → x.getLsbD e = f e := by
  have ofBits {i : Instr} {f : Nat → Bool} (he : exec i s = s.maskBits d f) :
      ∃ x : MaskReg, exec i s = (s.wm d x).retire ∧
        ∀ e, e < 128 → x.getLsbD e = if e < s.me.vl then f e else (s.mreg d).getLsbD e :=
    ⟨_, he.trans (State.userOnly_eq hu _ _), fun e he => getLsbD_maskOf _ he⟩
  cases h with
  | mand a b => exact ofBits (exec_mand _ _ _ s)
  | mor a b => exact ofBits (exec_mor _ _ _ s)
  | mxor a b => exact ofBits (exec_mxor _ _ _ s)
  | mandn a b => exact ofBits (exec_mandn _ _ _ s)
  | mshl a b => exact ofBits (exec_mshl _ _ _ s)
  | mset h a =>
    exact ⟨_, (exec_mset _ _ _ s).trans (State.userOnly_eq hu _ _), fun e he => getLsbD_setHalf h _ _ he⟩

/-- Every mask instruction that writes a scalar register, and `VGETTAG`, writes the value of Table 9-10 and R205. -/
theorem MaskReadOp.exec_eq {s : State} {i : Instr} {d : GOp} {v : Word} (h : MaskReadOp s i d v)
    (hu : s.atS = false) : exec i s = (s.wg d v).retire := by
  cases h with
  | mpopc _ _ hv => rw [exec_mpopc, execMpopc, State.maskToG, State.userOnly_eq hu, if_neg hv]; rfl
  | mfirst _ _ hv => rw [exec_mfirst, execMfirst, State.maskToG, State.userOnly_eq hu, if_neg hv, headD_setBelow]
  | mgetLow a =>
    rw [exec_mget, execMget, State.userOnly_eq hu, if_neg Bool.false_ne_true, ← BitVec.setWidth_eq_extractLsb' (by decide)]
  | mgetHigh a =>
    rw [exec_mget, execMget, State.userOnly_eq hu, if_pos rfl]; rfl
  | vgettag a => rw [exec_vgettag, execVgettag, State.userOnly_eq hu]

/-- With `vl` = 0 a count or a search only retires (R223). -/
theorem State.maskToG_idle {s : State} (hu : s.atS = false) (hv : s.me.vl = 0) (d : GOp) (x : Nat) :
    s.maskToG d x = .next s.retired := by
  rw [State.maskToG, State.userOnly_eq hu, if_pos hv]; rfl

/-- Settles O32: a mask instruction is one write of a mask or of a scalar register. -/
theorem maskInstructionsWriteTheirMask : Obligations.MaskInstructionsWriteTheirMask := by
  unfold Obligations.MaskInstructionsWriteTheirMask
  refine ⟨fun s i d f hi hl hu => ?writes, fun s i d v hi hl hu => ?reads, fun s d a hl hu hv => ?idle⟩
  case writes =>
    obtain ⟨x, hexec, hx⟩ := hi.exec_eq hu
    obtain ⟨hm, hstep⟩ := State.wm_retires hl hu d x
    refine ⟨_, hexec, fun m e he => ?_, hstep⟩
    rw [hm, apply_ite (BitVec.getLsbD · e), hx e he]
  case reads =>
    rw [hi.exec_eq hu]
    exact RegStep.of_retire hl d v
  case idle =>
    exact ⟨⟨_, State.maskToG_idle hu hv d _, StepBut.of_nothing hl⟩,
      ⟨_, State.maskToG_idle hu hv d _, StepBut.of_nothing hl⟩⟩

end Sys2Proof.Machine
end


section
/-!
SUPPORT. The vector length and the tags of vector registers (R54, R203, R204), and the words of their instructions, for
O33.
-/

namespace Sys2Proof.Machine

/-! ### The vector length (R203) -/

/-- A hart without its vector length. -/
def Hart.sansVl (h : Hart) : Hart := { h with vl := 0 }
theorem sansVl_sansG_congr (b : Bool) (x y : Hart) (h : x.sansVl = y.sansVl) :
    (x.sansG b).sansVl = (y.sansG b).sansVl := by
  have := congrArg (Hart.sansG b) h
  cases b <;> exact this

/-- At U a scalar register and the vector length are written in either order. -/
theorem State.wg_modMe_vl {s : State} (hl : s.live) (hu : s.atS = false) (d : GOp) (v : Word) (n : Nat) :
    (s.wg d v).modMe (fun h => { h with vl := n }) = (s.modMe fun h => { h with vl := n }).wg d v := by
  rw [State.wg_user hu, State.wg_user ((State.atS_modMe hl (fun h => { h with vl := n }) fun _ => rfl).trans hu),
    State.modMe_modMe, State.modMe_modMe]
  congr 1
  funext h
  cases d <;> rfl
/-- `VSETL` writes its count, at most 128, to the vector length and to its destination. -/
theorem execVsetl_sets {s : State} (hl : s.live) (hu : s.atS = false) (d a : GOp) :
    ∃ t, exec (.vsetl d a) s = .next t ∧ t.me.vl = min (s.rg a).toNat 128 ∧
      RegsStep Hart.sansVl hideNone hideNone hideNone s t (oneReg d (word (min (s.rg a).toNat 128))) 0 (s.pcv + 8)
        s.byteAt := by
  generalize hn : min (s.rg a).toNat 128 = n
  have hmoved : Moved Hart.sansVl hideNone hideNone hideNone s (s.modMe fun h => { h with vl := n }) s.byteAt :=
    (Moved.refl hl).modMe _ (fun _ b => by cases b <;> rfl) (fun _ => rfl) (fun _ => rfl) (fun _ => rfl) (fun _ => rfl)
      (fun _ => rfl) fun _ => rfl
  have hat : (s.modMe fun h => { h with vl := n }).atS = false := hmoved.same.atS.trans hu
  refine ⟨((s.modMe fun h => { h with vl := n }).wg d (word n)).retired, ?_, ?_,
    hmoved.wg sansVl_sansG_congr d (word n)⟩
  · rw [exec_vsetl, execVsetl, State.userOnly_eq hu, hn]
    exact congrArg State.retire (State.wg_modMe_vl hl hu d _ n)
  · rw [State.wg_user hat, State.me_modMe_retired hmoved.same.live hat (by intro h; cases d <;> rfl),
      State.me_modMe hl]
    cases d <;> rfl

/-! ### Tags (R54, R204) -/

/-- `VTAG` and `VRETAG` of a register are one change of it, which a bound stream register refuses. -/
theorem TagOp.exec_eq {s : State} {i : Instr} {d : Fin 56} {f : VReg → VReg} (h : TagOp i d f) :
    exec i s = s.retag (some d) f := by
  cases h <;> rfl

/-- A hart without its vector registers and the fills that a write supersedes. -/
def Hart.sansVRegs (h : Hart) : Hart := { h with v := Vector.replicate 60 VReg.empty, fillV := [] }
/-- A register changed, then retirement: nothing else changes. -/
theorem State.retag_unbound {s : State} (hl : s.live) (hu : s.atS = false) {d : Fin 56} (hb : s.me.bound d.val = none)
    (f : VReg → VReg) : ∃ t, s.retag (some d) f = .next t ∧
      (∀ k : Fin 60, t.me.v[k] = if k.val = d.val then f s.me.v[k] else s.me.v[k]) ∧
      StepBut Hart.sansVRegs hideNone hideNone hideNone s t s.byteAt := by
  refine ⟨(s.modMe fun h => h.setV (vdReg d) (f h.v[vdReg d])).retired, ?_, fun k => ?_,
    StepBut.of_modMe hl _ (by rw [hu]; rfl) rfl rfl rfl⟩
  · rw [State.retag, State.userOnly_eq hu, hb]; rfl
  · rw [State.me_modMe_retired hl hu (f := fun h => h.setV (vdReg d) (f h.v[vdReg d])) fun _ => rfl]
    show (vput s.me.v (vdReg d) (f s.me.v[vdReg d]))[k] = _
    rw [vput_getElem]
    by_cases hk : vdReg d = k
    · subst hk
      rw [if_pos rfl]
      exact (if_pos rfl).symm
    · rw [if_neg hk, if_neg fun e => hk (Fin.ext e.symm)]
theorem State.retag_bound {s : State} (hl : s.live) (hu : s.atS = false) {d : Fin 56} (hb : s.me.bound d.val ≠ none)
    (hv : s.me.sup.svec ≠ 0) (f : VReg → VReg) :
    ∃ t, s.retag (some d) f = .next t ∧ TrapEntry s t 0x30 0x04 d.val 0 s.me.pc 0 0 := by
  have hraise : s.retag (some d) f = s.raise 0x30 { c := .type, detail := d.val } := by
    rw [State.retag, State.userOnly_eq hu]
    exact if_pos (Option.isSome_iff_ne_none.mpr hb)
  rw [hraise]
  exact State.raise_user hl hu hv 0x30 { c := .type, detail := d.val } (by decide)
    (Nat.lt_trans d.isLt (by decide)) (Nat.zero_lt_succ 3) (Nat.zero_lt_succ 127)
theorem State.retag_none {s : State} (hu : s.atS = false) (f : VReg → VReg) : s.retag none f = .next s.retired :=
  State.userOnly_eq hu _ _

/-! ### The words of opcode 0x30 (Table 7-7) -/

theorem fieldN_toNat (w : BitVec 64) (l n : Nat) : fieldN w.toNat l n = (w.extractLsb' l n).toNat := by
  rw [fieldN, BitVec.extractLsb'_toNat, Nat.shiftRight_eq_div_pow]
theorem toNat_div_of_op {w : BitVec 64} {op : BitVec 7} (h : w.extractLsb' 57 7 = op) : w.toNat / 2 ^ 57 = op.toNat := by
  have := w.isLt
  rw [← h, ← fieldN_toNat, fieldN]
  omega
/-- A word of opcode 0x30 is read by its function. -/
theorem decodeOp30_of_decodeWord {w : BitVec 64} {i : Instr} (hop : w.extractLsb' 57 7 = 0x30)
    (h : decodeWord w = some i) : decodeOp30 (RF.ofWord w.toNat) = some i := by
  obtain ⟨hraw, -, -⟩ := decodeWord_eq_some_iff.mp h
  rwa [Laws.RoundTrip.raw_48 w.toNat (toNat_div_of_op hop)] at hraw
theorem fn_ofWord {w : BitVec 64} {n : BitVec 7} (h : w.extractLsb' 50 7 = n) : (RF.ofWord w.toNat).fn = n.toNat := by
  show fieldN w.toNat 50 7 = _
  rw [fieldN_toNat, h]

/-- The fields of a format R word that has D and X[4:0] only. -/
theorem fields_of_rword {w : BitVec 64} {op fn d x : Nat} (h : rword op fn d 0 0 0 x = w.toNat) (hd : d < 128)
    (hx : x < 32) : w.extractLsb' 5 38 = 0 ∧ w.extractLsb' 43 7 = BitVec.ofNat 7 d ∧ (w.extractLsb' 0 5).toNat = x := by
  have hrest : fieldN w.toNat 5 38 = 0 := by rw [← h, fieldN, rword]; omega
  have hdest : fieldN w.toNat 43 7 = d := by rw [← h, fieldN, rword]; omega
  have hcode : fieldN w.toNat 0 5 = x := by rw [← h, fieldN, rword]; omega
  rw [fieldN_toNat] at hrest hdest hcode
  exact ⟨BitVec.eq_of_toNat_eq hrest,
    BitVec.eq_of_toNat_eq (by rw [hdest, BitVec.toNat_ofNat, Nat.mod_eq_of_lt hd]), hcode⟩
theorem encVd_eq_getD (d : VdOp) : BitVec.ofNat 7 (encVd d) = (d.map fun r => BitVec.ofNat 7 r.val).getD 0x7F := by
  cases d <;> rfl

/-- Two fields read into an instruction. -/
theorem eq_of_read_two {α β : Type} {x : Option α} {y : Option β} {g : α → β → Instr} {i : Instr}
    (h : (do let a ← x; let b ← y; some (g a b)) = some i) : ∃ a b, i = g a b := by
  obtain ⟨a, -, h⟩ := Option.bind_eq_some_iff.mp h
  obtain ⟨b, -, h⟩ := Option.bind_eq_some_iff.mp h
  exact ⟨a, b, (Option.some.inj h).symm⟩
/-- What functions 0 to 2 of opcode 0x30 are read into. -/
theorem decodeOp30_low {f : RF} {i : Instr} (h : decodeOp30 f = some i) :
    (f.fn = 0 → ∃ d a, i = .vsetl d a) ∧ (f.fn = 1 → ∃ d u, i = .vtag d u) ∧
      (f.fn = 2 → ∃ d u, i = .vretag d u) := by
  unfold decodeOp30 at h
  exact ⟨fun hfn => eq_of_read_two (by rwa [hfn] at h), fun hfn => eq_of_read_two (by rwa [hfn] at h),
    fun hfn => eq_of_read_two (by rwa [hfn] at h)⟩
/-- Functions 1 and 2 of opcode 0x30 set a tag; their words have D and the tag code, and no other field. -/
theorem tag_of_decodeWord {w : BitVec 64} {i : Instr} (hop : w.extractLsb' 57 7 = 0x30)
    (hfn : w.extractLsb' 50 7 = 1 ∨ w.extractLsb' 50 7 = 2) (h : decodeWord w = some i) :
    w.extractLsb' 5 38 = 0 ∧ ∃ (d : VdOp) (u : Tag), u.code = (w.extractLsb' 0 5).toNat ∧
      w.extractLsb' 43 7 = (d.map fun r => BitVec.ofNat 7 r.val).getD 0x7F ∧
      i = if w.extractLsb' 50 7 = 1 then .vtag d u else .vretag d u := by
  obtain ⟨-, -, henc⟩ := decodeWord_eq_some_iff.mp h
  obtain ⟨-, htag, hretag⟩ := decodeOp30_low (decodeOp30_of_decodeWord hop h)
  have fields {d : VdOp} {u : Tag} {fn : Nat} (hw : rword 48 fn (encVd d) 0 0 0 u.code = w.toNat) :=
    fields_of_rword hw (encVd_lt d) (Tag.code_lt u)
  rcases hfn with hfn | hfn
  · obtain ⟨d, u, rfl⟩ := htag (fn_ofWord hfn)
    obtain ⟨hrest, hd, hu⟩ := fields henc
    exact ⟨hrest, d, u, hu.symm, hd.trans (encVd_eq_getD d), (if_pos hfn).symm⟩
  · obtain ⟨d, u, rfl⟩ := hretag (fn_ofWord hfn)
    obtain ⟨hrest, hd, hu⟩ := fields henc
    exact ⟨hrest, d, u, hu.symm, hd.trans (encVd_eq_getD d), (if_neg (by rw [hfn]; decide)).symm⟩
theorem Tag.code_lt_20 (t : Tag) : t.code < 20 := by cases t <;> decide
/-- The tag codes 20 to 31 are reserved. -/
theorem decodeWord_reserved_tag {w : BitVec 64} (hop : w.extractLsb' 57 7 = 0x30)
    (hfn : w.extractLsb' 50 7 = 1 ∨ w.extractLsb' 50 7 = 2) (hc : 20 ≤ (w.extractLsb' 0 5).toNat) :
    decodeWord w = none := by
  refine Option.eq_none_iff_forall_ne_some.mpr fun i h => ?_
  obtain ⟨-, -, u, hu, -⟩ := tag_of_decodeWord hop hfn h
  exact absurd (Tag.code_lt_20 u) (Nat.not_lt.mpr (hu ▸ hc))

/-- Settles O33: the length with its scalar, the tags with their register, and what the words of opcode 0x30 hold. -/
theorem vectorLengthAndTagsAreSet : Obligations.VectorLengthAndTagsAreSet := by
  unfold Obligations.VectorLengthAndTagsAreSet
  refine ⟨fun s d a hl hu => execVsetl_sets hl hu d a, ⟨fun s u hl hu => ?none, fun s i d f hi hl hu => ?register⟩,
    fun w i hop h => ⟨fun hfn => ?length, fun hfn => tag_of_decodeWord hop hfn h⟩,
    fun s u t w htick hdue hagenda hduty hfetch hop hfn hc hl hat hv => ?reserved⟩
  case none =>
    exact ⟨⟨_, (exec_vtag none u s).trans (State.retag_none hu _), StepBut.of_nothing hl⟩,
      ⟨_, (exec_vretag none u s).trans (State.retag_none hu _), StepBut.of_nothing hl⟩⟩
  case register =>
    rw [hi.exec_eq]
    exact ⟨fun hb => State.retag_unbound hl hu hb f, fun hb hv => State.retag_bound hl hu hb hv f⟩
  case length =>
    obtain ⟨hsetl, -, -⟩ := decodeOp30_low (decodeOp30_of_decodeWord hop h)
    exact hsetl (fn_ofWord hfn)
  case reserved =>
    obtain ⟨v, hstep, htrap⟩ := fetchesThatFailTrap.1 s u t w htick hdue hagenda hduty hfetch
      (decodeWord_reserved_tag hop hfn hc) hl hat hv
    rw [toNat_div_of_op hop] at htrap
    exact ⟨v, hstep, htrap⟩

end Sys2Proof.Machine
end


section
/-!
SUPPORT. The vector instructions of opcodes 0x30 to 0x38 that are not element-wise (R206 to R221): the form in which each
runs, and the row that the form writes, for O35.
-/

namespace Sys2Proof.Machine

/-! ### Rows of a form -/

/-- The row that a form writes with no operand bound to a stream. -/
def State.rowOf (s : State) (f : VForm) (t r : Tag) : VRow :=
  { d := f.d, last := f.last, tag := r, put := (f.res s t s.me.vl).put, fl := (f.res s t s.me.vl).fl,
    mask := (f.res s t s.me.vl).mask }

/-- The instruction runs in the form f; its sources are typed and pass the form's check, on the tag t and with a result of
tag r. -/
structure RunsIn (s : State) (i : Instr) (srcs : List VsOp) (f : VForm) (t r : Tag) : Prop where
  exec : exec i s = s.vec f
  sources : f.srcs = srcs
  typed : ∀ a, VsOp.vec a ∈ srcs → s.me.v[a].tag ≠ .none
  check : f.check (srcs.map s.vtag) = .ok (t, r)
/-- The instruction runs in a form that takes the present `vl`, and whose result is the row r. -/
def HasRow (s : State) (i : Instr) (srcs : List VsOp) (r : VRow) : Prop :=
  ∃ f t, RunsIn s i srcs f t r.tag ∧ f.badvl t s.me.vl = false ∧ s.rowOf f t r.tag = r

/-- With no operand bound to a stream, the sources pass every check of the tags. -/
theorem RunsIn.vecTags {s : State} {i : Instr} {srcs : List VsOp} {f : VForm} {t r : Tag} (h : RunsIn s i srcs f t r)
    (hr : VecRuns s f.srcs f.d) : s.vecTags f = .ok (t, r) := by
  obtain ⟨-, rfl, htyped, hcheck⟩ := h
  obtain ⟨-, -, hs, hd⟩ := hr
  simp only [State.vecTags, State.untypedIn_none htyped, hcheck, State.streamType_none hs hd, State.sinkType_none r hd]
/-- An instruction that has a row writes it. -/
theorem HasRow.writes {s : State} {i : Instr} {srcs : List VsOp} {r : VRow} (h : HasRow s i srcs r) (hl : s.live)
    (hr : VecRuns s srcs r.d) : ∃ u, exec i s = .next u ∧ VecStep s u r := by
  obtain ⟨f, t, hin, hlength, hrow⟩ := h
  obtain rfl := hin.sources
  have hd : f.d = r.d := congrArg VRow.d hrow
  rw [← hd] at hr
  obtain ⟨u, hvec, hstep⟩ := State.vec_runs hl hr (hin.vecTags hr) hlength
  exact ⟨u, hin.exec.trans hvec, hrow ▸ hstep⟩

/-- An element-wise result, perhaps with a mask, is the row under R52. -/
theorem State.rowOf_elementwise {s : State} {f : VForm} {t : Tag} {q : VMod} {g : Nat → Word × Flags}
    {m : Option (Fin 16 × MaskReg)} (h : f.res s t s.me.vl = { s.elementwise q s.me.vl g with mask := m }) (r : Tag) :
    s.rowOf f t r =
      { d := f.d, last := f.last, tag := r, put := s.under q fun e => (g e).1, fl := s.flagsOn q fun e => (g e).2,
        mask := m } := by
  rw [State.rowOf, h]
  simp only [State.elementwise_put, State.elementwise_fl]
theorem State.flagsOn_zero (s : State) (q : VMod) : (s.flagsOn q fun _ => 0) = 0 := flagsOf_zero _

/-- No element from `vl` up is active. -/
theorem State.on_beyond {s : State} (q : VMod) {e : Nat} (he : ¬ e < s.me.vl) : s.on q e = false := by
  rw [State.on, decide_eq_false he, Bool.false_and]

/-! ### Checks of the sources -/

theorem Tagged.single {s : State} {a : Fin 60} (h : s.me.v[a].tag ≠ .none) : Tagged s [.vec a] s.me.v[a].tag :=
  ⟨h, ⟨a, List.mem_singleton_self _⟩, fun r hr => by
    obtain rfl : r = a := by simpa using hr
    rfl⟩
theorem Tagged.typed {s : State} {srcs : List VsOp} {t : Tag} (h : Tagged s srcs t) (a : Fin 60) (ha : VsOp.vec a ∈ srcs) :
    s.me.v[a].tag ≠ .none := (h.2.2 a ha).trans_ne h.1
/-- Sources of one tag pass the check of a class that holds it, with SAT where it is legal. -/
theorem classCheck_tagged {s : State} {srcs : List VsOp} {t : Tag} {cls satOk : Tag → Bool} {sat : Bool}
    (h : Tagged s srcs t) (hc : cls t = true) (hs : sat = false ∨ satOk t = true) :
    classCheck srcs cls satOk sat (srcs.map s.vtag) = .ok (t, t) := by
  have hsat : (sat && !satOk t) = false := by rcases hs with hs | hs <;> simp [hs]
  simp only [classCheck, State.commonTag_of_tagged h, hc, hsat, Bool.not_true, Bool.false_eq_true, if_false]

/-! ### Moves, carries, comparison and conversion (R206, R208 to R211) -/

/-- With no mask, every element below `vl` is set. -/
theorem State.under_plain (s : State) (f : Nat → Word) :
    s.under VMod.plain f = fun e => if e < s.me.vl then some (f e) else none := by
  funext e
  have hon : s.on VMod.plain e = decide (e < s.me.vl) := Bool.and_true _
  by_cases he : e < s.me.vl <;> simp [State.under, hon, he]

theorem word_wrap64 (x : Int) : word (wrap64 x) = BitVec.ofInt 64 x := by
  refine BitVec.eq_of_toNat_eq ?_
  have hlt : wrap64 x < 2 ^ 64 := by unfold wrap64; omega
  rw [word, BitVec.toNat_ofNat, Nat.mod_eq_of_lt hlt, BitVec.toNat_ofInt]; rfl
theorem ofInt_toNat_word (a : Word) : BitVec.ofInt 64 (a.toNat : Int) = a := by
  rw [BitVec.ofInt_natCast, BitVec.ofNat_toNat, BitVec.setWidth_eq]
theorem intOf_bit (b : Bool) : (if b then 1 else 0 : Int) = (oneIf b).toNat := by cases b <;> rfl

/-- A carry or borrow form writes the row of the words `val` that its function f gives, with the carries `out` that tell
where f leaves the range of a word. -/
theorem State.carry_hasRow {s : State} {i : Instr} {q : VMod} {d : VdOp} {a b : VsOp} {c : MOp} {f : Int → Int → Int → Int}
    (hexec : exec i s = s.carry q d a b c f) (ht : Tagged s [a, b] .n64) (hs : q.sat = false) {val : Nat → Word}
    {out : Fin 16 → Nat → Bool}
    (hval : ∀ e, BitVec.ofInt 64 (f (s.vel a e).toNat (s.vel b e).toNat (oneIf ((s.mreg c).getLsbD e)).toNat) = val e)
    (hout : ∀ m e, c = some m →
      let x := f (s.vel a e).toNat (s.vel b e).toNat (oneIf (s.me.m[m].getLsbD e)).toNat
      ((2 ^ 64 : Nat) ≤ x ∨ x < 0 ↔ out m e = true)) :
    HasRow s i [a, b]
      { d := d, last := some (vaLast q.p), tag := .n64, put := s.under q val, fl := 0,
        mask := c.map fun m => (m, maskOf fun e => if s.on q e then out m e else s.me.m[m].getLsbD e) } := by
  refine ⟨_, _, ⟨hexec, rfl, ht.typed, classCheck_tagged ht rfl (.inl hs)⟩, rfl,
    (State.rowOf_elementwise rfl _).trans ?_⟩
  simp only [word_wrap64, intOf_bit, hval, State.flagsOn_zero, VRow.mk.injEq, true_and]
  cases c with
  | none => rw [Option.map_none, Option.map_none]
  | some m =>
    have hcarry (e : Nat) := (Bool.decide_congr (hout m e rfl)).trans (Bool.decide_coe _)
    exact congrArg (fun w => some (m, maskOf w)) (funext fun e => ite_congr rfl (fun _ => hcarry e) fun _ => rfl)

/-- Bit e of the mask of a comparison: its outcome, and for an element masked off the old bit, or 0 with KZ (R209). -/
theorem State.compared_eq (s : State) (q : VMod) (e : Nat) (x old : Bool) :
    (if s.me.vl ≤ e then false else if s.active q.k q.ke s.me.vl e then x else !q.kz && old) =
      if s.on q e then x else decide (e < s.me.vl) && !q.kz && old := by
  by_cases he : e < s.me.vl
  · rw [if_neg (Nat.not_le.mpr he), decide_eq_true he, Bool.true_and]; rfl
  · rw [if_pos (Nat.not_lt.mp he), State.on_beyond q he, decide_eq_false he, Bool.false_and, Bool.false_and,
      if_neg Bool.false_ne_true]

/-- A conversion between tags of one kind, to a part that both allow, with SAT where it is legal. -/
theorem conv_accepts {src tgt : Tag} {p : Nat} {sat : Bool} (hc : isComplex src = isComplex tgt)
    (hp : p < convParts src tgt) (hs : sat = false ∨ convSat src tgt = true) :
    (isComplex src != isComplex tgt) = false ∧ (decide (convParts src tgt ≤ p) || (sat && !convSat src tgt)) = false := by
  have hsat : (sat && !convSat src tgt) = false := by rcases hs with hs | hs <;> simp [hs]
  rw [hc, hsat, Bool.or_false]
  exact ⟨bne_self_eq_false _, decide_eq_false (Nat.not_le.mpr hp)⟩

theorem MoveOp.hasRow {s : State} {i : Instr} {srcs : List VsOp} {r : VRow} (h : MoveOp s i srcs r) :
    HasRow s i srcs r := by
  cases h with
  | vmov d a ht =>
    refine ⟨_, _, ⟨exec_vmov _ _ s, rfl, (Tagged.single ht).typed, rfl⟩, rfl, ?_⟩
    rw [State.rowOf_elementwise rfl, State.under_plain, State.flagsOn_zero]
  | vmovScalar d a ha ht =>
    have hscalar : s.vtag a = none := by
      cases a with
      | vec r => cases ha
      | g _ => rfl
      | zero => rfl
    refine ⟨_, s.me.v[vdReg d].tag, ⟨exec_vmov _ _ s, rfl, fun r hr => ?typed, ?check⟩, rfl, ?row⟩
    case typed =>
      obtain rfl : VsOp.vec r = a := by simpa using hr
      cases ha
    case check =>
      rw [List.map_singleton, hscalar]
      exact if_neg ht
    case row => rw [State.rowOf_elementwise rfl, State.under_plain, State.flagsOn_zero]
  | vaddc q d a b c ht hs =>
    refine State.carry_hasRow (exec_vaddc _ _ _ _ _ s) ht hs (fun e => ?_) fun m e _ => ?_
    · rw [BitVec.ofInt_add, BitVec.ofInt_add, ofInt_toNat_word, ofInt_toNat_word, ofInt_toNat_word]
    · rw [decide_eq_true_iff]; omega
  | vsubb q d a b c ht hs =>
    refine State.carry_hasRow (exec_vsubb _ _ _ _ _ s) ht hs (fun e => ?_) fun m e _ => ?_
    · rw [Int.sub_eq_add_neg, Int.sub_eq_add_neg, BitVec.ofInt_add, BitVec.ofInt_add, BitVec.ofInt_neg, BitVec.ofInt_neg,
        ofInt_toNat_word, ofInt_toNat_word, ofInt_toNat_word, ← BitVec.sub_eq_add_neg, ← BitVec.sub_eq_add_neg]
    · rw [decide_eq_true_iff]; omega
  | vcmp q cc d a b t ht hc =>
    refine ⟨_, t, ⟨exec_vcmp _ _ _ _ _ s, rfl, ht.typed, classCheck_tagged ht hc (.inl rfl)⟩, rfl, ?_⟩
    simp only [State.rowOf, State.elementwise_fl, State.compared_eq]
  | vcvt q u p d a ht hc hp hs =>
    refine ⟨_, _, ⟨exec_vcvt _ _ _ _ _ s, rfl, (Tagged.single ht).typed, ?_⟩, rfl, State.rowOf_elementwise rfl _⟩
    obtain ⟨hkind, hpart⟩ := conv_accepts hc hp hs
    exact (if_neg (Bool.not_eq_true _ ▸ hkind)).trans (if_neg (Bool.not_eq_true _ ▸ hpart))

/-! ### Signal processing (R85 to R89, R214 to R217) -/

/-- The lengths that do not suit a block of PRBs (R216). -/
theorem prbBad_iff {w vl : Nat} : prbBad w vl = true ↔ vl % 6 ≠ 0 ∨ 1024 < vl / 6 * (1 + 3 * w) := by
  rw [prbBad, Bool.or_eq_true, bne_iff_ne, decide_eq_true_iff]
theorem prbBad_false {w vl : Nat} (hv : vl % 6 = 0) (hb : vl / 6 * (1 + 3 * w) ≤ 1024) : prbBad w vl = false := by
  refine Bool.eq_false_iff.mpr fun h => ?_
  rcases prbBad_iff.mp h with h | h
  · exact h hv
  · exact absurd hb (Nat.not_le.mpr h)

/-- The upper element of a butterfly's pair is a + w × b, the lower a − w × b (R85). -/
theorem byExpr_butterfly (sat : Bool) (rm : Rm) (t : Tag) (n e : Nat) (x y : Nat → Word) :
    (let low := e % (2 * n) < n
     let i := if low then e else e - n
     byExpr sat rm t (x i) (x (i + n)) (y i)
       (pos [0] :: if low then mulRe 4 2 else CExpr.flip (mulRe 4 2))
       (pos [1] :: if low then mulIm 4 2 else CExpr.flip (mulIm 4 2))) =
    if e % (2 * n) < n then byExpr sat rm t (x e) (x (e + n)) (y e)
      [pos [0], pos [4, 2], neg [5, 3]] [pos [1], pos [4, 3], pos [5, 2]]
    else byExpr sat rm t (x (e - n)) (x (e - n + n)) (y (e - n))
      [pos [0], neg [4, 2], pos [5, 3]] [pos [1], neg [4, 3], neg [5, 2]] := by
  by_cases h : e % (2 * n) < n
  · simp only [if_pos h]; rfl
  · simp only [if_neg h]; rfl

/-- A component of a decompressed value is saturated to 16 bits (R88). -/
theorem clamp16_eq_laneResult (v : Int) : wrap64 (clampInt (-32768) 32767 v) % 2 ^ 16 = laneResult .ci16x2 true v :=
  intFit_lane .ci16x2 true v

/-- An instruction with one source, of tag t, runs in a form that checks for that tag. -/
theorem runsIn_of_oneTag {s : State} {i : Instr} {f : VForm} {a : Fin 60} {t r : Tag} (hexec : exec i s = s.vec f)
    (hsrcs : f.srcs = [.vec a]) (hcheck : f.check = oneTag a t r) (ht : s.me.v[a].tag = t) (hn : t ≠ .none) :
    RunsIn s i [.vec a] f t r :=
  ⟨hexec, hsrcs, (ht ▸ Tagged.single (ht.trans_ne hn) : Tagged s [.vec a] t).typed, hcheck ▸
    if_pos (by rw [List.map_singleton, State.vtag, ht])⟩

theorem SignalOp.hasRow {s : State} {i : Instr} {srcs : List VsOp} {r : VRow} (h : SignalOp s i srcs r) :
    HasRow s i srcs r := by
  cases h with
  | vbfly q h d a b t ht hc hs hv =>
    refine ⟨_, t, ⟨exec_vbfly _ _ _ _ _ s, rfl, ht.typed, classCheck_tagged ht hc hs⟩, by simpa using hv,
      (State.rowOf_elementwise rfl _).trans ?_⟩
    simp only [byExpr_butterfly]
  | vgjstep q n p d a ht hv =>
    exact ⟨_, _, runsIn_of_oneTag (exec_vgjstep _ _ _ _ _ s) rfl rfl ht (by decide), by simpa using hv,
      (State.rowOf_elementwise rfl _).trans rfl⟩
  | vbfpexp q w d a ht hv hb =>
    refine ⟨_, _, runsIn_of_oneTag (exec_vbfpexp _ _ _ _ s) rfl rfl ht (by decide), prbBad_false hv hb,
      (State.rowOf_elementwise rfl _).trans ?_⟩
    simp only [clamp16_eq_laneResult, State.flagsOn_zero, Nat.cast_pow, Nat.cast_ofNat]
  | vbfpcmp q w d a ht hv hb =>
    exact ⟨_, _, runsIn_of_oneTag (exec_vbfpcmp _ _ _ _ s) rfl rfl ht (by decide), prbBad_false hv hb, rfl⟩

/-! ### Permutes (R218, R219, Table 9-8) -/

/-- A permute under a mask moves elements as R52 and R218 say. -/
theorem State.moves_eq (s : State) (q : VMod) (f : Nat → Option Word) :
    s.moves q s.me.vl f = { put := s.moving q f, fl := 0, mask := none } := by
  rw [State.moves]
  congr 1
  funext e
  rw [State.moving]
  by_cases he : e < s.me.vl
  · rw [if_neg (Nat.not_le.mpr he)]; simp only [he, and_true]; rfl
  · rw [if_pos (Nat.not_lt.mp he), State.on_beyond q he, if_neg Bool.false_ne_true, if_neg fun h => he h.2]
/-- The set bits of a mask below n, by their rank. -/
theorem getElem?_setBelow (m : MaskReg) (n j : Nat) :
    (setBelow m n)[j]? = (List.range n).find? fun e => m.getLsbD e && rankBelow m e == j := by
  induction n with
  | zero => rfl
  | succ n ih =>
    have hsplit : setBelow m (n + 1) = setBelow m n ++ [n].filter fun e => m.getLsbD e := by
      rw [setBelow, List.range_succ, List.filter_append]; rfl
    have hrank : rankBelow m n = (setBelow m n).length := rfl
    rw [hsplit, List.range_succ, List.find?_append, ← ih]
    rcases Nat.lt_trichotomy j (setBelow m n).length with h | h | h
    · rw [List.getElem?_append_left h, List.getElem?_eq_getElem h, Option.some_or]
    · cases hbit : m.getLsbD n <;> simp [h, hbit, hrank]
    · have hout : ¬ (setBelow m n).length = j := Nat.ne_of_lt h
      cases hbit : m.getLsbD n <;> simp [hbit, hrank, hout, h, h.le]

/-- A permute whose sources pass its check writes what its result sets, to `l3` also, and raises no flag. -/
theorem State.permute_hasRow {s : State} {i : Instr} {d : VdOp} {srcs : List VsOp}
    {check : List (Option Tag) → Except TrapInfo (Tag × Tag)} {res : State → Nat → VRes} {t : Tag}
    {put : Nat → Option Word}
    (hexec : exec i s = s.permute d srcs check res) (ht : ∀ a, VsOp.vec a ∈ srcs → s.me.v[a].tag ≠ .none)
    (hc : check (srcs.map s.vtag) = .ok (t, t)) (hres : res s s.me.vl = { put := put, fl := 0, mask := none }) :
    HasRow s i srcs { d := d, last := some 59, tag := t, fl := 0, mask := none, put := put } :=
  ⟨_, t, ⟨hexec, rfl, ht, hc⟩, rfl, by simp only [State.rowOf, hres]⟩
theorem typed_pair {s : State} {a b : Fin 60} (ha : s.me.v[a].tag ≠ .none) (hb : s.me.v[b].tag ≠ .none) (r : Fin 60)
    (hr : VsOp.vec r ∈ [VsOp.vec a, .vec b]) : s.me.v[r].tag ≠ .none := by
  obtain rfl | rfl : r = a ∨ r = b := by simpa using hr
  · exact ha
  · exact hb
theorem tagOfA_pair {s : State} {a b : Fin 60} {x : VsOp} {ok : Tag → Tag → Bool}
    (h : ok s.me.v[a].tag s.me.v[b].tag = true) :
    tagOfA x ok (List.map s.vtag [.vec a, .vec b]) = .ok (s.me.v[a].tag, s.me.v[a].tag) := if_pos h

theorem PermuteOp.hasRow {s : State} {i : Instr} {srcs : List VsOp} {r : VRow} (h : PermuteOp s i srcs r) :
    HasRow s i srcs r := by
  cases h with
  | vslideup q d a b ht =>
    exact State.permute_hasRow (exec_vslideup _ _ _ _ s) (Tagged.single ht).typed rfl (s.moves_eq _ _)
  | vslidedn q d a b ht =>
    exact State.permute_hasRow (exec_vslidedn _ _ _ _ s) (Tagged.single ht).typed rfl (s.moves_eq _ _)
  | vperm q d a b ht hb =>
    have hindex : s.me.v[b].tag ≠ .none := by rcases hb with hb | hb <;> rw [hb] <;> decide
    refine State.permute_hasRow (exec_vperm _ _ _ _ s) (typed_pair ht hindex) (tagOfA_pair ?_) (s.moves_eq _ _)
    rcases hb with hb | hb <;> rw [hb] <;> rfl
  | vbcast q d a b ht =>
    exact State.permute_hasRow (exec_vbcast _ _ _ _ s) (Tagged.single ht).typed rfl (s.moves_eq _ _)
  | vcompress q d a c ht =>
    refine State.permute_hasRow (exec_vcompress _ _ _ _ s) (Tagged.single ht).typed rfl ?_
    simp only [getElem?_setBelow]
  | vexpand q d a c ht => exact State.permute_hasRow (exec_vexpand _ _ _ _ s) (Tagged.single ht).typed rfl rfl
  | viota q d c => exact State.permute_hasRow (exec_viota _ _ _ s) (by simp) rfl rfl
  | vzip q d a b ht hb =>
    refine State.permute_hasRow (exec_vzip _ _ _ _ s) (typed_pair ht (hb.trans_ne ht))
      (tagOfA_pair (beq_iff_eq.mpr hb.symm)) ((s.moves_eq _ _).trans ?_)
    congr 2
    exact funext fun e => congrArg some (apply_ite (s.elAt · (e / 2)) _ _ _)
  | vunzip q d a b ht hb =>
    exact State.permute_hasRow (exec_vunzip _ _ _ _ s) (typed_pair ht (hb.trans_ne ht))
      (tagOfA_pair (beq_iff_eq.mpr hb.symm)) (s.moves_eq _ _)

/-! ### Reductions and scan (R90, R91, R220, R221) -/

theorem clsMinMax_typed {t : Tag} (h : clsMinMax t = true) : tagKind t ≠ .untyped := by revert h; cases t <;> decide

theorem ReduceOp.hasRow {s : State} {i : Instr} {srcs : List VsOp} {r : VRow} (h : ReduceOp s i srcs r) :
    HasRow s i srcs r := by
  have typed {t : Tag} (h : tagKind t ≠ .untyped) : t ≠ .none := fun e => h (e ▸ rfl)
  cases h with
  | vredsum q d a hc hs =>
    have ht := Tagged.single (typed (clsAdd_typed s.me.v[a].tag hc))
    exact ⟨_, _, ⟨exec_vredsum _ _ _ s, rfl, ht.typed, classCheck_tagged ht hc hs⟩, rfl, rfl⟩
  | vredmax q d a hc hs =>
    have ht := Tagged.single (typed (clsMinMax_typed hc))
    exact ⟨_, _, ⟨exec_vredmax _ _ _ s, rfl, ht.typed, classCheck_tagged ht hc (.inl hs)⟩, rfl, rfl⟩
  | vredmin q d a hc hs =>
    have ht := Tagged.single (typed (clsMinMax_typed hc))
    exact ⟨_, _, ⟨exec_vredmin _ _ _ s, rfl, ht.typed, classCheck_tagged ht hc (.inl hs)⟩, rfl, rfl⟩
  | vscan q d a hc hs =>
    have ht := Tagged.single (typed (clsAdd_typed s.me.v[a].tag hc))
    exact ⟨_, _, ⟨exec_vscan _ _ _ s, rfl, ht.typed, classCheck_tagged ht hc hs⟩, rfl, State.rowOf_elementwise rfl _⟩

/-! ### Lengths that do not suit (R214 to R217) -/

/-- A signal-processing instruction at a `vl` that does not suit it runs in a form that refuses the `vl`. -/
theorem BadLength.refused {s : State} {i : Instr} {srcs : List VsOp} {d : VdOp} (h : BadLength s i srcs d) :
    ∃ f t r, RunsIn s i srcs f t r ∧ f.op = 0x36 ∧ f.d = d ∧ f.badvl t s.me.vl = true := by
  cases h with
  | vbfly q h _ a b t ht hc hs hv =>
    exact ⟨_, t, t, ⟨exec_vbfly _ _ _ _ _ s, rfl, ht.typed, classCheck_tagged ht hc hs⟩, rfl, rfl, bne_iff_ne.mpr hv⟩
  | vgjstep q n p _ a ht hv =>
    exact ⟨_, _, _, runsIn_of_oneTag (exec_vgjstep _ _ _ _ _ s) rfl rfl ht (by decide), rfl, rfl, bne_iff_ne.mpr hv⟩
  | vbfpexp q w _ a ht hv =>
    exact ⟨_, _, _, runsIn_of_oneTag (exec_vbfpexp _ _ _ _ s) rfl rfl ht (by decide), rfl, rfl, prbBad_iff.mpr hv⟩
  | vbfpcmp q w _ a ht hv =>
    exact ⟨_, _, _, runsIn_of_oneTag (exec_vbfpcmp _ _ _ _ s) rfl rfl ht (by decide), rfl, rfl, prbBad_iff.mpr hv⟩

/-- With no operand bound to a stream, a form that refuses the `vl` raises BADVL (R202). -/
theorem State.vec_badvl {s : State} {f : VForm} {t r : Tag} (hl : s.live) (hr : VecRuns s f.srcs f.d)
    (hsvec : s.me.sup.svec ≠ 0) (hop : f.op < 128) (hvl : s.me.vl ≤ 128) (ht : s.vecTags f = .ok (t, r))
    (hb : f.badvl t s.me.vl = true) :
    ∃ u, s.vec f = .next u ∧ TrapEntry s u f.op 0x05 s.me.vl 0 s.me.pc 0 0 := by
  obtain ⟨hu, hv, hs, hd⟩ := hr
  have hraise : s.vec f = s.raise f.op { c := .badvl, detail := s.me.vl } := by
    simp only [State.vec, State.userOnly_eq hu, ht, if_neg hv, State.vecStreams, State.pops_nil hs, List.foldl_nil]
    exact if_pos ⟨hv, hb⟩
  rw [hraise]
  exact State.raise_user hl hu hsvec f.op { c := .badvl, detail := s.me.vl } hop (Nat.lt_of_le_of_lt hvl (by decide))
    (Nat.zero_lt_succ 3) (Nat.zero_lt_succ 127)

/-- Settles O35: each instruction runs in a form, and the form writes the row, or refuses the `vl`. -/
theorem rowInstructionsWriteTheirRow : Obligations.RowInstructionsWriteTheirRow := by
  unfold Obligations.RowInstructionsWriteTheirRow
  refine ⟨fun s i srcs r hi => hi.hasRow.writes, fun s i srcs r hi => hi.hasRow.writes,
    fun s i srcs r hi => hi.hasRow.writes, fun s i srcs r hi => hi.hasRow.writes,
    fun s i srcs d hi hl hr hvl hsvec => ?badLength⟩
  case badLength =>
    obtain ⟨f, t, r, hin, hop, rfl, hbad⟩ := hi.refused
    obtain rfl := hin.sources
    obtain ⟨u, hvec, htrap⟩ := State.vec_badvl hl hr hsvec (by rw [hop]; decide) hvl (hin.vecTags hr) hbad
    exact ⟨u, hin.exec.trans hvec, hop ▸ htrap⟩

end Sys2Proof.Machine
end


section
/-!
SUPPORT. Tokens (R226 to R228, R312): what a probe of one page finds, and the step that gives a token another value, for O37.
-/

namespace Sys2Proof.Machine

/-! ### Probes of one page (R226, R361) -/

section
variable {s : State} {a n : Nat} {l : Leaf}

/-- The last page of a probed range is decided by the checks of its leaf alone. -/
theorem State.probePages_last {p : Fin 3} {vf : Fin 64} {e : Nat} (hwalk : s.walk p vf a = .ok l)
    (hpage : e ≤ l.pin.va + l.pin.size - 1) (own wr : Bool) (k : Nat) :
    s.probePages p vf own wr a e (k + 1) =
      match s.leafCheck p own .read l a e, if wr then s.leafCheck p own .write l a e else none with
      | some c, _ => .error (c, a)
      | _, some c => .error (c, a)
      | none, none => .ok [{ l.pin with w := l.pin.w && wr }] := by
  simp only [State.probePages, hwalk, Nat.min_eq_left hpage, if_true] <;> rfl

/-- A probe that lies on one page is decided by the checks of its leaf alone. -/
theorem State.probeRange_onePage (h : OnePage s a n l) (own wr : Bool) :
    s.probeRange s.myGang.p s.myVf own wr a n =
      match s.leafCheck s.myGang.p own .read l a (a + n - 1),
          if wr then s.leafCheck s.myGang.p own .write l a (a + n - 1) else none with
      | some c, _ => .error (c, a)
      | _, some c => .error (c, a)
      | none, none => .ok [{ l.pin with w := l.pin.w && wr }] := by
  obtain ⟨hwalk, hsome, hspace, hpage⟩ := h
  rw [State.probeRange, if_neg (by omega), if_neg (by omega)]
  exact State.probePages_last hwalk (by omega) own wr 31

/-- A page that permits the access is pinned. -/
theorem State.probeRange_permitted (h : OnePage s a n l) {own wr : Bool} (hsup : l.sup = true → own = true)
    (hr : l.pin.r = true) (hw : wr = true → l.pin.w = true)
    (hdev : l.pin.kind = .dev → s.granted s.myGang.p (l.pin.pa + (a - l.pin.va)) = true ∧
      s.granted s.myGang.p (l.pin.pa + (a + n - 1 - l.pin.va)) = true) :
    s.probeRange s.myGang.p s.myVf own wr a n = .ok [{ l.pin with w := l.pin.w && wr }] := by
  have hclear : (!own && l.sup) = false := by
    cases hs : l.sup
    · exact Bool.and_false _
    · rw [hsup hs]; rfl
  have hread : s.leafCheck s.myGang.p own .read l a (a + n - 1) = none := by
    simpa [State.leafCheck, hr, hclear] using hdev
  have hwrite (hwr : wr = true) : s.leafCheck s.myGang.p own .write l a (a + n - 1) = none := by
    simpa [State.leafCheck, hw hwr, hclear] using hdev
  rw [State.probeRange_onePage h, hread]
  cases wr with
  | false => rfl
  | true => rw [if_pos rfl, hwrite rfl]

/-- A page with SUP is refused to a token of the user hart. -/
theorem State.probeRange_sup (h : OnePage s a n l) (hsup : l.sup = true) (wr : Bool) :
    s.probeRange s.myGang.p s.myVf false wr a n = .error (.prot, a) := by
  have hread : s.leafCheck s.myGang.p false .read l a (a + n - 1) = some .prot := by
    simp [State.leafCheck, hsup]
  rw [State.probeRange_onePage h, hread]
end

/-! ### A token with another value -/

/-- The caches of translations take up what some walks read, and nothing else changes. -/
theorem State.remember_all (pins : List Pin) (s : State) :
    ∃ tl wl, pins.foldl (fun s q => s.remember s.myGang.p s.myVf q.va) s = { s with tlb := tl, walks := wl } := by
  induction pins generalizing s with
  | nil => exact ⟨s.tlb, s.walks, rfl⟩
  | cons q pins ih =>
    obtain ⟨tl, wl, he⟩ := ih (s.remember s.myGang.p s.myVf q.va)
    exact ⟨tl, wl, he⟩

/-- A token of the running hart replaced after changes outside the harts, then retirement. -/
theorem Moved.putToken {es : State → State} {s u : State} (h : Moved Hart.sansTokens hideNone hideNone es s u s.byteAt)
    (hme : u.me = s.me) (own : Bool) (tk : Fin 8) (x : Token) :
    TokenSet s (u.modMe fun y => y.putToken own tk x).retired own tk x ∧
      StepBut Hart.sansTokens hideNone hideNone es s (u.modMe fun y => y.putToken own tk x).retired s.byteAt := by
  have hm := h.modMe (fun y => y.putToken own tk x) (fun y b => by cases own <;> cases b <;> rfl)
    (fun y => by cases own <;> rfl) (fun y => by cases own <;> rfl) (fun y => by cases own <;> rfl)
    (fun y => by cases own <;> rfl) (fun y => by cases own <;> rfl) (fun y => by cases own <;> rfl)
  have htokens : (u.modMe fun y => y.putToken own tk x).retired.me.tk = (s.me.putToken own tk x).tk ∧
      (u.modMe fun y => y.putToken own tk x).retired.me.sup.tk = (s.me.putToken own tk x).sup.tk := by
    rw [State.me_retired_eq hm.same.live, State.me_modMe h.same.live, hme]
    split <;> exact ⟨rfl, rfl⟩
  refine ⟨⟨fun k => ?_, fun k => ?_⟩, hm.retire⟩
  · rw [htokens.1]
    cases own with
    | false => exact (vput_getElem _ _ _ _).trans (if_congr (by simp [eq_comm]) rfl rfl)
    | true => exact (if_neg fun hc => Bool.false_ne_true hc.1.symm).symm
  · rw [htokens.2]
    cases own with
    | true => exact (vput_getElem _ _ _ _).trans (if_congr (by simp [eq_comm]) rfl rfl)
    | false => exact (if_neg fun hc => Bool.false_ne_true hc.1).symm

/-- A `VPROBE` all of whose pages translate, within the pins that its slot may hold, sets its token. -/
theorem execVprobe_sets {s : State} (hl : s.live) {wr : Bool} {tk : Fin 8} {a b : GOp} {pins : List Pin}
    (hp : s.probeRange s.myGang.p s.myVf s.probesSup wr (s.rg a).toNat (s.rg b).toNat = .ok pins)
    (hn : s.me.pinsBut s.probesSup tk + pins.length ≤ 64) :
    ∃ t, exec (.vprobe wr tk a b) s = .next t ∧
      TokenSet s t s.probesSup tk { st := .valid, base := (s.rg a).toNat, len := (s.rg b).toNat, wr := wr, pins := pins } ∧
      StepBut Hart.sansTokens hideNone hideNone
        (if s.serves.head? = some true then fun u => { u with tlb := [], walks := [] } else hideNone) s t s.byteAt := by
  obtain ⟨tl, wl, hrem⟩ := State.remember_all pins s
  refine ⟨((if s.serves.head? = some true then { s with tlb := tl, walks := wl } else s).modMe fun y =>
    y.putToken s.probesSup tk _).retired, ?_, Moved.putToken ?_ ?_ _ _ _⟩
  · simp only [exec_vprobe, execVprobe, hp, if_neg (Nat.not_lt.mpr hn)]
    rw [hrem]
    rfl
  · split
    · exact (Moved.refl hl).device rfl rfl rfl fun _ => rfl
    · exact Moved.refl hl
  · split <;> rfl

/-- Settles O37: a probe that finds its pages sets the token, and one of a page with SUP by the user hart's token kills. -/
theorem probesMakeTokens : Obligations.ProbesMakeTokens := by
  unfold Obligations.ProbesMakeTokens
  refine ⟨fun s own wr tk a b pins hl hown => ?tokens,
    fun s own wr a n l h hsup hr hw hdev => State.probeRange_permitted h hsup hr hw hdev, fun s wr tk a b l hl hs hutk hst h hsup => ?kill⟩
  case tokens =>
    obtain rfl : own = s.probesSup := hown
    refine ⟨fun hp hn => execVprobe_sets hl hp hn, _, exec_vrelease tk s, ?_⟩
    exact Moved.putToken (Moved.refl hl) rfl _ _ _
  case kill =>
    have hself : s.probesSup = false := by rw [State.probesSup, hs, hutk]; rfl
    have hrun : exec (.vprobe wr tk a b) s = .next (s.killHart s.cur Cause.prot.code) := by
      have hsame (va : Nat) : s.untranslated s.myGang.p s.myVf va .prot = s := if_neg (by decide)
      simp only [exec_vprobe, execVprobe, hself, State.probeRange_sup h hsup wr, hsame, State.raise, hs, if_true]
    have hn : s.me.over = false := by
      have hst : s.me.st = .trapped := by simpa [State.atS] using hs
      rw [Hart.over, hst]; rfl
    exact ⟨_, hrun, State.killHart_cur_kills hl hn hst _⟩

end Sys2Proof.Machine
end


section
/-!
SUPPORT. `VWAITC` (R244): one evaluation of its elements, and its two ends, for O42.
-/

namespace Sys2Proof.Machine

/-! ### One evaluation -/

/-- An access that meets its conditions, the tag checks of its own among them, goes on with its elements. -/
theorem VecAccess.vmem_proceeds {s : State} {f : VAcc} {data : List VsOp} {dests : List VdOp} {offs : Option VrOp}
    {rf : PageKind → Option Cause} {at_ : Nat → VPlace} (h : VecAccess s f data dests offs rf at_)
    {tags : Option TrapInfo} (ht : tags = none) (k : List Nat → Res) (ends : Option Nat) :
    s.vmem f tags rf k ends = k (s.todo f.x) := by
  obtain ⟨hu, hv, -, htk, hi, hs, hw, -⟩ := h
  have hw' : ¬ (f.x.t = .no ∧ s.waitsOwn true (releases f.x.ord) (s.vLocs f (s.todo f.x)) = true) := fun hc =>
    Bool.false_ne_true ((hw hc.1).symm.trans hc.2)
  simp only [State.vmem, State.userOnly, hu, ht, htk, hi, hs, Bool.false_eq_true, if_false, if_neg hv, if_neg hw']

/-- An evaluation whose elements can all be read finds for each whether it meets the condition. -/
theorem State.ReadsTo.evaluate {s u : State} (h : s.ReadsTo u) (f : VAcc) (ok : Nat → Word → Bool) {at_ : Nat → VPlace}
    {es : List Nat} (hp : ∀ e ∈ es, s.vPlace f e = .ok (at_ e)) (hr : ∀ e ∈ es, (at_ e).readable s f.n) :
    ∃ w, s.ReadsTo w ∧ u.evaluate f ok es = .ok (es.map fun e => (e, ok e
      (if f.n = 4 then extendN 4 f.x.sx ((at_ e).value s f.n) else word ((at_ e).value s f.n))), w) := by
  induction es generalizing u with
  | nil => exact ⟨u, h, rfl⟩
  | cons e es ih =>
    obtain ⟨v, hv, hsv⟩ := h.vRead (hr e List.mem_cons_self)
    obtain ⟨w, hsw, hw⟩ := ih hsv (fun k hk => hp k (List.mem_cons_of_mem e hk)) fun k hk => hr k (List.mem_cons_of_mem e hk)
    refine ⟨w, hsw, ?_⟩
    simp only [State.evaluate, h.vPlace, hp e List.mem_cons_self, hv, hw, List.map_cons]

/-- With all its elements read, a `VWAITC` ends when its time is up or each meets the condition, and else blocks; its time
is not up as it issues, but for a time-out of 0. -/
theorem execVwaitc_evaluates {s : State} {cc : FCond} {x : MemX} {d : MOp} {a b : GOp} {c : VsOp} {at_ : Nat → VPlace}
    {ok : Nat → Bool} (hc : s.vtag c = none ∨ s.vtag c = some .n64 ∨ s.vtag c = some .i64) (hwait : s.me.wait = none)
    (ha : VecAccess s (s.waitAcc x a) [c] [] none notIo at_) (hst : releases x.ord = true → s.me.stores = [])
    (hr : ∀ e ∈ s.todo x, (at_ e).readable s (Sz.bytes x.sz))
    (hok : ok = fun e => FCond.words cc (s.vtag c == some .i64)
      (if Sz.bytes x.sz = 4 then extendN 4 x.sx ((at_ e).value s 4) else word ((at_ e).value s (Sz.bytes x.sz))) (s.vel c e)) :
    ∃ u late, s.ReadsTo u ∧ ((b = none ∨ (s.rg b).toNat ≠ 0) → late = false) ∧
      exec (.vwaitc cc x d a b c) s =
        if late || (s.todo x).all ok then u.waitcEnd (s.waitAcc x a) d ((s.todo x).map fun e => (e, ok e))
        else u.block 0x52 .vwaitc (b.map fun _ => s.dtime + (s.rg b).toNat) := by
  have h0 : s.Alike (if releases x.ord then s.release else s) := by
    cases hrel : releases x.ord
    · exact .refl s
    · exact .of_release (hst hrel)
  generalize hz : (if releases x.ord then s.release else s) = z at h0
  have hcheck : ((s.todo x).findSome? fun e => match s.vPlace (s.waitAcc x a) e with
      | .error t => some { t with ei := 0 } | .ok _ => none) = none := by
    rw [List.findSome?_eq_none_iff]
    intro e he
    rw [ha.places e he]
  have hends : s.waitcEnds b = b.map fun _ => s.dtime + (s.rg b).toNat := by rw [State.waitcEnds, hwait]; rfl
  have htag : z.vtag c = s.vtag c := by cases c <;> simp only [State.vtag, h0.me]
  have hel (e : Nat) : z.vel c e = s.vel c e := by cases c <;> simp only [State.vel, h0.me]
  obtain ⟨u, hu, hev⟩ := (State.ReadsTo.of_alike h0).evaluate (s.waitAcc x a)
    (fun e w => FCond.words cc (s.vtag c == some .i64) w (s.vel c e)) ha.places hr
  have hvals : (s.todo x).map (fun e => (e, FCond.words cc (s.vtag c == some .i64)
      (if Sz.bytes x.sz = 4 then extendN 4 x.sx ((at_ e).value s (Sz.bytes x.sz)) else word ((at_ e).value s (Sz.bytes x.sz)))
      (s.vel c e))) = (s.todo x).map fun e => (e, ok e) := by
    rw [hok]
    refine List.map_congr_left fun e _ => ?_
    by_cases h4 : Sz.bytes x.sz = 4
    · simp only [h4, if_true]
    · simp only [if_neg h4]
  refine ⟨u, (b.map fun _ => s.dtime + (s.rg b).toNat).any fun e => decide (e ≤ s.dtime), hu, fun hb => ?_, ?_⟩
  · rcases hb with rfl | hb
    · rfl
    · cases b with
      | none => rfl
      | some r => exact decide_eq_false (Nat.not_le.mpr (Nat.lt_add_of_pos_right (Nat.pos_of_ne_zero hb)))
  · rw [exec_vwaitc, execVwaitc]
    refine (ha.vmem_proceeds ?tags _ _).trans ?_
    case tags =>
      rw [ha.tags]
      rcases hc with hc | hc | hc <;> rw [hc]
    have hlate : z.me.wait = none := by rw [h0.me, hwait]
    have htime : z.dtime = s.dtime := by
      have e := congrArg State.dtime h0.sansGangs; exact e
    have hall : ((s.todo x).map fun e => (e, ok e)).all (fun q => q.2) = (s.todo x).all ok := by rw [List.all_map]; rfl
    have hev' := hev.trans (congrArg (fun l => Except.ok (l, u)) hvals)
    dsimp only
    rw [show s.todo (s.waitAcc x a).x = s.todo x from rfl]
    erw [hcheck]
    dsimp only
    rw [hz, hlate, hends, htime]
    simp only [htag, hel]
    erw [hev']
    dsimp only
    rw [hall]
    rfl

/-! ### Its two ends -/

/-- In the list of what belongs to some elements, each of these is found. -/
theorem find?_map_element {α : Type} (es : List Nat) (v : Nat → α) (e : Nat) :
    ((es.map fun e => (e, v e)).find? fun q => q.1 == e) = if e ∈ es then some (e, v e) else none := by
  induction es with
  | nil => rfl
  | cons k es ih =>
    rw [List.map_cons, List.find?_cons]
    by_cases hk : k = e
    · subst hk; simp
    · rw [beq_eq_false_iff_ne.mpr hk, ih]
      simp only [List.mem_cons, Ne.symm hk, false_or]

/-- With every element met, a `VWAITC` sets the bits of its mask, keeps the others, and retires. -/
theorem State.waitcEnd_all {s u : State} (hl : s.live) (hu : s.atS = false) (hr : s.ReadsTo u) (f : VAcc) (d : MOp)
    {ok : Nat → Bool} (hok : ∀ e ∈ s.todo f.x, ok e = true) :
    ∃ t, u.waitcEnd f d ((s.todo f.x).map fun e => (e, ok e)) = .next t ∧
      (∀ (m : Fin 16) (e : Nat), e < 128 → t.me.m[m].getLsbD e =
        if d = some m ∧ e ∈ s.todo f.x then true else s.me.m[m].getLsbD e) ∧
      StepBut (fun h => { h.sansCache with m := Vector.replicate 16 0 }) hideNone hideNone State.sansReads s t s.byteAt := by
  have ha : s.LoadedAt (u.acquireV f.x) := hr.loadedAt hl (emptiesCache f.x)
  refine ⟨_, rfl, fun m e he => ?_, ?_⟩
  · have hwm := (State.wm_retires ha.moved.same.live (ha.moved.same.atS.trans hu) d (maskOf fun e =>
      match ((s.todo f.x).map fun e => (e, ok e)).find? fun q => q.1 == e with
      | some q => q.2
      | none => (u.mreg d).getLsbD e)).1 m
    refine (congrArg (fun w : MaskReg => w.getLsbD e) hwm).trans ?_
    by_cases hd : d = some m
    · subst hd
      rw [if_pos rfl, getLsbD_maskOf _ he, find?_map_element]
      by_cases hm : e ∈ s.todo f.x
      · rw [if_pos hm, if_pos ⟨rfl, hm⟩]; exact hok e hm
      · rw [if_neg hm, if_neg fun h => hm h.2, State.mreg, hr.me]
    · rw [if_neg hd, if_neg fun h => hd h.1, ha.m]
  · rw [State.wm_eq_modMe]
    refine ((ha.moved.weaken (fun _ _ e => congrArg Hart.sansM e) (fun _ _ e => e) (fun _ _ e => e) fun _ _ e => e).modMe _
      (fun y b => ?_) (fun y => (Hart.setM?_keeps y _).1) (fun y => (Hart.setM?_keeps y _).2.1) ?_ ?_ ?_ ?_).retire
    · cases d <;> cases b <;> rfl
    all_goals intro y; cases d <;> rfl

/-- Settles O42: an evaluation finds every element; all met, the mask is written, and with one not met the hart blocks. -/
theorem conditionalWaitsTestEveryElement : Obligations.ConditionalWaitsTestEveryElement := by
  unfold Obligations.ConditionalWaitsTestEveryElement
  intro s cc x d a b c at_ ok hl hc hwait ha hst hr hok
  obtain ⟨u, late, hu, hlate, hexec⟩ := execVwaitc_evaluates (d := d) (b := b) hc hwait ha hst hr hok
  refine ⟨fun hall => ?met, fun ⟨e, he, hno⟩ hb => ?blocks⟩
  case met =>
    rw [hexec, List.all_eq_true.mpr hall, Bool.or_true, if_pos rfl]
    exact State.waitcEnd_all hl ha.user hu _ d hall
  case blocks =>
    have hfail : (s.todo x).all ok = false := List.all_eq_false.mpr ⟨e, he, by rw [hno]; decide⟩
    have huser : u.atS = false := hu.atS.trans ha.user
    obtain ⟨t, ht, hblk⟩ := Blocks.of_block (hu.live hl) (by rw [huser, hu.me, hwait]; rfl) 0x52 .vwaitc
      (b.map fun _ => s.dtime + (s.rg b).toNat) 0
    obtain ⟨hstate, hw, hpc, hmem, hframe⟩ := hblk
    rw [huser] at hstate hw
    have ht0 : t.atS = false := by rw [State.atS, hstate]; rfl
    have hcyc : u.cyc = s.cyc := by
      have e := congrArg State.cyc hu.device; exact e
    refine ⟨t, ?_, hstate, ?_, ?_, fun l => (hmem l).trans (hu.byteAt l), ?_⟩
    · rw [hexec, hlate hb, hfail]; exact ht
    · rw [State.pcv_user ht0, State.pcv_user huser, hu.me] at hpc; exact hpc
    · rw [← hcyc]; exact hw
    · exact (hu.moved hl (eh := Hart.sansWait) (eo := hideNone) (eg := hideNone)).frame.trans
        (hframe.weaken (fun _ _ e => e) (fun _ _ e => e) (fun _ _ e => e) fun _ _ e => congrArg State.sansReads e)
        hu.cur hu.atS

end Sys2Proof.Machine
end


section
/-!
SUPPORT. Ordered elements performed one after another at their homes (R148, R233, R234, R242): the memory that a run of them
leaves, and the state that it leads to, for O40 and O41.
-/

namespace Sys2Proof.Machine

/-! ### What a run of elements does to memory -/

/-- What an element returns: the number at its place, or 0 when it reads nothing. -/
def OrdElem.old (x : OrdElem) (m : Loc → Byte) : Nat := if x.op.reads then numAt m x.loc x.n else 0
/-- Memory after one element. -/
def OrdElem.over (x : OrdElem) (m : Loc → Byte) : Loc → Byte :=
  match x.op with
  | .store bs => putAt m x.loc bs
  | op => writtenOver m x.loc x.n (op.next x.n (numAt m x.loc x.n))
/-- Elements one after another: what each returns, and memory afterwards. -/
def elemRun : List OrdElem → (Loc → Byte) → List (Nat × Nat) × (Loc → Byte)
  | [], m => ([], m)
  | x :: xs, m => ((x.e, x.old m) :: (elemRun xs (x.over m)).1, (elemRun xs (x.over m)).2)

/-- Stores one after another write their bytes, in order. -/
theorem elemRun_stores (es : List Nat) (n : Nat) (at_ : Nat → VPlace) (data : Nat → Nat) (hgen : ∀ e ∈ es, ∃ l q, at_ e = .gen l q)
    (m : Loc → Byte) :
    (elemRun (es.map fun e => { e := e, loc := (at_ e).loc, n := n, op := .store (bytesOfNat n (data e)) }) m).2 =
      storedBytes m n at_ data es := by
  induction es generalizing m with
  | nil => rfl
  | cons e es ih =>
    obtain ⟨l, q, he⟩ := hgen e List.mem_cons_self
    refine (ih (fun k hk => hgen k (List.mem_cons_of_mem e hk)) _).trans ?_
    show storedBytes (putAt m (at_ e).loc (bytesOfNat n (data e))) n at_ data es = _
    rw [storedBytes, storedBytes, List.foldl_cons, he]
    rfl

/-- Atomics one after another are the run of R242. -/
theorem elemRun_amos {n : Nat} (hn : 0 < n) (op : AmoOp) (at_ : Nat → Loc) (x : Nat → Word) (es : List Nat) (m : Loc → Byte) :
    elemRun (es.map fun e => { e := e, loc := at_ e, n := n, op := .amo op (x e) }) m =
      amoRun op n at_ (fun e => (x e).toNat % 2 ^ (8 * n)) es m := by
  induction es generalizing m with
  | nil => rfl
  | cons e es ih =>
    have hnew (old : Nat) : OrdOp.next (.amo op (x e)) n old = some (amoValue op n old ((x e).toNat % 2 ^ (8 * n))) :=
      congrArg some (AmoOp.apply_eq_amoValue hn op old _)
    simp only [List.map_cons, elemRun, amoRun, OrdElem.old, OrdElem.over, OrdOp.reads, if_true, hnew, writtenOver, ih]

/-! ### Elements that meet nothing in their way -/

/-- The element is performed: no home refuses it, and it meets no poison. -/
structure State.Performs (s : State) (x : OrdElem) : Prop where
  short : x.n < 128
  refused : s.writeRefused x.loc x.n = false
  poison : s.elemPoison x = false
  home : x.op.reads = true → x.loc.kind ≠ .io
  bytes : ∀ bs, x.op = .store bs → bs.length = x.n

/-- `u` is a state that performed elements lead to from `s`, with memory `m`: of the gang `k`, only what its recovery point
notes has changed, of the device only memory and what reads and short writes change with it; nothing new is refused, and
what could be read still can. -/
structure State.RunsTo (s u : State) (k : Nat) (m : Loc → Byte) : Prop where
  gangs : ∃ F : Gang → Gang, (∀ g, (F g).sansLog = g.sansLog) ∧
    ∀ v, u.gang? v = if v = k then (s.gang? v).map F else s.gang? v
  device : State.sansBytes { u with gangs := [] } = State.sansBytes { s with gangs := [] }
  memory : ∀ l, u.byteAt l = m l
  memWf : u.memWf
  refused : ∀ l n, u.writeRefused l n = s.writeRefused l n
  reads : ∀ l n, s.readPoison l n = false → u.readPoison l n = false

/-- A gang whose recovery point notes an element performed. -/
def Gang.noted (r : Fin 4) (num v : Nat) (g : Gang) : Gang := { g with recov := g.recov.map fun x => x.note r num v }
theorem State.noteDone_eq (s : State) (y : HartId) (num v : Nat) :
    s.noteDone y num v = s.modGang y.gang (Gang.noted y.rank num v) := rfl
/-- What a recovery point notes is all that a note changes (R45). -/
theorem Gang.sansLog_noted (r : Fin 4) (num v : Nat) (g : Gang) : (g.noted r num v).sansLog = g.sansLog := by
  have hrecov : ((g.recov.map fun x => x.note r num v).map fun x => ({ x with log := [] } : RecPoint)) =
      g.recov.map fun x => { x with log := [] } := by
    rw [Option.map_map]
    refine congrArg (fun f => g.recov.map f) (funext fun x => ?_)
    simp only [Function.comp, RecPoint.note]
    split <;> rfl
  exact congrArg (fun x => { g with recov := x }) hrecov
/-- A short write that is performed leaves what reads find poisoned as it was (R401). -/
theorem State.readPoison_writeHome {u : State} {l : Loc} {bs : List Byte} (hr : u.writeRefused l bs.length = false)
    (hn : bs.length < 128) (p : Fin 3) (job : Nat) (x : Loc) (y : Nat) :
    (u.writeHome p job l bs).readPoison x y = u.readPoison x y := by
  obtain ⟨xk, xa⟩ := x
  unfold State.writeHome
  rw [if_neg (by rw [hr]; decide)]
  split
  · simp only [lineClear_short _ _ hn]; rfl
  · simp only [lineClear_short _ _ hn]; rfl
  · simp only [lineClear_short _ _ hn]; rfl
  · simp only [lineClear_short _ _ hn]; rfl
  · rfl

theorem State.RunsTo.of_alike {s u : State} (h : s.Alike u) (hw : s.memWf) (k : Nat) : s.RunsTo u k s.byteAt where
  gangs := ⟨id, fun _ => rfl, fun v => by rw [h.gang?]; split <;> simp⟩
  device := congrArg State.sansBytes h.sansGangs
  memory := h.byteAt
  memWf := h.memWf hw
  refused := h.writeRefused
  reads l n hp := (h.readPoison l n).trans hp

section
variable {s u : State} {k : Nat} {m : Loc → Byte} (h : s.RunsTo u k m)
include h

theorem State.RunsTo.cur : u.cur = s.cur := by
  have e := congrArg State.cur h.device; exact e
/-- A run of elements leaves every hart as it was. -/
theorem State.RunsTo.hart (y : HartId) : u.hart y = s.hart y := by
  obtain ⟨F, hF, hg⟩ := h.gangs
  have hharts (g : Gang) : (F g).harts = g.harts := by have e := congrArg Gang.harts (hF g); exact e
  unfold State.hart State.gang
  rw [hg]
  split
  · cases s.gang? y.gang with
    | none => rfl
    | some g => exact congrArg (fun v => v[y.rank]) (hharts g)
  · rfl
theorem State.RunsTo.me : u.me = s.me := (congrArg u.hart h.cur).trans (h.hart s.cur)
theorem State.RunsTo.poisonOf (x : PageKind) : u.poisonOf x = s.poisonOf x :=
  State.poisonOf_of_sansBytes (s := { u with gangs := [] }) (t := { s with gangs := [] }) h.device x
theorem State.RunsTo.elemPoison {x : OrdElem} (hx : s.elemPoison x = false) : u.elemPoison x = false := by
  unfold State.elemPoison at hx ⊢
  split at hx
  · next hr => rw [if_pos hr]; exact h.reads _ _ hx
  · next hr => rw [if_neg hr, h.poisonOf]; exact hx

/-- For the gang of the hart that runs, a run of elements is a change so far. -/
theorem State.RunsTo.moved (hl : s.live) (hk : k = s.cur.gang) :
    Moved Hart.sansCache hideNone Gang.sansLog State.sansBytes s u m := by
  obtain ⟨F, hF, hg⟩ := h.gangs
  have hlive : u.gang? u.cur.gang = some (F s.myGang) := by
    rw [h.cur, hg, if_pos hk.symm, State.gang_of_live hl]; rfl
  have hmy : u.myGang = F s.myGang := by unfold State.myGang State.gang; rw [hlive]; rfl
  have hat : u.atS = s.atS := by unfold State.atS; rw [h.me]
  have hharts : u.myGang.harts = s.myGang.harts := by
    rw [hmy]; have e := congrArg Gang.harts (hF s.myGang); exact e
  exact {
    same := ⟨⟨_, hlive⟩, h.cur, hat, by unfold State.pcv; rw [hat, h.me], fun r => by unfold State.rg; rw [hat, h.me],
      by rw [h.me]⟩
    frame :=
      { me := by rw [h.me]
        mates := fun r _ => by rw [hharts]
        gang := by
          rw [hmy]
          exact congrArg (fun g : Gang => { g with harts := Vector.replicate 4 Hart.init }) (hF s.myGang)
        others := fun v hv => by rw [hg, if_neg fun e => hv (e.trans hk)]
        device := h.device }
    memory := h.memory }

/-- A change outside the gangs that reads make. -/
theorem State.RunsTo.afterRead (l : Loc) (n : Nat) : s.RunsTo (u.afterRead l n) k m where
  gangs := by
    obtain ⟨F, hF, hg⟩ := h.gangs
    exact ⟨F, hF, fun v => (State.gang?_gangs (State.afterRead_gangs u l n) v).trans (hg v)⟩
  device := (congrArg (fun y : State => { y with gangs := [] })
    (State.sansBytes_of_sansReads (State.afterRead_sans u l n))).trans h.device
  memory x := (State.afterRead_byteAt u l n x).trans (h.memory x)
  memWf := State.memWf_afterRead h.memWf l n
  refused x y := (State.writeRefused_afterRead u l x n y).trans (h.refused x y)
  reads x y hp := State.readPoison_afterRead (h.reads x y hp) l n

/-- A short write that its home does not refuse. -/
theorem State.RunsTo.writeHome {l : Loc} {bs : List Byte} (hr : s.writeRefused l bs.length = false) (hn : bs.length < 128)
    (p : Fin 3) (job : Nat) : s.RunsTo (u.writeHome p job l bs) k (putAt m l bs) := by
  have hr' : u.writeRefused l bs.length = false := (h.refused _ _).trans hr
  have hdev : (u.writeHome p job l bs).sansBytes = u.sansBytes := State.writeHome_sansBytes hr' hn p job
  refine ⟨?_, (congrArg (fun y : State => { y with gangs := [] }) hdev).trans h.device, fun x => ?_,
    State.memWf_writeHome h.memWf p job l bs, fun x y => (State.writeRefused_writeHome hr' p job x y).trans (h.refused x y),
    fun x y hp => ?_⟩
  · obtain ⟨F, hF, hg⟩ := h.gangs
    exact ⟨F, hF, fun v => (State.gang?_gangs (State.writeHome_gangs _ _ _ _ _) v).trans (hg v)⟩
  · rw [State.byteAt_writeHome h.memWf hr', putAt, putAt, h.memory]
  · exact (State.readPoison_writeHome hr' hn p job x y).trans (h.reads x y hp)

/-- The recovery point of the gang notes an element that was performed (R45). -/
theorem State.RunsTo.noteDone {y : HartId} (hy : y.gang = k) (num v : Nat) : s.RunsTo (u.noteDone y num v) k m := by
  obtain ⟨F, hF, hg⟩ := h.gangs
  refine ⟨⟨Gang.noted y.rank num v ∘ F, fun g => (Gang.sansLog_noted y.rank num v (F g)).trans (hF g), fun w => ?_⟩,
    h.device, h.memory, h.memWf, h.refused, h.reads⟩
  subst hy
  rw [State.noteDone_eq]
  by_cases hw : w = y.gang
  · subst hw
    rw [State.gang?_modGang u y.gang (Gang.noted y.rank num v) fun _ => rfl, hg, if_pos rfl, if_pos rfl, Option.map_map]
  · rw [State.gang?_modGang_other u y.gang w (Gang.noted y.rank num v) (fun _ => rfl) hw, hg, if_neg hw, if_neg hw]

/-- One element that meets nothing in its way returns and writes what it should. -/
theorem State.RunsTo.performElem {x : OrdElem} (hx : s.Performs x) (p : Fin 3) (job : Nat) :
    (u.performElem p job x).1 = x.old m ∧ s.RunsTo (u.performElem p job x).2 k (x.over m) := by
  obtain ⟨hn, hr, hp, hio, hbs⟩ := hx
  obtain ⟨e, l, n, op⟩ := x
  have ofReads {op : OrdOp} (hread : op.reads = true) (hk : l.kind ≠ .io) :
      (u.performElem p job { e := e, loc := l, n := n, op := op }).1 = numAt m l n ∧
        s.RunsTo (u.performElem p job { e := e, loc := l, n := n, op := op }).2 k
          (writtenOver m l n (op.next n (numAt m l n))) := by
    have hold : natOfBytes (u.readHome l n) = numAt m l n := by
      rw [State.readHome_number n hk, funext h.memory]
    rw [State.performElem_reads hread, hold]
    refine ⟨rfl, ?_⟩
    cases op.next n (numAt m l n) with
    | none => exact h.afterRead l n
    | some v =>
      exact (h.afterRead l n).writeHome (by rw [length_bytesOfNat]; exact hr) (by rw [length_bytesOfNat]; exact hn) p job
  cases op with
  | store bs =>
    have hlen : bs.length = n := hbs bs rfl
    exact ⟨rfl, h.writeHome (by rw [hlen]; exact hr) (by rw [hlen]; exact hn) p job⟩
  | amo o w => exact ofReads rfl (hio rfl)
  | cas a b => exact ofReads rfl (hio rfl)
end

/-! ### Runs of elements -/

/-- Elements of an unordered atomic that meet nothing in their way are all performed (R242). -/
theorem State.RunsTo.performNow {s u : State} {k : Nat} {m : Loc → Byte} (h : s.RunsTo u k m) (p : Fin 3) (job : Nat)
    {xs : List OrdElem} (hx : ∀ x ∈ xs, s.Performs x) :
    ∃ w, u.performNow p job xs = ((elemRun xs m).1, w, none) ∧ s.RunsTo w k (elemRun xs m).2 := by
  induction xs generalizing u m with
  | nil => exact ⟨u, rfl, h⟩
  | cons x xs ih =>
    have hp := hx x List.mem_cons_self
    obtain ⟨hold, hnext⟩ := h.performElem hp p job
    obtain ⟨w, hw, hsw⟩ := ih hnext fun y hy => hx y (List.mem_cons_of_mem x hy)
    refine ⟨w, ?_, hsw⟩
    simp only [State.performNow, h.elemPoison hp.poison, Bool.false_eq_true, if_false, hold, hw, elemRun]

section
variable {s : State} (hredo : s.me.redo = [])
include hredo

/-- One ordered element of the hart that runs, performed as it issues. -/
theorem State.RunsTo.performOwn_cons {u : State} {m : Loc → Byte} (h : s.RunsTo u s.cur.gang m) (p : Fin 3) (job : Nat)
    {x : OrdElem} (hx : s.Performs x) (xs : List OrdElem) :
    ∃ v, s.RunsTo v s.cur.gang (x.over m) ∧ u.performOwn p job (x :: xs) =
      ((x.e, x.old m) :: (v.performOwn p job xs).1, (v.performOwn p job xs).2) := by
  obtain ⟨hold, hnext⟩ := h.performElem hx p job
  have hr : (u.hart u.cur).redo = [] := by rw [h.cur, h.hart]; exact hredo
  refine ⟨_, hnext.noteDone (congrArg HartId.gang h.cur) u.nextEntry (x.old m), ?_⟩
  simp only [State.performOwn, State.once_new hr, h.elemPoison hx.poison, hold, Bool.false_eq_true, and_false, if_false]
/-- Ordered elements that meet nothing in their way are performed, up to the first that does. -/
theorem State.RunsTo.performOwn_append {u : State} {m : Loc → Byte} (h : s.RunsTo u s.cur.gang m) (p : Fin 3) (job : Nat)
    {xs : List OrdElem} (hx : ∀ x ∈ xs, s.Performs x) (ys : List OrdElem) :
    ∃ w, s.RunsTo w s.cur.gang (elemRun xs m).2 ∧ u.performOwn p job (xs ++ ys) =
      ((elemRun xs m).1 ++ (w.performOwn p job ys).1, (w.performOwn p job ys).2) := by
  induction xs generalizing u m with
  | nil => exact ⟨u, h, rfl⟩
  | cons x xs ih =>
    obtain ⟨v, hv, he⟩ := h.performOwn_cons hredo p job (hx x List.mem_cons_self) (xs ++ ys)
    obtain ⟨w, hw, hrest⟩ := ih hv fun y hy => hx y (List.mem_cons_of_mem x hy)
    refine ⟨w, hw, ?_⟩
    rw [List.cons_append, he, hrest]
    rfl
/-- Ordered elements that meet nothing in their way are all performed as they issue (R233). -/
theorem State.RunsTo.performOwn {u : State} {m : Loc → Byte} (h : s.RunsTo u s.cur.gang m) (p : Fin 3) (job : Nat)
    {xs : List OrdElem} (hx : ∀ x ∈ xs, s.Performs x) :
    ∃ w, u.performOwn p job xs = ((elemRun xs m).1, w, none) ∧ s.RunsTo w s.cur.gang (elemRun xs m).2 := by
  obtain ⟨w, hw, he⟩ := h.performOwn_append hredo p job hx []
  rw [List.append_nil] at he
  exact ⟨w, by rw [he, State.performOwn, List.append_nil], hw⟩
end

/-- The elements of a vector entry that meet nothing in their way are all performed late (R38, R234). -/
theorem State.RunsTo.performOrdered {s u : State} {y : HartId} {m : Loc → Byte} (h : s.RunsTo u y.gang m)
    (hredo : (s.hart y).redo = []) (num : Nat) (p : Fin 3) (job : Nat) {xs : List OrdElem} (hx : ∀ x ∈ xs, s.Performs x) :
    ∃ w, u.performOrdered y num true p job xs = ((elemRun xs m).1, w) ∧ s.RunsTo w y.gang (elemRun xs m).2 := by
  induction xs generalizing u m with
  | nil => exact ⟨u, rfl, h⟩
  | cons x xs ih =>
    have hp := hx x List.mem_cons_self
    obtain ⟨hold, hnext⟩ := h.performElem hp p job
    have hr : (u.hart y).redo = [] := by rw [h.hart, hredo]
    obtain ⟨w, hw, hsw⟩ := ih (hnext.noteDone rfl num (x.old m)) fun z hz => hx z (List.mem_cons_of_mem x hz)
    refine ⟨w, ?_, hsw⟩
    simp only [State.performOrdered, State.once_new hr, State.performLate, h.elemPoison hp.poison, hold, hw, elemRun,
      Bool.true_or, if_true, Bool.false_eq_true, if_false]

end Sys2Proof.Machine
end


section
/-!
SUPPORT. Ordered vector operations (R40, R233): the places of their elements, their commit-buffer entries, and the two ways
they go on, for O40 and O41.
-/

namespace Sys2Proof.Machine

/-! ### The places of a generic access -/

/-- The elements of a generic access lie at generic places. -/
theorem State.vPlace_generic {s : State} {f : VAcc} {e : Nat} {y : VPlace} (hsp : f.sp = false) (h : s.vPlace f e = .ok y) :
    ∃ l q, y = .gen l q ∧ (s.token f.x.tk).elemCheck f.x.tk f.wr (f.addr e).toNat f.n = .ok (l, q) := by
  unfold State.vPlace at h
  simp only [hsp, Bool.false_eq_true, if_false] at h
  split at h
  · cases h
  · next l q hc => cases h; exact ⟨l, q, rfl, hc⟩

/-- The elements found before one that offends: their numbers, places and translations. -/
structure PlacesOf (at_ : Nat → VPlace) (es : List Nat) (ps : List (Nat × Loc × Pin)) : Prop where
  locs : ps.map (fun q => (q.1, q.2.1)) = es.map fun e => (e, (at_ e).loc)
  pins : ps.map (fun q => q.2.2) = (es.map fun e => (at_ e).pins).flatten

/-- Operations made of the elements found are those of their places. -/
theorem PlacesOf.elems {at_ : Nat → VPlace} {es : List Nat} {ps : List (Nat × Loc × Pin)} (h : PlacesOf at_ es ps) (n : Nat)
    (o : Nat → OrdOp) :
    (ps.map fun q => ({ e := q.1, loc := q.2.1, n := n, op := o q.1 } : OrdElem)) =
      es.map fun e => { e := e, loc := (at_ e).loc, n := n, op := o e } := by
  have hm := congrArg (List.map fun q : Nat × Loc => ({ e := q.1, loc := q.2, n := n, op := o q.1 } : OrdElem)) h.locs
  rw [List.map_map, List.map_map] at hm
  exact hm

/-- Elements that have generic places are found, and then those after them. -/
theorem State.prefixOf_append {s : State} {f : VAcc} (hsp : f.sp = false) {at_ : Nat → VPlace} {es : List Nat}
    (hp : ∀ e ∈ es, s.vPlace f e = .ok (at_ e)) (rest : List Nat) :
    ∃ ps, PlacesOf at_ es ps ∧ s.prefixOf f (es ++ rest) = (ps ++ (s.prefixOf f rest).1, (s.prefixOf f rest).2) := by
  induction es with
  | nil => exact ⟨[], ⟨rfl, rfl⟩, rfl⟩
  | cons e es ih =>
    obtain ⟨ps, ⟨hlocs, hpins⟩, hrest⟩ := ih fun k hk => hp k (List.mem_cons_of_mem e hk)
    have he := hp e List.mem_cons_self
    obtain ⟨l, q, hy, -⟩ := State.vPlace_generic hsp he
    refine ⟨(e, l, q) :: ps, ⟨?_, ?_⟩, ?_⟩
    · rw [List.map_cons, List.map_cons, hlocs, hy]; rfl
    · rw [List.map_cons, List.map_cons, List.flatten_cons, hpins, hy]; rfl
    · rw [List.cons_append, State.prefixOf, he, hy]
      simp only [hrest, List.cons_append]
theorem State.prefixOf_all {s : State} {f : VAcc} (hsp : f.sp = false) {at_ : Nat → VPlace} {es : List Nat}
    (hp : ∀ e ∈ es, s.vPlace f e = .ok (at_ e)) : ∃ ps, PlacesOf at_ es ps ∧ s.prefixOf f es = (ps, none) := by
  obtain ⟨ps, hps, he⟩ := State.prefixOf_append hsp hp []
  rw [List.append_nil] at he
  exact ⟨ps, hps, by rw [he, State.prefixOf, List.append_nil]⟩

/-! ### Commit-buffer entries (R40) -/

/-- The entry groups of ordered elements are those of their numbers. -/
theorem entryGroups_map (el : Nat → OrdElem) (hel : ∀ e, (el e).e = e) (fill : Fill) (es : List Nat) :
    entryGroups (es.map el) fill = (groupsOf es).map fun g => (g.map el, fill) := by
  unfold entryGroups groupsOf
  generalize List.range 4 = gs
  induction gs with
  | nil => rfl
  | cons g gs ih =>
    have hfilter : ((es.map el).filter fun x => x.e / 32 == g) = (es.filter fun e => e / 32 == g).map el := by
      rw [List.filter_map]
      refine congrArg (List.map el) (congrArg (fun p => es.filter p) (funext fun e => ?_))
      rw [Function.comp, hel]
    rw [List.filterMap_cons, List.map_cons, List.filter_cons, hfilter]
    cases hg : es.filter fun e => e / 32 == g with
    | nil => exact ih
    | cons a r => exact congrArg _ ih

/-- The entry that one group of ordered elements of the running hart makes, under a number. -/
def State.groupEntry (s : State) (tree vec acq empties : Bool) (place : Fin 3) (pins : List Pin) (num : Nat)
    (g : List OrdElem × Fill) : Entry :=
  { num := num, p := s.myGang.p, job := s.myGang.job, tree := s.myJob.scope tree, ticket := s.ticket s.cur, h := s.cur,
    core := s.myGang.core, place := place, elems := g.1, fill := g.2, pins := pins, vec := vec, acq := acq,
    empties := empties }
theorem State.Alike.groupEntry {s u : State} (h : s.Alike u) (tree vec acq empties : Bool) (place : Fin 3) (pins : List Pin)
    (num : Nat) (g : List OrdElem × Fill) :
    u.groupEntry tree vec acq empties place pins num g = s.groupEntry tree vec acq empties place pins num g := by
  unfold State.groupEntry
  rw [h.myGang, h.myJob, h.ticket, h.cur]
/-- Groups of ordered elements become entries under the next numbers. -/
theorem State.addEntries_eq (s : State) (tree vec acq empties : Bool) (place : Fin 3) (pins : List Pin)
    (gs : List (List OrdElem × Fill)) :
    s.addEntries tree vec acq empties place pins gs =
      { s with
        entries := s.entries ++ gs.mapIdx fun k g => s.groupEntry tree vec acq empties place pins (s.nextEntry + k) g
        nextEntry := s.nextEntry + gs.length } := by
  induction gs generalizing s with
  | nil => simp [State.addEntries]
  | cons g gs ih =>
    have hindex (k : Nat) : s.nextEntry + 1 + k = s.nextEntry + (k + 1) := by omega
    obtain ⟨xs, fl⟩ := g
    refine (ih _).trans ?_
    simp only [hindex, List.mapIdx_cons, List.append_assoc, List.singleton_append, List.length_cons, Nat.add_zero]
    rfl

/-- The groups of an ordered operation entered the commit buffer, and nothing else has changed yet. -/
structure State.Entered (s v : State) (x : MemX) (at_ : Nat → VPlace) (el : Nat → OrdElem) (fill : Fill) : Prop where
  entries : v.entries = s.entries ++ s.entriesOf x at_ el fill
  next : v.nextEntry = s.nextEntry + (groupsOf (s.todo x)).length
  me : v.me = s.me
  moved : Moved Hart.sansCache hideNone hideNone State.sansEntries s v s.byteAt

/-- An operation without elements enters nothing. -/
theorem State.entered_none {s : State} (hl : s.live) {x : MemX} (hx : s.todo x = []) (at_ : Nat → VPlace) (el : Nat → OrdElem)
    (fill : Fill) : s.Entered s x at_ el fill where
  entries := by rw [State.entriesOf, hx]; exact (List.append_nil _).symm
  next := by rw [hx]; rfl
  me := rfl
  moved := Moved.refl hl

/-- The entries of an ordered operation, made after its hart has let its stores go. -/
theorem State.Alike.addEntries {s u : State} (h : s.Alike u) (hl : s.live) {x : MemX} {at_ : Nat → VPlace}
    {el : Nat → OrdElem} (hel : ∀ e, (el e).e = e) (fill : Fill) {ps : List (Nat × Loc × Pin)}
    (hps : PlacesOf at_ (s.todo x) ps) :
    s.Entered (u.addEntries (x.t == .tt) true (acquires x.ord) (emptiesCache x) 0 (ps.map fun q => q.2.2).dedup
      (entryGroups ((s.todo x).map el) fill)) x at_ el fill := by
  rw [State.addEntries_eq, entryGroups_map el hel, hps.pins]
  have hnum : u.nextEntry = s.nextEntry := by have e := congrArg State.nextEntry h.sansGangs; exact e
  have hold : u.entries = s.entries := by have e := congrArg State.entries h.sansGangs; exact e
  refine ⟨?_, ?_, h.me, (Moved.of_alike hl h).device rfl rfl rfl h.byteAt⟩
  · show u.entries ++ _ = _
    rw [hold, hnum, State.entriesOf]
    refine congrArg (fun l => s.entries ++ l) (List.ext_getElem (by simp only [List.length_mapIdx, List.length_map])
      fun k h1 h2 => ?_)
    rw [List.getElem_mapIdx, List.getElem_mapIdx, List.getElem_map, h.groupEntry]
    rfl
  · show u.nextEntry + _ = _
    rw [hnum, List.length_map]

/-! ### The two ways on (R37, R233) -/

section
variable {s : State} {f : VAcc} {xs : List OrdElem} {pins : List Pin} {fill : Fill}
  {now : List (Nat × Nat) → State → Option Nat → Res} {later : State → List Nat → Res} (hst : s.me.stores = [])
include hst

/-- A hart that holds the right, with nothing of it waiting, performs its ordered elements at once. -/
theorem State.ordered_direct (hd : s.direct (f.x.t == .tt) = true) :
    ∃ v, s.Alike v ∧ s.ordered f xs pins fill now later =
      now (v.performOwn s.myGang.p s.myGang.job xs).1 (v.performOwn s.myGang.p s.myGang.job xs).2.1
        (v.performOwn s.myGang.p s.myGang.job xs).2.2 := by
  have hv := State.Alike.of_release_if hst (releases f.x.ord)
  generalize hz : (if releases f.x.ord = true then s.release else s) = v at hv
  obtain ⟨hflush, hdir⟩ := hv.direct hd
  have hflush' := hflush v.entries.length
  rw [hv.myGang] at hflush'
  refine ⟨v, hv, ?_⟩
  simp only [State.ordered, hz, hflush', hdir, if_true]

/-- A hart without the right puts its ordered elements into the commit buffer. -/
theorem State.ordered_buffers (hl : s.live) (hb : Buffers s f.x) {at_ : Nat → VPlace} {el : Nat → OrdElem}
    (hel : ∀ e, (el e).e = e) {ps : List (Nat × Loc × Pin)} (hps : PlacesOf at_ (s.todo f.x) ps)
    (hxs : xs = (s.todo f.x).map el) (hpins : pins = ps.map fun q => q.2.2) :
    ∃ v, s.Entered v f.x at_ el fill ∧ s.ordered f xs pins fill now later =
      later v ((List.range (groupsOf (s.todo f.x)).length).map fun i => s.nextEntry + i) := by
  have hv := State.Alike.of_release_if hst (releases f.x.ord)
  generalize hz : (if releases f.x.ord = true then s.release else s) = v at hv
  have hright : ∀ b, v.hasRight v.myJob (v.ticket v.cur) b = false := fun b => by
    rw [hv.hasRight, hv.myJob, hv.ticket]; exact hb.right b
  obtain ⟨hflush, hdir⟩ := State.noRight_waits hright v.entries.length (f.x.t == .tt)
  rw [hv.myGang] at hflush
  have hnum : v.nextEntry = s.nextEntry := by have e := congrArg State.nextEntry hv.sansGangs; exact e
  have hlen : (entryGroups xs fill).length = (groupsOf (s.todo f.x)).length := by
    rw [hxs, entryGroups_map el hel, List.length_map]
  have hroom : v.buffer (f.x.t == .tt) true (acquires f.x.ord) (emptiesCache f.x) pins.dedup (entryGroups xs fill) =
      some (v.addEntries (f.x.t == .tt) true (acquires f.x.ord) (emptiesCache f.x) 0 pins.dedup (entryGroups xs fill)) := by
    refine if_pos ?_
    rw [hv.commitUsed, hv.myGang, hlen]
    exact hb.room
  subst hxs hpins
  refine ⟨_, hv.addEntries hl hel fill hps, ?_⟩
  simp only [State.ordered, hz, hflush, hdir, hroom, hnum, hlen, Bool.false_eq_true, if_false]
end

/-! ### The end of a step -/

/-- An acquire of the V agent shows in the cache alone. -/
theorem Moved.acquireV {eg : Gang → Gang} {es : State → State} {s u : State} {mem : Loc → Byte} {eo : Hart → Hart}
    (h : Moved Hart.sansCache eo eg es s u mem) (x : MemX) : Moved Hart.sansCache eo eg es s (u.acquireV x) mem := by
  unfold State.acquireV
  split
  · exact h.acquire
  · exact h

/-- An acquire at hart scope empties no cache (R134). -/
theorem State.acquireV_none (s : State) (x : MemX) : ∃ y, s.acquireV y = s :=
  ⟨{ x with scope := .hart }, if_neg (by simp [emptiesCache])⟩

/-- Retirement, after an acquire of the V agent, leaves what is not in the gangs. -/
theorem State.acquireV_retired_device (u : State) (x : MemX) :
    ({ (u.acquireV x).retired with gangs := [] } : State) = { u with gangs := [] } := by
  have hret (v : State) : ({ v.retired with gangs := [] } : State) = { v with gangs := [] } := by
    unfold State.retired State.goto
    split <;> rfl
  rw [hret]
  unfold State.acquireV
  split <;> rfl

/-- An ordered operation that entered its groups and retires has done nothing else. -/
theorem State.Entered.retires {s v : State} {x : MemX} {at_ : Nat → VPlace} {el : Nat → OrdElem} {fill : Fill}
    (h : s.Entered v x at_ el fill) (y : MemX) :
    VecBuffered s (v.acquireV y).retired x at_ el fill ∧
      StepBut Hart.sansCache hideNone hideNone State.sansEntries s (v.acquireV y).retired s.byteAt := by
  have hdev := State.acquireV_retired_device v y
  refine ⟨⟨?_, ?_⟩, (h.moved.acquireV y).retire⟩
  · have e := congrArg State.entries hdev
    exact e.trans h.entries
  · have e := congrArg State.nextEntry hdev
    exact e.trans h.next

end Sys2Proof.Machine
end


section
/-!
SUPPORT. Vector stores that are performed as they issue (R231, R233, Table 10-1), and those that an element stops (Table 5-5,
R234), for O40.
-/

namespace Sys2Proof.Machine

/-! ### A vector memory instruction that goes on with its elements -/

/-- A vector memory instruction that meets no condition at issue goes on with its elements. -/
theorem State.vmem_runs {s : State} {f : VAcc} {tags : Option TrapInfo} {rf : PageKind → Option Cause} (hs : s.atS = false)
    (hv : s.me.vl ≠ 0) (ht : tags = none) (hk : s.ticketCheck f.x.t = none) (hi : s.vIssue f rf (s.todo f.x) = none)
    (hw : s.vStall f (s.todo f.x) = none)
    (ho : f.x.t = .no → s.waitsOwn true (releases f.x.ord) (s.vLocs f (s.todo f.x)) = false) (k : List Nat → Res) :
    s.vmem f tags rf k = k (s.todo f.x) := by
  have ho' : ¬ (f.x.t = .no ∧ s.waitsOwn true (releases f.x.ord) (s.vLocs f (s.todo f.x)) = true) := fun hc =>
    Bool.false_ne_true ((ho hc.1).symm.trans hc.2)
  simp only [State.vmem, State.userOnly_eq hs, ht, hk, hi, hw, if_neg hv, if_neg ho']

/-- The vector stores share one meaning, with elements of at most 16 bytes. -/
theorem VStoreOp.exec_eq {s : State} {i : Instr} {f : VAcc} {data : Nat → Nat} {srcs : List VsOp} {offs : Option VrOp}
    {rf : PageKind → Option Cause} (h : VStoreOp s i f data srcs offs rf) :
    exec i s = s.vstore f data srcs offs rf ∧ f.n < 128 ∧ f.op < 128 := by
  have hn (x : MemX) : Sz.bytes x.sz < 128 := by cases x.sz <;> decide
  cases h with
  | vst x d a b => exact ⟨exec_vst x d a b s, hn x, Nat.lt_of_sub_eq_succ rfl⟩
  | vstx x d a b => exact ⟨exec_vstx x d a b s, hn x, Nat.lt_of_sub_eq_succ rfl⟩
  | vsts x d a b => exact ⟨exec_vsts x d a b s, hn x, Nat.lt_of_sub_eq_succ rfl⟩
  | vstsx x d a b => exact ⟨exec_vstsx x d a b s, hn x, Nat.lt_of_sub_eq_succ rfl⟩
  | vsts2 x d a b c => exact ⟨exec_vsts2 x d a b c s, Nat.lt_of_sub_eq_succ rfl, Nat.lt_of_sub_eq_succ rfl⟩

/-! ### The elements that a store has written -/

/-- No element of `es` writes all four bytes of word w of the scratchpad. -/
def SpKept (g : Gang) (n : Nat) (at_ : Nat → VPlace) (es : List Nat) (w : Nat) : Prop :=
  ∀ e ∈ es, ∀ k, at_ e = .sp k → ¬ (g.spMap k ≤ 4 * w ∧ 4 * w + 4 ≤ g.spMap k + n)
/-- The store from `s` has written the elements of `es` when it comes to `u`; of its gang, `eg` hides what changed. -/
structure VecStored (eg : Gang → Gang) (s u : State) (n : Nat) (at_ : Nat → VPlace) (data : Nat → Nat) (es : List Nat) :
    Prop where
  moved : Moved Hart.sansCache hideNone eg State.sansBytes s u (storedBytes s.byteAt n at_ data es)
  spByte : ∀ x, u.spByte x = storedSp s.myGang n at_ data es x
  spPoison : ∀ w, w ∈ u.myGang.spPoison ↔ w ∈ s.myGang.spPoison ∧ SpKept s.myGang n at_ es w

section
variable {eg : Gang → Gang} {s u : State} {n : Nat} {at_ : Nat → VPlace} {data : Nat → Nat} {es : List Nat}

/-- An acquire and retirement leave the scratchpad. -/
theorem State.acquireV_retired_sp (hl : u.live) (x : MemX) :
    (u.acquireV x).retired.myGang.sp = u.myGang.sp ∧ (u.acquireV x).retired.myGang.spPoison = u.myGang.spPoison :=
  ((Moved.refl (eh := Hart.sansCache) (eo := hideNone) (eg := hideNone) (es := hideNone) hl).acquireV x).retire.sp_eq

/-- A store that has written its elements and retires. -/
theorem VecStored.retires (h : VecStored eg s u n at_ data es) (x : MemX) {t : State} (ht : (u.acquireV x).retired = t) :
    StepBut Hart.sansCache hideNone eg State.sansMem s t (storedBytes s.byteAt n at_ data es) ∧
      (∀ a, t.spByte a = storedSp s.myGang n at_ data es a) ∧ (∀ k, t.poisonOf k = s.poisonOf k) ∧
      ∀ w, w ∈ t.myGang.spPoison ↔ w ∈ s.myGang.spPoison ∧ SpKept s.myGang n at_ es w := by
  obtain ⟨hsp, hpoison⟩ := State.acquireV_retired_sp h.moved.same.live x
  have hmoved := (h.moved.weaken (fun _ _ e => e) (fun _ _ e => e) (fun _ _ e => e)
    fun _ _ e => State.sansMem_of_sansBytes e).acquireV x
  have hstep := (h.moved.acquireV x).retire
  have hstep' := hmoved.retire
  rw [ht] at hsp hpoison hstep hstep'
  refine ⟨hstep', fun a => ?_, fun k => ?_, fun w => by rw [hpoison]; exact h.spPoison w⟩
  · rw [State.spByte, hsp]; exact h.spByte a
  · exact State.poisonOf_of_sansBytes (s := { t with gangs := [] }) (t := { s with gangs := [] }) hstep.frame.device k

/-- A store that an element stops traps at its address, with the elements before it written. -/
theorem VecStored.traps (h : VecStored eg s u n at_ data es) (x : MemX) (hs : s.atS = false) (hv : s.me.sup.svec ≠ 0)
    (hst : s.me.stores = []) {op : Nat} (hop : op < 128) {y : TrapInfo} {a : Word} (hy : y.At a) (hei : y.ei < 128) :
    ∃ t, (u.acquireV x).raise op y = .next t ∧ t.me.st = .trapped ∧ t.me.sup.scause.toNat = y.c.code ∧
      t.me.sup.sei.toNat = y.ei ∧ t.me.sup.seaddr = a ∧ t.me.sup.sepc = s.me.pc ∧
      (∀ l, t.byteAt l = storedBytes s.byteAt n at_ data es l) ∧ ∀ b, t.spByte b = storedSp s.myGang n at_ data es b := by
  have hm := h.moved.acquireV x
  have hsp : (u.acquireV x).myGang.sp = u.myGang.sp := by
    have hf := ((Moved.refl (eh := Hart.sansCache) (eo := hideNone) (eg := hideNone) (es := hideNone)
      h.moved.same.live).acquireV x).frame.gang
    have e := congrArg Gang.sp hf; exact e
  generalize u.acquireV x = v at hm hsp
  have hvs : v.atS = false := hm.same.atS.trans hs
  have hpc : v.me.pc = s.me.pc := by rw [← State.pcv_user hvs, ← State.pcv_user hs, hm.same.pcv]
  have hme := hm.frame.me
  rw [hs] at hme
  have hsup : v.me.sup.svec = s.me.sup.svec := by have e := congrArg (fun y : Hart => y.sup.svec) hme; exact e
  have hstores : v.me.stores = s.me.stores := by have e := congrArg Hart.stores hme; exact e
  obtain ⟨t, ht, hentry⟩ := State.raise_user hm.same.live hvs (hsup ▸ hv) op y hop hy.detail hy.src hei
  obtain ⟨hmem, hframe⟩ := hentry.rest (hstores.trans hst)
  have htsp : t.myGang.sp = v.myGang.sp := by have e := congrArg Gang.sp hframe.gang; exact e
  refine ⟨t, ht, hentry.trapped.1, hentry.scause, hentry.sei, hentry.seaddr.trans hy.addr, hentry.sepc.trans hpc,
    fun l => (hmem l).trans (hm.memory l), fun b => ?_⟩
  rw [State.spByte, htsp, hsp]
  exact h.spByte b
end

/-! ### Stores without a ticket -/

section
variable (m : Loc → Byte) (g : Gang) (n : Nat) (at_ : Nat → VPlace) (data : Nat → Nat) (es : List Nat) (e w : Nat)

theorem storedBytes_concat : storedBytes m n at_ data (es ++ [e]) = match at_ e with
    | .gen l _ => putAt (storedBytes m n at_ data es) l (bytesOfNat n (data e))
    | .sp _ => storedBytes m n at_ data es := by
  rw [storedBytes, List.foldl_append]; rfl
theorem storedSp_concat : storedSp g n at_ data (es ++ [e]) = match at_ e with
    | .gen _ _ => storedSp g n at_ data es
    | .sp k => spPut (storedSp g n at_ data es) (g.spMap k) (bytesOfNat n (data e)) := by
  rw [storedSp, List.foldl_append]; rfl
theorem SpKept.concat : SpKept g n at_ (es ++ [e]) w ↔ SpKept g n at_ es w ∧
    ∀ k, at_ e = .sp k → ¬ (g.spMap k ≤ 4 * w ∧ 4 * w + 4 ≤ g.spMap k + n) := by
  simp only [SpKept, List.mem_append, List.mem_singleton, or_imp, forall_and, forall_eq]
end

/-- What a store without a ticket has done before its next element, and what the next one needs. -/
structure StoringTo (s u : State) (n : Nat) (at_ : Nat → VPlace) (data : Nat → Nat) (es : List Nat) : Prop where
  stored : VecStored Gang.sansSp s u n at_ data es
  memWf : u.memWf
  spWf : Mem.wf u.myGang.sp = true
  refused : ∀ l m, u.writeRefused l m = s.writeRefused l m

section
variable {s u : State} {n : Nat} {at_ : Nat → VPlace} {data : Nat → Nat} {es : List Nat}

theorem StoringTo.start (hl : s.live) (h : s.Alike u) (hw : s.memWf) (hsp : Mem.wf s.myGang.sp = true) :
    StoringTo s u n at_ data [] where
  stored := ⟨Moved.of_alike hl h, fun x => by rw [State.spByte, h.myGang]; rfl, fun w => by
    rw [h.myGang]; exact ⟨fun hm => ⟨hm, fun _ he => nomatch he⟩, fun hm => hm.1⟩⟩
  memWf := h.memWf hw
  spWf := by rw [h.myGang]; exact hsp
  refused := h.writeRefused

theorem StoringTo.vPlace (h : StoringTo s u n at_ data es) (f : VAcc) (e : Nat) : u.vPlace f e = s.vPlace f e := by
  have hgang := h.stored.moved.frame.gang
  have hme := h.stored.moved.frame.me
  have hcheck (x : Use) (a : Word) (m : Nat) : u.myGang.spCheck x a m = s.myGang.spCheck x a m := by
    have e := congrArg (fun g : Gang => g.spCheck x a m) hgang; exact e
  have htk : u.me.tk = s.me.tk := by
    have e := congrArg Hart.tk hme
    cases hs : s.atS <;> rw [hs] at e <;> exact e
  have hstk : u.me.sup.tk = s.me.sup.tk := by
    have e := congrArg (fun y : Hart => y.sup.tk) hme
    cases hs : s.atS <;> rw [hs] at e <;> exact e
  unfold State.vPlace State.token
  rw [h.stored.moved.same.atS, htk, hstk]
  simp only [hcheck]

/-- One more element is written to memory. -/
theorem StoringTo.vWrite_gen (h : StoringTo s u n at_ data es) (hn : n < 128) {e : Nat} {l : Loc} {q : Pin}
    (he : at_ e = .gen l q) (hw : s.writeRefused l n = false) :
    StoringTo s (u.vWrite n (data e) (.gen l q)) n at_ data (es ++ [e]) := by
  obtain ⟨⟨hmoved, hbyte, hpoison⟩, hmem, hspw, href⟩ := h
  have hlen : (bytesOfNat n (data e)).length = n := length_bytesOfNat _ _
  have hr : u.writeRefused l (bytesOfNat n (data e)).length = false := by rw [hlen, href, hw]
  have hmy : (u.writeHome u.myGang.p u.myGang.job l (bytesOfNat n (data e))).myGang = u.myGang := by
    unfold State.myGang State.gang
    rw [State.gang?_gangs (State.writeHome_gangs _ _ _ _ _), State.writeHome_cur]
  have hkept (w : Nat) : SpKept s.myGang n at_ (es ++ [e]) w ↔ SpKept s.myGang n at_ es w := by
    rw [SpKept.concat, he]
    exact and_iff_left fun _ hk => nomatch hk
  refine ⟨⟨?_, fun x => ?_, fun w => ?_⟩, State.memWf_writeHome hmem _ _ _ _, ?_, fun k m => ?_⟩
  · rw [storedBytes_concat, he]
    exact hmoved.writeHome hmem hr (by rw [hlen]; exact hn) u.myGang.p u.myGang.job
  · rw [storedSp_concat, he]
    exact (congrArg (fun g : Gang => Mem.get g.sp x) hmy).trans (hbyte x)
  · rw [hkept, ← hpoison w]
    exact iff_of_eq (congrArg (fun g : Gang => w ∈ g.spPoison) hmy)
  · exact (congrArg (fun g : Gang => Mem.wf g.sp) hmy).trans hspw
  · exact (State.writeRefused_writeHome hr _ _ k m).trans (href k m)

/-- One more element is written to the scratchpad. -/
theorem StoringTo.vWrite_sp (h : StoringTo s u n at_ data es) {e : Nat} {k : SpPlace} (he : at_ e = .sp k) :
    StoringTo s (u.vWrite n (data e) (.sp k)) n at_ data (es ++ [e]) := by
  obtain ⟨⟨hmoved, hbyte, hpoison⟩, hmem, hspw, href⟩ := h
  have hlen : (bytesOfNat n (data e)).length = n := length_bytesOfNat _ _
  have hmap : u.myGang.spMap k = s.myGang.spMap k := by
    have e := congrArg (fun g : Gang => g.spMap k) hmoved.frame.gang; exact e
  have hmy := State.myGang_spWrite hmoved.same.live (u.myGang.spMap k) (bytesOfNat n (data e))
  refine ⟨⟨?_, fun x => ?_, fun w => ?_⟩, hmem, ?_, href⟩
  · rw [storedBytes_concat, he]
    exact hmoved.spWrite (u.myGang.spMap k) (bytesOfNat n (data e))
  · rw [storedSp_concat, he]
    refine (congrArg (fun g : Gang => Mem.get g.sp x) hmy).trans ?_
    show Mem.get (Mem.write u.myGang.sp _ _) x = spPut _ _ _ x
    rw [Mem.get_write hspw, spPut, hmap, ← hbyte x]
    rfl
  · refine (iff_of_eq (congrArg (fun g : Gang => w ∈ g.spPoison) hmy)).trans ?_
    show w ∈ spClear _ _ _ ↔ _
    rw [SpKept.concat, he, mem_spClear, hlen, hmap, hpoison w, and_assoc]
    simp only [VPlace.sp.injEq, forall_eq']
  · exact (congrArg (fun g : Gang => Mem.wf g.sp) hmy).trans (Mem.wf_write _ _ _ hspw)

/-- One more element is written. -/
theorem StoringTo.vWrite (h : StoringTo s u n at_ data es) (hn : n < 128) {e : Nat} (hw : (at_ e).writable s n) :
    StoringTo s (u.vWrite n (data e) (at_ e)) n at_ data (es ++ [e]) := by
  cases he : at_ e with
  | gen l q => exact h.vWrite_gen hn he (by rw [he] at hw; exact hw)
  | sp k => exact h.vWrite_sp he

/-- Elements that can be written are written, and then those after them. -/
theorem StoringTo.storeAll {f : VAcc} (h : StoringTo s u f.n at_ data es) (hn : f.n < 128) {ks : List Nat}
    (hk : ∀ k ∈ ks, s.vPlace f k = .ok (at_ k) ∧ (at_ k).writable s f.n) (rest : List Nat) :
    ∃ w, StoringTo s w f.n at_ data (es ++ ks) ∧ u.storeAll f data (ks ++ rest) = w.storeAll f data rest := by
  induction ks generalizing u es with
  | nil => exact ⟨u, by rw [List.append_nil]; exact h, rfl⟩
  | cons k ks ih =>
    obtain ⟨hp, hw⟩ := hk k List.mem_cons_self
    obtain ⟨w, hsw, he⟩ := ih (h.vWrite hn hw) fun j hj => hk j (List.mem_cons_of_mem k hj)
    refine ⟨w, by rw [List.append_assoc] at hsw; exact hsw, ?_⟩
    rw [List.cons_append, State.storeAll, h.vPlace, hp]
    exact he
end

end Sys2Proof.Machine
end


section
/-!
SUPPORT. Ordered vector stores that are performed as they issue, or wait in the commit buffer (R233, R234), for O40.
-/

namespace Sys2Proof.Machine

/-! ### The elements of an ordered store -/

/-- The element that a store performs at e. -/
def storeElem (f : VAcc) (at_ : Nat → VPlace) (data : Nat → Nat) (e : Nat) : OrdElem :=
  { e := e, loc := (at_ e).loc, n := f.n, op := .store (bytesOfNat f.n (data e)) }

section
variable {s : State} {f : VAcc} {at_ : Nat → VPlace} {data : Nat → Nat} {es : List Nat}

theorem storedSp_generic (g : Gang) (n : Nat) (hgen : ∀ e ∈ es, ∃ l q, at_ e = .gen l q) :
    storedSp g n at_ data es = fun x => Mem.get g.sp x := by
  induction es using List.reverseRecOn with
  | nil => rfl
  | append_singleton es e ih =>
    obtain ⟨l, q, he⟩ := hgen e (List.mem_append_right _ List.mem_cons_self)
    rw [storedSp_concat, he]
    exact ih fun k hk => hgen k (List.mem_append_left _ hk)

/-- An element at a generic place, where it can be written and meets no poisoned line, is performed. -/
theorem State.performs_store (hn : f.n < 128) {e : Nat} {l : Loc} {q : Pin} (he : at_ e = .gen l q)
    (hw : (at_ e).writable s f.n) (hd : ¬ (at_ e).dirty s f.n) : s.Performs (storeElem f at_ data e) := by
  have hloc : (storeElem f at_ data e).loc = l := by rw [storeElem, he]; rfl
  rw [he] at hw hd
  refine ⟨hn, by rw [hloc]; exact hw, ?_, (nomatch ·), fun bs hbs => ?_⟩
  · rw [State.elemPoison, if_neg (nomatch ·), hloc]
    exact Bool.eq_false_iff.mpr hd
  · cases hbs; exact length_bytesOfNat _ _

theorem State.performs_stores (hn : f.n < 128) (hsp : f.sp = false)
    (hp : ∀ k ∈ es, s.vPlace f k = .ok (at_ k) ∧ (at_ k).writable s f.n ∧ ¬ (at_ k).dirty s f.n) :
    ∀ y ∈ es.map (storeElem f at_ data), s.Performs y := by
  intro y hy
  obtain ⟨k, hk, rfl⟩ := List.mem_map.mp hy
  obtain ⟨hplace, hw, hd⟩ := hp k hk
  obtain ⟨l, q, he, -⟩ := State.vPlace_generic hsp hplace
  exact State.performs_store hn he hw hd

/-- The elements of a store at the places found are those of their numbers. -/
theorem PlacesOf.stores {ps : List (Nat × Loc × Pin)} (h : PlacesOf at_ es ps) :
    (ps.map fun q => storeElem f (fun _ => .gen q.2.1 q.2.2) data q.1) = es.map (storeElem f at_ data) :=
  h.elems f.n fun e => .store (bytesOfNat f.n (data e))

/-- Elements performed in flight are stored. -/
theorem State.RunsTo.stored {u : State} (h : s.RunsTo u s.cur.gang (elemRun (es.map (storeElem f at_ data)) s.byteAt).2)
    (hl : s.live) (hgen : ∀ e ∈ es, ∃ l q, at_ e = .gen l q) : VecStored Gang.sansLog s u f.n at_ data es := by
  have hm := h.moved hl rfl
  have hsp : u.myGang.sp = s.myGang.sp := by have e := congrArg Gang.sp hm.frame.gang; exact e
  have hpoison : u.myGang.spPoison = s.myGang.spPoison := by have e := congrArg Gang.spPoison hm.frame.gang; exact e
  refine ⟨?_, fun x => ?_, fun w => ?_⟩
  · rw [← elemRun_stores es f.n at_ data hgen]; exact hm
  · rw [State.spByte, hsp, storedSp_generic _ _ hgen]
  · rw [hpoison]
    refine (and_iff_left fun e he k hk => ?_).symm
    obtain ⟨l, q, hgen⟩ := hgen e he
    rw [hgen] at hk; cases hk
end

/-! ### Stores that are performed as they issue -/

section
variable {s : State} {f : VAcc} {data : Nat → Nat} {srcs : List VsOp} {offs : Option VrOp} {rf : PageKind → Option Cause}
  {at_ : Nat → VPlace} (hrun : ∀ k : List Nat → Res, s.vmem f (s.vmTags srcs [] offs) rf k = k (s.todo f.x))
  (hn : f.n < 128) (hl : s.live) (hw : s.memWf) (hst : s.me.stores = []) (hdiv : s.myGang.diverged = false)
  {pre : List Nat}
include hrun

/-- A store without elements to do retires at once. -/
theorem State.vstore_none (hne : s.todo f.x = []) : s.vstore f data srcs offs rf = .next s.retired := by
  rw [State.vstore, hrun, hne]
  rfl

include hdiv

/-- A store without a ticket goes on to store its elements. -/
theorem State.vstore_plain (ht : f.x.t = .no) (hne : s.todo f.x ≠ []) :
    s.vstore f data srcs offs rf =
      let z := (if releases f.x.ord then s.release else s).storeAll f data (s.todo f.x)
      z.1.storeEnd f z.2 := by
  rw [State.vstore, hrun]
  simp only [List.isEmpty_eq_false_iff.mpr hne, Bool.false_eq_true, if_false, State.pair_eq hdiv, if_pos ht]

/-- A store with a ticket goes on with the elements before the first that offends. -/
theorem State.vstore_ordered (ht : f.x.t ≠ .no) (hne : s.todo f.x ≠ []) {ps : List (Nat × Loc × Pin)}
    {x : Option TrapInfo} (hpre : s.prefixOf f (s.todo f.x) = (ps, x)) :
    s.vstore f data srcs offs rf =
      if ps = [] then s.storeEnd f x
      else s.ordered f (ps.map fun q => storeElem f (fun _ => .gen q.2.1 q.2.2) data q.1) (ps.map fun q => q.2.2) .none
        (fun _ u y => u.storeEnd f (f.stop y x)) (fun u _ => u.storeEnd f x) := by
  rw [State.vstore, hrun]
  simp only [List.isEmpty_eq_false_iff.mpr hne, Bool.false_eq_true, if_false, State.pair_eq hdiv, if_neg ht, hpre]
  cases ps <;> rfl

include hn hl hw hst

/-- A store without a ticket writes elements that can be written, and goes on with those after them. -/
theorem State.vstore_plain_writes (hsp : Mem.wf s.myGang.sp = true) (ht : f.x.t = .no) {rest : List Nat}
    (htodo : s.todo f.x = pre ++ rest) (hne : s.todo f.x ≠ [])
    (hp : ∀ k ∈ pre, s.vPlace f k = .ok (at_ k) ∧ (at_ k).writable s f.n) :
    ∃ u, StoringTo s u f.n at_ data pre ∧ s.vstore f data srcs offs rf =
      (u.storeAll f data rest).1.storeEnd f (u.storeAll f data rest).2 := by
  obtain ⟨u, hu, he⟩ := (StoringTo.start hl (State.Alike.of_release_if hst (releases f.x.ord)) hw hsp (n := f.n) (at_ := at_)
    (data := data)).storeAll hn hp rest
  refine ⟨u, hu, ?_⟩
  rw [State.vstore_plain hrun hdiv ht hne, htodo, he]

variable (ht : f.x.t ≠ .no) (hd : s.direct (f.x.t == .tt) = true) (hredo : s.me.redo = []) (hsp : f.sp = false)
  (hp : ∀ k ∈ pre, s.vPlace f k = .ok (at_ k) ∧ (at_ k).writable s f.n ∧ ¬ (at_ k).dirty s f.n)
include ht hd hredo hsp hp

/-- A store with the commit right performs the elements that it finds, and ends. -/
theorem State.vstore_direct_writes {ps : List (Nat × Loc × Pin)} {x : Option TrapInfo}
    (hpre : s.prefixOf f (s.todo f.x) = (ps, x)) (hps : PlacesOf at_ pre ps) (hne : s.todo f.x ≠ []) :
    ∃ u, VecStored Gang.sansLog s u f.n at_ data pre ∧ s.vstore f data srcs offs rf = u.storeEnd f x := by
  have hgen (k : Nat) (hk : k ∈ pre) : ∃ l q, at_ k = .gen l q := by
    obtain ⟨l, q, he, -⟩ := State.vPlace_generic hsp (hp k hk).1; exact ⟨l, q, he⟩
  have hperf := State.performs_stores (data := data) hn hsp hp
  rw [State.vstore_ordered hrun hdiv ht hne hpre, hps.stores]
  by_cases hemp : pre = []
  · obtain rfl : ps = [] := by
      have h := hps.locs
      rw [hemp] at h
      exact List.map_eq_nil_iff.mp h
    subst hemp
    exact ⟨s, (State.RunsTo.of_alike (.refl s) hw s.cur.gang).stored hl hgen, if_pos rfl⟩
  · obtain ⟨v, hv, he⟩ := State.ordered_direct (f := f) (xs := pre.map (storeElem f at_ data))
      (pins := ps.map fun q => q.2.2) (fill := .none) (now := fun _ u y => u.storeEnd f (f.stop y x))
      (later := fun u _ => u.storeEnd f x) hst hd
    obtain ⟨w, hw', hrunw⟩ := (State.RunsTo.of_alike hv hw s.cur.gang).performOwn hredo s.myGang.p s.myGang.job hperf
    refine ⟨w, hrunw.stored hl hgen, ?_⟩
    have hps' : ps ≠ [] := by
      rintro rfl
      exact hemp (List.map_eq_nil_iff.mp hps.locs.symm)
    rw [if_neg hps', he, hw']
    rfl

/-- A store with the commit right performs elements up to one that meets a poisoned line, which stops it (R234). -/
theorem State.vstore_direct_poisoned {post : List Nat} {e : Nat} {y : VPlace} (htodo : s.todo f.x = pre ++ e :: post)
    (hy : s.vPlace f e = .ok y) (hdirty : y.dirty s f.n) :
    ∃ u, VecStored Gang.sansLog s u f.n at_ data pre ∧ s.vstore f data srcs offs rf = u.storeEnd f (some (f.poison e)) := by
  obtain ⟨l, q, rfl, -⟩ := State.vPlace_generic hsp hy
  have hgen (k : Nat) (hk : k ∈ pre) : ∃ l q, at_ k = .gen l q := by
    obtain ⟨l, q, he, -⟩ := State.vPlace_generic hsp (hp k hk).1; exact ⟨l, q, he⟩
  obtain ⟨ps, hps, hpre⟩ := State.prefixOf_append hsp (fun k hk => (hp k hk).1) (e :: post)
  have hnext : s.prefixOf f (e :: post) = ((e, l, q) :: (s.prefixOf f post).1, (s.prefixOf f post).2) := by
    rw [State.prefixOf, hy]
  rw [hnext] at hpre
  rw [State.vstore_ordered hrun hdiv ht (by rw [htodo]; simp) (htodo ▸ hpre), if_neg (by simp), List.map_append, hps.stores,
    List.map_cons]
  obtain ⟨v, hv, he⟩ := State.ordered_direct (f := f) (xs := pre.map (storeElem f at_ data) ++
      storeElem f (fun _ => .gen l q) data e :: (s.prefixOf f post).1.map fun q => storeElem f (fun _ => .gen q.2.1 q.2.2) data q.1)
    (pins := (ps ++ (e, l, q) :: (s.prefixOf f post).1).map fun q => q.2.2) (fill := .none)
    (now := fun _ u y => u.storeEnd f (f.stop y (s.prefixOf f post).2)) (later := fun u _ => u.storeEnd f (s.prefixOf f post).2)
    hst hd
  obtain ⟨w, hsw, hwrun⟩ := (State.RunsTo.of_alike hv hw s.cur.gang).performOwn_append hredo s.myGang.p s.myGang.job
    (State.performs_stores hn hsp hp) (storeElem f (fun _ => .gen l q) data e ::
      (s.prefixOf f post).1.map fun q => storeElem f (fun _ => .gen q.2.1 q.2.2) data q.1)
  have hpoison : w.elemPoison (storeElem f (fun _ => .gen l q) data e) = true := by
    rw [State.elemPoison, if_neg (nomatch ·), hsw.poisonOf]; exact hdirty
  have hstop (xs : List OrdElem) : w.performOwn s.myGang.p s.myGang.job (storeElem f (fun _ => .gen l q) data e :: xs) =
      ([], w, some e) := by
    rw [State.performOwn, if_pos ⟨by rw [hsw.me, hredo]; rfl, hpoison⟩]
    rfl
  refine ⟨w, hsw.stored hl hgen, ?_⟩
  rw [he, hwrun, hstop]
  rfl
end

end Sys2Proof.Machine
end


section
/-!
SUPPORT. The commit right passed to a ticket that has one vector entry waiting (R38, R40, R41, R234), for O40 and O41.
-/

namespace Sys2Proof.Machine

/-! ### The state in which the next ticket holds the right -/

/-- The right of a job passed on, and the event registers of its harts set (R38, R193). -/
def State.handed (s : State) (p : Fin 3) (job : Nat) : State :=
  (s.modJob p job fun j => { j with right := j.right + 1 }).setEvtJob p job
/-- A gang of a job whose harts' event registers are set. -/
def Gang.evented (p : Fin 3) (job : Nat) (g : Gang) : Gang :=
  if g.p = p ∧ g.job = job then { g with harts := g.harts.map fun x => { x with evt := true } } else g

section
variable (s : State) (p : Fin 3) (job : Nat)

theorem State.handed_gang? (v : Nat) : (s.handed p job).gang? v = (s.gang? v).map (Gang.evented p job) := by
  have huid (g : Gang) : (Gang.evented p job g).uid = g.uid := by unfold Gang.evented; split <;> rfl
  show List.find? (fun g : Gang => g.uid == v) (s.gangs.map (Gang.evented p job)) = _
  rw [List.find?_map]
  refine congrArg (Option.map (Gang.evented p job)) (congrArg (fun q => s.gangs.find? q) (funext fun g => ?_))
  rw [Function.comp, huid]
theorem State.handed_gang_isSome {v : Nat} (h : (s.gang? v).isSome) : ((s.handed p job).gang? v).isSome := by
  rw [State.handed_gang?, Option.isSome_map]; exact h
theorem State.handed_frames {v : Nat} (h : (s.gang? v).isSome) : ((s.handed p job).gang v).frames = (s.gang v).frames := by
  obtain ⟨g, hg⟩ := Option.isSome_iff_exists.mp h
  unfold State.gang
  rw [State.handed_gang?, hg]
  show (Gang.evented p job g).frames = g.frames
  unfold Gang.evented; split <;> rfl
/-- Of a hart, only its event register may change. -/
theorem State.handed_hart (y : HartId) (h : (s.gang? y.gang).isSome) :
    ∃ b, (s.handed p job).hart y = { s.hart y with evt := b } := by
  obtain ⟨g, hg⟩ := Option.isSome_iff_exists.mp h
  unfold State.hart State.gang
  rw [State.handed_gang?, hg]
  show ∃ b, (Gang.evented p job g).harts[y.rank] = _
  unfold Gang.evented
  split
  · exact ⟨true, by simp⟩
  · exact ⟨g.harts[y.rank].evt, rfl⟩
theorem State.handed_job? {j : Job} (h : s.job? p job = some j) :
    (s.handed p job).job? p job = some { j with right := j.right + 1 } := by
  exact (State.job?_modJob s p job (fun j => { j with right := j.right + 1 }) fun _ => ⟨rfl, rfl⟩).trans
    (congrArg (Option.map _) h)
end

/-! ### The step -/

/-- The right comes to a ticket whose one entry waits for it: the entry is performed. -/
theorem execCommitRightPass_performs {s : State} {e : Entry} {j : Job} (he : s.entries = [e])
    (hj : s.job? e.p e.job = some j) (hlt : j.right < j.tickets) (hclosed : j.right ∈ j.sealedT ∨ j.right ∈ j.voidedT)
    (ht : e.ticket = j.right + 1) (htree : e.tree = false) :
    exec (.commitRightPass e.p e.job false) s = .next ((s.handed e.p e.job).performEntry e) := by
  have hcl : s.closedTicket e.p e.job j.right = true := by
    simp only [State.closedTicket, hj, Bool.or_eq_true, List.contains_iff_mem]
    exact hclosed
  have hpend : s.pendingOps e.p e.job j.right false = false := by
    simp [State.pendingOps, he, ht]
  have hj' := State.handed_job? s e.p e.job hj
  have hq : (s.handed e.p e.job).queue e.p e.job (j.right + 1) = [e] := by
    show List.filter _ s.entries = _
    rw [he]; simp [ht]
  have hright : (s.handed e.p e.job).hasRight { j with right := j.right + 1 } (j.right + 1) e.tree = true := by
    rw [htree]; simp [State.hasRight, Job.scope]
  have hflush : (s.handed e.p e.job).flush e.p e.job (j.right + 1) 1 = (s.handed e.p e.job).performEntry e := by
    rw [State.flush, hq, hj']
    simp only [hright, if_true, State.flush]
  have hpass : s.passJob e.p e.job = some ((s.handed e.p e.job).performEntry e) := by
    rw [State.passJob, hj]
    simp only [hlt, hcl, hpend, Bool.not_false, and_self, if_true]
    refine congrArg some (Eq.trans ?_ hflush)
    show (s.handed e.p e.job).flush e.p e.job (j.right + 1) s.entries.length = _
    rw [he]; rfl
  rw [exec_commitRightPass, execCommitRightPass]
  simp only [Bool.false_eq_true, if_false, hpass, Option.getD_some]

/-! ### The entry performed -/

/-- A hart whose entry was performed with some results (R38, R41). -/
def Hart.filledBy (e : Entry) (l : List (Nat × Nat)) (h : Hart) : Hart :=
  { h.fill e.num e.fill ((e.elems.map OrdElem.n).headD 8) l with cache := if e.empties then [] else h.cache }
/-- What is left of a vector entry once its elements have been performed, in the state `w` and with the results `l`. -/
structure State.EntryDone (w t : State) (e : Entry) (l : List (Nat × Nat)) : Prop where
  device : ∃ gs, t = { w with gangs := gs, entries := w.entries.filter fun x => x.num ≠ e.num }
  hart : t.hart e.h = (w.hart e.h).filledBy e l

/-- Of a gang that holds its state itself, a change of one hart and of the recovery point, as it is read afterwards. -/
theorem State.gang?_fill {w : State} {y : HartId} {g : Gang} (hg : w.gang? y.gang = some g) (F : Hart → Hart)
    (R : RecPoint → RecPoint) :
    ((w.modHart y F).modGang y.gang fun g => { g with recov := g.recov.map R }).gang? y.gang =
      some { g with harts := vmod g.harts y.rank F, recov := g.recov.map R } := by
  refine (State.gang?_modGang _ y.gang (fun g => { g with recov := g.recov.map R }) fun _ => rfl).trans ?_
  have h1 := State.gang?_modGang w y.gang (fun g => { g with harts := vmod g.harts y.rank F }) fun _ => rfl
  exact (congrArg (Option.map fun g : Gang => { g with recov := g.recov.map R })
    (h1.trans (congrArg (Option.map _) hg)))

theorem State.fillFrame_none {v : State} {y : HartId} (h : (v.gang y.gang).frames = none) (old : Hart) :
    v.fillFrame y old = v := by
  rw [State.fillFrame]
  dsimp only
  rw [h]

/-- The elements of a vector entry performed, its registers fill, where its hart's state is not saved. -/
theorem State.performEntry_done {s w : State} {e : Entry} {l : List (Nat × Nat)} (hv : e.vec = true)
    (ho : s.performOrdered e.h e.num true e.p e.job e.elems = (l, w)) (hg : (w.gang? e.h.gang).isSome)
    (hf : (w.gang e.h.gang).frames = none) : w.EntryDone (s.performEntry e) e l := by
  obtain ⟨g, hgang⟩ := Option.isSome_iff_exists.mp hg
  have hframes : g.frames = none := by rw [State.gang, hgang] at hf; exact hf
  have hfill := State.gang?_fill (w := { w with entries := w.entries.filter fun x => x.num ≠ e.num }) (y := e.h) hgang
    (Hart.filledBy e l) fun r => r.fill e.h.rank e.num e.fill ((e.elems.map OrdElem.n).headD 8) l
  have hperf : s.performEntry e =
      ((({ w with entries := w.entries.filter fun x => x.num ≠ e.num } : State).modHart e.h (Hart.filledBy e l)).modGang e.h.gang
        fun g => { g with recov := g.recov.map fun r => r.fill e.h.rank e.num e.fill ((e.elems.map OrdElem.n).headD 8) l }) := by
    have hsee : w.seeOwn e = w := by rw [State.seeOwn, if_pos hv]
    have hkept : (State.gang _ e.h.gang).frames = none :=
      (congrArg (fun x : Option Gang => (x.getD Gang.blank).frames) hfill).trans hframes
    rw [State.performEntry, hv, ho]
    dsimp only
    rw [hsee]
    exact State.fillFrame_none hkept _
  rw [hperf]
  refine ⟨⟨_, rfl⟩, ?_⟩
  unfold State.hart State.gang
  rw [hfill, hgang]
  exact vmod_getElem_same g.harts e.h.rank (Hart.filledBy e l)

end Sys2Proof.Machine
end


section
/-!
SUPPORT. The statement about vector stores, O40.
-/

namespace Sys2Proof.Machine

/-! ### A store performed late (R234) -/

theorem State.failJob_job?_eq {s : State} {p : Fin 3} {job : Nat} {j : Job} (hj : s.job? p job = some j) (c : Nat) :
    (s.failJob p job c).job? p job = some { j with cause := some (j.cause.getD (BitVec.ofNat 8 c)) } := by
  have hid : j.p = p ∧ j.id = job := by simpa using List.find?_some hj
  refine ((State.job?_map (t := s.failJob p job c) _ rfl (fun j => by split <;> exact ⟨rfl, rfl⟩) p job).trans
    (congrArg (Option.map _) hj)).trans (congrArg some ?_)
  dsimp only
  obtain ⟨hp, hjob⟩ := hid
  cases hcause : j.cause with
  | none => rw [if_pos ⟨hp, hjob, rfl⟩]; rfl
  | some b => rw [if_neg (nomatch ·.2.2)]; cases j; cases hcause; rfl
/-- A write that is performed leaves the jobs and the commit buffer. -/
theorem State.writeHome_jobs {s : State} {l : Loc} {bs : List Byte} (hr : s.writeRefused l bs.length = false) (p : Fin 3)
    (job : Nat) : (s.writeHome p job l bs).jobs = s.jobs ∧ (s.writeHome p job l bs).entries = s.entries := by
  unfold State.writeHome
  rw [if_neg (by rw [hr]; decide)]
  split <;> exact ⟨rfl, rfl⟩
/-- A gang whose recovery point notes an element is still there, with its frames. -/
theorem State.noteDone_frames {s : State} {y : HartId} (hg : (s.gang? y.gang).isSome) (num v : Nat) :
    ((s.noteDone y num v).gang? y.gang).isSome ∧ ((s.noteDone y num v).gang y.gang).frames = (s.gang y.gang).frames := by
  obtain ⟨g, hg⟩ := Option.isSome_iff_exists.mp hg
  have h := (State.gang?_modGang s y.gang (Gang.noted y.rank num v) fun _ => rfl).trans (congrArg (Option.map _) hg)
  rw [← State.noteDone_eq] at h
  refine ⟨by rw [h]; rfl, ?_⟩
  unfold State.gang
  rw [h, hg]
  rfl

section
variable {s : State} {e : Entry} {j : Job} {x : OrdElem} {bs : List Byte} (hw : s.memWf) (he : s.entries = [e])
  (hj : s.job? e.p e.job = some j) (hlt : j.right < j.tickets) (hclosed : j.right ∈ j.sealedT ∨ j.right ∈ j.voidedT)
  (ht : e.ticket = j.right + 1) (htree : e.tree = false) (hv : e.vec = true) (helems : e.elems = [x])
  (hop : x.op = .store bs) (hg : (s.gang? e.h.gang).isSome) (hf : (s.gang e.h.gang).frames = none)
  (hredo : (s.hart e.h).redo = [])
include he hj hlt hclosed ht htree hv helems hg hf hredo

/-- The right comes to a ticket with one element to perform: what that element leaves, and nothing more, shows outside the
gangs. -/
theorem execCommitRightPass_single {v : State} (hlate : (s.handed e.p e.job).performLate e.p e.job x = (0, v))
    (hgangs : v.gangs = (s.handed e.p e.job).gangs) (hent : v.entries = s.entries) :
    ∃ t gs, exec (.commitRightPass e.p e.job false) s = .next t ∧ t = { v with gangs := gs, entries := [] } := by
  obtain ⟨b, hhart⟩ := State.handed_hart s e.p e.job e.h hg
  have hvg : v.gang? e.h.gang = (s.handed e.p e.job).gang? e.h.gang := State.gang?_gangs hgangs _
  have hsome : (v.gang? e.h.gang).isSome := by rw [hvg]; exact State.handed_gang_isSome s e.p e.job hg
  have hframes : (v.gang e.h.gang).frames = none := by
    rw [State.gang, hvg]
    exact (State.handed_frames s e.p e.job hg).trans hf
  obtain ⟨hsome', hframes'⟩ := State.noteDone_frames hsome e.num 0
  have hord : (s.handed e.p e.job).performOrdered e.h e.num true e.p e.job e.elems =
      ([(x.e, 0)], v.noteDone e.h e.num 0) := by
    rw [helems]
    simp only [State.performOrdered, State.once_new (show ((s.handed e.p e.job).hart e.h).redo = [] by rw [hhart]; exact hredo),
      Bool.true_or, if_true, hlate]
  obtain ⟨⟨gs, hdone⟩, -⟩ := State.performEntry_done hv hord hsome' (hframes'.trans hframes)
  refine ⟨_, gs, execCommitRightPass_performs he hj hlt hclosed ht htree, hdone.trans ?_⟩
  have hnone : v.entries.filter (fun y => y.num ≠ e.num) = [] := by rw [hent, he]; simp
  exact congrArg (fun es => ({ v with gangs := gs, entries := es } : State)) hnone

include hop
/-- A store performed late that meets a poisoned line is not performed, and its job fails. -/
theorem execCommitRightPass_poisoned (hp : linePoisoned (s.poisonOf x.loc.kind) x.loc.pa x.n = true) :
    ∃ t, exec (.commitRightPass e.p e.job false) s = .next t ∧ t.entries = [] ∧ (∀ l, t.byteAt l = s.byteAt l) ∧
      (∀ k, t.poisonOf k = s.poisonOf k) ∧
      ∃ j', t.job? e.p e.job = some j' ∧ j'.right = j.right + 1 ∧ j'.cause = some (j.cause.getD 0x0D) := by
  have hpoison : (s.handed e.p e.job).elemPoison x = true := by
    rw [State.elemPoison, hop]; exact hp
  have hlate : (s.handed e.p e.job).performLate e.p e.job x =
      (0, (s.handed e.p e.job).failJob e.p e.job Cause.poison.code) := by
    rw [State.performLate, if_pos hpoison, State.metPoison, hop]; rfl
  obtain ⟨t, gs, hexec, rfl⟩ := execCommitRightPass_single he hj hlt hclosed ht htree hv helems hg hf hredo hlate rfl rfl
  have hjob := State.failJob_job?_eq (State.handed_job? s e.p e.job hj) Cause.poison.code
  refine ⟨_, hexec, rfl, fun l => ?_, fun k => ?_, ⟨_, hjob, ?_, ?_⟩⟩
  · unfold State.byteAt State.memOf; rfl
  · unfold State.poisonOf; rfl
  · rfl
  · rfl

include hw
/-- A store performed late that meets nothing in its way writes its bytes. -/
theorem execCommitRightPass_stores (hn : x.n = bs.length)
    (hp : linePoisoned (s.poisonOf x.loc.kind) x.loc.pa x.n = false) (hr : s.writeRefused x.loc x.n = false) :
    ∃ t, exec (.commitRightPass e.p e.job false) s = .next t ∧ t.entries = [] ∧
      (∀ l, t.byteAt l = s.bytesWith x.loc bs l) ∧
      ∃ j', t.job? e.p e.job = some j' ∧ j'.right = j.right + 1 ∧ j'.cause = j.cause := by
  have hr' : (s.handed e.p e.job).writeRefused x.loc bs.length = false := by rw [← hn]; exact hr
  have hpoison : (s.handed e.p e.job).elemPoison x = false := by
    rw [State.elemPoison, hop]; exact hp
  have hlate : (s.handed e.p e.job).performLate e.p e.job x =
      (0, (s.handed e.p e.job).writeHome e.p e.job x.loc bs) := by
    rw [State.performLate, if_neg (by rw [hpoison]; decide), State.performElem, hop]
  obtain ⟨hjobs, hent⟩ := State.writeHome_jobs hr' e.p e.job
  have hbytes := State.byteAt_writeHome (s := s.handed e.p e.job) hw hr' e.p e.job
  obtain ⟨t, gs, hexec, rfl⟩ := execCommitRightPass_single he hj hlt hclosed ht htree hv helems hg hf hredo hlate
    (State.writeHome_gangs _ _ _ _ _) hent
  have hjob := (congrArg (fun js : List Job => js.find? fun y : Job => y.p == e.p && y.id == e.job) hjobs).trans
    (State.handed_job? s e.p e.job hj)
  exact ⟨_, hexec, rfl, hbytes, _, hjob, rfl, rfl⟩
end

/-! ### The statement -/

section
variable {s : State} {i : Instr} {f : VAcc} {data : Nat → Nat} {srcs : List VsOp} {offs : Option VrOp}
  {rf : PageKind → Option Cause} {at_ : Nat → VPlace} (h : VStoreOp s i f data srcs offs rf) (hl : s.live) (hw : s.memWf)
  (hsp : Mem.wf s.myGang.sp = true) (hst : s.me.stores = []) (hdiv : s.myGang.diverged = false)
include h hl hw hsp hst hdiv

/-- A vector store whose elements can all be written ends with them written. -/
theorem VStoreOp.stores (ha : VecAccess s f srcs [] offs rf at_)
    (hcond : f.x.t = .no ∨ f.sp = false ∧ s.direct (f.x.t == .tt) = true ∧ s.me.redo = [] ∧
      ∀ e ∈ s.todo f.x, ¬ (at_ e).dirty s f.n) (hwr : ∀ e ∈ s.todo f.x, (at_ e).writable s f.n) :
    ∃ u y, VecStored (if f.x.t = .no then Gang.sansSp else Gang.sansLog) s u f.n at_ data (s.todo f.x) ∧
      exec i s = .next (u.acquireV y).retired := by
  obtain ⟨hexec, hn, -⟩ := h.exec_eq
  have hrun := fun k : List Nat → Res => ha.vmem_eq k
  by_cases hne : s.todo f.x = []
  · have hall : VecStored (if f.x.t = .no then Gang.sansSp else Gang.sansLog) s s f.n at_ data (s.todo f.x) := by
      rw [hne]
      split
      · exact (StoringTo.start hl (.refl s) hw hsp).stored
      · exact (State.RunsTo.of_alike (.refl s) hw s.cur.gang).stored hl fun _ he => nomatch he
    obtain ⟨y, hy⟩ := s.acquireV_none f.x
    exact ⟨s, y, hall, by rw [hexec, State.vstore_none hrun hne, hy]⟩
  · rw [hexec]
    by_cases ht : f.x.t = .no
    · rw [if_pos ht]
      obtain ⟨u, hu, he⟩ := State.vstore_plain_writes (data := data) hrun hn hl hw hst hdiv hsp ht (pre := s.todo f.x)
        (rest := []) (List.append_nil _).symm hne fun k hk => ⟨ha.places k hk, hwr k hk⟩
      exact ⟨u, f.x, hu.stored, he⟩
    · rw [if_neg ht]
      obtain ⟨hgen, hdir, hredo, hclean⟩ := hcond.resolve_left ht
      obtain ⟨ps, hps, hpre⟩ := State.prefixOf_all hgen ha.places
      obtain ⟨u, hu, he⟩ := State.vstore_direct_writes (data := data) hrun hn hl hw hst hdiv ht hdir hredo hgen
        (fun k hk => ⟨ha.places k hk, hwr k hk, hclean k hk⟩) hpre hps hne
      exact ⟨u, f.x, hu, he⟩

omit hw hsp in
/-- A vector store without the right enters the commit buffer. -/
theorem VStoreOp.buffers (ha : VecAccess s f srcs [] offs rf at_) (hgen : f.sp = false) (hb : Buffers s f.x) :
    ∃ v y, s.Entered v f.x at_ (storeElem f at_ data) .none ∧ exec i s = .next (v.acquireV y).retired := by
  obtain ⟨hexec, -, -⟩ := h.exec_eq
  have hrun := fun k : List Nat → Res => ha.vmem_eq k
  by_cases hne : s.todo f.x = []
  · obtain ⟨y, hy⟩ := s.acquireV_none f.x
    exact ⟨s, y, State.entered_none hl hne _ _ _, by rw [hexec, State.vstore_none hrun hne, hy]⟩
  · obtain ⟨ps, hps, hpre⟩ := State.prefixOf_all hgen ha.places
    have hps' : ps ≠ [] := by
      rintro rfl
      exact hne (List.map_eq_nil_iff.mp hps.locs.symm)
    obtain ⟨v, hv, he⟩ := State.ordered_buffers (f := f) (fill := .none)
      (now := fun _ u y => u.storeEnd f (f.stop y none)) (later := fun u _ => u.storeEnd f none) hst hl hb
      (el := storeElem f at_ data) (fun _ => rfl) hps hps.stores rfl
    exact ⟨v, f.x, hv, by rw [hexec, State.vstore_ordered hrun hdiv hb.ordered hne hpre, if_neg hps', he]; rfl⟩

/-- A vector store that an element stops has written those before it, and raises that element's trap. -/
theorem VStoreOp.stops {pre post : List Nat} {e : Nat} {c : Cause} 
    (hrun : ∀ k : List Nat → Res, s.vmem f (s.vmTags srcs [] offs) rf k = k (s.todo f.x))
    (htodo : s.todo f.x = pre ++ e :: post)
    (hp : ∀ k ∈ pre, s.vPlace f k = .ok (at_ k) ∧ (at_ k).writable s f.n ∧ (f.x.t ≠ .no → ¬ (at_ k).dirty s f.n))
    (hcond : f.x.t = .no ∨ f.sp = false ∧ s.direct (f.x.t == .tt) = true ∧ s.me.redo = []) (hstop : StoreStop s f e c) :
    ∃ u eg y, VecStored eg s u f.n at_ data pre ∧ exec i s = (u.acquireV f.x).raise f.op y ∧ y.c = c ∧
      y.At (f.addr e) ∧
      y.ei = e := by
  obtain ⟨hexec, hn, -⟩ := h.exec_eq
  have hne : s.todo f.x ≠ [] := by rw [htodo]; simp
  rw [hexec]
  by_cases ht : f.x.t = .no
  · obtain ⟨u, hu, he⟩ := State.vstore_plain_writes (data := data) hrun hn hl hw hst hdiv hsp ht htodo hne
      fun k hk => ⟨(hp k hk).1, (hp k hk).2.1⟩
    cases hstop with
    | place x hx =>
      obtain ⟨hat, hei⟩ := State.vPlace_error hx
      have hnext : u.storeAll f data (e :: post) = (u, some x) := by rw [State.storeAll, hu.vPlace, hx]
      exact ⟨u, _, x, hu.stored, by rw [he, hnext]; rfl, rfl, hat, hei⟩
    | poison y hy hno hd => exact absurd ht hno
  · obtain ⟨hgen, hdir, hredo⟩ := hcond.resolve_left ht
    have hclean (k : Nat) (hk : k ∈ pre) := (hp k hk).imp_right fun h => h.imp_right fun hd => hd ht
    cases hstop with
    | place x hx =>
      obtain ⟨hat, hei⟩ := State.vPlace_error hx
      obtain ⟨ps, hps, hpre⟩ := State.prefixOf_append hgen (fun k hk => (hp k hk).1) (e :: post)
      have hnext : s.prefixOf f (e :: post) = ([], some x) := by rw [State.prefixOf, hx]
      rw [hnext, List.append_nil, ← htodo] at hpre
      obtain ⟨u, hu, he⟩ := State.vstore_direct_writes (data := data) hrun hn hl hw hst hdiv ht hdir hredo hgen hclean hpre hps hne
      exact ⟨u, _, x, hu, he, rfl, hat, hei⟩
    | poison y hy hno hd =>
      obtain ⟨u, hu, he⟩ := State.vstore_direct_poisoned (data := data) hrun hn hl hw hst hdiv ht hdir hredo hgen hclean htodo
        hy hd
      exact ⟨u, _, f.poison e, hu, he, rfl, ⟨rfl, by show f.det < 65536; unfold VAcc.det; split <;> omega, Nat.zero_lt_succ 3⟩, rfl⟩
end

/-- Settles O40: stores performed as they issue, stopped, buffered, or performed when the right comes to them. -/
theorem vectorStoresWriteTheirElements : Obligations.VectorStoresWriteTheirElements := by
  unfold Obligations.VectorStoresWriteTheirElements
  refine ⟨fun s i f data srcs offs rf at_ h hl hw hsp hst hdiv ha => ⟨fun hcond hwr => ?written, fun hgen hb => ?buffered⟩,
    fun s i f data srcs offs rf at_ pre post e c h hl hw hsp hst hdiv hs hvl hvl' htags htk hi hstall hwait htodo hp hcond
      hstop hsvec => ?stopped,
    fun s e j x bs hw he hj hlt hclosed ht htree hv hfill helems hop hn hg hf hredo => ⟨fun hp => ?late, fun hp hr => ?later⟩⟩
  case written =>
    obtain ⟨u, y, hu, hexec⟩ := h.stores hl hw hsp hst hdiv ha hcond hwr
    exact ⟨_, hexec, hu.retires y rfl⟩
  case buffered =>
    obtain ⟨v, y, hv, hexec⟩ := h.buffers hl hst hdiv ha hgen hb
    exact ⟨_, hexec, hv.retires y⟩
  case stopped =>
    obtain ⟨u, eg, y, hu, hexec, rfl, hy, hye⟩ := h.stops hl hw hsp hst hdiv
      (State.vmem_runs hs hvl htags htk hi hstall hwait) htodo hp hcond hstop
    have he : e < s.me.vl := (State.mem_todo.mp (State.mem_todo_of_split htodo)).2.1
    have htrap := hu.traps f.x hs hsvec hst h.exec_eq.2.2 hy (by omega)
    rw [hye] at htrap
    rw [hexec]
    exact htrap
  case late =>
    exact execCommitRightPass_poisoned he hj hlt hclosed ht htree hv helems hop hg hf hredo hp
  case later =>
    exact execCommitRightPass_stores hw he hj hlt hclosed ht htree hv helems hop hg hf hredo hn hp hr

end Sys2Proof.Machine
end








section
/-!
SUPPORT. Vector atomics that are performed as they issue, posted, or left in the commit buffer (R148, R242, R243), for O41.
-/

namespace Sys2Proof.Machine

/-! ### Vector steps with changes before and after (R52, R53) -/

/-- A vector step after a change that shows in the cache of its hart alone. -/
theorem VecStepBut.after {eg : Gang → Gang} {es : State → State} {s u t : State} {r : VRow} {m : Loc → Byte}
    (hm : Moved Hart.sansCache hideNone eg es s u m) (hme : u.me.sansCache = s.me.sansCache)
    (h : VecStepBut Hart.sansCache hideNone hideNone u t r u.byteAt) : VecStepBut Hart.sansCache eg es s t r m := by
  have hv : u.me.v = s.me.v := by have e := congrArg Hart.v hme; exact e
  have hmask : u.me.m = s.me.m := by have e := congrArg Hart.m hme; exact e
  have hpc : u.me.pc = s.me.pc := by have e := congrArg Hart.pc hme; exact e
  exact {
    elems := fun k hk e => by rw [h.elems k hk e, hv]
    tags := h.tags
    kept := fun k hk => by rw [h.kept k hk, hv]
    masks := fun k => by rw [h.masks k, hmask]
    flags := by rw [h.flags, hm.same.fcsr]
    pc := by rw [h.pc, hpc]
    ei := h.ei
    memory := fun l => (h.memory l).trans (hm.memory l)
    level := h.level.trans hm.same.atS
    frame := (hm.frame.weaken (fun _ _ e => congrArg Hart.sansV e) (fun _ _ e => e) (fun _ _ e => e) fun _ _ e => e).trans
      (h.frame.weaken (fun _ _ e => e) (fun _ _ e => e) (fun _ _ e => congrArg eg e) fun _ _ e => congrArg es e)
      hm.same.cur hm.same.atS }

/-- A hart that then waits for more fills, or has lost its cache, at the end of its instruction. -/
def Hart.waitsFor (fills : List (Fin 60 × Nat)) (b : Bool) (h : Hart) : Hart :=
  { h with fillV := h.fillV ++ fills, cache := if b then [] else h.cache }
theorem VecStep.waitsFor {u t : State} {r : VRow} (ht : t.live) (hu : u.atS = false) (hc : t.cur = u.cur) (h : VecStep u t r)
    (fills : List (Fin 60 × Nat)) (b : Bool) :
    VecStepBut Hart.sansCache hideNone hideNone u (t.modMe (Hart.waitsFor fills b)) r u.byteAt := by
  have hme : (t.modMe (Hart.waitsFor fills b)).me = t.me.waitsFor fills b := State.me_modMe ht _
  exact {
    elems := fun k hk e => by rw [hme]; exact h.elems k hk e
    tags := fun k hk => by rw [hme]; exact h.tags k hk
    kept := fun k hk => by rw [hme]; exact h.kept k hk
    masks := fun k => by rw [hme]; exact h.masks k
    flags := by rw [hme]; exact h.flags
    pc := by rw [hme]; exact h.pc
    ei := by rw [hme]; exact h.ei
    memory := fun l => (State.byteAt_modMe t _ l).trans (h.memory l)
    level := (State.atS_modMe ht (Hart.waitsFor fills b) fun _ => rfl).trans h.level
    frame := (h.frame.weaken (fun _ _ e => congrArg Hart.sansCache e) (fun _ _ e => e) (fun _ _ e => e) fun _ _ e => e).trans
      (Frame.of_modMe ht (by rw [h.level, hu]; rfl)) hc h.level }
theorem VecStep.sansCache {u t : State} {r : VRow} (h : VecStep u t r) :
    VecStepBut Hart.sansCache hideNone hideNone u t r u.byteAt :=
  { h with frame := h.frame.weaken (fun _ _ e => congrArg Hart.sansCache e) (fun _ _ e => e) (fun _ _ e => e) fun _ _ e => e }
/-- Retirement at U and what shows in the cache and the fills alone come in either order. -/
theorem State.waitsFor_retired {u : State} (hl : u.live) (hu : u.atS = false) (fills : List (Fin 60 × Nat)) (b : Bool) :
    (u.modMe (Hart.waitsFor fills b)).retired = u.retired.modMe (Hart.waitsFor fills b) := by
  have hat : (u.modMe (Hart.waitsFor fills b)).atS = false := (State.atS_modMe hl (Hart.waitsFor fills b) fun _ => rfl).trans hu
  rw [State.retired, State.retired, State.goto_user hat, State.goto_user hu, State.pcv_user hat, State.pcv_user hu,
    State.me_modMe hl, State.modMe_modMe, State.modMe_modMe]
  rfl

/-! ### The places of a vector atomic (Table 5-1) -/

theorem lowestTrap_eq_none {l : List (Word × TrapInfo)} (h : lowestTrap l = none) : l = [] := by
  cases l with
  | nil => rfl
  | cons q l =>
    obtain ⟨a, t⟩ := q
    rw [lowestTrap] at h
    split at h
    · cases h
    · split at h <;> cases h
/-- A generic access that passes its issue conditions reaches no page whose kind it refuses. -/
theorem State.vIssue_kind {s : State} {f : VAcc} {rf : PageKind → Option Cause} {es : List Nat} (hsp : f.sp = false)
    (hi : s.vIssue f rf es = none) {e : Nat} (he : e ∈ es) {l : Loc} {q : Pin} (hp : s.vPlace f e = .ok (.gen l q)) :
    rf l.kind = none := by
  obtain ⟨l', q', hy, hc⟩ := State.vPlace_generic hsp hp
  cases hy
  obtain ⟨hcov, hpin, hkind⟩ : (s.token f.x.tk).covers (f.addr e).toNat f.n = true ∧
      findPin (s.token f.x.tk).pins (f.addr e).toNat = some q ∧ l.kind = q.kind := by
    unfold Token.elemCheck at hc
    dsimp only at hc
    split at hc
    · cases hc
    · next hcov =>
      split at hc
      · cases hc
      · split at hc
        · cases hc
        · next q' hq =>
          by_cases hperm : (if f.wr = true then q'.w else q'.r) = true
          · rw [if_pos hperm] at hc
            cases hc
            exact ⟨by simpa using hcov, hq, rfl⟩
          · rw [if_neg hperm] at hc
            cases hc
  unfold State.vIssue at hi
  simp only [hsp, Bool.false_eq_true, if_false] at hi
  split at hi
  · cases hi
  · have hnil := lowestTrap_eq_none hi
    rw [List.filterMap_eq_nil_iff] at hnil
    have hmeet := hnil e he
    simp only [hcov, if_true, hpin, Option.map_eq_none_iff] at hmeet
    rw [hkind]; exact hmeet
theorem notTaken_eq_none {ok : PageKind → Bool} {k : PageKind} (h : notTaken ok k = none) : ok k = true := by
  unfold notTaken at h
  split at h
  · assumption
  · cases h

/-! ### The elements of a vector atomic (R242, R243) -/

/-- The element that an atomic performs at e. -/
def amoElem (op : AmoOp) (n : Nat) (at_ : Nat → VPlace) (w : Nat → Word) (e : Nat) : OrdElem :=
  { e := e, loc := (at_ e).loc, n := n, op := .amo op (w e) }

section
variable {s : State} {f : VAcc} {op : AmoOp} {c : VsOp} {at_ : Nat → VPlace} {es : List Nat} {ps : List (Nat × Loc × Pin)}

theorem PlacesOf.amos (h : PlacesOf at_ es ps) (n : Nat) : s.amoElems op n c ps = es.map (amoElem op n at_ (s.vel c)) :=
  h.elems n fun e => .amo op (s.vel c e)
theorem elemRun_amoElem {n : Nat} (hn : 0 < n) (w : Nat → Word) (m : Loc → Byte) :
    elemRun (es.map (amoElem op n at_ w)) m =
      amoRun op n (fun e => (at_ e).loc) (fun e => (w e).toNat % 2 ^ (8 * n)) es m :=
  elemRun_amos hn op (fun e => (at_ e).loc) w es m

/-- The elements of an atomic whose page kinds accept it, with nothing in their way, are performed. -/
theorem State.performs_amos {n : Nat} (hn : n < 128) (w : Nat → Word) (hio : ∀ e ∈ es, (at_ e).loc.kind ≠ .io)
    (hr : ∀ e ∈ es, s.readPoison (at_ e).loc n = false ∧ s.writeRefused (at_ e).loc n = false) :
    ∀ y ∈ es.map (amoElem op n at_ w), s.Performs y := by
  intro y hy
  obtain ⟨e, he, rfl⟩ := List.mem_map.mp hy
  obtain ⟨hp, href⟩ := hr e he
  exact ⟨hn, href, hp, fun _ => hio e he, fun _ hbs => nomatch hbs⟩

/-- The places of an atomic that its page kinds accept are no IO pages. -/
theorem VecAccess.no_io {srcs : List VsOp} {dests : List VdOp} {offs : Option VrOp} {ok : PageKind → Bool}
    (ha : VecAccess s f srcs dests offs (notTaken ok) at_) (hsp : f.sp = false) (hok : ok .io = false) :
    ∀ e ∈ s.todo f.x, (at_ e).loc.kind ≠ .io := by
  intro e he hk
  have hp := ha.places e he
  obtain ⟨l, q, hy, -⟩ := State.vPlace_generic hsp hp
  rw [hy] at hp hk
  have hacc := notTaken_eq_none (State.vIssue_kind hsp ha.issue he hp)
  rw [show l.kind = .io from hk, hok] at hacc
  cases hacc
end

/-! ### The old values returned (R53, R242) -/

theorem amoRun_elements (op : AmoOp) (n : Nat) (at_ : Nat → Loc) (x : Nat → Nat) (es : List Nat) (m : Loc → Byte) :
    (amoRun op n at_ x es m).1.map Prod.fst = es := by
  induction es generalizing m with
  | nil => rfl
  | cons e es ih => rw [amoRun, List.map_cons, ih]
theorem found_isSome (l : List (Nat × Nat)) (e : Nat) : (found l e).isSome = true ↔ e ∈ l.map Prod.fst := by
  rw [found, Option.isSome_map, List.find?_isSome, List.mem_map]
  exact exists_congr fun q => and_congr_right fun _ => beq_iff_eq
/-- Values found for the elements to do are what a raw load of them sets. -/
theorem State.rawPut_found {s u : State} (hei : u.me.ei = s.me.ei) (x : MemX) {l : List (Nat × Nat)}
    (hl : l.map Prod.fst = s.todo x) (g : Nat → Word) :
    (u.rawPut x s.me.vl fun e => (found l e).map g) = s.loaded x fun e => g ((found l e).getD 0) := by
  funext e
  simp only [State.rawPut, State.loaded, hei]
  have hmem := found_isSome l e
  rw [hl, State.mem_todo] at hmem
  by_cases hr : s.me.ei ≤ e ∧ e < s.me.vl
  · rw [if_pos hr, if_pos hr]
    cases ho : s.onMem x e
    · have hnone : found l e = none := by
        rw [← Option.not_isSome_iff_eq_none, hmem, ho]; exact fun h => Bool.false_ne_true h.2.2
      rw [hnone]; rfl
    · obtain ⟨v, hv⟩ := Option.isSome_iff_exists.mp (hmem.mpr ⟨hr.1, hr.2, ho⟩)
      rw [hv]; rfl
  · rw [if_neg hr, if_neg hr]

end Sys2Proof.Machine
end


section
/-!
SUPPORT. The statement about vector atomics, O41.
-/

namespace Sys2Proof.Machine

/-! ### `VAMO` (R242) -/

theorem Sz.bytes_pos (z : Sz) : 0 < Sz.bytes z := by cases z <;> decide
theorem Sz.bytes_lt (z : Sz) : Sz.bytes z < 128 := by cases z <;> decide

section
variable {s : State} {op : AmoOp} {x : MemX} {d : VdOp} {a : GOp} {b : VrOp} {c : VsOp} {at_ : Nat → VPlace}
  (hl : s.live) (hw : s.memWf) (hst : s.me.stores = []) (hdiv : s.myGang.diverged = false)
  (ha : VecAccess s (s.amoAcc 0x50 x a b) [c] [d] (some b) (notTaken fun k => PageKind.takes k op) at_)
include hdiv ha

/-- A `VAMO` all of whose elements have places goes on to perform them, in flight or under its ticket. -/
theorem execVamo_places : ∃ ps, PlacesOf at_ (s.todo x) ps ∧ exec (.vamo op x d a b c) s =
    if s.todo x = [] then (s.acquireV x).loadEnd (s.amoAcc 0x50 x a b) d none [] .done
    else if x.t = .no then
      let z := (if releases x.ord then s.release else s).performNow s.myGang.p s.myGang.job
        ((s.todo x).map (amoElem op (Sz.bytes x.sz) at_ (s.vel c)))
      (z.2.1.acquireV x).loadEnd (s.amoAcc 0x50 x a b) d none z.1 (stopAt (s.amoAcc 0x50 x a b) z.2.2 none)
    else s.ordered (s.amoAcc 0x50 x a b) ((s.todo x).map (amoElem op (Sz.bytes x.sz) at_ (s.vel c)))
      (ps.map fun q => q.2.2) (.v d x.sx)
      (fun l u z => (u.acquireV x).loadEnd (s.amoAcc 0x50 x a b) d none l (stopAt (s.amoAcc 0x50 x a b) z none))
      (fun u nums => (u.awaitV (s.amoAcc 0x50 x a b) d ((s.todo x).map (amoElem op (Sz.bytes x.sz) at_ (s.vel c))) nums
        none).storeEnd (s.amoAcc 0x50 x a b) none) := by
  obtain ⟨ps, hps, hpre⟩ := State.prefixOf_all rfl ha.places
  refine ⟨ps, hps, ?_⟩
  have hf : ({ op := 0x50, x := x, n := Sz.bytes x.sz, wr := true, sp := false, addr := s.indexed a b } : VAcc) =
    s.amoAcc 0x50 x a b := rfl
  rw [exec_vamo, execVamo]
  dsimp only
  rw [hf, ha.vmem_eq, hpre]
  dsimp only
  rw [hps.amos, List.isEmpty_map, show (s.amoAcc 0x50 x a b).x = x from rfl]
  cases hes : s.todo x with
  | nil => rfl
  | cons e es =>
    rw [State.pair_eq hdiv]
    rfl

include hst

/-- A `VAMO` without a ticket, or with the right, performs its elements in ascending order. -/
theorem execVamo_performs (hw : s.memWf) (hcond : x.t = .no ∨ s.direct (x.t == .tt) = true ∧ s.me.redo = [])
    (hr : ∀ e ∈ s.todo x, s.readPoison (at_ e).loc (Sz.bytes x.sz) = false ∧ s.writeRefused (at_ e).loc (Sz.bytes x.sz) = false)
    {z : List (Nat × Nat) × (Loc → Byte)} (hz : z = amoRun op (Sz.bytes x.sz) (fun e => (at_ e).loc)
      (fun e => (s.vel c e).toNat % 2 ^ (8 * Sz.bytes x.sz)) (s.todo x) s.byteAt) :
    ∃ w, s.RunsTo w s.cur.gang z.2 ∧
      exec (.vamo op x d a b c) s = (w.acquireV x).loadEnd (s.amoAcc 0x50 x a b) d none z.1 .done := by
  obtain ⟨ps, -, hexec⟩ := execVamo_places (op := op) (d := d) hdiv ha
  have hperf : ∀ y ∈ (s.todo x).map (amoElem op (Sz.bytes x.sz) at_ (s.vel c)), s.Performs y :=
    State.performs_amos (Sz.bytes_lt x.sz) (s.vel c) (ha.no_io rfl rfl) hr
  rw [← elemRun_amoElem (Sz.bytes_pos x.sz)] at hz
  subst hz
  rw [hexec]
  by_cases hne : s.todo x = []
  · rw [if_pos hne, hne]
    exact ⟨s, State.RunsTo.of_alike (.refl s) hw s.cur.gang, rfl⟩
  · rw [if_neg hne]
    by_cases ht : x.t = .no
    · rw [if_pos ht]
      obtain ⟨w, hrun, hw'⟩ := (State.RunsTo.of_alike (State.Alike.of_release_if hst (releases x.ord)) hw
        s.cur.gang).performNow s.myGang.p s.myGang.job hperf
      exact ⟨w, hw', by rw [hrun]; rfl⟩
    · rw [if_neg ht]
      obtain ⟨hdir, hredo⟩ := hcond.resolve_left ht
      obtain ⟨v, hv, he⟩ := State.ordered_direct (f := s.amoAcc 0x50 x a b) hst hdir
      obtain ⟨w, hrun, hw'⟩ := (State.RunsTo.of_alike hv hw s.cur.gang).performOwn hredo s.myGang.p s.myGang.job hperf
      exact ⟨w, hw', by rw [he, hrun]; rfl⟩

include hl

/-- A `VAMO` without the right puts its elements into the commit buffer, and its destination waits for them. -/
theorem execVamo_buffers (hb : Buffers s x) (hne : s.todo x ≠ []) :
    ∃ v, s.Entered v x at_ (amoElem op (Sz.bytes x.sz) at_ (s.vel c)) (.v d x.sx) ∧
      exec (.vamo op x d a b c) s = .next ((v.awaitV (s.amoAcc 0x50 x a b) d
        ((s.todo x).map (amoElem op (Sz.bytes x.sz) at_ (s.vel c)))
        ((List.range (groupsOf (s.todo x)).length).map fun i => s.nextEntry + i) none).acquireV x).retired := by
  obtain ⟨ps, hps, hexec⟩ := execVamo_places (op := op) (d := d) hdiv ha
  obtain ⟨v, hv, he⟩ := State.ordered_buffers (f := s.amoAcc 0x50 x a b) (fill := .v d x.sx)
    (now := fun l u z => (u.acquireV x).loadEnd (s.amoAcc 0x50 x a b) d none l (stopAt (s.amoAcc 0x50 x a b) z none))
    (later := fun u nums => (u.awaitV (s.amoAcc 0x50 x a b) d ((s.todo x).map (amoElem op (Sz.bytes x.sz) at_ (s.vel c))) nums
      none).storeEnd (s.amoAcc 0x50 x a b) none) (xs := (s.todo x).map (amoElem op (Sz.bytes x.sz) at_ (s.vel c)))
    hst hl hb (el := amoElem op (Sz.bytes x.sz) at_ (s.vel c)) (fun _ => rfl) hps rfl rfl
  exact ⟨v, hv, by rw [hexec, if_neg hne, if_neg hb.ordered, he]; rfl⟩
end

/-- The end of a `VAMO` that performed its elements: the old values go to its destination and to `l2` (R53, R242). -/
theorem State.RunsTo.vamo_end {s w : State} {m : Loc → Byte} (hs : s.RunsTo w s.cur.gang m) (hl : s.live) (hu : s.atS = false)
    (x : MemX) (d : VdOp) (a : GOp) (b : VrOp) {l : List (Nat × Nat)} (hlist : l.map Prod.fst = s.todo x) :
    ∃ t, (w.acquireV x).loadEnd (s.amoAcc 0x50 x a b) d none l .done = .next t ∧
      VecStepBut Hart.sansCache Gang.sansLog State.sansMem s t
        { d := d, last := some 58, tag := tagOfRaw (s.me.v[(d.map vdReg).getD 58].tag) (Sz.bytes x.sz) false, fl := 0,
          mask := none,
          put := s.loaded x fun e =>
            if Sz.bytes x.sz = 4 then extendN 4 x.sx ((found l e).getD 0) else word ((found l e).getD 0) } m := by
  have hmoved : Moved Hart.sansCache hideNone Gang.sansLog State.sansMem s (w.acquireV x) m :=
    ((hs.moved hl rfl).weaken (fun _ _ e => e) (fun _ _ e => e) (fun _ _ e => e)
      fun _ _ e => State.sansMem_of_sansBytes e).acquireV x
  have hme : (w.acquireV x).me.sansCache = s.me.sansCache := by
    rw [← hs.me]
    unfold State.acquireV
    split
    · show (w.modMe fun y => { y with cache := [] }).me.sansCache = _
      rw [State.me_modMe (hs.moved hl rfl).same.live]; rfl
    · rfl
  have hv : (w.acquireV x).me.v = s.me.v := by have e := congrArg Hart.v hme; exact e
  have hvl : (w.acquireV x).me.vl = s.me.vl := by have e := congrArg Hart.vl hme; exact e
  have hei : (w.acquireV x).me.ei = s.me.ei := by have e := congrArg Hart.ei hme; exact e
  have hput := State.rawPut_found hei x hlist fun v => if Sz.bytes x.sz = 4 then extendN 4 x.sx v else word v
  have hstep := State.rawWrite_step hmoved.same.live (hmoved.same.atS.trans hu) d (Sz.bytes x.sz) false
    (s.loaded x fun e => if Sz.bytes x.sz = 4 then extendN 4 x.sx ((found l e).getD 0) else word ((found l e).getD 0))
  rw [hv] at hstep
  refine ⟨_, ?_, VecStepBut.after hmoved hme hstep.sansCache⟩
  rw [← hput, ← hvl]
  exact State.loadEnd_single _ _ _ _

/-- The fills that the destination of an ordered `VAMO` and `l2` wait for: its entries, and what its kept elements wait for
already (R41). -/
def Hart.vamoFills (h : Hart) (d : VdOp) (nums : List Nat) : List (Fin 60 × Nat) :=
  (((d.map fun r => [vdReg r]).getD [] ++ [58]).map fun r =>
    ((h.fillV.filter fun q : Fin 60 × Nat => q.1 == (d.map vdReg).getD 58).map Prod.snd ++ nums).map fun n => (r, n)).flatten
theorem Hart.mem_vamoFills (h : Hart) (d : VdOp) {nums : List Nat} {n : Nat} (hn : n ∈ nums) {r : Fin 60}
    (hr : r = 58 ∨ d.map vdReg = some r) : (r, n) ∈ h.vamoFills d nums := by
  have hmem : r ∈ (d.map fun r => [vdReg r]).getD [] ++ [58] := by
    cases d with
    | none => exact List.mem_singleton.mpr (hr.resolve_right (nomatch ·))
    | some k => rcases hr with rfl | hk <;> simp_all
  exact List.mem_flatten.mpr ⟨_, List.mem_map.mpr ⟨r, hmem, rfl⟩, List.mem_map.mpr ⟨n, List.mem_append_right _ hn, rfl⟩⟩
/-- What an ordered `VAMO` sets at once: its elements keep their values until they are filled, and masked-off ones are zeros
under KZ (R41, R53). -/
def State.vamoKept (s : State) (x : MemX) (d : VdOp) (xs : List OrdElem) : Nat → Option Word :=
  s.rawPut x s.me.vl fun e =>
    if xs.any fun y => y.e == e then some (vget s.me.v[(d.map vdReg).getD 58].el e 0) else none
theorem State.vamoKept_eq (s : State) (x : MemX) (d : VdOp) {el : Nat → OrdElem} (hel : ∀ e, (el e).e = e) (e : Fin 128) :
    (s.vamoKept x d ((s.todo x).map el) e.val).getD s.me.v[(d.map vdReg).getD 58].el[e] =
      (if s.me.ei ≤ e.val ∧ e.val < s.me.vl ∧ s.onMem x e.val = false ∧ x.kz = true then some 0 else none : Option Word).getD
        s.me.v[(d.map vdReg).getD 58].el[e] := by
  have hany : ((s.todo x).map el).any (fun y => y.e == e.val) = true ↔ e.val ∈ s.todo x := by
    simp [List.any_map, hel]
  rw [State.mem_todo] at hany
  unfold State.vamoKept State.rawPut
  dsimp only
  by_cases hr : s.me.ei ≤ e.val ∧ e.val < s.me.vl
  · rw [if_pos hr]
    cases ho : s.onMem x e.val
    · rw [if_neg (fun h => Bool.false_ne_true (ho.symm.trans (hany.mp h).2.2))]
      simp only [hr, true_and]
    · have hkeep : ¬ (s.me.ei ≤ e.val ∧ e.val < s.me.vl ∧ true = false ∧ x.kz = true) := fun h => nomatch h.2.2.1
      rw [if_pos (hany.mpr ⟨hr.1, hr.2, ho⟩), if_neg hkeep]
      exact vget_eq _ _ _
  · rw [if_neg hr, if_neg fun h => hr ⟨h.1, h.2.1⟩]

/-- What a `VAMO` keeps depends on its hart alone. -/
theorem State.vamoKept_me {s v : State} (h : v.me = s.me) (x : MemX) (d : VdOp) (xs : List OrdElem) :
    v.vamoKept x d xs = s.vamoKept x d xs := by
  unfold State.vamoKept State.rawPut
  rw [h]
/-- A row's values enter its frame only through the elements they give. -/
theorem VecStepBut.of_put {eh : Hart → Hart} {eg : Gang → Gang} {es : State → State} {s t : State} {r : VRow}
    {m : Loc → Byte} (h : VecStepBut eh eg es s t r m) (put : Nat → Option Word)
    (hp : ∀ e : Fin 128, (r.put e.val).getD (s.me.v[r.base].el[e]) = (put e.val).getD (s.me.v[r.base].el[e])) :
    VecStepBut eh eg es s t { r with put := put } m :=
  { h with elems := fun k hk e => (h.elems k hk e).trans (hp e) }
/-- A register that waits shows in its gang alone. -/
theorem State.awaitV_device (v : State) (f : VAcc) (d : VdOp) (xs : List OrdElem) (nums : List Nat) (y : Option TrapInfo) :
    ({ v.awaitV f d xs nums y with gangs := [] } : State) = { v with gangs := [] } := by
  unfold State.awaitV State.rawWrite State.writeV
  dsimp only
  split_ifs <;> rfl

/-- The end of a `VAMO` in the commit buffer: masked-off elements are formed, the others kept, and the destination and `l2`
wait for the entries (R41). -/
theorem State.Entered.vamo_end {s v : State} {x : MemX} {d : VdOp} {at_ : Nat → VPlace} {el : Nat → OrdElem}
    {fill : Fill} (hv : s.Entered v x at_ el fill) (hu : s.atS = false) (hel : ∀ e, (el e).e = e) (a : GOp) (b : VrOp)
    (nums : List Nat) {t : State}
    (ht : ((v.awaitV (s.amoAcc 0x50 x a b) d ((s.todo x).map el) nums none).acquireV x).retired = t) :
    VecBuffered s t x at_ el fill ∧
      (∀ n ∈ nums, ∀ r, (r = 58 ∨ d.map vdReg = some r) → (r, n) ∈ t.me.fillV) ∧
      VecStepBut Hart.sansCache hideNone State.sansEntries s t
        { d := d, last := some 58, tag := tagOfRaw (s.me.v[(d.map vdReg).getD 58].tag) (Sz.bytes x.sz) false, fl := 0,
          mask := none,
          put := fun e => if s.me.ei ≤ e ∧ e < s.me.vl ∧ s.onMem x e = false ∧ x.kz = true then some 0 else none }
        s.byteAt := by
  have hdev : ({ t with gangs := [] } : State) = { v with gangs := [] } := by
    rw [← ht, State.acquireV_retired_device, State.awaitV_device]
  have hvl := hv.moved.same.live
  have hvu := hv.moved.same.atS.trans hu
  generalize hput : v.vamoKept x d ((s.todo x).map el) = put
  have hwl : (v.rawWrite d (Sz.bytes x.sz) false true put).live := (State.rawWrite_keeps hvl d _ false true put).1
  have hwu : (v.rawWrite d (Sz.bytes x.sz) false true put).atS = false := by
    unfold State.atS; rw [(State.rawWrite_keeps hvl d _ false true put).2.1]; exact hvu
  have hstep := State.rawWrite_step hvl hvu d (Sz.bytes x.sz) false put
  generalize hw : v.rawWrite d (Sz.bytes x.sz) false true put = w at hwl hwu hstep
  have hawait : (v.awaitV (s.amoAcc 0x50 x a b) d ((s.todo x).map el) nums none).acquireV x =
      w.modMe (Hart.waitsFor (v.me.vamoFills d nums) (emptiesCache x)) := by
    rw [← hw, ← hput, State.acquireV, State.acquire_if]
    exact (State.modMe_modMe _ _ _).trans (congrArg (State.modMe _) (funext fun y => by cases emptiesCache x <;> rfl))
  have hcur : w.retired.cur = v.cur := by
    rw [State.retired_cur, ← hw]; rfl
  rw [hawait, State.waitsFor_retired hwl hwu] at ht
  have hme : t.me = w.retired.me.waitsFor (v.me.vamoFills d nums) (emptiesCache x) := by
    rw [← ht]; exact State.me_modMe (State.live_retired hwl) _
  have hend := VecStepBut.after hv.moved (congrArg Hart.sansCache hv.me)
    (VecStep.waitsFor (State.live_retired hwl) hvu hcur hstep (v.me.vamoFills d nums) (emptiesCache x))
  rw [ht] at hend
  refine ⟨⟨?_, ?_⟩, fun n hn r hr => ?_, ?_⟩
  · have e := congrArg State.entries hdev
    exact e.trans hv.entries
  · have e := congrArg State.nextEntry hdev
    exact e.trans hv.next
  · rw [hme]; exact List.mem_append_right _ (Hart.mem_vamoFills v.me d hn hr)
  · rw [hv.me, ← hput, State.vamoKept_me hv.me] at hend
    exact hend.of_put _ fun e => s.vamoKept_eq x d hel e

end Sys2Proof.Machine
end


section
/-!
SUPPORT. The statement about vector atomics, O41: `VSTA`, and entries performed when the right comes to them.
-/

namespace Sys2Proof.Machine

/-! ### `VSTA` (R243) -/

/-- A device that has accepted elements of a job, to be performed later. -/
def State.posting (s : State) (p : Fin 3) (job : Nat) (xs : List OrdElem) : State :=
  { s with posted := s.posted ++ xs.map fun y => { p := p, job := job, elem := y } }
/-- Posted elements show outside the gangs alone. -/
theorem State.Alike.posting {s u : State} (h : s.Alike u) (hl : s.live) (p : Fin 3) (job : Nat) (xs : List OrdElem) :
    Moved Hart.sansCache hideNone hideNone (fun w => { w with posted := [] }) s (u.posting p job xs) s.byteAt :=
  (Moved.of_alike hl h).device rfl rfl rfl h.byteAt

section
variable {s : State} {op : AmoOp} {x : MemX} {a : GOp} {b c : VrOp} {at_ : Nat → VPlace}
  (hl : s.live) (hst : s.me.stores = []) (hdiv : s.myGang.diverged = false)
  (ha : VecAccess s (s.amoAcc 0x51 x a b) [.vec c] [] (some b) (notTaken (postable op)) at_)
include hdiv ha

/-- A `VSTA` all of whose elements have places goes on to post them, or to perform or buffer them under its ticket. -/
theorem execVsta_places : ∃ ps, PlacesOf at_ (s.todo x) ps ∧ exec (.vsta op x a b c) s =
    if s.todo x = [] then .next (s.acquireV x).retired
    else if x.t = .no then
      .next (((if releases x.ord then s.release else s).posting s.myGang.p s.myGang.job
        ((s.todo x).map (amoElem op (Sz.bytes x.sz) at_ (s.vel (.vec c))))).acquireV x).retired
    else s.ordered (s.amoAcc 0x51 x a b) ((s.todo x).map (amoElem op (Sz.bytes x.sz) at_ (s.vel (.vec c))))
      (ps.map fun q => q.2.2) .none
      (fun _ u z => u.storeEnd (s.amoAcc 0x51 x a b) ((s.amoAcc 0x51 x a b).stop z none))
      (fun u _ => u.storeEnd (s.amoAcc 0x51 x a b) none) := by
  obtain ⟨ps, hps, hpre⟩ := State.prefixOf_all rfl ha.places
  refine ⟨ps, hps, ?_⟩
  have hf : ({ op := 0x51, x := x, n := Sz.bytes x.sz, wr := true, sp := false, addr := s.indexed a b } : VAcc) =
    s.amoAcc 0x51 x a b := rfl
  rw [exec_vsta, execVsta]
  dsimp only
  rw [hf]
  refine (ha.vmem_eq _).trans ?_
  rw [hpre]
  dsimp only
  rw [hps.amos, List.isEmpty_map, show (s.amoAcc 0x51 x a b).x = x from rfl]
  cases hes : s.todo x with
  | nil => rfl
  | cons e es =>
    rw [State.pair_eq hdiv]
    rfl

include hl hst

/-- An unordered `VSTA` posts its elements. -/
theorem execVsta_posts (ht : x.t = .no) :
    ∃ t, exec (.vsta op x a b c) s = .next t ∧
      t.posted = s.posted ++ (s.todo x).map (fun e =>
        { p := s.myGang.p, job := s.myGang.job, elem := amoElem op (Sz.bytes x.sz) at_ (s.vel (.vec c)) e }) ∧
      StepBut Hart.sansCache hideNone hideNone (fun u => { u with posted := [] }) s t s.byteAt := by
  obtain ⟨ps, -, hexec⟩ := execVsta_places (op := op) hdiv ha
  rw [hexec, if_pos ht]
  by_cases hne : s.todo x = []
  · rw [if_pos hne, hne]
    refine ⟨_, rfl, ?_, ((Moved.refl hl).acquireV x).retire⟩
    have e := congrArg State.posted (State.acquireV_retired_device s x)
    exact e.trans (List.append_nil _).symm
  · rw [if_neg hne]
    have hv := State.Alike.of_release_if hst (releases x.ord)
    generalize (if releases x.ord = true then s.release else s) = v at hv
    refine ⟨_, rfl, ?_, ((hv.posting hl _ _ _).acquireV x).retire⟩
    have e := congrArg State.posted (State.acquireV_retired_device (v.posting s.myGang.p s.myGang.job
      ((s.todo x).map (amoElem op (Sz.bytes x.sz) at_ (s.vel (.vec c))))) x)
    have hp : v.posted = s.posted := by have e := congrArg State.posted hv.sansGangs; exact e
    refine e.trans ?_
    rw [State.posting, List.map_map, hp]
    rfl

/-- A `VSTA` with the right performs its elements in ascending order. -/
theorem execVsta_performs (ht : x.t ≠ .no) (hdir : s.direct (x.t == .tt) = true) (hredo : s.me.redo = []) (hw : s.memWf)
    (hr : ∀ e ∈ s.todo x, s.readPoison (at_ e).loc (Sz.bytes x.sz) = false ∧ s.writeRefused (at_ e).loc (Sz.bytes x.sz) = false) :
    ∃ t, exec (.vsta op x a b c) s = .next t ∧
      StepBut Hart.sansCache hideNone Gang.sansLog State.sansMem s t
        (amoRun op (Sz.bytes x.sz) (fun e => (at_ e).loc)
          (fun e => (s.vel (.vec c) e).toNat % 2 ^ (8 * Sz.bytes x.sz)) (s.todo x) s.byteAt).2 := by
  obtain ⟨ps, -, hexec⟩ := execVsta_places (op := op) hdiv ha
  rw [hexec, if_neg ht]
  by_cases hne : s.todo x = []
  · rw [if_pos hne, hne]
    exact ⟨_, rfl, ((Moved.refl hl).acquireV x).retire⟩
  · rw [if_neg hne]
    have hperf : ∀ y ∈ (s.todo x).map (amoElem op (Sz.bytes x.sz) at_ (s.vel (.vec c))), s.Performs y :=
      State.performs_amos (Sz.bytes_lt x.sz) (s.vel (.vec c)) (ha.no_io rfl rfl) hr
    obtain ⟨v, hv, he⟩ := State.ordered_direct (f := s.amoAcc 0x51 x a b) (fill := .none) (pins := ps.map fun q => q.2.2)
      (xs := (s.todo x).map (amoElem op (Sz.bytes x.sz) at_ (s.vel (.vec c))))
      (now := fun _ u z => u.storeEnd (s.amoAcc 0x51 x a b) ((s.amoAcc 0x51 x a b).stop z none))
      (later := fun u _ => u.storeEnd (s.amoAcc 0x51 x a b) none) hst hdir
    obtain ⟨w, hrun, hw'⟩ := (State.RunsTo.of_alike hv hw s.cur.gang).performOwn hredo s.myGang.p s.myGang.job hperf
    rw [elemRun_amoElem (Sz.bytes_pos x.sz)] at hw'
    have hmoved : Moved Hart.sansCache hideNone Gang.sansLog State.sansMem s w _ :=
      (hw'.moved hl rfl).weaken (fun _ _ e => e) (fun _ _ e => e) (fun _ _ e => e) fun _ _ e => State.sansMem_of_sansBytes e
    exact ⟨_, by rw [he, hrun]; rfl, (hmoved.acquireV x).retire⟩

/-- A `VSTA` without the right enters the commit buffer. -/
theorem execVsta_buffers (hb : Buffers s x) :
    ∃ v y, s.Entered v x at_ (amoElem op (Sz.bytes x.sz) at_ (s.vel (.vec c))) .none ∧
      exec (.vsta op x a b c) s = .next (v.acquireV y).retired := by
  obtain ⟨ps, hps, hexec⟩ := execVsta_places (op := op) hdiv ha
  rw [hexec]
  by_cases hne : s.todo x = []
  · exact ⟨s, x, State.entered_none hl hne _ _ _, by rw [if_pos hne]⟩
  · obtain ⟨v, hv, he⟩ := State.ordered_buffers (f := s.amoAcc 0x51 x a b) (fill := .none)
      (now := fun _ u z => u.storeEnd (s.amoAcc 0x51 x a b) ((s.amoAcc 0x51 x a b).stop z none))
      (later := fun u _ => u.storeEnd (s.amoAcc 0x51 x a b) none)
      (xs := (s.todo x).map (amoElem op (Sz.bytes x.sz) at_ (s.vel (.vec c)))) hst hl hb
      (el := amoElem op (Sz.bytes x.sz) at_ (s.vel (.vec c))) (fun _ => rfl) hps rfl rfl
    exact ⟨v, x, hv, by rw [if_neg hne, if_neg hb.ordered, he]; rfl⟩
end

/-! ### An atomic's entry performed (R38, R41) -/

theorem VReg.fill_el (v : VReg) (n : Nat) (sx : Bool) (l : List (Nat × Nat)) (k : Fin 128) :
    (v.fill n sx l).el[k] = ((found l k.val).map fun o => returned n sx o).getD v.el[k] := by
  unfold VReg.fill found
  dsimp only
  rw [vgen_getElem, vget_eq]
  cases l.find? fun q => q.1 == k.val <;> rfl

/-- A register that is filled when entry `num` is performed, where no later write has superseded it. -/
def Hart.put (h : Hart) (num n : Nat) (sx : Bool) (l : List (Nat × Nat)) (r : Fin 60) : Hart :=
  if h.fillV.contains (r, num) then
    { h with v := vmod h.v r fun v => v.fill n sx l, fillV := h.fillV.filter fun q => q ≠ (r, num) } else h
theorem Hart.fill_vector (h : Hart) (num n : Nat) (d : VdOp) (sx : Bool) (l : List (Nat × Nat)) :
    h.fill num (.v d sx) n l = ((d.map vdReg).elim h (h.put num n sx l)).put num n sx l 58 := by
  cases d <;> rfl
section
variable (h : Hart) (num n : Nat) (sx : Bool) (l : List (Nat × Nat)) (r k : Fin 60)
theorem Hart.put_v_same : (h.put num n sx l r).v[r] = if (r, num) ∈ h.fillV then h.v[r].fill n sx l else h.v[r] := by
  unfold Hart.put
  by_cases hc : (r, num) ∈ h.fillV
  · rw [if_pos (List.contains_iff_mem.mpr hc), if_pos hc]
    exact vmod_getElem_same _ _ _
  · rw [if_neg fun e => hc (List.contains_iff_mem.mp e), if_neg hc]
theorem Hart.put_v_other (hk : k ≠ r) : (h.put num n sx l r).v[k] = h.v[k] := by
  unfold Hart.put
  split
  · exact vmod_getElem_other _ _ _ _ hk
  · rfl
theorem Hart.mem_put_fillV (q : Fin 60 × Nat) : q ∈ (h.put num n sx l r).fillV ↔ q ∈ h.fillV ∧ q ≠ (r, num) := by
  unfold Hart.put
  by_cases hc : (r, num) ∈ h.fillV
  · rw [if_pos (List.contains_iff_mem.mpr hc)]
    simp
  · rw [if_neg fun e => hc (List.contains_iff_mem.mp e)]
    exact ⟨fun hq => ⟨hq, by rintro rfl; exact hc hq⟩, And.left⟩
end
/-- The registers of a filled hart: D and `l2`, where they still wait, receive the values. -/
theorem Hart.fill_v (h : Hart) (num n : Nat) (d : VdOp) (sx : Bool) (l : List (Nat × Nat)) (k : Fin 60) :
    (h.fill num (.v d sx) n l).v[k] =
      if (k = 58 ∨ d.map vdReg = some k) ∧ (k, num) ∈ h.fillV then h.v[k].fill n sx l else h.v[k] := by
  rw [Hart.fill_vector]
  cases d with
  | none =>
    show (h.put num n sx l 58).v[k] = _
    by_cases hk : k = 58
    · subst hk
      simp only [Hart.put_v_same, true_or, true_and]
    · rw [Hart.put_v_other _ _ _ _ _ _ _ hk, if_neg]
      exact fun h => h.1.elim hk nofun
  | some r =>
    have hr : vdReg r ≠ 58 := fun e => absurd (congrArg Fin.val e) (by show r.val ≠ 58; omega)
    show ((h.put num n sx l (vdReg r)).put num n sx l 58).v[k] = _
    by_cases hk : k = 58
    · subst hk
      simp only [Hart.put_v_same, Hart.mem_put_fillV, Hart.put_v_other _ _ _ _ _ _ _ hr.symm, ne_eq, Prod.mk.injEq, hr.symm,
        not_false_eq_true, and_true, true_or, true_and]
    · rw [Hart.put_v_other _ _ _ _ _ _ _ hk]
      by_cases hd : k = vdReg r
      · subst hd
        simp only [Hart.put_v_same, Option.map_some, or_true, true_and]
      · rw [Hart.put_v_other _ _ _ _ _ _ _ hd, if_neg]
        exact fun h => h.1.elim hk fun e => hd (Option.some.inj e).symm
theorem Hart.mem_fill_fillV (h : Hart) (num n : Nat) (d : VdOp) (sx : Bool) (l : List (Nat × Nat)) (q : Fin 60 × Nat) :
    q ∈ (h.fill num (.v d sx) n l).fillV ↔ q ∈ h.fillV ∧ ¬ (q.2 = num ∧ (q.1 = 58 ∨ d.map vdReg = some q.1)) := by
  obtain ⟨r, m⟩ := q
  rw [Hart.fill_vector, Hart.mem_put_fillV]
  cases d with
  | none =>
    show (r, m) ∈ h.fillV ∧ _ ↔ _
    simp [and_comm]
  | some k =>
    show (r, m) ∈ (h.put num n sx l (vdReg k)).fillV ∧ _ ↔ _
    rw [Hart.mem_put_fillV]
    simp only [ne_eq, Prod.mk.injEq, Option.map_some, Option.some.injEq, eq_comm (a := vdReg k)]
    tauto

/-- A run of elements in one gang leaves it there, and its state saved or not as it was. -/
theorem State.RunsTo.gang_frames {s u : State} {k : Nat} {m : Loc → Byte} (h : s.RunsTo u k m) {v : Nat}
    (hg : (s.gang? v).isSome) : (u.gang? v).isSome ∧ (u.gang v).frames = (s.gang v).frames := by
  obtain ⟨F, hF, hgang⟩ := h.gangs
  obtain ⟨g, hg'⟩ := Option.isSome_iff_exists.mp hg
  have hframes : (F g).frames = g.frames := by have e := congrArg Gang.frames (hF g); exact e
  unfold State.gang
  rw [hgang, hg']
  split
  · exact ⟨rfl, hframes⟩
  · exact ⟨rfl, rfl⟩

section
variable {s : State} {e : Entry} {j : Job} {op : AmoOp} {d : VdOp} {sx : Bool} {n : Nat} {es : List Nat} {at_ : Nat → Loc}
  {x : Nat → Word} {z : List (Nat × Nat) × (Loc → Byte)}

/-- The right comes to a ticket with one atomic's entry: its elements are performed, and their old values fill its registers. -/
theorem execCommitRightPass_amos (hw : s.memWf) (he : s.entries = [e]) (hj : s.job? e.p e.job = some j)
    (hlt : j.right < j.tickets) (hclosed : j.right ∈ j.sealedT ∨ j.right ∈ j.voidedT) (ht : e.ticket = j.right + 1)
    (htree : e.tree = false) (hv : e.vec = true) (hfill : e.fill = .v d sx) (hes : es ≠ []) (hn : n = 4 ∨ n = 8)
    (helems : e.elems = es.map fun k => { e := k, loc := at_ k, n := n, op := .amo op (x k) })
    (hg : (s.gang? e.h.gang).isSome) (hf : (s.gang e.h.gang).frames = none) (hredo : (s.hart e.h).redo = [])
    (hr : ∀ k ∈ es, s.readPoison (at_ k) n = false ∧ s.writeRefused (at_ k) n = false ∧ (at_ k).kind ≠ .io)
    (hz : z = amoRun op n at_ (fun k => (x k).toNat % 2 ^ (8 * n)) es s.byteAt) :
    ∃ t b, exec (.commitRightPass e.p e.job false) s = .next t ∧ t.entries = [] ∧ (∀ l, t.byteAt l = z.2 l) ∧
      ∃ c, t.hart e.h = { ({ s.hart e.h with evt := b }).fill e.num (.v d sx) n z.1 with cache := c } := by
  obtain ⟨b, hhart⟩ := State.handed_hart s e.p e.job e.h hg
  have hn' : 0 < n ∧ n < 128 := by omega
  have hperf : ∀ y ∈ e.elems, (s.handed e.p e.job).Performs y := by
    intro y hy
    rw [helems] at hy
    obtain ⟨k, hk, rfl⟩ := List.mem_map.mp hy
    obtain ⟨hp, href, hio⟩ := hr k hk
    exact ⟨hn'.2, href, hp, fun _ => hio, fun _ hbs => nomatch hbs⟩
  obtain ⟨w, hord, hrun⟩ := (State.RunsTo.of_alike (.refl (s.handed e.p e.job)) hw e.h.gang).performOrdered
    (by rw [hhart]; exact hredo) e.num e.p e.job hperf
  have hamo : elemRun e.elems (s.handed e.p e.job).byteAt = z := by
    rw [hz, helems]; exact elemRun_amos hn'.1 op at_ x es _
  rw [hamo] at hord hrun
  obtain ⟨hsome, hframes⟩ := hrun.gang_frames (State.handed_gang_isSome s e.p e.job hg)
  obtain ⟨⟨gs, hdone⟩, hfilled⟩ := State.performEntry_done hv hord hsome
    (hframes.trans ((State.handed_frames s e.p e.job hg).trans hf))
  have hent : w.entries = [e] := by have h := congrArg State.entries hrun.device; exact h.trans he
  have hhead : (e.elems.map OrdElem.n).headD 8 = n := by
    rw [helems]
    cases es with
    | nil => exact absurd rfl hes
    | cons k es => rfl
  refine ⟨_, b, execCommitRightPass_performs he hj hlt hclosed ht htree, ?_, fun l => ?_, ?_⟩
  · rw [hdone, hent]; simp
  · rw [hdone, ← hrun.memory l]
    unfold State.byteAt State.memOf; rfl
  · rw [hfilled, hrun.hart, hhart, Hart.filledBy, hhead, hfill]
    exact ⟨_, rfl⟩
end

/-- Settles O41: atomics performed as they issue, posted, buffered, or performed when the right comes to them. -/
theorem vectorAtomicsRunInElementOrder : Obligations.VectorAtomicsRunInElementOrder := by
  unfold Obligations.VectorAtomicsRunInElementOrder
  refine ⟨fun s op x d a b c at_ n z hl hw hst hdiv hn _ ha => ⟨fun hcond hr hz => ?vamo, fun hb hne => ?vamoBuffered⟩,
    fun s op x a b c at_ n hl hst hdiv hn _ ha => ⟨fun ht => ?posted, fun ht hdir hredo hw hr => ?vsta, fun hb => ?vstaBuffered⟩,
    fun s e j op d sx n es at_ x z hw he hj hlt hclosed ht htree hv hfill hes hn helems hg hf hredo hr hz => ?right⟩
  case vamo =>
    subst hn
    obtain ⟨w, hrun, hexec⟩ := execVamo_performs hst hdiv ha hw hcond hr hz
    have hlist : z.1.map Prod.fst = s.todo x := by rw [hz]; exact amoRun_elements _ _ _ _ _ _
    rw [hexec]
    exact hrun.vamo_end hl ha.user x d a b hlist
  case vamoBuffered =>
    subst hn
    obtain ⟨v, hv, hexec⟩ := execVamo_buffers hl hst hdiv ha hb hne
    obtain ⟨hent, hfills, hstep⟩ := hv.vamo_end (d := d) ha.user (fun _ => rfl) a b
      ((List.range (groupsOf (s.todo x)).length).map fun i => s.nextEntry + i) rfl
    have hmem {k : Nat} (hk : k < (groupsOf (s.todo x)).length) :
        s.nextEntry + k ∈ (List.range (groupsOf (s.todo x)).length).map fun i => s.nextEntry + i :=
      List.mem_map.mpr ⟨k, List.mem_range.mpr hk, rfl⟩
    exact ⟨_, hexec, hent, fun k hk => ⟨hfills _ (hmem hk) _ (.inl rfl), fun r hr => hfills _ (hmem hk) _ (.inr (by rw [hr]; rfl))⟩,
      hstep⟩
  case posted => exact execVsta_posts hl hst hdiv ha ht
  case vsta =>
    subst hn
    exact execVsta_performs hl hst hdiv ha ht hdir hredo hw hr
  case vstaBuffered =>
    subst hn
    obtain ⟨v, y, hv, hexec⟩ := execVsta_buffers hl hst hdiv ha hb
    exact ⟨_, hexec, hv.retires y⟩
  case right =>
    obtain ⟨t, b, hexec, hent, hmem, cache, hhart⟩ := execCommitRightPass_amos hw he hj hlt hclosed ht htree hv hfill hes hn
      helems hg hf hredo hr hz
    refine ⟨t, hexec, hent, hmem, fun r k => ?_, fun q => ?_⟩
    · rw [hhart]
      refine (congrArg (fun v : VReg => v.el[k]) (Hart.fill_v _ e.num n d sx z.1 r)).trans ?_
      split
      · exact (VReg.fill_el _ n sx z.1 k).trans (by rw [found, Option.map_map]; rfl)
      · rfl
    · rw [hhart]
      exact Hart.mem_fill_fillV _ e.num n d sx z.1 q

end Sys2Proof.Machine
end


section
/-!
SUPPORT. The forms of the register instructions of opcodes 0x30 to 0x38 (R200), as every state with the same tags and the
same rounding modes takes them, for O43: an instruction that pops streams is checked before its strips are delivered, and
forms its result after.
-/

namespace Sys2Proof.Machine

/-! ### What a form takes from its state -/

/-- Two states in which an instruction has the same form: the tags of the registers, the scalar operands and the rounding
modes agree. -/
structure FormAlike (v u : State) : Prop where
  tags : ∀ k : Fin 60, v.me.v[k].tag = u.me.v[k].tag
  rg : ∀ b, v.rg b = u.rg b
  rmode : ∀ r, v.rmode r = u.rmode r
theorem FormAlike.refl (u : State) : FormAlike u u := ⟨fun _ => rfl, fun _ => rfl, fun _ => rfl⟩
theorem FormAlike.dTag {v u : State} (h : FormAlike v u) (d : VdOp) : v.dTag d = u.dTag d := by
  cases d with
  | none => rfl
  | some r => exact h.tags (vdReg r)
theorem FormAlike.vtag {v u : State} (h : FormAlike v u) (x : VsOp) : v.vtag x = u.vtag x := by
  cases x with
  | vec r => exact congrArg some (h.tags r)
  | g _ => rfl
  | zero => rfl

section
variable {x u : State} (h : x.me = u.me)
include h
theorem State.vel_of_me : x.vel = u.vel := by
  funext a e
  cases a with
  | vec r => exact congrArg (fun y : Hart => vget y.v[r].el e 0) h
  | g r => exact congrArg (fun y : Hart => y.g[r]) h
  | zero => rfl
theorem State.active_of_me : x.active = u.active := by unfold State.active; rw [h]
theorem State.elementwise_of_me : x.elementwise = u.elementwise := by
  unfold State.elementwise State.r52; rw [State.active_of_me h]
theorem State.moves_of_me : x.moves = u.moves := by unfold State.moves; rw [State.active_of_me h]
theorem State.rmode_of_me : x.rmode = u.rmode := by unfold State.rmode State.atS; rw [h]
theorem State.mreg_of_me : x.mreg = u.mreg := by unfold State.mreg; rw [h]
theorem State.elAt_of_me : x.elAt = u.elAt := by unfold State.elAt; rw [h]
theorem State.dold_of_me : x.dold = u.dold := by unfold State.dold; rw [h]
/-- All that the result of a form reads in its state. -/
theorem State.reads_of_me : x.me = u.me ∧ x.vel = u.vel ∧ x.active = u.active ∧ x.elementwise = u.elementwise ∧
    x.moves = u.moves ∧ x.rmode = u.rmode ∧ x.mreg = u.mreg ∧ x.elAt = u.elAt ∧ x.dold = u.dold :=
  ⟨h, State.vel_of_me h, State.active_of_me h, State.elementwise_of_me h, State.moves_of_me h, State.rmode_of_me h,
    State.mreg_of_me h, State.elAt_of_me h, State.dold_of_me h⟩
end

/-- The form f serves the instruction in every state alike to u; in u its sources pass its check on the tag t, it takes the
present `vl`, and its result is the row r, which is formed from the hart alone. -/
structure FormsRow (u : State) (i : Instr) (srcs : List VsOp) (f : VForm) (t : Tag) (r : VRow) : Prop where
  runs : ∀ v, FormAlike v u → exec i v = v.vec f
  sources : f.srcs = srcs
  typed : ∀ a, VsOp.vec a ∈ srcs → u.me.v[a].tag ≠ .none
  check : f.check (srcs.map u.vtag) = .ok (t, r.tag)
  length : f.badvl t u.me.vl = false
  row : u.rowOf f t r.tag = r
  alone : ∀ x : State, x.me = u.me → f.res x t u.me.vl = f.res u t u.me.vl

/-- The instruction has a form whose result is the row r. -/
def HasForm (u : State) (i : Instr) (srcs : List VsOp) (r : VRow) : Prop := ∃ f t, FormsRow u i srcs f t r
theorem HasForm.of {u : State} {i : Instr} {srcs : List VsOp} {f : VForm} {t : Tag} {r : VRow}
    (runs : ∀ v, FormAlike v u → exec i v = v.vec f) (sources : f.srcs = srcs)
    (typed : ∀ a, VsOp.vec a ∈ srcs → u.me.v[a].tag ≠ .none) (check : f.check (srcs.map u.vtag) = .ok (t, r.tag))
    (length : f.badvl t u.me.vl = false) (row : u.rowOf f t r.tag = r)
    (alone : ∀ x : State, x.me = u.me → f.res x t u.me.vl = f.res u t u.me.vl := by
      intro x hx; simp only [State.reads_of_me hx]) : HasForm u i srcs r :=
  ⟨f, t, runs, sources, typed, check, length, row, alone⟩

/-! ### Element-wise instructions -/

/-- The instruction runs in the element-wise form in every state alike to u; of the tags but `none` that `ok` accepts, its
check accepts each, with its SAT bit, and its result on them is that of `f`. -/
def ElemForms (u : State) (i : Instr) (q : VMod) (d : VdOp) (srcs : List VsOp) (ok : Tag → Bool)
    (f : Tag → Nat → (Nat → Word) → Word × Flags) : Prop :=
  ∃ op cls satOk g, (∀ v, FormAlike v u → exec i v = v.perElem op q d srcs cls satOk g) ∧
    ∀ t, t ≠ .none → ok t = true → cls t = true ∧ (q.sat && !satOk t) = false ∧ ∀ x : State, x.me = u.me →
      ∀ e y, g x t e y = f t e y

section
variable {u : State} {i : Instr} {q : VMod} {d : VdOp}

theorem ElemForms.of_lanes {srcs : List VsOp} {ok cls satOk : Tag → Bool} {f f' : Tag → Nat → Nat → Nat → Nat × Flags}
    {op : Nat}
    (hrun : ∀ v, FormAlike v u → exec i v = v.perLane op q d srcs cls satOk f)
    (hok : ∀ t, ok t = true → cls t = true ∧ (q.sat && !satOk t) = false)
    (hf : ∀ t, cls t = true → ∀ a b c, a < 2 ^ tagWidth t → b < 2 ^ tagWidth t → c < 2 ^ tagWidth t →
      f t a b c = f' t a b c) : ElemForms u i q d srcs ok fun t _ => onLanes f' t := by
  refine ⟨op, cls, satOk, _, hrun, fun t _ h => ?_⟩
  obtain ⟨hc, hs⟩ := hok t h
  exact ⟨hc, hs, fun _ _ _ y => onLanes_congr (hf t hc) y⟩
/-- A function that the form has lane by lane. -/
theorem ElemForms.of_same {srcs : List VsOp} {ok cls satOk : Tag → Bool} {f : Tag → Nat → Nat → Nat → Nat × Flags}
    {op : Nat}
    (hrun : ∀ v, FormAlike v u → exec i v = v.perLane op q d srcs cls satOk f)
    (hok : ∀ t, ok t = true → cls t = true ∧ (q.sat && !satOk t) = false) :
    ElemForms u i q d srcs ok fun t _ => onLanes f t := .of_lanes hrun hok fun _ _ _ _ _ _ _ _ => rfl
/-- Arithmetic lane by lane, in the rounding mode of the state (R74, R78). -/
theorem ElemForms.of_arith {srcs : List VsOp} {ok cls satOk : Tag → Bool} {fi : Int → Int → Int → Int}
    {ff : FVal → FVal → FVal → List Term}
    (hrun : ∀ v : State, exec i v = v.perLane 0x31 q d srcs cls satOk (arith q.sat (v.rmode q.rm) fi ff))
    (hok : ∀ t, ok t = true → cls t = true ∧ (q.sat && !satOk t) = false)
    (hcls : ∀ t, cls t = true → tagKind t ≠ .untyped) :
    ElemForms u i q d srcs ok fun t _ => onLanes (fun t => arithLane q (u.rmode q.rm) t fi ff) t :=
  .of_lanes (fun v hv => by rw [hrun, hv.rmode]) hok fun _ ht _ _ _ ha hb hc =>
    arith_eq_arithLane q (u.rmode q.rm) fi ff (hcls _ ht) ha hb hc
/-- A function of the float lanes of one source. -/
theorem ElemForms.of_special {a : VsOp} {cls : Tag → Bool} {f : Fmt → Nat → Nat × Flags}
    (hrun : ∀ v, FormAlike v u → exec i v = v.special q d a cls f) :
    ElemForms u i q d [a] (fun t => cls t && !q.sat) fun t _ => onFloats f t :=
  .of_lanes hrun accepts_noSat fun t _ _ _ _ _ _ _ => by cases tagKind t <;> rfl
/-- A bitwise function of two sources, on every tag. -/
theorem ElemForms.of_bitwise {a b : VsOp} {f : Word → Word → Word} (hrun : ∀ v : State, exec i v = v.bitwise q d a b f) :
    ElemForms u i q d [a, b] (fun _ => !q.sat) fun _ _ x => (f (x 0) (x 1), 0) :=
  ⟨0x31, isAny, noSat, _, fun v _ => hrun v, fun _ ht h => ⟨bne_iff_ne.mpr ht, noSat_clear _ h, fun _ _ _ _ => rfl⟩⟩
/-- A complex function (Table 9-6). -/
theorem ElemForms.of_vcpx {srcs : List VsOp} {f : Tag → (Nat → Word) → Word × Flags}
    (hrun : ∀ v, FormAlike v u → exec i v = v.vcpx q d srcs f) :
    ElemForms u i q d srcs (fun t => isComplex t && (!q.sat || isCI t)) fun t _ x => f t x :=
  ⟨0x35, isComplex, isCI, _, hrun, fun _ _ h => ⟨(accepts_sat h).1, (accepts_sat h).2, fun _ _ _ _ => rfl⟩⟩
end

/-- Every element-wise instruction has the element-wise form in all alike states. -/
theorem ElementOp.elemForms {u : State} {i : Instr} {q : VMod} {d : VdOp} {srcs : List VsOp} {ok : Tag → Bool}
    {f : Tag → Nat → (Nat → Word) → Word × Flags} (h : ElementOp u i q d srcs ok f) : ElemForms u i q d srcs ok f := by
  cases h with
  | vadd => exact .of_arith (exec_vadd _ _ _ _) accepts_add clsAdd_typed
  | vsub => exact .of_arith (exec_vsub _ _ _ _) accepts_add clsAdd_typed
  | vmul => exact .of_arith (exec_vmul _ _ _ _) (fun _ => accepts_sat) clsMul_typed
  | vfma => exact .of_arith (exec_vfma _ _ _ _ _) (fun _ => accepts_sat) clsMul_typed
  | vfms => exact .of_arith (exec_vfms _ _ _ _ _) (fun _ => accepts_sat) clsMul_typed
  | vfnma => exact .of_arith (exec_vfnma _ _ _ _ _) (fun _ => accepts_sat) clsMul_typed
  | vmulh =>
    refine .of_lanes (fun v _ => exec_vmulh _ _ _ _ v) accepts_noSat fun t ht x y _ hx hy _ => ?_
    have hv {n : Nat} (hn : n < 2 ^ tagWidth t) : intVal (isIS t) (tagWidth t) n = laneValue t n := by
      rw [← intVal_lane hn, isCI_of_isI ht, Bool.or_false]
    simp only [hv hx, hv hy, laneResult_wraps, Nat.cast_pow, Nat.cast_ofNat]
  | vmin => exact .of_same (fun v _ => exec_vmin _ _ _ _ v) accepts_noSat
  | vmax => exact .of_same (fun v _ => exec_vmax _ _ _ _ v) accepts_noSat
  | vabs => exact .of_same (fun v _ => exec_vabs _ _ _ v) fun _ => accepts_sat
  | vneg =>
    exact .of_same (fun v _ => exec_vneg _ _ _ v) fun t h => accepts_sat (by simpa only [Bool.or_assoc] using h)
  | vand => exact .of_bitwise (exec_vand _ _ _ _)
  | vor => exact .of_bitwise (exec_vor _ _ _ _)
  | vxor => exact .of_bitwise (exec_vxor _ _ _ _)
  | vshl =>
    exact .of_lanes (fun v _ => exec_vshl _ _ _ _ v) accepts_noSat fun _ _ _ _ _ _ _ _ => by rw [Nat.shiftLeft_eq]
  | vshr =>
    exact .of_lanes (fun v _ => exec_vshr _ _ _ _ v) accepts_noSat fun _ _ _ _ _ _ _ _ => by
      rw [Nat.shiftRight_eq_div_pow]
  | vsar =>
    exact .of_lanes (fun v _ => exec_vsar _ _ _ _ v) accepts_noSat fun _ _ _ _ _ _ _ _ => by
      simp only [Nat.cast_pow, Nat.cast_ofNat]
  | vclz => exact .of_same (fun v _ => exec_vclz _ _ _ v) accepts_noSat
  | vpopc => exact .of_same (fun v _ => exec_vpopc _ _ _ v) accepts_noSat
  | vsel =>
    exact ⟨0x31, isAny, noSat, _, fun v _ => exec_vsel _ _ _ _ _ v, fun t ht h =>
      ⟨bne_iff_ne.mpr ht, noSat_clear t h, fun x hx e y => by rw [State.mreg_of_me hx]⟩⟩
  | vrcp => exact .of_special fun v _ => exec_vrcp _ _ _ v
  | vrsqrt => exact .of_special fun v _ => exec_vrsqrt _ _ _ v
  | vexp2 => exact .of_special fun v _ => exec_vexp2 _ _ _ v
  | vlog2 => exact .of_special fun v _ => exec_vlog2 _ _ _ v
  | vsqrt => exact .of_special fun v hv => by rw [exec_vsqrt, execVsqrt, hv.rmode]
  | vdiv =>
    refine .of_lanes (fun v hv => by rw [exec_vdiv, execVdiv, hv.rmode]) accepts_noSat fun t _ _ _ _ _ _ _ => ?_
    cases tagKind t <;> rfl
  | vcmul => exact .of_vcpx fun v hv => by rw [exec_vcmul, execVcmul, hv.rmode]; rfl
  | vcmac => exact .of_vcpx fun v hv => by rw [exec_vcmac, execVcmac, hv.rmode]; rfl
  | vconj => exact .of_vcpx fun v _ => exec_vconj _ _ _ v
  | vcabs2 => exact .of_vcpx fun v hv => by rw [exec_vcabs2, execVcabs2, hv.rmode]
  | vcrot => exact .of_vcpx fun v _ => exec_vcrot _ _ _ _ v

/-! ### Rows -/

/-- An element-wise instruction whose sources share a tag that it accepts has its form and its row. -/
theorem ElemForms.formsRow {u : State} {i : Instr} {q : VMod} {d : VdOp} {srcs : List VsOp} {ok : Tag → Bool}
    {f : Tag → Nat → (Nat → Word) → Word × Flags} {t : Tag} (h : ElemForms u i q d srcs ok f) (ht : Tagged u srcs t)
    (hok : ok t = true) :
    ∃ F, FormsRow u i srcs F t
      { d := d, last := some (vaLast q.p), tag := t, put := u.under q fun e =>
          (f t e fun k => u.vel (srcs.getD k .zero) e).1,
        fl := u.flagsOn q fun e => (f t e fun k => u.vel (srcs.getD k .zero) e).2, mask := none } := by
  obtain ⟨op, cls, satOk, g, hrun, haccepts⟩ := h
  obtain ⟨hc, hs, hg⟩ := haccepts t ht.1 hok
  have hsat : q.sat = false ∨ satOk t = true := by simpa [← Bool.not_eq_true, or_iff_not_imp_left] using hs
  have hres (x : State) (hx : x.me = u.me) : (elemForm op q d srcs cls satOk g).res x t u.me.vl =
      u.elementwise q u.me.vl fun e => f t e fun k => u.vel (srcs.getD k .zero) e := by
    simp only [elemForm, hg x hx, State.elementwise_of_me hx, State.vel_of_me hx]
  exact ⟨elemForm op q d srcs cls satOk g, hrun, rfl, ht.typed, classCheck_tagged ht hc hsat, rfl,
    State.rowOf_elementwise (hres u rfl) t, fun x hx => (hres x hx).trans (hres u rfl).symm⟩

/-- A carry or borrow form writes the row of its words and carries (R208). -/
theorem State.carry_hasForm {u : State} {i : Instr} {q : VMod} {d : VdOp} {a b : VsOp} {c : MOp}
    {f : Int → Int → Int → Int}
    (hexec : ∀ v : State, exec i v = v.carry q d a b c f) (ht : Tagged u [a, b] .n64) (hs : q.sat = false)
    {val : Nat → Word}
    {out : Fin 16 → Nat → Bool}
    (hval : ∀ e, BitVec.ofInt 64 (f (u.vel a e).toNat (u.vel b e).toNat (oneIf ((u.mreg c).getLsbD e)).toNat) = val e)
    (hout : ∀ m e, c = some m →
      let x := f (u.vel a e).toNat (u.vel b e).toNat (oneIf (u.me.m[m].getLsbD e)).toNat
      ((2 ^ 64 : Nat) ≤ x ∨ x < 0 ↔ out m e = true)) :
    HasForm u i [a, b]
      { d := d, last := some (vaLast q.p), tag := .n64, put := u.under q val, fl := 0,
        mask := c.map fun m => (m, maskOf fun e => if u.on q e then out m e else u.me.m[m].getLsbD e) } := by
  refine .of (fun v _ => hexec v) rfl ht.typed (classCheck_tagged ht rfl (.inl hs)) rfl
    ((State.rowOf_elementwise rfl _).trans ?_)
  simp only [word_wrap64, intOf_bit, hval, State.flagsOn_zero, VRow.mk.injEq, true_and]
  cases c with
  | none => rw [Option.map_none, Option.map_none]
  | some m =>
    have hcarry (e : Nat) := (Bool.decide_congr (hout m e rfl)).trans (Bool.decide_coe _)
    exact congrArg (fun w => some (m, maskOf w)) (funext fun e => ite_congr rfl (fun _ => hcarry e) fun _ => rfl)

/-- The form of `VMOV`, where D has the tag `old`, which a scalar takes (R206). -/
def movForm (d : VdOp) (a : VsOp) (old : Tag) : VForm :=
  { op := 0x30, srcs := [a], d := d, last := some 59,
    check := fun tags => match tags with
      | [some t] => .ok (t, t)
      | _ => if old = .none then .error (typeTrap .type a) else .ok (old, old),
    badvl := fun _ _ => false,
    res := fun u _ vl => u.elementwise VMod.plain vl fun e => (u.vel a e, 0) }
theorem exec_vmov_form (d : VdOp) (a : VsOp) (v : State) : exec (.vmov d a) v = v.vec (movForm d a (v.dTag d)) := rfl
theorem movForm_alone (d : VdOp) (a : VsOp) (old t : Tag) (n : Nat) {x u : State} (h : x.me = u.me) :
    (movForm d a old).res x t n = (movForm d a old).res u t n := by
  simp only [movForm, State.reads_of_me h]
theorem State.rowOf_movForm (u : State) (d : VdOp) (a : VsOp) (old t r : Tag) : u.rowOf (movForm d a old) t r =
    { d := d, last := some 59, tag := r, put := fun e => if e < u.me.vl then some (u.vel a e) else none, fl := 0,
      mask := none } := by
  rw [State.rowOf_elementwise rfl, State.under_plain, State.flagsOn_zero]
  rfl

theorem MoveOp.hasForm {u : State} {i : Instr} {srcs : List VsOp} {r : VRow} (h : MoveOp u i srcs r) :
    HasForm u i srcs r := by
  have hmov (d : VdOp) (a : VsOp) (v : State) (hv : FormAlike v u) :
      exec (.vmov d a) v = v.vec (movForm d a (u.dTag d)) := by rw [exec_vmov_form, hv.dTag]
  cases h with
  | vmov d a ht =>
    exact .of (hmov _ _) rfl (Tagged.single ht).typed rfl rfl (u.rowOf_movForm _ _ _ _ _) fun _ => movForm_alone _ _ _ _ _
  | vmovScalar d a ha ht =>
    have hscalar : u.vtag a = none := by
      cases a with
      | vec r => cases ha
      | g _ => rfl
      | zero => rfl
    refine .of (t := u.me.v[vdReg d].tag) (hmov _ _) rfl (fun r hr => ?typed) ?check rfl
      (u.rowOf_movForm _ _ _ _ _) fun _ => movForm_alone _ _ _ _ _
    case typed =>
      obtain rfl : VsOp.vec r = a := by simpa using hr
      cases ha
    case check =>
      rw [List.map_singleton, hscalar]
      exact if_neg ht
  | vaddc q d a b c ht hs =>
    refine State.carry_hasForm (exec_vaddc _ _ _ _ _) ht hs (fun e => ?_) fun m e _ => ?_
    · rw [BitVec.ofInt_add, BitVec.ofInt_add, ofInt_toNat_word, ofInt_toNat_word, ofInt_toNat_word]
    · rw [decide_eq_true_iff]; omega
  | vsubb q d a b c ht hs =>
    refine State.carry_hasForm (exec_vsubb _ _ _ _ _) ht hs (fun e => ?_) fun m e _ => ?_
    · rw [Int.sub_eq_add_neg, Int.sub_eq_add_neg, BitVec.ofInt_add, BitVec.ofInt_add, BitVec.ofInt_neg, BitVec.ofInt_neg,
        ofInt_toNat_word, ofInt_toNat_word, ofInt_toNat_word, ← BitVec.sub_eq_add_neg, ← BitVec.sub_eq_add_neg]
    · rw [decide_eq_true_iff]; omega
  | vcmp q cc d a b t ht hc =>
    refine .of (fun v _ => exec_vcmp _ _ _ _ _ v) rfl ht.typed (classCheck_tagged ht hc (.inl rfl)) rfl ?_
    simp only [State.rowOf, State.elementwise_fl, State.compared_eq]
  | vcvt q t p d a ht hc hp hs =>
    refine .of (fun v _ => exec_vcvt _ _ _ _ _ v) rfl (Tagged.single ht).typed ?_ rfl (State.rowOf_elementwise rfl _)
    obtain ⟨hkind, hpart⟩ := conv_accepts hc hp hs
    exact (if_neg (Bool.not_eq_true _ ▸ hkind)).trans (if_neg (Bool.not_eq_true _ ▸ hpart))

theorem SignalOp.hasForm {u : State} {i : Instr} {srcs : List VsOp} {r : VRow} (h : SignalOp u i srcs r) :
    HasForm u i srcs r := by
  cases h with
  | vbfly q h d a b t ht hc hs hv =>
    refine .of (fun v _ => exec_vbfly _ _ _ _ _ v) rfl ht.typed (classCheck_tagged ht hc hs)
      (by simpa using hv) ((State.rowOf_elementwise rfl _).trans ?_)
    simp only [byExpr_butterfly]
  | vgjstep q n p d a ht hv =>
    obtain ⟨-, hsrcs, htyped, hcheck⟩ := runsIn_of_oneTag (exec_vgjstep q n p d a u) rfl rfl ht (by decide)
    exact .of (fun v _ => exec_vgjstep _ _ _ _ _ v) hsrcs htyped hcheck (by simpa using hv)
      ((State.rowOf_elementwise rfl _).trans rfl)
  | vbfpexp q w d a ht hv hb =>
    obtain ⟨-, hsrcs, htyped, hcheck⟩ := runsIn_of_oneTag (exec_vbfpexp q w d a u) rfl rfl ht (by decide)
    refine .of (fun v _ => exec_vbfpexp _ _ _ _ v) hsrcs htyped hcheck (prbBad_false hv hb)
      ((State.rowOf_elementwise rfl _).trans ?_)
    simp only [clamp16_eq_laneResult, State.flagsOn_zero, Nat.cast_pow, Nat.cast_ofNat]
  | vbfpcmp q w d a ht hv hb =>
    obtain ⟨-, hsrcs, htyped, hcheck⟩ := runsIn_of_oneTag (exec_vbfpcmp q w d a u) rfl rfl ht (by decide)
    exact .of (fun v _ => exec_vbfpcmp _ _ _ _ v) hsrcs htyped hcheck (prbBad_false hv hb) rfl

/-- A permute whose sources pass its check writes what its result sets. -/
theorem State.permute_hasForm {u : State} {i : Instr} {d : VdOp} {srcs : List VsOp}
    {check : List (Option Tag) → Except TrapInfo (Tag × Tag)} {res : State → Nat → VRes} {t : Tag}
    {put : Nat → Option Word}
    (hexec : ∀ v, FormAlike v u → exec i v = v.permute d srcs check res)
    (ht : ∀ a, VsOp.vec a ∈ srcs → u.me.v[a].tag ≠ .none)
    (hc : check (srcs.map u.vtag) = .ok (t, t)) (hres : res u u.me.vl = { put := put, fl := 0, mask := none })
    (halone : ∀ x : State, x.me = u.me → res x u.me.vl = res u u.me.vl := by
      intro x hx; simp only [State.reads_of_me hx]) :
    HasForm u i srcs { d := d, last := some 59, tag := t, fl := 0, mask := none, put := put } :=
  ⟨_, t, hexec, rfl, ht, hc, rfl, by simp only [State.rowOf, hres], halone⟩

theorem PermuteOp.hasForm {u : State} {i : Instr} {srcs : List VsOp} {r : VRow} (h : PermuteOp u i srcs r) :
    HasForm u i srcs r := by
  cases h with
  | vslideup q d a b ht =>
    exact State.permute_hasForm (fun v hv => by rw [exec_vslideup, execVslideup, hv.rg]) (Tagged.single ht).typed
      rfl (u.moves_eq _ _)
  | vslidedn q d a b ht =>
    exact State.permute_hasForm (fun v hv => by rw [exec_vslidedn, execVslidedn, hv.rg]) (Tagged.single ht).typed
      rfl (u.moves_eq _ _)
  | vperm q d a b ht hb =>
    have hindex : u.me.v[b].tag ≠ .none := by rcases hb with hb | hb <;> rw [hb] <;> decide
    refine State.permute_hasForm (fun v _ => exec_vperm _ _ _ _ v) (typed_pair ht hindex) (tagOfA_pair ?_)
      (u.moves_eq _ _)
    rcases hb with hb | hb <;> rw [hb] <;> rfl
  | vbcast q d a b ht =>
    exact State.permute_hasForm (fun v hv => by rw [exec_vbcast, execVbcast, hv.rg]) (Tagged.single ht).typed
      rfl (u.moves_eq _ _)
  | vcompress q d a c ht =>
    refine State.permute_hasForm (fun v _ => exec_vcompress _ _ _ _ v) (Tagged.single ht).typed rfl ?_
    simp only [getElem?_setBelow]
  | vexpand q d a c ht =>
    exact State.permute_hasForm (fun v _ => exec_vexpand _ _ _ _ v) (Tagged.single ht).typed rfl rfl
  | viota q d c => exact State.permute_hasForm (fun v _ => exec_viota _ _ _ v) (by simp) rfl rfl
  | vzip q d a b ht hb =>
    refine State.permute_hasForm (fun v _ => exec_vzip _ _ _ _ v) (typed_pair ht (hb.trans_ne ht))
      (tagOfA_pair (beq_iff_eq.mpr hb.symm)) ((u.moves_eq _ _).trans ?_)
    congr 2
    exact funext fun e => congrArg some (apply_ite (u.elAt · (e / 2)) _ _ _)
  | vunzip q d a b ht hb =>
    exact State.permute_hasForm (fun v _ => exec_vunzip _ _ _ _ v) (typed_pair ht (hb.trans_ne ht))
      (tagOfA_pair (beq_iff_eq.mpr hb.symm)) (u.moves_eq _ _)

theorem ReduceOp.hasForm {u : State} {i : Instr} {srcs : List VsOp} {r : VRow} (h : ReduceOp u i srcs r) :
    HasForm u i srcs r := by
  have typed {t : Tag} (h : tagKind t ≠ .untyped) : t ≠ .none := fun e => h (e ▸ rfl)
  cases h with
  | vredsum q d a hc hs =>
    have ht := Tagged.single (typed (clsAdd_typed u.me.v[a].tag hc))
    exact .of (fun v hv => by rw [exec_vredsum, execVredsum, hv.rmode]; rfl) rfl ht.typed (classCheck_tagged ht hc hs)
      rfl rfl
  | vredmax q d a hc hs =>
    have ht := Tagged.single (typed (clsMinMax_typed hc))
    exact .of (fun v _ => exec_vredmax _ _ _ v) rfl ht.typed (classCheck_tagged ht hc (.inl hs)) rfl rfl
  | vredmin q d a hc hs =>
    have ht := Tagged.single (typed (clsMinMax_typed hc))
    exact .of (fun v _ => exec_vredmin _ _ _ v) rfl ht.typed (classCheck_tagged ht hc (.inl hs)) rfl rfl
  | vscan q d a hc hs =>
    have ht := Tagged.single (typed (clsAdd_typed u.me.v[a].tag hc))
    exact .of (fun v _ => exec_vscan _ _ _ v) rfl ht.typed (classCheck_tagged ht hc hs) rfl
      (State.rowOf_elementwise rfl _)

/-- Every register instruction that writes a row does so in a form that all alike states share. -/
theorem RowOp.hasForm {u : State} {i : Instr} {srcs : List VsOp} {r : VRow} (h : RowOp u i srcs r) :
    HasForm u i srcs r := by
  cases h with
  | element q d srcs ok f t h ht hok =>
    obtain ⟨F, hF⟩ := h.elemForms.formsRow ht hok
    exact ⟨F, t, hF⟩
  | move srcs r h => exact h.hasForm
  | signal srcs r h => exact h.hasForm
  | permute srcs r h => exact h.hasForm
  | reduce srcs r h => exact h.hasForm

end Sys2Proof.Machine
end


section
/-!
SUPPORT. Strips popped from load streams (R237), for O43.
-/

namespace Sys2Proof.Machine

/-! ### Which streams are popped -/

theorem streamNo_eq_some {r : Nat} {k : Fin 8} : streamNo r = some k ↔ r = k.val + 40 := by
  unfold streamNo
  split
  · rw [Option.some.injEq, Fin.ext_iff]; show r - 40 = k.val ↔ _; omega
  · refine ⟨nofun, fun h => ?_⟩; omega
/-- A register is bound to a stream when it is one of `v40` to `v47` and that stream is bound. -/
theorem Hart.bound_eq_some {h : Hart} {r : Nat} {k : Fin 8} {t : Stream} :
    h.bound r = some (k, t) ↔ r = k.val + 40 ∧ h.str[k].bound = true ∧ t = h.str[k] := by
  unfold Hart.bound
  cases hs : streamNo r with
  | none =>
    refine ⟨nofun, fun hk => ?_⟩
    rw [streamNo_eq_some.mpr hk.1] at hs
    cases hs
  | some j =>
    have hr := streamNo_eq_some.mp hs
    dsimp only
    constructor
    · intro hb
      split at hb
      · next hbound =>
        cases hb
        exact ⟨hr, hbound, rfl⟩
      · cases hb
    · rintro ⟨hk, hbound, rfl⟩
      obtain rfl : j = k := Fin.ext (by omega)
      rw [if_pos hbound]

section
variable {s : State} {srcs : List VsOp} {ps : List (Fin 8)}

theorem Pops.mem_pops (h : Pops s srcs ps) (q : Fin 8 × Stream) : q ∈ s.pops srcs ↔ q.1 ∈ ps ∧ q.2 = s.me.str[q.1] := by
  obtain ⟨k, t⟩ := q
  rw [State.pops, List.mem_dedup, List.mem_filterMap, h.which]
  constructor
  · rintro ⟨x, hx, htap⟩
    cases x with
    | vec r =>
      obtain ⟨hr, hb, ht⟩ := Hart.bound_eq_some.mp htap
      exact ⟨⟨hb, r, hx, hr⟩, ht⟩
    | g _ => cases htap
    | zero => cases htap
  · rintro ⟨⟨hb, r, hx, hr⟩, ht⟩
    exact ⟨.vec r, hx, Hart.bound_eq_some.mpr ⟨hr, hb, ht⟩⟩
/-- The streams of `ps`, in the order in which the instruction names them. -/
theorem Pops.order (h : Pops s srcs ps) :
    ∃ ks : List (Fin 8), ks.Perm ps ∧ s.pops srcs = ks.map fun k => (k, s.me.str[k]) := by
  refine ⟨(s.pops srcs).map Prod.fst, ?_, ?_⟩
  · have hinj : ∀ x ∈ s.pops srcs, ∀ y ∈ s.pops srcs, x.1 = y.1 → x = y := fun x hx y hy e => by
      refine Prod.ext e ?_
      exact ((h.mem_pops x).mp hx).2.trans ((congrArg (fun k : Fin 8 => s.me.str[k]) e).trans ((h.mem_pops y).mp hy).2.symm)
    refine (List.perm_ext_iff_of_nodup ((List.nodup_dedup _).map_on hinj) h.once).mpr fun k => ?_
    rw [List.mem_map]
    exact ⟨by rintro ⟨q, hq, rfl⟩; exact ((h.mem_pops q).mp hq).1,
      fun hk => ⟨(k, s.me.str[k]), (h.mem_pops _).mpr ⟨hk, rfl⟩, rfl⟩⟩
  · rw [List.map_map]
    refine (List.map_id _).symm.trans (List.map_congr_left fun q hq => ?_)
    exact Prod.ext rfl ((h.mem_pops q).mp hq).2

/-! ### The length of the strip (R237) -/

theorem le_foldl_min {α : Type} (g : α → Nat) (ks : List α) (n v : Nat) :
    n ≤ ks.foldl (fun v k => min v (g k)) v ↔ n ≤ v ∧ ∀ k ∈ ks, n ≤ g k := by
  induction ks generalizing v with
  | nil => simp
  | cons k ks ih => rw [List.foldl_cons, ih, le_min_iff, List.forall_mem_cons, and_assoc]
theorem foldl_min_perm {α : Type} {g : α → Nat} {ks ps : List α} (h : ks.Perm ps) (v : Nat) :
    ks.foldl (fun v k => min v (g k)) v = ps.foldl (fun v k => min v (g k)) v := by
  refine eq_of_forall_le_iff fun n => ?_
  rw [le_foldl_min, le_foldl_min]
  exact and_congr_right fun _ => ⟨fun hk k hm => hk k (h.mem_iff.mpr hm), fun hk k hm => hk k (h.mem_iff.mp hm)⟩
theorem State.stripOf_perm {ks : List (Fin 8)} (h : ks.Perm ps) : s.stripOf ks = s.stripOf ps := foldl_min_perm h _

/-- The first m elements of a load stream can be delivered, from the places `al`. -/
def State.delivers (s : State) (t : Stream) (m : Nat) (al : Nat → Loc) : Prop :=
  ∀ e, e < m → (∃ pin, s.streamAt t false (t.pos + e) (al e) pin) ∧ (al e).kind ≠ .io ∧ s.readPoison (al e) t.bytes = false
theorem State.delivers.not_rangeEnd {t : Stream} {m n : Nat} {al : Nat → Loc} (h : s.delivers t m al) (hn : n < m) :
    ¬ s.rangeEnd t n := by
  rintro ⟨x, -, hx⟩
  obtain ⟨⟨pin, hpin⟩, -, -⟩ := h n hn
  rw [State.streamAt, hx] at hpin
  cases hpin
/-- Each stream delivers so many elements, up to the count of all or up to the end of its token's range, and the strip is as
long as the least of these lengths. -/
theorem Strips.lengths {n : Nat} {at_ : Fin 8 → Nat → Loc} (h : Strips s ps n at_) :
    ∃ M : Fin 8 → Nat, ps.foldl (fun v k => min v (M k)) (s.stripOf ps) = n ∧
      ∀ k ∈ ps, 0 < M k ∧ M k ≤ s.stripOf ps ∧ s.delivers s.me.str[k] (M k) (at_ k) ∧
        (M k = s.stripOf ps ∨ s.rangeEnd s.me.str[k] (M k)) := by
  have hpos := Nat.pos_of_ne_zero h.some
  choose! M hM using h.reads
  refine ⟨M, Nat.le_antisymm ?_ ?_, fun k hk => ?_⟩
  · obtain ⟨hinit, hall⟩ := (le_foldl_min M ps _ _).mp le_rfl
    rcases h.length with hn | ⟨k, hk, hend⟩
    · exact hinit.trans_eq hn.symm
    · refine (hall k hk).trans (Nat.le_of_not_lt fun hlt => ?_)
      exact State.delivers.not_rangeEnd (hM k hk).2.2.1 hlt hend
  · refine (le_foldl_min M ps _ _).mpr ⟨?_, fun k hk => (hM k hk).1⟩
    rcases h.length with hn | ⟨k, hk, -⟩
    · exact hn.le
    · exact (hM k hk).1.trans (hM k hk).2.1
  · obtain ⟨hn, hle, hdel, hend⟩ := hM k hk
    exact ⟨hpos.trans_le hn, hle, hdel, hend⟩

/-! ### Elements read -/

/-- The word that a stream delivers from a place (R235). -/
def Stream.word (t : Stream) (s : State) (l : Loc) : Word :=
  if t.bytes = 4 then extendN 4 (bit t.q3 6) (numAt s.byteAt l 4) else Machine.word (numAt s.byteAt l 8)
theorem State.ReadsTo.stream_word {u : State} (h : s.ReadsTo u) (t : Stream) {l : Loc} (hio : l.kind ≠ .io) :
    State.popFrom.returned4 t.bytes (bit t.q3 6) (natOfBytes (u.readHome l t.bytes)) = t.word s l := by
  rw [State.readHome_number _ hio, funext h.byteAt, State.popFrom.returned4, Stream.word]
  by_cases h4 : t.bytes = 4
  · rw [if_pos h4, if_pos h4, h4]
  · have h8 : t.bytes = 8 := by
      unfold Stream.bytes at h4 ⊢
      split
      · next hb => exact absurd (if_pos hb) h4
      · rfl
    rw [if_neg h4, if_neg h4, h8]

/-- `u` is a state that pops lead to from `s`: reads, after which the same writes are refused. -/
structure State.PopsTo (s u : State) : Prop where
  reads : s.ReadsTo u
  refused : ∀ l n, u.writeRefused l n = s.writeRefused l n
theorem State.PopsTo.refl (s : State) : s.PopsTo s := ⟨.of_alike (.refl s), fun _ _ => rfl⟩
theorem State.PopsTo.afterRead {u : State} (h : s.PopsTo u) (l : Loc) (n : Nat) : s.PopsTo (u.afterRead l n) :=
  ⟨h.reads.afterRead l n, fun x y => (State.writeRefused_afterRead u l x n y).trans (h.refused x y)⟩

/-- A pop delivers elements up to its count, or up to the end of the token's range. -/
theorem State.PopsTo.popFrom {u : State} (h : s.PopsTo u) {t : Stream} {m : Nat} {al : Nat → Loc} (hd : s.delivers t m al)
    (hm : 0 < m) (c i : Nat) (hi : i ≤ m) (hend : i + c ≤ m ∨ s.rangeEnd t m) :
    ∃ w, u.popFrom t i c = .ok ((List.range' i (min c (m - i))).map fun e => t.word s (al e), w) ∧ s.PopsTo w := by
  induction c generalizing u i with
  | zero => exact ⟨u, by rw [Nat.zero_min]; rfl, h⟩
  | succ c ih =>
    rw [State.popFrom, h.reads.me]
    rcases hi.lt_or_eq with hlt | rfl
    · obtain ⟨⟨pin, hpin⟩, hio, hp⟩ := hd i hlt
      obtain ⟨w, hw, hsw⟩ := ih (h.afterRead (al i) t.bytes) (i + 1) hlt (hend.imp_left fun hle => by omega)
      refine ⟨w, ?_, hsw⟩
      have hlen : min (c + 1) (m - i) = min c (m - (i + 1)) + 1 := by omega
      dsimp only
      rw [show (s.me.tk[t.tk]).elemCheck t.tk false (t.addr (t.pos + i)) t.bytes = .ok (al i, pin) from hpin]
      simp only [h.reads.clean _ _ hp, Bool.false_eq_true, if_false, hw, h.reads.stream_word t hio, hlen,
        List.range'_succ, List.map_cons]
    · obtain ⟨x, hx, hcheck⟩ := hend.resolve_left (by omega)
      refine ⟨u, ?_, h⟩
      dsimp only
      rw [hcheck]
      simp only [hx, hm, and_self, if_true, Nat.sub_self, Nat.min_zero]
      rfl

variable {at_ : Fin 8 → Nat → Loc} {ks : List (Fin 8)} {M : Fin 8 → Nat} {v₀ : Nat}

/-- The strips of several streams: each delivers at least the elements that all of them deliver. -/
theorem State.PopsTo.popAll {u : State} (h : s.PopsTo u)
    (hM : ∀ k ∈ ks, 0 < M k ∧ s.delivers s.me.str[k] (M k) (at_ k) ∧ (v₀ ≤ M k ∨ s.rangeEnd s.me.str[k] (M k)))
    {v : Nat} (hv : v ≤ v₀) :
    ∃ strips w, u.popAll v (ks.map fun k => (k, s.me.str[k])) = .ok (strips, ks.foldl (fun v k => min v (M k)) v, w) ∧
      s.PopsTo w ∧ strips.map Prod.fst = ks ∧ ∀ q ∈ strips, ∃ c, ks.foldl (fun v k => min v (M k)) v ≤ c ∧
        q.2 = (List.range c).map fun e => s.me.str[q.1].word s (at_ q.1 e) := by
  induction ks generalizing u v with
  | nil => exact ⟨[], u, rfl, h, rfl, nofun⟩
  | cons k ks ih =>
    obtain ⟨⟨hpos, hdel, hend⟩, hrest⟩ := List.forall_mem_cons.mp hM
    obtain ⟨w, hw, hsw⟩ := h.popFrom hdel hpos v 0 (Nat.zero_le _) (hend.imp_left fun hle => by omega)
    obtain ⟨strips, z, hz, hsz, hks, hwords⟩ := ih hsw hrest (v := min v (M k)) (by omega)
    refine ⟨(k, (List.range (min v (M k))).map fun e => s.me.str[k].word s (at_ k e)) :: strips, z, ?_, hsz,
      congrArg (k :: ·) hks, List.forall_mem_cons.mpr ⟨⟨min v (M k), ?_, rfl⟩, hwords⟩⟩
    · simp only [List.map_cons, State.popAll, hw, List.length_map, List.length_range', Nat.sub_zero, hz, List.foldl_cons]
      rw [List.range_eq_range']
    · exact ((le_foldl_min M ks _ _).mp le_rfl).1

/-- The count that the pops leave is that of the elements that every stream delivers. -/
theorem State.cut_eq {t : Stream} {m v : Nat} {al : Nat → Loc} (hd : s.delivers t m al) (hm : 0 < m)
    (hend : v ≤ m ∨ s.rangeEnd t m) : s.cut v t = min v m := by
  have hok (e : Nat) (he : e < m) : ∃ z, (s.me.tk[t.tk]).elemCheck t.tk false (t.addr (t.pos + e)) t.bytes = .ok z := by
    obtain ⟨⟨pin, hpin⟩, -, -⟩ := hd e he
    exact ⟨_, hpin⟩
  unfold State.cut
  dsimp only
  split
  next hfind =>
    obtain ⟨herr, -, -⟩ := List.find?_range_eq_some.mp hfind
    obtain ⟨z, hz⟩ := hok 0 hm
    rw [hz] at herr
    cases herr
  next hfind =>
    refine (Nat.min_eq_left (Nat.le_of_not_lt fun hlt => ?_)).symm
    obtain ⟨x, -, hx⟩ := hend.resolve_left (by omega)
    refine List.find?_eq_none.mp hfind m (List.mem_range.mpr hlt) ?_
    rw [hx]
  next i hi hfind =>
    obtain ⟨herr, hlt, hfirst⟩ := List.find?_range_eq_some.mp hfind
    have hmi : m ≤ i := Nat.le_of_not_lt fun h => by
      obtain ⟨z, hz⟩ := hok i h
      rw [hz] at herr
      cases herr
    obtain ⟨x, hx, hcheck⟩ := hend.resolve_left (by have := List.mem_range.mp hlt; omega)
    obtain rfl : m = i := Nat.le_antisymm hmi (Nat.le_of_not_lt fun h => by
      have hfalse := hfirst m h
      rw [hcheck] at hfalse
      cases hfalse)
    rw [hcheck, Nat.min_eq_right (List.mem_range.mp hlt).le]
    exact if_pos hx
theorem State.cut_all (hM : ∀ k ∈ ks, 0 < M k ∧ s.delivers s.me.str[k] (M k) (at_ k) ∧
    (v₀ ≤ M k ∨ s.rangeEnd s.me.str[k] (M k)))
    {v : Nat} (hv : v ≤ v₀) :
    (ks.map fun k => (k, s.me.str[k])).foldl (fun v q => s.cut v q.2) v = ks.foldl (fun v k => min v (M k)) v := by
  induction ks generalizing v with
  | nil => rfl
  | cons k ks ih =>
    obtain ⟨⟨hpos, hdel, hend⟩, hrest⟩ := List.forall_mem_cons.mp hM
    rw [List.map_cons, List.foldl_cons, List.foldl_cons, State.cut_eq hdel hpos (hend.imp_left hv.trans)]
    exact ih hrest (by omega)
end

end Sys2Proof.Machine
end


section
/-!
SUPPORT. An instruction of opcodes 0x30 to 0x38 once its strips are delivered (R200, R237), for O43.
-/

namespace Sys2Proof.Machine

/-! ### Strips delivered to registers -/

/-- A hart whose streams `ks` have advanced by n, and whose registers of these streams hold the elements `val`. -/
def Hart.delivered (h : Hart) (ks : List (Fin 8)) (n : Nat) (val : Fin 8 → Nat → Word) : Hart :=
  { h with
    str := Vector.ofFn fun k => if k ∈ ks then { h.str[k] with pos := h.str[k].pos + n } else h.str[k]
    v := Vector.ofFn fun r => match ks.find? fun k => r.val == k.val + 40 with
      | none => h.v[r]
      | some k => { h.v[r] with
          el := Vector.ofFn fun e => if e.val < n then val k e.val else h.v[r].el[e]
          vln := max h.v[r].vln n
          dirty := true } }

section
variable {h : Hart} {ks ps : List (Fin 8)} {n : Nat} {val : Fin 8 → Nat → Word}

theorem vector_ext_fin {α : Type} {n : Nat} {v w : Vector α n} (h : ∀ i : Fin n, v[i] = w[i]) : v = w :=
  Vector.ext fun i hi => h ⟨i, hi⟩

theorem vector_ofFn_fin {α : Type} {n : Nat} (f : Fin n → α) (i : Fin n) : (Vector.ofFn f)[i] = f i := by
  rw [Fin.getElem_fin, Vector.getElem_ofFn]

/-- The register of stream k. -/
theorem Hart.delivered_mem {k : Fin 8} (hk : k ∈ ks) {r : Fin 60} (hr : r.val = k.val + 40) :
    (h.delivered ks n val).v[r] = { h.v[r] with
      el := Vector.ofFn fun e : Fin 128 => if e.val < n then val k e.val else h.v[r].el[e]
      vln := max h.v[r].vln n
      dirty := true } := by
  have hfind : (ks.find? fun k => r.val == k.val + 40) = some k := by
    obtain ⟨j, hj⟩ := Option.isSome_iff_exists.mp (List.find?_isSome.mpr
      (⟨k, hk, beq_iff_eq.mpr hr⟩ : ∃ j, j ∈ ks ∧ (r.val == j.val + 40) = true))
    have hjr : r.val = j.val + 40 := by simpa using List.find?_some hj
    rw [hj, Fin.ext (by omega : j.val = k.val)]
  unfold Hart.delivered
  dsimp only
  rw [vector_ofFn_fin]
  rw [hfind]
/-- A register of no popped stream. -/
theorem Hart.delivered_not_mem {r : Fin 60} (hr : ∀ k ∈ ks, r.val ≠ k.val + 40) : (h.delivered ks n val).v[r] = h.v[r] := by
  have hfind : (ks.find? fun k => r.val == k.val + 40) = none :=
    List.find?_eq_none.mpr fun k hk => by rw [beq_iff_eq]; exact hr k hk
  unfold Hart.delivered
  dsimp only
  rw [vector_ofFn_fin]
  rw [hfind]
theorem Hart.delivered_str (j : Fin 8) :
    (h.delivered ks n val).str[j] = if j ∈ ks then { h.str[j] with pos := h.str[j].pos + n } else h.str[j] := by
  unfold Hart.delivered
  dsimp only
  rw [vector_ofFn_fin]
theorem Hart.delivered_tag (r : Fin 60) : (h.delivered ks n val).v[r].tag = h.v[r].tag := by
  by_cases hr : ∃ k ∈ ks, r.val = k.val + 40
  · obtain ⟨k, hk, hr⟩ := hr
    rw [Hart.delivered_mem hk hr]
  · rw [Hart.delivered_not_mem fun k hk e => hr ⟨k, hk, e⟩]

theorem Hart.delivered_nil : h.delivered [] n val = h := by
  have hstr : (h.delivered [] n val).str = h.str := vector_ext_fin fun j => by
    rw [Hart.delivered_str, if_neg List.not_mem_nil]
  have hv : (h.delivered [] n val).v = h.v := vector_ext_fin fun r => Hart.delivered_not_mem nofun
  show ({ h with str := (h.delivered [] n val).str, v := (h.delivered [] n val).v } : Hart) = h
  rw [hstr, hv]
theorem Hart.delivered_perm (hp : ks.Perm ps) : h.delivered ks n val = h.delivered ps n val := by
  have hstr : (h.delivered ks n val).str = (h.delivered ps n val).str := vector_ext_fin fun j => by
    rw [Hart.delivered_str, Hart.delivered_str]
    exact if_congr hp.mem_iff rfl rfl
  have hv : (h.delivered ks n val).v = (h.delivered ps n val).v := vector_ext_fin fun r => by
    by_cases hr : ∃ k ∈ ks, r.val = k.val + 40
    · obtain ⟨k, hk, hr⟩ := hr
      rw [Hart.delivered_mem hk hr, Hart.delivered_mem (hp.mem_iff.mp hk) hr]
    · rw [Hart.delivered_not_mem fun k hk e => hr ⟨k, hk, e⟩,
        Hart.delivered_not_mem fun k hk e => hr ⟨k, hp.mem_iff.mpr hk, e⟩]
  show ({ h with str := (h.delivered ks n val).str, v := (h.delivered ks n val).v } : Hart) =
    { h with str := (h.delivered ps n val).str, v := (h.delivered ps n val).v }
  rw [hstr, hv]
end

/-- One strip delivered, then others. -/
theorem Hart.deliver_delivered {h : Hart} {k : Fin 8} {ws : List Word} {ks : List (Fin 8)} {n : Nat}
    {val : Fin 8 → Nat → Word} (hk : k ∉ ks) (hws : ∀ e, e < n → nth ws e = val k e) :
    (h.deliver n (k, ws)).delivered ks n val = h.delivered (k :: ks) n val := by
  have hother {j : Fin 8} (hj : j ∈ ks) : j ≠ k := fun e => hk (e ▸ hj)
  have hstr : ((h.deliver n (k, ws)).delivered ks n val).str = (h.delivered (k :: ks) n val).str :=
    vector_ext_fin fun j => by
      rw [Hart.delivered_str, Hart.delivered_str]
      by_cases hjk : j = k
      · subst hjk
        rw [if_neg hk, if_pos List.mem_cons_self]
        exact vmod_getElem_same _ _ _
      · have hold : (h.deliver n (k, ws)).str[j] = h.str[j] := vmod_getElem_other _ _ _ _ hjk
        rw [hold]
        exact if_congr ⟨List.mem_cons_of_mem k, fun h => (List.mem_cons.mp h).resolve_left hjk⟩ rfl rfl
  have hv : ((h.deliver n (k, ws)).delivered ks n val).v = (h.delivered (k :: ks) n val).v := vector_ext_fin fun r => by
    by_cases hrk : r.val = k.val + 40
    · have hset : (h.deliver n (k, ws)).v[r] = { h.v[r] with
          el := vgen 128 fun e => if e < n then nth ws e else vget h.v[r].el e 0, vln := max h.v[r].vln n, dirty := true } := by
        have hlt : k.val + 40 < 60 := by omega
        obtain rfl : r = ⟨k.val + 40, hlt⟩ := Fin.ext hrk
        exact vmod_getElem_same _ _ _
      rw [Hart.delivered_not_mem fun j hj e => hother hj (Fin.ext (by omega)),
        Hart.delivered_mem List.mem_cons_self hrk]
      rw [hset]
      refine congrArg (fun el => ({ h.v[r] with el := el, vln := max h.v[r].vln n, dirty := true } : VReg)) ?_
      refine vector_ext_fin fun e => ?_
      rw [vgen_getElem, vector_ofFn_fin]
      by_cases he : e.val < n
      · rw [if_pos he, if_pos he, hws _ he]
      · rw [if_neg he, if_neg he, vget_eq]
    · have hold : (h.deliver n (k, ws)).v[r] = h.v[r] := vmod_getElem_other _ _ _ _ fun e => hrk (congrArg Fin.val e)
      by_cases hr : ∃ j ∈ ks, r.val = j.val + 40
      · obtain ⟨j, hj, hr⟩ := hr
        rw [Hart.delivered_mem hj hr, Hart.delivered_mem (List.mem_cons_of_mem k hj) hr, hold]
      · rw [Hart.delivered_not_mem fun j hj e => hr ⟨j, hj, e⟩, hold, Hart.delivered_not_mem]
        intro j hj e
        rcases List.mem_cons.mp hj with rfl | hj
        · exact hrk e
        · exact hr ⟨j, hj, e⟩
  show ({ h with str := ((h.deliver n (k, ws)).delivered ks n val).str,
                 v := ((h.deliver n (k, ws)).delivered ks n val).v } : Hart) =
    { h with str := (h.delivered (k :: ks) n val).str, v := (h.delivered (k :: ks) n val).v }
  rw [hstr, hv]
/-- Strips of at least n elements delivered one after another. -/
theorem Hart.deliver_all {strips : List (Fin 8 × List Word)} {n : Nat} {val : Fin 8 → Nat → Word}
    (hnd : (strips.map Prod.fst).Nodup)
    (hw : ∀ q ∈ strips, ∃ c, n ≤ c ∧ q.2 = (List.range c).map (val q.1)) (h : Hart) :
    strips.foldl (fun h q => h.deliver n q) h = h.delivered (strips.map Prod.fst) n val := by
  induction strips generalizing h with
  | nil => exact Hart.delivered_nil.symm
  | cons q strips ih =>
    obtain ⟨k, ws⟩ := q
    obtain ⟨hk, hnd⟩ := List.nodup_cons.mp hnd
    obtain ⟨⟨c, hc, hws⟩, hw⟩ := List.forall_mem_cons.mp hw
    rw [List.foldl_cons, ih hnd hw, List.map_cons]
    refine Hart.deliver_delivered hk fun e he => ?_
    rw [show ws = (List.range c).map (val k) from hws, nth, List.getD_eq_getElem _ _ (by simp; omega)]
    simp

end Sys2Proof.Machine
end


section
/-!
SUPPORT. An instruction of opcodes 0x30 to 0x38 up to the write of its result: it pops its strips and checks what it appends
(R200, R237, R238), for O43.
-/

namespace Sys2Proof.Machine

/-! ### The state in which strips are delivered -/

section
variable {s : State} {ps : List (Fin 8)} {n : Nat} {at_ : Fin 8 → Nat → Loc}

theorem State.delivered_eq (s : State) (ps : List (Fin 8)) (n : Nat) (at_ : Fin 8 → Nat → Loc) :
    s.delivered ps n at_ =
      s.modMe fun h => { h.delivered ps n (fun k e => h.str[k].word s (at_ k e)) with vl := n } := by
  unfold State.delivered Hart.delivered Stream.word
  refine congrArg s.modMe (funext fun h => ?_)
  rfl
theorem State.me_delivered (hl : s.live) : (s.delivered ps n at_).me =
    { s.me.delivered ps n (fun k e => s.me.str[k].word s (at_ k e)) with vl := n } := by
  rw [State.delivered_eq, State.me_modMe hl]
theorem State.delivered_v (hl : s.live) :
    (s.delivered ps n at_).me.v = (s.me.delivered ps n (fun k e => s.me.str[k].word s (at_ k e))).v := by
  rw [State.me_delivered hl]
/-- The state and the scalar registers of the hart, its flags, tokens, PC and supervisor thread stay. -/
theorem State.delivered_keeps (hl : s.live) : (s.delivered ps n at_).me.st = s.me.st ∧ (s.delivered ps n at_).me.g = s.me.g ∧
    (s.delivered ps n at_).me.fcsr = s.me.fcsr ∧ (s.delivered ps n at_).me.sup = s.me.sup ∧
    (s.delivered ps n at_).me.pc = s.me.pc ∧ (s.delivered ps n at_).me.tk = s.me.tk := by
  rw [State.me_delivered hl]
  simp only [Hart.delivered, and_self]
theorem State.atS_delivered (hl : s.live) : (s.delivered ps n at_).atS = s.atS :=
  congrArg (· == .trapped) (State.delivered_keeps hl).1
/-- An instruction has the same form before and after its strips are delivered. -/
theorem FormAlike.delivered (hl : s.live) : FormAlike s (s.delivered ps n at_) := by
  obtain ⟨-, hg, hfcsr, hsup, -, -⟩ := State.delivered_keeps (ps := ps) (n := n) (at_ := at_) hl
  have hv := State.delivered_v (ps := ps) (n := n) (at_ := at_) hl
  have hat := State.atS_delivered (ps := ps) (n := n) (at_ := at_) hl
  refine ⟨fun k => ?_, fun b => ?_, fun r => ?_⟩
  · rw [hv]; exact (Hart.delivered_tag k).symm
  · cases b with
    | none => rfl
    | some r => rw [State.rg, State.rg, hat, hg, hsup]
  · rw [State.rmode, State.rmode, hat, hfcsr]

/-- Reads, then a change of the running hart. -/
theorem State.ReadsTo.modMe {w : State} (h : s.ReadsTo w) (hl : s.live) {F G : Hart → Hart} (hFG : F s.me = G s.me) :
    (s.modMe G).ReadsTo (w.modMe F) where
  gang? v := by
    by_cases hv : v = s.cur.gang
    · subst hv
      have hw : (w.modMe F).gang? s.cur.gang =
          (w.gang? s.cur.gang).map fun g => { g with harts := vmod g.harts s.cur.rank F } := by
        rw [State.modMe, h.cur]
        exact State.gang?_modGang w s.cur.gang (fun g => { g with harts := vmod g.harts s.cur.rank F }) fun _ => rfl
      have hs : (s.modMe G).gang? s.cur.gang =
          (s.gang? s.cur.gang).map fun g => { g with harts := vmod g.harts s.cur.rank G } :=
        State.gang?_modGang s s.cur.gang (fun g => { g with harts := vmod g.harts s.cur.rank G }) fun _ => rfl
      have hme : F s.myGang.harts[s.cur.rank] = G s.myGang.harts[s.cur.rank] := by
        rw [← State.me_eq]; exact hFG
      rw [hw, hs, h.gang?, State.gang_of_live hl, Option.map_some, Option.map_some, vmod, vmod, hme]
    · rw [State.gang?_modMe_other w F (by rw [h.cur]; exact hv), State.gang?_modMe_other s G hv, h.gang?]
  device := h.device
  clean l k hp := h.clean l k hp

theorem State.PopsTo.modMe {w : State} (h : s.PopsTo w) (hl : s.live) {F G : Hart → Hart} (hFG : F s.me = G s.me) :
    (s.modMe G).PopsTo (w.modMe F) := ⟨h.reads.modMe hl hFG, h.refused⟩

/-- What an instruction waits for depends on which places it reaches, not on their order. -/
theorem State.waitsOwn_congr {vec rel : Bool} {ls ls' : List (Loc × Nat)} (h : ∀ q, q ∈ ls ↔ q ∈ ls') :
    s.waitsOwn vec rel ls = s.waitsOwn vec rel ls' := by
  have hany (p : Loc × Nat → Bool) : ls.any p = ls'.any p := by
    rw [Bool.eq_iff_iff, List.any_eq_true, List.any_eq_true]
    exact exists_congr fun q => and_congr_left fun _ => h q
  simp only [State.waitsOwn, hany]
end

/-! ### Checks of the operands -/

section
variable {s : State} {srcs : List VsOp} {ps : List (Fin 8)} {d : VdOp}

/-- Load streams as sources and a store stream as the destination pass (R239). -/
theorem Pops.streamType (h : Pops s srcs ps) (hd : ∀ q, s.sink d = some q → q.2.stores = true) :
    s.streamType srcs d = none := by
  have hsrc : (srcs.find? fun x => (s.tap x).any fun q => q.2.stores) = none := by
    refine List.find?_eq_none.mpr fun x hx hstores => ?_
    obtain ⟨q, hq⟩ : ∃ q, s.tap x = some q := by
      rw [← Option.isSome_iff_exists]
      exact Option.isSome_of_any hstores
    rw [hq] at hstores
    have hst : q.2.stores = true := hstores
    obtain ⟨hk, ht⟩ := (h.mem_pops q).mp (List.mem_dedup.mpr (List.mem_filterMap.mpr ⟨x, hx, hq⟩))
    rw [ht, Stream.stores, h.loads _ hk] at hst
    cases hst
  unfold State.streamType
  rw [hsrc]
  dsimp only
  cases hk : s.sink d with
  | none => rfl
  | some q => exact if_pos (hd q hk)
theorem State.sinkType_same {tag : Tag} (hd : ∀ q, s.sink d = some q → q.2.tag = tag) : s.sinkType d tag = none := by
  unfold State.sinkType
  cases hk : s.sink d with
  | none => rfl
  | some q => exact if_pos (hd q hk)
/-- Streams with valid tokens raise none of their traps. -/
theorem State.streamToken_valid {n : Nat} {l : List (Fin 8 × Stream)} (h : ∀ q ∈ l, (s.me.tk[q.2.tk]).st = .valid) :
    s.streamToken n l = none := by
  have hbad : (l.filterMap fun q => ((s.me.tk[q.2.tk]).stateTrap q.2.tk).map fun x => (q.2, x)) = [] := by
    refine List.filterMap_eq_nil_iff.mpr fun q hq => ?_
    rw [Token.stateTrap, h q hq]; rfl
  rw [State.streamToken, hbad]; rfl

/-- The operands of a form that is alike before and after the delivery pass every check. -/
theorem FormsRow.vecTags {u : State} {i : Instr} {f : VForm} {t : Tag} {r : VRow} (h : FormsRow u i srcs f t r)
    (ha : FormAlike s u) (hp : Pops s srcs ps) (hd : ∀ q, s.sink f.d = some q → q.2.stores = true ∧ q.2.tag = r.tag) :
    s.vecTags f = .ok (t, r.tag) := by
  obtain rfl := h.sources
  have htyped : s.untypedIn f.srcs = none := State.untypedIn_none fun a hm => by rw [ha.tags]; exact h.typed a hm
  have hcheck : f.check (f.srcs.map s.vtag) = .ok (t, r.tag) := by rw [funext ha.vtag]; exact h.check
  simp only [State.vecTags, htyped, hcheck, hp.streamType fun q hq => (hd q hq).1, State.sinkType_same fun q hq => (hd q hq).2]
end

/-! ### The strips popped -/

/-- An instruction whose strips can be popped and appended writes its result in a state that pops lead to from that in which
they are delivered. -/
theorem State.vec_pops {s : State} {f : VForm} {t rt : Tag} {ps : List (Fin 8)} {n : Nat} {at_ : Fin 8 → Nat → Loc}
    {locs : List Loc} (hl : s.live) (hu : s.atS = false) (hvl : s.me.vl ≠ 0) (hp : Pops s f.srcs ps) (hs : Strips s ps n at_)
    (htags : s.vecTags f = .ok (t, rt)) (hb : f.badvl t n = false)
    (hd : ∀ q, s.sink f.d = some q → (s.me.tk[q.2.tk]).st = .valid)
    (hwait : s.waitsOwn true false
      ((ps.map fun k => s.stripLocs (s.stripOf ps) s.me.str[k]) ++
        ((s.sink f.d).toList.map fun q => s.stripLocs (s.stripOf ps) q.2)).flatten = false)
    (happ : ((s.sink f.d).map fun q => s.me.appendCheck q.2 n).getD (.ok []) = .ok locs) :
    ∃ X, (s.delivered ps n at_).PopsTo X ∧ s.vec f = X.vecWrite f t rt n locs := by
  obtain ⟨ks, hperm, hpops⟩ := hp.order
  obtain ⟨M, hn, hM⟩ := hs.lengths
  have hmem {k : Fin 8} (hk : k ∈ ks) := hM k (hperm.mem_iff.mp hk)
  have hread : ∀ k ∈ ks, 0 < M k ∧ s.delivers s.me.str[k] (M k) (at_ k) ∧
      (s.stripOf ps ≤ M k ∨ s.rangeEnd s.me.str[k] (M k)) := fun k hk => by
    obtain ⟨hpos, -, hdel, hend⟩ := hmem hk
    exact ⟨hpos, hdel, hend.imp_left fun e => e.ge⟩
  rw [← foldl_min_perm hperm] at hn
  have hwant : (s.pops f.srcs).foldl (fun v q => min v (q.2.count - q.2.pos)) s.me.vl = s.stripOf ps := by
    rw [hpops, List.foldl_map, ← State.stripOf_perm hperm]; rfl
  have hcut : (s.pops f.srcs).foldl (fun v q => s.cut v q.2) (s.stripOf ps) = n := by
    rw [hpops, State.cut_all hread le_rfl, hn]
  obtain ⟨strips, w, hpop, hsw, hks, hwords⟩ := (State.PopsTo.refl s).popAll hread le_rfl
  rw [hn, ← hpops] at hpop
  rw [hn] at hwords
  have htoken : s.streamToken (s.stripOf ps) (s.pops f.srcs ++ (s.sink f.d).toList) = none := by
    refine State.streamToken_valid fun q hq => ?_
    rcases List.mem_append.mp hq with hq | hq
    · obtain ⟨hk, ht⟩ := (hp.mem_pops q).mp hq
      exact (congrArg (fun t : Stream => (s.me.tk[t.tk]).st) ht).trans (hp.tokens _ hk)
    · exact hd q (Option.mem_toList.mp hq)
  have hwaits : s.waitsOwn true false
      ((s.pops f.srcs ++ (s.sink f.d).toList).map fun q => s.stripLocs (s.stripOf ps) q.2).flatten = false := by
    refine (State.waitsOwn_congr fun q => ?_).trans hwait
    rw [hpops, List.map_append, List.map_map]
    simp only [List.mem_flatten, List.mem_append, List.mem_map, hperm.mem_iff, Function.comp]
  have hsink : w.sink f.d = s.sink f.d := by unfold State.sink; rw [hsw.reads.me]
  refine ⟨if (s.pops f.srcs).isEmpty then w else w.modMe fun h => { strips.foldl (fun h q => h.deliver n q) h with vl := n },
    ?_, ?_⟩
  · have hme : { s.me.delivered ks n (fun k e => s.me.str[k].word s (at_ k e)) with vl := n } = (s.delivered ps n at_).me := by
      rw [State.me_delivered hl, Hart.delivered_perm hperm]
    have hnd : (strips.map Prod.fst).Nodup := by rw [hks]; exact hperm.nodup_iff.mpr hp.once
    have hfold := Hart.deliver_all (val := fun k e => s.me.str[k].word s (at_ k e)) hnd hwords s.me
    rw [hks] at hfold
    rw [State.delivered_eq]
    split
    · next hnil =>
      have hkn : ks = [] := List.map_eq_nil_iff.mp (hpops.symm.trans (List.isEmpty_iff.mp hnil))
      have hmod := hsw.modMe hl (F := fun h => h)
        (G := fun h => { h.delivered ps n (fun k e => h.str[k].word s (at_ k e)) with vl := n }) ?_
      · rwa [State.modMe_id] at hmod
      · subst hkn
        rw [← Hart.delivered_perm hperm, Hart.delivered_nil]
        have hvl' : n = s.me.vl := by rw [← hn, ← State.stripOf_perm hperm]; rfl
        rw [hvl']
    · refine hsw.modMe hl ?_
      rw [hfold, Hart.delivered_perm hperm]
  · simp only [State.vec, State.userOnly_eq hu, htags, if_neg hvl, State.vecStreams, hwant, hcut, hb, htoken, hwaits,
      hpop, hs.some,
      hsink, hsw.reads.me, happ, Bool.false_eq_true, and_false, if_false, Bool.and_false]

end Sys2Proof.Machine
end


section
/-!
SUPPORT. The result of an instruction of opcodes 0x30 to 0x38 written, and appended to a store stream (R200, R238), for O43.
-/

namespace Sys2Proof.Machine

/-! ### Elements appended (R238) -/

/-- A hart whose stream k has advanced by n elements. -/
def Hart.advance (k : Fin 8) (n : Nat) (h : Hart) : Hart :=
  { h with str := vmod h.str k fun t => { t with pos := t.pos + n } }
/-- A hart without its streams. -/
def Hart.sansStr (h : Hart) : Hart := { h with str := Vector.replicate 8 Stream.empty }

theorem State.append_withGangs (p : Fin 3) (job b : Nat) (l : List (Loc × Word)) (gs : List Gang) (s : State) :
    ({ s with gangs := gs } : State).append p job b l = { s.append p job b l with gangs := gs } := by
  induction l generalizing s with
  | nil => rfl
  | cons q l ih =>
    obtain ⟨x, w⟩ := q
    rw [State.append, State.append, State.writeHome_withGangs, ih]
theorem State.append_keeps (p : Fin 3) (job b : Nat) (l : List (Loc × Word)) (s : State) :
    (s.append p job b l).gangs = s.gangs ∧ (s.append p job b l).cur = s.cur := by
  induction l generalizing s with
  | nil => exact ⟨rfl, rfl⟩
  | cons q l ih =>
    obtain ⟨x, w⟩ := q
    obtain ⟨hg, hc⟩ := ih (s.writeHome p job x (bytesOfNat b w.toNat))
    exact ⟨hg.trans (State.writeHome_gangs _ _ _ _ _), hc.trans (State.writeHome_cur _ _ _ _ _)⟩
/-- A change of the running hart and an append come in either order. -/
theorem State.append_modMe (p : Fin 3) (job b : Nat) (l : List (Loc × Word)) (s : State) (f : Hart → Hart) :
    (s.modMe f).append p job b l = (s.append p job b l).modMe f := by
  obtain ⟨hg, hc⟩ := State.append_keeps p job b l s
  have hgangs : (s.modMe f).gangs = ((s.append p job b l).modMe f).gangs := by
    unfold State.modMe State.modHart State.modGang
    rw [hg, hc]
  exact (State.append_withGangs p job b l (s.modMe f).gangs s).trans
    (congrArg (fun gs => ({ s.append p job b l with gangs := gs } : State)) hgangs)

/-- Elements that their homes do not refuse are written in order. -/
theorem State.RunsTo.append {s u : State} {k : Nat} {m : Loc → Byte} (h : s.RunsTo u k m) (p : Fin 3) (job : Nat) {b : Nat}
    (hb : b < 128) {es : List Nat} {al : Nat → Loc} (wd : Nat → Word) (hr : ∀ e ∈ es, s.writeRefused (al e) b = false) :
    s.RunsTo (u.append p job b (es.map fun e => (al e, wd e))) k
      (es.foldl (fun m e => putAt m (al e) (bytesOfNat b (wd e).toNat)) m) := by
  induction es generalizing u m with
  | nil => exact h
  | cons e es ih =>
    obtain ⟨he, hes⟩ := List.forall_mem_cons.mp hr
    exact ih (h.writeHome (by rw [length_bytesOfNat]; exact he) (by rw [length_bytesOfNat]; exact hb) p job) hes

/-- Every element of an append has its place. -/
theorem Hart.appendCheck_ok {h : Hart} {t : Stream} {n : Nat} {al : Nat → Loc}
    (hp : ∀ e, e < n → t.pos + e < t.count ∧
      ∃ pin, (h.tk[t.tk]).elemCheck t.tk true (t.addr (t.pos + e)) t.bytes = .ok (al e, pin)) :
    h.appendCheck t n = .ok ((List.range n).map al) := by
  unfold Hart.appendCheck
  induction n with
  | zero => rfl
  | succ n ih =>
    obtain ⟨hcount, pin, hpin⟩ := hp n (Nat.lt_succ_self n)
    rw [List.range_succ, List.foldl_append, ih fun e he => hp e (Nat.lt_succ_of_lt he)]
    simp only [List.foldl_cons, List.foldl_nil, if_neg (Nat.not_le.mpr hcount), hpin, List.map_append, List.map_cons,
      List.map_nil]
/-- The first n elements of a value, with their places. -/
theorem zip_elements {n : Nat} (hn : n ≤ 128) (al : Nat → Loc) (el : Vector Word 128) :
    ((List.range n).map al).zip el.toList = (List.range n).map fun e => (al e, vget el e 0) := by
  refine List.ext_getElem (by simp; omega) fun e h1 h2 => ?_
  have he : e < n := by simpa using h2
  rw [List.getElem_zip, List.getElem_map, List.getElem_map, List.getElem_range, Vector.getElem_toList]
  exact congrArg (al e, ·) (vget_eq el ⟨e, by omega⟩ 0).symm

/-! ### The row written -/

/-- With D bound to a store stream, the result is written and appended. -/
theorem State.vecWrite_appends {s : State} (h : s.live) (hu : s.atS = false) (hdiv : s.myGang.diverged = false) (f : VForm)
    (t r : Tag) (n : Nat) (locs : List Loc) {k : Fin 8} {w : Stream} (hk : s.sink f.d = some (k, w)) {x : VReg}
    (hx : s.formed f.d (f.last.getD 0) r (f.res s t n).put = x) :
    s.vecWrite f t r n locs = .next (((s.modMe fun y => y.afterRow f.d f.last x (f.res s t n).mask (f.res s t n).fl
      (s.me.pc + 8)).append s.myGang.p s.myGang.job w.bytes (locs.zip x.el.toList)).modMe (Hart.advance k n)) := by
  generalize hV : (fun y : Hart => { ((y.setV? (f.d.map vdReg) x).setV? f.last x).setM? (f.res s t n).mask with
    fcsr := y.fcsr ||| (f.res s t n).fl }) = V
  have hkeep (y : Hart) : (V y).st = y.st ∧ (V y).pc = y.pc ∧ (V y).str = y.str := by
    obtain ⟨hst, hpc, hstr, -⟩ := Hart.row_keeps y (f.d.map vdReg) f.last x (f.res s t n).mask
    rw [← hV]
    exact ⟨hst, hpc, hstr⟩
  have hrow : (s.writeV f.d f.last x (f.res s t n).mask).flag (f.res s t n).fl = s.modMe V := by
    have hat : (s.writeV f.d f.last x (f.res s t n).mask).atS = false :=
      (State.atS_modMe h _ fun y => (Hart.row_keeps y _ _ _ _).1).trans hu
    rw [State.flag_user hat, State.writeV, State.modMe_modMe, ← hV]
    refine congrArg s.modMe (funext fun y => ?_)
    have hf := (Hart.row_keeps y (f.d.map vdReg) f.last x (f.res s t n).mask).2.2.2
    rw [Function.comp, hf]
  have hat : (s.modMe V).atS = false := (State.atS_modMe h V fun y => (hkeep y).1).trans hu
  have hsink : (s.modMe V).sink f.d = some (k, w) := by
    unfold State.sink at hk ⊢
    rw [State.me_modMe h, ← hk]
    exact congrArg f.d.bind (funext fun d => Hart.bound_eq (hkeep s.me).2.2 d.val)
  have hgang : (s.modMe V).myGang.diverged = false := by rw [State.myGang_modMe h]; exact hdiv
  have hA : ((s.modMe V).append s.myGang.p s.myGang.job w.bytes (locs.zip x.el.toList)).modMe (Hart.advance k n) =
      (s.append s.myGang.p s.myGang.job w.bytes (locs.zip x.el.toList)).modMe (Hart.advance k n ∘ V) := by
    rw [State.append_modMe, State.modMe_modMe]
  generalize hAA : s.append s.myGang.p s.myGang.job w.bytes (locs.zip x.el.toList) = A at hA
  have hAl : A.live := by
    rw [← hAA]
    obtain ⟨hg, hc⟩ := State.append_keeps s.myGang.p s.myGang.job w.bytes (locs.zip x.el.toList) s
    exact State.live_of_gangs hg.symm hc.symm h
  have hAme : A.me = s.me := by
    rw [← hAA]
    obtain ⟨hg, hc⟩ := State.append_keeps s.myGang.p s.myGang.job w.bytes (locs.zip x.el.toList) s
    exact State.me_of_gangs hg hc
  have hwrite : s.vecWrite f t r n locs = .next (A.modMe (Hart.advance k n ∘ V)).retired := by
    rw [← hA]
    simp only [State.vecWrite, hx, hrow, hsink, State.pair_eq hgang]
    rfl
  have hAat : (A.modMe (Hart.advance k n ∘ V)).atS = false := by
    rw [State.atS_modMe hAl (Hart.advance k n ∘ V) fun y => (hkeep y).1, State.atS, hAme]; exact hu
  have hpc : (A.modMe (Hart.advance k n ∘ V)).me.pc = s.me.pc := by
    rw [State.me_modMe hAl, hAme]; exact (hkeep s.me).2.1
  rw [hwrite, State.append_modMe, hAA, State.modMe_modMe, State.retired, State.goto_user hAat, State.pcv_user hAat, hpc,
    State.modMe_modMe]
  refine congrArg (fun F => Host.Outcome.next (A.modMe F)) (funext fun y => ?_)
  rw [← hV]
  rfl

/-! ### Rows written after pops -/

/-- A vector step from a state that reads lead to. -/
theorem VecStepBut.of_reads {eh : Hart → Hart} {es : State → State} {u x t : State} {r : VRow} {m : Loc → Byte}
    (hx : u.ReadsTo x) (hl : u.live) (hes : ∀ a b : State, a.sansReads = b.sansReads → es a = es b)
    (h : VecStepBut eh hideNone es x t r m) : VecStepBut eh hideNone es u t r m := by
  have hme := hx.me
  have hm : Moved (fun h => eh h.sansV) hideNone hideNone State.sansReads u x u.byteAt := hx.moved hl
  exact {
    elems := fun k hk e => by rw [h.elems k hk e, hme]
    tags := h.tags
    kept := fun k hk => by rw [h.kept k hk, hme]
    masks := fun k => by rw [h.masks k, hme]
    flags := by rw [h.flags, hme]
    pc := by rw [h.pc, hme]
    ei := h.ei
    memory := h.memory
    level := h.level.trans hx.atS
    frame := (hm.frame.weaken (fun _ _ e => e) (fun _ _ e => e) (fun _ _ e => e) hes).trans h.frame hx.cur hx.atS }
/-- A vector step, then a change of the hart's streams and of memory. -/
theorem VecStep.streamed {es : State → State} {s u t : State} {r : VRow} {m : Loc → Byte} (h : VecStep s u r)
    (hcur : u.cur = s.cur) (hm : Moved Hart.sansStr hideNone hideNone es u t m) {z : Vector Stream 8}
    (hme : t.me = { u.me with str := z }) : VecStepBut Hart.sansStr hideNone es s t r m where
  elems k hk e := by rw [hme]; exact h.elems k hk e
  tags k hk := by rw [hme]; exact h.tags k hk
  kept k hk := by rw [hme]; exact h.kept k hk
  masks k := by rw [hme]; exact h.masks k
  flags := by rw [hme]; exact h.flags
  pc := by rw [hme]; exact h.pc
  ei := by rw [hme]; exact h.ei
  memory := hm.memory
  level := hm.same.atS.trans h.level
  frame := (h.frame.weaken (fun _ _ e => congrArg Hart.sansStr e) (fun _ _ e => e) (fun _ _ e => e)
    fun _ _ e => congrArg es e).trans
    (hm.frame.weaken (fun _ _ e => congrArg Hart.sansV e) (fun _ _ e => e) (fun _ _ e => e) fun _ _ e => e) hcur h.level

section
variable {u x : State} {i : Instr} {srcs : List VsOp} {f : VForm} {t : Tag} {r : VRow} (h : FormsRow u i srcs f t r)
  (hx : u.PopsTo x) (hl : u.live) (hu : u.atS = false)
include h hx hl hu

/-- The row that the form writes. -/
theorem FormsRow.written {y : VReg} (hy : x.formed f.d (f.last.getD 0) r.tag (f.res x t u.me.vl).put = y) :
    (∀ e : Fin 128, y.el[e] = (r.put e.val).getD (u.me.v[r.base].el[e])) ∧
      VecStep x (x.modMe fun h => h.afterRow f.d f.last y (f.res x t u.me.vl).mask (f.res x t u.me.vl).fl (x.me.pc + 8)) r := by
  have hel (e : Fin 128) : y.el[e] = (r.put e.val).getD (u.me.v[r.base].el[e]) := by
    rw [← hy, ← h.row, h.alone x hx.reads.me, State.formed, hx.reads.me]
    show (vgen 128 _)[e] = _
    rw [vgen_getElem, vget_eq]
    rfl
  refine ⟨hel, ?_⟩
  have hstep := VecStep.of_row (hx.reads.live hl) (hx.reads.atS.trans hu) r y (fun e => by rw [hx.reads.me]; exact hel e)
    (by rw [← hy]; rfl)
  rw [h.alone x hx.reads.me]
  have hrow := h.row
  rw [← hrow] at hstep ⊢
  exact hstep

/-- With D bound to no stream, the row is written and nothing else. -/
theorem FormsRow.writes (hd : ∀ d, r.d = some d → u.me.bound d.val = none) :
    ∃ w, x.vecWrite f t r.tag u.me.vl [] = .next w ∧ VecStepBut hideNone hideNone State.sansReads u w r u.byteAt := by
  have hfd : f.d = r.d := congrArg VRow.d h.row
  obtain ⟨-, hstep⟩ := h.written hx hl hu rfl
  refine ⟨_, State.vecWrite_runs (hx.reads.live hl) (hx.reads.atS.trans hu) f t r.tag u.me.vl fun d hfd' => ?_,
    VecStepBut.of_reads hx.reads hl (fun _ _ e => e) ?_⟩
  · rw [hx.reads.me]; exact hd d (hfd.symm.trans hfd')
  · exact { hstep with
      memory := fun l => (hstep.memory l).trans (hx.reads.byteAt l)
      frame := hstep.frame.weaken (fun _ _ e => e) (fun _ _ e => e) (fun _ _ e => e) fun _ _ e => congrArg _ e }

/-- With D bound to a store stream, the row is written, and the first n elements of its value are appended in order. -/
theorem FormsRow.appends (hw : u.memWf) (hdiv : u.myGang.diverged = false) {d : Fin 56} {k : Fin 8} {w : Stream} {n : Nat}
    {al : Nat → Loc} (hd : r.d = some d) (hk : u.me.bound d.val = some (k, w)) (hn : n ≤ 128) (hvl : u.me.vl = n)
    (hr : ∀ e ∈ List.range n, u.writeRefused (al e) w.bytes = false) :
    ∃ v, x.vecWrite f t r.tag u.me.vl ((List.range n).map al) = .next v ∧
      (∀ j, v.me.str[j] = if j = k then { u.me.str[j] with pos := u.me.str[j].pos + n } else u.me.str[j]) ∧
      VecStepBut Hart.sansStr hideNone State.sansMem u v r fun l =>
        (List.range n).foldl (fun m e => putAt m (al e)
          (bytesOfNat w.bytes ((r.put e).getD (vget u.me.v[vdReg d].el e 0)).toNat)) u.byteAt l := by
  have hxl := hx.reads.live hl
  have hfd : f.d = some d := (congrArg VRow.d h.row : f.d = r.d).trans hd
  have hsink : x.sink f.d = some (k, w) := by
    rw [hfd]
    show x.me.bound d.val = _
    rw [hx.reads.me]; exact hk
  have hxdiv : x.myGang.diverged = false := by rw [hx.reads.myGang]; exact hdiv
  generalize hy : x.formed f.d (f.last.getD 0) r.tag (f.res x t u.me.vl).put = y
  obtain ⟨hel, hstep⟩ := h.written hx hl hu hy
  rw [State.vecWrite_appends hxl (hx.reads.atS.trans hu) hxdiv f t r.tag u.me.vl ((List.range n).map al) hsink hy,
    zip_elements hn, hvl]
  rw [hvl] at hstep
  have hwords : ((List.range n).map fun e => (al e, vget y.el e 0)) =
      (List.range n).map fun e => (al e, (r.put e).getD (vget u.me.v[vdReg d].el e 0)) := by
    refine List.map_congr_left fun e he => congrArg (al e, ·) ?_
    have he' : e < 128 := (List.mem_range.mp he).trans_le hn
    have hbase : r.base = vdReg d := by rw [VRow.base, hd]; rfl
    have hv := (hel ⟨e, he'⟩).trans
      (congrArg (fun k : Fin 60 => (r.put e).getD u.me.v[k].el[(⟨e, he'⟩ : Fin 128)]) hbase)
    rw [show vget y.el e 0 = y.el[(⟨e, he'⟩ : Fin 128)] from vget_eq y.el ⟨e, he'⟩ 0, hv,
      show vget u.me.v[vdReg d].el e 0 = u.me.v[vdReg d].el[(⟨e, he'⟩ : Fin 128)] from vget_eq _ ⟨e, he'⟩ 0]
  rw [hwords]
  generalize hT : (x.modMe fun h => h.afterRow f.d f.last y (f.res x t n).mask (f.res x t n).fl (x.me.pc + 8)) = T at hstep ⊢
  have hTl : T.live := by rw [← hT]; exact State.live_modMe hxl _
  have hTw : T.memWf := by
    have e := congrArg State.memWf hx.reads.device
    rw [← hT]; exact e.mpr hw
  have hTr : ∀ e ∈ List.range n, T.writeRefused (al e) w.bytes = false := fun e he => by
    rw [← hT]; exact (hx.refused _ _).trans (hr e he)
  have hTm : T.byteAt = u.byteAt := by
    funext l
    exact (hstep.memory l).trans (hx.reads.byteAt l)
  have hTstr : T.me.str = u.me.str := by
    rw [← hT, State.me_modMe hxl, ← hx.reads.me]
    exact (Hart.row_keeps x.me (f.d.map vdReg) f.last y (f.res x t n).mask).2.2.1
  have hb : w.bytes < 128 := by unfold Stream.bytes; split <;> decide
  have hrun := (State.RunsTo.of_alike (.refl T) hTw T.cur.gang).append x.myGang.p x.myGang.job hb
    (fun e => (r.put e).getD (vget u.me.v[vdReg d].el e 0)) hTr
  obtain ⟨hg, hc⟩ := State.append_keeps x.myGang.p x.myGang.job w.bytes
    ((List.range n).map fun e => (al e, (r.put e).getD (vget u.me.v[vdReg d].el e 0))) T
  generalize T.append x.myGang.p x.myGang.job w.bytes
    ((List.range n).map fun e => (al e, (r.put e).getD (vget u.me.v[vdReg d].el e 0))) = A at hrun hg hc ⊢
  have hme : (A.modMe (Hart.advance k n)).me = T.me.advance k n := by
    rw [State.me_modMe (State.live_of_gangs hg.symm hc.symm hTl), State.me_of_gangs hg hc]
  have hmoved := ((Moved.refl (eh := Hart.sansStr) (eo := hideNone) (eg := hideNone) (es := State.sansBytes) hTl).device hg hc
    hrun.device hrun.memory).modMe (Hart.advance k n) (fun y b => by cases b <;> rfl)
    (fun _ => rfl) (fun _ => rfl) (fun _ => rfl)
    (fun _ => rfl) (fun _ => rfl) fun _ => rfl
  rw [hTm] at hmoved
  refine ⟨_, rfl, fun j => ?_, VecStepBut.of_reads hx.reads hl (fun a b e => ?_) (hstep.streamed (by rw [← hT]; rfl)
    (hmoved.weaken (fun _ _ e => e) (fun _ _ e => e) (fun _ _ e => e) fun _ _ e => State.sansMem_of_sansBytes e) hme)⟩
  · rw [hme, Hart.advance, hTstr]
    by_cases hj : j = k
    · subst hj; rw [if_pos rfl]; exact vmod_getElem_same _ _ _
    · rw [if_neg hj]; exact vmod_getElem_other _ _ _ _ hj
  · exact State.sansMem_of_sansBytes (State.sansBytes_of_sansReads e)
end

/-! ### Streams that have nothing left (R237) -/

/-- A pop of no elements. -/
theorem State.popAll_zero (s : State) (ps : List (Fin 8 × Stream)) : ∃ strips, s.popAll 0 ps = .ok (strips, 0, s) := by
  induction ps with
  | nil => exact ⟨[], rfl⟩
  | cons q ps ih =>
    obtain ⟨strips, hs⟩ := ih
    exact ⟨(q.1, []) :: strips, by simp only [State.popAll, State.popFrom, List.length_nil, hs]⟩
theorem State.cut_zero (s : State) (ps : List (Fin 8 × Stream)) : ps.foldl (fun v q => s.cut v q.2) 0 = 0 := by
  induction ps with
  | nil => rfl
  | cons q ps ih => exact ih

/-- An instruction with a load stream that has no element left sets `vl` to 0. -/
theorem FormsRow.exhausted {s : State} {i : Instr} {srcs : List VsOp} {f : VForm} {t : Tag} {r : VRow} {ps : List (Fin 8)}
    (h : FormsRow s i srcs f t r) (hl : s.live) (hu : s.atS = false) (hvl : s.me.vl ≠ 0) (hp : Pops s srcs ps)
    (hnone : s.stripOf ps = 0) (hd : ∀ d, r.d = some d → s.me.bound d.val = none) (hwait : s.waitsOwn true false [] = false) :
    ∃ w, exec i s = .next w ∧ w.me.vl = 0 ∧
      StepBut (fun h => { h with vl := 0 }) hideNone hideNone hideNone s w s.byteAt := by
  obtain rfl := h.sources
  have hfd : f.d = r.d := congrArg VRow.d h.row
  have hsink : s.sink f.d = none := State.sink_none fun d hd' => hd d (hfd.symm.trans hd')
  have htags := h.vecTags (.refl s) hp fun q hq => by rw [hsink] at hq; cases hq
  obtain ⟨ks, hperm, hpops⟩ := hp.order
  have hwant : (s.pops f.srcs).foldl (fun v q => min v (q.2.count - q.2.pos)) s.me.vl = 0 := by
    rw [← hnone, hpops, List.foldl_map, ← State.stripOf_perm hperm]; rfl
  have htoken : s.streamToken 0 (s.pops f.srcs) = none := State.streamToken_valid fun q hq => by
    obtain ⟨hk, ht⟩ := (hp.mem_pops q).mp hq
    exact (congrArg (fun t : Stream => (s.me.tk[t.tk]).st) ht).trans (hp.tokens _ hk)
  have hwaits : s.waitsOwn true false ((s.pops f.srcs).map fun q => s.stripLocs 0 q.2).flatten = false := by
    have hnil : ((s.pops f.srcs).map fun q => s.stripLocs 0 q.2).flatten = [] :=
      List.flatten_eq_nil_iff.mpr fun l hm => by
        obtain ⟨q, -, rfl⟩ := List.mem_map.mp hm
        rfl
    rw [hnil]; exact hwait
  obtain ⟨strips, hpop⟩ := s.popAll_zero (s.pops f.srcs)
  have hexec : exec i s = .next (s.modMe fun h => { h with vl := 0 }).retired := by
    rw [h.runs s (.refl s)]
    simp only [State.vec, State.userOnly_eq hu, htags, if_neg hvl, State.vecStreams, hwant, State.cut_zero,
      hsink, htoken, hwaits,
      hpop, Option.toList_none, List.append_nil, ne_eq, not_true_eq_false, false_and, if_false, Bool.and_false,
      Bool.false_eq_true, if_true]
    rfl
  have hmoved : Moved (fun h => { h with vl := 0 }) hideNone hideNone hideNone s
      (s.modMe fun h => { h with vl := 0 }) s.byteAt :=
    (Moved.refl hl).modMe _ (fun _ b => by cases b <;> rfl) (fun _ => rfl) (fun _ => rfl) (fun _ => rfl) (fun _ => rfl)
      (fun _ => rfl) fun _ => rfl
  refine ⟨_, hexec, ?_, hmoved.retire⟩
  rw [State.me_retired hmoved.same.live (hmoved.same.atS.trans hu), State.me_modMe hl]
  rfl

end Sys2Proof.Machine
end


section
/-!
SUPPORT. Streams bound, unbound and read (R235, R236, R241), and the statement about streams, O43.
-/

namespace Sys2Proof.Machine

/-! ### `SBIND`, `SUNBIND` and `SSTAT` -/

theorem StreamRecord.accepted {q : List Word} (h : StreamRecord q) : badStream q = false := by
  have hsx : (bit (nth q 3) 6 && bit (nth q 3) 4) = false := Bool.eq_false_iff.mpr fun e => h.sx (by simpa using e)
  simp only [badStream, h.q0, h.q2, h.q3.1, h.q3.2, hsx, bne_self_eq_false, Bool.or_self]

/-- A hart with a stream bound to its register, which takes the tag of the stream (R236). -/
def Hart.bind (h : Hart) (d : Fin 8) (r : Fin 60) (t : Stream) : Hart :=
  { h with str := vput h.str d t, v := vmod h.v r fun v => { v with tag := t.tag, dirty := v.dirty || v.tag != t.tag } }
theorem Hart.bind_v_same (h : Hart) (d : Fin 8) (r : Fin 60) (t : Stream) :
    (h.bind d r t).v[r] = { h.v[r] with tag := t.tag, dirty := h.v[r].dirty || h.v[r].tag != t.tag } :=
  vmod_getElem_same _ _ _
/-- `SBIND` of a legal record binds the register at position 0. -/
theorem execSbind_binds {s : State} (hu : s.atS = false) {d : VbOp} {a : Fin 48} {r : Fin 60} {u : Stream}
    (hr : r.val = d.val + 40) (hrec : StreamRecord (s.record a 4))
    (hu' : u = { bound := true, q0 := nth (s.record a 4) 0, q1 := nth (s.record a 4) 1, q2 := nth (s.record a 4) 2,
                 q3 := nth (s.record a 4) 3, pos := 0,
                 tag := tagOfRaw s.me.v[r].tag (if bits (nth (s.record a 4) 3) 5 4 = 0 then 4 else 8)
                   (bit (nth (s.record a 4) 3) 6) })
    (hb : s.me.str[d].bound = false) (hun : s.recUntyped a = none) (hty : s.recType a = none)
    (hst : ¬ (bit (nth (s.record a 4) 3) 0 = true ∧ s.me.v[r].tag = .none)) (htk : (s.me.tk[u.tk]).st = .valid) :
    exec (.sbind d a) s = .next (s.modMe fun h => h.bind d r u).retired := by
  have hlt : d.val + 40 < 60 := by omega
  obtain rfl : r = ⟨d.val + 40, hlt⟩ := Fin.ext hr
  have hstore : (bit (nth (s.record a 4) 3) 0 && s.me.v[(⟨d.val + 40, hlt⟩ : Fin 60)].tag == .none) = false :=
    Bool.eq_false_iff.mpr fun e => hst (by simpa using e)
  have htoken : (s.me.tk[u.tk]).stateTrap u.tk = none := by rw [Token.stateTrap, htk]
  subst hu'
  rw [exec_sbind, execSbind, State.userOnly_eq hu]
  dsimp only
  rw [hrec.accepted]
  simp only [firstTrap, hun, hb, hty, failIf, Bool.false_eq_true, if_false, List.findSome?, id]
  refine (if_neg fun e => Bool.false_ne_true (hstore.symm.trans e)).trans ?_
  split
  next x hx =>
    have e := hx.symm.trans htoken
    cases e
  next =>
    simp only [rawTag_eq_tagOfRaw]
    rfl

/-- A hart without its streams and vector registers. -/
def Hart.sansStrV (h : Hart) : Hart := { h with str := Vector.replicate 8 Stream.empty, v := Vector.replicate 60 VReg.empty }
theorem Moved.bind {s : State} (hl : s.live) (d : Fin 8) (r : Fin 60) (t : Stream) :
    Moved Hart.sansStrV hideNone hideNone hideNone s (s.modMe fun h => h.bind d r t) s.byteAt :=
  (Moved.refl hl).modMe _ (fun _ b => by cases b <;> rfl) (fun _ => rfl) (fun _ => rfl) (fun _ => rfl) (fun _ => rfl)
    (fun _ => rfl) fun _ => rfl
theorem Moved.unbind {s : State} (hl : s.live) (d : Fin 8) :
    Moved Hart.sansStr hideNone hideNone hideNone s (s.modMe fun h => { h with str := vput h.str d Stream.empty }) s.byteAt :=
  (Moved.refl hl).modMe _ (fun _ b => by cases b <;> rfl) (fun _ => rfl) (fun _ => rfl) (fun _ => rfl) (fun _ => rfl)
    (fun _ => rfl) fun _ => rfl
/-- The value of Table 10-3. -/
theorem Stream.stat_eq (t : Stream) : t.stat =
    if t.bound = false then 0
    else Machine.word (2 ^ 63 + (if bit t.q3 0 then 2 ^ 62 else 0)
      + (if t.pos = bits t.q2 47 0 then 2 ^ 61 else 0) + t.pos) := by
  unfold Stream.stat
  cases t.bound <;> rfl

/-! ### Strips popped, and a row written -/

section
variable {s : State} (hl : s.live) (ps : List (Fin 8)) (n : Nat) (at_ : Fin 8 → Nat → Loc)
include hl
theorem State.delivered_vl : (s.delivered ps n at_).me.vl = n := by rw [State.me_delivered hl]
theorem State.delivered_str (j : Fin 8) : (s.delivered ps n at_).me.str[j] =
    if j ∈ ps then { s.me.str[j] with pos := s.me.str[j].pos + n } else s.me.str[j] := by
  have hstr : (s.delivered ps n at_).me.str = (s.me.delivered ps n (fun k e => s.me.str[k].word s (at_ k e))).str := by
    rw [State.me_delivered hl]
  rw [hstr]
  exact Hart.delivered_str j
/-- A register is bound before the delivery when it is bound after it. -/
theorem State.bound_none_delivered {r : Nat} (h : s.me.bound r = none) : (s.delivered ps n at_).me.bound r = none := by
  refine Option.eq_none_iff_forall_ne_some.mpr fun q hq => ?_
  obtain ⟨k, t⟩ := q
  obtain ⟨hr, hb, -⟩ := Hart.bound_eq_some.mp hq
  have hbound : s.me.str[k].bound = true := by
    rw [State.delivered_str hl] at hb
    split at hb <;> exact hb
  have hsome := Hart.bound_eq_some.mpr ⟨hr, hbound, rfl⟩
  rw [h] at hsome
  cases hsome
end

section
variable {s : State} {i : Instr} {srcs : List VsOp} {r : VRow} {ps : List (Fin 8)} {n : Nat} {at_ : Fin 8 → Nat → Loc}
  (hl : s.live) (hu : s.atS = false) (hvl : s.me.vl ≠ 0) (hp : Pops s srcs ps) (hs : Strips s ps n at_)
  (hrow : RowOp (s.delivered ps n at_) i srcs r)
include hl hu hvl hp hs hrow

/-- An instruction that pops streams and writes no stream writes its row on the state in which its strips are delivered. -/
theorem RowOp.pops (hd : ∀ d, r.d = some d → s.me.bound d.val = none)
    (hwait : s.waitsOwn true false ((ps.map fun k => s.stripLocs (s.stripOf ps) s.me.str[k]).flatten) = false) :
    ∃ t, exec i s = .next t ∧ VecStepBut hideNone hideNone State.sansReads (s.delivered ps n at_) t r s.byteAt := by
  obtain ⟨f, t, h⟩ := hrow.hasForm
  obtain rfl := h.sources
  have hfd : f.d = r.d := congrArg VRow.d h.row
  have hsink : s.sink f.d = none := State.sink_none fun d hd' => hd d (hfd.symm.trans hd')
  have hnone {P : Fin 8 × Stream → Prop} (q : Fin 8 × Stream) (hq : s.sink f.d = some q) : P q := by rw [hsink] at hq; cases hq
  have hlength := h.length
  rw [State.delivered_vl hl] at hlength
  obtain ⟨x, hx, hvec⟩ := State.vec_pops hl hu hvl hp hs (h.vecTags (.delivered hl) hp hnone) hlength hnone (locs := [])
    (by rw [hsink, Option.toList_none, List.map_nil, List.append_nil]; exact hwait) (by rw [hsink]; rfl)
  obtain ⟨w, hw, hstep⟩ := h.writes hx (State.live_modMe hl _) ((State.atS_delivered hl).trans hu)
    fun d hd' => State.bound_none_delivered hl ps n at_ (hd d hd')
  rw [State.delivered_vl hl] at hw
  exact ⟨w, (h.runs s (.delivered hl)).trans (hvec.trans hw), hstep⟩

/-- An instruction that pops streams and writes a store stream also appends the first elements of its value. -/
theorem RowOp.appends (hw : s.memWf) (hmax : s.me.vl ≤ 128) {d : Fin 56} {k : Fin 8} {w : Stream} {al : Nat → Loc}
    (hd : r.d = some d) (hk : d.val = k.val + 40) (hws : w = s.me.str[k]) (hb : w.bound = true) (hst : bit w.q3 0 = true)
    (htag : w.tag = r.tag) (htk : (s.me.tk[w.tk]).st = .valid) (hdiv : s.myGang.diverged = false)
    (hwait : s.waitsOwn true false
      (((ps.map fun k => s.stripLocs (s.stripOf ps) s.me.str[k]) ++ [s.stripLocs (s.stripOf ps) w]).flatten) = false)
    (happ : ∀ e, e < n → w.pos + e < bits w.q2 47 0 ∧ (∃ pin, s.streamAt w true (w.pos + e) (al e) pin) ∧
      s.writeRefused (al e) w.bytes = false ∧ (al e).kind ≠ .io) :
    ∃ t, exec i s = .next t ∧ t.me.str[k] = { w with pos := w.pos + n } ∧
      (∀ j, j ≠ k → t.me.str[j] = (s.delivered ps n at_).me.str[j]) ∧
      VecStepBut Hart.sansStr hideNone State.sansMem (s.delivered ps n at_) t r fun l =>
        (List.range n).foldl (fun m e => putAt m (al e)
          (bytesOfNat w.bytes ((r.put e).getD (vget (s.delivered ps n at_).me.v[vdReg d].el e 0)).toNat)) s.byteAt l := by
  obtain ⟨f, t, h⟩ := hrow.hasForm
  obtain rfl := h.sources
  have hfd : f.d = some d := (congrArg VRow.d h.row : f.d = r.d).trans hd
  have hsink : s.sink f.d = some (k, w) := by
    rw [hfd]
    exact Hart.bound_eq_some.mpr ⟨hk, hws ▸ hb, hws⟩
  have hdest {P : Fin 8 × Stream → Prop} (hP : P (k, w)) (q : Fin 8 × Stream) (hq : s.sink f.d = some q) : P q := by
    rw [hsink] at hq; cases hq; exact hP
  have hkp : k ∉ ps := fun hm => by
    have hload := hp.loads k hm
    rw [← hws, hst] at hload
    cases hload
  have hstr : (s.delivered ps n at_).me.str[k] = w := by rw [State.delivered_str hl, if_neg hkp, hws]
  have hlength := h.length
  rw [State.delivered_vl hl] at hlength
  have hn : n ≤ 128 := by
    obtain ⟨M, hM, -⟩ := hs.lengths
    have hle := ((le_foldl_min M ps _ _).mp hM.ge).1
    have hstrip := ((le_foldl_min _ ps _ _).mp (le_refl (s.stripOf ps))).1
    omega
  obtain ⟨x, hx, hvec⟩ := State.vec_pops hl hu hvl hp hs (h.vecTags (.delivered hl) hp (hdest ⟨hst, htag⟩)) hlength (hdest htk)
    (locs := (List.range n).map al) (by rw [hsink, Option.toList_some, List.map_singleton]; exact hwait)
    (by
      rw [hsink]
      exact Hart.appendCheck_ok fun e he => ⟨(happ e he).1, (happ e he).2.1⟩)
  obtain ⟨v, hv, hvstr, hstep⟩ := h.appends hx (State.live_modMe hl _) ((State.atS_delivered hl).trans hu) hw
    (by
      have hgang := State.myGang_modMe hl fun h => { h.delivered ps n (fun k e => h.str[k].word s (at_ k e)) with vl := n }
      rw [← State.delivered_eq] at hgang
      rw [hgang]; exact hdiv)
    hd (Hart.bound_eq_some.mpr ⟨hk, by rw [hstr]; exact hb, hstr.symm⟩) hn (State.delivered_vl hl ps n at_)
    fun e he => (happ e (List.mem_range.mp he)).2.2.1
  rw [State.delivered_vl hl] at hv
  refine ⟨v, (h.runs s (.delivered hl)).trans (hvec.trans hv), ?_, fun j hj => ?_, hstep⟩
  · rw [hvstr, if_pos rfl, hstr]
  · rw [hvstr, if_neg hj]
end

/-- Settles O43: streams bound, unbound and read; strips popped and appended; a stream with nothing left. -/
theorem streamsPopAndAppendStrips : Obligations.StreamsPopAndAppendStrips := by
  unfold Obligations.StreamsPopAndAppendStrips
  refine ⟨fun s d a g q u r hl hu hq hr hu' => ⟨fun hrec hb hun hty hst htk => ?bind, ?unbind, ?stat⟩,
    fun s u i srcs r ps n at_ hl hw hu hvl hmax hp hs hu' hrow => ⟨fun hd hwait => ?pops,
      fun d k w al hd hk hws hb hst htag htk hdiv hwait happ => ?appends⟩,
    fun s i srcs r ps hl hu hvl hp _ hnone hrow hd hwait => ?exhausted⟩
  case bind =>
    subst hq
    have hmoved := Moved.bind hl d r u
    have hme : (s.modMe fun h => h.bind d r u).retired.me = (s.me.bind d r u).retire (s.me.pc + 8) := by
      rw [State.me_retired hmoved.same.live (hmoved.same.atS.trans hu), State.me_modMe hl]
      rfl
    refine ⟨_, execSbind_binds hu hr hrec hu' hb hun hty hst htk, fun k => ?_, ?_, ?_, fun k hk => ?_, hmoved.retire⟩
    · rw [hme]; exact (vput_getElem _ _ _ _).trans (if_congr eq_comm rfl rfl)
    · rw [hme]; exact congrArg VReg.tag (Hart.bind_v_same s.me d r u)
    · have e := congrArg VReg.el (Hart.bind_v_same s.me d r u)
      rw [hme]; exact e
    · rw [hme]; exact vmod_getElem_other s.me.v r k _ hk
  case unbind =>
    have hmoved := Moved.unbind hl d
    refine ⟨_, by rw [exec_sunbind, execSunbind, State.userOnly_eq hu]; rfl, fun k => ?_, hmoved.retire⟩
    rw [State.me_retired hmoved.same.live (hmoved.same.atS.trans hu), State.me_modMe hl]
    exact (vput_getElem _ _ _ _).trans (if_congr eq_comm rfl rfl)
  case stat =>
    rw [exec_sstat, execSstat, State.userOnly_eq hu, ← Stream.stat_eq]
    exact RegStep.of_retire hl g _
  case pops =>
    subst hu'
    exact hrow.pops hl hu hvl hp hs hd hwait
  case appends =>
    subst hu'
    exact hrow.appends hl hu hvl hp hs hw hmax hd hk hws hb hst htag htk hdiv hwait happ
  case exhausted =>
    obtain ⟨F, t, hform⟩ := hrow.hasForm
    exact hform.exhausted hl hu hvl hp hnone hd hwait

end Sys2Proof.Machine
end
